-- ==== Sys2Proof/Word.lean ====
section
/-! DEFINITION. The word types of Ixosh (02 R13, 07 R154) and their plainest names. -/
namespace Sys2Proof

/-- A byte of memory. -/
abbrev Byte := BitVec 8

/-- The value one lane holds in a window register (R127), and one word of an instruction (R13). -/
abbrev W32 := BitVec 32

/-- A scalar register, an address while it is formed, a CSR (R132, R50). -/
abbrev W64 := BitVec 64

/-- A set of lanes of one group, or the 64 bits of a predicate: lane `i` is bit `i` (R133). -/
abbrev Mask := BitVec 64

end Sys2Proof
end

