-- ==== Sys2Proof/Syntax.lean ====
section
/-! DEFINITION. The syntax: the fields of the words of an instruction (02 R22 to R33, R35) and one constructor
for each row of spec/opcode_table.json. An instruction carries the fields of its words as they stand; what
the fields mean, and which values of them are refused, is Machine/Forms.lean and the meanings. The rows of the
table without words are the steps of the machine that no instruction word names; each carries the
objects it acts on. -/
namespace Sys2Proof

/-- The two extended words (R27, R31), which are always both present. -/
structure Ext where
  /-- [63:60] per-family modifier (R33). -/
  xmod : BitVec 4
  /-- [59] execute where the predicate is false (R30). -/
  pinv : Bool
  /-- [58:56] execution predicate; 7 is unpredicated. -/
  pred : BitVec 3
  /-- [55:50] third source. -/
  c : BitVec 6
  /-- [49:41] permutation of source B: pattern in its bits [2:0], amount in [8:3]. -/
  pb : BitVec 9
  /-- [40:32] permutation of source A. -/
  pa : BitVec 9
  /-- [95:88] must be zero (R32). -/
  zero : BitVec 8
  /-- [87:85] replacement hint. -/
  hint : BitVec 3
  /-- [84] D counts from LO of the register stack (R130). -/
  abs : Bool
  /-- [83:81] predicate a non-blocking operation writes (R34). -/
  nbp : BitVec 3
  /-- [80] non-blocking. -/
  nb : Bool
  /-- [79:76] scope. -/
  scope : BitVec 4
  /-- [75:64] place: kind in its bits [11:10], index in [9:0]. -/
  place : BitVec 12
deriving DecidableEq, Repr

/-- The fields of an instruction's words except MAJ, MIN and LEN, which its constructor and the presence
of `ext` and `lit` give (R22, R24). -/
structure Ops where
  /-- [31] flag selector. -/
  fs : Bool
  /-- [25:20]. -/
  b : BitVec 6
  /-- [19:14]. -/
  a : BitVec 6
  /-- [13:8]. -/
  d : BitVec 6
  /-- Extended words 1 and 2. -/
  ext : Option Ext
  /-- The literal. -/
  lit : Option (BitVec 64)
deriving DecidableEq, Repr

/-- A clause header (R35). -/
structure Header where
  /-- [31:28] number of instructions minus one. -/
  cnt : BitVec 4
  /-- [27:24] flag B of the clause. -/
  setb : BitVec 4
  /-- [23:20] flag A of the clause. -/
  seta : BitVec 4
  /-- [19:8] flags to wait for. -/
  wait : BitVec 12
deriving DecidableEq, Repr

/-- A queue of the storage port, and the agent that the kernel binds to it with this transfer, if it binds one (R49, R395). -/
structure PortQueue where
  queue : Nat
  bind : Option Nat := none
deriving DecidableEq, Repr

/-- One constructor per row of spec/opcode_table.json. -/
inductive Instr where
  /-- CLAUSE_BOUNDARY (R138). -/
  | clauseBoundary (h : Header)
  /-- ISSUE_ARBITRATION (R295). -/
  | issueArbitration
  /-- BANK_ARBITRATION (R297). -/
  | bankArbitration (tile : Nat)
  /-- VL_COMPLETE (R38). -/
  | vlComplete (entry : Nat) (lanes : Nat)
  /-- LOCAL_TRAP_ENTRY (R361). -/
  | localTrapEntry (grp : Nat)
  /-- STORE_PERFORM_HOME (R72). -/
  | storePerformHome (tile : Nat) (n : Nat)
  /-- HOME_ATOMIC_PERFORM (R86). -/
  | homeAtomicPerform (tile : Nat) (n : Nat)
  /-- TILE_CACHE_LINE_DROP (R70). -/
  | tileCacheLineDrop (tile : Nat) (line : Nat)
  /-- TRANSLATION_WALK (R55). -/
  | translationWalk (master : Nat) (va : Nat) (asid : Nat) (vmid : Nat) (kind : Nat)
  /-- DIRTY_GATHER_WRITEBACK (R58). -/
  | dirtyGatherWriteback (die : Nat) (n : Nat)
  /-- FAULT_RECORD_POST (R368). -/
  | faultRecordPost (die : Nat)
  /-- UNCORRECTABLE_ERROR (R371). -/
  | uncorrectableError (addr : Nat)
  /-- CORRECTED_ERROR (R48). -/
  | correctedError
  /-- COPY_TRANSFER (R106). -/
  | copyTransfer (copy : Nat) (lane : Nat)
  /-- REMOTE_DELIVERY (R109). -/
  | remoteDelivery (copy : Nat) (lane : Nat) (recv : Nat)
  /-- ACK_ARRIVAL (R122). -/
  | ackArrival (n : Nat)
  /-- MACRO_OP_STEP (R214). -/
  | macroOpStep (entry : Nat)
  /-- DRAIN_PERFORM (R220). -/
  | drainPerform (entry : Nat)
  /-- RLXOPEN_JOIN (R232). -/
  | rlxopenJoin (team : Nat)
  /-- KILN_PASS_END (R237). -/
  | kilnPassEnd (team : Nat)
  /-- KILN_PASS_ABANDON (R248). -/
  | kilnPassAbandon (team : Nat)
  /-- RLXCLOSE_JOIN (R243). -/
  | rlxcloseJoin (team : Nat)
  /-- LAUNCH_READY (R289). -/
  | launchReady (work : Nat)
  /-- DEPCTR_REGISTER (R308). -/
  | depctrRegister (work : Nat)
  /-- GANG_PLACE (R291). -/
  | gangPlace (work : Nat)
  /-- TENANT_SERVE (R310). -/
  | tenantServe (die : Nat) (cls : Nat)
  /-- DEFICIT_CHARGE (R310). -/
  | deficitCharge (die : Nat)
  /-- CLASS0_PREEMPT (R311). -/
  | class0Preempt (die : Nat)
  /-- GANG_STOP (R372). -/
  | gangStop (gang : Nat)
  /-- CONTEXT_RESTORE (R375). -/
  | contextRestore (gang : Nat)
  /-- GROUP_RETIRE (R299). -/
  | groupRetire (grp : Nat)
  /-- TEAM_RETIRE (R299). -/
  | teamRetire (team : Nat)
  /-- LAUNCH_RETIRE (R301). -/
  | launchRetire (work : Nat)
  /-- JOB_READY (R304). -/
  | jobReady (work : Nat)
  /-- JOB_DEAL (R306). -/
  | jobDeal (work : Nat)
  /-- JOB_COMPLETE (R307). -/
  | jobComplete (work : Nat)
  /-- CHILD_COMPLETION (R307). -/
  | childCompletion (work : Nat)
  /-- EMBER_ADVANCE (R320). -/
  | emberAdvance (work : Nat)
  /-- MAILBOX_DELIVERY (R316). -/
  | mailboxDelivery (die : Nat) (n : Nat)
  /-- TURN_START (R330). -/
  | turnStart (die : Nat)
  /-- TURN_ABANDON (R332). -/
  | turnAbandon (die : Nat) (n : Nat)
  /-- TURN_EXCHANGE_END (R333). -/
  | turnExchangeEnd (die : Nat) (n : Nat)
  /-- SWALLOW_PATTERN_APPLY (R344). -/
  | swallowPatternApply (cluster : Nat)
  /-- DROOP_DETECT (R347). -/
  | droopDetect (cluster : Nat)
  /-- STRETCH_END (R347). -/
  | stretchEnd (cluster : Nat)
  /-- HALF_END (R347). -/
  | halfEnd (cluster : Nat)
  /-- DEADLINE_EXPIRY (R352). -/
  | deadlineExpiry (grp : Nat)
  /-- TILE_HOT (R403). -/
  | tileHot (tile : Nat)
  /-- OVER_TEMPERATURE_STOP (R405). -/
  | overTemperatureStop (tile : Nat)
  /-- TILE_FAILURE (R376). -/
  | tileFailure (tile : Nat) (rows : Nat)
  /-- QP_ENTRY_START (R384). -/
  | qpEntryStart (die : Nat) (qp : Nat)
  /-- QP_LOCAL_COMPLETE (R385). -/
  | qpLocalComplete (die : Nat) (qp : Nat) (n : Nat)
  /-- QP_REMOTE_WRITE (R385). -/
  | qpRemoteWrite (die : Nat) (n : Nat)
  /-- QP_ACK (R385). -/
  | qpAck (die : Nat) (qp : Nat) (n : Nat)
  /-- WRED_CONTRIBUTION (R386). -/
  | wredContribution (die : Nat) (n : Nat)
  /-- WRED_SWEEP (R386). -/
  | wredSweep (die : Nat) (n : Nat)
  /-- ROUTE_ENTRY (R390). -/
  | routeEntry (die : Nat) (qp : Nat) (n : Nat)
  /-- TOKSORT_COMPLETE (R389). -/
  | toksortComplete (die : Nat) (n : Nat)
  /-- CQ_LAUNCH (R394). -/
  | cqLaunch (die : Nat)
  /-- CQ_POST (R394). -/
  | cqPost (die : Nat)
  /-- CQ_WAIT (R394). -/
  | cqWait (die : Nat)
  /-- CQ_ADD (R394). -/
  | cqAdd (die : Nat)
  /-- CKPT_GO (R397). -/
  | ckptGo
  /-- CKPT_COMPLETE (R397). -/
  | ckptComplete (ok : Bool)
  /-- CKPT_ERR_CLEAR (R397). -/
  | ckptErrClear
  /-- HOST_WRITE (R272). -/
  | hostWrite (addr : Nat) (bytes : List (BitVec 8))
  /-- HOST_READ (R272). -/
  | hostRead (addr : Nat) (width : Nat)
  /-- MODULE_RESET (R399). -/
  | moduleReset
  /-- AELMEL_VERIFY (R399). -/
  | aelmelVerify
  /-- AELMEL_BOOT (R399). -/
  | aelmelBoot
  /-- AELCMD_VERIFY_BOOT (R400). -/
  | aelcmdVerifyBoot
  /-- AELCMD_ATTEST (R401). -/
  | aelcmdAttest
  /-- RECBUF_WRITE (R400). -/
  | recbufWrite (off : Nat) (bytes : List (BitVec 8))
  /-- WFI_WAKE (R378). -/
  | wfiWake (core : Nat)
  /-- STOKER_HALT_ON_FAULT (R369). -/
  | stokerHaltOnFault (core : Nat)
  /-- WINSTAT_WRITE (R128). -/
  | winstatWrite (o : Ops)
  /-- FLAGS_WRITE (R164). -/
  | flagsWrite (o : Ops)
  /-- FLAGS_READ (R164). -/
  | flagsRead (o : Ops)
  /-- SPILLBASE_WRITE (R146). -/
  | spillbaseWrite (o : Ops)
  /-- TRAPPC_WRITE (R362). -/
  | trappcWrite (o : Ops)
  /-- QUOTA_CSR_WRITE (R52). -/
  | quotaCsrWrite (o : Ops)
  /-- TURN_PERIOD_WRITE (R327). -/
  | turnPeriodWrite (o : Ops)
  /-- SWALLOW_WRITE (R344). -/
  | swallowWrite (o : Ops)
  /-- DROOPTH_WRITE (R346). -/
  | droopthWrite (o : Ops)
  /-- DAMPCFG_WRITE (R347). -/
  | dampcfgWrite (o : Ops)
  /-- SLEWBUDGET_WRITE (R345). -/
  | slewbudgetWrite (o : Ops)
  /-- PLACETAB_SELECT (R338). -/
  | placetabSelect (o : Ops)
  /-- HEALTH_WRITE (R403). -/
  | healthWrite (o : Ops)
  /-- HEALTH_READ (R403). -/
  | healthRead (o : Ops)
  /-- RINGBASE_WRITE (R367). -/
  | ringbaseWrite (o : Ops)
  /-- CTXPOOL_WRITE (R374). -/
  | ctxpoolWrite (o : Ops)
  /-- COLLCFG_WRITE (R381). -/
  | collcfgWrite (o : Ops)
  /-- IADD (R179). -/
  | iadd (o : Ops)
  /-- ISUB (R179). -/
  | isub (o : Ops)
  /-- IMUL (R179). -/
  | imul (o : Ops)
  /-- IMULH (R179). -/
  | imulh (o : Ops)
  /-- IMULHN (R179). -/
  | imulhn (o : Ops)
  /-- IMAD (R179). -/
  | imad (o : Ops)
  /-- IMIN (R179). -/
  | imin (o : Ops)
  /-- IMAX (R179). -/
  | imax (o : Ops)
  /-- NMIN (R179). -/
  | nmin (o : Ops)
  /-- NMAX (R179). -/
  | nmax (o : Ops)
  /-- IABS (R179). -/
  | iabs (o : Ops)
  /-- INEG (R179). -/
  | ineg (o : Ops)
  /-- AND (R179). -/
  | and (o : Ops)
  /-- OR (R179). -/
  | or (o : Ops)
  /-- XOR (R179). -/
  | xor (o : Ops)
  /-- ANDN (R179). -/
  | andn (o : Ops)
  /-- NOT (R179). -/
  | not (o : Ops)
  /-- SHL (R179). -/
  | shl (o : Ops)
  /-- SHR (R179). -/
  | shr (o : Ops)
  /-- SAR (R179). -/
  | sar (o : Ops)
  /-- ROTL (R179). -/
  | rotl (o : Ops)
  /-- CLZ (R179). -/
  | clz (o : Ops)
  /-- POPC (R179). -/
  | popc (o : Ops)
  /-- BREV (R179). -/
  | brev (o : Ops)
  /-- SADD (R179). -/
  | sadd (o : Ops)
  /-- SSUB (R179). -/
  | ssub (o : Ops)
  /-- SEL (R181). -/
  | sel (o : Ops)
  /-- BFX (R180). -/
  | bfx (o : Ops)
  /-- BFI (R180). -/
  | bfi (o : Ops)
  /-- IDIV (R180). -/
  | idiv (o : Ops)
  /-- IREM (R180). -/
  | irem (o : Ops)
  /-- IADD_S (R179). -/
  | iaddS (o : Ops)
  /-- ISUB_S (R179). -/
  | isubS (o : Ops)
  /-- IMUL_S (R179). -/
  | imulS (o : Ops)
  /-- IMULH_S (R179). -/
  | imulhS (o : Ops)
  /-- IMULHN_S (R179). -/
  | imulhnS (o : Ops)
  /-- IMAD_S (R179). -/
  | imadS (o : Ops)
  /-- IMIN_S (R179). -/
  | iminS (o : Ops)
  /-- IMAX_S (R179). -/
  | imaxS (o : Ops)
  /-- NMIN_S (R179). -/
  | nminS (o : Ops)
  /-- NMAX_S (R179). -/
  | nmaxS (o : Ops)
  /-- IABS_S (R179). -/
  | iabsS (o : Ops)
  /-- INEG_S (R179). -/
  | inegS (o : Ops)
  /-- AND_S (R179). -/
  | andS (o : Ops)
  /-- OR_S (R179). -/
  | orS (o : Ops)
  /-- XOR_S (R179). -/
  | xorS (o : Ops)
  /-- ANDN_S (R179). -/
  | andnS (o : Ops)
  /-- NOT_S (R179). -/
  | notS (o : Ops)
  /-- SHL_S (R179). -/
  | shlS (o : Ops)
  /-- SHR_S (R179). -/
  | shrS (o : Ops)
  /-- SAR_S (R179). -/
  | sarS (o : Ops)
  /-- ROTL_S (R179). -/
  | rotlS (o : Ops)
  /-- CLZ_S (R179). -/
  | clzS (o : Ops)
  /-- POPC_S (R179). -/
  | popcS (o : Ops)
  /-- BREV_S (R179). -/
  | brevS (o : Ops)
  /-- SADD_S (R179). -/
  | saddS (o : Ops)
  /-- SSUB_S (R179). -/
  | ssubS (o : Ops)
  /-- SEL_S (R181). -/
  | selS (o : Ops)
  /-- BFX_S (R180). -/
  | bfxS (o : Ops)
  /-- BFI_S (R180). -/
  | bfiS (o : Ops)
  /-- IDIV_S (R180). -/
  | idivS (o : Ops)
  /-- IREM_S (R180). -/
  | iremS (o : Ops)
  /-- ICMPEQ (R182). -/
  | icmpeq (o : Ops)
  /-- ICMPNE (R182). -/
  | icmpne (o : Ops)
  /-- ICMPLT (R182). -/
  | icmplt (o : Ops)
  /-- ICMPLE (R182). -/
  | icmple (o : Ops)
  /-- ICMPGT (R182). -/
  | icmpgt (o : Ops)
  /-- ICMPGE (R182). -/
  | icmpge (o : Ops)
  /-- ICMPLO (R182). -/
  | icmplo (o : Ops)
  /-- ICMPLS (R182). -/
  | icmpls (o : Ops)
  /-- ICMPHI (R182). -/
  | icmphi (o : Ops)
  /-- ICMPHS (R182). -/
  | icmphs (o : Ops)
  /-- ICMPEQ_S (R182). -/
  | icmpeqS (o : Ops)
  /-- ICMPNE_S (R182). -/
  | icmpneS (o : Ops)
  /-- ICMPLT_S (R182). -/
  | icmpltS (o : Ops)
  /-- ICMPLE_S (R182). -/
  | icmpleS (o : Ops)
  /-- ICMPGT_S (R182). -/
  | icmpgtS (o : Ops)
  /-- ICMPGE_S (R182). -/
  | icmpgeS (o : Ops)
  /-- ICMPLO_S (R182). -/
  | icmploS (o : Ops)
  /-- ICMPLS_S (R182). -/
  | icmplsS (o : Ops)
  /-- ICMPHI_S (R182). -/
  | icmphiS (o : Ops)
  /-- ICMPHS_S (R182). -/
  | icmphsS (o : Ops)
  /-- ADD2 (R183). -/
  | add2 (o : Ops)
  /-- SUB2 (R183). -/
  | sub2 (o : Ops)
  /-- SADD2 (R183). -/
  | sadd2 (o : Ops)
  /-- SSUB2 (R183). -/
  | ssub2 (o : Ops)
  /-- MIN2 (R183). -/
  | min2 (o : Ops)
  /-- MAX2 (R183). -/
  | max2 (o : Ops)
  /-- MUL2L (R183). -/
  | mul2l (o : Ops)
  /-- DOT2 (R184). -/
  | dot2 (o : Ops)
  /-- DOT4 (R184). -/
  | dot4 (o : Ops)
  /-- CMPM2 (R183). -/
  | cmpm2 (o : Ops)
  /-- PACK2 (R183). -/
  | pack2 (o : Ops)
  /-- SWAP2 (R183). -/
  | swap2 (o : Ops)
  /-- ABSD2 (R183). -/
  | absd2 (o : Ops)
  /-- RSHR (R184). -/
  | rshr (o : Ops)
  /-- RSHRN (R184). -/
  | rshrn (o : Ops)
  /-- SXT2 (R183). -/
  | sxt2 (o : Ops)
  /-- FADD (R186). -/
  | fadd (o : Ops)
  /-- FSUB (R186). -/
  | fsub (o : Ops)
  /-- FMUL (R186). -/
  | fmul (o : Ops)
  /-- FFMA (R186). -/
  | ffma (o : Ops)
  /-- FFMS (R186). -/
  | ffms (o : Ops)
  /-- FNMA (R186). -/
  | fnma (o : Ops)
  /-- FMIN (R187). -/
  | fmin (o : Ops)
  /-- FMAX (R187). -/
  | fmax (o : Ops)
  /-- FMINNUM (R187). -/
  | fminnum (o : Ops)
  /-- FMAXNUM (R187). -/
  | fmaxnum (o : Ops)
  /-- FABS (R187). -/
  | fabs (o : Ops)
  /-- FNEG (R187). -/
  | fneg (o : Ops)
  /-- FCPS (R187). -/
  | fcps (o : Ops)
  /-- FRND (R187). -/
  | frnd (o : Ops)
  /-- FRCP (R188). -/
  | frcp (o : Ops)
  /-- FRSQ (R188). -/
  | frsq (o : Ops)
  /-- FSQRT (R188). -/
  | fsqrt (o : Ops)
  /-- FDIV (R188). -/
  | fdiv (o : Ops)
  /-- FEXP2 (R188). -/
  | fexp2 (o : Ops)
  /-- FLOG2 (R188). -/
  | flog2 (o : Ops)
  /-- FTANH (R188). -/
  | ftanh (o : Ops)
  /-- FSIG (R188). -/
  | fsig (o : Ops)
  /-- FCLASS (R189). -/
  | fclass (o : Ops)
  /-- FADD_S (R185). -/
  | faddS (o : Ops)
  /-- FSUB_S (R185). -/
  | fsubS (o : Ops)
  /-- FMUL_S (R185). -/
  | fmulS (o : Ops)
  /-- FFMA_S (R185). -/
  | ffmaS (o : Ops)
  /-- FFMS_S (R185). -/
  | ffmsS (o : Ops)
  /-- FNMA_S (R185). -/
  | fnmaS (o : Ops)
  /-- FMIN_S (R185). -/
  | fminS (o : Ops)
  /-- FMAX_S (R185). -/
  | fmaxS (o : Ops)
  /-- FMINNUM_S (R185). -/
  | fminnumS (o : Ops)
  /-- FMAXNUM_S (R185). -/
  | fmaxnumS (o : Ops)
  /-- FABS_S (R185). -/
  | fabsS (o : Ops)
  /-- FNEG_S (R185). -/
  | fnegS (o : Ops)
  /-- FCPS_S (R185). -/
  | fcpsS (o : Ops)
  /-- FRND_S (R185). -/
  | frndS (o : Ops)
  /-- FRCP_S (R185). -/
  | frcpS (o : Ops)
  /-- FRSQ_S (R185). -/
  | frsqS (o : Ops)
  /-- FSQRT_S (R185). -/
  | fsqrtS (o : Ops)
  /-- FDIV_S (R185). -/
  | fdivS (o : Ops)
  /-- FEXP2_S (R185). -/
  | fexp2S (o : Ops)
  /-- FLOG2_S (R185). -/
  | flog2S (o : Ops)
  /-- FTANH_S (R185). -/
  | ftanhS (o : Ops)
  /-- FSIG_S (R185). -/
  | fsigS (o : Ops)
  /-- FCLASS_S (R189). -/
  | fclassS (o : Ops)
  /-- FCMPEQ (R190). -/
  | fcmpeq (o : Ops)
  /-- FCMPNE (R190). -/
  | fcmpne (o : Ops)
  /-- FCMPLT (R190). -/
  | fcmplt (o : Ops)
  /-- FCMPLE (R190). -/
  | fcmple (o : Ops)
  /-- FCMPGT (R190). -/
  | fcmpgt (o : Ops)
  /-- FCMPGE (R190). -/
  | fcmpge (o : Ops)
  /-- FCMPUN (R190). -/
  | fcmpun (o : Ops)
  /-- FCMPORD (R190). -/
  | fcmpord (o : Ops)
  /-- TOF32 (R170). -/
  | tof32 (o : Ops)
  /-- TOBF16X2 (R170). -/
  | tobf16x2 (o : Ops)
  /-- TOF16X2 (R170). -/
  | tof16x2 (o : Ops)
  /-- TOI32 (R170). -/
  | toi32 (o : Ops)
  /-- TON32 (R170). -/
  | ton32 (o : Ops)
  /-- TOI16X2 (R170). -/
  | toi16x2 (o : Ops)
  /-- TOI8X4 (R170). -/
  | toi8x4 (o : Ops)
  /-- TONF (R170). -/
  | tonf (o : Ops)
  /-- FROMNF (R170). -/
  | fromnf (o : Ops)
  /-- RETAG (R170). -/
  | retag (o : Ops)
  /-- HI2F32 (R170). -/
  | hi2f32 (o : Ops)
  /-- QNT (R173). -/
  | qnt (o : Ops)
  /-- DQNT (R174). -/
  | dqnt (o : Ops)
  /-- BAMAX (R172). -/
  | bamax (o : Ops)
  /-- SCALEOF (R172). -/
  | scaleof (o : Ops)
  /-- PACK4 (R175). -/
  | pack4 (o : Ops)
  /-- UNPACK4 (R175). -/
  | unpack4 (o : Ops)
  /-- PERM (R147). -/
  | perm (o : Ops)
  /-- SLIDEUP (R147). -/
  | slideup (o : Ops)
  /-- SLIDEDN (R147). -/
  | slidedn (o : Ops)
  /-- SLIDEH (R147). -/
  | slideh (o : Ops)
  /-- SLIDEHD (R147). -/
  | slidehd (o : Ops)
  /-- PMOV_XL (R147). -/
  | pmovXl (o : Ops)
  /-- VANY (R147). -/
  | vany (o : Ops)
  /-- VALL (R147). -/
  | vall (o : Ops)
  /-- BALLOT (R147). -/
  | ballot (o : Ops)
  /-- BITS2 (R147). -/
  | bits2 (o : Ops)
  /-- LREDADD (R147). -/
  | lredadd (o : Ops)
  /-- LREDFADD (R148). -/
  | lredfadd (o : Ops)
  /-- LREDMAX (R147). -/
  | lredmax (o : Ops)
  /-- LREDMIN (R147). -/
  | lredmin (o : Ops)
  /-- LSCANADD (R147). -/
  | lscanadd (o : Ops)
  /-- LSCANFADD (R148). -/
  | lscanfadd (o : Ops)
  /-- LANEID (R147). -/
  | laneid (o : Ops)
  /-- V2S (R147). -/
  | v2s (o : Ops)
  /-- S2V (R147). -/
  | s2v (o : Ops)
  /-- FIRSTLANE (R147). -/
  | firstlane (o : Ops)
  /-- MOV (R144). -/
  | mov (o : Ops)
  /-- MOVI (R144). -/
  | movi (o : Ops)
  /-- MOVS (R144). -/
  | movs (o : Ops)
  /-- MOVSI (R144). -/
  | movsi (o : Ops)
  /-- MOVX (R144). -/
  | movx (o : Ops)
  /-- MOVXW (R144). -/
  | movxw (o : Ops)
  /-- MOVP (R144). -/
  | movp (o : Ops)
  /-- MOVPR (R144). -/
  | movpr (o : Ops)
  /-- TAGRD (R144). -/
  | tagrd (o : Ops)
  /-- CSRRD (R145). -/
  | csrrd (o : Ops)
  /-- CSRWR (R145). -/
  | csrwr (o : Ops)
  /-- MOVLPC (R144). -/
  | movlpc (o : Ops)
  /-- RDLPC (R144). -/
  | rdlpc (o : Ops)
  /-- PAND (R149). -/
  | pand (o : Ops)
  /-- POR (R149). -/
  | por (o : Ops)
  /-- PXOR (R149). -/
  | pxor (o : Ops)
  /-- PNOT (R149). -/
  | pnot (o : Ops)
  /-- PMOV_PR (R149). -/
  | pmovPr (o : Ops)
  /-- PTOV (R149). -/
  | ptov (o : Ops)
  /-- PCNT (R149). -/
  | pcnt (o : Ops)
  /-- PALL (R149). -/
  | pall (o : Ops)
  /-- BR (R150). -/
  | br (o : Ops)
  /-- JMP (R150). -/
  | jmp (o : Ops)
  /-- CALL (R151). -/
  | call (o : Ops)
  /-- CALLI (R151). -/
  | calli (o : Ops)
  /-- RET (R151). -/
  | ret (o : Ops)
  /-- ENTER (R151). -/
  | enter (o : Ops)
  /-- EXIT (R150). -/
  | exit (o : Ops)
  /-- YIELD (R150). -/
  | yield (o : Ops)
  /-- NOP (R150). -/
  | nop (o : Ops)
  /-- TRAP (R150). -/
  | trap (o : Ops)
  /-- SYS (R150). -/
  | sys (o : Ops)
  /-- LOOP (R140). -/
  | loop (o : Ops)
  /-- LBRK (R152). -/
  | lbrk (o : Ops)
  /-- LCNT (R152). -/
  | lcnt (o : Ops)
  /-- LPOP (R152). -/
  | lpop (o : Ops)
  /-- LD8S (R81). -/
  | ld8s (o : Ops)
  /-- LD8Z (R81). -/
  | ld8z (o : Ops)
  /-- LD16S (R81). -/
  | ld16s (o : Ops)
  /-- LD16Z (R81). -/
  | ld16z (o : Ops)
  /-- LD32 (R81). -/
  | ld32 (o : Ops)
  /-- LD64 (R81). -/
  | ld64 (o : Ops)
  /-- LD128 (R81). -/
  | ld128 (o : Ops)
  /-- LDS32 (R81). -/
  | lds32 (o : Ops)
  /-- LDS64 (R81). -/
  | lds64 (o : Ops)
  /-- LDACQ32 (R82). -/
  | ldacq32 (o : Ops)
  /-- LDACQS64 (R82). -/
  | ldacqs64 (o : Ops)
  /-- ST8 (R83). -/
  | st8 (o : Ops)
  /-- ST16 (R83). -/
  | st16 (o : Ops)
  /-- ST32 (R83). -/
  | st32 (o : Ops)
  /-- ST64 (R83). -/
  | st64 (o : Ops)
  /-- ST128 (R83). -/
  | st128 (o : Ops)
  /-- STS32 (R83). -/
  | sts32 (o : Ops)
  /-- STS64 (R83). -/
  | sts64 (o : Ops)
  /-- STREL32 (R84). -/
  | strel32 (o : Ops)
  /-- STRELS64 (R84). -/
  | strels64 (o : Ops)
  /-- AADD (R87). -/
  | aadd (o : Ops)
  /-- AMIN (R87). -/
  | amin (o : Ops)
  /-- AMAX (R87). -/
  | amax (o : Ops)
  /-- ANMIN (R87). -/
  | anmin (o : Ops)
  /-- ANMAX (R87). -/
  | anmax (o : Ops)
  /-- AAND (R87). -/
  | aand (o : Ops)
  /-- AOR (R87). -/
  | aor (o : Ops)
  /-- AXOR (R87). -/
  | axor (o : Ops)
  /-- AEXCH (R87). -/
  | aexch (o : Ops)
  /-- ACAS (R87). -/
  | acas (o : Ops)
  /-- AFADD (R87). -/
  | afadd (o : Ops)
  /-- AFAMAX (R87). -/
  | afamax (o : Ops)
  /-- AFAMAXRST (R88). -/
  | afamaxrst (o : Ops)
  /-- AADD64 (R87). -/
  | aadd64 (o : Ops)
  /-- AADD_S (R86). -/
  | aaddS (o : Ops)
  /-- AMIN_S (R86). -/
  | aminS (o : Ops)
  /-- AMAX_S (R86). -/
  | amaxS (o : Ops)
  /-- ANMIN_S (R86). -/
  | anminS (o : Ops)
  /-- ANMAX_S (R86). -/
  | anmaxS (o : Ops)
  /-- AAND_S (R86). -/
  | aandS (o : Ops)
  /-- AOR_S (R86). -/
  | aorS (o : Ops)
  /-- AXOR_S (R86). -/
  | axorS (o : Ops)
  /-- AEXCH_S (R86). -/
  | aexchS (o : Ops)
  /-- ACAS_S (R86). -/
  | acasS (o : Ops)
  /-- AFADD_S (R86). -/
  | afaddS (o : Ops)
  /-- AFAMAX_S (R86). -/
  | afamaxS (o : Ops)
  /-- AFAMAXRST_S (R88). -/
  | afamaxrstS (o : Ops)
  /-- AADD64_S (R86). -/
  | aadd64S (o : Ops)
  /-- FENCE_SC (R90). -/
  | fenceSc (o : Ops)
  /-- FENCE_ACQ (R90). -/
  | fenceAcq (o : Ops)
  /-- FENCE_REL (R90). -/
  | fenceRel (o : Ops)
  /-- FENCE_ACQREL (R90). -/
  | fenceAcqrel (o : Ops)
  /-- PF (R91). -/
  | pf (o : Ops)
  /-- CWB (R92). -/
  | cwb (o : Ops)
  /-- CINV (R92). -/
  | cinv (o : Ops)
  /-- LDL8S (R101). -/
  | ldl8s (o : Ops)
  /-- LDL8Z (R101). -/
  | ldl8z (o : Ops)
  /-- LDL16S (R101). -/
  | ldl16s (o : Ops)
  /-- LDL16Z (R101). -/
  | ldl16z (o : Ops)
  /-- LDL32 (R101). -/
  | ldl32 (o : Ops)
  /-- LDL64 (R101). -/
  | ldl64 (o : Ops)
  /-- LDL128 (R101). -/
  | ldl128 (o : Ops)
  /-- STL8 (R101). -/
  | stl8 (o : Ops)
  /-- STL16 (R101). -/
  | stl16 (o : Ops)
  /-- STL32 (R101). -/
  | stl32 (o : Ops)
  /-- STL64 (R101). -/
  | stl64 (o : Ops)
  /-- STL128 (R101). -/
  | stl128 (o : Ops)
  /-- LAADD (R102). -/
  | laadd (o : Ops)
  /-- LAMIN (R102). -/
  | lamin (o : Ops)
  /-- LAMAX (R102). -/
  | lamax (o : Ops)
  /-- LAEXCH (R102). -/
  | laexch (o : Ops)
  /-- LACAS (R102). -/
  | lacas (o : Ops)
  /-- CP4 (R106). -/
  | cp4 (o : Ops)
  /-- CP8 (R106). -/
  | cp8 (o : Ops)
  /-- CP16 (R106). -/
  | cp16 (o : Ops)
  /-- CPSEAL (R111). -/
  | cpseal (o : Ops)
  /-- CPWAIT (R112). -/
  | cpwait (o : Ops)
  /-- CPMC (R110). -/
  | cpmc (o : Ops)
  /-- BINIT (R121). -/
  | binit (o : Ops)
  /-- BARRIVE (R119). -/
  | barrive (o : Ops)
  /-- BEXPECT (R119). -/
  | bexpect (o : Ops)
  /-- BWAIT (R120). -/
  | bwait (o : Ops)
  /-- BTEST (R120). -/
  | btest (o : Ops)
  /-- BINVAL (R121). -/
  | binval (o : Ops)
  /-- BTEAM (R123). -/
  | bteam (o : Ops)
  /-- BACK (R122). -/
  | back (o : Ops)
  /-- PLD (R216). -/
  | pld (o : Ops)
  /-- PST (R216). -/
  | pst (o : Ops)
  /-- PZERO (R217). -/
  | pzero (o : Ops)
  /-- PFENCE (R212). -/
  | pfence (o : Ops)
  /-- MMA (R218). -/
  | mma (o : Ops)
  /-- MMAT (R218). -/
  | mmat (o : Ops)
  /-- CZERO (R219). -/
  | czero (o : Ops)
  /-- CANCH (R219). -/
  | canch (o : Ops)
  /-- CDRAIN (R220). -/
  | cdrain (o : Ops)
  /-- CSTORE (R220). -/
  | cstore (o : Ops)
  /-- CSTAT (R221). -/
  | cstat (o : Ops)
  /-- PPUT (R217). -/
  | pput (o : Ops)
  /-- PGET (R217). -/
  | pget (o : Ops)
  /-- SEQ (R224). -/
  | seq (o : Ops)
  /-- RLXOPEN (R231). -/
  | rlxopen (o : Ops)
  /-- RLXPASS (R241). -/
  | rlxpass (o : Ops)
  /-- RLXCLOSE (R243). -/
  | rlxclose (o : Ops)
  /-- RLXSTAT (R245). -/
  | rlxstat (o : Ops)
  /-- RLXRES (R246). -/
  | rlxres (o : Ops)
  /-- RLXABORT (R247). -/
  | rlxabort (o : Ops)
  /-- QPUSH (R315). -/
  | qpush (o : Ops)
  /-- QPOP (R315). -/
  | qpop (o : Ops)
  /-- MBSEND (R316). -/
  | mbsend (o : Ops)
  /-- MBRECV (R316). -/
  | mbrecv (o : Ops)
  /-- MBPEEK (R316). -/
  | mbpeek (o : Ops)
  /-- JOBENQ (R313). -/
  | jobenq (o : Ops)
  /-- LAUNCH (R313). -/
  | launch (o : Ops)
  /-- DINIT (R313). -/
  | dinit (o : Ops)
  /-- DDEC (R313). -/
  | ddec (o : Ops)
  /-- DREAD (R313). -/
  | dread (o : Ops)
  /-- JOBSTAT (R314). -/
  | jobstat (o : Ops)
  /-- EMBWAIT (R322). -/
  | embwait (o : Ops)
  /-- EMBPASS (R322). -/
  | embpass (o : Ops)
  /-- EMBSKIP (R322). -/
  | embskip (o : Ops)
  /-- QPPOST (R392). -/
  | qppost (o : Ops)
  /-- HCADD (R392). -/
  | hcadd (o : Ops)
  /-- HCRD (R392). -/
  | hcrd (o : Ops)
  /-- HCARM (R392). -/
  | hcarm (o : Ops)
  /-- TOKSORT (R392). -/
  | toksort (o : Ops)
  /-- TIME (R353). -/
  | time (o : Ops)
  /-- CYC (R353). -/
  | cyc (o : Ops)
  /-- DLINE (R354). -/
  | dline (o : Ops)
  /-- DCHK (R353). -/
  | dchk (o : Ops)
  /-- DAMPST (R355). -/
  | dampst (o : Ops)
  /-- CSRRDP (R378). -/
  | csrrdp (o : Ops)
  /-- CSRWRP (R378). -/
  | csrwrp (o : Ops)
  /-- ERET (R362). -/
  | eret (o : Ops)
  /-- WFI (R378). -/
  | wfi (o : Ops)
  /-- TLBINV (R378). -/
  | tlbinv (o : Ops)
  /-- TLBHARV (R378). -/
  | tlbharv (o : Ops)
  /-- CTXSAVE (R378). -/
  | ctxsave (o : Ops)
  /-- CTXLOAD (R378). -/
  | ctxload (o : Ops)
  /-- HALT (R378). -/
  | halt (o : Ops)
  /-- PLACEWR (R378). -/
  | placewr (o : Ops)
  /-- FRING_CONS (R378). -/
  | fringCons (o : Ops)
  /-- FRING_RESUME (R366). -/
  | fringResume (o : Ops)
  /-- FRING_KILL (R366). -/
  | fringKill (o : Ops)
  /-- FRING_QUOTA (R366). -/
  | fringQuota (o : Ops)
  /-- STOKER_CORE_RESTART (R378). -/
  | stokerCoreRestart (core : Nat)
  /-- STORAGE_PORT_TRANSFER (R395). -/
  | storagePortTransfer (port : PortQueue) (va : Nat) (toStack : Bool) (bytes : List (BitVec 8))
  /-- TILE_TEMPERATURE_RISE (R403). -/
  | tileTemperatureRise (tile : Nat) (temp : Nat)
deriving DecidableEq, Repr

end Sys2Proof
end

