-- ==== Sys2Proof/Machine/Forms.lean ====
section
/-! DEFINITION. What each instruction's fields are: the operand class of D, A, B and C (02 R25, R26), its use of
the literal (R23, R40), of XMOD, HINT, SCOPE, PLACE and NB (R33), whether it is variable-latency (R38), and
its major and minor opcode (R40). -/
namespace Sys2Proof

/-- Operand class of a register field (R25). -/
inductive Cls where
  /-- names no operand: must be zero. -/
  | none
  /-- `n` consecutive window registers from the one named. -/
  | win (n : Nat)
  /-- a scalar register. -/
  | scal
  /-- a predicate that is read. -/
  | predR
  /-- a predicate that is written. -/
  | predW
  /-- destination predicate and combine operation of a compare (R26). -/
  | comb
  /-- a panel of the team. -/
  | panel
  /-- an accumulator of the team. -/
  | acc
  /-- a narrow-format register. -/
  | nf
  /-- an immediate or a sub-use the family names; the family checks its range. -/
  | imm
  /-- as `win n`, unused in the no-return form of an atomic (R85). -/
  | retWin (n : Nat)
  /-- as `scal`, unused in the no-return form of an atomic (R85). -/
  | retScal
  /-- global base of a copy: a scalar, unused in direction local to local (R104). -/
  | cpBase
deriving DecidableEq, Repr

/-- Use of the literal (R23, R40). -/
inductive LitUse where
  /-- a literal is refused. -/
  | no
  /-- optional, replaces B as a 32-bit operand. -/
  | b32
  /-- optional, replaces B as a 64-bit operand. -/
  | b64
  /-- optional, replaces A as a 64-bit operand. -/
  | a64
  /-- optional, added to an address. -/
  | addr
  /-- required, 32-bit. -/
  | req32
  /-- required, 64-bit. -/
  | req64
  /-- optional, a branch offset; D, A and B are then zero (R26). -/
  | off
  /-- as `addr`, refused in direction local to local (R104). -/
  | cp
deriving DecidableEq, Repr

/-- Meaning of XMOD (R33). -/
inductive XUse where
  /-- must be zero. -/
  | zero
  /-- rounding override 0 to 5. -/
  | round
  /-- tag to set, not 7. -/
  | tag
  /-- bit [60] no-return, others zero. -/
  | noret
  /-- fence kind 0 to 3. -/
  | fence
  /-- copy direction 0 to 2, bits [63:62] zero. -/
  | cpdir
deriving DecidableEq, Repr

/-- PLACE kinds admitted (R33). -/
inductive PlaceUse where
  /-- kind 0 only. -/
  | none
  /-- kind 0, tile or cluster. -/
  | tileCluster
  /-- bank or queue, required. -/
  | bank
deriving DecidableEq, Repr

/-- Variable latency (R38). -/
inductive VLUse where
  /-- interlocked. -/
  | never
  /-- variable-latency. -/
  | always
  /-- variable-latency but for the no-return form. -/
  | unlessNoRet
deriving DecidableEq, Repr

/-- What R25, R33 and R38 say of one minor. -/
structure Form where
  d : Cls := .none
  a : Cls := .none
  b : Cls := .none
  c : Cls := .none
  lit : LitUse := .no
  xmod : XUse := .zero
  hint : Bool := false
  scope : Bool := false
  place : PlaceUse := .none
  nb : Bool := false
  vl : VLUse := .never
  /-- D is a destination. -/
  dw : Bool := false
  /-- D is read as a source. -/
  dr : Bool := false
  /-- B is written too (`qnt`). -/
  bw : Bool := false
deriving DecidableEq, Repr

/-- The word fields of an instruction; `none` for a clause header and for a step without words. -/
def Instr.ops : Instr → Option Ops
  | .clauseBoundary _ => none
  | .issueArbitration => none
  | .bankArbitration _ => none
  | .vlComplete _ _ => none
  | .localTrapEntry _ => none
  | .storePerformHome _ _ => none
  | .homeAtomicPerform _ _ => none
  | .tileCacheLineDrop _ _ => none
  | .translationWalk _ _ _ _ _ => none
  | .dirtyGatherWriteback _ _ => none
  | .faultRecordPost _ => none
  | .uncorrectableError _ => none
  | .correctedError => none
  | .copyTransfer _ _ => none
  | .remoteDelivery _ _ _ => none
  | .ackArrival _ => none
  | .macroOpStep _ => none
  | .drainPerform _ => none
  | .rlxopenJoin _ => none
  | .kilnPassEnd _ => none
  | .kilnPassAbandon _ => none
  | .rlxcloseJoin _ => none
  | .launchReady _ => none
  | .depctrRegister _ => none
  | .gangPlace _ => none
  | .tenantServe _ _ => none
  | .deficitCharge _ => none
  | .class0Preempt _ => none
  | .gangStop _ => none
  | .contextRestore _ => none
  | .groupRetire _ => none
  | .teamRetire _ => none
  | .launchRetire _ => none
  | .jobReady _ => none
  | .jobDeal _ => none
  | .jobComplete _ => none
  | .childCompletion _ => none
  | .emberAdvance _ => none
  | .mailboxDelivery _ _ => none
  | .turnStart _ => none
  | .turnAbandon _ _ => none
  | .turnExchangeEnd _ _ => none
  | .swallowPatternApply _ => none
  | .droopDetect _ => none
  | .stretchEnd _ => none
  | .halfEnd _ => none
  | .deadlineExpiry _ => none
  | .tileHot _ => none
  | .overTemperatureStop _ => none
  | .tileFailure _ _ => none
  | .qpEntryStart _ _ => none
  | .qpLocalComplete _ _ _ => none
  | .qpRemoteWrite _ _ => none
  | .qpAck _ _ _ => none
  | .wredContribution _ _ => none
  | .wredSweep _ _ => none
  | .routeEntry _ _ _ => none
  | .toksortComplete _ _ => none
  | .cqLaunch _ => none
  | .cqPost _ => none
  | .cqWait _ => none
  | .cqAdd _ => none
  | .ckptGo => none
  | .ckptComplete _ => none
  | .ckptErrClear => none
  | .hostWrite _ _ => none
  | .hostRead _ _ => none
  | .moduleReset => none
  | .aelmelVerify => none
  | .aelmelBoot => none
  | .aelcmdVerifyBoot => none
  | .aelcmdAttest => none
  | .recbufWrite _ _ => none
  | .wfiWake _ => none
  | .stokerHaltOnFault _ => none
  | .winstatWrite o => some o
  | .flagsWrite o => some o
  | .flagsRead o => some o
  | .spillbaseWrite o => some o
  | .trappcWrite o => some o
  | .quotaCsrWrite o => some o
  | .turnPeriodWrite o => some o
  | .swallowWrite o => some o
  | .droopthWrite o => some o
  | .dampcfgWrite o => some o
  | .slewbudgetWrite o => some o
  | .placetabSelect o => some o
  | .healthWrite o => some o
  | .healthRead o => some o
  | .ringbaseWrite o => some o
  | .ctxpoolWrite o => some o
  | .collcfgWrite o => some o
  | .iadd o => some o
  | .isub o => some o
  | .imul o => some o
  | .imulh o => some o
  | .imulhn o => some o
  | .imad o => some o
  | .imin o => some o
  | .imax o => some o
  | .nmin o => some o
  | .nmax o => some o
  | .iabs o => some o
  | .ineg o => some o
  | .and o => some o
  | .or o => some o
  | .xor o => some o
  | .andn o => some o
  | .not o => some o
  | .shl o => some o
  | .shr o => some o
  | .sar o => some o
  | .rotl o => some o
  | .clz o => some o
  | .popc o => some o
  | .brev o => some o
  | .sadd o => some o
  | .ssub o => some o
  | .sel o => some o
  | .bfx o => some o
  | .bfi o => some o
  | .idiv o => some o
  | .irem o => some o
  | .iaddS o => some o
  | .isubS o => some o
  | .imulS o => some o
  | .imulhS o => some o
  | .imulhnS o => some o
  | .imadS o => some o
  | .iminS o => some o
  | .imaxS o => some o
  | .nminS o => some o
  | .nmaxS o => some o
  | .iabsS o => some o
  | .inegS o => some o
  | .andS o => some o
  | .orS o => some o
  | .xorS o => some o
  | .andnS o => some o
  | .notS o => some o
  | .shlS o => some o
  | .shrS o => some o
  | .sarS o => some o
  | .rotlS o => some o
  | .clzS o => some o
  | .popcS o => some o
  | .brevS o => some o
  | .saddS o => some o
  | .ssubS o => some o
  | .selS o => some o
  | .bfxS o => some o
  | .bfiS o => some o
  | .idivS o => some o
  | .iremS o => some o
  | .icmpeq o => some o
  | .icmpne o => some o
  | .icmplt o => some o
  | .icmple o => some o
  | .icmpgt o => some o
  | .icmpge o => some o
  | .icmplo o => some o
  | .icmpls o => some o
  | .icmphi o => some o
  | .icmphs o => some o
  | .icmpeqS o => some o
  | .icmpneS o => some o
  | .icmpltS o => some o
  | .icmpleS o => some o
  | .icmpgtS o => some o
  | .icmpgeS o => some o
  | .icmploS o => some o
  | .icmplsS o => some o
  | .icmphiS o => some o
  | .icmphsS o => some o
  | .add2 o => some o
  | .sub2 o => some o
  | .sadd2 o => some o
  | .ssub2 o => some o
  | .min2 o => some o
  | .max2 o => some o
  | .mul2l o => some o
  | .dot2 o => some o
  | .dot4 o => some o
  | .cmpm2 o => some o
  | .pack2 o => some o
  | .swap2 o => some o
  | .absd2 o => some o
  | .rshr o => some o
  | .rshrn o => some o
  | .sxt2 o => some o
  | .fadd o => some o
  | .fsub o => some o
  | .fmul o => some o
  | .ffma o => some o
  | .ffms o => some o
  | .fnma o => some o
  | .fmin o => some o
  | .fmax o => some o
  | .fminnum o => some o
  | .fmaxnum o => some o
  | .fabs o => some o
  | .fneg o => some o
  | .fcps o => some o
  | .frnd o => some o
  | .frcp o => some o
  | .frsq o => some o
  | .fsqrt o => some o
  | .fdiv o => some o
  | .fexp2 o => some o
  | .flog2 o => some o
  | .ftanh o => some o
  | .fsig o => some o
  | .fclass o => some o
  | .faddS o => some o
  | .fsubS o => some o
  | .fmulS o => some o
  | .ffmaS o => some o
  | .ffmsS o => some o
  | .fnmaS o => some o
  | .fminS o => some o
  | .fmaxS o => some o
  | .fminnumS o => some o
  | .fmaxnumS o => some o
  | .fabsS o => some o
  | .fnegS o => some o
  | .fcpsS o => some o
  | .frndS o => some o
  | .frcpS o => some o
  | .frsqS o => some o
  | .fsqrtS o => some o
  | .fdivS o => some o
  | .fexp2S o => some o
  | .flog2S o => some o
  | .ftanhS o => some o
  | .fsigS o => some o
  | .fclassS o => some o
  | .fcmpeq o => some o
  | .fcmpne o => some o
  | .fcmplt o => some o
  | .fcmple o => some o
  | .fcmpgt o => some o
  | .fcmpge o => some o
  | .fcmpun o => some o
  | .fcmpord o => some o
  | .tof32 o => some o
  | .tobf16x2 o => some o
  | .tof16x2 o => some o
  | .toi32 o => some o
  | .ton32 o => some o
  | .toi16x2 o => some o
  | .toi8x4 o => some o
  | .tonf o => some o
  | .fromnf o => some o
  | .retag o => some o
  | .hi2f32 o => some o
  | .qnt o => some o
  | .dqnt o => some o
  | .bamax o => some o
  | .scaleof o => some o
  | .pack4 o => some o
  | .unpack4 o => some o
  | .perm o => some o
  | .slideup o => some o
  | .slidedn o => some o
  | .slideh o => some o
  | .slidehd o => some o
  | .pmovXl o => some o
  | .vany o => some o
  | .vall o => some o
  | .ballot o => some o
  | .bits2 o => some o
  | .lredadd o => some o
  | .lredfadd o => some o
  | .lredmax o => some o
  | .lredmin o => some o
  | .lscanadd o => some o
  | .lscanfadd o => some o
  | .laneid o => some o
  | .v2s o => some o
  | .s2v o => some o
  | .firstlane o => some o
  | .mov o => some o
  | .movi o => some o
  | .movs o => some o
  | .movsi o => some o
  | .movx o => some o
  | .movxw o => some o
  | .movp o => some o
  | .movpr o => some o
  | .tagrd o => some o
  | .csrrd o => some o
  | .csrwr o => some o
  | .movlpc o => some o
  | .rdlpc o => some o
  | .pand o => some o
  | .por o => some o
  | .pxor o => some o
  | .pnot o => some o
  | .pmovPr o => some o
  | .ptov o => some o
  | .pcnt o => some o
  | .pall o => some o
  | .br o => some o
  | .jmp o => some o
  | .call o => some o
  | .calli o => some o
  | .ret o => some o
  | .enter o => some o
  | .exit o => some o
  | .yield o => some o
  | .nop o => some o
  | .trap o => some o
  | .sys o => some o
  | .loop o => some o
  | .lbrk o => some o
  | .lcnt o => some o
  | .lpop o => some o
  | .ld8s o => some o
  | .ld8z o => some o
  | .ld16s o => some o
  | .ld16z o => some o
  | .ld32 o => some o
  | .ld64 o => some o
  | .ld128 o => some o
  | .lds32 o => some o
  | .lds64 o => some o
  | .ldacq32 o => some o
  | .ldacqs64 o => some o
  | .st8 o => some o
  | .st16 o => some o
  | .st32 o => some o
  | .st64 o => some o
  | .st128 o => some o
  | .sts32 o => some o
  | .sts64 o => some o
  | .strel32 o => some o
  | .strels64 o => some o
  | .aadd o => some o
  | .amin o => some o
  | .amax o => some o
  | .anmin o => some o
  | .anmax o => some o
  | .aand o => some o
  | .aor o => some o
  | .axor o => some o
  | .aexch o => some o
  | .acas o => some o
  | .afadd o => some o
  | .afamax o => some o
  | .afamaxrst o => some o
  | .aadd64 o => some o
  | .aaddS o => some o
  | .aminS o => some o
  | .amaxS o => some o
  | .anminS o => some o
  | .anmaxS o => some o
  | .aandS o => some o
  | .aorS o => some o
  | .axorS o => some o
  | .aexchS o => some o
  | .acasS o => some o
  | .afaddS o => some o
  | .afamaxS o => some o
  | .afamaxrstS o => some o
  | .aadd64S o => some o
  | .fenceSc o => some o
  | .fenceAcq o => some o
  | .fenceRel o => some o
  | .fenceAcqrel o => some o
  | .pf o => some o
  | .cwb o => some o
  | .cinv o => some o
  | .ldl8s o => some o
  | .ldl8z o => some o
  | .ldl16s o => some o
  | .ldl16z o => some o
  | .ldl32 o => some o
  | .ldl64 o => some o
  | .ldl128 o => some o
  | .stl8 o => some o
  | .stl16 o => some o
  | .stl32 o => some o
  | .stl64 o => some o
  | .stl128 o => some o
  | .laadd o => some o
  | .lamin o => some o
  | .lamax o => some o
  | .laexch o => some o
  | .lacas o => some o
  | .cp4 o => some o
  | .cp8 o => some o
  | .cp16 o => some o
  | .cpseal o => some o
  | .cpwait o => some o
  | .cpmc o => some o
  | .binit o => some o
  | .barrive o => some o
  | .bexpect o => some o
  | .bwait o => some o
  | .btest o => some o
  | .binval o => some o
  | .bteam o => some o
  | .back o => some o
  | .pld o => some o
  | .pst o => some o
  | .pzero o => some o
  | .pfence o => some o
  | .mma o => some o
  | .mmat o => some o
  | .czero o => some o
  | .canch o => some o
  | .cdrain o => some o
  | .cstore o => some o
  | .cstat o => some o
  | .pput o => some o
  | .pget o => some o
  | .seq o => some o
  | .rlxopen o => some o
  | .rlxpass o => some o
  | .rlxclose o => some o
  | .rlxstat o => some o
  | .rlxres o => some o
  | .rlxabort o => some o
  | .qpush o => some o
  | .qpop o => some o
  | .mbsend o => some o
  | .mbrecv o => some o
  | .mbpeek o => some o
  | .jobenq o => some o
  | .launch o => some o
  | .dinit o => some o
  | .ddec o => some o
  | .dread o => some o
  | .jobstat o => some o
  | .embwait o => some o
  | .embpass o => some o
  | .embskip o => some o
  | .qppost o => some o
  | .hcadd o => some o
  | .hcrd o => some o
  | .hcarm o => some o
  | .toksort o => some o
  | .time o => some o
  | .cyc o => some o
  | .dline o => some o
  | .dchk o => some o
  | .dampst o => some o
  | .csrrdp o => some o
  | .csrwrp o => some o
  | .eret o => some o
  | .wfi o => some o
  | .tlbinv o => some o
  | .tlbharv o => some o
  | .ctxsave o => some o
  | .ctxload o => some o
  | .halt o => some o
  | .placewr o => some o
  | .fringCons o => some o
  | .fringResume o => some o
  | .fringKill o => some o
  | .fringQuota o => some o
  | .stokerCoreRestart _ => none
  | .storagePortTransfer _ _ _ _ => none
  | .tileTemperatureRise _ _ => none

/-- Major and minor opcode (R40); `none` where there are no words. -/
def Instr.majMin : Instr → Option (Nat × Nat)
  | .clauseBoundary _ => none
  | .issueArbitration => none
  | .bankArbitration _ => none
  | .vlComplete _ _ => none
  | .localTrapEntry _ => none
  | .storePerformHome _ _ => none
  | .homeAtomicPerform _ _ => none
  | .tileCacheLineDrop _ _ => none
  | .translationWalk _ _ _ _ _ => none
  | .dirtyGatherWriteback _ _ => none
  | .faultRecordPost _ => none
  | .uncorrectableError _ => none
  | .correctedError => none
  | .copyTransfer _ _ => none
  | .remoteDelivery _ _ _ => none
  | .ackArrival _ => none
  | .macroOpStep _ => none
  | .drainPerform _ => none
  | .rlxopenJoin _ => none
  | .kilnPassEnd _ => none
  | .kilnPassAbandon _ => none
  | .rlxcloseJoin _ => none
  | .launchReady _ => none
  | .depctrRegister _ => none
  | .gangPlace _ => none
  | .tenantServe _ _ => none
  | .deficitCharge _ => none
  | .class0Preempt _ => none
  | .gangStop _ => none
  | .contextRestore _ => none
  | .groupRetire _ => none
  | .teamRetire _ => none
  | .launchRetire _ => none
  | .jobReady _ => none
  | .jobDeal _ => none
  | .jobComplete _ => none
  | .childCompletion _ => none
  | .emberAdvance _ => none
  | .mailboxDelivery _ _ => none
  | .turnStart _ => none
  | .turnAbandon _ _ => none
  | .turnExchangeEnd _ _ => none
  | .swallowPatternApply _ => none
  | .droopDetect _ => none
  | .stretchEnd _ => none
  | .halfEnd _ => none
  | .deadlineExpiry _ => none
  | .tileHot _ => none
  | .overTemperatureStop _ => none
  | .tileFailure _ _ => none
  | .qpEntryStart _ _ => none
  | .qpLocalComplete _ _ _ => none
  | .qpRemoteWrite _ _ => none
  | .qpAck _ _ _ => none
  | .wredContribution _ _ => none
  | .wredSweep _ _ => none
  | .routeEntry _ _ _ => none
  | .toksortComplete _ _ => none
  | .cqLaunch _ => none
  | .cqPost _ => none
  | .cqWait _ => none
  | .cqAdd _ => none
  | .ckptGo => none
  | .ckptComplete _ => none
  | .ckptErrClear => none
  | .hostWrite _ _ => none
  | .hostRead _ _ => none
  | .moduleReset => none
  | .aelmelVerify => none
  | .aelmelBoot => none
  | .aelcmdVerifyBoot => none
  | .aelcmdAttest => none
  | .recbufWrite _ _ => none
  | .wfiWake _ => none
  | .stokerHaltOnFault _ => none
  | .winstatWrite _ => some (12, 10)
  | .flagsWrite _ => some (12, 10)
  | .flagsRead _ => some (12, 9)
  | .spillbaseWrite _ => some (12, 10)
  | .trappcWrite _ => some (12, 10)
  | .quotaCsrWrite _ => some (34, 1)
  | .turnPeriodWrite _ => some (34, 1)
  | .swallowWrite _ => some (34, 1)
  | .droopthWrite _ => some (34, 1)
  | .dampcfgWrite _ => some (34, 1)
  | .slewbudgetWrite _ => some (34, 1)
  | .placetabSelect _ => some (34, 1)
  | .healthWrite _ => some (34, 1)
  | .healthRead _ => some (34, 0)
  | .ringbaseWrite _ => some (34, 1)
  | .ctxpoolWrite _ => some (34, 1)
  | .collcfgWrite _ => some (34, 1)
  | .iadd _ => some (1, 0)
  | .isub _ => some (1, 1)
  | .imul _ => some (1, 2)
  | .imulh _ => some (1, 3)
  | .imulhn _ => some (1, 4)
  | .imad _ => some (1, 5)
  | .imin _ => some (1, 6)
  | .imax _ => some (1, 7)
  | .nmin _ => some (1, 8)
  | .nmax _ => some (1, 9)
  | .iabs _ => some (1, 10)
  | .ineg _ => some (1, 11)
  | .and _ => some (1, 12)
  | .or _ => some (1, 13)
  | .xor _ => some (1, 14)
  | .andn _ => some (1, 15)
  | .not _ => some (1, 16)
  | .shl _ => some (1, 17)
  | .shr _ => some (1, 18)
  | .sar _ => some (1, 19)
  | .rotl _ => some (1, 20)
  | .clz _ => some (1, 21)
  | .popc _ => some (1, 22)
  | .brev _ => some (1, 23)
  | .sadd _ => some (1, 24)
  | .ssub _ => some (1, 25)
  | .sel _ => some (1, 26)
  | .bfx _ => some (1, 27)
  | .bfi _ => some (1, 28)
  | .idiv _ => some (1, 29)
  | .irem _ => some (1, 30)
  | .iaddS _ => some (2, 0)
  | .isubS _ => some (2, 1)
  | .imulS _ => some (2, 2)
  | .imulhS _ => some (2, 3)
  | .imulhnS _ => some (2, 4)
  | .imadS _ => some (2, 5)
  | .iminS _ => some (2, 6)
  | .imaxS _ => some (2, 7)
  | .nminS _ => some (2, 8)
  | .nmaxS _ => some (2, 9)
  | .iabsS _ => some (2, 10)
  | .inegS _ => some (2, 11)
  | .andS _ => some (2, 12)
  | .orS _ => some (2, 13)
  | .xorS _ => some (2, 14)
  | .andnS _ => some (2, 15)
  | .notS _ => some (2, 16)
  | .shlS _ => some (2, 17)
  | .shrS _ => some (2, 18)
  | .sarS _ => some (2, 19)
  | .rotlS _ => some (2, 20)
  | .clzS _ => some (2, 21)
  | .popcS _ => some (2, 22)
  | .brevS _ => some (2, 23)
  | .saddS _ => some (2, 24)
  | .ssubS _ => some (2, 25)
  | .selS _ => some (2, 26)
  | .bfxS _ => some (2, 27)
  | .bfiS _ => some (2, 28)
  | .idivS _ => some (2, 29)
  | .iremS _ => some (2, 30)
  | .icmpeq _ => some (3, 0)
  | .icmpne _ => some (3, 1)
  | .icmplt _ => some (3, 2)
  | .icmple _ => some (3, 3)
  | .icmpgt _ => some (3, 4)
  | .icmpge _ => some (3, 5)
  | .icmplo _ => some (3, 6)
  | .icmpls _ => some (3, 7)
  | .icmphi _ => some (3, 8)
  | .icmphs _ => some (3, 9)
  | .icmpeqS _ => some (4, 0)
  | .icmpneS _ => some (4, 1)
  | .icmpltS _ => some (4, 2)
  | .icmpleS _ => some (4, 3)
  | .icmpgtS _ => some (4, 4)
  | .icmpgeS _ => some (4, 5)
  | .icmploS _ => some (4, 6)
  | .icmplsS _ => some (4, 7)
  | .icmphiS _ => some (4, 8)
  | .icmphsS _ => some (4, 9)
  | .add2 _ => some (5, 0)
  | .sub2 _ => some (5, 1)
  | .sadd2 _ => some (5, 2)
  | .ssub2 _ => some (5, 3)
  | .min2 _ => some (5, 4)
  | .max2 _ => some (5, 5)
  | .mul2l _ => some (5, 6)
  | .dot2 _ => some (5, 7)
  | .dot4 _ => some (5, 8)
  | .cmpm2 _ => some (5, 9)
  | .pack2 _ => some (5, 10)
  | .swap2 _ => some (5, 11)
  | .absd2 _ => some (5, 12)
  | .rshr _ => some (5, 13)
  | .rshrn _ => some (5, 14)
  | .sxt2 _ => some (5, 15)
  | .fadd _ => some (6, 0)
  | .fsub _ => some (6, 1)
  | .fmul _ => some (6, 2)
  | .ffma _ => some (6, 3)
  | .ffms _ => some (6, 4)
  | .fnma _ => some (6, 5)
  | .fmin _ => some (6, 6)
  | .fmax _ => some (6, 7)
  | .fminnum _ => some (6, 8)
  | .fmaxnum _ => some (6, 9)
  | .fabs _ => some (6, 10)
  | .fneg _ => some (6, 11)
  | .fcps _ => some (6, 12)
  | .frnd _ => some (6, 13)
  | .frcp _ => some (6, 14)
  | .frsq _ => some (6, 15)
  | .fsqrt _ => some (6, 16)
  | .fdiv _ => some (6, 17)
  | .fexp2 _ => some (6, 18)
  | .flog2 _ => some (6, 19)
  | .ftanh _ => some (6, 20)
  | .fsig _ => some (6, 21)
  | .fclass _ => some (6, 22)
  | .faddS _ => some (7, 0)
  | .fsubS _ => some (7, 1)
  | .fmulS _ => some (7, 2)
  | .ffmaS _ => some (7, 3)
  | .ffmsS _ => some (7, 4)
  | .fnmaS _ => some (7, 5)
  | .fminS _ => some (7, 6)
  | .fmaxS _ => some (7, 7)
  | .fminnumS _ => some (7, 8)
  | .fmaxnumS _ => some (7, 9)
  | .fabsS _ => some (7, 10)
  | .fnegS _ => some (7, 11)
  | .fcpsS _ => some (7, 12)
  | .frndS _ => some (7, 13)
  | .frcpS _ => some (7, 14)
  | .frsqS _ => some (7, 15)
  | .fsqrtS _ => some (7, 16)
  | .fdivS _ => some (7, 17)
  | .fexp2S _ => some (7, 18)
  | .flog2S _ => some (7, 19)
  | .ftanhS _ => some (7, 20)
  | .fsigS _ => some (7, 21)
  | .fclassS _ => some (7, 22)
  | .fcmpeq _ => some (8, 0)
  | .fcmpne _ => some (8, 1)
  | .fcmplt _ => some (8, 2)
  | .fcmple _ => some (8, 3)
  | .fcmpgt _ => some (8, 4)
  | .fcmpge _ => some (8, 5)
  | .fcmpun _ => some (8, 6)
  | .fcmpord _ => some (8, 7)
  | .tof32 _ => some (9, 0)
  | .tobf16x2 _ => some (9, 1)
  | .tof16x2 _ => some (9, 2)
  | .toi32 _ => some (9, 3)
  | .ton32 _ => some (9, 4)
  | .toi16x2 _ => some (9, 5)
  | .toi8x4 _ => some (9, 6)
  | .tonf _ => some (9, 7)
  | .fromnf _ => some (9, 8)
  | .retag _ => some (9, 9)
  | .hi2f32 _ => some (9, 10)
  | .qnt _ => some (10, 0)
  | .dqnt _ => some (10, 1)
  | .bamax _ => some (10, 2)
  | .scaleof _ => some (10, 3)
  | .pack4 _ => some (10, 4)
  | .unpack4 _ => some (10, 5)
  | .perm _ => some (11, 0)
  | .slideup _ => some (11, 1)
  | .slidedn _ => some (11, 2)
  | .slideh _ => some (11, 3)
  | .slidehd _ => some (11, 4)
  | .pmovXl _ => some (11, 5)
  | .vany _ => some (11, 6)
  | .vall _ => some (11, 7)
  | .ballot _ => some (11, 8)
  | .bits2 _ => some (11, 9)
  | .lredadd _ => some (11, 10)
  | .lredfadd _ => some (11, 11)
  | .lredmax _ => some (11, 12)
  | .lredmin _ => some (11, 13)
  | .lscanadd _ => some (11, 14)
  | .lscanfadd _ => some (11, 15)
  | .laneid _ => some (11, 16)
  | .v2s _ => some (11, 17)
  | .s2v _ => some (11, 18)
  | .firstlane _ => some (11, 19)
  | .mov _ => some (12, 0)
  | .movi _ => some (12, 1)
  | .movs _ => some (12, 2)
  | .movsi _ => some (12, 3)
  | .movx _ => some (12, 4)
  | .movxw _ => some (12, 5)
  | .movp _ => some (12, 6)
  | .movpr _ => some (12, 7)
  | .tagrd _ => some (12, 8)
  | .csrrd _ => some (12, 9)
  | .csrwr _ => some (12, 10)
  | .movlpc _ => some (12, 11)
  | .rdlpc _ => some (12, 12)
  | .pand _ => some (13, 0)
  | .por _ => some (13, 1)
  | .pxor _ => some (13, 2)
  | .pnot _ => some (13, 3)
  | .pmovPr _ => some (13, 4)
  | .ptov _ => some (13, 5)
  | .pcnt _ => some (13, 6)
  | .pall _ => some (13, 7)
  | .br _ => some (16, 0)
  | .jmp _ => some (16, 1)
  | .call _ => some (16, 2)
  | .calli _ => some (16, 3)
  | .ret _ => some (16, 4)
  | .enter _ => some (16, 5)
  | .exit _ => some (16, 6)
  | .yield _ => some (16, 7)
  | .nop _ => some (16, 8)
  | .trap _ => some (16, 9)
  | .sys _ => some (16, 10)
  | .loop _ => some (17, 0)
  | .lbrk _ => some (17, 1)
  | .lcnt _ => some (17, 2)
  | .lpop _ => some (17, 3)
  | .ld8s _ => some (18, 0)
  | .ld8z _ => some (18, 1)
  | .ld16s _ => some (18, 2)
  | .ld16z _ => some (18, 3)
  | .ld32 _ => some (18, 4)
  | .ld64 _ => some (18, 5)
  | .ld128 _ => some (18, 6)
  | .lds32 _ => some (18, 7)
  | .lds64 _ => some (18, 8)
  | .ldacq32 _ => some (18, 9)
  | .ldacqs64 _ => some (18, 10)
  | .st8 _ => some (19, 0)
  | .st16 _ => some (19, 1)
  | .st32 _ => some (19, 2)
  | .st64 _ => some (19, 3)
  | .st128 _ => some (19, 4)
  | .sts32 _ => some (19, 5)
  | .sts64 _ => some (19, 6)
  | .strel32 _ => some (19, 7)
  | .strels64 _ => some (19, 8)
  | .aadd _ => some (20, 0)
  | .amin _ => some (20, 1)
  | .amax _ => some (20, 2)
  | .anmin _ => some (20, 3)
  | .anmax _ => some (20, 4)
  | .aand _ => some (20, 5)
  | .aor _ => some (20, 6)
  | .axor _ => some (20, 7)
  | .aexch _ => some (20, 8)
  | .acas _ => some (20, 9)
  | .afadd _ => some (20, 10)
  | .afamax _ => some (20, 11)
  | .afamaxrst _ => some (20, 12)
  | .aadd64 _ => some (20, 13)
  | .aaddS _ => some (21, 0)
  | .aminS _ => some (21, 1)
  | .amaxS _ => some (21, 2)
  | .anminS _ => some (21, 3)
  | .anmaxS _ => some (21, 4)
  | .aandS _ => some (21, 5)
  | .aorS _ => some (21, 6)
  | .axorS _ => some (21, 7)
  | .aexchS _ => some (21, 8)
  | .acasS _ => some (21, 9)
  | .afaddS _ => some (21, 10)
  | .afamaxS _ => some (21, 11)
  | .afamaxrstS _ => some (21, 12)
  | .aadd64S _ => some (21, 13)
  | .fenceSc _ => some (22, 0)
  | .fenceAcq _ => some (22, 0)
  | .fenceRel _ => some (22, 0)
  | .fenceAcqrel _ => some (22, 0)
  | .pf _ => some (22, 1)
  | .cwb _ => some (22, 2)
  | .cinv _ => some (22, 3)
  | .ldl8s _ => some (23, 0)
  | .ldl8z _ => some (23, 1)
  | .ldl16s _ => some (23, 2)
  | .ldl16z _ => some (23, 3)
  | .ldl32 _ => some (23, 4)
  | .ldl64 _ => some (23, 5)
  | .ldl128 _ => some (23, 6)
  | .stl8 _ => some (23, 7)
  | .stl16 _ => some (23, 8)
  | .stl32 _ => some (23, 9)
  | .stl64 _ => some (23, 10)
  | .stl128 _ => some (23, 11)
  | .laadd _ => some (23, 12)
  | .lamin _ => some (23, 13)
  | .lamax _ => some (23, 14)
  | .laexch _ => some (23, 15)
  | .lacas _ => some (23, 16)
  | .cp4 _ => some (24, 0)
  | .cp8 _ => some (24, 1)
  | .cp16 _ => some (24, 2)
  | .cpseal _ => some (24, 3)
  | .cpwait _ => some (24, 4)
  | .cpmc _ => some (24, 5)
  | .binit _ => some (25, 0)
  | .barrive _ => some (25, 1)
  | .bexpect _ => some (25, 2)
  | .bwait _ => some (25, 3)
  | .btest _ => some (25, 4)
  | .binval _ => some (25, 5)
  | .bteam _ => some (25, 6)
  | .back _ => some (25, 7)
  | .pld _ => some (26, 0)
  | .pst _ => some (26, 1)
  | .pzero _ => some (26, 2)
  | .pfence _ => some (26, 3)
  | .mma _ => some (26, 4)
  | .mmat _ => some (26, 5)
  | .czero _ => some (26, 6)
  | .canch _ => some (26, 7)
  | .cdrain _ => some (26, 8)
  | .cstore _ => some (26, 9)
  | .cstat _ => some (26, 10)
  | .pput _ => some (26, 11)
  | .pget _ => some (26, 12)
  | .seq _ => some (27, 0)
  | .rlxopen _ => some (28, 0)
  | .rlxpass _ => some (28, 1)
  | .rlxclose _ => some (28, 2)
  | .rlxstat _ => some (28, 3)
  | .rlxres _ => some (28, 4)
  | .rlxabort _ => some (28, 5)
  | .qpush _ => some (29, 0)
  | .qpop _ => some (29, 1)
  | .mbsend _ => some (29, 2)
  | .mbrecv _ => some (29, 3)
  | .mbpeek _ => some (29, 4)
  | .jobenq _ => some (30, 0)
  | .launch _ => some (30, 1)
  | .dinit _ => some (30, 2)
  | .ddec _ => some (30, 3)
  | .dread _ => some (30, 4)
  | .jobstat _ => some (30, 5)
  | .embwait _ => some (31, 0)
  | .embpass _ => some (31, 1)
  | .embskip _ => some (31, 2)
  | .qppost _ => some (32, 0)
  | .hcadd _ => some (32, 1)
  | .hcrd _ => some (32, 2)
  | .hcarm _ => some (32, 3)
  | .toksort _ => some (32, 4)
  | .time _ => some (33, 0)
  | .cyc _ => some (33, 1)
  | .dline _ => some (33, 2)
  | .dchk _ => some (33, 3)
  | .dampst _ => some (33, 4)
  | .csrrdp _ => some (34, 0)
  | .csrwrp _ => some (34, 1)
  | .eret _ => some (34, 2)
  | .wfi _ => some (34, 3)
  | .tlbinv _ => some (34, 4)
  | .tlbharv _ => some (34, 5)
  | .ctxsave _ => some (34, 6)
  | .ctxload _ => some (34, 7)
  | .halt _ => some (34, 8)
  | .placewr _ => some (34, 9)
  | .fringCons _ => some (34, 10)
  | .fringResume _ => some (34, 10)
  | .fringKill _ => some (34, 10)
  | .fringQuota _ => some (34, 10)
  | .stokerCoreRestart _ => none
  | .storagePortTransfer _ _ _ _ => none
  | .tileTemperatureRise _ _ => none

/-- Forms of IV, major 0x01, by minor. -/
def formIV : Nat → Form
  | 0 => { d := (.win 1), a := (.win 1), b := (.win 1), lit := .b32, dw := true }
  | 1 => { d := (.win 1), a := (.win 1), b := (.win 1), lit := .b32, dw := true }
  | 2 => { d := (.win 1), a := (.win 1), b := (.win 1), lit := .b32, dw := true }
  | 3 => { d := (.win 1), a := (.win 1), b := (.win 1), lit := .b32, dw := true }
  | 4 => { d := (.win 1), a := (.win 1), b := (.win 1), lit := .b32, dw := true }
  | 5 => { d := (.win 1), a := (.win 1), b := (.win 1), c := (.win 1), lit := .b32, dw := true }
  | 6 => { d := (.win 1), a := (.win 1), b := (.win 1), lit := .b32, dw := true }
  | 7 => { d := (.win 1), a := (.win 1), b := (.win 1), lit := .b32, dw := true }
  | 8 => { d := (.win 1), a := (.win 1), b := (.win 1), lit := .b32, dw := true }
  | 9 => { d := (.win 1), a := (.win 1), b := (.win 1), lit := .b32, dw := true }
  | 10 => { d := (.win 1), a := (.win 1), dw := true }
  | 11 => { d := (.win 1), a := (.win 1), dw := true }
  | 12 => { d := (.win 1), a := (.win 1), b := (.win 1), lit := .b32, dw := true }
  | 13 => { d := (.win 1), a := (.win 1), b := (.win 1), lit := .b32, dw := true }
  | 14 => { d := (.win 1), a := (.win 1), b := (.win 1), lit := .b32, dw := true }
  | 15 => { d := (.win 1), a := (.win 1), b := (.win 1), lit := .b32, dw := true }
  | 16 => { d := (.win 1), a := (.win 1), dw := true }
  | 17 => { d := (.win 1), a := (.win 1), b := (.win 1), lit := .b32, dw := true }
  | 18 => { d := (.win 1), a := (.win 1), b := (.win 1), lit := .b32, dw := true }
  | 19 => { d := (.win 1), a := (.win 1), b := (.win 1), lit := .b32, dw := true }
  | 20 => { d := (.win 1), a := (.win 1), b := (.win 1), lit := .b32, dw := true }
  | 21 => { d := (.win 1), a := (.win 1), dw := true }
  | 22 => { d := (.win 1), a := (.win 1), dw := true }
  | 23 => { d := (.win 1), a := (.win 1), dw := true }
  | 24 => { d := (.win 1), a := (.win 1), b := (.win 1), lit := .b32, dw := true }
  | 25 => { d := (.win 1), a := (.win 1), b := (.win 1), lit := .b32, dw := true }
  | 26 => { d := (.win 1), a := (.win 1), b := (.win 1), lit := .b32, dw := true }
  | 27 => { d := (.win 1), a := (.win 1), b := (.win 1), c := (.win 1), lit := .b32, dw := true }
  | 28 => { d := (.win 1), a := (.win 1), b := (.win 1), c := (.win 1), lit := .b32, dw := true, dr := true }
  | 29 => { d := (.win 1), a := (.win 1), b := (.win 1), lit := .b32, dw := true }
  | 30 => { d := (.win 1), a := (.win 1), b := (.win 1), lit := .b32, dw := true }
  | _ => {}

/-- Forms of IS, major 0x02, by minor. -/
def formIS : Nat → Form
  | 0 => { d := .scal, a := .scal, b := .scal, lit := .b64, dw := true }
  | 1 => { d := .scal, a := .scal, b := .scal, lit := .b64, dw := true }
  | 2 => { d := .scal, a := .scal, b := .scal, lit := .b64, dw := true }
  | 3 => { d := .scal, a := .scal, b := .scal, lit := .b64, dw := true }
  | 4 => { d := .scal, a := .scal, b := .scal, lit := .b64, dw := true }
  | 5 => { d := .scal, a := .scal, b := .scal, c := .scal, lit := .b64, dw := true }
  | 6 => { d := .scal, a := .scal, b := .scal, lit := .b64, dw := true }
  | 7 => { d := .scal, a := .scal, b := .scal, lit := .b64, dw := true }
  | 8 => { d := .scal, a := .scal, b := .scal, lit := .b64, dw := true }
  | 9 => { d := .scal, a := .scal, b := .scal, lit := .b64, dw := true }
  | 10 => { d := .scal, a := .scal, dw := true }
  | 11 => { d := .scal, a := .scal, dw := true }
  | 12 => { d := .scal, a := .scal, b := .scal, lit := .b64, dw := true }
  | 13 => { d := .scal, a := .scal, b := .scal, lit := .b64, dw := true }
  | 14 => { d := .scal, a := .scal, b := .scal, lit := .b64, dw := true }
  | 15 => { d := .scal, a := .scal, b := .scal, lit := .b64, dw := true }
  | 16 => { d := .scal, a := .scal, dw := true }
  | 17 => { d := .scal, a := .scal, b := .scal, lit := .b64, dw := true }
  | 18 => { d := .scal, a := .scal, b := .scal, lit := .b64, dw := true }
  | 19 => { d := .scal, a := .scal, b := .scal, lit := .b64, dw := true }
  | 20 => { d := .scal, a := .scal, b := .scal, lit := .b64, dw := true }
  | 21 => { d := .scal, a := .scal, dw := true }
  | 22 => { d := .scal, a := .scal, dw := true }
  | 23 => { d := .scal, a := .scal, dw := true }
  | 24 => { d := .scal, a := .scal, b := .scal, lit := .b64, dw := true }
  | 25 => { d := .scal, a := .scal, b := .scal, lit := .b64, dw := true }
  | 26 => { d := .scal, a := .scal, b := .scal, lit := .b64, dw := true }
  | 27 => { d := .scal, a := .scal, b := .scal, c := .scal, lit := .b64, dw := true }
  | 28 => { d := .scal, a := .scal, b := .scal, c := .scal, lit := .b64, dw := true }
  | 29 => { d := .scal, a := .scal, b := .scal, lit := .b64, dw := true }
  | 30 => { d := .scal, a := .scal, b := .scal, lit := .b64, dw := true }
  | _ => {}

/-- Forms of ICV, major 0x03, by minor. -/
def formICV : Nat → Form
  | 0 => { d := .comb, a := (.win 1), b := (.win 1), lit := .b32, dw := true }
  | 1 => { d := .comb, a := (.win 1), b := (.win 1), lit := .b32, dw := true }
  | 2 => { d := .comb, a := (.win 1), b := (.win 1), lit := .b32, dw := true }
  | 3 => { d := .comb, a := (.win 1), b := (.win 1), lit := .b32, dw := true }
  | 4 => { d := .comb, a := (.win 1), b := (.win 1), lit := .b32, dw := true }
  | 5 => { d := .comb, a := (.win 1), b := (.win 1), lit := .b32, dw := true }
  | 6 => { d := .comb, a := (.win 1), b := (.win 1), lit := .b32, dw := true }
  | 7 => { d := .comb, a := (.win 1), b := (.win 1), lit := .b32, dw := true }
  | 8 => { d := .comb, a := (.win 1), b := (.win 1), lit := .b32, dw := true }
  | 9 => { d := .comb, a := (.win 1), b := (.win 1), lit := .b32, dw := true }
  | _ => {}

/-- Forms of ICS, major 0x04, by minor. -/
def formICS : Nat → Form
  | 0 => { d := .scal, a := .scal, b := .scal, lit := .b64, dw := true }
  | 1 => { d := .scal, a := .scal, b := .scal, lit := .b64, dw := true }
  | 2 => { d := .scal, a := .scal, b := .scal, lit := .b64, dw := true }
  | 3 => { d := .scal, a := .scal, b := .scal, lit := .b64, dw := true }
  | 4 => { d := .scal, a := .scal, b := .scal, lit := .b64, dw := true }
  | 5 => { d := .scal, a := .scal, b := .scal, lit := .b64, dw := true }
  | 6 => { d := .scal, a := .scal, b := .scal, lit := .b64, dw := true }
  | 7 => { d := .scal, a := .scal, b := .scal, lit := .b64, dw := true }
  | 8 => { d := .scal, a := .scal, b := .scal, lit := .b64, dw := true }
  | 9 => { d := .scal, a := .scal, b := .scal, lit := .b64, dw := true }
  | _ => {}

/-- Forms of PK, major 0x05, by minor. -/
def formPK : Nat → Form
  | 0 => { d := (.win 1), a := (.win 1), b := (.win 1), lit := .b32, dw := true }
  | 1 => { d := (.win 1), a := (.win 1), b := (.win 1), lit := .b32, dw := true }
  | 2 => { d := (.win 1), a := (.win 1), b := (.win 1), lit := .b32, dw := true }
  | 3 => { d := (.win 1), a := (.win 1), b := (.win 1), lit := .b32, dw := true }
  | 4 => { d := (.win 1), a := (.win 1), b := (.win 1), lit := .b32, dw := true }
  | 5 => { d := (.win 1), a := (.win 1), b := (.win 1), lit := .b32, dw := true }
  | 6 => { d := (.win 1), a := (.win 1), b := (.win 1), lit := .b32, dw := true }
  | 7 => { d := (.win 1), a := (.win 1), b := (.win 1), c := (.win 1), lit := .b32, dw := true }
  | 8 => { d := (.win 1), a := (.win 1), b := (.win 1), c := (.win 1), lit := .b32, dw := true }
  | 9 => { d := (.win 1), a := (.win 1), b := (.win 1), lit := .b32, dw := true }
  | 10 => { d := (.win 1), a := (.win 1), b := (.win 1), lit := .b32, dw := true }
  | 11 => { d := (.win 1), a := (.win 1), dw := true }
  | 12 => { d := (.win 1), a := (.win 1), b := (.win 1), lit := .b32, dw := true }
  | 13 => { d := (.win 1), a := (.win 1), b := (.win 1), lit := .b32, dw := true }
  | 14 => { d := (.win 1), a := (.win 1), b := (.win 1), c := (.win 1), lit := .b32, dw := true }
  | 15 => { d := (.win 1), a := (.win 1), b := .imm, dw := true }
  | _ => {}

/-- Forms of FV, major 0x06, by minor. -/
def formFV : Nat → Form
  | 0 => { d := (.win 1), a := (.win 1), b := (.win 1), lit := .b32, xmod := .round, dw := true }
  | 1 => { d := (.win 1), a := (.win 1), b := (.win 1), lit := .b32, xmod := .round, dw := true }
  | 2 => { d := (.win 1), a := (.win 1), b := (.win 1), lit := .b32, xmod := .round, dw := true }
  | 3 => { d := (.win 1), a := (.win 1), b := (.win 1), c := (.win 1), lit := .b32, xmod := .round, dw := true }
  | 4 => { d := (.win 1), a := (.win 1), b := (.win 1), c := (.win 1), lit := .b32, xmod := .round, dw := true }
  | 5 => { d := (.win 1), a := (.win 1), b := (.win 1), c := (.win 1), lit := .b32, xmod := .round, dw := true }
  | 6 => { d := (.win 1), a := (.win 1), b := (.win 1), lit := .b32, xmod := .round, dw := true }
  | 7 => { d := (.win 1), a := (.win 1), b := (.win 1), lit := .b32, xmod := .round, dw := true }
  | 8 => { d := (.win 1), a := (.win 1), b := (.win 1), lit := .b32, xmod := .round, dw := true }
  | 9 => { d := (.win 1), a := (.win 1), b := (.win 1), lit := .b32, xmod := .round, dw := true }
  | 10 => { d := (.win 1), a := (.win 1), xmod := .round, dw := true }
  | 11 => { d := (.win 1), a := (.win 1), xmod := .round, dw := true }
  | 12 => { d := (.win 1), a := (.win 1), b := (.win 1), lit := .b32, xmod := .round, dw := true }
  | 13 => { d := (.win 1), a := (.win 1), xmod := .round, dw := true }
  | 14 => { d := (.win 1), a := (.win 1), xmod := .round, dw := true }
  | 15 => { d := (.win 1), a := (.win 1), xmod := .round, dw := true }
  | 16 => { d := (.win 1), a := (.win 1), xmod := .round, dw := true }
  | 17 => { d := (.win 1), a := (.win 1), b := (.win 1), lit := .b32, xmod := .round, dw := true }
  | 18 => { d := (.win 1), a := (.win 1), xmod := .round, dw := true }
  | 19 => { d := (.win 1), a := (.win 1), xmod := .round, dw := true }
  | 20 => { d := (.win 1), a := (.win 1), xmod := .round, dw := true }
  | 21 => { d := (.win 1), a := (.win 1), xmod := .round, dw := true }
  | 22 => { d := (.win 1), a := (.win 1), xmod := .round, dw := true }
  | _ => {}

/-- Forms of FS, major 0x07, by minor. -/
def formFS : Nat → Form
  | 0 => { d := .scal, a := .scal, b := .scal, lit := .b32, xmod := .round, dw := true }
  | 1 => { d := .scal, a := .scal, b := .scal, lit := .b32, xmod := .round, dw := true }
  | 2 => { d := .scal, a := .scal, b := .scal, lit := .b32, xmod := .round, dw := true }
  | 3 => { d := .scal, a := .scal, b := .scal, c := .scal, lit := .b32, xmod := .round, dw := true }
  | 4 => { d := .scal, a := .scal, b := .scal, c := .scal, lit := .b32, xmod := .round, dw := true }
  | 5 => { d := .scal, a := .scal, b := .scal, c := .scal, lit := .b32, xmod := .round, dw := true }
  | 6 => { d := .scal, a := .scal, b := .scal, lit := .b32, xmod := .round, dw := true }
  | 7 => { d := .scal, a := .scal, b := .scal, lit := .b32, xmod := .round, dw := true }
  | 8 => { d := .scal, a := .scal, b := .scal, lit := .b32, xmod := .round, dw := true }
  | 9 => { d := .scal, a := .scal, b := .scal, lit := .b32, xmod := .round, dw := true }
  | 10 => { d := .scal, a := .scal, xmod := .round, dw := true }
  | 11 => { d := .scal, a := .scal, xmod := .round, dw := true }
  | 12 => { d := .scal, a := .scal, b := .scal, lit := .b32, xmod := .round, dw := true }
  | 13 => { d := .scal, a := .scal, xmod := .round, dw := true }
  | 14 => { d := .scal, a := .scal, xmod := .round, dw := true }
  | 15 => { d := .scal, a := .scal, xmod := .round, dw := true }
  | 16 => { d := .scal, a := .scal, xmod := .round, dw := true }
  | 17 => { d := .scal, a := .scal, b := .scal, lit := .b32, xmod := .round, dw := true }
  | 18 => { d := .scal, a := .scal, xmod := .round, dw := true }
  | 19 => { d := .scal, a := .scal, xmod := .round, dw := true }
  | 20 => { d := .scal, a := .scal, xmod := .round, dw := true }
  | 21 => { d := .scal, a := .scal, xmod := .round, dw := true }
  | 22 => { d := .scal, a := .scal, xmod := .round, dw := true }
  | _ => {}

/-- Forms of FCV, major 0x08, by minor. -/
def formFCV : Nat → Form
  | 0 => { d := .comb, a := (.win 1), b := (.win 1), lit := .b32, dw := true }
  | 1 => { d := .comb, a := (.win 1), b := (.win 1), lit := .b32, dw := true }
  | 2 => { d := .comb, a := (.win 1), b := (.win 1), lit := .b32, dw := true }
  | 3 => { d := .comb, a := (.win 1), b := (.win 1), lit := .b32, dw := true }
  | 4 => { d := .comb, a := (.win 1), b := (.win 1), lit := .b32, dw := true }
  | 5 => { d := .comb, a := (.win 1), b := (.win 1), lit := .b32, dw := true }
  | 6 => { d := .comb, a := (.win 1), b := (.win 1), lit := .b32, dw := true }
  | 7 => { d := .comb, a := (.win 1), b := (.win 1), lit := .b32, dw := true }
  | _ => {}

/-- Forms of CVT, major 0x09, by minor. -/
def formCVT : Nat → Form
  | 0 => { d := (.win 1), a := (.win 1), xmod := .round, dw := true }
  | 1 => { d := (.win 1), a := (.win 1), b := (.win 1), xmod := .round, dw := true }
  | 2 => { d := (.win 1), a := (.win 1), b := (.win 1), xmod := .round, dw := true }
  | 3 => { d := (.win 1), a := (.win 1), xmod := .round, dw := true }
  | 4 => { d := (.win 1), a := (.win 1), xmod := .round, dw := true }
  | 5 => { d := (.win 1), a := (.win 1), b := (.win 1), xmod := .round, dw := true }
  | 6 => { d := (.win 1), a := (.win 4), xmod := .round, dw := true }
  | 7 => { d := (.win 1), a := (.win 1), b := .nf, xmod := .round, dw := true }
  | 8 => { d := (.win 1), a := (.win 1), xmod := .round, dw := true }
  | 9 => { d := (.win 1), a := (.win 1), b := .imm, xmod := .zero, dw := true }
  | 10 => { d := (.win 1), a := (.win 1), xmod := .round, dw := true }
  | _ => {}

/-- Forms of NQ, major 0x0a, by minor. -/
def formNQ : Nat → Form
  | 0 => { d := (.win 1), a := (.win 1), b := .scal, c := .nf, xmod := .round, dw := true, bw := true }
  | 1 => { d := (.win 1), a := (.win 1), b := .scal, xmod := .round, dw := true }
  | 2 => { d := .scal, a := (.win 1), dw := true }
  | 3 => { d := .scal, a := .scal, b := .nf, dw := true }
  | 4 => { d := (.win 1), a := (.win 1), dw := true }
  | 5 => { d := (.win 1), a := (.win 1), dw := true }
  | _ => {}

/-- Forms of XL, major 0x0b, by minor. -/
def formXL : Nat → Form
  | 0 => { d := (.win 1), a := (.win 1), b := (.win 1), dw := true }
  | 1 => { d := (.win 1), a := (.win 1), b := (.win 1), c := .imm, dw := true }
  | 2 => { d := (.win 1), a := (.win 1), b := (.win 1), c := .imm, dw := true }
  | 3 => { d := (.win 1), a := (.win 1), b := (.win 1), dw := true }
  | 4 => { d := (.win 1), a := (.win 1), b := (.win 1), dw := true }
  | 5 => { d := (.win 1), a := .predR, dw := true }
  | 6 => { d := .predW, a := (.win 1), dw := true }
  | 7 => { d := .predW, a := (.win 1), dw := true }
  | 8 => { d := .scal, a := (.win 1), dw := true }
  | 9 => { d := .scal, a := (.win 1), b := .imm, dw := true }
  | 10 => { d := .scal, a := (.win 1), dw := true }
  | 11 => { d := .scal, a := (.win 1), dw := true }
  | 12 => { d := .scal, a := (.win 1), dw := true }
  | 13 => { d := .scal, a := (.win 1), dw := true }
  | 14 => { d := (.win 1), a := (.win 1), dw := true }
  | 15 => { d := (.win 1), a := (.win 1), dw := true }
  | 16 => { d := (.win 1), dw := true }
  | 17 => { d := .scal, a := (.win 1), b := .imm, dw := true }
  | 18 => { d := (.win 1), a := .scal, dw := true }
  | 19 => { d := .scal, dw := true }
  | _ => {}

/-- Forms of MV, major 0x0c, by minor. -/
def formMV : Nat → Form
  | 0 => { d := (.win 1), a := (.win 1), dw := true }
  | 1 => { d := (.win 1), lit := .req32, xmod := .tag, dw := true }
  | 2 => { d := .scal, a := .scal, dw := true }
  | 3 => { d := .scal, lit := .req64, dw := true }
  | 4 => { d := (.win 1), a := (.win 1), dw := true }
  | 5 => { d := (.win 1), a := (.win 1), dr := true }
  | 6 => { d := .panel, a := .scal, lit := .a64, dw := true }
  | 7 => { d := .scal, a := .panel, dw := true }
  | 8 => { d := .scal, a := (.win 1), dw := true }
  | 9 => { d := .scal, a := .imm, b := .imm, dw := true }
  | 10 => { d := .imm, a := .scal, b := .imm }
  | 11 => { a := (.win 1) }
  | 12 => { d := (.win 1), dw := true }
  | _ => {}

/-- Forms of PR, major 0x0d, by minor. -/
def formPR : Nat → Form
  | 0 => { d := .predW, a := .predR, b := .predR, dw := true }
  | 1 => { d := .predW, a := .predR, b := .predR, dw := true }
  | 2 => { d := .predW, a := .predR, b := .predR, dw := true }
  | 3 => { d := .predW, a := .predR, dw := true }
  | 4 => { d := .predW, a := .predR, dw := true }
  | 5 => { d := .scal, a := .predR, dw := true }
  | 6 => { d := .scal, a := .predR, dw := true }
  | 7 => { d := .predW, a := .predR, dw := true }
  | _ => {}

/-- Forms of CF, major 0x10, by minor. -/
def formCF : Nat → Form
  | 0 => { d := .imm, a := .imm, b := .imm, lit := .off }
  | 1 => { d := .imm, a := .imm, b := .imm, lit := .off }
  | 2 => { d := .imm, a := .imm, b := .imm, lit := .off }
  | 3 => { a := .scal }
  | 4 => {}
  | 5 => { b := .imm }
  | 6 => {}
  | 7 => {}
  | 8 => {}
  | 9 => { d := .imm, a := .imm, b := .imm }
  | 10 => { d := .imm, a := .imm, b := .imm }
  | _ => {}

/-- Forms of LP, major 0x11, by minor. -/
def formLP : Nat → Form
  | 0 => { d := .imm, a := .scal, b := .imm, lit := .a64 }
  | 1 => {}
  | 2 => { d := .scal, a := .imm, dw := true }
  | 3 => { d := .imm }
  | _ => {}

/-- Forms of LDG, major 0x12, by minor. -/
def formLDG : Nat → Form
  | 0 => { d := (.win 1), a := .scal, b := (.win 1), lit := .addr, xmod := .tag, hint := true, scope := true, vl := .always, dw := true }
  | 1 => { d := (.win 1), a := .scal, b := (.win 1), lit := .addr, xmod := .tag, hint := true, scope := true, vl := .always, dw := true }
  | 2 => { d := (.win 1), a := .scal, b := (.win 1), lit := .addr, xmod := .tag, hint := true, scope := true, vl := .always, dw := true }
  | 3 => { d := (.win 1), a := .scal, b := (.win 1), lit := .addr, xmod := .tag, hint := true, scope := true, vl := .always, dw := true }
  | 4 => { d := (.win 1), a := .scal, b := (.win 1), lit := .addr, xmod := .tag, hint := true, scope := true, vl := .always, dw := true }
  | 5 => { d := (.win 2), a := .scal, b := (.win 1), lit := .addr, xmod := .tag, hint := true, scope := true, vl := .always, dw := true }
  | 6 => { d := (.win 4), a := .scal, b := (.win 1), lit := .addr, xmod := .tag, hint := true, scope := true, vl := .always, dw := true }
  | 7 => { d := .scal, a := .scal, lit := .addr, hint := true, scope := true, vl := .always, dw := true }
  | 8 => { d := .scal, a := .scal, lit := .addr, hint := true, scope := true, vl := .always, dw := true }
  | 9 => { d := (.win 1), a := .scal, b := (.win 1), lit := .addr, xmod := .tag, hint := true, scope := true, vl := .always, dw := true }
  | 10 => { d := .scal, a := .scal, lit := .addr, hint := true, scope := true, vl := .always, dw := true }
  | _ => {}

/-- Forms of STG, major 0x13, by minor. -/
def formSTG : Nat → Form
  | 0 => { d := (.win 1), a := .scal, b := (.win 1), lit := .addr, hint := true, scope := true, dr := true }
  | 1 => { d := (.win 1), a := .scal, b := (.win 1), lit := .addr, hint := true, scope := true, dr := true }
  | 2 => { d := (.win 1), a := .scal, b := (.win 1), lit := .addr, hint := true, scope := true, dr := true }
  | 3 => { d := (.win 2), a := .scal, b := (.win 1), lit := .addr, hint := true, scope := true, dr := true }
  | 4 => { d := (.win 4), a := .scal, b := (.win 1), lit := .addr, hint := true, scope := true, dr := true }
  | 5 => { d := .scal, a := .scal, lit := .addr, hint := true, scope := true }
  | 6 => { d := .scal, a := .scal, lit := .addr, hint := true, scope := true }
  | 7 => { d := (.win 1), a := .scal, b := (.win 1), lit := .addr, hint := true, scope := true, dr := true }
  | 8 => { d := .scal, a := .scal, lit := .addr, hint := true, scope := true }
  | _ => {}

/-- Forms of AT, major 0x14, by minor. -/
def formAT : Nat → Form
  | 0 => { d := (.retWin 1), a := .scal, b := (.win 1), c := (.win 1), lit := .addr, xmod := .noret, hint := true, scope := true, vl := .unlessNoRet, dw := true }
  | 1 => { d := (.retWin 1), a := .scal, b := (.win 1), c := (.win 1), lit := .addr, xmod := .noret, hint := true, scope := true, vl := .unlessNoRet, dw := true }
  | 2 => { d := (.retWin 1), a := .scal, b := (.win 1), c := (.win 1), lit := .addr, xmod := .noret, hint := true, scope := true, vl := .unlessNoRet, dw := true }
  | 3 => { d := (.retWin 1), a := .scal, b := (.win 1), c := (.win 1), lit := .addr, xmod := .noret, hint := true, scope := true, vl := .unlessNoRet, dw := true }
  | 4 => { d := (.retWin 1), a := .scal, b := (.win 1), c := (.win 1), lit := .addr, xmod := .noret, hint := true, scope := true, vl := .unlessNoRet, dw := true }
  | 5 => { d := (.retWin 1), a := .scal, b := (.win 1), c := (.win 1), lit := .addr, xmod := .noret, hint := true, scope := true, vl := .unlessNoRet, dw := true }
  | 6 => { d := (.retWin 1), a := .scal, b := (.win 1), c := (.win 1), lit := .addr, xmod := .noret, hint := true, scope := true, vl := .unlessNoRet, dw := true }
  | 7 => { d := (.retWin 1), a := .scal, b := (.win 1), c := (.win 1), lit := .addr, xmod := .noret, hint := true, scope := true, vl := .unlessNoRet, dw := true }
  | 8 => { d := (.retWin 1), a := .scal, b := (.win 1), c := (.win 1), lit := .addr, xmod := .noret, hint := true, scope := true, vl := .unlessNoRet, dw := true }
  | 9 => { d := (.win 1), a := .scal, b := (.win 1), c := (.win 1), lit := .addr, xmod := .noret, hint := true, scope := true, vl := .unlessNoRet, dw := true, dr := true }
  | 10 => { d := (.retWin 1), a := .scal, b := (.win 1), c := (.win 1), lit := .addr, xmod := .noret, hint := true, scope := true, vl := .unlessNoRet, dw := true }
  | 11 => { d := (.retWin 1), a := .scal, b := (.win 1), c := (.win 1), lit := .addr, xmod := .noret, hint := true, scope := true, vl := .unlessNoRet, dw := true }
  | 12 => { d := (.retWin 1), a := .scal, b := (.win 1), lit := .addr, xmod := .noret, hint := true, scope := true, vl := .unlessNoRet, dw := true }
  | 13 => { d := (.retWin 2), a := .scal, b := (.win 1), c := (.win 2), lit := .addr, xmod := .noret, hint := true, scope := true, vl := .unlessNoRet, dw := true }
  | _ => {}

/-- Forms of ATS, major 0x15, by minor. -/
def formATS : Nat → Form
  | 0 => { d := .retScal, a := .scal, b := .scal, lit := .addr, xmod := .noret, hint := true, scope := true, vl := .unlessNoRet, dw := true }
  | 1 => { d := .retScal, a := .scal, b := .scal, lit := .addr, xmod := .noret, hint := true, scope := true, vl := .unlessNoRet, dw := true }
  | 2 => { d := .retScal, a := .scal, b := .scal, lit := .addr, xmod := .noret, hint := true, scope := true, vl := .unlessNoRet, dw := true }
  | 3 => { d := .retScal, a := .scal, b := .scal, lit := .addr, xmod := .noret, hint := true, scope := true, vl := .unlessNoRet, dw := true }
  | 4 => { d := .retScal, a := .scal, b := .scal, lit := .addr, xmod := .noret, hint := true, scope := true, vl := .unlessNoRet, dw := true }
  | 5 => { d := .retScal, a := .scal, b := .scal, lit := .addr, xmod := .noret, hint := true, scope := true, vl := .unlessNoRet, dw := true }
  | 6 => { d := .retScal, a := .scal, b := .scal, lit := .addr, xmod := .noret, hint := true, scope := true, vl := .unlessNoRet, dw := true }
  | 7 => { d := .retScal, a := .scal, b := .scal, lit := .addr, xmod := .noret, hint := true, scope := true, vl := .unlessNoRet, dw := true }
  | 8 => { d := .retScal, a := .scal, b := .scal, lit := .addr, xmod := .noret, hint := true, scope := true, vl := .unlessNoRet, dw := true }
  | 9 => { d := .scal, a := .scal, b := .scal, lit := .addr, xmod := .noret, hint := true, scope := true, vl := .unlessNoRet, dw := true }
  | 10 => { d := .retScal, a := .scal, b := .scal, lit := .addr, xmod := .noret, hint := true, scope := true, vl := .unlessNoRet, dw := true }
  | 11 => { d := .retScal, a := .scal, b := .scal, lit := .addr, xmod := .noret, hint := true, scope := true, vl := .unlessNoRet, dw := true }
  | 12 => { d := .retScal, a := .scal, lit := .addr, xmod := .noret, hint := true, scope := true, vl := .unlessNoRet, dw := true }
  | 13 => { d := .retScal, a := .scal, b := .scal, lit := .addr, xmod := .noret, hint := true, scope := true, vl := .unlessNoRet, dw := true }
  | _ => {}

/-- Forms of MO, major 0x16, by minor. -/
def formMO : Nat → Form
  | 0 => { xmod := .fence, scope := true }
  | 1 => { a := .scal, b := (.win 1), lit := .addr, hint := true, scope := true }
  | 2 => { a := .scal, b := (.win 1), lit := .addr, scope := true }
  | 3 => { a := .scal, b := (.win 1), lit := .addr, scope := true }
  | _ => {}

/-- Forms of LL, major 0x17, by minor. -/
def formLL : Nat → Form
  | 0 => { d := (.win 1), a := (.win 1), b := .scal, lit := .addr, xmod := .tag, hint := true, scope := true, dw := true }
  | 1 => { d := (.win 1), a := (.win 1), b := .scal, lit := .addr, xmod := .tag, hint := true, scope := true, dw := true }
  | 2 => { d := (.win 1), a := (.win 1), b := .scal, lit := .addr, xmod := .tag, hint := true, scope := true, dw := true }
  | 3 => { d := (.win 1), a := (.win 1), b := .scal, lit := .addr, xmod := .tag, hint := true, scope := true, dw := true }
  | 4 => { d := (.win 1), a := (.win 1), b := .scal, lit := .addr, xmod := .tag, hint := true, scope := true, dw := true }
  | 5 => { d := (.win 2), a := (.win 1), b := .scal, lit := .addr, xmod := .tag, hint := true, scope := true, dw := true }
  | 6 => { d := (.win 4), a := (.win 1), b := .scal, lit := .addr, xmod := .tag, hint := true, scope := true, dw := true }
  | 7 => { d := (.win 1), a := (.win 1), b := .scal, lit := .addr, hint := true, scope := true, dr := true }
  | 8 => { d := (.win 1), a := (.win 1), b := .scal, lit := .addr, hint := true, scope := true, dr := true }
  | 9 => { d := (.win 1), a := (.win 1), b := .scal, lit := .addr, hint := true, scope := true, dr := true }
  | 10 => { d := (.win 2), a := (.win 1), b := .scal, lit := .addr, hint := true, scope := true, dr := true }
  | 11 => { d := (.win 4), a := (.win 1), b := .scal, lit := .addr, hint := true, scope := true, dr := true }
  | 12 => { d := (.win 1), a := (.win 1), b := .scal, c := (.win 1), lit := .addr, hint := true, scope := true, dw := true }
  | 13 => { d := (.win 1), a := (.win 1), b := .scal, c := (.win 1), lit := .addr, hint := true, scope := true, dw := true }
  | 14 => { d := (.win 1), a := (.win 1), b := .scal, c := (.win 1), lit := .addr, hint := true, scope := true, dw := true }
  | 15 => { d := (.win 1), a := (.win 1), b := .scal, c := (.win 1), lit := .addr, hint := true, scope := true, dw := true }
  | 16 => { d := (.win 1), a := (.win 1), b := .scal, c := (.win 1), lit := .addr, hint := true, scope := true, dw := true, dr := true }
  | _ => {}

/-- Forms of CP, major 0x18, by minor. -/
def formCP : Nat → Form
  | 0 => { d := (.win 1), a := (.win 1), b := .cpBase, c := .scal, lit := .cp, xmod := .cpdir, hint := true, scope := true, place := .tileCluster, dr := true }
  | 1 => { d := (.win 1), a := (.win 1), b := .cpBase, c := .scal, lit := .cp, xmod := .cpdir, hint := true, scope := true, place := .tileCluster, dr := true }
  | 2 => { d := (.win 1), a := (.win 1), b := .cpBase, c := .scal, lit := .cp, xmod := .cpdir, hint := true, scope := true, place := .tileCluster, dr := true }
  | 3 => { d := .scal, hint := true, scope := true, dw := true }
  | 4 => { a := .scal, lit := .a64, nb := true }
  | 5 => { d := (.win 1), a := (.win 1), b := .scal, c := .scal, lit := .addr, hint := true, scope := true, place := .tileCluster, dr := true }
  | _ => {}

/-- Forms of BA, major 0x19, by minor. -/
def formBA : Nat → Form
  | 0 => { a := .scal, b := .scal, lit := .b64 }
  | 1 => { a := .scal }
  | 2 => { a := .scal, b := .scal, lit := .b64 }
  | 3 => { d := .predW, a := .scal, b := .scal, dw := true }
  | 4 => { d := .predW, a := .scal, b := .scal, dw := true }
  | 5 => { a := .scal }
  | 6 => {}
  | 7 => { a := .scal }
  | _ => {}

/-- Forms of MX, major 0x1a, by minor. -/
def formMX : Nat → Form
  | 0 => { d := .panel, a := .scal, b := .scal, lit := .addr, vl := .always, dw := true }
  | 1 => { d := .panel, a := .scal, b := .scal, lit := .addr, vl := .always }
  | 2 => { d := .panel, dw := true }
  | 3 => {}
  | 4 => { d := .acc, a := .panel, b := .panel, vl := .always, dw := true }
  | 5 => { d := .acc, a := .panel, b := .panel, vl := .always, dw := true }
  | 6 => { d := .acc, dw := true }
  | 7 => { d := .acc, a := .scal, lit := .a64, dw := true }
  | 8 => { d := (.win 1), a := .acc, b := .scal, vl := .always, dw := true }
  | 9 => { d := .imm, a := .acc, b := .scal, c := .scal, lit := .addr, vl := .always }
  | 10 => { d := .scal, a := .acc, dw := true }
  | 11 => { d := .panel, a := (.win 1), b := .scal, c := .imm, dw := true }
  | 12 => { d := (.win 1), a := .panel, b := .scal, c := .imm, dw := true }
  | _ => {}

/-- Forms of SQ, major 0x1b, by minor. -/
def formSQ : Nat → Form
  | 0 => { d := .imm, a := .scal, b := .scal, lit := .req64 }
  | _ => {}

/-- Forms of KN, major 0x1c, by minor. -/
def formKN : Nat → Form
  | 0 => { d := (.win 1), a := .scal, b := .scal, lit := .req64, dr := true }
  | 1 => {}
  | 2 => {}
  | 3 => { d := .scal, b := .imm, dw := true }
  | 4 => { d := (.win 1), b := .imm, dw := true }
  | 5 => {}
  | _ => {}

/-- Forms of QM, major 0x1d, by minor. -/
def formQM : Nat → Form
  | 0 => { a := (.win 2), place := .bank }
  | 1 => { d := (.win 2), place := .bank, nb := true, vl := .always, dw := true }
  | 2 => { a := (.win 1), place := .bank }
  | 3 => { d := (.win 1), a := .imm, nb := true, vl := .always, dw := true }
  | 4 => { d := .scal, a := .imm, dw := true }
  | _ => {}

/-- Forms of TK, major 0x1e, by minor. -/
def formTK : Nat → Form
  | 0 => { d := .scal, a := .scal, b := .scal, lit := .addr, dw := true }
  | 1 => { d := .scal, a := .scal, lit := .addr, dw := true }
  | 2 => { a := .scal, b := .scal }
  | 3 => { a := .scal }
  | 4 => { d := .scal, a := .scal, vl := .always, dw := true }
  | 5 => { d := .scal, a := .scal, vl := .always, dw := true }
  | _ => {}

/-- Forms of DT, major 0x1f, by minor. -/
def formDT : Nat → Form
  | 0 => { d := .predW, nb := true, dw := true }
  | 1 => {}
  | 2 => {}
  | _ => {}

/-- Forms of CL, major 0x20, by minor. -/
def formCL : Nat → Form
  | 0 => { d := .imm, a := .scal, lit := .addr }
  | 1 => { d := .imm, a := .scal, b := .imm, lit := .a64 }
  | 2 => { d := .scal, a := .imm, b := .imm, vl := .always, dw := true }
  | 3 => { d := .imm, a := .scal, b := .imm, lit := .req64 }
  | 4 => { a := .scal, lit := .addr }
  | _ => {}

/-- Forms of TM, major 0x21, by minor. -/
def formTM : Nat → Form
  | 0 => { d := .scal, dw := true }
  | 1 => { d := .scal, dw := true }
  | 2 => { a := .scal, lit := .a64 }
  | 3 => { d := .predW, dw := true }
  | 4 => { d := .scal, dw := true }
  | _ => {}

/-- Forms of SY, major 0x22, by minor. -/
def formSY : Nat → Form
  | 0 => { d := .scal, a := .imm, b := .imm, dw := true }
  | 1 => { d := .imm, a := .scal, b := .imm, lit := .a64 }
  | 2 => {}
  | 3 => {}
  | 4 => { a := .scal, b := .scal }
  | 5 => {}
  | 6 => { d := .scal, a := .scal, dw := true }
  | 7 => { d := .scal, a := .scal, dw := true }
  | 8 => {}
  | 9 => { a := .scal, b := .scal, lit := .b64 }
  | 10 => { d := .scal, a := .scal, b := .imm, dw := true }
  | _ => {}

/-- The form of a major and minor (R25, R33, R38, R40). -/
def Form.of (maj min : Nat) : Form :=
  match maj with
  | 0x01 => formIV min
  | 0x02 => formIS min
  | 0x03 => formICV min
  | 0x04 => formICS min
  | 0x05 => formPK min
  | 0x06 => formFV min
  | 0x07 => formFS min
  | 0x08 => formFCV min
  | 0x09 => formCVT min
  | 0x0a => formNQ min
  | 0x0b => formXL min
  | 0x0c => formMV min
  | 0x0d => formPR min
  | 0x10 => formCF min
  | 0x11 => formLP min
  | 0x12 => formLDG min
  | 0x13 => formSTG min
  | 0x14 => formAT min
  | 0x15 => formATS min
  | 0x16 => formMO min
  | 0x17 => formLL min
  | 0x18 => formCP min
  | 0x19 => formBA min
  | 0x1a => formMX min
  | 0x1b => formSQ min
  | 0x1c => formKN min
  | 0x1d => formQM min
  | 0x1e => formTK min
  | 0x1f => formDT min
  | 0x20 => formCL min
  | 0x21 => formTM min
  | 0x22 => formSY min
  | _ => {}

/-- The form of each instruction; a step without words has none of its fields. -/
def Instr.form (i : Instr) : Form :=
  match i.majMin with
  | some (maj, min) => Form.of maj min
  | none => {}

/-- True of the steps of the machine that no instruction word names. -/
def Instr.isEvent (i : Instr) : Bool :=
  match i with
  | .clauseBoundary _ => false
  | i => i.ops.isNone

end Sys2Proof
end

