-- ==== Sys2Proof/WellFormed.lean ====
section
/-! DEFINITION. Well-formedness of an instruction as syntax: the constructors that share a major and a minor
are told apart by a field, and a well-formed instruction carries the field its constructor stands for; and its
fields pass the checks of 02 R43 steps 3 to 5 that need no state. -/
namespace Sys2Proof

/-- XMOD of the words, absent value 0 (R27). -/
def Ops.xm (o : Ops) : Nat := match o.ext with | some e => e.xmod.toNat | none => 0

/-- The constructor agrees with the field that selects it among those of one minor (fence kind, `fring` operation,
CSR number). -/
def Instr.selected : Instr → Bool
  | .fenceSc o => o.xm != 1 && o.xm != 2 && o.xm != 3
  | .fenceAcq o => o.xm == 1
  | .fenceRel o => o.xm == 2
  | .fenceAcqrel o => o.xm == 3
  | .fringCons o => o.b != 1 && o.b != 2 && o.b != 3
  | .fringResume o => o.b == 1
  | .fringKill o => o.b == 2
  | .fringQuota o => o.b == 3
  | .flagsRead o => o.a == 0 && o.b == 1
  | .csrrd o => !(o.a == 0 && o.b == 1)
  | .healthRead o => o.a == 9 && o.b == 0
  | .csrrdp o => !(o.a == 9 && o.b == 0)
  | .winstatWrite o => o.d == 0 && o.b == 0x21
  | .flagsWrite o => o.d == 0 && o.b == 1
  | .spillbaseWrite o => o.d == 0 && o.b == 0x20
  | .trappcWrite o => o.d == 0 && o.b == 0x32
  | .csrwr o => !(o.d == 0 && (o.b == 0x21 || o.b == 1 || o.b == 0x20 || o.b == 0x32))
  | .quotaCsrWrite o => o.d == 8 && (o.b == 2 || o.b == 3)
  | .turnPeriodWrite o => o.d == 8 && o.b == 0x10
  | .swallowWrite o => o.d == 8 && o.b == 0x20
  | .droopthWrite o => o.d == 8 && o.b == 0x21
  | .dampcfgWrite o => o.d == 8 && o.b == 0x22
  | .slewbudgetWrite o => o.d == 8 && o.b == 0x23
  | .placetabSelect o => o.d == 8 && o.b == 0x30
  | .healthWrite o => o.d == 9 && o.b == 0
  | .ringbaseWrite o => o.d == 9 && (o.b == 0x10 || o.b == 0x11)
  | .ctxpoolWrite o => o.d == 9 && o.b == 0x20
  | .collcfgWrite o => o.d == 9 && o.b == 0x30
  | .csrwrp o => !((o.d == 8 && (o.b == 2 || o.b == 3 || o.b == 0x10 || o.b == 0x20 || o.b == 0x21 || o.b == 0x22
      || o.b == 0x23 || o.b == 0x30)) || (o.d == 9 && (o.b == 0 || o.b == 0x10 || o.b == 0x11 || o.b == 0x20
      || o.b == 0x30)))
  | _ => true

/-- LEN agrees with the use of the literal (R23, R43 step 3), the copy direction read from XMOD (R104). -/
def litOk (u : LitUse) (o : Ops) : Bool :=
  let upper (l : BitVec 64) : Bool :=
    l.extractLsb' 32 32 == 0 || (l.extractLsb' 32 32 == BitVec.allOnes 32 && l.getLsbD 31)
  match u, o.lit with
  | .no, none | .b32, none | .b64, none | .a64, none | .addr, none | .off, none | .cp, none => true
  | .no, some _ => false
  | .req32, none | .req64, none => false
  | .b32, some l | .req32, some l => upper l
  | .b64, some _ | .a64, some _ | .addr, some _ | .req64, some _ | .off, some _ => true
  | .cp, some _ => o.xm % 4 != 2

/-- A field of class unused is zero (R25). -/
def clsZero (cl : Cls) (o : Ops) (v : BitVec 6) : Bool :=
  match cl with
  | .none => v == 0
  | .comb => v.getLsbD 3 == false
  | .retWin _ | .retScal => o.xm % 2 == 0 || v == 0
  | .cpBase => o.xm % 4 != 2 || v == 0
  | _ => true

/-- A register number lies in its class, as far as the class needs no launch block (R25). -/
def clsRange (cl : Cls) (v : BitVec 6) : Bool :=
  match cl with
  | .win n => v.toNat + n ≤ 64
  | .retWin n => v.toNat + n ≤ 64
  | .scal | .retScal | .cpBase => v.toNat < 32
  | .predR => v.toNat < 8
  | .predW => v.toNat < 7
  | .comb => v.toNat % 8 < 7
  | .panel | .nf => v.toNat < 8
  | .acc => v.toNat < 4
  | _ => true

/-- Well-formed (R25, R23, R33 as far as they need no state). -/
def Instr.wellFormed (i : Instr) : Bool :=
  match i.ops with
  | none => true
  | some o =>
    let f := i.form
    i.selected && litOk f.lit o
      && clsZero f.d o o.d && clsZero f.a o o.a && clsZero f.b o o.b
      && clsRange f.d o.d && clsRange f.a o.a && clsRange f.b o.b
      && (match o.ext with
          | none => true
          | some e => e.zero == 0 && clsZero f.c o e.c && clsRange f.c e.c && (!e.pinv || e.pred != 7))

end Sys2Proof
end

