-- ==== Sys2Proof/Decode.lean ====
section
/-! DEFINITION. The decoder and the encoder, both from the encoding tables of 02 (R22 to R35, R40). The decoder is
total: it answers the instruction and how many words it takes, or the reason for its refusal by name. What a
refusal raises is R41 and R43 (step 2), which the step takes; field checks are made when the instruction
issues. -/
namespace Sys2Proof

/-- Why words are no instruction (R41). -/
inductive Reject where
  /-- fewer words than LEN asks for. -/
  | truncated
  /-- a reserved major opcode: ILLOP 0x01. -/
  | reservedMajor
  /-- a reserved minor opcode: ILLOP 0x02. -/
  | reservedMinor
  /-- MAJ = 0x3F with LEN other than 0: no valid header (R35). -/
  | badHeader
deriving DecidableEq, Repr

/-- Bits [hi:lo] of a value, as a number. -/
def bits (w : Nat) (hi lo : Nat) : Nat := (w >>> lo) % 2 ^ (hi + 1 - lo)

/-- LEN of a first word (R22). -/
def lenOf (w : W32) : Nat := bits w.toNat 1 0

/-- Words of an instruction whose LEN is `l` (R22). -/
def wordsOfLen (l : Nat) : Nat := if l = 0 then 1 else if l = 3 then 5 else 3

/-- Extended words 1 and 2 (R27, R31). -/
def decodeExt (e1 e2 : W32) : Ext where
  xmod := e1.extractLsb' 28 4
  pinv := e1.getLsbD 27
  pred := e1.extractLsb' 24 3
  c := e1.extractLsb' 18 6
  pb := e1.extractLsb' 9 9
  pa := e1.extractLsb' 0 9
  zero := e2.extractLsb' 24 8
  hint := e2.extractLsb' 21 3
  abs := e2.getLsbD 20
  nbp := e2.extractLsb' 17 3
  nb := e2.getLsbD 16
  scope := e2.extractLsb' 12 4
  place := e2.extractLsb' 0 12

/-- The fields of the words (R24, R27, R31, R13). -/
def decodeOps (w : W32) (rest : List W32) : Option Ops :=
  let o (ext : Option Ext) (lit : Option (BitVec 64)) : Ops :=
    { fs := w.getLsbD 31, b := w.extractLsb' 20 6, a := w.extractLsb' 14 6, d := w.extractLsb' 8 6,
      ext := ext, lit := lit }
  match lenOf w, rest with
  | 0, _ => some (o none none)
  | 1, e1 :: e2 :: _ => some (o (some (decodeExt e1 e2)) none)
  | 2, l :: h :: _ => some (o none (some (h ++ l)))
  | 3, e1 :: e2 :: l :: h :: _ => some (o (some (decodeExt e1 e2)) (some (h ++ l)))
  | _, _ => none

/-- The CSR number of `csrrd` and `csrrdp`: A holds [11:6], B holds [5:0] (R143, R377). -/
def csrNumA (o : Ops) : Nat := o.a.toNat * 64 + o.b.toNat

/-- The CSR number of `csrwr` and `csrwrp`: D holds [11:6], B holds [5:0]. -/
def csrNumD (o : Ops) : Nat := o.d.toNat * 64 + o.b.toNat

/-- XMOD of the words, 0 where there are no extended words. -/
def Ops.xmodNat (o : Ops) : Nat := match o.ext with | some e => e.xmod.toNat | none => 0

/-- Minors of IV, major 0x01 (R40). -/
noncomputable def decodeIV (o : Ops) : Nat → Option Instr
  | 0 => some (.iadd o)
  | 1 => some (.isub o)
  | 2 => some (.imul o)
  | 3 => some (.imulh o)
  | 4 => some (.imulhn o)
  | 5 => some (.imad o)
  | 6 => some (.imin o)
  | 7 => some (.imax o)
  | 8 => some (.nmin o)
  | 9 => some (.nmax o)
  | 10 => some (.iabs o)
  | 11 => some (.ineg o)
  | 12 => some (.and o)
  | 13 => some (.or o)
  | 14 => some (.xor o)
  | 15 => some (.andn o)
  | 16 => some (.not o)
  | 17 => some (.shl o)
  | 18 => some (.shr o)
  | 19 => some (.sar o)
  | 20 => some (.rotl o)
  | 21 => some (.clz o)
  | 22 => some (.popc o)
  | 23 => some (.brev o)
  | 24 => some (.sadd o)
  | 25 => some (.ssub o)
  | 26 => some (.sel o)
  | 27 => some (.bfx o)
  | 28 => some (.bfi o)
  | 29 => some (.idiv o)
  | 30 => some (.irem o)
  | _ => none

/-- Minors of IS, major 0x02 (R40). -/
noncomputable def decodeIS (o : Ops) : Nat → Option Instr
  | 0 => some (.iaddS o)
  | 1 => some (.isubS o)
  | 2 => some (.imulS o)
  | 3 => some (.imulhS o)
  | 4 => some (.imulhnS o)
  | 5 => some (.imadS o)
  | 6 => some (.iminS o)
  | 7 => some (.imaxS o)
  | 8 => some (.nminS o)
  | 9 => some (.nmaxS o)
  | 10 => some (.iabsS o)
  | 11 => some (.inegS o)
  | 12 => some (.andS o)
  | 13 => some (.orS o)
  | 14 => some (.xorS o)
  | 15 => some (.andnS o)
  | 16 => some (.notS o)
  | 17 => some (.shlS o)
  | 18 => some (.shrS o)
  | 19 => some (.sarS o)
  | 20 => some (.rotlS o)
  | 21 => some (.clzS o)
  | 22 => some (.popcS o)
  | 23 => some (.brevS o)
  | 24 => some (.saddS o)
  | 25 => some (.ssubS o)
  | 26 => some (.selS o)
  | 27 => some (.bfxS o)
  | 28 => some (.bfiS o)
  | 29 => some (.idivS o)
  | 30 => some (.iremS o)
  | _ => none

/-- Minors of ICV, major 0x03 (R40). -/
noncomputable def decodeICV (o : Ops) : Nat → Option Instr
  | 0 => some (.icmpeq o)
  | 1 => some (.icmpne o)
  | 2 => some (.icmplt o)
  | 3 => some (.icmple o)
  | 4 => some (.icmpgt o)
  | 5 => some (.icmpge o)
  | 6 => some (.icmplo o)
  | 7 => some (.icmpls o)
  | 8 => some (.icmphi o)
  | 9 => some (.icmphs o)
  | _ => none

/-- Minors of ICS, major 0x04 (R40). -/
noncomputable def decodeICS (o : Ops) : Nat → Option Instr
  | 0 => some (.icmpeqS o)
  | 1 => some (.icmpneS o)
  | 2 => some (.icmpltS o)
  | 3 => some (.icmpleS o)
  | 4 => some (.icmpgtS o)
  | 5 => some (.icmpgeS o)
  | 6 => some (.icmploS o)
  | 7 => some (.icmplsS o)
  | 8 => some (.icmphiS o)
  | 9 => some (.icmphsS o)
  | _ => none

/-- Minors of PK, major 0x05 (R40). -/
noncomputable def decodePK (o : Ops) : Nat → Option Instr
  | 0 => some (.add2 o)
  | 1 => some (.sub2 o)
  | 2 => some (.sadd2 o)
  | 3 => some (.ssub2 o)
  | 4 => some (.min2 o)
  | 5 => some (.max2 o)
  | 6 => some (.mul2l o)
  | 7 => some (.dot2 o)
  | 8 => some (.dot4 o)
  | 9 => some (.cmpm2 o)
  | 10 => some (.pack2 o)
  | 11 => some (.swap2 o)
  | 12 => some (.absd2 o)
  | 13 => some (.rshr o)
  | 14 => some (.rshrn o)
  | 15 => some (.sxt2 o)
  | _ => none

/-- Minors of FV, major 0x06 (R40). -/
noncomputable def decodeFV (o : Ops) : Nat → Option Instr
  | 0 => some (.fadd o)
  | 1 => some (.fsub o)
  | 2 => some (.fmul o)
  | 3 => some (.ffma o)
  | 4 => some (.ffms o)
  | 5 => some (.fnma o)
  | 6 => some (.fmin o)
  | 7 => some (.fmax o)
  | 8 => some (.fminnum o)
  | 9 => some (.fmaxnum o)
  | 10 => some (.fabs o)
  | 11 => some (.fneg o)
  | 12 => some (.fcps o)
  | 13 => some (.frnd o)
  | 14 => some (.frcp o)
  | 15 => some (.frsq o)
  | 16 => some (.fsqrt o)
  | 17 => some (.fdiv o)
  | 18 => some (.fexp2 o)
  | 19 => some (.flog2 o)
  | 20 => some (.ftanh o)
  | 21 => some (.fsig o)
  | 22 => some (.fclass o)
  | _ => none

/-- Minors of FS, major 0x07 (R40). -/
noncomputable def decodeFS (o : Ops) : Nat → Option Instr
  | 0 => some (.faddS o)
  | 1 => some (.fsubS o)
  | 2 => some (.fmulS o)
  | 3 => some (.ffmaS o)
  | 4 => some (.ffmsS o)
  | 5 => some (.fnmaS o)
  | 6 => some (.fminS o)
  | 7 => some (.fmaxS o)
  | 8 => some (.fminnumS o)
  | 9 => some (.fmaxnumS o)
  | 10 => some (.fabsS o)
  | 11 => some (.fnegS o)
  | 12 => some (.fcpsS o)
  | 13 => some (.frndS o)
  | 14 => some (.frcpS o)
  | 15 => some (.frsqS o)
  | 16 => some (.fsqrtS o)
  | 17 => some (.fdivS o)
  | 18 => some (.fexp2S o)
  | 19 => some (.flog2S o)
  | 20 => some (.ftanhS o)
  | 21 => some (.fsigS o)
  | 22 => some (.fclassS o)
  | _ => none

/-- Minors of FCV, major 0x08 (R40). -/
noncomputable def decodeFCV (o : Ops) : Nat → Option Instr
  | 0 => some (.fcmpeq o)
  | 1 => some (.fcmpne o)
  | 2 => some (.fcmplt o)
  | 3 => some (.fcmple o)
  | 4 => some (.fcmpgt o)
  | 5 => some (.fcmpge o)
  | 6 => some (.fcmpun o)
  | 7 => some (.fcmpord o)
  | _ => none

/-- Minors of CVT, major 0x09 (R40). -/
noncomputable def decodeCVT (o : Ops) : Nat → Option Instr
  | 0 => some (.tof32 o)
  | 1 => some (.tobf16x2 o)
  | 2 => some (.tof16x2 o)
  | 3 => some (.toi32 o)
  | 4 => some (.ton32 o)
  | 5 => some (.toi16x2 o)
  | 6 => some (.toi8x4 o)
  | 7 => some (.tonf o)
  | 8 => some (.fromnf o)
  | 9 => some (.retag o)
  | 10 => some (.hi2f32 o)
  | _ => none

/-- Minors of NQ, major 0x0a (R40). -/
noncomputable def decodeNQ (o : Ops) : Nat → Option Instr
  | 0 => some (.qnt o)
  | 1 => some (.dqnt o)
  | 2 => some (.bamax o)
  | 3 => some (.scaleof o)
  | 4 => some (.pack4 o)
  | 5 => some (.unpack4 o)
  | _ => none

/-- Minors of XL, major 0x0b (R40). -/
noncomputable def decodeXL (o : Ops) : Nat → Option Instr
  | 0 => some (.perm o)
  | 1 => some (.slideup o)
  | 2 => some (.slidedn o)
  | 3 => some (.slideh o)
  | 4 => some (.slidehd o)
  | 5 => some (.pmovXl o)
  | 6 => some (.vany o)
  | 7 => some (.vall o)
  | 8 => some (.ballot o)
  | 9 => some (.bits2 o)
  | 10 => some (.lredadd o)
  | 11 => some (.lredfadd o)
  | 12 => some (.lredmax o)
  | 13 => some (.lredmin o)
  | 14 => some (.lscanadd o)
  | 15 => some (.lscanfadd o)
  | 16 => some (.laneid o)
  | 17 => some (.v2s o)
  | 18 => some (.s2v o)
  | 19 => some (.firstlane o)
  | _ => none

/-- Minors of MV, major 0x0c (R40). -/
noncomputable def decodeMV (o : Ops) : Nat → Option Instr
  | 0 => some (.mov o)
  | 1 => some (.movi o)
  | 2 => some (.movs o)
  | 3 => some (.movsi o)
  | 4 => some (.movx o)
  | 5 => some (.movxw o)
  | 6 => some (.movp o)
  | 7 => some (.movpr o)
  | 8 => some (.tagrd o)
  | 9 => some (match csrNumA o with | 1 => .flagsRead o | _ => .csrrd o)
  | 10 => some (match csrNumD o with | 0x21 => .winstatWrite o | 0x1 => .flagsWrite o | 0x20 => .spillbaseWrite o | 0x32 => .trappcWrite o | _ => .csrwr o)
  | 11 => some (.movlpc o)
  | 12 => some (.rdlpc o)
  | _ => none

/-- Minors of PR, major 0x0d (R40). -/
noncomputable def decodePR (o : Ops) : Nat → Option Instr
  | 0 => some (.pand o)
  | 1 => some (.por o)
  | 2 => some (.pxor o)
  | 3 => some (.pnot o)
  | 4 => some (.pmovPr o)
  | 5 => some (.ptov o)
  | 6 => some (.pcnt o)
  | 7 => some (.pall o)
  | _ => none

/-- Minors of CF, major 0x10 (R40). -/
noncomputable def decodeCF (o : Ops) : Nat → Option Instr
  | 0 => some (.br o)
  | 1 => some (.jmp o)
  | 2 => some (.call o)
  | 3 => some (.calli o)
  | 4 => some (.ret o)
  | 5 => some (.enter o)
  | 6 => some (.exit o)
  | 7 => some (.yield o)
  | 8 => some (.nop o)
  | 9 => some (.trap o)
  | 10 => some (.sys o)
  | _ => none

/-- Minors of LP, major 0x11 (R40). -/
noncomputable def decodeLP (o : Ops) : Nat → Option Instr
  | 0 => some (.loop o)
  | 1 => some (.lbrk o)
  | 2 => some (.lcnt o)
  | 3 => some (.lpop o)
  | _ => none

/-- Minors of LDG, major 0x12 (R40). -/
noncomputable def decodeLDG (o : Ops) : Nat → Option Instr
  | 0 => some (.ld8s o)
  | 1 => some (.ld8z o)
  | 2 => some (.ld16s o)
  | 3 => some (.ld16z o)
  | 4 => some (.ld32 o)
  | 5 => some (.ld64 o)
  | 6 => some (.ld128 o)
  | 7 => some (.lds32 o)
  | 8 => some (.lds64 o)
  | 9 => some (.ldacq32 o)
  | 10 => some (.ldacqs64 o)
  | _ => none

/-- Minors of STG, major 0x13 (R40). -/
noncomputable def decodeSTG (o : Ops) : Nat → Option Instr
  | 0 => some (.st8 o)
  | 1 => some (.st16 o)
  | 2 => some (.st32 o)
  | 3 => some (.st64 o)
  | 4 => some (.st128 o)
  | 5 => some (.sts32 o)
  | 6 => some (.sts64 o)
  | 7 => some (.strel32 o)
  | 8 => some (.strels64 o)
  | _ => none

/-- Minors of AT, major 0x14 (R40). -/
noncomputable def decodeAT (o : Ops) : Nat → Option Instr
  | 0 => some (.aadd o)
  | 1 => some (.amin o)
  | 2 => some (.amax o)
  | 3 => some (.anmin o)
  | 4 => some (.anmax o)
  | 5 => some (.aand o)
  | 6 => some (.aor o)
  | 7 => some (.axor o)
  | 8 => some (.aexch o)
  | 9 => some (.acas o)
  | 10 => some (.afadd o)
  | 11 => some (.afamax o)
  | 12 => some (.afamaxrst o)
  | 13 => some (.aadd64 o)
  | _ => none

/-- Minors of ATS, major 0x15 (R40). -/
noncomputable def decodeATS (o : Ops) : Nat → Option Instr
  | 0 => some (.aaddS o)
  | 1 => some (.aminS o)
  | 2 => some (.amaxS o)
  | 3 => some (.anminS o)
  | 4 => some (.anmaxS o)
  | 5 => some (.aandS o)
  | 6 => some (.aorS o)
  | 7 => some (.axorS o)
  | 8 => some (.aexchS o)
  | 9 => some (.acasS o)
  | 10 => some (.afaddS o)
  | 11 => some (.afamaxS o)
  | 12 => some (.afamaxrstS o)
  | 13 => some (.aadd64S o)
  | _ => none

/-- Minors of MO, major 0x16 (R40). -/
noncomputable def decodeMO (o : Ops) : Nat → Option Instr
  | 0 => some (match o.xmodNat with | 1 => .fenceAcq o | 2 => .fenceRel o | 3 => .fenceAcqrel o | _ => .fenceSc o)
  | 1 => some (.pf o)
  | 2 => some (.cwb o)
  | 3 => some (.cinv o)
  | _ => none

/-- Minors of LL, major 0x17 (R40). -/
noncomputable def decodeLL (o : Ops) : Nat → Option Instr
  | 0 => some (.ldl8s o)
  | 1 => some (.ldl8z o)
  | 2 => some (.ldl16s o)
  | 3 => some (.ldl16z o)
  | 4 => some (.ldl32 o)
  | 5 => some (.ldl64 o)
  | 6 => some (.ldl128 o)
  | 7 => some (.stl8 o)
  | 8 => some (.stl16 o)
  | 9 => some (.stl32 o)
  | 10 => some (.stl64 o)
  | 11 => some (.stl128 o)
  | 12 => some (.laadd o)
  | 13 => some (.lamin o)
  | 14 => some (.lamax o)
  | 15 => some (.laexch o)
  | 16 => some (.lacas o)
  | _ => none

/-- Minors of CP, major 0x18 (R40). -/
noncomputable def decodeCP (o : Ops) : Nat → Option Instr
  | 0 => some (.cp4 o)
  | 1 => some (.cp8 o)
  | 2 => some (.cp16 o)
  | 3 => some (.cpseal o)
  | 4 => some (.cpwait o)
  | 5 => some (.cpmc o)
  | _ => none

/-- Minors of BA, major 0x19 (R40). -/
noncomputable def decodeBA (o : Ops) : Nat → Option Instr
  | 0 => some (.binit o)
  | 1 => some (.barrive o)
  | 2 => some (.bexpect o)
  | 3 => some (.bwait o)
  | 4 => some (.btest o)
  | 5 => some (.binval o)
  | 6 => some (.bteam o)
  | 7 => some (.back o)
  | _ => none

/-- Minors of MX, major 0x1a (R40). -/
noncomputable def decodeMX (o : Ops) : Nat → Option Instr
  | 0 => some (.pld o)
  | 1 => some (.pst o)
  | 2 => some (.pzero o)
  | 3 => some (.pfence o)
  | 4 => some (.mma o)
  | 5 => some (.mmat o)
  | 6 => some (.czero o)
  | 7 => some (.canch o)
  | 8 => some (.cdrain o)
  | 9 => some (.cstore o)
  | 10 => some (.cstat o)
  | 11 => some (.pput o)
  | 12 => some (.pget o)
  | _ => none

/-- Minors of SQ, major 0x1b (R40). -/
noncomputable def decodeSQ (o : Ops) : Nat → Option Instr
  | 0 => some (.seq o)
  | _ => none

/-- Minors of KN, major 0x1c (R40). -/
noncomputable def decodeKN (o : Ops) : Nat → Option Instr
  | 0 => some (.rlxopen o)
  | 1 => some (.rlxpass o)
  | 2 => some (.rlxclose o)
  | 3 => some (.rlxstat o)
  | 4 => some (.rlxres o)
  | 5 => some (.rlxabort o)
  | _ => none

/-- Minors of QM, major 0x1d (R40). -/
noncomputable def decodeQM (o : Ops) : Nat → Option Instr
  | 0 => some (.qpush o)
  | 1 => some (.qpop o)
  | 2 => some (.mbsend o)
  | 3 => some (.mbrecv o)
  | 4 => some (.mbpeek o)
  | _ => none

/-- Minors of TK, major 0x1e (R40). -/
noncomputable def decodeTK (o : Ops) : Nat → Option Instr
  | 0 => some (.jobenq o)
  | 1 => some (.launch o)
  | 2 => some (.dinit o)
  | 3 => some (.ddec o)
  | 4 => some (.dread o)
  | 5 => some (.jobstat o)
  | _ => none

/-- Minors of DT, major 0x1f (R40). -/
noncomputable def decodeDT (o : Ops) : Nat → Option Instr
  | 0 => some (.embwait o)
  | 1 => some (.embpass o)
  | 2 => some (.embskip o)
  | _ => none

/-- Minors of CL, major 0x20 (R40). -/
noncomputable def decodeCL (o : Ops) : Nat → Option Instr
  | 0 => some (.qppost o)
  | 1 => some (.hcadd o)
  | 2 => some (.hcrd o)
  | 3 => some (.hcarm o)
  | 4 => some (.toksort o)
  | _ => none

/-- Minors of TM, major 0x21 (R40). -/
noncomputable def decodeTM (o : Ops) : Nat → Option Instr
  | 0 => some (.time o)
  | 1 => some (.cyc o)
  | 2 => some (.dline o)
  | 3 => some (.dchk o)
  | 4 => some (.dampst o)
  | _ => none

/-- Minors of SY, major 0x22 (R40). -/
noncomputable def decodeSY (o : Ops) : Nat → Option Instr
  | 0 => some (match csrNumA o with | 0x240 => .healthRead o | _ => .csrrdp o)
  | 1 => some (match csrNumD o with | 0x202 => .quotaCsrWrite o | 0x203 => .quotaCsrWrite o | 0x210 => .turnPeriodWrite o | 0x220 => .swallowWrite o | 0x221 => .droopthWrite o | 0x222 => .dampcfgWrite o | 0x223 => .slewbudgetWrite o | 0x230 => .placetabSelect o | 0x240 => .healthWrite o | 0x250 => .ringbaseWrite o | 0x251 => .ringbaseWrite o | 0x260 => .ctxpoolWrite o | 0x270 => .collcfgWrite o | _ => .csrwrp o)
  | 2 => some (.eret o)
  | 3 => some (.wfi o)
  | 4 => some (.tlbinv o)
  | 5 => some (.tlbharv o)
  | 6 => some (.ctxsave o)
  | 7 => some (.ctxload o)
  | 8 => some (.halt o)
  | 9 => some (.placewr o)
  | 10 => some (match o.b.toNat with | 1 => .fringResume o | 2 => .fringKill o | 3 => .fringQuota o | _ => .fringCons o)
  | _ => none

/-- Major and minor opcode to instruction (R40); the refusal names which of the two is reserved (R41, R43
step 2). -/
noncomputable def decodeMajMin (maj min : Nat) (o : Ops) : Except Reject Instr :=
  let pick (r : Option Instr) : Except Reject Instr := match r with | some i => .ok i | none => .error .reservedMinor
  match maj with
  | 0x01 => pick (decodeIV o min)
  | 0x02 => pick (decodeIS o min)
  | 0x03 => pick (decodeICV o min)
  | 0x04 => pick (decodeICS o min)
  | 0x05 => pick (decodePK o min)
  | 0x06 => pick (decodeFV o min)
  | 0x07 => pick (decodeFS o min)
  | 0x08 => pick (decodeFCV o min)
  | 0x09 => pick (decodeCVT o min)
  | 0x0a => pick (decodeNQ o min)
  | 0x0b => pick (decodeXL o min)
  | 0x0c => pick (decodeMV o min)
  | 0x0d => pick (decodePR o min)
  | 0x10 => pick (decodeCF o min)
  | 0x11 => pick (decodeLP o min)
  | 0x12 => pick (decodeLDG o min)
  | 0x13 => pick (decodeSTG o min)
  | 0x14 => pick (decodeAT o min)
  | 0x15 => pick (decodeATS o min)
  | 0x16 => pick (decodeMO o min)
  | 0x17 => pick (decodeLL o min)
  | 0x18 => pick (decodeCP o min)
  | 0x19 => pick (decodeBA o min)
  | 0x1a => pick (decodeMX o min)
  | 0x1b => pick (decodeSQ o min)
  | 0x1c => pick (decodeKN o min)
  | 0x1d => pick (decodeQM o min)
  | 0x1e => pick (decodeTK o min)
  | 0x1f => pick (decodeDT o min)
  | 0x20 => pick (decodeCL o min)
  | 0x21 => pick (decodeTM o min)
  | 0x22 => pick (decodeSY o min)
  | _ => .error .reservedMajor

/-- A clause header (R35). -/
def decodeHeader (w : W32) : Header where
  cnt := w.extractLsb' 28 4
  setb := w.extractLsb' 24 4
  seta := w.extractLsb' 20 4
  wait := w.extractLsb' 8 12

/-- The major opcode of a first word. -/
def majOf (w : W32) : Nat := bits w.toNat 7 2

/-- The minor opcode of a first word. -/
def minOf (w : W32) : Nat := bits w.toNat 30 26

/-- True of the majors of R40 that are families of instructions, the header apart. -/
def majorKnown (maj : Nat) : Bool := (1 ≤ maj && maj ≤ 0x0D) || (0x10 ≤ maj && maj ≤ 0x22)

/-- Decode the words at an address: the instruction and the number of words it takes. MAJ and MIN are looked
at before the words that LEN asks for (R43 step 2). -/
noncomputable def decode : List W32 → Except Reject (Instr × Nat)
  | [] => .error .truncated
  | w :: rest =>
    if majOf w = 0x3F then
      if lenOf w = 0 then .ok (.clauseBoundary (decodeHeader w), 1) else .error .badHeader
    else
      match decodeMajMin (majOf w) (minOf w) { fs := false, b := 0, a := 0, d := 0, ext := none, lit := none } with
      | .error r => .error r
      | .ok _ =>
        match decodeOps w rest with
        | none => .error .truncated
        | some o =>
          match decodeMajMin (majOf w) (minOf w) o with
          | .error r => .error r
          | .ok i => .ok (i, wordsOfLen (lenOf w))

/-- LEN that the presence of extended words and literal asks for (R22). -/
def Ops.len (o : Ops) : Nat := (if o.ext.isSome then 1 else 0) + (if o.lit.isSome then 2 else 0)

/-- Number of words (R22). -/
def Ops.words (o : Ops) : Nat := wordsOfLen o.len

/-- The first word (R24). -/
def encodeFirst (maj min : Nat) (o : Ops) : W32 :=
  BitVec.ofBool o.fs ++ BitVec.ofNat 5 min ++ o.b ++ o.a ++ o.d ++ BitVec.ofNat 6 maj ++ BitVec.ofNat 2 o.len

/-- Extended word 1 (R27). -/
def encodeExt1 (e : Ext) : W32 := e.xmod ++ BitVec.ofBool e.pinv ++ e.pred ++ e.c ++ e.pb ++ e.pa

/-- Extended word 2 (R31). -/
def encodeExt2 (e : Ext) : W32 :=
  e.zero ++ e.hint ++ BitVec.ofBool e.abs ++ e.nbp ++ BitVec.ofBool e.nb ++ e.scope ++ e.place

/-- The words after the first, in the order of R13. -/
def encodeRest (o : Ops) : List W32 :=
  (match o.ext with | some e => [encodeExt1 e, encodeExt2 e] | none => []) ++
  (match o.lit with | some l => [l.extractLsb' 0 32, l.extractLsb' 32 32] | none => [])

/-- A header word (R35). -/
def encodeHeader (h : Header) : W32 := h.cnt ++ h.setb ++ h.seta ++ h.wait ++ 0xFC#8

/-- The words of an instruction or header; a step of the machine without words has none. -/
def encode (i : Instr) : List W32 :=
  match i with
  | .clauseBoundary h => [encodeHeader h]
  | i =>
    match i.ops, i.majMin with
    | some o, some (maj, min) => encodeFirst maj min o :: encodeRest o
    | _, _ => []

/-- The bytes of words, little-endian (R13). -/
def wordBytes (w : W32) : List Byte :=
  [w.extractLsb' 0 8, w.extractLsb' 8 8, w.extractLsb' 16 8, w.extractLsb' 24 8]

/-- A word from its four bytes, little-endian (R13). -/
def bytesWord (b0 b1 b2 b3 : Byte) : W32 := b3 ++ b2 ++ b1 ++ b0

/-- The words of a byte string; bytes short of a word are dropped. -/
def bytesWords : List Byte → List W32
  | b0 :: b1 :: b2 :: b3 :: rest => bytesWord b0 b1 b2 b3 :: bytesWords rest
  | _ => []

/-- The decoder on bytes as memory holds them. -/
noncomputable def decodeBytes (bs : List Byte) : Except Reject (Instr × Nat) := decode (bytesWords bs)

/-- The five words of an instruction whose bits are `w`, numbered as spec/opcode_table.json numbers them; the bits
from `nbits` upwards are zero. -/
def tableWords (nbits w : Nat) : List W32 :=
  let v := w % 2 ^ nbits
  [BitVec.ofNat 32 v, BitVec.ofNat 32 (v >>> 32), BitVec.ofNat 32 (v >>> 64), BitVec.ofNat 32 (v >>> 96),
   BitVec.ofNat 32 (v >>> 128)]

/-- The instruction the decoder reads from the bytes of an instruction whose bits are `w`. -/
noncomputable def decodeTableWord (nbits w : Nat) : Option Instr :=
  match decodeBytes ((tableWords nbits w).flatMap wordBytes) with
  | .ok (i, _) => some i
  | .error _ => none

end Sys2Proof
end

