-- ==== Sys2Proof/Config.lean ====
section
/-! DEFINITION. What an implementation fixes: the three parts (00 R2), the shape of a stoker core's context (log
entry 1), Aelmel's keys (log entry 4), and the free values (log entries 5 and 6), which have no body: nothing
can be proved of what they are. -/
namespace Sys2Proof

/-- The variants of R2. -/
inductive Part where
  | jcf9420A | jcf9420B | jcf9410A
deriving DecidableEq, Repr

namespace Config

/-- Lanes of a stoker core's context: DESIGN CHOICE, log entry 1. -/
def coreWidth : Nat := 16

/-- Registers of a lane of a stoker core's context: DESIGN CHOICE, log entry 1. -/
def coreBudget : Nat := 64

/-- Free values: what a read of a panel without its fence, of a panel in a race, or of a register newly covered
by a lowered LO gives; the argument counts the free values taken (log entry 6). -/
opaque freeWord : Nat → BitVec 64

/-- The step that the machine takes next where the spec does not order its agents; `none` is the master clock
(log entry 5). -/
opaque schedule : Nat → Option Instr

/-- Novnath's firmware key: does the signature stand over the message (R398)? -/
opaque firmwareSigned : List Byte → List Byte → Bool

/-- The bytes, 114 in number, of the identity key's signature over a message (R401). -/
opaque identitySign : List Byte → Nat → Byte

/-- The bytes, 57 in number, of the public half of the identity key (R401). -/
opaque identityKey : Nat → Byte

/-- The bytes of Novnath's certificate for that key, and how many there are (R401). -/
opaque identityCert : Nat → Byte
opaque identityCertBytes : Nat

/-- A read of a register that is write-only, of its offset and of the steps taken (log entry 25). -/
opaque deviceByte : Nat → Nat → BitVec 8

/-- Entries of a tile's TLB (R56). -/
def tlbTile : Nat := 512

/-- Entries of the other masters' TLBs (R56). -/
def tlbMaster : Nat := 64

/-- Entries of a die's shared TLB (R56). -/
def tlbDie : Nat := 32768

/-- Entries of a die's walk cache (R56). -/
def walkCache : Nat := 128

end Config
end Sys2Proof
end

