-- ==== Sys2Proof/Machine/State.lean ====
section
/-! DEFINITION. The state of the module, as plain data: everything INVENTORY.md lists under "State". A numbered object
(tile, cluster, counter, queue ...) that stands in no list holds its reset value: lists of pairs (number, object)
are read through `aget` of Machine/Bits.lean with the reset value as default. -/
namespace Sys2Proof.Machine

/-- Bytes by address, in canonical form: addresses strictly rising, no entry 0x00 (an unlisted address reads
0x00; DESIGN CHOICE, log entry 2 for device memory, R293 for windows and panels). -/
abbrev Mem := List Host.Cell

/-! ## Registers and control flow of a group (06) -/

/-- A window register of the whole group: one word a lane, tag (R134), dirty bit (R136). -/
structure Slot where
  data : List W32 := []
  tag : BitVec 4 := 0
  dirty : Bool := true
deriving DecidableEq, Repr

/-- A scalar register (R132) and its dirty bit. -/
structure SReg where
  val : W64 := 0
  dirty : Bool := false
deriving DecidableEq, Repr

/-- A predicate (R133) and its dirty bit. -/
structure PReg where
  val : Mask := 0
  dirty : Bool := false
deriving DecidableEq, Repr

/-- The registers of a group: the lanes' stacks by physical slot (R127), s0 to s31, p0 to p6, and the
trap-level bank v56 to v63, s28 to s31, p6 (R131). -/
structure Regs where
  slots : List Slot := []
  sregs : List SReg := []
  pregs : List PReg := []
  bankV : List Slot := []
  bankS : List W64 := []
  bankP : Mask := 0
deriving DecidableEq, Repr

/-- Link-stack entry (R139). -/
structure LinkEntry where
  ret : W64
  step : Nat
deriving DecidableEq, Repr

/-- Loop-stack entry (R140). -/
structure LoopEntry where
  start : W64
  endh : W64
  n : W64
  fl : Nat
deriving DecidableEq, Repr

/-- Program counters, frame levels, stacks and window position (R128, R137 to R140); stacks top first. LDEPTH,
LOOPD and STEP are read from the stacks. -/
structure Flow where
  lpc : List W32 := []
  exited : Mask := 0
  fl : List Nat := []
  links : List LinkEntry := []
  loops : List LoopEntry := []
  wb : Nat := 0
  lo : Nat := 0
  tl : Bool := false
deriving DecidableEq, Repr

/-- MODE, FLAGS, nf0 to nf7 (R158, R162, R163) and the trap and spill CSRs (R146, R352, R359). -/
structure Csrs where
  mode : W64 := 0
  flags : W64 := 0
  nf : List (BitVec 16) := []
  trapvec : W64 := 0
  trapcause : W64 := 0
  trappc : W64 := 0
  trapinfo : W64 := 0
  spillbase : W64 := 0
  deadline : W64 := 0
deriving DecidableEq, Repr

/-- The loop buffer in use (R223, R224). -/
structure SeqRun where
  /-- instructions of the body. -/
  n : Nat
  /-- passes in all, and the pass in progress. -/
  passes : Nat
  pass : Nat
  /-- control bytes and literal stride. -/
  ctl : W64
  stride : W64
  /-- address and position in the clause of the first body instruction. -/
  body : W64
  bodyPos : Nat
deriving DecidableEq, Repr

/-- The clause in progress (R36). `seta` and `setb` are 15 for none; `targets` holds the next PC of the lanes
that a control transfer has sent elsewhere. -/
structure Clause where
  header : W64
  next : W64
  pos : Nat := 0
  cnt : Nat
  seta : Nat
  setb : Nat
  lanes : Mask
  targets : List (Nat × W64) := []
  seq : Option SeqRun := none
deriving DecidableEq, Repr

/-- Causes of local traps, in the order of R358. -/
inductive Cause where
  | illop | fmtx | wovf | wunf | illconv | accrange | rlxop | embreq | barbusy | deadline | quota | absent | swtrap
deriving DecidableEq, Repr

/-- A local trap raised and not yet taken (R361, R366, R206), with what TRAPCAUSE and TRAPPC will hold. -/
structure PendTrap where
  cause : Cause
  info : W64
  pc : W64
  pos : Nat := 0
  seta : Nat := 15
  setb : Nat := 15
  /-- lane set of the trapping clause, and the clause as it stands, for a re-issue. -/
  lanes : Mask := 0
  clause : Option Clause := none
  /-- the log entry that replays, for REPLAY = 1. -/
  replay : Option Nat := none
  held : Bool := false
  /-- the `eret` resumes from the restored program counters (R362 line 11). -/
  boundary : Bool := false
deriving DecidableEq, Repr

/-- The trap frame (R361 step 3) and what the hardware saved at entry (R362). -/
structure Frame where
  lpc : List W32
  fl : List Nat
  trap : PendTrap
  pcWritten : Bool := false
deriving DecidableEq, Repr

/-- A destination of a variable-latency instruction (R39); window registers by physical slot. -/
inductive Dest where
  | slot (n : Nat)
  | bankV (n : Nat)
  | sreg (n : Nat)
  | bankS (n : Nat)
  | preg (n : Nat)
  | bankP
  | panel (n : Nat)
  | acc (n : Nat)
deriving DecidableEq, Repr

/-- Why a group that was chosen could not issue (R295); kept until it issues. -/
inductive Stall where
  /-- a flag of the clause's WAIT mask is up (R36). -/
  | flags (wait : BitVec 12)
  /-- a destination is still to be written (R39). -/
  | dest
  /-- the selected completion flag reads 63 (R38). -/
  | flagFull
  /-- the operand log is full (R364). -/
  | logFull
  /-- behind an instruction that waits on a kernel fault (R365). -/
  | behind
  /-- earlier accesses of the group are to be bound or performed (R82, R84, R90). -/
  | order
  /-- the range scoreboard, a batch, a barrier phase, a queue, a table (R111 to R114, R315, R316, R313, R384). -/
  | resource
  /-- waits on the fault of this token (R365). -/
  | token (num : Nat)
  /-- an accumulator or panel is in use (R209, R213). -/
  | matrix
deriving DecidableEq, Repr

/-- What holds a group (R295). `words` is the length of the instruction that holds. -/
inductive Hold where
  | none
  /-- in `bwait` on the object at this offset of this team's window, to write these lanes of a predicate (R120). -/
  | bwait (team off : Nat) (d : Dest) (lanes : Mask) (words : Nat)
  | bteam (words : Nat)
  /-- in `embwait`, to write these lanes of a predicate (R322). -/
  | embwait (d : Dest) (lanes : Mask) (words : Nat)
  /-- batches unfinished are to fall to this number (R111, R112); `d`: of a `cpseal`, the register
  for the number of the batch it then closes. -/
  | batches (n : Nat) (d : Option Dest) (words : Nat)
  | rlxopen (words : Nat)
  | rlxpass (words : Nat)
  | rlxclose (words : Nat)
  /-- a trap waits for earlier variable-latency instructions (R361). -/
  | trapEntry
  /-- stopped by a turn or a pre-emption, or its team not resident (R331, R372). -/
  | stopped
  | wfi
  | halted
deriving DecidableEq, Repr

/-- A completion record of a freeze (R370). -/
structure Freeze where
  cause : Nat
  token : Nat
deriving DecidableEq, Repr

/-- A freeze whose record finds no room: the context stalls at the access until it does (R368, R370). -/
structure Owed where
  cause : Nat
  va : Nat
  ipa : Nat
deriving DecidableEq, Repr

/-- FRINGBASE and HRINGBASE, and CQBASE, which has their layout (R367, R394). -/
structure Ring where
  base : Nat := 0
  en : Bool := false
  log2n : Nat := 6
deriving DecidableEq, Repr

/-- What a stoker core has and a tile group has not (R52, R338, R343, R345, R367, R378). -/
structure CoreRegs where
  num : Nat
  vmtbase : W64 := 0
  /-- VMTBASE has been written (R399). -/
  tables : Bool := false
  quota : W64 := BitVec.allOnes 64
  qused : W64 := 0
  fring : Ring := {}
  hring : Ring := {}
  selSwallow : Nat := 0
  selDroop : Nat := 0
  selDamp : Nat := 0
  selSlew : Nat := 0
  doorbell : Bool := false
  /-- gang whose save a `ctxsave` waits for (R378). -/
  saving : Option Nat := none
deriving DecidableEq, Repr

/-- A context that issues: a tile group, or a stoker core (DESIGN CHOICE, log entry 1). -/
structure Group where
  id : Nat
  /-- a stoker core's registers. -/
  core : Option CoreRegs := none
  team : Nat := 0
  role : Nat := 0
  index : Nat := 0
  /-- sequencer of the tile (4 to 7 on the odd tile of a pair) and first quarter (R290). -/
  seqr : Nat := 0
  quarter : Nat := 0
  width : Nat
  budget : Nat
  codehi : BitVec 20 := 0
  asid : BitVec 14 := 0
  vmid : BitVec 8 := 0
  regs : Regs := {}
  flow : Flow := {}
  csrs : Csrs := {}
  /-- cf0 to cf11 (R38). -/
  cf : List Nat := []
  clause : Option Clause := none
  frame : Option Frame := none
  /-- trap raised, entry waiting (R361). -/
  pend : Option PendTrap := none
  /-- traps to be taken at the next clause boundary, oldest first. -/
  due : List PendTrap := []
  hold : Hold := .none
  stall : Option Stall := none
  frozen : Option Freeze := none
  owed : Option Owed := none
  retired : Bool := false
  /-- number of the next batch (R111). -/
  nextBatch : Nat := 0
  cyc : W64 := 0
  /-- local clock in which it last became ready (R295), and arbitrations lost in a row (R296). -/
  age : Nat := 0
  /-- number of its last placement, where that was a restore (R295). -/
  order : Nat := 0
  lost : Nat := 0
  yielded : Bool := false
deriving DecidableEq, Repr

/-! ## The operand log (02 R38, 21 R364) -/

/-- A part of an access that lies in one line (R77): device physical address, bytes, ATTR of its page. -/
structure Piece where
  pa : Nat
  n : Nat
  attr : Nat := 0
deriving DecidableEq, Repr

/-- One access of one lane, as it was formed at issue: where it goes. -/
inductive Place where
  /-- not translated yet, or to be translated again (R362). -/
  | todo
  /-- the parts, split at lines (R77). -/
  | phys (pieces : List Piece)
  /-- a team's window (R97). -/
  | loc (team off : Nat)
deriving DecidableEq, Repr

/-- Lane, virtual address, bytes and place. The scalar access of a group stands as lane 64 (R79); an access of a panel
or of an accumulator row stands as 1000 and its number. -/
structure Access where
  lane : Nat
  va : W64
  n : Nat
  place : Place := .todo
deriving DecidableEq, Repr

/-- Atomic operations (R86). -/
inductive AOp where
  | add | smin | smax | umin | umax | and | or | xor | exch | cas | fadd | famax | famaxrst | add64
deriving DecidableEq, Repr

/-- What the instruction in the log does. -/
inductive LogOp where
  /-- no lane executes: completes with no effect but its tags (R38, R134). -/
  | nothing
  /-- a load of `n` bytes (R81). -/
  | load (n : Nat) (signed : Bool) (acq : Bool) (scope hint : Nat)
  /-- a return-form atomic (R87). -/
  | atomic (op : AOp) (sext : Bool) (hint : Nat)
  | pld (panel : Nat)
  | pst
  /-- ti, tj, kb of the next step (R214). -/
  | mma (acc pa pb : Nat) (transposed : Bool) (step : Nat)
  | cdrain (acc row base : Nat)
  | cstore (fmt acc : Nat)
  | qpop (die q : Nat) (nb : Bool)
  | mbrecv (box : Nat) (nb : Bool)
  | dread
  | jobstat (handle : W64)
  | hcrd (n : Nat)
deriving DecidableEq, Repr

/-- How far the instruction is. -/
inductive LogState where
  | running
  /-- waits on a kernel fault (R365). -/
  | waiting (token : Nat)
  /-- suspended by ACCRANGE (R206). -/
  | suspended
  /-- QUOTA delivered (R366). -/
  | quota
deriving DecidableEq, Repr

/-- An entry of a tile's operand log. `bound` holds the value of each lane once it is fixed (R257). -/
structure LogEntry where
  id : Nat
  tile : Nat
  grp : Nat
  pc : W64
  /-- clause and position at issue, for a trap that names it. -/
  clause : Clause
  flag : Nat
  op : LogOp
  lanes : Mask
  mode : W64
  scalar : Bool := false
  tag : BitVec 4 := 0
  dests : List Dest := []
  accs : List Access := []
  /-- operand and expected value of each lane of an atomic. -/
  opnds : List (Nat × (W64 × W64)) := []
  /-- lines that a load has read, each once for all its lanes (R78). -/
  reads : List (Nat × List Byte) := []
  /-- data and old values: lane and bytes (as a number). -/
  bound : List (Nat × Nat) := []
  state : LogState := .running
  written : Mask := 0
  /-- issued at trap level (R365). -/
  tlevel : Bool := false
  /-- number at which it goes on after a suspension, behind what the group has issued meanwhile (R209). -/
  again : Nat := 0
  /-- the NBP predicate. -/
  nbp : Option Dest := none
  /-- flags to set at completion. -/
  fl : W64 := 0
  /-- TIME of issue. -/
  born : Nat := 0
deriving DecidableEq, Repr

/-! ## Memory, caches and translation (03, 04) -/

/-- Retention mark (R74). -/
inductive Mark where
  | first | normal | last
deriving DecidableEq, Repr

/-- A line in a home slice: line number (address ÷ 128), 128 bytes, mark, modified. -/
structure SLine where
  line : Nat
  data : List Byte
  mark : Mark := .normal
  modified : Bool := false
deriving DecidableEq, Repr

/-- A line in a tile cache; `fill` is the local clock of its fill or last refresh (R70). -/
structure CLine where
  line : Nat
  data : List Byte
  mark : Mark := .normal
  fill : Nat := 0
deriving DecidableEq, Repr

/-- A burst with an uncorrectable error (R371): address ÷ 64, the freeze cause of its consumers, and the bytes that the
instruction `inst` has rewritten. -/
structure BadBurst where
  burst : Nat
  cause : Nat := 0x21
  inst : Nat := 0
  mask : W64 := 0
deriving DecidableEq, Repr

/-- What an entry of a tile's store path does at its home slice. -/
inductive PathOp where
  | store (bytes : List Byte)
  /-- operand, expected value, and the log entry and lane that wait for the old value. -/
  | atomic (op : AOp) (v e : W64) (ret : Option (Nat × Nat))
  /-- `dinit` of a count; `ddec` with none (R309, R313). -/
  | counter (count : Option (BitVec 32))
deriving DecidableEq, Repr

/-- A store or atomic on its way to its home slice (R68, R72). It lies within one line. -/
structure PathEntry where
  id : Nat
  grp : Nat
  pa : Nat
  /-- virtual address of an atomic or counter step, for a freeze record (R370). -/
  va : W64 := 0
  op : PathOp
  hint : Nat := 0
  /-- not performed before every older entry of the tile (R84, R267). -/
  rel : Bool := false
  /-- log entry that completes when it is performed (`pst`, `cstore`). -/
  log : Option Nat := none
  /-- number of the instruction whose store it is; `dev`: in order with the others of that instruction, to a device line (R69)
  or of a commit (R244); `mates`: other tiles on which groups stand whose store it is too, and whose paths hold it. -/
  inst : Nat := 0
  dev : Bool := false
  mates : List Nat := []
  /-- groups whose releases cover it: a load of theirs took bytes of it, an acquire of theirs found it here (R266, R267). -/
  seen : List Nat := []
  clock : Nat := 0
deriving DecidableEq, Repr

/-- Masters of R49. -/
inductive Master where
  | tile (n : Nat)
  | core (n : Nat)
  | copyEngine (tile : Nat)
  | dieCopy (die : Nat)
  | netPort (n : Nat)
  | storPort
  | coll (die : Nat)
  | command (die : Nat)
deriving DecidableEq, Repr

/-- A translation (R56): `size` 0, 1, 2 for 16 KiB, 32 MiB, 64 GiB; `rd2` and `wr2` are the rights of the stage-2 leaf (R55).
`desc` is the physical address of the descriptor word, `dirty` says D was set or a gather made. -/
structure TlbEntry where
  vmid : Nat
  asid : Nat
  size : Nat
  va : Nat
  pa : Nat
  rd : Bool
  wr : Bool
  rd2 : Bool
  wr2 : Bool
  p : Bool
  attr : Nat
  desc : Nat
  dirty : Bool
deriving DecidableEq, Repr

/-- A dirty gather (R58): the descriptor word, the master whose write made it, TIME of the write, the agent, the agents of other
entries through which the word's page was first written meanwhile, the launches that wrote. -/
structure Gather where
  desc : Nat
  master : Master := .tile 0
  time : Nat
  asid : Nat
  vmid : Nat
  others : List (Nat × Nat) := []
  works : List Nat := []
deriving DecidableEq, Repr

/-- A fault record (R60), with the ring it goes to; TIME of its detection, and the class it serves (R318). -/
structure FaultRec where
  va : Nat
  ipa : Nat
  asid : Nat
  vmid : Nat
  cause : Nat
  walk : Nat
  master : Nat
  token : Nat
  bytes : Nat
  hyper : Bool
  born : Nat := 0
  cls : Nat := 3
deriving DecidableEq, Repr

/-- Who waits on a token (R60, R366, R370). -/
inductive Waiter where
  | group (grp : Nat)
  | entry (grp entry : Nat)
  | copy (id : Nat)
  | work (id : Nat)
  | qp (die qp n : Nat)
  | command (die : Nat)
  | port (n : Nat)
  | coll (die : Nat)
deriving DecidableEq, Repr

/-- A resume token: its number, who waits, the cause of the record, and the access that faulted. -/
structure Token where
  num : Nat
  who : Waiter
  cause : Nat
  asid : Nat
  va : Nat := 0
deriving DecidableEq, Repr

/-! ## Local store, copies and barrier objects (05) -/

/-- Interval of the range scoreboard (R113). -/
structure Score where
  copy : Nat
  lo : Nat
  hi : Nat
  write : Bool
deriving DecidableEq, Repr

/-- Entry of a tile's acknowledgement table (R122); barriers by team and offset. -/
structure AckEntry where
  recvTeam : Nat
  recvOff : Nat
  sendTeam : Nat
  sendOff : Nat
  count : Nat
deriving DecidableEq, Repr

/-- An acknowledgement on its way to a sender barrier. -/
structure AckMsg where
  team : Nat
  off : Nat
  count : Nat
deriving DecidableEq, Repr

/-- Direction of a copy (R104). -/
inductive Dir where
  | g2l | l2g | l2l
deriving DecidableEq, Repr

/-- One side of a copy: global virtual address or a team's window. -/
inductive Side where
  | glob (va : W64)
  | loc (team off : Nat)
deriving DecidableEq, Repr

/-- A lane of a copy still to move; `data` holds its bytes once read, `back` the deliveries made whose return the sender has yet to take
(R344), `recvs` the teams still to be delivered
to (remote copies and `cpmc`). -/
structure CopyLane where
  lane : Nat
  src : Side
  dst : Side
  data : Option (List Byte) := none
  recvs : List Nat := []
  back : Nat := 0
deriving DecidableEq, Repr

/-- A copy in the copy engine (R106, R109, R110). `batch` none: the open batch. `bar`: barrier by team and
offset; for a remote copy the offset in each receiver's window. -/
structure Copy where
  id : Nat
  grp : Nat
  team : Nat
  asid : Nat
  vmid : Nat
  dir : Dir
  n : Nat
  scope : Nat
  hint : Nat
  batch : Option Nat := none
  bar : Option (Nat × Nat) := none
  /-- remote: receivers' barrier offset; `cpmc`: the sender barrier is `bar`. -/
  remote : Bool := false
  mc : Bool := false
  recvBar : Option Nat := none
  lanes : List CopyLane
  /-- receivers to which this `cpmc` has been recorded in the acknowledgement table. -/
  acked : List Nat := []
  token : Option Nat := none
  held : Bool := false
  /-- lanes at which the fault stopped that suspends the copy. -/
  stuck : List Nat := []
  /-- the line in progress (R108, R331). -/
  line : Option Nat := none
  /-- lines begun to be delivered, by receiver (R335). -/
  sent : List (Nat × Nat) := []
deriving DecidableEq, Repr

/-! ## Panels, accumulators (10) and the region (12) -/

/-- A panel (R195): control word, element bytes, strip bytes, groups with a write not fenced, and the control word as the matrix
unit sees it (R212). -/
structure Panel where
  ctl : W64 := 0
  bytes : Mem := []
  strip : Mem := []
  unfenced : List Nat := []
  seen : W64 := 0
deriving DecidableEq, Repr

/-- An element (R198): A, ash entries 0 and 1, SPEC, SATD, queues (heads first). -/
structure Elem where
  a : Int := 0
  ash0 : Option Int := none
  ash1 : Option Int := none
  spec : Nat := 0
  satd : Bool := false
  pos : List Int := []
  neg : List Int := []
deriving DecidableEq, Repr

/-- An accumulator (R198, R199, R211): elements by 64 × row + column. -/
structure Acc where
  anch : Int := 0
  satd : Bool := false
  nan : Bool := false
  inf : Bool := false
  ashx : Bool := false
  aovf : Bool := false
  loss : Bool := false
  elems : List (Nat × Elem) := []
  owner : Nat := 0
deriving DecidableEq, Repr

/-- Region states (R245); `gather` is STATE 1 while the groups collect at `rlxopen`. -/
inductive RState where
  | none | gather | open | settled | closed
deriving DecidableEq, Repr

/-- An entry of the step store buffer (R234). -/
structure REntry where
  addr : W64
  store : Bool
  loc : Bool
  lg : Nat
  data : List Byte
  /-- physical pieces of a global store, translated when buffered (R235). -/
  place : Place
deriving DecidableEq, Repr

/-- Pass-start state of a region group (R232). -/
structure PassStart where
  grp : Nat
  mode : W64
  flags : W64
  links : List LinkEntry
  loops : List LoopEntry
  wb : Nat
  /-- address of the body start. -/
  body : W64
deriving DecidableEq, Repr

/-- A team's region (R228 to R249). -/
structure Region where
  state : RState := .none
  t : Nat := 0
  g : Nat := 0
  d : Nat := 0
  guess : Nat := 0
  plim : Nat := 0
  stallLim : Nat := 0
  atol : W32 := 0
  rtol : W32 := 0
  buf : Nat := 0
  cap : Nat := 0
  x : Nat := 0
  /-- region groups, arrivals at the join in progress, groups whose last lane exited. -/
  grps : List Nat := []
  arrived : List Nat := []
  /-- u_t of steps 1 … T, each of d words. -/
  u : List (List W32) := []
  passes : Nat := 0
  p : Nat := 0
  r : W32 := 0
  rbest : W32 := 0x7F800000
  nstall : Nat := 0
  tol : Bool := false
  code : Nat := 0
  commit : Nat := 0
  aborted : Bool := false
  /-- overflow set (R235). -/
  overs : List Nat := []
  entries : List (Nat × List REntry) := []
  /-- δ of the last completed scan, by step. -/
  delta : List (List W32) := []
  starts : List PassStart := []
  /-- local clocks of the pass, master clocks since a stop request (R248). -/
  passClocks : Nat := 0
  stopClocks : Nat := 0
  /-- the commit: entries performed, and the number of its instruction (R243, R244). -/
  next : Nat := 0
  inst : Nat := 0
deriving DecidableEq, Repr

/-! ## Work: launches, jobs, gangs, teams (16, 17) -/

/-- How far a launch or job is (R314). -/
inductive WState where
  /-- submitted, its dependence counter not yet registered. -/
  | submitted
  | waiting | ready | running | dealt | rejected | killed
deriving DecidableEq, Repr

/-- A launch (256-byte block) or a job (64-byte card) as read (R286, R303). -/
structure Work where
  id : Nat
  job : Bool := false
  /-- the block or card as 64-bit words, first at offset 0; a block still to be read stands at `addr`. -/
  words : List W64 := []
  addr : W64 := 0
  /-- die of the command processor or dealer. -/
  die : Nat := 0
  module : Nat := 0
  /-- LAUNCHID, or job number; `named` says that a launch has its number, `handle` is the one that its handle carries. -/
  num : Nat := 0
  named : Bool := false
  handle : Nat := 0
  /-- logical tiles of the module at launch (R319). -/
  c : Nat := 0
  /-- its completion was sent to the parent, and has not arrived (R307). -/
  reported : Bool := false
  asid : Nat := 0
  vmid : Nat := 0
  privileged : Bool := false
  /-- ASID, VMID, TENANT and PRIO of the context that submitted it. -/
  subAsid : Nat := 0
  subVmid : Nat := 0
  subTenant : Nat := 0
  subPrio : Nat := 0
  trapvec : W64 := 0
  parent : Option Nat := none
  state : WState := .submitted
  reason : Nat := 0
  sig : W64 := 0
  /-- order in which works became ready. -/
  seqNo : Nat := 0
  /-- next gang to place; gangs retired. -/
  nextGang : Nat := 0
  gangsDone : Nat := 0
  /-- job: records left, chunks dealt, OUT (R306, R307). -/
  rem : Nat := 0
  ordinal : Nat := 0
  out : Nat := 0
  /-- ember (R320, R321). -/
  round : Nat := 0
  holder : Nat := 0
  visiting : Bool := false
  skipped : List Nat := []
  gone : List Nat := []
  abort : Bool := false
  /-- retirement step waits on this token (R301). -/
  token : Option Nat := none
  /-- command-queue entry it came from: die and entry number. -/
  cq : Option (Nat × Nat) := none
deriving DecidableEq, Repr

/-- How a gang stands. -/
inductive GState where
  | running
  /-- a stop was requested for a pre-emption (R372) or a turn (R331); it stands until the gang is saved, or the turn ends. -/
  | stopping (turn : Bool)
  /-- saved: not resident. `held` by `ctxsave` until `ctxload`. -/
  | saved (held : Bool)
  | retired
deriving DecidableEq, Repr

/-- A gang (R291): its teams, its first logical tile and how many. -/
structure Gang where
  id : Nat
  work : Nat
  k : Nat
  teams : List Nat
  ltile : Nat
  ntiles : Nat
  state : GState := .running
  placedAt : Nat := 0
  stopAt : Nat := 0
  /-- order in which it returned to the head of its tenant's ready work (R311). -/
  back : Nat := 0
  /-- physical tiles on which it stood when it was saved (R376). -/
  stood : List Nat := []
  /-- a pre-emption was requested in a turn, and takes effect as the turn ends (R333). -/
  preempt : Bool := false
deriving DecidableEq, Repr

/-- A team (R284, R290). -/
structure Team where
  id : Nat
  work : Nat
  gang : Nat
  /-- linear number L, or ordinal of the chunk. -/
  l : Nat
  /-- gang position. -/
  pos : Nat
  ltile : Nat
  pair : Bool := false
  grps : List Nat := []
  /-- window: base in the tile's local store, bytes named, bytes placed. -/
  base : Nat := 0
  bytes : Nat := 0
  placed : Nat := 0
  panels : List Panel := []
  accs : List Acc := []
  region : Region := {}
  /-- the region before the last registration, for its withdrawal (R232). -/
  prior : Region := {}
  /-- groups arrived at `bteam`. -/
  arrived : List Nat := []
  visits : Nat := 0
  skip : Bool := false
  slot : Nat := 0
  retired : Bool := false
  /-- local store of a team that is saved (R374). -/
  saved : Mem := []
  /-- valid barrier offsets, scoreboard and acknowledgements saved with it. -/
  savedBars : List Nat := []
  savedAcks : List AckEntry := []
  savedScores : List Score := []
  /-- bytes of the context pool it keeps until it retires (R374), and the die. -/
  pool : Nat := 0
  poolDie : Nat := 0
deriving DecidableEq, Repr

/-! ## Units -/

/-- A physical tile (R94, R70, R72, R113, R116, R122, R329, R376). -/
structure Tile where
  temp : Nat := 0
  failed : Bool := false
  rows : Nat := 1024
  cache : List CLine := []
  path : List PathEntry := []
  store : Mem := []
  bars : List Nat := []
  acks : List AckEntry := []
  scores : List Score := []
deriving DecidableEq, Repr

/-- Damper states (R347). -/
inductive DState where
  | idle | stretch | half
deriving DecidableEq, Repr

/-- What governs a sample of a damper (R346): LEVEL, EN, HALFN, STRN. -/
structure Damp where
  level : Nat
  en : Bool
  halfN : Nat
  strN : Nat
deriving DecidableEq, Repr

/-- A cluster's clock: SWALLOW, DROOPTH, DAMPCFG, damper, local clocks delivered (R343 to R349, R355). -/
structure Cluster where
  pattern : BitVec 16 := 0xFFFF
  nextPattern : Option (BitVec 16) := none
  level : Nat := 300
  part : Nat := 0
  en : Bool := true
  halfN : Nat := 64
  strLen : Nat := 2
  strN : Nat := 6
  events : BitVec 32 := 0
  state : DState := .idle
  /-- stretched and halved local clocks that are fixed and still to come. -/
  strRem : Nat := 0
  halfRem : Nat := 0
  /-- the clock after a trigger is still to come; `tail`: it is the last one of a halved window. -/
  lead : Bool := false
  tail : Bool := false
  /-- what governs the samples of this local clock, where a write of it has changed the registers (R347). -/
  before : Option Damp := none
  /-- TIME of the last local clock, and how many were delivered. -/
  last : Nat := 0
  clocks : Nat := 0
  /-- parity of the local clock in the halved window. -/
  odd : Bool := false
  /-- local clock of the last sample found low. -/
  lowAt : Option Nat := none
deriving DecidableEq, Repr

/-- A partition's budget and activity (R345). -/
structure Partn where
  rise : Nat := 0xFFFF
  last : Nat := 0
  now : Nat := 0
deriving DecidableEq, Repr

/-- A pair of turn units in exchange (R330): first physical tile of each, tiles in each, TIME of the request. -/
structure TurnPair where
  hot : Nat
  cool : Nat
  size : Nat
  since : Nat
  /-- TIME at which both units were found stopped. -/
  quiet : Option Nat := none
deriving DecidableEq, Repr

/-- A queue-pair entry posted (R383, R384): its eight words, the agent, and how far it is. -/
structure QpEntry where
  id : Nat
  words : List W64
  asid : Nat
  vmid : Nat
  started : Bool := false
  localDone : Bool := false
  written : Bool := false
  /-- its ARM condition has held. -/
  armed : Bool := false
  /-- PEER as the table held it when the source was captured (R382, R385). -/
  peer : Nat := 0
  cq : Option (Nat × Nat) := none
  token : Option Nat := none
deriving DecidableEq, Repr

/-- A transfer to this module's memory, from this module or from a peer (R385, R386): the words of its entry, the
captured bytes, the source (die and queue pair and position when of this module) and the agent that posted it. -/
structure Transfer where
  words : List W64
  data : List Byte
  ddie : Nat
  asid : Nat
  rasid : Nat
  vmid : Nat
  src : Option (Nat × Nat × Nat) := none
  token : Option Nat := none
deriving DecidableEq, Repr

/-- A contribution that stands in staging. -/
structure Contrib where
  rank : Nat
  asid : Nat
  data : List Byte
  words : List W64
  src : Option (Nat × Nat × Nat) := none
deriving DecidableEq, Repr

/-- An open chunk (R386). -/
structure Chunk where
  rasid : Nat
  vmid : Nat
  chunk : Nat
  nrank : Nat
  len : Nat
  parts : List Contrib
  /-- the sweep waits on this token (R370). -/
  token : Option Nat := none
deriving DecidableEq, Repr

/-- A sort handed to the engine (R389): descriptor words and agent. -/
structure SortWork where
  words : List W64
  asid : Nat
  vmid : Nat
  token : Option Nat := none
deriving DecidableEq, Repr

/-- A message in flight (R316): module, agent, mailbox, 64 bytes, class of the sender; the sender, the order of sending and
TIME of the sending (R318). -/
structure Msg where
  module : Nat
  agent : Nat
  box : Nat
  data : List Byte
  cls : Nat := 3
  grp : Option Nat := none
  seq : Nat := 0
  born : Nat := 0
deriving DecidableEq, Repr

/-- An arm of a collective counter (R380). -/
structure Arm where
  thr : W64
  addr : W64
  asid : Nat
  vmid : Nat
deriving DecidableEq, Repr

/-- A command-queue entry started and not complete (R394). -/
structure CqRun where
  n : Nat
  kind : Nat
deriving DecidableEq, Repr

/-- A watch-table entry (R308): counter address (physical) and work. -/
structure Watch where
  pa : Nat
  work : Nat
deriving DecidableEq, Repr

/-- Deficit of a tenant and class (R310). -/
structure Deficit where
  tenant : Nat
  cls : Nat
  deficit : Int := 0
  credited : Bool := false
deriving DecidableEq, Repr

/-- A die. -/
structure Die where
  hyst : Nat := 8
  maxPairs : Nat := 4
  exp : Nat := 21
  /-- EXP written and not yet in effect (R328), and when it takes effect. -/
  nextExp : Option (Nat × Nat) := none
  pairs : List TurnPair := []
  ctxBase : Nat := 0
  ctxSize : Nat := 0
  collBase : Nat := 0
  collEn : Bool := false
  ways : Nat := 0
  cq : Ring := {}
  /-- entries of the command queue started and not complete. -/
  cqRuns : List CqRun := []
  cqToken : Option Nat := none
  /-- the doorbell of its command queue has rung since the processor last took an entry (R396). -/
  rung : Bool := false
  /-- the WAIT entry that stands at its turn: counter, threshold, its condition has held. -/
  cqWait : Option (Nat × W64 × Bool) := none
  hc : List (Nat × W64) := []
  arms : List (Nat × Arm) := []
  /-- arms that fired and wait on a token for their dependence counter. -/
  fires : List (Arm × Option Nat) := []
  qps : List (Nat × List QpEntry) := []
  chunks : List Chunk := []
  badKeys : List (Nat × Nat) := []
  sorts : List SortWork := []
  queues : List (Nat × List W64) := []
  outbound : List Msg := []
  watch : List Watch := []
  buffer : List FaultRec := []
  jobNum : Nat := 0
  weights : List (Nat × Nat) := []
  deficits : List Deficit := []
  cursors : List (Nat × Nat) := []
  gathers : List Gather := []
  tlb : List TlbEntry := []
  walkCache : List (Nat × W64) := []
deriving DecidableEq, Repr

/-- States of R399. -/
inductive AState where
  | reset | verify | run | recovery
deriving DecidableEq, Repr

/-- Aelmel and the flash (R398 to R401). -/
structure Aelmel where
  state : AState := .reset
  reason : Nat := 0
  nonce : List Byte := []
  recbuf : Mem := []
  flash : Mem := []
  flashOk : Bool := true
  floor : Nat := 0
  measure : List Byte := []
  /-- verifying RECBUF and not the flash. -/
  fromBuf : Bool := false
  /-- verification has succeeded and the image is to be started. -/
  verified : Bool := false
  boots : Nat := 0
  /-- over-temperature stop (R405). -/
  clockStopped : Bool := false
deriving DecidableEq, Repr

/-- HEALTH (R403). -/
structure Health where
  cecnt : Nat := 0
  uecnt : Nat := 0
  spare0 : Nat := 8
  spare1 : Nat := 8
  tmax : Nat := 0
  hot : Bool := false
  replace : Bool := false
deriving DecidableEq, Repr

/-- CKPTCTL and the checkpoint in progress (R397). -/
structure Ckpt where
  peer : Nat := 0
  dest : BitVec 40 := 0
  links : BitVec 12 := 0
  err : Bool := false
  busy : Bool := false
  /-- every gang has been asked to stop. -/
  started : Bool := false
deriving DecidableEq, Repr

/-- What the module has told the host (R65, R369, R272). -/
inductive HostNote where
  | coreHalted (core : Nat)
  | agentExhausted (asid : Nat)
  | replaceModule
  | readReturned (addr : Nat) (bytes : List Byte)
deriving DecidableEq, Repr

/-- What has left for a peer (R385, R313, R316). -/
inductive PeerSend where
  | transfer (peer : Nat) (words : List W64) (data : List Byte) (src : Nat × Nat × Nat)
  | card (peer : Nat) (words : List W64) (work : Nat)
  | message (module : Nat) (m : Msg)
  /-- the bytes of a checkpoint that reached the pool, by address in the pool (R397). -/
  | checkpoint (peer : Nat) (links : Nat) (image : Mem)
  /-- bytes that the storage port moved to its controller (R395): agent, address, data. -/
  | storage (asid : Nat) (va : Nat) (data : List Byte)
deriving DecidableEq, Repr

/-- The module. -/
structure State where
  /-- the part (R2), DESIGN CHOICE, log entry 7. -/
  part : Part := .jcf9420A
  time : Nat := 0
  lt0 : Nat := 96
  lt1 : Nat := 96
  aelmel : Aelmel := {}
  health : Health := {}
  ckpt : Ckpt := {}
  launchid : BitVec 32 := 0
  notes : List HostNote := []
  sends : List PeerSend := []
  /-- services requested by `sys` and not yet served: group and number (R150). -/
  services : List (Nat × Nat) := []
  /-- device memory and the host window by device physical address (R46). -/
  mem : Mem := []
  /-- lines in the home slices, most recently used first (R66, R74). -/
  sram : List SLine := []
  /-- bursts with an uncorrectable error in the stacks (R371). -/
  badBursts : List BadBurst := []
  /-- bursts that are bad in the home slice that holds their line (R371). -/
  badSlices : List BadBurst := []
  /-- VMTBASE in force for masters other than the stoker cores, once written (R399, DEDUCED, log entry 9). -/
  vmtbase : Option Nat := none
  dies : List (Nat × Die) := []
  tiles : List (Nat × Tile) := []
  clusters : List (Nat × Cluster) := []
  partns : List (Nat × Partn) := []
  /-- TLBs of tiles and other masters (R56). -/
  tlbs : List (Master × List TlbEntry) := []
  /-- place table: entries that differ from reset (R336, DESIGN CHOICE, log entry 10). -/
  ptiles : List (Nat × W64) := []
  pclusters : List (Nat × W64) := []
  pbanks : List (Nat × W64) := []
  /-- selector of PLACETAB (R338, R404). -/
  selPlace : Nat := 0
  groups : List Group := []
  teams : List Team := []
  gangs : List Gang := []
  works : List Work := []
  log : List LogEntry := []
  copies : List Copy := []
  acks : List AckMsg := []
  transfers : List Transfer := []
  tokens : List Token := []
  /-- mailboxes by 8 × agent + number (R316). -/
  mail : List (Nat × List (List Byte)) := []
  /-- ASID that the kernel has bound to each queue of the storage port (R49, R395). -/
  portQueues : List (Nat × Nat) := []
  /-- agenda of decided events and inputs; contexts still to issue in this clock; the context that issues. -/
  agenda : List Instr := []
  issueq : List Nat := []
  /-- the next turn is that of `issueq` (the schedule is not asked first). -/
  chosen : Bool := false
  cur : Nat := 0
  /-- lane quarters that have issued in this clock: tile, sequencer, quarter (R295). -/
  used : List (Nat × Nat × Nat) := []
  /-- clusters whose groups may not issue in this local clock (R349). -/
  muted : List Nat := []
  /-- choices and free values taken so far; next number for groups, teams, works, entries, tokens, copies. -/
  sched : Nat := 0
  fresh : Nat := 0
  nextId : Nat := 100
deriving DecidableEq, Repr

/-- Why the machine stops. -/
inductive Fault where
  /-- an access that a descriptor with P = 1 lets into the device register space (R46), or the host's into BAR0 (R396), outside
  the registers that R400 gives, the only ones of that space that the spec describes: raised by the memory access; safe
  (DESIGN CHOICE, log entry 25). -/
  | deviceRegister
deriving DecidableEq, Repr

/-- Why an instruction has no meaning. -/
inductive Refusal where
  /-- an instruction whose meaning is not written; raised by no arm of a finished model; safe. -/
  | notModelled (mnemonic : String)
deriving DecidableEq, Repr

/-- A stoker core as it is before it is started (R399; DESIGN CHOICE: shape by log entry 1, register values by
log entry 15). -/
def coreAtReset (n : Nat) : Group :=
  { id := n, core := some { num := n }, width := Config.coreWidth, budget := Config.coreBudget,
    regs := { slots := List.replicate Config.coreBudget { data := List.replicate Config.coreWidth 0 },
              sregs := List.replicate 32 {}, pregs := List.replicate 7 {},
              bankV := List.replicate 8 { data := List.replicate Config.coreWidth 0 },
              bankS := List.replicate 4 0 },
    flow := { lpc := List.replicate Config.coreWidth 0, fl := List.replicate Config.coreWidth 0 },
    csrs := { nf := List.replicate 8 0x0007 },
    cf := List.replicate 12 0,
    hold := .halted }

/-- A part right after reset (R399): Aelmel in RESET, its dies held in reset; a part of one die has the tiles, spares and
cores of one (R2). -/
def State.resetOf (p : Part) : State :=
  let two := match p with | .jcf9410A => false | _ => true
  { part := p
    lt1 := if two then 96 else 0
    health := { spare1 := if two then 8 else 0 }
    aelmel := { nonce := List.replicate 32 0, measure := List.replicate 64 0 }
    groups := (List.range (if two then 16 else 8)).map coreAtReset }

/-- The module right after reset (DESIGN CHOICE of the part, log entry 7). -/
def State.reset : State := State.resetOf .jcf9420A

end Sys2Proof.Machine
end

