-- ==== Sys2Proof/Machine/Bits.lean ====
section
/-! DEFINITION. Lists of numbered objects, bytes and bit fields, and memory as a canonical list. -/
namespace Sys2Proof.Machine

/-! ## Lists of (number, object) -/

/-- The object numbered `k`, or `d` where none stands. -/
def aget {α : Type} (l : List (Nat × α)) (k : Nat) (d : α) : α :=
  match l.find? (fun p => p.1 == k) with
  | some p => p.2
  | none => d

/-- The list with the object numbered `k` replaced. -/
def aset {α : Type} (l : List (Nat × α)) (k : Nat) (v : α) : List (Nat × α) :=
  (k, v) :: l.filter (fun p => p.1 != k)

/-- The list with nothing numbered `k`. -/
def adel {α : Type} (l : List (Nat × α)) (k : Nat) : List (Nat × α) := l.filter (fun p => p.1 != k)

/-- Position `i` of a list replaced; a list too short is unchanged. -/
def lset {α : Type} (l : List α) (i : Nat) (v : α) : List α := l.set i v

/-! ## Bytes and bit fields -/

/-- Bits [hi:lo] of a 64-bit word as a number. -/
def fld (w : W64) (hi lo : Nat) : Nat := bits w.toNat hi lo

/-- Bit `i` of a 64-bit word. -/
def bit (w : W64) (i : Nat) : Bool := w.getLsbD i

/-- A word of a Nat. -/
def w64 (n : Nat) : W64 := BitVec.ofNat 64 n

/-- A 32-bit word of a Nat. -/
def w32 (n : Nat) : W32 := BitVec.ofNat 32 n

/-- Bytes, least significant first, as a number (R13). -/
def bytesNat : List Byte → Nat
  | [] => 0
  | b :: t => b.toNat + 256 * bytesNat t

/-- The `n` low bytes of a number, least significant first. -/
def natBytes : Nat → Nat → List Byte
  | 0, _ => []
  | n + 1, x => BitVec.ofNat 8 x :: natBytes n (x / 256)

/-- The little-endian 64-bit words of a byte string. -/
def bytesW64s : Nat → List Byte → List W64
  | 0, _ => []
  | n + 1, l => w64 (bytesNat (l.take 8)) :: bytesW64s n (l.drop 8)

/-- The bytes of 64-bit words. -/
def w64sBytes (ws : List W64) : List Byte := ws.flatMap fun w => natBytes 8 w.toNat

/-- Word `i` of a list of words. -/
def word (ws : List W64) (i : Nat) : W64 := ws.getD i 0

/-- The low `n` bits of `x` sign-extended to 64 bits. -/
def sextN (n x : Nat) : W64 := BitVec.signExtend 64 (BitVec.ofNat n x)

/-- The low 32 bits sign-extended (R76, R86). -/
def sext32 (x : W32) : W64 := x.signExtend 64

/-- The signed value of a 32-bit word. -/
def s32 (x : W32) : Int := x.toInt

/-- The signed value of a 64-bit word. -/
def s64 (x : W64) : Int := x.toInt

/-- `Wrap(x, n)` as bits (R19). -/
def wrap (n : Nat) (x : Int) : BitVec n := BitVec.ofInt n x

/-- `SatS(x, n)` (R19). -/
def satS (x : Int) (n : Nat) : Int :=
  if x < -(2 ^ (n - 1) : Int) then -(2 ^ (n - 1)) else if x > 2 ^ (n - 1) - 1 then 2 ^ (n - 1) - 1 else x

/-- `SatU(x, n)` (R19). -/
def satU (x : Int) (n : Nat) : Int := if x < 0 then 0 else if x > 2 ^ n - 1 then 2 ^ n - 1 else x

/-- `RoundShift(x, n)` (R19). -/
def roundShift (x : Int) (n : Nat) : Int := if n = 0 then x else (x + 2 ^ (n - 1)) / 2 ^ n

/-- Lanes of a mask among the first `w`, ascending. -/
def lanesOf (w : Nat) (m : Mask) : List Nat := (List.range w).filter fun i => m.getLsbD i

/-- The mask with the lanes of a list. -/
def maskOf (l : List Nat) : Mask := l.foldl (fun m i => m ||| (1#64 <<< i)) 0

/-- The mask of the first `w` lanes. -/
def fullMask (w : Nat) : Mask := BitVec.ofNat 64 (2 ^ w - 1)

/-- Number of lanes of a mask among the first `w`. -/
def countMask (w : Nat) (m : Mask) : Nat := (lanesOf w m).length

/-- The position of the highest set bit, plus one; 0 of 0. -/
def bitLen (n : Nat) : Nat := if n = 0 then 0 else n.log2 + 1

/-! ## Memory -/

/-- The byte at an address; an unlisted one reads 0x00 (DESIGN CHOICE, log entry 2). -/
def memGet : Mem → Nat → Byte
  | [], _ => 0
  | (k, v) :: t, a => if k = a then v else memGet t a

/-- Write one byte, keeping the canonical form. -/
def memSet : Mem → Nat → Byte → Mem
  | [], a, b => if b = 0 then [] else [(a, b)]
  | (k, v) :: t, a, b =>
    if a < k then (if b = 0 then (k, v) :: t else (a, b) :: (k, v) :: t)
    else if a = k then (if b = 0 then t else (a, b) :: t)
    else (k, v) :: memSet t a b

/-- The `n` bytes from an address. -/
def memRead (m : Mem) (a n : Nat) : List Byte := (List.range n).map fun i => memGet m (a + i)

/-- Write bytes at ascending addresses. -/
def memWrite : Mem → Nat → List Byte → Mem
  | m, _, [] => m
  | m, a, b :: t => memWrite (memSet m a b) (a + 1) t

/-- Every entry lies above `lo` and is not 0x00, addresses strictly rising. -/
def memAbove : Nat → Mem → Bool
  | _, [] => true
  | lo, (k, v) :: t => lo ≤ k && v != 0 && memAbove (k + 1) t

/-- The canonical form of a memory. -/
def Mem.wf (m : Mem) : Bool := memAbove 0 m

end Sys2Proof.Machine
end

