-- ==== Sys2Proof/Machine/Objects.lean ====
section
/-! DEFINITION. Looking up and replacing the objects of the module, and where they stand: the place table (18 R336),
the tiles of teams and gangs (16 R290, R291), the part's figures (00 R1, R2). -/
namespace Sys2Proof.Machine

/-! ## The part (R2) -/

/-- Dies of the part. -/
def State.ndies (s : State) : Nat := match s.part with | .jcf9410A => 1 | _ => 2

/-- Stacks of the part. -/
def State.stacks (s : State) : Nat := match s.part with | .jcf9410A => 4 | _ => 8

/-- Jafold links of the part. -/
def State.links (s : State) : Nat := match s.part with | .jcf9410A => 6 | _ => 12

/-- Network ports of the part. -/
def State.netPorts (s : State) : Nat := match s.part with | .jcf9420A => 4 | .jcf9420B => 0 | .jcf9410A => 2

/-- The part has a storage port. -/
def State.hasStorage (s : State) : Bool := match s.part with | .jcf9420A => true | _ => false

/-- The part has token-sort units. -/
def State.hasTsort (s : State) : Bool := match s.part with | .jcf9410A => false | _ => true

/-- Stoker cores of the part: 8 a die (R399). -/
def State.ncores (s : State) : Nat := 8 * s.ndies

/-- End of device memory (R46). -/
def State.memEnd (s : State) : Nat := match s.part with | .jcf9410A => 0x003000000000 | _ => 0x006000000000

/-- CAPS (R402). -/
def State.caps (s : State) : W64 :=
  w64 ((if s.hasTsort then 2 ^ 39 else 0) + (if s.hasStorage then 2 ^ 38 else 0) + s.netPorts * 2 ^ 35
    + s.links * 2 ^ 31 + s.stacks * 2 ^ 27 + s.ndies * 2 ^ 25 + s.lt1 * 2 ^ 7 + s.lt0)

/-- C, the count of valid logical tiles (R319, R402). -/
def State.tileCount (s : State) : Nat := s.lt0 + s.lt1

/-! ## Objects by number -/

/-- The context numbered `id`. -/
def State.group? (s : State) (id : Nat) : Option Group := s.groups.find? fun g => g.id == id

/-- Replace a context. -/
def State.setGroup (s : State) (g : Group) : State :=
  { s with groups := s.groups.map fun h => if h.id == g.id then g else h }

/-- Change the context numbered `id`. -/
def State.onGroup (s : State) (id : Nat) (f : Group → Group) : State :=
  { s with groups := s.groups.map fun h => if h.id == id then f h else h }

/-- The team numbered `id`. -/
def State.team? (s : State) (id : Nat) : Option Team := s.teams.find? fun t => t.id == id

/-- Replace a team. -/
def State.setTeam (s : State) (t : Team) : State :=
  { s with teams := s.teams.map fun u => if u.id == t.id then t else u }

/-- The gang numbered `id`. -/
def State.gang? (s : State) (id : Nat) : Option Gang := s.gangs.find? fun g => g.id == id

/-- Replace a gang. -/
def State.setGang (s : State) (g : Gang) : State :=
  { s with gangs := s.gangs.map fun h => if h.id == g.id then g else h }

/-- The launch or job numbered `id`. -/
def State.work? (s : State) (id : Nat) : Option Work := s.works.find? fun w => w.id == id

/-- Replace a launch or job. -/
def State.setWork (s : State) (w : Work) : State :=
  { s with works := s.works.map fun v => if v.id == w.id then w else v }

/-- The physical tile `n` of the module: 104 × die + tile of the die. -/
def State.tile (s : State) (n : Nat) : Tile := aget s.tiles n {}

/-- Replace a tile. -/
def State.setTile (s : State) (n : Nat) (t : Tile) : State := { s with tiles := aset s.tiles n t }

/-- Die `n`. -/
def State.die (s : State) (n : Nat) : Die := aget s.dies n {}

/-- Replace a die. -/
def State.setDie (s : State) (n : Nat) (d : Die) : State := { s with dies := aset s.dies n d }

/-- Cluster `n`: 32 × die + cluster of the die. -/
def State.cluster (s : State) (n : Nat) : Cluster := aget s.clusters n {}

/-- Replace a cluster. -/
def State.setCluster (s : State) (n : Nat) (c : Cluster) : State := { s with clusters := aset s.clusters n c }

/-- Partition `n` (R345). -/
def State.partn (s : State) (n : Nat) : Partn := aget s.partns n {}

/-- Replace a partition. -/
def State.setPartn (s : State) (n : Nat) (p : Partn) : State := { s with partns := aset s.partns n p }

/-- The log entry numbered `id`. -/
def State.entry? (s : State) (id : Nat) : Option LogEntry := s.log.find? fun e => e.id == id

/-- Replace a log entry. -/
def State.setEntry (s : State) (e : LogEntry) : State :=
  { s with log := s.log.map fun f => if f.id == e.id then e else f }

/-- Remove a log entry. -/
def State.dropEntry (s : State) (id : Nat) : State := { s with log := s.log.filter fun e => e.id != id }

/-- The copy numbered `id`. -/
def State.copy? (s : State) (id : Nat) : Option Copy := s.copies.find? fun c => c.id == id

/-- Replace a copy. -/
def State.setCopy (s : State) (c : Copy) : State :=
  { s with copies := s.copies.map fun d => if d.id == c.id then c else d }

/-- The token numbered `n`. -/
def State.token? (s : State) (n : Nat) : Option Token := s.tokens.find? fun t => t.num == n

/-! ## Places (R336) -/

/-- Tile entry of logical tile `lt` (DESIGN CHOICE, log entry 10: at reset the enabled tiles in order). -/
def State.ptileEntry (s : State) (lt : Nat) : W64 :=
  if lt < 96 * s.ndies then
    aget s.ptiles lt (w64 (2 ^ 63 + (lt / 96) * 256 + lt % 96))
  else 0

/-- Cluster entry of logical cluster `c`. -/
def State.pclusterEntry (s : State) (c : Nat) : W64 :=
  if c < 12 * s.ndies then aget s.pclusters c (w64 (2 ^ 63)) else 0

/-- Bank/queue entry `n`. -/
def State.pbankEntry (s : State) (n : Nat) : W64 := if n < 1024 then aget s.pbanks n 0 else 0

/-- Physical tile behind logical tile `lt`. -/
def State.physTile (s : State) (lt : Nat) : Nat :=
  let e := s.ptileEntry lt
  104 * fld e 8 8 + fld e 7 0

/-- Cluster of a physical tile: 13 clusters of 8 physical tiles a die, the spare tiles in the 13th, which takes
the clock of cluster 11 (DESIGN CHOICE, log entry 10). -/
def clusterOf (pt : Nat) : Nat :=
  let c := pt % 104 / 8
  32 * (pt / 104) + (if c < 12 then c else 11)

/-- The physical tile that holds a team's window, panels and accumulators: the even tile of a pair (R96, R195). -/
def State.teamTile (s : State) (t : Team) : Nat := s.physTile t.ltile

/-- Physical tiles of a team. -/
def State.teamTiles (s : State) (t : Team) : List Nat :=
  if t.pair then [s.physTile t.ltile, s.physTile (t.ltile + 1)] else [s.physTile t.ltile]

/-- Physical tiles of a gang. -/
def State.gangTiles (s : State) (g : Gang) : List Nat := (List.range g.ntiles).map fun i => s.physTile (g.ltile + i)

/-- The team of a group; none for a stoker core. -/
def State.teamOf (s : State) (g : Group) : Option Team := if g.core.isSome then none else s.team? g.team

/-- The gang of a group. -/
def State.gangOf (s : State) (g : Group) : Option Gang :=
  match s.teamOf g with
  | some t => s.gang? t.gang
  | none => none

/-- The launch or job of a group. -/
def State.workOf (s : State) (g : Group) : Option Work :=
  match s.teamOf g with
  | some t => s.work? t.work
  | none => none

/-- The physical tile on which a group stands: the odd tile of a pair for sequencers 4 to 7 (R290). -/
def State.groupTile (s : State) (g : Group) : Option Nat :=
  match s.teamOf g with
  | some t => some (s.physTile (if t.pair && 4 ≤ g.seqr then t.ltile + 1 else t.ltile))
  | none => none

/-- Number of the operand log that serves a context: its tile's, or the core's own. -/
def State.logOf (s : State) (g : Group) : Nat :=
  match s.groupTile g with
  | some t => t
  | none => 1000 + g.id

/-- Die of a context. -/
def State.dieOf (s : State) (g : Group) : Nat :=
  match g.core with
  | some c => c.num / 8
  | none => match s.groupTile g with | some t => t / 104 | none => 0

/-- The master that makes a context's accesses (R49). -/
def State.masterOf (s : State) (g : Group) : Master :=
  match g.core with
  | some c => .core c.num
  | none => .tile ((s.groupTile g).getD 0)

/-- The die of a master, whose shared TLB and walk cache serve it; no rule gives the ports a die: die 0 (R56; DESIGN CHOICE, log
entry 44). -/
def Master.die : Master → Nat
  | .tile n => n / 104
  | .core n => n / 8
  | .copyEngine t => t / 104
  | .dieCopy d => d
  | .netPort _ => 0
  | .storPort => 0
  | .coll d => d
  | .command d => d

/-- MASTER code of a fault record (R60). -/
def Master.code : Master → Nat
  | .tile _ => 0
  | .core _ => 1
  | .copyEngine _ => 2
  | .dieCopy _ => 3
  | .netPort _ => 4
  | .storPort => 5
  | .coll _ => 6
  | .command _ => 7

/-- Local clocks delivered to the cluster of a physical tile. -/
def State.tileClock (s : State) (pt : Nat) : Nat := (s.cluster (clusterOf pt)).clocks

/-- Reach of a scope by number of tiles: true when it is the issuing tile alone (R71). -/
def State.tileWide (s : State) (g : Group) (scope : Nat) : Bool :=
  match scope with
  | 0 => true
  | 1 => match s.teamOf g with | some t => !t.pair | none => true
  | 2 => match s.gangOf g with | some k => k.ntiles == 1 | none => true
  | _ => false

/-- Tiles in the reach of a scope (R71). -/
def State.reach (s : State) (g : Group) (scope : Nat) : List Nat :=
  match scope with
  | 0 => (s.groupTile g).toList
  | 1 => match s.teamOf g with | some t => s.teamTiles t | none => []
  | 2 => match s.gangOf g with | some k => s.gangTiles k | none => []
  | 3 => (List.range 104).map fun i => 104 * s.dieOf g + i
  | _ => (List.range (104 * s.ndies)).map fun i => i

/-- Teams of a gang in gang order (R97). -/
def State.gangTeam (s : State) (g : Group) (d : Nat) : Option Team :=
  match s.teamOf g, s.gangOf g with
  | some t, some k =>
    match k.teams[(t.pos + d) % (max k.teams.length 1)]? with
    | some id => s.team? id
    | none => none
  | _, _ => none

/-- Number of teams in the gang of a group; 0 for a stoker core. -/
def State.gangSize (s : State) (g : Group) : Nat :=
  match s.gangOf g with
  | some k => k.teams.length
  | none => 0

/-- A fresh number. -/
def State.takeId (s : State) : Nat × State := (s.nextId, { s with nextId := s.nextId + 1 })

/-- A free value (R39, R212; DESIGN CHOICE, log entry 6). -/
def State.takeFree (s : State) : W64 × State := (Config.freeWord s.fresh, { s with fresh := s.fresh + 1 })

/-- Fields of a launch block (R286, R287) and of a job card (R303) as a team template. -/
def Work.wsel (w : Work) : Nat := if w.job then fld (word w.words 1) 1 0 else fld (word w.words 0) 1 0

/-- Width W of the groups. -/
def Work.width (w : Work) : Nat := 16 * 2 ^ w.wsel

/-- GANGT: teams per gang, 1, 2 or 4. -/
def Work.gangt (w : Work) : Nat := if w.job then 1 else 2 ^ fld (word w.words 0) 3 2

/-- TSPAN. -/
def Work.tspan (w : Work) : Bool := !w.job && bit (word w.words 0) 4

/-- DET. -/
def Work.det (w : Work) : Nat := if w.job then 0 else fld (word w.words 0) 6 5

/-- PRIO. -/
def Work.prio (w : Work) : Nat := if w.job then fld (word w.words 4) 41 40 else fld (word w.words 0) 9 8

/-- TENANT. -/
def Work.tenant (w : Work) : Nat := if w.job then fld (word w.words 4) 39 32 else fld (word w.words 0) 23 16

/-- AFF. -/
def Work.aff (w : Work) : Nat := if w.job then 3 else fld (word w.words 0) 47 46

/-- Grid X, Y, Z. -/
def Work.gridX (w : Work) : Nat := fld (word w.words 1) 15 0
def Work.gridY (w : Work) : Nat := fld (word w.words 1) 31 16
def Work.gridZ (w : Work) : Nat := fld (word w.words 1) 47 32

/-- Teams of a launch. -/
def Work.teamsN (w : Work) : Nat := w.gridX * w.gridY * w.gridZ

/-- Local bytes, panels and accumulators of a team. -/
def Work.localBytes (w : Work) : Nat := if w.job then fld (word w.words 1) 33 14 else fld (word w.words 2) 19 0
def Work.panels (w : Work) : Nat := if w.job then fld (word w.words 1) 37 34 else fld (word w.words 2) 23 20
def Work.accs (w : Work) : Nat := if w.job then fld (word w.words 1) 40 38 else fld (word w.words 2) 26 24

/-- Initial MODE and nf words (R286, R305). -/
def Work.mode (w : Work) : W64 := if w.job then 0 else w64 (fld (word w.words 3) 15 0)
def Work.nf (w : Work) : List (BitVec 16) :=
  if w.job then List.replicate 8 0x0007
  else (List.range 8).map fun i => BitVec.ofNat 16 ((word w.words (4 + i / 4)).toNat >>> (16 * (i % 4)))

/-- Roles: (role, entry PC, groups, BUDQ) of those present, in role order (R284, R288, R303). -/
def Work.roles (w : Work) : List (Nat × W64 × Nat × Nat) :=
  if w.job then [(1, word w.words 0, fld (word w.words 1) 5 2 + 1, fld (word w.words 1) 13 6)]
  else ((List.range 3).map fun r =>
    (r, word w.words (6 + 2 * r), fld (word w.words (7 + 2 * r)) 7 0, fld (word w.words (7 + 2 * r)) 15 8)).filter
      fun q => q.2.2.1 != 0

/-- TRAPVEC, SPILLBASE, DEPCTR, DONE. -/
def Work.tvec (w : Work) : W64 := if w.job then w.trapvec else word w.words 12
def Work.spill (w : Work) : W64 := if w.job then word w.words 7 else word w.words 13
def Work.depctr (w : Work) : W64 := if w.job then word w.words 5 else word w.words 14
def Work.done (w : Work) : W64 := if w.job then word w.words 6 else word w.words 15

/-- Shared range `i`: base and size (R286). -/
def Work.shared (w : Work) (i : Nat) : Nat × Nat :=
  if w.job then (0, 0) else ((word w.words (16 + 2 * i)).toNat, (word w.words (17 + 2 * i)).toNat)

/-- Lowest-numbered shared range of a deterministic launch that overlaps `n` bytes at `va` (R93). -/
def Work.sharedHit (w : Work) (va n : Nat) : Option Nat :=
  if w.det = 1 then
    (List.range 4).find? fun i => let r := w.shared i; r.2 != 0 && va < r.1 + r.2 && r.1 < va + n
  else none

/-- The team holds the ember (R320). -/
def Work.holds (w : Work) (t : Team) : Bool := w.det = 1 && !w.abort && w.visiting && w.holder == t.l

/-- The lowest team from `l` on that is still visited. -/
def Work.nextVisit (w : Work) (l : Nat) : Option Nat :=
  ((List.range w.teamsN).drop l).find? fun k => !(w.skipped.contains k || w.gone.contains k)

/-- The team whose visit is next, and the launch in the round of that visit (R320). -/
def Work.emberDue (w : Work) : Work × Option Nat :=
  match w.nextVisit w.holder with
  | some l => (w, some l)
  | none => ({ w with round := w.round + 1 }, w.nextVisit 0)

/-- The window of a local side of a copy. -/
def Side.window : Side → List (Nat × Nat)
  | .loc t o => [(t, o)]
  | .glob _ => []

end Sys2Proof.Machine
end

