-- ==== Sys2Proof/Machine/Aelmel.lean ====
section
/-! DEFINITION. Aelmel's registers (23 R400, R401), as the host reaches them and as they stand at the start of the device
register space (03 R46, 22 R396). -/
namespace Sys2Proof.Machine

/-- HEALTH (R403). -/
def Health.word (h : Health) : W64 :=
  w64 (h.cecnt * 2 ^ 32 + h.uecnt * 2 ^ 24 + h.spare0 * 2 ^ 20 + h.spare1 * 2 ^ 16 + h.tmax * 2 ^ 8 + (if h.hot then 2 else 0)
    + (if h.replace then 1 else 0))

/-- CMD 1 in RECOVERY, except after an over-temperature stop. -/
def aelcmdVerifyBoot (s : State) : State :=
  let a := s.aelmel
  if a.state == .recovery && a.reason != 5 then
    { s with aelmel := { a with state := .verify, reason := 0, fromBuf := true, verified := false } }
  else s

/-- STATE of AELSTAT. -/
def AState.code : AState → Nat
  | .reset => 0
  | .verify => 1
  | .run => 2
  | .recovery => 3

/-- AELSTAT. -/
def Aelmel.stat (a : Aelmel) : Nat := (if a.state == .recovery then a.reason * 256 else 0) + a.state.code

/-- Bytes of RECBUF. -/
def recbufBytes : Nat := 2 ^ 26 + 512

/-- Exactly `n` bytes of a list. -/
def fitBytes (n : Nat) (l : List Byte) : List Byte := (List.range n).map fun i => l.getD i 0

/-- Bytes 0 to 127 of the report. -/
def State.reportBody (s : State) : List Byte :=
  let a := s.aelmel
  fitBytes 32 a.nonce ++ (if a.state == .recovery then List.replicate 64 0 else fitBytes 64 a.measure) ++ natBytes 8 s.caps.toNat
    ++ natBytes 8 s.health.word.toNat ++ natBytes 8 a.boots ++ natBytes 8 a.stat

/-- The 242 bytes of the report: its body and the signature over it. -/
def State.report (s : State) : List Byte := s.reportBody ++ (List.range 114).map (Config.identitySign s.reportBody)

/-- CMD 2: the signed report, at the start of RECBUF in RUN, at its top in RECOVERY. -/
def aelcmdAttest (s : State) : State :=
  let a := s.aelmel
  let put (off : Nat) : State := { s with aelmel := { a with recbuf := memWrite a.recbuf off s.report } }
  match a.state with
  | .run => put 0
  | .recovery => put (recbufBytes - 242)
  | _ => s

/-- A write to RECBUF, taken in RECOVERY only. -/
def recbufWrite (s : State) (off : Nat) (bs : List Byte) : State :=
  let a := s.aelmel
  if a.state == .recovery && off + bs.length ≤ recbufBytes then { s with aelmel := { a with recbuf := memWrite a.recbuf off bs } } else s

/-! ## What the host reaches beside device addresses (R396, R401)

Device physical addresses have 48 bits. Above them the events HOST_READ and HOST_WRITE name the doorbells of BAR2 and the management
interface, whose places the spec does not give (DESIGN CHOICE, log entry 25). -/

/-- The doorbells of BAR2, 8 bytes for each die's command queue. -/
def bar2Base : Nat := 2 ^ 48

/-- The public key, from 0 on, and the certificate, from 64 on, in the management interface. -/
def mgmtBase : Nat := 2 ^ 49

/-- A byte of the management interface. -/
def mgmtByte (off : Nat) : Byte := if off < 57 then Config.identityKey off else Config.identityCert (off - 64)

/-- A range lies within the key, or within the certificate. -/
def mgmtHolds (off n : Nat) : Bool := off + n ≤ 57 || (64 ≤ off && off + n ≤ 64 + Config.identityCertBytes)

/-! ## The registers by offset (R400) -/

/-- Start of BAR0, which maps the device register space (R396). -/
def barBase : Nat := 0x7F0000000000

/-- A range of BAR0 lies within one register that R400 gives. -/
def aelmelHolds (off n : Nat) : Bool :=
  let inside (lo k : Nat) : Bool := lo ≤ off && off + n ≤ lo + k
  inside 0 8 || inside 8 8 || inside 0x10 32 || inside 0x1000 recbufBytes

/-- A byte of BAR0. AELCMD, which is write-only, reads as a free value (log entry 25). -/
def State.regByte (s : State) (off : Nat) : Byte :=
  if off < 8 then (natBytes 8 s.aelmel.stat).getD off 0
  else if 0x10 ≤ off && off < 0x30 then s.aelmel.nonce.getD (off - 0x10) 0
  else if 0x1000 ≤ off && off < 0x1000 + recbufBytes then memGet s.aelmel.recbuf (off - 0x1000)
  else Config.deviceByte off s.sched

/-- A write into one register of BAR0: AELSTAT takes none, AELCMD acts on its low byte. -/
def State.regWrite (s : State) (off : Nat) (bs : List Byte) : State :=
  if off = 8 then
    match bs with
    | b :: _ => if b = 1 then aelcmdVerifyBoot s else if b = 2 then aelcmdAttest s else s
    | [] => s
  else if 0x10 ≤ off && off < 0x30 then
    { s with aelmel := { s.aelmel with nonce := (s.aelmel.nonce.take (off - 0x10) ++ bs ++ s.aelmel.nonce.drop (off - 0x10 + bs.length)).take 32 } }
  else if 0x1000 ≤ off then recbufWrite s (off - 0x1000) bs
  else s

end Sys2Proof.Machine
end

