-- ==== Sys2Proof/Machine/Memory.lean ====
section
/-! DEFINITION. Device memory, the home slices, the tile caches and the store path (04), and translation with its
caches and its fault records (03). -/
namespace Sys2Proof.Machine

/-! ## Home slices (R66, R68, R74, R75) -/

/-- Home die and slice of a line, and its set (R66): `line` is the address ÷ 128. -/
def homeOf (ndies line : Nat) : Nat × Nat × Nat :=
  let a := line * 128
  let f := Nat.xor (Nat.xor (bits a 30 24) (bits a 37 31)) (Nat.xor (bits a 44 38) (bits a 47 45))
  let s := Nat.xor (bits a 13 7) f
  (if ndies = 2 then s / 64 else 0, s % 64, bits a 23 14)

/-- Address of the host and CXL window (R46). -/
def isHostWindow (pa : Nat) : Bool := 0x800000000000 ≤ pa && pa < 0x1000000000000

/-- Address of the device register space (R46). -/
def isRegSpace (pa : Nat) : Bool := 0x7F0000000000 ≤ pa && pa < 0x800000000000

/-- The register space, outside the registers that the spec gives (R400). -/
def regUnknown (pa n : Nat) : Bool := isRegSpace pa && !aelmelHolds (pa - barBase) n

/-- Address of device memory of the part (R46). -/
def State.isMemory (s : State) (pa : Nat) : Bool := pa < s.memEnd

/-- The address stands in the physical space of the part (R46). -/
def State.populated (s : State) (pa : Nat) : Bool := s.isMemory pa || isRegSpace pa || isHostWindow pa

/-- Where the stacks hold a byte: stack, channel pair, channel of the stack, row within the pair (R47). -/
structure DramSpot where
  stack : Nat
  pair : Nat
  channel : Nat
  row : Nat
deriving DecidableEq, Repr

/-- The interleave of device memory, line by line; bit 6 tells the channel of the pair, and the bits above the channel pair's,
unchanged, are the row (R47). -/
def State.dramOf (s : State) (pa : Nat) : DramSpot :=
  let at' (stack pair row : Nat) : DramSpot := { stack := stack, pair := pair, channel := 2 * pair + bits pa 6 6, row := row }
  if s.stacks = 8 then
    at' (Nat.xor (Nat.xor (bits pa 9 7) (bits pa 18 16)) (bits pa 27 25)) (Nat.xor (bits pa 15 10) (bits pa 24 19)) (bits pa 47 16)
  else
    at' (Nat.xor (Nat.xor (bits pa 8 7) (bits pa 17 16)) (bits pa 26 25)) (Nat.xor (bits pa 14 9) (bits pa 23 18)) (bits pa 47 15)

/-- Rank of a mark for the choice of a victim (R74). -/
def Mark.rank : Mark → Nat
  | .first => 0
  | .normal => 1
  | .last => 2

/-- The mark after an access: fills with the mark of its hint, a retention hint decides on a hit (R75). -/
def markFill (hint : Nat) : Mark := if hint = 1 || hint = 4 then .first else if hint = 2 then .last else .normal

/-- Mark of a line that is hit (R75). -/
def markHit (hint : Nat) (m : Mark) : Mark := if hint = 1 then .first else if hint = 2 then .last else m

/-- The least recently used of the lines of the lowest mark, in a list most recent first (R74). -/
def victimOf {α : Type} (mark : α → Mark) (set : List α) : Option α :=
  let pick (m : Mark) := (set.filter fun l => mark l == m).getLast?
  match pick .first with
  | some l => some l
  | none => match pick .normal with
    | some l => some l
    | none => pick .last

/-- The line of the home slice, if it holds it. -/
def State.sline? (s : State) (line : Nat) : Option SLine := s.sram.find? fun l => l.line == line

/-- One byte at its point of coherence: the home slice's copy, else memory (R257); in the register space the register's
(R46, R396; DEDUCED, log entry 25). -/
def State.home (s : State) (pa : Nat) : Byte :=
  if isRegSpace pa then s.regByte (pa - barBase) else
  match s.sline? (pa / 128) with
  | some l => l.data.getD (pa % 128) 0
  | none => memGet s.mem pa

/-- Bytes at their point of coherence. -/
def State.homeRead (s : State) (pa n : Nat) : List Byte := (List.range n).map fun i => s.home (pa + i)

/-- A 64-bit word at its point of coherence. -/
def State.homeW64 (s : State) (pa : Nat) : W64 := w64 (bytesNat (s.homeRead pa 8))

/-- The lines of one set, most recent first. -/
def State.sset (s : State) (line : Nat) : List SLine :=
  s.sram.filter fun l => homeOf s.ndies l.line == homeOf s.ndies line

/-- Ways a slice has beside the collective engine's staging (R67, R381). -/
def State.sways (s : State) (line : Nat) : Nat := 16 - (s.die (homeOf s.ndies line).1).ways

/-- Keep at most 12 lines marked last in a set: the least recently used of the others becomes normal (R74). -/
def State.capLast (s : State) (line : Nat) : State :=
  let last := (s.sset line).filter fun l => l.mark == .last
  if last.length ≤ 12 then s
  else match last.getLast? with
    | none => s
    | some v => { s with sram := s.sram.map fun l => if l.line == v.line then { l with mark := .normal } else l }

/-- The stack takes the data of a modified line of a slice, and the errors that stand in it. -/
def State.intoStack (s : State) (l : SLine) : State :=
  if l.modified then
    { s with
        mem := memWrite s.mem (l.line * 128) l.data
        badBursts := (s.badBursts.filter fun b => b.burst / 2 != l.line)
          ++ (s.badSlices.filter fun b => b.burst / 2 == l.line).map fun b => { b with cause := 0x21 } }
  else s

/-- Take one line out of a slice, writing it to the stack if it is modified. -/
def State.evict (s : State) (line : Nat) : State :=
  match s.sline? line with
  | none => s
  | some l =>
    let s := s.intoStack l
    { s with sram := s.sram.filter (fun k => k.line != line)
             badSlices := s.badSlices.filter fun b => b.burst / 2 != line }

/-- Write a line back from its home slice to the stack if it is modified; it stays valid (R92). -/
def State.writeBack (s : State) (line : Nat) : State :=
  match s.sline? line with
  | none => s
  | some l =>
    let s := s.intoStack l
    { s with sram := s.sram.map fun k => if k.line == line then { k with modified := false } else k }

/-- Bring a line to the front of its slice, filling it under the hint; no-allocate and stream do not allocate
(R75). Lines of the host window are not held (R69). -/
def State.touch (s : State) (line hint : Nat) : State :=
  if !(s.isMemory (line * 128)) then s else
  match s.sline? line with
  | some l =>
    ({ s with sram := { l with mark := markHit hint l.mark } :: s.sram.filter fun k => k.line != line }).capLast line
  | none =>
    if hint = 3 || hint = 4 then s else
    let s := if (s.sset line).length < s.sways line then s
      else match victimOf SLine.mark (s.sset line) with | some v => s.evict v.line | none => s
    if s.sways line = 0 then s else
    ({ s with
        sram := { line := line, data := memRead s.mem (line * 128) 128, mark := markFill hint } :: s.sram
        badSlices := s.badSlices ++ s.badBursts.filter fun b => b.burst / 2 == line } : State).capLast line

/-- Write into a list of bytes at an offset. -/
def putBytes (data : List Byte) (off : Nat) (bs : List Byte) : List Byte :=
  data.take off ++ bs ++ data.drop (off + bs.length)

/-- Bytes of a burst that a range of bytes covers. -/
def burstMask (burst pa n : Nat) : W64 :=
  maskOf ((List.range 64).filter fun i => pa ≤ burst * 64 + i && burst * 64 + i < pa + n)

/-- A store of the instruction `inst` goes into a bad burst: the one that rewrites the whole burst clears its error (R371);
0 is an instruction of its own. -/
def BadBurst.rewrite (inst pa n : Nat) (b : BadBurst) : Option BadBurst :=
  let now := burstMask b.burst pa n
  if now = 0 then some b
  else
    let m := now ||| (if inst != 0 && b.inst == inst then b.mask else 0)
    if m = BitVec.allOnes 64 then none else some { b with inst := inst, mask := m }

/-- Perform a store within one line at its home slice, at the host interface or at a register (R46, R68, R69, R72), for the
instruction `inst`. -/
def State.homeWrite (s : State) (pa : Nat) (bs : List Byte) (hint : Nat) (inst : Nat := 0) : State :=
  if isRegSpace pa then s.regWrite (pa - barBase) bs else
  let line := pa / 128
  let s := { s with badBursts := s.badBursts.filterMap (BadBurst.rewrite inst pa bs.length) }
  let s := s.touch line hint
  let s := { s with badSlices := s.badSlices.filterMap (BadBurst.rewrite inst pa bs.length) }
  match s.sline? line with
  | some l =>
    { s with sram := { l with data := putBytes l.data (pa % 128) bs, modified := true }
        :: s.sram.filter fun k => k.line != line }
  | none => { s with mem := memWrite s.mem pa bs }

/-- Split `n` bytes at an address at 128-byte lines (R77); at most `fuel` pieces. -/
def pieces : Nat → Nat → Nat → List (Nat × Nat)
  | 0, _, _ => []
  | fuel + 1, a, n =>
    if n = 0 then []
    else
      let k := min n (128 - a % 128)
      (a, k) :: pieces fuel (a + k) (n - k)

/-- Store bytes at any address, line by line. -/
def State.homeWriteAll (s : State) (pa : Nat) (bs : List Byte) (hint : Nat) : State :=
  (pieces (bs.length / 128 + 2) pa bs.length).foldl
    (fun s p => s.homeWrite p.1 ((bs.drop (p.1 - pa)).take p.2) hint) s

/-- A burst meets a range of bytes. -/
def burstIn (pa n b : Nat) : Bool := b * 64 < pa + n && pa < b * 64 + 64

/-- A burst that is read has an uncorrectable error: in the stack, where no slice holds its line, or in the slice
(R48, R371). -/
def State.badRead (s : State) (pa n : Nat) : Bool :=
  s.badBursts.any (fun b => burstIn pa n b.burst && (s.sline? (b.burst / 2)).isNone)
    || s.badSlices.any fun b => burstIn pa n b.burst

/-- A 64-bit word of a table at its point of coherence; `none` where it has an uncorrectable error (R48). -/
def State.tableWord (s : State) (pa : Nat) : Option W64 := if s.badRead pa 8 then none else some (s.homeW64 pa)

/-- The first byte of a part with an uncorrectable error. -/
def State.badByte (s : State) (p : Piece) : Option Nat :=
  if s.badRead p.pa p.n then (List.range p.n).find? fun i => s.badRead (p.pa + i) 1 else none

/-- The first byte with an uncorrectable error in the parts of an access, of those that are read: its offset in the access, which
begins `off` before the list, and its physical address (R370). -/
def State.badIn (s : State) (read : Piece → Bool) (off : Nat) : List Piece → Option (Nat × Nat)
  | [] => none
  | p :: t =>
    match (if read p then s.badByte p else none) with
    | some i => some (off + i, p.pa + i)
    | none => s.badIn read (off + p.n) t

/-- Freeze cause of a read of a line with a bad burst (R358). -/
def State.badCause (s : State) (pa : Nat) : Nat :=
  match s.badSlices.find? fun b => b.burst / 2 == pa / 128 with
  | some b => b.cause
  | none => 0x21

/-! ## Tile caches (R70 to R72) -/

/-- The line of a tile's cache. -/
def Tile.cline? (t : Tile) (line : Nat) : Option CLine := t.cache.find? fun l => l.line == line

/-- Drop one line of a tile's cache. -/
def Tile.dropLine (t : Tile) (line : Nat) : Tile := { t with cache := t.cache.filter fun l => l.line != line }

/-- Keep at most 12 lines marked last in a set of the cache (R74). -/
def Tile.capLast (t : Tile) (line : Nat) : Tile :=
  let last := t.cache.filter fun l => l.line % 128 == line % 128 && l.mark == .last
  if last.length ≤ 12 then t
  else match last.getLast? with
    | none => t
    | some v => { t with cache := t.cache.map fun l => if l.line == v.line then { l with mark := .normal } else l }

/-- Fill or refresh a line of the cache with whole-line data (R70, R71, R75): 128 sets of 16 ways. -/
def Tile.fillLine (t : Tile) (line : Nat) (data : List Byte) (hint clock : Nat) : Tile :=
  match t.cline? line with
  | some l =>
    ({ t with cache := { l with data := data, mark := markHit hint l.mark, fill := clock }
        :: t.cache.filter fun k => k.line != line }).capLast line
  | none =>
    if hint = 3 then t else
    let set := t.cache.filter fun l => l.line % 128 == line % 128
    let t := if set.length < 16 then t
      else match victimOf CLine.mark set with | some v => t.dropLine v.line | none => t
    ({ t with cache := { line := line, data := data, mark := markFill hint, fill := clock } :: t.cache }).capLast line

/-- A hit: the line becomes the most recent and takes the hint's mark. -/
def Tile.hitLine (t : Tile) (line hint : Nat) : Tile :=
  match t.cline? line with
  | some l =>
    ({ t with cache := { l with mark := markHit hint l.mark } :: t.cache.filter fun k => k.line != line }).capLast line
  | none => t

/-! ## The store path (R72) -/

/-- Lay the stores of a path that overlap over bytes read at `pa`, oldest first (R72). -/
def overlay (path : List PathEntry) (pa : Nat) (bs : List Byte) : List Byte :=
  path.foldl (fun acc e =>
    match e.op with
    | .store d =>
      (List.range acc.length).map fun i =>
        let a := pa + i
        if e.pa ≤ a && a < e.pa + d.length then d.getD (a - e.pa) 0 else acc.getD i 0
    | _ => acc) bs

/-- A group's load takes bytes of the stores of the path (R267). -/
def Tile.noteSeen (t : Tile) (grp pa n : Nat) : Tile :=
  { t with path := t.path.map fun e =>
      match e.op with
      | .store d => if e.pa < pa + n && pa < e.pa + d.length && !e.seen.contains grp then { e with seen := e.seen ++ [grp] } else e
      | _ => e }

/-- A line as a tile sees it at home, with its own stores on the way. -/
def State.lineFor (s : State) (tile line : Nat) : List Byte :=
  overlay (s.tile tile).path (line * 128) (s.homeRead (line * 128) 128)

/-- Fill or refresh the tile's copy of a line from home; a line with an uncorrectable error is filled by nobody (R371), and a copy
of it that cannot be refreshed goes. -/
def State.fillTile (s : State) (tile line hint : Nat) : State :=
  if s.badRead (line * 128) 128 then s.setTile tile ((s.tile tile).dropLine line)
  else s.setTile tile ((s.tile tile).fillLine line (s.lineFor tile line) hint (s.tileClock tile))

/-- Serve a load of one line for a tile (R71, R72, R69): `wide` says that the scope is tile-wide. -/
def State.lineRead (s : State) (tile line attr : Nat) (wide : Bool) (hint : Nat) : State × List Byte :=
  let t := s.tile tile
  let cacheable := attr = 0 && s.isMemory (line * 128)
  match t.cline? line, wide && cacheable with
  | some l, true => (s.setTile tile (t.hitLine line hint), overlay t.path (line * 128) l.data)
  | _, _ =>
    let s := if attr = 2 then s else s.touch line hint
    let bs := s.lineFor tile line
    (if cacheable then s.fillTile tile line hint else s, bs)

/-- Serve a load of bytes within one line for a group of a tile. -/
def State.tileRead (s : State) (tile grp pa n attr : Nat) (wide : Bool) (hint : Nat) : State × List Byte :=
  let r := s.lineRead tile (pa / 128) attr wide hint
  (r.1.setTile tile ((r.1.tile tile).noteSeen grp pa n), (r.2.drop (pa % 128)).take n)

/-- The entry joins a tile's store path; the tile's copy of the line is updated at once (R72), and marked under the hint (R75). -/
def Tile.enterPath (t : Tile) (e : PathEntry) : Tile :=
  let line := e.pa / 128
  let t := match e.op with
    | .store d =>
      let t := t.hitLine line e.hint
      { t with cache := t.cache.map fun (l : CLine) =>
          if l.line == line then { l with data := putBytes l.data (e.pa % 128) d } else l }
    | _ => t
  { t with path := t.path ++ [e] }

/-- Enter a store of one line into the store path of a tile, and into those of the other tiles on which groups stand whose store it
is (R72, R244). -/
def State.pathStore (s : State) (tile : Nat) (e : PathEntry) : State :=
  let (id, s) := s.takeId
  (tile :: e.mates).foldl (fun s t => s.setTile t ((s.tile t).enterPath { e with id := id, clock := s.tileClock t })) s

/-- Every entry that stands in a tile's store path counts as seen by a group: a release of the group covers it (R266, R267). -/
def Tile.seeAll (t : Tile) (grp : Nat) : Tile :=
  { t with path := t.path.map fun e => if e.seen.contains grp then e else { e with seen := e.seen ++ [grp] } }

/-- Old and operand to new value of an atomic on 32 bits, float operations apart (R86). -/
def AOp.newInt (op : AOp) (old v e : W32) : W32 :=
  match op with
  | .add => old + v
  | .smin => if v.slt old then v else old
  | .smax => if old.slt v then v else old
  | .umin => if v.ult old then v else old
  | .umax => if old.ult v then v else old
  | .and => old &&& v
  | .or => old ||| v
  | .xor => old ^^^ v
  | .exch => v
  | .cas => if old = e then v else old
  | _ => old

/-- Bytes an atomic acts on (R86). -/
def AOp.size : AOp → Nat
  | .add64 => 8
  | _ => 4

/-- Bytes of a store path's entry. -/
def PathEntry.len (e : PathEntry) : Nat :=
  match e.op with
  | .store bs => bs.length
  | .atomic op _ _ _ => op.size
  | .counter _ => 8

/-- It is a store. -/
def PathEntry.isStore (e : PathEntry) : Bool := match e.op with | .store _ => true | _ => false

/-- `dinit` and `ddec` keep the order of the group's atomics (R313). -/
def PathEntry.ordered (e f : PathEntry) : Bool :=
  e.grp == f.grp && match e.op, f.op with
    | .counter _, .store _ => false
    | .store _, _ => false
    | .atomic _ _ _ _, .counter _ => true
    | .counter _, _ => true
    | _, _ => false

/-- Lanes of one store to device lines, and the stores of one commit, go in order (R69, R244). -/
def PathEntry.inTurn (e f : PathEntry) : Bool := e.dev && f.dev && e.inst == f.inst

/-- May the entry at this position of the path be performed: no older entry of its line, and for a release no
older entry at all (R68, R84)? -/
def pathReady : List PathEntry → Nat → Bool
  | [], _ => false
  | e :: t, id =>
    if e.id = id then true
    else pathReady t id && t.all fun f => f.id != id || (!f.rel && f.pa / 128 != e.pa / 128 && !e.ordered f && !e.inTurn f)

/-- The entry may be performed as far as every path that holds it goes (R244). -/
def State.pathsReady (s : State) (id : Nat) : Bool :=
  s.tiles.all fun p => (p.2.path.all fun e => e.id != id) || pathReady p.2.path id

/-! ## Translation (R50 to R59) -/

/-- Kinds of access (R60). -/
inductive Kind where
  | read | write | fetch | atomic
deriving DecidableEq, Repr

/-- Access kind code of a fault record (R60). -/
def Kind.code : Kind → Nat
  | .read => 0
  | .write => 1
  | .fetch => 2
  | .atomic => 3

/-- The access writes. -/
def Kind.writes : Kind → Bool
  | .write => true
  | .atomic => true
  | _ => false

/-- The access reads. -/
def Kind.reads : Kind → Bool
  | .write => false
  | _ => true

/-- What a translation gives. -/
inductive TRes where
  | ok (pa attr : Nat)
  | fault (r : FaultRec)
  /-- permission violation (R50, R51, R55): freeze cause 0x20. -/
  | perm
  /-- a table word with an uncorrectable error, at this device physical address (R48). -/
  | bad (pa : Nat)
deriving DecidableEq, Repr

/-- Agent and master of an access. -/
structure Agent where
  master : Master
  asid : Nat
  vmid : Nat
deriving DecidableEq, Repr

/-- A fault record of the access; the stage-2 causes go to the hypervisor ring (R358, R368). -/
def mkFault (ag : Agent) (va ipa cause walk bytes : Nat) : FaultRec :=
  { va := va, ipa := ipa, asid := ag.asid, vmid := ag.vmid, cause := cause, walk := walk, master := ag.master.code,
    token := 0, bytes := bytes, hyper := 0x10 ≤ cause && cause ≤ 0x12 }

/-- Malformed at a level (R54); `stage2` adds the zero of P. -/
def malformed (d : W64) (level : Nat) (stage2 : Bool) : Bool :=
  bit d 55 || fld d 52 48 != 0 || fld d 13 8 != 0 || bit d 5 || fld d 7 6 == 3
    || (!bit d 1 && (level == 0 || level == 3))
    || (!bit d 1 && level == 2 && fld d 24 14 != 0)
    || (!bit d 1 && level == 1 && fld d 35 14 != 0)
    || (stage2 && bit d 4)

/-- In a table descriptor only V, T and the address are read (R54). -/
def isTable (d : W64) (level : Nat) : Bool := bit d 1 && level < 3

/-- Malformed, where a table descriptor is never (R54). -/
def badDesc (d : W64) (level : Nat) (stage2 : Bool) : Bool := !isTable d level && malformed d level stage2

/-- Index of an address at a level of stage 1 (R53). -/
def index1 (va level : Nat) : Nat :=
  match level with
  | 0 => bits va 51 47
  | 1 => bits va 46 36
  | 2 => bits va 35 25
  | _ => bits va 24 14

/-- Index at a level of stage 2 (R53). -/
def index2 (ipa level : Nat) : Nat := if level = 0 then bits ipa 47 47 else index1 ipa level

/-- Bytes of a leaf at a level (R53). -/
def leafBytes (level : Nat) : Nat :=
  match level with
  | 1 => 2 ^ 36
  | 2 => 2 ^ 25
  | _ => 2 ^ 14

/-- Read a descriptor, through the die's walk cache, which keeps table descriptors (R56); its entries leave in the order in
which they came (DESIGN CHOICE, log entry 44). `none`: an uncorrectable error (R48). -/
def State.descRead (s : State) (die pa level : Nat) : State × Option W64 :=
  let d := s.die die
  match d.walkCache.find? fun p => p.1 == pa with
  | some p => (s, some p.2)
  | none =>
    match s.tableWord pa with
    | none => (s, none)
    | some v =>
      if bit v 0 && isTable v level then
        (s.setDie die { d with walkCache := ((pa, v) :: d.walkCache).take Config.walkCache }, some v)
      else (s, some v)

/-- What a stage-2 translation gives: physical address, leaf bytes and rights, the cause of its failure and its level, or the
address of a table word with an uncorrectable error. -/
inductive S2 where
  | ok (pa size : Nat) (rd wr : Bool)
  | bad (cause level : Nat)
  | err (pa : Nat)
deriving DecidableEq, Repr

/-- The stage-2 walk from a level, for an access that needs Rd, W (R55): `fuel` levels are left. A descriptor of its own that stands at
an unpopulated address reads 0 (DESIGN CHOICE, log entry 40). -/
def State.stage2 (s : State) (die : Nat) (rd wr : Bool) (ipa : Nat) : Nat → Nat → Nat → State × S2
  | 0, _, _ => (s, .bad 0x12 3)
  | fuel + 1, level, table =>
    let at' := table + 8 * index2 ipa level
    match s.descRead die at' level with
    | (s, none) => (s, .err at')
    | (s, some d) =>
      if !bit d 0 then (s, .bad 0x10 level)
      else if badDesc d level true then (s, .bad 0x12 level)
      else if isTable d level then s.stage2 die rd wr ipa fuel (level + 1) (fld d 47 14 * 2 ^ 14)
      else if (rd && !bit d 2) || (wr && !bit d 3) then (s, .bad 0x11 level)
      else
        let pa := fld d 47 14 * 2 ^ 14 + ipa % leafBytes level
        if s.populated pa then (s, .ok pa (leafBytes level) (bit d 2) (bit d 3)) else (s, .bad 0x11 level)

/-- Stage 2 of a VM entry: bypassed with BYP and for VM 0 (R51). -/
def State.stage2Of (s : State) (die vmid : Nat) (s2root : W64) (rd wr : Bool) (ipa : Nat) : State × S2 :=
  if bit s2root 1 || vmid = 0 then (s, .ok ipa (2 ^ 36) true true)
  else s.stage2 die rd wr ipa 4 0 (fld s2root 47 14 * 2 ^ 14)

/-- Stage 2 of the address of a table that software placed, an entry of stage 1 or of the agents: an unpopulated result is a
permission violation where stage 2 is bypassed, and else a stage-2 fault (R46, R55). A word in the device register space is read there
(DESIGN CHOICE, log entry 46). -/
def State.tableSpot (s : State) (die vmid : Nat) (s2root : W64) (rd wr : Bool) (ipa : Nat) : State × Option S2 :=
  match s.stage2Of die vmid s2root rd wr ipa with
  | (s, .ok pa size r w) => (s, if s.populated pa then some (.ok pa size r w) else none)
  | (s, r) => (s, some r)

/-- What finding an agent entry gives (R51): S2ROOT of its VM and the physical address of the entry. -/
inductive AgentSpot where
  | ok (s2root : W64) (pa : Nat)
  | perm
  | fault (cause ipa : Nat)
  | err (pa : Nat)
deriving DecidableEq, Repr

/-- The entry of an agent in the agent table of its VM, for a read or a write of it (R51, R52). -/
def State.agentSpot (s : State) (vmt : Nat) (ag : Agent) (rd wr : Bool) : State × AgentSpot :=
  let vme := vmt + 16 * ag.vmid
  if !s.populated vme then (s, .perm) else
  match s.tableWord vme, s.tableWord (vme + 8) with
  | some s2root, some agtab =>
    if !bit s2root 0 || fld agtab 13 0 < ag.asid then (s, .perm)
    else
      let ipa := fld agtab 47 14 * 2 ^ 14 + 32 * ag.asid
      match s.tableSpot ag.master.die ag.vmid s2root rd wr ipa with
      | (s, none) => (s, .perm)
      | (s, some (.ok pa _ _ _)) => (s, .ok s2root pa)
      | (s, some (.bad c _)) => (s, .fault c ipa)
      | (s, some (.err pa)) => (s, .err pa)
  | _, _ => (s, .err vme)

/-- An atomic OR into a 64-bit word at its point of coherence (R55 line 12, R58). -/
def State.orWord (s : State) (pa : Nat) (m : W64) : State := s.homeWrite pa (natBytes 8 (s.homeW64 pa ||| m).toNat) 0

/-- What the stage-1 walk gives: leaf descriptor, its physical address, its level. -/
inductive S1 where
  | leaf (d : W64) (pa level ipa : Nat)
  | fault (r : FaultRec)
  | perm
  | err (pa : Nat)
deriving DecidableEq, Repr

/-- The stage-1 walk from a level (R55 lines 3 to 9). -/
def State.stage1 (s : State) (ag : Agent) (s2root : W64) (va n : Nat) (k : Kind) : Nat → Nat → Nat → State × S1
  | 0, _, ipa => (s, .fault (mkFault ag va ipa 0x02 3 n))
  | fuel + 1, level, table =>
    let ipa := table + 8 * index1 va level
    match s.tableSpot ag.master.die ag.vmid s2root true false ipa with
    | (s, none) => (s, .perm)
    | (s, some (.bad c _)) => (s, .fault (mkFault ag va ipa c (level + 4 + 8 * k.code) n))
    | (s, some (.err pa)) => (s, .err pa)
    | (s, some (.ok pa _ _ _)) =>
      match s.descRead ag.master.die pa level with
      | (s, none) => (s, .err pa)
      | (s, some d) =>
        if !bit d 0 then (s, .fault (mkFault ag va ipa 0x01 (level + 8 * k.code) n))
        else if badDesc d level false then (s, .fault (mkFault ag va ipa 0x02 (level + 8 * k.code) n))
        else if isTable d level then s.stage1 ag s2root va n k fuel (level + 1) (fld d 47 14 * 2 ^ 14)
        else (s, .leaf d pa level ipa)

/-- The permission checks of R55 line 10: Rd, W, P. -/
def permOk (rd wr p : Bool) (k : Kind) (core : Bool) : Bool :=
  (!k.reads || rd) && (!k.writes || wr) && (!p || core)

/-- True of the stoker cores. -/
def Master.isCore : Master → Bool
  | .core _ => true
  | _ => false

/-- The size code of a leaf (R56). -/
def sizeCode (n : Nat) : Nat := if n = 2 ^ 36 then 2 else if n = 2 ^ 25 then 1 else 0

/-- Bytes of a size code. -/
def sizeBytes (c : Nat) : Nat := if c = 2 then 2 ^ 36 else if c = 1 then 2 ^ 25 else 2 ^ 14

/-- Lines 10 to 12 of R55: the checks of the leaf, stage 2 of the output address, A. The memory type is the ATTR of the stage-1
leaf alone (DESIGN CHOICE, log entry 43). -/
def State.walkLeaf (s : State) (ag : Agent) (s2root : W64) (va n : Nat) (k : Kind) (d : W64) (dpa level dipa : Nat) :
    State × (TRes × Option TlbEntry) :=
  if !permOk (bit d 2) (bit d 3) (bit d 4) k ag.master.isCore then (s, .perm, none)
  else
    let ipa := fld d 47 14 * 2 ^ 14 + va % leafBytes level
    match s.stage2Of ag.master.die ag.vmid s2root k.reads k.writes ipa with
    | (s, .bad c l) => (s, .fault (mkFault ag va ipa c (l + 8 * k.code) n), none)
    | (s, .err pa) => (s, .bad pa, none)
    | (s, .ok pa size rd2 wr2) =>
      if !s.populated pa then (s, .perm, none)
      else
        let aset := !bit d 53
        let need := if aset then s.stage2Of ag.master.die ag.vmid s2root true true dipa else (s, .ok dpa 0 true true)
        match need with
        | (s, .bad c _) => (s, .fault (mkFault ag va dipa c (level + 4 + 8 * 4) n), none)
        | (s, .err pa) => (s, .bad pa, none)
        | (s, .ok _ _ _ _) =>
          if aset && s.badRead dpa 8 then (s, .bad dpa, none) else
          let s := if aset then s.orWord dpa (1#64 <<< 53) else s
          let sz := min size (leafBytes level)
          let e : TlbEntry :=
            { vmid := ag.vmid, asid := ag.asid, size := sizeCode sz, va := va / sz * sz, pa := pa / sz * sz,
              rd := bit d 2, wr := bit d 3, rd2 := rd2, wr2 := wr2, p := bit d 4, attr := fld d 7 6, desc := dpa,
              dirty := bit d 54 }
          (s, .ok pa (fld d 7 6), some e)

/-- The walk of R55 for an access of `n` bytes; the entry it gives is not yet in a TLB. A stage-2 fault met while the entry of
the agent table is read is reported as one of a stage-1 descriptor at level 0, with the entry's IPA and the kind of the
access (DESIGN CHOICE, log entry 40). -/
def State.walk (s : State) (vmt : Nat) (ag : Agent) (va n : Nat) (k : Kind) : State × (TRes × Option TlbEntry) :=
  match s.agentSpot vmt ag true false with
  | (s, .perm) => (s, .perm, none)
  | (s, .fault c ipa) => (s, .fault (mkFault ag va ipa c (4 + 8 * k.code) n), none)
  | (s, .err pa) => (s, .bad pa, none)
  | (s, .ok s2root apa) =>
    match s.tableWord apa with
    | none => (s, .bad apa, none)
    | some s1root =>
      if !bit s1root 0 then (s, .perm, none)
      else
        match s.stage1 ag s2root va n k 4 0 (fld s1root 47 8 * 2 ^ 8) with
        | (s, .fault r) => (s, .fault r, none)
        | (s, .perm) => (s, .perm, none)
        | (s, .err pa) => (s, .bad pa, none)
        | (s, .leaf d dpa level dipa) => s.walkLeaf ag s2root va n k d dpa level dipa

/-- The entry covers the address of the agent. -/
def TlbEntry.covers (e : TlbEntry) (asid vmid va : Nat) : Bool :=
  e.asid == asid && e.vmid == vmid && e.va ≤ va && va < e.va + sizeBytes e.size

/-- Entries of a master's TLB. -/
def State.tlbOf (s : State) (m : Master) : List TlbEntry :=
  match s.tlbs.find? fun p => p.1 == m with
  | some p => p.2
  | none => []

/-- Replace a master's TLB. -/
def State.setTlb (s : State) (m : Master) (l : List TlbEntry) : State :=
  { s with tlbs := (m, l) :: s.tlbs.filter fun p => p.1 != m }

/-- Entries a master's TLB holds (R56). -/
def Master.tlbSize : Master → Nat
  | .tile _ => Config.tlbTile
  | _ => Config.tlbMaster

/-- Put an entry into the master's TLB and its die's (R56); of a full one the entry used least recently falls out (DESIGN CHOICE,
log entry 44). -/
def State.tlbFill (s : State) (m : Master) (e : TlbEntry) : State :=
  let same (f : TlbEntry) : Bool := f.asid == e.asid && f.vmid == e.vmid && f.va == e.va && f.size == e.size
  let s := s.setTlb m ((e :: (s.tlbOf m).filter fun f => !same f).take m.tlbSize)
  let d := s.die m.die
  s.setDie m.die { d with tlb := (e :: d.tlb.filter fun f => !same f).take Config.tlbDie }

/-- The stage-2 rights that the entry holds serve the access; else it walks again (R55). -/
def TlbEntry.serves (e : TlbEntry) (k : Kind) : Bool := (!k.reads || e.rd2) && (!k.writes || e.wr2)

/-- The translation of an address that a TLB holds. -/
def State.tlbFind (s : State) (ag : Agent) (va : Nat) : Option TlbEntry :=
  match (s.tlbOf ag.master).find? fun e => e.covers ag.asid ag.vmid va with
  | some e => some e
  | none => (s.die ag.master.die).tlb.find? fun e => e.covers ag.asid ag.vmid va

/-- An agent of a gather meets a test of ASID and VMID. -/
def Gather.under (g : Gather) (p : Nat → Nat → Bool) : Bool := p g.asid g.vmid || g.others.any fun a => p a.1 a.2

/-- A write through an entry whose D is clear makes a dirty gather, once (R58); `none` where the list is full
(R59). A gather notes the launch that wrote and the agent whose entry it was. -/
def State.gather (s : State) (ag : Agent) (e : TlbEntry) (work : Option Nat) : Option State :=
  let d := s.die ag.master.die
  let note (g : Gather) : Gather :=
    { g with
        works := g.works ++ (work.toList.filter fun w => !g.works.contains w)
        others := if g.under fun a v => a == ag.asid && v == ag.vmid then g.others else g.others ++ [(ag.asid, ag.vmid)] }
  if e.dirty then
    some (s.setDie ag.master.die
      { d with gathers := d.gathers.map fun g => if g.desc == e.desc then note g else g })
  else if d.gathers.any fun g => g.desc == e.desc then
    some ((s.setDie ag.master.die
      { d with gathers := d.gathers.map fun g => if g.desc == e.desc then note g else g }).tlbFill ag.master { e with dirty := true })
  else if 4096 ≤ d.gathers.length then none
  else
    let s := s.setDie ag.master.die
      { d with gathers := d.gathers ++ [{ desc := e.desc, master := ag.master, time := s.time, asid := ag.asid, vmid := ag.vmid,
                                          works := work.toList }] }
    some (s.tlbFill ag.master { e with dirty := true })

/-- The VM table that serves a master: a stoker core's own, else the one in force (DEDUCED, log entry 9). `none`: VA = PA
with every permission; `some none`: no table yet. -/
def State.tableOf (s : State) (m : Master) : Option (Option Nat) :=
  match m with
  | .core n =>
    match s.groups.find? fun g => match g.core with | some c => c.num == n | none => false with
    | some g => match g.core with
      | some c => if c.tables then some (some (fld c.vmtbase 47 12 * 4096)) else none
      | none => none
    | none => none
  | _ => some s.vmtbase

/-- Translate an access of `n` bytes that lies within one page (R50 to R59). The register space is reached through a
descriptor with P = 1 only: any other access to it is a permission violation (R46; DEDUCED, log entry 46). The record of an
accessed/dirty overflow names the physical address as its IPA, level 0 and the kind of the access (R59, R60 name none;
DESIGN CHOICE, log entry 41). -/
def State.translate (s : State) (ag : Agent) (va : W64) (n : Nat) (k : Kind) (work : Option Nat) : State × TRes :=
  if fld va 63 52 != 0 then (s, .perm)
  else
    match s.tableOf ag.master with
    | none => if s.populated va.toNat then (s, .ok va.toNat 0) else (s, .perm)
    | some none => (s, .perm)
    | some (some vmt) =>
      let finish (s : State) (e : TlbEntry) : State × TRes :=
        let pa := e.pa + va.toNat % sizeBytes e.size
        if !permOk e.rd e.wr e.p k ag.master.isCore || (isRegSpace pa && !e.p) then (s, .perm)
        else if k.writes then
          match s.gather ag e work with
          | some s => (s, .ok pa e.attr)
          | none => (s, .fault (mkFault ag va.toNat pa 0x03 (8 * k.code) n))
        else (s, .ok pa e.attr)
      match (s.tlbFind ag va.toNat).filter fun e => e.serves k with
      | some e => finish (s.tlbFill ag.master e) e
      | none =>
        match s.walk vmt ag va.toNat n k with
        | (s, _, some e) => finish (s.tlbFill ag.master e) e
        | (s, r, none) => (s, r)

/-- What forming the physical side of an access gives. -/
inductive ARes where
  | ok (pieces : List Piece)
  | fault (r : FaultRec)
  | perm
  | bad (pa : Nat)
  /-- the device register space (R46), where the spec gives no register. -/
  | reg
deriving DecidableEq, Repr

/-- Bytes of the line parts of an access, the first and those after it, that lie in the first one's page of 16 KiB. -/
def pageBytes : List (Nat × Nat) → Nat
  | [] => 0
  | (a, n) :: t => n + ((t.takeWhile fun p => p.1 / 2 ^ 14 == a / 2 ^ 14).map fun p => p.2).sum

/-- Translate the line parts of an access, first to last (R77). BYTES of a fault record counts the bytes of the access from the
part on that lie in its page of 16 KiB (R60; DESIGN CHOICE, log entry 42). -/
def State.resolvePieces (s : State) (ag : Agent) (k : Kind) (work : Option Nat) :
    List (Nat × Nat) → State × ARes
  | [] => (s, .ok [])
  | (a, n) :: t =>
    match s.translate ag (w64 a) (pageBytes ((a, n) :: t)) k work with
    | (s, .fault r) => (s, .fault r)
    | (s, .perm) => (s, .perm)
    | (s, .bad pa) => (s, .bad pa)
    | (s, .ok pa attr) =>
      match s.resolvePieces ag k work t with
      | (s, .ok ps) => (s, .ok ({ pa := pa, n := n, attr := attr } :: ps))
      | r => r

/-- Translate an access of `n` bytes at a virtual address (R77); a device line takes only aligned accesses of 4
or 8 bytes and no atomic (R69). -/
def State.resolve (s : State) (ag : Agent) (va : W64) (n : Nat) (k : Kind) (work : Option Nat) : State × ARes :=
  if fld va 63 52 != 0 then (s, .perm)
  else
    match s.resolvePieces ag k work (pieces (n / 128 + 2) va.toNat n) with
    | (s, .ok ps) =>
      if ps.any fun p => regUnknown p.pa p.n then (s, .reg)
      else if (ps.any fun p => p.attr == 2) && !((n = 4 || n = 8) && va.toNat % n = 0 && k != .atomic) then (s, .perm)
      else (s, .ok ps)
    | r => r

/-- Ring core of an agent (R368). -/
def State.ringCore (s : State) (asid : Nat) : Nat :=
  let h := Nat.xor (Nat.xor (bits asid 3 0) (bits asid 7 4)) (Nat.xor (bits asid 11 8) (bits asid 13 12))
  if s.ndies = 1 then h % 8 else h

/-- PROD and CONS of a ring (R367). -/
def State.prod (s : State) (r : Ring) : Nat := (s.homeW64 r.base).toNat
def State.cons (s : State) (r : Ring) : Nat := (s.homeW64 (r.base + 8)).toNat

/-- Records that stand in a ring. -/
def State.ringFill (s : State) (r : Ring) : Nat := (s.prod r + 2 ^ 64 - s.cons r) % 2 ^ 64

/-- The header of a ring has an uncorrectable error (R48). -/
def State.ringBad (s : State) (r : Ring) : Bool := s.badRead r.base 16

/-- The ring takes a record: enabled, and not full. A header with an uncorrectable error takes none (DESIGN CHOICE, log entry
54). -/
def State.ringTakes (s : State) (r : Ring) : Bool := r.en && !s.ringBad r && s.ringFill r != 2 ^ r.log2n

/-- The stoker core numbered `n`. -/
def State.coreGroup (s : State) (n : Nat) : Option Group :=
  s.groups.find? fun g => match g.core with | some c => c.num == n | none => false

/-- The ring to which a record goes (R368). -/
def State.ringOf (s : State) (f : FaultRec) : Ring :=
  match s.coreGroup (s.ringCore f.asid) with
  | some { core := some c, .. } => if f.hyper then c.hring else c.fring
  | _ => {}

/-- A record finds room: in the fault buffer of 256 of its ring's die, or in its ring itself, beyond the records that pass
through the buffer on their way there (R368). -/
def State.recordFits (s : State) (r : FaultRec) : Bool :=
  let d := s.die (s.ringCore r.asid / 8)
  let ring := s.ringOf r
  let before := d.buffer.filter fun f => f.hyper == r.hyper && s.ringCore f.asid == s.ringCore r.asid
  d.buffer.length < 256 || (ring.en && !s.ringBad ring && s.ringFill ring + before.length < 2 ^ ring.log2n)

/-- The class that a waiter's work has (R318); 3 where no launch or job stands behind it. -/
def State.waiterClass (s : State) (who : Waiter) : Nat :=
  let ofGroup (id : Nat) : Option Work := (s.group? id).bind s.workOf
  let w := match who with
    | .group g => ofGroup g
    | .entry g _ => ofGroup g
    | .copy c => (s.copy? c).bind fun c => ofGroup c.grp
    | .work n => s.work? n
    | _ => none
  (w.map fun w => w.prio).getD 3

/-- Put a record into the fault buffer of its ring's die with a fresh token (R368); `none` where it finds no room. -/
def State.postFault (s : State) (r : FaultRec) (who : Waiter) : Option (Nat × State) :=
  let die := s.ringCore r.asid / 8
  let d := s.die die
  if !s.recordFits r then none
  else
    let cls := s.waiterClass who
    let (num, s) := s.takeId
    let s := s.setDie die { d with buffer := d.buffer ++ [{ r with token := num, born := s.time, cls := cls }] }
    some (num, { s with tokens := s.tokens ++ [{ num := num, who := who, cause := r.cause, asid := r.asid, va := r.va }] })

/-- The report of an uncorrectable error in the word that a dirty write-back reads: it goes, without a token, to the ring of the agent
whose write made the gather, for its master (R48; access kind 5, R60); `none`: no room. -/
def State.reportGather (s : State) (g : Gather) : Option State :=
  let ag : Agent := { master := g.master, asid := g.asid, vmid := g.vmid }
  let r := mkFault ag g.desc g.desc (s.badCause g.desc) (8 * 5) 8
  let die := s.ringCore r.asid / 8
  let d := s.die die
  if s.recordFits r then some (s.setDie die { d with buffer := d.buffer ++ [{ r with born := s.time }] }) else none

/-- Write back one dirty gather of a die: an atomic OR of bit 54 into the descriptor word (R58). In a burst with an uncorrectable error
nothing is written, and the error is reported; without room for the report the gather stays on the list (DESIGN CHOICE, log entry
54). -/
def State.writeGather (s : State) (die : Nat) (g : Gather) : State :=
  if s.badRead g.desc 8 then
    (s.reportGather g).getD (s.setDie die { s.die die with gathers := (s.die die).gathers ++ [g] })
  else s.orWord g.desc (1#64 <<< 54)

/-- Write back the gathers of a die that a test selects, off the list; their TLB entries keep D. -/
def State.flushGathers (s : State) (die : Nat) (p : Gather → Bool) : State :=
  let d := s.die die
  (d.gathers.filter p).foldl (fun s g => s.writeGather die g) (s.setDie die { d with gathers := d.gathers.filter fun g => !p g })

/-! ## Local store (R94, R96, R97) -/

/-- The local address is valid for `n` bytes: team of the gang, inside its `.local` bytes (R97). -/
def State.localAddr (s : State) (g : Group) (la : Nat) (n : Nat) : Option (Nat × Nat) :=
  let d := bits la 21 20
  let off := bits la 19 0
  if la / 2 ^ 22 != 0 || s.gangSize g ≤ d then none
  else match s.gangTeam g d with
    | some t => if off + n ≤ t.bytes then some (t.id, off) else none
    | none => none

/-- Bytes of a team's window: in its tile's local store, or in its context while it is saved. -/
def State.windowRead (s : State) (team off n : Nat) : List Byte :=
  match s.team? team with
  | none => List.replicate n 0
  | some t =>
    match s.gang? t.gang with
    | some { state := .saved _, .. } => memRead t.saved off n
    | _ => memRead (s.tile (s.teamTile t)).store (t.base + off) n

/-- Write bytes of a team's window. -/
def State.windowWrite (s : State) (team off : Nat) (bs : List Byte) : State :=
  match s.team? team with
  | none => s
  | some t =>
    match s.gang? t.gang with
    | some { state := .saved _, .. } => s.setTeam { t with saved := memWrite t.saved off bs }
    | _ =>
      let pt := s.teamTile t
      s.setTile pt { s.tile pt with store := memWrite (s.tile pt).store (t.base + off) bs }

/-- Offsets of the valid barrier objects of a team's window (R116). -/
def State.barriersOf (s : State) (team : Nat) : List Nat :=
  match s.team? team with
  | none => []
  | some t =>
    match s.gang? t.gang with
    | some { state := .saved _, .. } => t.savedBars
    | _ => ((s.tile (s.teamTile t)).bars.filter fun b => t.base ≤ b && b < t.base + max t.placed 1).map fun b => b - t.base

/-- Replace the valid barrier objects of a team's window. -/
def State.setBarriers (s : State) (team : Nat) (l : List Nat) : State :=
  match s.team? team with
  | none => s
  | some t =>
    match s.gang? t.gang with
    | some { state := .saved _, .. } => s.setTeam { t with savedBars := l }
    | _ =>
      let pt := s.teamTile t
      let tl := s.tile pt
      let others := tl.bars.filter fun b => !(t.base ≤ b && b < t.base + max t.placed 1)
      s.setTile pt { tl with bars := others ++ l.map fun o => t.base + o }

/-- The bytes overlap a valid barrier object of the team's window: the lowest such byte (R116, R126). -/
def State.barrierHit (s : State) (team off n : Nat) : Option Nat :=
  match ((s.barriersOf team).filter fun b => b < off + n && off < b + 16).map fun b => max b off with
  | [] => none
  | x :: t => some (t.foldl min x)

/-- The interval of a team's window overlaps an interval of the range scoreboard of its tile that meets a test. -/
def State.scoreMeets (s : State) (team off n : Nat) (p : Score → Bool) : Bool :=
  match s.team? team with
  | none => false
  | some t =>
    let lo := t.base + off
    (s.tile (s.teamTile t)).scores.any fun sc => p sc && sc.lo < lo + n && lo ≤ sc.hi

/-- It overlaps any interval, or writes only (R114). -/
def State.scoreHit (s : State) (team off n : Nat) (writesOnly : Bool) : Bool :=
  s.scoreMeets team off n fun sc => sc.write || !writesOnly

/-- Local aperture (R99): base and end. -/
def apertureBase : Nat := 0x000FFFFFFFF00000

/-- The address lies in the local aperture of a tile group (R99). -/
def inAperture (g : Group) (va : W64) : Bool :=
  g.core.isNone && apertureBase ≤ va.toNat && va.toNat < 0x0010000000000000

end Sys2Proof.Machine
end

