-- ==== Sys2Proof/Machine/Counters.lean ====
section
/-! DEFINITION. Dependence counters and their watch tables (17 R308, R309, R313), collective counters and their arms
(22 R380), the collective table (22 R382). -/
namespace Sys2Proof.Machine

/-! ## Dependence counters -/

/-- The dies of the part, by number. -/
def State.dieNums (s : State) : List Nat := List.range s.ndies

/-- Work becomes ready: it takes its place in the order of readiness. -/
def State.makeReady (s : State) (id : Nat) : State :=
  match s.work? id with
  | some w =>
    let (n, s) := s.takeId
    s.setWork { w with state := .ready, seqNo := n }
  | none => s

/-- Wake a counter: every work that is registered on it becomes ready and leaves the table (R309). -/
def State.wake (s : State) (pa : Nat) : State :=
  s.dieNums.foldl (fun s n =>
    let d := s.die n
    let due := d.watch.filter fun w => w.pa == pa
    due.foldl (fun s w => s.makeReady w.work) (s.setDie n { d with watch := d.watch.filter fun w => w.pa != pa })) s

/-- The counter word with its COUNT and UNDER replaced. -/
def counterWord (old : W64) (count : Nat) (under : Bool) : W64 :=
  w64 (fld old 63 33 * 2 ^ 33 + (if under then 2 ^ 32 else 0) + count % 2 ^ 32)

/-- `dinit` at the home slice. -/
def State.counterInit (s : State) (pa : Nat) (count : Nat) (hint : Nat) : State :=
  let s := s.homeWrite pa (natBytes 8 (counterWord (s.homeW64 pa) count false).toNat) hint
  if count = 0 then s.wake pa else s

/-- A decrement at the home slice (R309). -/
def State.counterDec (s : State) (pa : Nat) (hint : Nat) : State :=
  let w := s.homeW64 pa
  let n := fld w 31 0
  if n = 0 then s.homeWrite pa (natBytes 8 (counterWord w 0 true).toNat) hint
  else
    let s := s.homeWrite pa (natBytes 8 (counterWord w (n - 1) (bit w 32)).toNat) hint
    if n = 1 then s.wake pa else s

/-! ## Collective counters and arms (R380) -/

/-- The value of counter `n` of a die. -/
def State.hc (s : State) (die n : Nat) : W64 := aget (s.die die).hc n 0

/-- An arm that fired is kept until the token of its record is resumed; with no room for the record, until it finds some. -/
def State.keepArm (s : State) (die : Nat) (a : Arm) (r : FaultRec) : State :=
  let keep (s : State) (t : Option Nat) : State := s.setDie die { s.die die with fires := (s.die die).fires ++ [(a, t)] }
  match s.postFault r (.coll die) with
  | some (num, s) => keep s (some num)
  | none => keep s none

/-- Decrement the dependence counter of an arm that fires; a fault, a permission violation or an uncorrectable error keeps the
arm (R370, R380). -/
def State.fire (s : State) (die : Nat) (a : Arm) : State :=
  let ag : Agent := { master := .coll die, asid := a.asid, vmid := a.vmid }
  let refused (s : State) (cause ipa : Nat) : State := s.keepArm die a (mkFault ag a.addr.toNat ipa cause 0 8)
  match s.resolve ag a.addr 8 .atomic none with
  | (s, .ok (p :: _)) => if s.badRead p.pa 8 then refused s (s.badCause p.pa) p.pa else s.counterDec p.pa 0
  | (s, .fault r) => s.keepArm die a r
  | (s, .bad pa) => refused s (s.badCause pa) pa
  | (s, _) => refused s 0x20 0

/-- Try again the arms of a die that wait on this token; `none`: those whose record found no room. -/
def State.refire (s : State) (die : Nat) (t : Option Nat) : State :=
  let d := s.die die
  let due := d.fires.filter fun p => p.2 == t
  due.foldl (fun s p => s.fire die p.1) (s.setDie die { d with fires := d.fires.filter fun p => p.2 != t })

/-- The arm of a counter is tested: it fires once and is removed. -/
def State.armTest (s : State) (die n : Nat) : State :=
  let d := s.die die
  match d.arms.find? fun p => p.1 == n with
  | some (_, a) =>
    if a.thr ≤ s.hc die n then (s.setDie die { d with arms := d.arms.filter fun p => p.1 != n }).fire die a else s
  | none => s

/-- What a posted entry and the WAIT at its turn note of a counter's value (R384, R394). -/
def Die.noteHeld (d : Die) (n : Nat) (v : W64) : Die :=
  let note (e : QpEntry) : QpEntry :=
    if fld (word e.words 4) 7 0 = n && word e.words 5 ≤ v then { e with armed := true } else e
  { d with
      qps := d.qps.map fun p => (p.1, p.2.map note)
      cqWait := d.cqWait.map fun w => if w.1 = n && w.2.1 ≤ v then (w.1, w.2.1, true) else w }

/-- Add to a counter, modulo 2^64, and test its arm. -/
def State.hcAdd (s : State) (die n : Nat) (v : W64) : State :=
  let new := s.hc die n + v
  let d := s.die die
  (s.setDie die ({ d with hc := aset d.hc n new }.noteHeld n new)).armTest die n

/-! ## The collective table (R382) -/

/-- Word at an offset of a die's collective table. -/
def State.collWord (s : State) (die off : Nat) : W64 := s.homeW64 ((s.die die).collBase + off)

/-- Offsets of the words of the table that a use of a counter, a peer or a queue pair reads. -/
def hcOffs (ns : List Nat) : List Nat := ns.map fun n => 0x800 + 8 * n
def peerOffs (peer : Nat) : List Nat := if peer = 0 then [] else [0x1000 + 16 * peer]

/-- The first byte with an uncorrectable error in the words of a die's table at these offsets: its physical address (R48). -/
def State.collBad (s : State) (die : Nat) (offs : List Nat) : Option Nat :=
  offs.findSome? fun o =>
    let pa := (s.die die).collBase + o
    (s.badByte { pa := pa, n := 8 }).map fun i => pa + i

/-- Fields of a queue pair's entry: valid, owner, VMID, peer, destination die, RASID. -/
structure QpInfo where
  valid : Bool
  owner : Nat
  vmid : Nat
  peer : Nat
  ddie : Nat
  rasid : Nat
deriving DecidableEq, Repr

/-- Read queue pair `n`. -/
def State.qpInfo (s : State) (die n : Nat) : QpInfo :=
  let w := s.collWord die (32 * n)
  let v := s.collWord die (32 * n + 8)
  { valid := bit w 15, owner := fld w 13 0, vmid := fld w 23 16, peer := fld w 31 24, ddie := fld w 32 32,
    rasid := fld v 13 0 }

/-- Offsets that a use of a queue pair reads. -/
def State.qpOffs (s : State) (die n : Nat) : List Nat := [32 * n, 32 * n + 8] ++ peerOffs (s.qpInfo die n).peer

/-- ABSENT with SRC 5 (R360). -/
def absentColl (unit num : Nat) : Cause × W64 := (.absent, w64 (5 + unit * 16 + num * 2 ^ 20))

/-- A peer that is invalid or that names a port or link the part has not (R382, R4). -/
def State.peerAbsent (s : State) (die peer : Nat) : Option (Cause × W64) :=
  if peer = 0 then none
  else
    let w := s.collWord die (0x1000 + 16 * peer)
    let kind := fld w 7 0
    if kind = 1 then (if fld w 15 8 < 2 ^ s.links then none else some (absentColl 5 peer))
    else if kind = 2 then (if fld w 15 8 < s.netPorts then none else some (absentColl 2 peer))
    else some (absentColl 0 peer)

/-- A queue pair that the issuer may not use. -/
def State.qpAbsent (s : State) (die n asid : Nat) : Option (Cause × W64) :=
  let q := s.qpInfo die n
  if !q.valid || q.owner != asid then some (absentColl 0 n)
  else if q.peer = 0 && s.ndies ≤ q.ddie then some (absentColl 4 n)
  else s.peerAbsent die q.peer

/-- A counter that the issuer may not use. -/
def State.hcAbsent (s : State) (die n asid : Nat) : Option (Cause × W64) :=
  let w := s.collWord die (0x800 + 8 * n)
  if bit w 63 && fld w 13 0 = asid then none else some (absentColl 0 n)

end Sys2Proof.Machine
end

