-- ==== Sys2Proof/Machine/Operands.lean ====
section
/-! DEFINITION. Operands: the registers as the fields name them (06 R127 to R133), permutations (02 R28, R29),
predicates (R30), tags (R134, R135), and the checks of 02 R43 steps 3 to 8 and of 06 R129, R130. -/
namespace Sys2Proof.Machine

/-! ## Fields with their absent values -/

/-- The values of the extended words where they are absent (R27, R31). -/
def absentExt : Ext :=
  { xmod := 0, pinv := false, pred := 7, c := 0, pb := 0, pa := 0, zero := 0, hint := 0, abs := false, nbp := 0,
    nb := false, scope := 0, place := 0 }

/-- The extended words, absent values included. -/
def opsExt (o : Ops) : Ext := o.ext.getD absentExt

/-! ## Naming registers -/

/-- The window register that a field names: by the window base, from LO with ABS (R130), or in the trap-level
bank (R131). -/
def Group.wref (g : Group) (abs : Bool) (n : Nat) : Dest :=
  if abs then .slot ((g.flow.lo + n) % g.budget)
  else if g.flow.tl && 56 ≤ n then .bankV (n - 56)
  else .slot ((g.flow.wb + n) % g.budget)

/-- Logical registers [lo, hi) of a group as physical slots. -/
def Group.slotsOf (g : Group) (lo hi : Nat) : List Nat := (List.range (hi - lo)).map fun i => (lo + i) % g.budget

/-- The scalar register that a field names. -/
def Group.sref (g : Group) (n : Nat) : Dest := if g.flow.tl && 28 ≤ n then .bankS (n - 28) else .sreg n

/-- The predicate that a field names. -/
def Group.pref (g : Group) (n : Nat) : Dest := if g.flow.tl && n = 6 then .bankP else .preg n

/-- The window register at a place. -/
def Group.slot (g : Group) (d : Dest) : Slot :=
  match d with
  | .slot n => g.regs.slots.getD n {}
  | .bankV n => g.regs.bankV.getD n {}
  | _ => {}

/-- Replace the window register at a place. -/
def Group.setSlot (g : Group) (d : Dest) (v : Slot) : Group :=
  match d with
  | .slot n => { g with regs := { g.regs with slots := lset g.regs.slots n v } }
  | .bankV n => { g with regs := { g.regs with bankV := lset g.regs.bankV n v } }
  | _ => g

/-- Give the window register at a place a tag; a change of tag alone sets the dirty bit (R136). -/
def Group.setTag (g : Group) (d : Dest) (tag : BitVec 4) : Group :=
  let v := g.slot d
  g.setSlot d { v with tag := tag, dirty := v.dirty || v.tag != tag }

/-- The scalar register at a place. -/
def Group.sval (g : Group) (d : Dest) : W64 :=
  match d with
  | .sreg n => (g.regs.sregs.getD n {}).val
  | .bankS n => g.regs.bankS.getD n 0
  | _ => 0

/-- Write the scalar register at a place. -/
def Group.setSval (g : Group) (d : Dest) (v : W64) : Group :=
  match d with
  | .sreg n => { g with regs := { g.regs with sregs := lset g.regs.sregs n { val := v, dirty := true } } }
  | .bankS n => { g with regs := { g.regs with bankS := lset g.regs.bankS n v } }
  | _ => g

/-- The predicate at a place, of every lane. -/
def Group.pval (g : Group) (d : Dest) : Mask :=
  match d with
  | .preg n => if n = 7 then fullMask g.width else (g.regs.pregs.getD n {}).val
  | .bankP => g.regs.bankP
  | _ => 0

/-- Write a predicate in the lanes of a mask (R133); p7 is never written, and a write by no lane leaves the dirty bit
(R136). -/
def Group.setPval (g : Group) (d : Dest) (lanes v : Mask) : Group :=
  let merge (old : Mask) : Mask := (old &&& ~~~lanes) ||| (v &&& lanes)
  match d with
  | .preg n =>
    let new : PReg := { val := merge (g.pval d), dirty := (g.regs.pregs.getD n {}).dirty || !(lanesOf g.width lanes).isEmpty }
    { g with regs := { g.regs with pregs := lset g.regs.pregs n new } }
  | .bankP => { g with regs := { g.regs with bankP := merge g.regs.bankP } }
  | _ => g

/-- Data of the lanes of a mask replaced. -/
def mergeLanes (w : Nat) (lanes : Mask) (old : List W32) (new : Nat → W32) : List W32 :=
  (List.range w).map fun i => if lanes.getLsbD i then new i else old.getD i 0

/-- Write the lanes of a mask of a window register, and its tag (R134); a write by any lane, or another tag, sets the
dirty bit (R136). -/
def Group.writeLanes (g : Group) (d : Dest) (lanes : Mask) (v : Nat → W32) (tag : BitVec 4) : Group :=
  let old := g.slot d
  g.setSlot d
    { data := mergeLanes g.width lanes old.data v, tag := tag,
      dirty := old.dirty || old.tag != tag || !(lanesOf g.width lanes).isEmpty }

/-! ## Permutations (R28) -/

/-- The lane that lane `i` reads. -/
def permLane (w : Nat) (p : BitVec 9) (i : Nat) : Nat :=
  let k := p.toNat / 8
  match p.toNat % 8 with
  | 1 => (i + k) % w
  | 2 => k
  | 3 => Nat.xor i k
  | 4 => w - 1 - i
  | 5 => 4 * (i / 4) + k
  | _ => i

/-- Pattern and amount accepted for the width (R28). -/
def permOkay (w : Nat) (p : BitVec 9) : Bool :=
  let k := p.toNat / 8
  match p.toNat % 8 with
  | 0 => k == 0
  | 1 => k < w
  | 2 => k < w
  | 3 => k < w
  | 4 => k == 0
  | 5 => k < 4
  | _ => false

/-! ## The instruction that issues -/

/-- What a meaning reads: the instruction's numbers and fields, the context as it was before, the clause, the
executing lanes (R18, R30). -/
structure Ctx where
  maj : Nat
  min : Nat
  f : Form
  o : Ops
  g : Group
  cl : Clause
  act : Mask
  /-- words of the instruction as it stands in memory. -/
  words : Nat
deriving DecidableEq, Repr

/-- Extended words. -/
def Ctx.e (c : Ctx) : Ext := opsExt c.o

/-- Group width W. -/
def Ctx.w (c : Ctx) : Nat := c.g.width

/-- Field numbers. -/
def Ctx.fd (c : Ctx) : Nat := c.o.d.toNat
def Ctx.fa (c : Ctx) : Nat := c.o.a.toNat
def Ctx.fb (c : Ctx) : Nat := c.o.b.toNat
def Ctx.fc (c : Ctx) : Nat := c.e.c.toNat
def Ctx.xm (c : Ctx) : Nat := c.e.xmod.toNat

/-- Literal, absent 0. -/
def Ctx.lit (c : Ctx) : W64 := c.o.lit.getD 0

/-- Executing lanes, ascending. -/
def Ctx.lanes (c : Ctx) : List Nat := lanesOf c.w c.act

/-- At least one lane executes (R79). -/
def Ctx.anyLane (c : Ctx) : Bool := !c.lanes.isEmpty

/-- Places of the window registers D + k, A + k, B + k, C + k. -/
def Ctx.dRef (c : Ctx) (k : Nat) : Dest := c.g.wref c.e.abs (c.fd + k)
def Ctx.aRef (c : Ctx) (k : Nat) : Dest := c.g.wref false (c.fa + k)
def Ctx.bRef (c : Ctx) (k : Nat) : Dest := c.g.wref false (c.fb + k)
def Ctx.cRef (c : Ctx) (k : Nat) : Dest := c.g.wref false (c.fc + k)

/-- Source A of lane `i` through PA, register A + k (R18, R29). -/
def Ctx.opAk (c : Ctx) (k i : Nat) : W32 := (c.g.slot (c.aRef k)).data.getD (permLane c.w c.e.pa i) 0

/-- Source A. -/
def Ctx.opA (c : Ctx) (i : Nat) : W32 := c.opAk 0 i

/-- Source B of lane `i` through PB, or the literal's low half (R23). -/
def Ctx.opB (c : Ctx) (i : Nat) : W32 :=
  match c.o.lit with
  | some l => l.extractLsb' 0 32
  | none => (c.g.slot (c.bRef 0)).data.getD (permLane c.w c.e.pb i) 0

/-- An address or index in window register B (the literal is another operand there). -/
def Ctx.opBw (c : Ctx) (i : Nat) : W32 := (c.g.slot (c.bRef 0)).data.getD (permLane c.w c.e.pb i) 0

/-- Source C + k, which has no permutation. -/
def Ctx.opCk (c : Ctx) (k i : Nat) : W32 := (c.g.slot (c.cRef k)).data.getD i 0

/-- Source C. -/
def Ctx.opC (c : Ctx) (i : Nat) : W32 := c.opCk 0 i

/-- D + k read as a source. -/
def Ctx.opDk (c : Ctx) (k i : Nat) : W32 := (c.g.slot (c.dRef k)).data.getD i 0

/-- Tags of the registers A + k, B + k, C + k, D + k. -/
def Ctx.tagA (c : Ctx) (k : Nat) : BitVec 4 := (c.g.slot (c.aRef k)).tag
def Ctx.tagB (c : Ctx) (k : Nat) : BitVec 4 := (c.g.slot (c.bRef k)).tag
def Ctx.tagC (c : Ctx) (k : Nat) : BitVec 4 := (c.g.slot (c.cRef k)).tag
def Ctx.tagD (c : Ctx) (k : Nat) : BitVec 4 := (c.g.slot (c.dRef k)).tag

/-- Scalar operands A, B, C, D. -/
def Ctx.sA (c : Ctx) : W64 := c.g.sval (c.g.sref c.fa)
def Ctx.sB (c : Ctx) : W64 := c.g.sval (c.g.sref c.fb)
def Ctx.sC (c : Ctx) : W64 := c.g.sval (c.g.sref c.fc)
def Ctx.sD (c : Ctx) : W64 := c.g.sval (c.g.sref c.fd)

/-- Scalar B or the 64-bit literal that replaces it (R23). -/
def Ctx.sBl (c : Ctx) : W64 := match c.o.lit with | some l => l | none => c.sB

/-- Scalar A or the literal that replaces it. -/
def Ctx.sAl (c : Ctx) : W64 := match c.o.lit with | some l => l | none => c.sA

/-- The immediate D:A:B of 18 bits (R26, R150). -/
def Ctx.imm18 (c : Ctx) : Nat := c.fd * 4096 + c.fa * 64 + c.fb

/-- The predicate mask p(PRED) XOR PINV of a context (R30). -/
def predLanes (g : Group) (e : Ext) : Mask :=
  let m := g.pval (if e.pred = 7 then .preg 7 else g.pref e.pred.toNat)
  if e.pinv then fullMask g.width &&& ~~~m else m

/-! ## Regions as instructions see them (12 R228, R233, R242) -/

/-- Where a group stands with its team's region. -/
inductive InRegion where
  | none | body | settled
deriving DecidableEq, Repr

/-- The region of a group that is one of its region groups. -/
def State.regionOf (s : State) (g : Group) : Option Region :=
  match s.teamOf g with
  | some t => if t.region.grps.contains g.id then some t.region else none
  | none => none

/-- In a body, in the settled state, or neither; trap level is in neither (R233, R242). -/
def State.inRegion (s : State) (g : Group) : InRegion :=
  if g.flow.tl then .none else
  match s.regionOf g with
  | some r => match r.state with | .open => .body | .settled => .settled | _ => .none
  | none => .none

/-- Step of a lane of a region group: 1 + W × g + i (R228). -/
def Region.step (r : Region) (g : Group) (i : Nat) : Nat := 1 + g.width * r.grps.idxOf g.id + i

/-- The lanes of a group that are not idle in its body (R228). -/
def State.notIdle (s : State) (g : Group) : Mask :=
  if s.inRegion g = .body then
    match s.regionOf g with
    | some r => maskOf ((List.range g.width).filter fun i => r.step g i ≤ r.t)
    | none => fullMask g.width
  else fullMask g.width

/-! ## Classes of the instruction -/

/-- The control transfers of R37. -/
def isTransfer (maj min : Nat) : Bool :=
  (maj == 0x10 && (min == 0 || min == 1 || min == 2 || min == 3 || min == 4 || min == 6 || min == 9 || min == 10))
    || (maj == 0x22 && min == 2) || (maj == 0x0C && min == 11)

/-- Variable-latency (R38). -/
def isVl (f : Form) (o : Ops) : Bool :=
  match f.vl with
  | .never => false
  | .always => true
  | .unlessNoRet => o.xm % 2 == 0

/-- Number of window registers that a field names; 0 where it names none. -/
def winCount (cl : Cls) (o : Ops) : Nat :=
  match cl with
  | .win n => n
  | .retWin n => if o.xm % 2 = 1 then 0 else n
  | _ => 0

/-- The field names a scalar. -/
def isScal (cl : Cls) (o : Ops) : Bool :=
  match cl with
  | .scal => true
  | .retScal => o.xm % 2 == 0
  | _ => false

/-! ## The checks of R43, steps 3 to 8 -/

/-- ILLOP with a reason (R44). -/
def illop (r : Nat) : Cause × W64 := (.illop, w64 r)

/-- The first of a list of checks that fails. -/
def firstFail : List (Bool × (Cause × W64)) → Option (Cause × W64)
  | [] => none
  | (b, r) :: t => if b then some r else firstFail t

/-- Step 4: unused fields, and the fields that a literal replaces (R23, R25, R41). -/
def unusedBad (f : Form) (o : Ops) : Bool :=
  let e := opsExt o
  !clsZero f.d o o.d || !clsZero f.a o o.a || !clsZero f.b o o.b || !clsZero f.c o e.c || e.zero != 0
    || (match f.lit, o.lit with
        | .b32, some _ => o.b != 0
        | .b64, some _ => o.b != 0
        | .a64, some _ => o.a != 0
        | .off, some _ => o.d != 0 || o.a != 0 || o.b != 0
        | _, _ => false)

/-- Number of panels and accumulators of a context (R195, R198). -/
def State.matrixOf (s : State) (g : Group) : Nat × Nat :=
  match s.teamOf g with
  | some t => (t.panels.length, t.accs.length)
  | none => (0, 0)

/-- Step 5, register classes: 0x08, or 0x0A for a write to p7 (R25, R26, R44). -/
def classBad (pa : Nat × Nat) (cl : Cls) (v : BitVec 6) : Option Nat :=
  match cl with
  | .predW => if v = 7 then some 0x0A else if v.toNat < 8 then none else some 0x08
  | .comb => if v.toNat % 8 = 7 then some 0x0A else none
  | .panel => if v.toNat < pa.1 then none else some 0x08
  | .acc => if v.toNat < pa.2 then none else some 0x08
  | cl => if clsRange cl v then none else some 0x08

/-- Step 5, PLACE kinds accepted (R33). -/
def placeBad (u : PlaceUse) (kind index : Nat) : Bool :=
  (kind == 0 && index != 0) ||
  match u with
  | .none => kind != 0
  | .tileCluster => kind == 3
  | .bank => kind != 3

/-- Step 5, XMOD values accepted (R33). -/
def xmodBad (u : XUse) (x : Nat) : Bool :=
  match u with
  | .zero => x != 0
  | .round => 5 < x
  | .tag => x == 7
  | .noret => 1 < x
  | .fence => 3 < x
  | .cpdir => 2 < x

/-- Steps 3 to 6, without the header checks of step 6 (R43; order within a step: DEDUCED, log entry 13). A permutation
that is not zero where its field names no window register, or where a literal replaces B, has reason 0x09 as one out of
range (R28 and R44 give none for it; DESIGN CHOICE, log entry 33). -/
def decodeChecks (pa : Nat × Nat) (c : Ctx) : Option (Cause × W64) :=
  let f := c.f
  let o := c.o
  let e := c.e
  let vl := isVl f o
  let flag := if o.fs then c.cl.setb else c.cl.seta
  let cls := (classBad pa f.d o.d).orElse fun _ => (classBad pa f.a o.a).orElse fun _ =>
    (classBad pa f.b o.b).orElse fun _ => classBad pa f.c e.c
  let kind := e.place.toNat / 1024
  firstFail
    [(!litOk f.lit o, illop 0x04),
     (unusedBad f o, illop 0x03),
     (cls.isSome, illop (cls.getD 0)),
     ((o.fs && !vl) || (vl && flag == 15), illop 0x07),
     ((if winCount f.a o = 0 then e.pa != 0 else !permOkay c.w e.pa), illop 0x09),
     ((if winCount f.b o = 0 || ((f.lit == .b32 || f.lit == .b64) && o.lit.isSome) then e.pb != 0 else !permOkay c.w e.pb), illop 0x09),
     (e.pinv && e.pred == 7, illop 0x0A),
     (4 < e.hint.toNat || (e.hint != 0 && !f.hint), illop 0x0C),
     (5 < e.scope.toNat || (e.scope != 0 && !f.scope), illop 0x0C),
     (placeBad f.place kind (e.place.toNat % 1024), illop 0x0C),
     (e.nb && !f.nb, illop 0x0C),
     (e.nb && e.nbp == 7, illop 0x0A),
     (!e.nb && e.nbp != 0, illop 0x0C),
     (xmodBad f.xmod c.xm, illop 0x0C),
     (isTransfer c.maj c.min && c.cl.pos + 1 != c.cl.cnt, illop 0x06)]

/-- Step 7 (R42, R32). -/
def privilegeChecks (c : Ctx) : Option (Cause × W64) :=
  let priv := c.g.core.isSome
  let trap := priv || c.g.flow.tl
  firstFail
    [(c.maj == 0x22 && c.min != 2 && !priv, illop 0x0B),
     (c.maj == 0x22 && c.min == 2 && !trap, illop 0x0B),
     (c.e.abs && !trap, illop 0x0B)]

/-- TRAPINFO of ABSENT for a place field (R360). -/
def absentPlace (src unit : Nat) (e : Ext) : Cause × W64 :=
  (.absent, w64 (src + unit * 16 + e.place.toNat * 256))

/-- Step 8 for PLACE (R32, R336): valid entry, unit present, owner and type; of a mailbox of a peer module its port or link too
(R4), where the peer's word can be read. -/
def placeChecks (s : State) (c : Ctx) : Option (Cause × W64) :=
  let kind := c.e.place.toNat / 1024
  let idx := c.e.place.toNat % 1024
  match kind with
  | 0 => none
  | 1 => if bit (s.ptileEntry idx) 63 then none else some (absentPlace 2 8 c.e)
  | 2 => if bit (s.pclusterEntry idx) 63 then none else some (absentPlace 2 8 c.e)
  | _ =>
    let en := s.pbankEntry idx
    let box := c.maj == 0x1D && c.min == 2
    let unit := if bit en 62 then 7 else 6
    if !bit en 63 then some (absentPlace 2 0 c.e)
    else if fld en 61 48 != c.g.asid.toNat || bit en 62 != box || (!bit en 62 && s.ndies ≤ fld en 8 8) then
      some (absentPlace 3 unit c.e)
    else if box && (s.collBad (s.dieOf c.g) (peerOffs (fld en 47 40))).isNone then s.peerAbsent (s.dieOf c.g) (fld en 47 40)
    else none

/-- Residency of a block of `n` window registers from field value `v` (R129); the trap-level bank is resident. -/
def blockNonResident (g : Group) (v n : Nat) : Bool :=
  (List.range n).any fun k => !(g.flow.tl && 56 ≤ v + k) && g.flow.wb + v + k < g.flow.lo

/-- R129 and R130, after step 8: an absolute D at or above TOP, and a non-resident window register. -/
def residencyChecks (c : Ctx) : Option (Cause × W64) :=
  let g := c.g
  let nd := winCount c.f.d c.o
  let nb := if (c.f.lit == .b32 || c.f.lit == .b64) && c.o.lit.isSome then 0 else winCount c.f.b c.o
  let under := (!c.e.abs && blockNonResident g c.fd nd) || blockNonResident g c.fa (winCount c.f.a c.o)
    || blockNonResident g c.fb nb || blockNonResident g c.fc (winCount c.f.c c.o)
  firstFail
    [(c.e.abs && nd != 0 && g.flow.wb + 64 ≤ g.flow.lo + c.fd + (nd - 1), illop 0x0D),
     (under, (.wunf, w64 (g.flow.lo - g.flow.wb)))]

/-! ## Format tags (R135) -/

/-- A tag as a number. -/
def tRAW : BitVec 4 := 0
def tI32 : BitVec 4 := 1
def tF32 : BitVec 4 := 2
def tBF16x2 : BitVec 4 := 3
def tF16x2 : BitVec 4 := 4
def tI16x2 : BitVec 4 := 5
def tI8x4 : BitVec 4 := 6

/-- Tags of the integer class. -/
def intTags : List (BitVec 4) := [0, 1]

/-- One tag check: the tag found, the tags accepted (first one first), the operand position (0 A, 1 B, 2 C, 3 D)
and the window-register number. `none` in `ok` accepts any. -/
structure TagCheck where
  found : BitVec 4
  ok : List (BitVec 4)
  pos : Nat
  reg : Nat
deriving DecidableEq, Repr

/-- FMTX for the first check that fails (R135). -/
def tagFail : List TagCheck → Option (Cause × W64)
  | [] => none
  | t :: r =>
    if t.ok.contains t.found then tagFail r
    else some (.fmtx, w64 (t.found.toNat + t.pos * 16 + (t.ok.headD 0).toNat * 256 + t.reg * 4096))

/-- Check A + k, B + k, C + k, D + k against accepted tags; B is exempt where a literal replaces it (R23). -/
def Ctx.needA (c : Ctx) (ok : List (BitVec 4)) : List TagCheck := [{ found := c.tagA 0, ok := ok, pos := 0, reg := c.fa }]
def Ctx.needAk (c : Ctx) (k : Nat) (ok : List (BitVec 4)) : List TagCheck :=
  [{ found := c.tagA k, ok := ok, pos := 0, reg := c.fa + k }]
def Ctx.needB (c : Ctx) (ok : List (BitVec 4)) : List TagCheck :=
  if c.o.lit.isSome then [] else [{ found := c.tagB 0, ok := ok, pos := 1, reg := c.fb }]
def Ctx.needBw (c : Ctx) (ok : List (BitVec 4)) : List TagCheck := [{ found := c.tagB 0, ok := ok, pos := 1, reg := c.fb }]
def Ctx.needC (c : Ctx) (ok : List (BitVec 4)) : List TagCheck := [{ found := c.tagC 0, ok := ok, pos := 2, reg := c.fc }]
def Ctx.needCk (c : Ctx) (k : Nat) (ok : List (BitVec 4)) : List TagCheck :=
  [{ found := c.tagC k, ok := ok, pos := 2, reg := c.fc + k }]
/-- D read as a source; an absolute D is named from the window base too (R130, R135). Of one below the window base the low 6 bits of
the difference stand in TRAPINFO (DESIGN CHOICE, log entry 13). -/
def Ctx.needD (c : Ctx) (ok : List (BitVec 4)) : List TagCheck :=
  [{ found := c.tagD 0, ok := ok, pos := 3
     reg := if c.e.abs then (1024 + c.g.flow.lo + c.fd - c.g.flow.wb) % 64 else c.fd }]

/-! ## Destinations -/

/-- The window registers that `enter` zeroes (R151). -/
def Ctx.enterDests (c : Ctx) : List Dest :=
  if c.maj = 0x10 && c.min = 5 then (c.g.slotsOf (c.g.flow.wb + 64) (c.g.flow.wb + 64 + c.fb)).map Dest.slot else []

/-- The destinations of the instruction: those that the fields name, and those of `enter` (R39). -/
def Ctx.dests (c : Ctx) : List Dest :=
  let o := c.o
  let d := if !c.f.dw then [] else
    match c.f.d with
    | .win n => (List.range n).map c.dRef
    | .retWin n => if o.xm % 2 = 1 then [] else (List.range n).map c.dRef
    | .scal => [c.g.sref c.fd]
    | .retScal => if o.xm % 2 = 1 then [] else [c.g.sref c.fd]
    | .predW => [c.g.pref c.fd]
    | .comb => [c.g.pref (c.fd % 8)]
    | .panel => [.panel c.fd]
    | .acc => [.acc c.fd]
    | _ => []
  c.enterDests ++ d ++ (if c.f.bw then [c.g.sref c.fb] else []) ++ (if c.e.nb then [c.g.pref c.e.nbp.toNat] else [])

/-- The accumulator that an entry names. -/
def LogOp.acc? : LogOp → Option Nat
  | .mma acc _ _ _ _ => some acc
  | .cdrain acc _ _ => some acc
  | .cstore _ acc => some acc
  | _ => none

/-- Place of an entry in the order of R209: that of its issue, or of its going on after a suspension. -/
def LogEntry.turn (e : LogEntry) : Nat := max e.id e.again

/-- QUOTA was delivered for the entry, or for one on its accumulator behind which it is to be performed (R366, R209). -/
def State.heldByQuota (s : State) (e : LogEntry) : Bool :=
  !e.tlevel && s.log.any fun f => f.grp == e.grp && f.state == .quota
    && (f.id == e.id || (f.op.acc?.isSome && f.op.acc? == e.op.acc? && f.turn < e.turn))

/-- A destination of an incomplete, not suspended, instruction of the group is among these (R39, R209); at trap
level only the handler's own instructions hold (R365). -/
def State.destBusy (s : State) (g : Group) (ds : List Dest) : Bool :=
  s.log.any fun e => e.grp == g.id && e.state != .suspended && (!g.flow.tl || e.tlevel)
    && e.dests.any fun d => ds.contains d

end Sys2Proof.Machine
end

