-- ==== Sys2Proof/Machine/Ops.lean ====
section
/-! DEFINITION. The operations every instruction goes through: fetching its words (02 R13, R45), the clause and its
boundary (02 R36, R37; 06 R138 to R141), the order of checks (02 R43), stalls (02 R38, R39; 21 R364, R365),
taking a local trap and returning from it (21 R361 to R363), faults and freezes (21 R367 to R371). -/
namespace Sys2Proof.Machine

/-- An outcome of a step. -/
abbrev Out := Host.Outcome State Fault Refusal

/-! ## Fetch (R45) -/

/-- What fetching a word gives. -/
inductive FRes where
  | ok (w : W32)
  | fault (r : FaultRec)
  | perm
  /-- an uncorrectable error at this device physical address. -/
  | bad (pa : Nat)
  | reg
deriving DecidableEq, Repr

/-- The agent under which a context accesses memory (R49). -/
def State.agent (s : State) (g : Group) : Agent :=
  { master := s.masterOf g, asid := g.asid.toNat, vmid := g.vmid.toNat }

/-- The launch or job on whose behalf a context writes. -/
def State.workId (s : State) (g : Group) : Option Nat := (s.workOf g).map fun w => w.id

/-- Fetch the word at a 4-byte aligned address: read permission, the group's translation (R45). Of a word that is being
stored into it gives what its home slice holds, where the rule allows the old word or the new one (R45; DESIGN CHOICE,
log entry 34). -/
def State.fetchWord (s : State) (g : Group) (va : W64) : State × FRes :=
  match s.translate (s.agent g) va 4 .fetch none with
  | (s, .fault r) => (s, .fault r)
  | (s, .perm) => (s, .perm)
  | (s, .bad pa) => (s, .bad pa)
  | (s, .ok pa _) =>
    if regUnknown pa 4 then (s, .reg)
    else if s.badRead pa 4 then (s, .bad pa)
    else (s, .ok (w32 (bytesNat (s.homeRead pa 4))))

/-- Fetch up to `n` further words. -/
def State.fetchMore (s : State) (g : Group) : Nat → W64 → State × Except FRes (List W32)
  | 0, _ => (s, .ok [])
  | n + 1, va =>
    match s.fetchWord g va with
    | (s, .ok w) =>
      match s.fetchMore g n (va + 4) with
      | (s, .ok ws) => (s, .ok (w :: ws))
      | r => r
    | (s, r) => (s, .error r)

/-- Fetch the words of the instruction at an address: the first word, then as many as its LEN says (R22). Of a reserved
major, or a header word, no further word is fetched, of a reserved minor they are (R43 steps 1 and 2 leave it open; DESIGN
CHOICE, log entry 35). -/
def State.fetchInstr (s : State) (g : Group) (va : W64) : State × Except FRes (List W32) :=
  match s.fetchWord g va with
  | (s, .ok w) =>
    let n := if majorKnown (majOf w) then wordsOfLen (lenOf w) - 1 else 0
    match s.fetchMore g n (va + 4) with
    | (s, .ok ws) => (s, .ok (w :: ws))
    | r => r
  | (s, r) => (s, .error r)

/-- Reason of an invalid clause header; `none` of a valid one (R35, R44). SETA or SETB of 12 to 14 has reason 0x07 by R44,
also where the header is read again at a boundary, for which R37 names 0x05 alone (DEDUCED, log entry 36). -/
def headerBad (w : W32) : Option Nat :=
  let h := decodeHeader w
  if majOf w != 0x3F || lenOf w != 0 then some 0x05
  else if (12 ≤ h.seta.toNat && h.seta.toNat ≤ 14) || (12 ≤ h.setb.toNat && h.setb.toNat ≤ 14) then some 0x07
  else none

/-! ## Freezes and halts -/

/-- A stoker core halts on a fault of its own, and the host is told (R369, R363). -/
def State.haltCore (s : State) (g : Group) : State :=
  let num := match g.core with | some c => c.num | none => 0
  { s.onGroup g.id (fun h => { h with hold := .halted }) with notes := s.notes ++ [.coreHalted num] }

/-- Freeze a group with a cause (R370): a record and a token go to its agent's ring; with the fault buffer full it stalls at the
access until the record finds room (R368). A stoker core halts (R369). -/
def State.freeze (s : State) (g : Group) (cause va ipa : Nat) : State :=
  if g.core.isSome then s.haltCore g
  else
    let r := mkFault (s.agent g) va ipa cause 0 0
    match s.postFault r (.group g.id) with
    | none => s.onGroup g.id fun h => { h with stall := some .resource, owed := some { cause := cause, va := va, ipa := ipa } }
    | some (num, s) => s.onGroup g.id fun h => { h with frozen := some { cause := cause, token := num }, owed := none }

/-- A freeze that is owed is tried again. -/
def State.payOwed (s : State) (g : Group) : State :=
  match g.owed with
  | some o => s.freeze g o.cause o.va o.ipa
  | none => s

/-! ## Local traps (R358 to R363) -/

/-- Cause codes (R358). -/
def Cause.code : Cause → Nat
  | .illop => 0x01
  | .fmtx => 0x02
  | .wovf => 0x03
  | .wunf => 0x04
  | .illconv => 0x05
  | .accrange => 0x06
  | .rlxop => 0x07
  | .embreq => 0x08
  | .barbusy => 0x09
  | .deadline => 0x0A
  | .quota => 0x0B
  | .absent => 0x0C
  | .swtrap => 0x0D

/-- TRAPCAUSE of a trap (R359). -/
def PendTrap.causeWord (t : PendTrap) : W64 :=
  w64 (t.cause.code + t.pos * 2 ^ 10 + t.seta * 2 ^ 14 + t.setb * 2 ^ 18 + (if t.held then 2 ^ 22 else 0)
    + (if t.replay.isSome then 2 ^ 23 else 0))

/-- Every variable-latency instruction of the group has completed, waits on a kernel fault, or is suspended (R361
step 1); one that comes after an instruction that this group's handler is to replay cannot complete before (R209, R366; DEDUCED,
log entry 56). -/
def State.earlierDone (s : State) (g : Group) : Bool :=
  !(s.log.any fun e => e.grp == g.id && e.state == .running && !s.heldByQuota e)

/-- The 52-bit address of a header from CODEHI and a lane's PC (R137). -/
def Group.pcOf (g : Group) (lpc : W32) : W64 := (g.codehi ++ lpc).zeroExtend 64

/-- Low 32 bits of an address, bits [1:0] zero (R45, R137). -/
def lpcOf (a : W64) : W32 := a.extractLsb' 0 32 &&& 0xFFFFFFFC

/-- The address has the group's CODEHI and no bit above 51 (R137). -/
def Group.sameHi (g : Group) (a : W64) : Bool := fld a 63 52 == 0 && fld a 51 32 == g.codehi.toNat

/-- LDEPTH (R128). -/
def Group.ldepth (g : Group) : Nat := g.flow.links.length

/-- The mask of lanes that have not exited. -/
def Group.running (g : Group) : Mask := fullMask g.width &&& ~~~g.flow.exited

/-- The trap CSRs written at entry (R361 step 2). -/
def Group.writeTrap (g : Group) (t : PendTrap) : Group :=
  { g with csrs := { g.csrs with trapcause := t.causeWord, trappc := t.pc, trapinfo := t.info } }

/-- Steps 2 to 4 of R361: the trap CSRs and the frame are written, TL is set, and every lane that has not exited
stands at VEC. -/
def Group.enterHandler (g : Group) (t : PendTrap) : Group :=
  let vec := lpcOf g.csrs.trapvec
  { g.writeTrap t with
      frame := some { lpc := g.flow.lpc, fl := g.flow.fl, trap := t }
      flow := { g.flow with
        tl := true
        lpc := (List.range g.width).map fun i =>
          if g.flow.exited.getLsbD i then g.flow.lpc.getD i 0 else vec
        fl := List.replicate g.width g.ldepth }
      clause := none, pend := none, stall := none, hold := .none }

/-- TAKING A LOCAL TRAP (R361). VEC 0, a word there that is no valid header, or another CODEHI, freezes with
cause 0x24 after the trap CSRs are written. A fetch fault on VEC is a kernel fault of the group, and the entry
waits; a stoker core halts on it (R369). -/
def State.enterTrap (s : State) (g : Group) (t : PendTrap) : State :=
  let vec := g.csrs.trapvec
  let noHandler (s : State) : State :=
    (s.onGroup g.id fun h => { h.writeTrap t with pend := none, hold := .none }).freeze g 0x24 t.pc.toNat 0
  if vec = 0 || !g.sameHi vec then noHandler s
  else
    match s.fetchWord g vec with
    | (s, .ok w) =>
      if (headerBad w).isSome then noHandler s
      else s.onGroup g.id fun h => h.enterHandler t
    | (s, .fault r) =>
      if g.core.isSome then s.haltCore g
      else match s.postFault r (.group g.id) with
        | some (num, s) => s.onGroup g.id fun h => { h with stall := some (.token num) }
        | none => s.onGroup g.id fun h => { h with stall := some .resource }
    | (s, .perm) => s.freeze g 0x20 vec.toNat 0
    | (s, .bad pa) => s.freeze g (s.badCause pa) vec.toNat pa
    | (s, .reg) => noHandler s

/-- Raise a local trap in a group: at trap level it freezes with cause 0x23, and halts a stoker core (R363);
else it is entered once earlier variable-latency instructions allow (R361 step 1), at once where none is in
flight. -/
def State.raise (s : State) (gid : Nat) (t : PendTrap) : State :=
  match s.group? gid with
  | none => s
  | some g =>
    if g.flow.tl then
      if g.core.isSome then s.haltCore g else s.freeze g 0x23 t.pc.toNat 0
    else
      let s := s.onGroup gid fun h => { h with pend := some t, hold := .trapEntry, stall := none }
      if s.earlierDone g then s.enterTrap { g with pend := some t, hold := .trapEntry, stall := none } t else s

/-- The trap of the instruction that issues: at its own address, re-issued by `eret`. -/
def Ctx.trapAt (c : Ctx) (cause : Cause) (info : W64) : PendTrap :=
  { cause := cause, info := info, pc := c.cl.next, pos := c.cl.pos, seta := c.cl.seta, setb := c.cl.setb,
    lanes := c.cl.lanes, clause := some c.cl }

/-! ## The end of an instruction and of a clause (R36, R141, R224) -/

/-- The loop action of R141 for the lanes `f` that go to the fall-through header. -/
def loopEnd (g : Group) (header : W64) (f : List Nat) : List LoopEntry → Group
  | [] => { g with flow := { g.flow with loops := [] } }
  | e :: t =>
    if f.isEmpty || e.fl != g.ldepth || e.endh != header then { g with flow := { g.flow with loops := e :: t } }
    else
      let n := e.n - 1
      if n = 0 then loopEnd g header f t
      else
        { g with flow := { g.flow with
            loops := { e with n := n } :: t
            lpc := (List.range g.width).map fun i => if f.contains i then lpcOf e.start else g.flow.lpc.getD i 0 } }

/-- The end of a clause (R36 step 4): every lane of the set goes to the header that follows or to its target, then
R141, which trap level and a clause that ends in `rlxpass` do without. A header that follows past the 4 GiB of CODEHI is cut to its low 32
bits (R137 speaks of transfers alone; DESIGN CHOICE, log entry 38). -/
def Group.endClause (g : Group) (cl : Clause) (next : W64) (loops : Bool) : Group :=
  let fall := lpcOf next
  let inSet (i : Nat) : Bool := cl.lanes.getLsbD i && !g.flow.exited.getLsbD i
  let target (i : Nat) : W32 := match cl.targets.find? fun p => p.1 == i with | some p => lpcOf p.2 | none => fall
  let lpc := (List.range g.width).map fun i =>
    if g.flow.exited.getLsbD i then 0xFFFFFFFF else if inSet i then target i else g.flow.lpc.getD i 0
  let f := (List.range g.width).filter fun i => inSet i && target i == fall && g.flow.fl.getD i 0 == g.ldepth
  let g := { g with flow := { g.flow with lpc := lpc }, clause := none }
  if loops && !g.flow.tl then loopEnd g cl.header f g.flow.loops else g

/-- The group moves past an instruction of `words` words: the next pass of a `seq` body (R224), the next
instruction, or the end of the clause. -/
def Group.advance (g : Group) (words : Nat) (loops : Bool) : Group :=
  match g.clause with
  | none => g
  | some cl =>
    let next := cl.next + w64 (4 * words)
    let pos := cl.pos + 1
    let again := match cl.seq with
      | some q => if pos = q.bodyPos + q.n && q.pass + 1 < q.passes then some q else none
      | none => none
    let g := { g with stall := none, lost := 0 }
    match again with
    | some q =>
      { g with clause := some { cl with next := q.body, pos := q.bodyPos, seq := some { q with pass := q.pass + 1 } } }
    | none =>
      let ended : Bool := match cl.seq with | some q => pos == q.bodyPos + q.n | none => false
      let cl := { cl with next := next, pos := pos, seq := if ended then none else cl.seq }
      if pos = cl.cnt then g.endClause cl next loops else { g with clause := some cl }

/-! ## What an instruction's attempt gives -/

/-- The outcome of an attempt to issue. -/
inductive Res where
  /-- its effect is made; the group moves on. -/
  | ok (s : State)
  /-- its effect is made; the group does not move on (it is held, or was sent elsewhere). -/
  | stay (s : State)
  /-- it does not issue now. -/
  | stall (w : Stall)
  /-- a precise local trap before any effect. -/
  | trap (c : Cause) (info : W64)
  /-- an access of an interlocked instruction faults: the group stalls at it (R365). -/
  | fault (s : State) (r : FaultRec)
  /-- a freeze cause, the address and the device physical address (R370). -/
  | freeze (s : State) (cause va ipa : Nat)
  /-- the machine stops. -/
  | stop (f : Fault)
deriving DecidableEq, Repr

/-- A trap from a pair of cause and TRAPINFO. -/
def Res.ofPair (p : Cause × W64) : Res := .trap p.1 p.2

/-- What an attempt leaves. -/
def Ctx.settle (c : Ctx) (s : State) (r : Res) : Host.Outcome State Fault Refusal :=
  let id := c.g.id
  match r with
  | .ok t => .next (t.onGroup id fun g => g.advance c.words true)
  | .stay t => .next t
  | .stall w => .next (s.onGroup id fun g => { g with stall := some w })
  | .trap cause info => .next (s.raise id (c.trapAt cause info))
  | .fault t r =>
    if c.g.core.isSome then .next (t.haltCore c.g)
    else
      match t.postFault r (.group id) with
      | some (num, t) => .next (t.onGroup id fun g => { g with stall := some (.token num) })
      | none => .next (t.onGroup id fun g => { g with stall := some .resource })
  | .freeze t cause va ipa => .next (t.freeze c.g cause va ipa)
  | .stop f => .fault f

/-! ## The header check of R37 -/

/-- The attempt that a failed fetch ends in. -/
def fetchRes (va : W64) (f : FRes) (s : State) : Res :=
  match f with
  | .ok _ => .ok s
  | .fault r => .fault s r
  | .perm => .freeze s 0x20 va.toNat 0
  | .bad pa => .freeze s (s.badCause pa) va.toNat pa
  | .reg => .stop .deviceRegister

/-- Check the header at an address (R37); a fault belongs to the instruction that checks. -/
def State.checkHeader (s : State) (g : Group) (a : W64) : State × Option Res :=
  let a := a &&& ~~~3#64
  match s.fetchWord g a with
  | (s, .ok w) => match headerBad w with | some r => (s, some (.ofPair (illop r))) | none => (s, none)
  | (s, f) => (s, some (fetchRes a f s))

/-- Check several headers, in order. -/
def State.checkHeaders (s : State) (g : Group) : List W64 → State × Option Res
  | [] => (s, none)
  | a :: t =>
    match s.checkHeader g a with
    | (s, none) => s.checkHeaders g t
    | r => r

/-- The lanes that go on to the header that follows the clause, when its last instruction is a transfer or
not (R37). `jmp` and `trap`, `sys` act for the whole set; the others leave the lanes that do not execute; an `eret` without a frame
leads on (log entry 17). -/
def Ctx.fallLanes (c : Ctx) : Mask :=
  let set := c.cl.lanes &&& ~~~c.g.flow.exited
  if c.maj = 0x10 && c.min = 1 then (if c.anyLane then 0 else set)
  else if (c.maj = 0x10 && (c.min = 0 || c.min = 2 || c.min = 3 || c.min = 4 || c.min = 6)) || (c.maj = 0x0C && c.min = 11)
    then set &&& ~~~c.act
  else if c.maj = 0x22 && c.min = 2 then (if c.anyLane && c.g.frame.isSome then 0 else set)
  else set

/-- Address of the word after the instruction. -/
def Ctx.after (c : Ctx) : W64 := c.cl.next + w64 (4 * c.words)

/-- Step 6 of R43, the fall-through header: checked by the last instruction of the clause (R37). In a `seq` body
that runs again nothing leads on. At the end of a loop body it is this header too that is checked, also where every lane
goes back to the loop's start, whose header was checked when the lanes first came to it (DEDUCED, log entry 37). -/
def State.fallCheck (s : State) (c : Ctx) : State × Option Res :=
  let last := c.cl.pos + 1 = c.cl.cnt
    && (match c.cl.seq with | some q => q.passes ≤ q.pass + 1 | none => true)
  if last && c.fallLanes != 0 then s.checkHeader c.g c.after else (s, none)

/-- The signed word offset of `br`, `jmp`, `call` (R26). -/
def Ctx.offset (c : Ctx) : W64 := match c.o.lit with | some l => l | none => sextN 18 c.imm18

/-- The address it names, exact (R18): a sum outside the 64 bits of an address is in no CODEHI (R137), as the address of
all ones is in none. -/
def Ctx.target (c : Ctx) : W64 :=
  let z : Int := (c.cl.next.toNat : Int) + 4 * c.offset.toInt
  if 0 ≤ z && z < 2 ^ 64 then w64 z.toNat &&& ~~~3#64 else BitVec.allOnes 64

/-- Targets of the lanes that `movlpc` sends (R144). -/
def Ctx.laneTargets (c : Ctx) : List (Nat × W64) := c.lanes.map fun i => (i, c.g.pcOf (c.opA i &&& ~~~3#32))

/-- An `eret` of the group would resume at a written TRAPPC, for some lane (R362). -/
def Group.resumesAt (g : Group) : Option W64 :=
  match g.frame with
  | some f => if f.pcWritten && (f.trap.lanes &&& ~~~g.flow.exited) != 0 then some g.csrs.trappc else none
  | none => none

/-- Start of the body of the region to which the group's `rlxpass` leads back (R236). -/
def State.bodyStart (s : State) (g : Group) : Option W64 :=
  match s.inRegion g, s.regionOf g with
  | .body, some r => (r.starts.find? fun p => p.grp == g.id).map fun p => p.body
  | _, _ => none

/-- The addresses to which an instruction may lead beside the fall-through: targets of a control transfer (R37), body start
of `rlxpass`. Those of `movlpc` are lane data, on which steps 1 to 8 of R43 never depend: it checks them itself (log entry 55). -/
def Ctx.leadsTo (c : Ctx) (s : State) : List W64 :=
  if c.maj = 0x1C && c.min = 1 then (s.bodyStart c.g).toList
  else if !c.anyLane then []
  else if c.maj = 0x10 then
    match c.min with
    | 0 => [c.target]
    | 1 => [c.target]
    | 2 => [c.target]
    | 3 => [c.sA]
    | 4 => (c.g.flow.links.head?.map fun e => e.ret).toList
    | _ => []
  else if c.maj = 0x22 && c.min = 2 then c.g.resumesAt.toList
  else []

/-- Step 6 of R43, the header of each distinct target (R37); a target in another CODEHI is none that the group could run
next, and is refused at step 10 (R137; DEDUCED, log entry 38). -/
def State.targetCheck (s : State) (c : Ctx) : State × Option Res :=
  s.checkHeaders c.g ((c.leadsTo s).filter fun a => c.g.sameHi a)

/-- Step 6 of R43: every header to which the instruction leads, the one that follows first, then the targets in lane order (R37 gives
no order; DESIGN CHOICE, log entry 55). -/
def State.headerChecks (s : State) (c : Ctx) : State × Option Res :=
  match s.fallCheck c with
  | (s, none) => s.targetCheck c
  | r => r

/-- Headers that the body of an instruction checks (R37), then the rest in the state that the fetches leave. -/
def Ctx.afterHeaders (c : Ctx) (r : State × Option Res) (rest : State → Res) : Res :=
  match r with
  | (s, none) => rest s
  | (s, some (.trap k i)) => .stay (s.raise c.g.id (c.trapAt k i))
  | (_, some r) => r

/-! ## Stalls -/

/-- R365: the instructions that do not pass one that waits on a kernel fault: stores, atomics, copies, `fence`, `pst`,
`cstore`, BA, and the acquire and release forms (R265, R280, R313, R244, R392). -/
def heldBehind (maj min : Nat) : Bool :=
  maj == 0x13 || maj == 0x14 || maj == 0x15 || (maj == 0x16 && min == 0) || (maj == 0x17 && 7 ≤ min)
    || (maj == 0x18 && (min < 3 || min == 5)) || (maj == 0x12 && 9 ≤ min) || (maj == 0x1A && (min == 1 || min == 9))
    || maj == 0x19 || (maj == 0x1C && min == 2) || (maj == 0x1D && (min == 2 || min == 3))
    || (maj == 0x1E && (min == 2 || min == 3)) || maj == 0x1F || (maj == 0x20 && (min == 0 || min == 1 || min == 4))

/-- An access still to be translated. -/
def LogEntry.untranslated (e : LogEntry) : Bool := e.accs.any fun a => a.place == .todo

/-- The entries of the group that hold later instructions (R365): waiting ones, and ones whose record found no room
(R368); at trap level only those issued there. -/
def State.waitersOf (s : State) (g : Group) : List LogEntry :=
  s.log.filter fun e => e.grp == g.id
    && (match e.state with | .waiting _ => true | .running => e.untranslated | _ => false)
    && (!g.flow.tl || e.tlevel)

/-- The entry stands from before the trap whose handler its group runs: it completes only after the `eret` (R164), one that a resume has
reached too. A group with no lane left comes to none. -/
def State.atReturn (s : State) (e : LogEntry) : Bool :=
  !e.tlevel && (s.group? e.grp).any fun g => g.flow.tl && g.running != 0

/-- Stalls that come before the family's own checks (R38, R39, R364, R365). -/
def State.stallOf (s : State) (c : Ctx) : Option Stall :=
  let vl := isVl c.f c.o
  let flag := if c.o.fs then c.cl.setb else c.cl.seta
  if heldBehind c.maj c.min && !(s.waitersOf c.g).isEmpty then some .behind
  else if s.destBusy c.g c.dests then some .dest
  else if vl && c.g.cf.getD flag 0 == 63 then some .flagFull
  else if vl && 256 ≤ (s.log.filter fun e => e.tile == s.logOf c.g).length then some .logFull
  else none

/-- Entries of the group for which QUOTA was delivered and not yet taken. -/
def State.quotaEntries (s : State) (g : Group) : List LogEntry :=
  s.log.filter fun e => e.grp == g.id && e.state == .quota

/-- An access of FLAGS, which waits for every variable-latency instruction (R164). -/
def Ctx.accessesFlags (c : Ctx) : Bool :=
  c.maj == 0x0C && ((c.min == 9 && csrNumA c.o == 1) || (c.min == 10 && csrNumD c.o == 1))

/-- QUOTA delivered for an instruction behind which this one would be held: it is taken in front of this one (R365,
R366). `held`: whether this one would be held. -/
def Ctx.quotaDue (c : Ctx) (held : Bool) : Option PendTrap :=
  if held && !c.g.flow.tl then
    (c.g.due.find? fun t => t.cause == .quota && t.replay.isSome).map fun t =>
      { t with pos := c.cl.pos, seta := c.cl.seta, setb := c.cl.setb, lanes := c.cl.lanes, clause := some c.cl,
               held := true, boundary := false }
  else none

/-- The instruction would be held behind one for which QUOTA was delivered: by its family, by a destination, or as an
access of FLAGS. -/
def State.quotaHeld (s : State) (c : Ctx) : Option PendTrap :=
  let q := s.quotaEntries c.g
  c.quotaDue (!q.isEmpty && (heldBehind c.maj c.min || c.accessesFlags
    || q.any fun e => e.dests.any fun d => c.dests.contains d))

/-- The body's attempt is held by an instruction for which QUOTA was delivered, and by nothing else: it is taken in front of this one
(R365, R366). -/
def State.quotaHolds (s : State) (c : Ctx) (body : Ctx → State → Res) : Option PendTrap :=
  let q := s.quotaEntries c.g
  if q.isEmpty then none
  else
    let rest : State := { s with log := s.log.filter fun e => !s.heldByQuota e }
    c.quotaDue (match body c rest with | .stall _ => false | _ => true)

/-- QUOTA is taken in front of the instruction. -/
def State.takeQuota (s : State) (c : Ctx) (t : PendTrap) : State :=
  (s.onGroup c.g.id fun h => { h with due := h.due.filter fun u => u.replay != t.replay }).raise c.g.id t

/-- What comes before the family's own checks: R43 steps 3 to 8, R129, a QUOTA to be taken, stalls. -/
def State.preIssue (s : State) (c : Ctx) : State × Option Res :=
  match decodeChecks (s.matrixOf c.g) c with
  | some p => (s, some (.ofPair p))
  | none =>
    match s.headerChecks c with
    | (s, some r) => (s, some r)
    | (s, none) =>
      match (privilegeChecks c).orElse fun _ => (placeChecks s c).orElse fun _ => residencyChecks c with
      | some p => (s, some (.ofPair p))
      | none =>
        match s.quotaHeld c with
        | some t => (s, some (.stay (s.takeQuota c t)))
        | none =>
          match s.stallOf c with
          | some w => (s, some (.stall w))
          | none => (s, none)

/-- The context may attempt its instruction. -/
def State.mayIssue (s : State) (g : Group) : Bool :=
  g.hold == .none && g.frozen.isNone && g.owed.isNone && g.pend.isNone && !g.retired
    && (match g.stall with | some (.token n) => (s.token? n).isNone | _ => true)

/-- The executing lanes (R18, R30): of the lane set, not exited, not idle in a region, passing the predicate,
which `sel` uses otherwise. -/
def State.activeOf (s : State) (g : Group) (cl : Clause) (o : Ops) (isSel : Bool) : Mask :=
  let base := cl.lanes &&& ~~~g.flow.exited &&& s.notIdle g
  if isSel then base else base &&& predLanes g (opsExt o)

/-- A field of a `seq` body with the passes' increments added. -/
def seqField (on : Bool) (inc : Nat) (v : BitVec 6) : BitVec 6 := if on then v + BitVec.ofNat 6 inc else v

/-- The control byte of body instruction `j` of a `seq`: LIT, INC and the mask over D, A, B, C (R223). -/
def seqByte (ctl : W64) (j : Nat) : Nat := fld ctl (8 * j + 7) (8 * j)

/-- The fields of an instruction as the pass of `seq` in progress issues it (R224). -/
def seqOps (cl : Clause) (o : Ops) : Ops :=
  match cl.seq with
  | none => o
  | some q =>
    let ctl := seqByte q.ctl (cl.pos - q.bodyPos)
    let inc := q.pass * (ctl / 16 % 8)
    { o with
        d := seqField (ctl.testBit 0) inc o.d
        a := seqField (ctl.testBit 1) inc o.a
        b := seqField (ctl.testBit 2) inc o.b
        ext := if ctl.testBit 3 && inc != 0 then some { opsExt o with c := (opsExt o).c + BitVec.ofNat 6 inc } else o.ext
        lit := if ctl.testBit 7 then o.lit.map (fun l => l + w64 q.pass * q.stride) else o.lit }

/-- The attempt's context. -/
def State.ctx (s : State) (maj min : Nat) (o : Ops) (g : Group) (cl : Clause) : Ctx :=
  let p := seqOps cl o
  { maj := maj, min := min, f := Form.of maj min, o := p, g := g, cl := cl,
    act := s.activeOf g cl p ((maj == 1 || maj == 2) && min == 26), words := o.words }

/-- The group with the tags that its incomplete instructions are still to set (R39, R134); `none` where there is no such
instruction. -/
def State.racedTags (s : State) (g : Group) : Option Group :=
  match s.log.filter fun e => e.grp == g.id && e.dests.any fun d => g.slot d != {} with
  | [] => none
  | l => some (l.foldl (fun g e => e.dests.foldl (fun g d => g.setTag d e.tag) g) g)

/-- The body's attempt. A read that races an incomplete instruction sees the register's old tag; where that alone would
trap, it sees the new one, for the race raises no trap (R39: old or new; DESIGN CHOICE, log entry 39). -/
def Ctx.attempt (c : Ctx) (s : State) (body : Ctx → State → Res) : Res :=
  match body c s with
  | .trap .fmtx info =>
    match s.racedTags c.g with
    | some g => (match body { c with g := g } s with | .trap .fmtx _ => .trap .fmtx info | r => r)
    | none => .trap .fmtx info
  | r => r

/-- ISSUING AN INSTRUCTION: the shared checks, then the family's body; where the context may not issue, or no
clause is open, nothing happens. -/
def issue (maj min : Nat) (o : Ops) (body : Ctx → State → Res) (s : State) : Host.Outcome State Fault Refusal :=
  match s.group? s.cur with
  | none => .next s
  | some g =>
    match g.clause with
    | none => .next s
    | some cl =>
      if !s.mayIssue g then .next s
      else
        let c := s.ctx maj min o g cl
        match s.preIssue c with
        | (t, some r) => c.settle t r
        | (t, none) =>
          match c.attempt t body with
          | .stall w => (match t.quotaHolds c body with | some q => .next (t.takeQuota c q) | none => c.settle t (.stall w))
          | r => c.settle t r

/-! ## The clause boundary (R36 step 1 and 2, R138) -/

/-- FramePop (R139). -/
def Group.framePop (g : Group) : Group :=
  match g.flow.links with
  | [] => g
  | e :: t =>
    { g with flow := { g.flow with
        links := t
        wb := g.flow.wb - e.step
        loops := g.flow.loops.filter fun l => l.fl ≤ t.length } }

/-- Live lanes (R138). -/
def Group.live (g : Group) : List Nat :=
  (List.range g.width).filter fun i => !g.flow.exited.getLsbD i && g.flow.fl.getD i 0 == g.ldepth

/-- Lines 2 to 4 of R138; `fuel` bounds the frames. -/
def Group.popFrames : Nat → Group → Group
  | 0, g => g
  | fuel + 1, g =>
    if g.live.isEmpty && (lanesOf g.width g.running).length != 0 && !g.flow.links.isEmpty then
      Group.popFrames fuel g.framePop
    else g

/-- LoopRangePop (R141); none at trap level. -/
def loopRangePop (g : Group) (issue : W64) : List LoopEntry → List LoopEntry
  | [] => []
  | e :: t =>
    if e.fl = g.ldepth && !(e.start.toNat ≤ issue.toNat && issue.toNat ≤ e.endh.toNat) then loopRangePop g issue t
    else e :: t

/-- The least PC of a list of lanes, unsigned. -/
def minPc (g : Group) : List Nat → Option W32
  | [] => none
  | i :: t =>
    let p := g.flow.lpc.getD i 0
    match minPc g t with
    | none => some p
    | some q => some (if q.ult p then q else p)

/-- R138 lines 1 to 8: the group with its frames and loops popped, the issue address, the lane set. `none`:
no lane is left. -/
def Group.boundary (g : Group) : Group × Option (W64 × Mask) :=
  let g := Group.popFrames 17 g
  match minPc g g.live with
  | none => (g, none)
  | some pc =>
    let addr := g.pcOf pc
    let set := maskOf (g.live.filter fun i => g.flow.lpc.getD i 0 == pc)
    let loops := if g.flow.tl then g.flow.loops else loopRangePop g addr g.flow.loops
    ({ g with flow := { g.flow with loops := loops } }, some (addr, set))

/-- A stop is requested of the group's gang (R331, R372). -/
def State.stopRequested (s : State) (g : Group) : Bool :=
  match s.gangOf g with
  | some k => match k.state with | .stopping _ => true | _ => false
  | none => false

/-- A stop falls at this boundary: not inside a pass of an open region, which has its own boundary (R248). -/
def State.stopsHere (s : State) (g : Group) : Bool :=
  s.stopRequested g && !((s.regionOf g).any fun r => r.state == .open)

/-- Tiles whose paths may hold stores of the group: its own, and the other of a pair, where the kiln may have entered
its committed stores (R244). -/
def State.pathTiles (s : State) (g : Group) : List Nat :=
  match s.teamOf g with
  | some t => s.teamTiles t
  | none => []

/-- What stands in the paths of a group's tiles counts as seen by it. -/
def State.seePaths (s : State) (g : Group) : State :=
  (s.pathTiles g).foldl (fun s t => s.setTile t ((s.tile t).seeAll g.id)) s

/-- A GROUP STOPS at its boundary (R331): every store that stands in its store path now is to be performed before it issues again
(R279). -/
def State.stopGroup (s : State) (g : Group) : State :=
  (s.seePaths g).onGroup g.id fun h => { h with hold := .stopped, stall := none }

/-- DEADLINE is armed and its TIME is reached; it is taken at user level only, so never by a stoker core (R352, R42). -/
def State.deadlineDue (s : State) (g : Group) : Bool :=
  g.core.isNone && bit g.csrs.deadline 63 && fld g.csrs.deadline 62 0 ≤ s.time

/-- The trap that is due at a clause boundary at user level: one delivered earlier (R64, R206, R366), else DEADLINE
(R352). -/
def State.boundaryDue (s : State) (g : Group) : Option PendTrap :=
  if g.flow.tl then none
  else match g.due with
    | t :: _ => some t
    | [] =>
      if s.deadlineDue g then
        some { cause := .deadline, info := w64 (fld g.csrs.deadline 62 0), pc := 0, boundary := true }
      else none

/-- ARMED is cleared when DEADLINE is taken (R352). -/
def Group.disarm (g : Group) (t : PendTrap) : Group :=
  if t.cause == .deadline then
    { g with csrs := { g.csrs with deadline := g.csrs.deadline &&& w64 (2 ^ 63 - 1) } }
  else g

/-- A flag of a WAIT mask is up (R36); at trap level only instructions that the handler issued hold it up (R365). -/
def State.flagUp (s : State) (g : Group) (wait : BitVec 12) : Bool :=
  if g.flow.tl then s.log.any fun e => e.grp == g.id && e.tlevel && wait.getLsbD e.flag
  else (List.range 12).any fun k => wait.getLsbD k && g.cf.getD k 0 != 0

/-- A trap raised at a clause boundary in front of a header (R37). -/
def boundaryTrap (addr : W64) (lanes : Mask) (p : Cause × W64) : PendTrap :=
  { cause := p.1, info := p.2, pc := addr, lanes := lanes, boundary := true }

/-- THE CLAUSE BOUNDARY with the header word's fields (R36, R138): a stop, a trap that is due, the wait for the
flags, or the clause opens. -/
def openClause (h : Header) (s : State) : Host.Outcome State Fault Refusal :=
  match s.group? s.cur with
  | none => .next s
  | some g =>
    if !s.mayIssue g then .next s
    else
      match g.clause with
      | some cl =>
        let c := s.ctx 0x3F 0 { fs := false, b := 0, a := 0, d := 0, ext := none, lit := none } g cl
        .next (s.raise g.id (c.trapAt .illop 0x05))
      | none =>
        let (g', spot) := g.boundary
        let s := s.setGroup g'
        match spot with
        | none => .next s
        | some (addr, set) =>
          if s.stopsHere g' then .next (s.stopGroup g')
          else
            match s.boundaryDue g' with
            | some t =>
              let t := if t.replay.isSome || t.cause == .swtrap then t else { t with pc := addr, lanes := set }
              .next ((s.onGroup g.id fun k => { k.disarm t with due := k.due.drop 1 }).raise g.id t)
            | none =>
              match headerBad (encodeHeader h) with
              | some r => .next (s.raise g.id (boundaryTrap addr set (illop r)))
              | none =>
                if s.flagUp g' h.wait then
                  .next (s.onGroup g.id fun k => { k with stall := some (.flags h.wait) })
                else
                  .next (s.onGroup g.id fun k => { k with
                    stall := none
                    clause := some { header := addr, next := addr + 4, cnt := h.cnt.toNat + 1, seta := h.seta.toNat,
                                     setb := h.setb.toNat, lanes := set } })

/-! ## Returning from a trap (R362) -/

/-- The state of a group after `eret`, replays apart: program counters and frame levels restored, TL cleared,
then lines 2 to 15 of R362. -/
def Group.leaveHandler (g : Group) (f : Frame) : Group :=
  let flow := { g.flow with tl := false, lpc := f.lpc, fl := f.fl }
  let g := { g with frame := none, clause := none, stall := none, hold := .none }
  if f.pcWritten then
    let pc := lpcOf g.csrs.trappc
    let lpc := (List.range g.width).map fun i =>
      if f.trap.lanes.getLsbD i && !flow.exited.getLsbD i then pc else flow.lpc.getD i 0
    { g with flow := { flow with lpc := lpc } }
  else if f.trap.boundary || (f.trap.replay.isSome && !f.trap.held) then { g with flow := flow }
  else { g with flow := flow, clause := f.trap.clause }

/-! ## Small updates that meanings share -/

/-- Change the issuing context. -/
def Ctx.upd (c : Ctx) (s : State) (f : Group → Group) : State := s.onGroup c.g.id f

/-- Set sticky bits of FLAGS (R163). -/
def Group.orFlags (g : Group) (v : W64) : Group := { g with csrs := { g.csrs with flags := g.csrs.flags ||| v } }

/-- Write the scalar D. -/
def Ctx.putS (c : Ctx) (s : State) (v : W64) : State := c.upd s fun g => g.setSval (c.g.sref c.fd) v

/-- Write the executing lanes of window register D + k, and its tag. -/
def Ctx.putV (c : Ctx) (s : State) (k : Nat) (v : Nat → W32) (tag : BitVec 4) : State :=
  c.upd s fun g => g.writeLanes (c.dRef k) c.act v tag

/-- Write the executing lanes of predicate number `p`. -/
def Ctx.putP (c : Ctx) (s : State) (p : Nat) (v : Mask) : State := c.upd s fun g => g.setPval (c.g.pref p) c.act v

/-- Acts once (R79): nothing where no lane executes. -/
def Ctx.once (c : Ctx) (s : State) (r : Res) : Res := if c.anyLane then r else .ok s

/-- Checks of step 10 of R43 in order, then an effect; where no lane executes none of them traps (R30, R43; DEDUCED, log
entry 14). -/
def Ctx.guarded (c : Ctx) (l : List (Bool × (Cause × W64))) (r : Res) : Res :=
  if !c.anyLane then r else
  match firstFail l with
  | some p => .ofPair p
  | none => r

/-- Checks of step 8 of R43 in order, whichever lanes execute, then the rest. -/
def present (l : List (Bool × (Cause × W64))) (r : Res) : Res :=
  match firstFail l with
  | some p => .ofPair p
  | none => r

/-- Tags first (R43 step 9), then the rest; where no lane executes none raises FMTX (R30, R43; DEDUCED, log entry 14). -/
def tagged (c : Ctx) (l : List TagCheck) (r : Res) : Res :=
  if !c.anyLane then r else
  match tagFail l with
  | some p => .ofPair p
  | none => r

/-- RLXOP (R360): the instruction is refused in a body, in the settled state. -/
def rlxop (c : Ctx) (settled : Bool) : Cause × W64 :=
  (.rlxop, w64 (c.maj + c.min * 64 + (if settled then 2048 else 0)))

/-- The instructions that R233 refuses in a body. -/
def refusedInBody (maj min : Nat) : Bool :=
  maj == 0x14 || maj == 0x15 || (maj == 0x16 && (min == 2 || min == 3)) || (maj == 0x17 && 12 ≤ min)
    || (0x18 ≤ maj && maj ≤ 0x1B) || (maj == 0x0C && min == 6) || (maj == 0x1C && (min == 0 || min == 2))
    || (0x1D ≤ maj && maj ≤ 0x20)

/-- The instructions that R242 refuses in the settled state. -/
def refusedSettled (maj min : Nat) : Bool :=
  !(maj ≤ 0x0B || (maj == 0x0C && min != 6 && min != 11) || maj == 0x0D || (maj == 0x1C && 2 ≤ min && min ≤ 4))

/-- RLXOP of an instruction in its region (R233, R242). -/
def State.rlxRefuses (s : State) (c : Ctx) : Option (Cause × W64) :=
  match s.inRegion c.g with
  | .body => if refusedInBody c.maj c.min then some (rlxop c false) else none
  | .settled => if refusedSettled c.maj c.min then some (rlxop c true) else none
  | .none => none

/-- The check of R233 and R242 in front of the rest, whether a lane executes or not (R224, R252). -/
def State.rlxAlways (s : State) (c : Ctx) (r : Res) : Res :=
  match s.rlxRefuses c with
  | some p => .ofPair p
  | none => r

/-- The check of R233 and R242 in front of the rest; it traps only where a lane executes (R30, R43). -/
def rlxGate (c : Ctx) (s : State) (r : Res) : Res :=
  if !c.anyLane then r else
  match s.rlxRefuses c with
  | some p => .ofPair p
  | none => r

/-- The checks of a whole-group instruction, FMTX, RLXOP, then its own (R222, R252), whether a lane executes or not, for it acts for
its whole group (R218, R241; DEDUCED, log entry 14). -/
def wholeChecked (c : Ctx) (s : State) (tags : List TagCheck) (rest : List (Bool × (Cause × W64))) (r : Res) : Res :=
  match tagFail tags with
  | some p => .ofPair p
  | none => s.rlxAlways c (present rest r)

/-- The checks of a family in their common order: FMTX, RLXOP, then its own, then its effect (DEDUCED, log entry 13). -/
def checked (c : Ctx) (s : State) (tags : List TagCheck) (rest : List (Bool × (Cause × W64))) (r : Res) : Res :=
  tagged c tags (rlxGate c s (c.guarded rest r))

end Sys2Proof.Machine
end

