-- ==== Sys2Proof/Machine/Flags.lean ====
section
/-! DEFINITION. FLAGS and MODE (07 R162 to R164): the sticky flags, the rounding modes, and what the integer
operations set. -/
namespace Sys2Proof.Machine

/-! ## FLAGS (R163) -/

def flNV : W64 := 0x001
def flDZ : W64 := 0x002
def flOF : W64 := 0x004
def flUF : W64 := 0x008
def flNX : W64 := 0x010
def flSAT : W64 := 0x020
def flLOSS : W64 := 0x040
def flAOVF : W64 := 0x080
def flASHX : W64 := 0x100
def flNSAT : W64 := 0x200

/-- A flag where a condition holds. -/
def flagIf (b : Bool) (f : W64) : W64 := if b then f else 0

/-- The flags of the lanes of a list. -/
def orOver (l : List Nat) (f : Nat → W64) : W64 := l.foldl (fun m i => m ||| f i) 0

/-! ## MODE (R162) -/

/-- Rounding modes. -/
inductive Rm where
  | rne | rtz | rdn | rup | rna
deriving DecidableEq, Repr

/-- Mode of a code of RM. -/
def Rm.ofCode : Nat → Rm
  | 1 => .rtz
  | 2 => .rdn
  | 3 => .rup
  | 4 => .rna
  | _ => .rne

/-- RM of a MODE word. -/
def modeRm (m : W64) : Rm := Rm.ofCode (fld m 2 0)

/-- SUBN: flush subnormal results. -/
def modeFlushOut (m : W64) : Bool := bit m 3

/-- SUBN: read subnormal inputs as zero. -/
def modeFlushIn (m : W64) : Bool := bit m 4

/-- NSAT, ACCR, NANMAX, NFSUB. -/
def modeNsat (m : W64) : Bool := bit m 5
def modeAccr (m : W64) : Nat := fld m 7 6
def modeNanmax (m : W64) : Bool := bit m 8
def modeNfsub (m : W64) : Bool := bit m 9

/-- MODE in force at issue (R164). -/
def Ctx.mode (c : Ctx) : W64 := c.g.csrs.mode

/-- The rounding mode of the instruction: its XMOD override, else MODE.RM (R33, R162). -/
def Ctx.rm (c : Ctx) : Rm := if c.xm = 0 then modeRm c.mode else Rm.ofCode (c.xm - 1)

/-! ## Saturation (R19) -/

/-- `SatS` to `n` bits, with SAT when it clamps. -/
def satFlag (n : Nat) (x : Int) : BitVec n × W64 := (BitVec.ofInt n (satS x n), flagIf (satS x n != x) flSAT)

/-! ## Results with flags -/

/-- Write D lane by lane with a tag, and set the flags of the executing lanes (R134, R163). -/
def Ctx.putVF (c : Ctx) (s : State) (f : Nat → W32 × W64) (tag : BitVec 4) : State :=
  (c.upd (c.putV s 0 (fun i => (f i).1) tag) fun g => g.orFlags (orOver c.lanes fun i => (f i).2))

/-- Write the scalar D and set flags. -/
def Ctx.putSF (c : Ctx) (s : State) (r : W64 × W64) : State := c.upd (c.putS s r.1) fun g => g.orFlags r.2

/-- A vector operation: its tag checks, then its lanes. -/
def vecOp (tags : Ctx → List TagCheck) (tag : Ctx → BitVec 4) (f : Ctx → Nat → W32 × W64) (c : Ctx) (s : State) : Res :=
  tagged c (tags c) (.ok (c.putVF s (f c) (tag c)))

/-- A scalar operation, which acts once (R79). -/
def scalOp (f : Ctx → W64 × W64) (c : Ctx) (s : State) : Res := c.once s (.ok (c.putSF s (f c)))

end Sys2Proof.Machine
end

