-- ==== Sys2Proof/Machine/Float.lean ====
section
/-! DEFINITION. Binary floating point (07 R155 to R157, R166, R167): the three formats, exact values, `Round`,
`FToInt`, and the correctly rounded functions of 08 R188. A magnitude that is not exact is given as a number of
units and a mark that the true value lies strictly above it and below the next unit. -/
namespace Sys2Proof.Machine

/-- A binary format: exponent and fraction bits (R155). -/
structure FFmt where
  eb : Nat
  fb : Nat
deriving DecidableEq, Repr

def fmtF32 : FFmt := { eb := 8, fb := 23 }
def fmtF16 : FFmt := { eb := 5, fb := 10 }
def fmtBF16 : FFmt := { eb := 8, fb := 7 }

/-- Bias. -/
def FFmt.bias (f : FFmt) : Int := 2 ^ (f.eb - 1) - 1

/-- Exponent of the unit of the subnormals. -/
def FFmt.qmin (f : FFmt) : Int := 1 - f.bias - f.fb

/-- Width of a code. -/
def FFmt.width (f : FFmt) : Nat := 1 + f.eb + f.fb

/-- The sign bit in place. -/
def FFmt.sign (f : FFmt) (neg : Bool) : Nat := if neg then 2 ^ (f.eb + f.fb) else 0

/-- Code of infinity, of the largest finite magnitude, canonical NaN. -/
def FFmt.infCode (f : FFmt) : Nat := (2 ^ f.eb - 1) * 2 ^ f.fb
def FFmt.maxCode (f : FFmt) : Nat := f.infCode - 1
def FFmt.nanCode (f : FFmt) : Nat := f.infCode + 2 ^ (f.fb - 1)

/-- What a code stands for; a finite value is `m × 2^e` with a sign. -/
inductive FVal where
  | nan
  | inf (neg : Bool)
  | fin (neg : Bool) (m : Nat) (e : Int)
deriving DecidableEq, Repr

/-- Meaning of a code (R155). -/
def FFmt.decode (f : FFmt) (code : Nat) : FVal :=
  let neg := bits code (f.eb + f.fb) (f.eb + f.fb) = 1
  let ef := bits code (f.eb + f.fb - 1) f.fb
  let mf := code % 2 ^ f.fb
  if ef = 2 ^ f.eb - 1 then (if mf = 0 then .inf neg else .nan)
  else if ef = 0 then .fin neg mf f.qmin
  else .fin neg (2 ^ f.fb + mf) (f.qmin + (ef - 1))

/-- `InF` (R166): the value of a code, a subnormal read as zero under SUBN 2 and 3. -/
def FFmt.inF (f : FFmt) (mode : W64) (code : Nat) : FVal :=
  match f.decode code with
  | .fin neg m e => if modeFlushIn mode && m < 2 ^ f.fb then .fin neg 0 e else .fin neg m e
  | v => v

/-- The value is a NaN, an infinity, zero. -/
def FVal.isNan : FVal → Bool
  | .nan => true
  | _ => false
def FVal.isInf : FVal → Bool
  | .inf _ => true
  | _ => false
def FVal.isZero : FVal → Bool
  | .fin _ 0 _ => true
  | _ => false

/-- Sign; a NaN has none. -/
def FVal.neg : FVal → Bool
  | .nan => false
  | .inf n => n
  | .fin n _ _ => n

/-- The value with its sign inverted. -/
def FVal.flip : FVal → FVal
  | .nan => .nan
  | .inf n => .inf (!n)
  | .fin n m e => .fin (!n) m e

/-! ## Rounding (R166, R167) -/

/-- Is the magnitude rounded up: `rem` of `half + half`, `sticky`, `odd` of the kept part. -/
def roundUp (rm : Rm) (neg odd sticky : Bool) (rem half : Nat) : Bool :=
  match rm with
  | .rne => half < rem || (rem == half && (sticky || odd))
  | .rtz => false
  | .rdn => neg && (rem != 0 || sticky)
  | .rup => !neg && (rem != 0 || sticky)
  | .rna => half ≤ rem

/-- A magnitude in units of 2^q, and whether it is inexact. `sticky` needs q above e. -/
def roundAt (rm : Rm) (neg : Bool) (m : Nat) (e : Int) (sticky : Bool) (q : Int) : Nat × Bool :=
  if q ≤ e then (m * 2 ^ (e - q).toNat, sticky)
  else
    let n := (q - e).toNat
    let k := m / 2 ^ n
    let rem := m % 2 ^ n
    (if roundUp rm neg (k % 2 == 1) sticky rem (2 ^ (n - 1)) then k + 1 else k, rem != 0 || sticky)

/-- The magnitude `m × 2^e` lies below `k × 2^q`. -/
def magLt (m : Nat) (e : Int) (k : Nat) (q : Int) : Bool :=
  let lo := min e q
  m * 2 ^ (e - lo).toNat < k * 2 ^ (q - lo).toNat

/-- `Round` of a non-zero magnitude (R166): the code and the flags. -/
def FFmt.round (f : FFmt) (mode : W64) (rm : Rm) (neg : Bool) (m : Nat) (e : Int) (sticky : Bool) : Nat × W64 :=
  let top : Int := e + bitLen m - 1
  let u := roundAt rm neg m e sticky (top - f.fb)
  let tiny := magLt u.1 (top - f.fb) 1 (1 - f.bias)
  let q := max (top - f.fb) f.qmin
  let r := roundAt rm neg m e sticky q
  let code := (q - f.qmin).toNat * 2 ^ f.fb + r.1
  if f.infCode ≤ code then
    let toInf := match rm with
      | .rne => true
      | .rna => true
      | .rtz => false
      | .rdn => neg
      | .rup => !neg
    (f.sign neg + (if toInf then f.infCode else f.maxCode), flOF ||| flNX)
  else if modeFlushOut mode && code != 0 && code < 2 ^ f.fb then (f.sign neg, flUF ||| flNX)
  else (f.sign neg + code, flagIf (tiny && r.2) flUF ||| flagIf r.2 flNX)

/-- `Canon(Round(v))` of an exact value. -/
def FFmt.put (f : FFmt) (mode : W64) (rm : Rm) (v : FVal) : Nat × W64 :=
  match v with
  | .nan => (f.nanCode, 0)
  | .inf neg => (f.sign neg + f.infCode, 0)
  | .fin neg m e => if m = 0 then (f.sign neg, 0) else f.round mode rm neg m e false

/-- The integer nearest to a finite value (R167), and whether it differs. -/
def roundInt (rm : Rm) (neg : Bool) (m : Nat) (e : Int) : Int × Bool :=
  let r := roundAt rm neg m e false 0
  (if neg then -(r.1 : Int) else r.1, if 0 ≤ e then false else r.2)

/-- `FToInt` (R167): the integer and the flags. -/
def fToInt (v : FVal) (n : Nat) (signed : Bool) (rm : Rm) : Int × W64 :=
  let lo : Int := if signed then -(2 ^ (n - 1)) else 0
  let hi : Int := if signed then 2 ^ (n - 1) - 1 else 2 ^ n - 1
  match v with
  | .nan => (0, flNV)
  | .inf neg => (if neg then lo else hi, flNV)
  | .fin neg m e =>
    let r := roundInt rm neg m e
    if r.1 < lo then (lo, flNV) else if hi < r.1 then (hi, flNV) else (r.1, flagIf r.2 flNX)

/-! ## Exact sums and products (R157, R186) -/

/-- A signed number of units of 2^e as a value; zero takes the sign given. -/
def ofUnits (zneg : Bool) (x : Int) (e : Int) : FVal :=
  if x = 0 then .fin zneg 0 e else .fin (x < 0) x.natAbs e

/-- The signed number of units of 2^lo in a finite value. -/
def unitsAt (neg : Bool) (m : Nat) (e lo : Int) : Int :=
  let x : Int := m * 2 ^ (e - lo).toNat
  if neg then -x else x

/-- Sign of an exact zero sum (R157). -/
def zeroSign (rm : Rm) (a b : Bool) : Bool := if a = b then a else rm == .rdn

/-- x + y; `none` is the invalid case. -/
def fAddV (rm : Rm) (x y : FVal) : Option FVal :=
  match x, y with
  | .nan, _ => some .nan
  | _, .nan => some .nan
  | .inf a, .inf b => if a = b then some (.inf a) else none
  | .inf a, _ => some (.inf a)
  | _, .inf b => some (.inf b)
  | .fin a m e, .fin b k q =>
    let lo := min e q
    some (ofUnits (zeroSign rm a b) (unitsAt a m e lo + unitsAt b k q lo) lo)

/-- x × y; `none` is the invalid case. -/
def fMulV (x y : FVal) : Option FVal :=
  match x, y with
  | .nan, _ => some .nan
  | _, .nan => some .nan
  | .inf a, .inf b => some (.inf (Bool.xor a b))
  | .inf a, .fin b m _ => if m = 0 then none else some (.inf (Bool.xor a b))
  | .fin a m _, .inf b => if m = 0 then none else some (.inf (Bool.xor a b))
  | .fin a m e, .fin b k q => some (.fin (Bool.xor a b) (m * k) (e + q))

/-- The product with the addend; 0 × ∞ is invalid even with a NaN addend (R186). -/
def fMaV (rm : Rm) (negProd : Bool) (x y z : FVal) : Option FVal :=
  match fMulV x y with
  | none => none
  | some p => fAddV rm (if negProd then p.flip else p) z

/-- The result of an exact operation: NV and the canonical NaN where it is invalid. -/
def FFmt.result (f : FFmt) (mode : W64) (rm : Rm) (r : Option FVal) : Nat × W64 :=
  match r with
  | none => (f.nanCode, flNV)
  | some v => f.put mode rm v

/-! ## Selection and sign (R187) -/

/-- x < y with −0 below +0; neither is a NaN. -/
def fLtTotal (x y : FVal) : Bool :=
  match x, y with
  | .inf a, .inf b => a && !b
  | .inf a, _ => a
  | _, .inf b => !b
  | .fin a m e, .fin b k q =>
    let lo := min e q
    let u := unitsAt a m e lo
    let v := unitsAt b k q lo
    u < v || (u == 0 && v == 0 && a && !b)
  | _, _ => false

/-- x < y with −0 equal to +0; false with a NaN (R190). -/
def fLt (x y : FVal) : Bool := !(x.isNan || y.isNan) && !(x.isZero && y.isZero) && fLtTotal x y

/-- x = y with −0 equal to +0; false with a NaN (R190). -/
def fEq (x y : FVal) : Bool := !(x.isNan || y.isNan) && !fLt x y && !fLt y x

/-- The code of a value that the format holds (no rounding). -/
def FFmt.code (f : FFmt) (v : FVal) : Nat := (f.put 0 .rtz v).1

/-- Minimum or maximum (R187): `num` prefers numbers. -/
def fSelV (max num : Bool) (x y : FVal) : FVal :=
  if x.isNan || y.isNan then
    if !num || (x.isNan && y.isNan) then .nan else if x.isNan then y else x
  else if Bool.xor (fLtTotal y x) max then y else x

/-- `frnd`: integral under rm, sign kept (R187). -/
def fRndV (rm : Rm) (x : FVal) : FVal :=
  match x with
  | .fin neg m e => if 0 ≤ e then .fin neg m e else .fin neg (roundAt rm neg m e false 0).1 0
  | v => v

/-- `fclass` of a code (R189). -/
def FFmt.classOf (f : FFmt) (code : Nat) : Nat :=
  match f.decode code with
  | .nan => 2 ^ 8
  | .inf neg => if neg then 2 ^ 0 else 2 ^ 7
  | .fin neg m _ =>
    if m = 0 then (if neg then 2 ^ 3 else 2 ^ 4)
    else if m < 2 ^ f.fb then (if neg then 2 ^ 2 else 2 ^ 5)
    else (if neg then 2 ^ 1 else 2 ^ 6)

/-! ## Functions in F32 (R188) -/

/-- What a function of R188 gives: a value, an invalid case, a division by zero, or a magnitude that lies between
`m` and `m + 1` units of 2^e. -/
inductive FRaw where
  | exact (v : FVal)
  | invalid
  | divZero (neg : Bool)
  | near (neg : Bool) (m : Nat) (e : Int)
deriving DecidableEq, Repr

/-- The code and flags of a raw result. -/
def FFmt.ofRaw (f : FFmt) (mode : W64) (rm : Rm) (r : FRaw) : Nat × W64 :=
  match r with
  | .exact v => f.put mode rm v
  | .invalid => (f.nanCode, flNV)
  | .divZero neg => (f.sign neg + f.infCode, flDZ)
  | .near neg m e => f.round mode rm neg m e true

/-- A quotient of magnitudes. -/
def quotRaw (neg : Bool) (m : Nat) (e : Int) (k : Nat) (q : Int) : FRaw :=
  let n := m * 2 ^ 80
  if n % k = 0 then .exact (.fin neg (n / k) (e - q - 80)) else .near neg (n / k) (e - q - 80)

/-- x ÷ y (R188). -/
def fDivRaw (x y : FVal) : FRaw :=
  match x, y with
  | .nan, _ => .exact .nan
  | _, .nan => .exact .nan
  | .inf _, .inf _ => .invalid
  | .inf a, .fin b _ _ => .exact (.inf (Bool.xor a b))
  | .fin a _ _, .inf b => .exact (.fin (Bool.xor a b) 0 0)
  | .fin a m e, .fin b k q =>
    if k = 0 then (if m = 0 then .invalid else .divZero (Bool.xor a b))
    else if m = 0 then .exact (.fin (Bool.xor a b) 0 0)
    else quotRaw (Bool.xor a b) m e k q

/-- 1 ÷ x. -/
def fRcpRaw (x : FVal) : FRaw := fDivRaw (.fin false 1 0) x

/-- The largest `r` below 2^k with r × r ≤ n, with `acc` the bits found above. -/
def isqrtBits (n : Nat) : Nat → Nat → Nat
  | 0, acc => acc
  | k + 1, acc => isqrtBits n k (if (acc + 2 ^ k) * (acc + 2 ^ k) ≤ n then acc + 2 ^ k else acc)

/-- The integer square root. -/
def isqrt (n : Nat) : Nat := isqrtBits n (bitLen n / 2 + 1) 0

/-- The magnitude as an even power of two: `m × 2^e` with e even. -/
def evenExp (m : Nat) (e : Int) : Nat × Int := if e % 2 = 0 then (m, e) else (2 * m, e - 1)

/-- √x. -/
def fSqrtRaw (x : FVal) : FRaw :=
  match x with
  | .nan => .exact .nan
  | .inf neg => if neg then .invalid else .exact (.inf false)
  | .fin neg m e =>
    if m = 0 then .exact (.fin neg 0 0)
    else if neg then .invalid
    else
      let p := evenExp m e
      let n := p.1 * 2 ^ 80
      let r := isqrt n
      if r * r = n then .exact (.fin false r (p.2 / 2 - 40)) else .near false r (p.2 / 2 - 40)

/-- 1 ÷ √x. -/
def fRsqRaw (x : FVal) : FRaw :=
  match x with
  | .nan => .exact .nan
  | .inf neg => if neg then .invalid else .exact (.fin false 0 0)
  | .fin neg m e =>
    if m = 0 then .divZero neg
    else if neg then .invalid
    else
      let p := evenExp m e
      let r := isqrt (2 ^ 160 / p.1)
      if r * r * p.1 = 2 ^ 160 then .exact (.fin false r (-(p.2 / 2) - 80)) else .near false r (-(p.2 / 2) - 80)

/-! ### exp2, log2, tanh and the logistic function

Fixed point in units of 2^(−P): the series below are within 2^16 units of the exact value, and a result is handed
to `Round` in units of 2^(64 − P). The functions differ from every rounding boundary of F32 by far more
(PRESUMED, log entry 12). -/

/-- Units: P. -/
def fixP : Nat := 384

/-- One. -/
def fixOne : Nat := 2 ^ fixP

/-- atanh(n ÷ d) from its series: `z2` is the square of the argument, `t` the current power, `k` the odd number. -/
def atanhTerms (z2 : Nat) : Nat → Nat → Nat → Nat
  | 0, _, _ => 0
  | fuel + 1, t, k => if t = 0 then 0 else t / k + atanhTerms z2 fuel (t * z2 / fixOne) (k + 2)

/-- atanh of a fixed-point number of at most one third. -/
def atanhFix (z : Nat) : Nat := atanhTerms (z * z / fixOne) 200 z 1

/-- ln 2 = 2 atanh(1/3). -/
def ln2Fix : Nat := 2 * atanhFix (fixOne / 3)

/-- Terms of e^y: `t` the current term, `k` its number. -/
def expTerms (y : Nat) : Nat → Nat → Nat → Nat
  | 0, _, _ => 0
  | fuel + 1, t, k => if t = 0 then 0 else t + expTerms y fuel (t * y / (fixOne * (k + 1))) (k + 1)

/-- e^y of a fixed-point number below one. -/
def expFix (y : Nat) : Nat := expTerms y 120 fixOne 0

/-- A fixed-point magnitude scaled by 2^s as a raw result. -/
def fixRaw (neg : Bool) (v : Nat) (s : Int) : FRaw := .near neg (v / 2 ^ 64) (s + 64 - fixP)

/-- A magnitude far above, and far below, every finite one. -/
def hugeRaw (neg : Bool) : FRaw := .near neg (2 ^ 64) 4096
def tinyRaw (neg : Bool) : FRaw := .near neg (2 ^ 64) (-4096)

/-- Fixed-point magnitude of `m × 2^e` for e ≥ −P. -/
def toFix (m : Nat) (e : Int) : Nat := if 0 ≤ e + fixP then m * 2 ^ (e + fixP).toNat else m / 2 ^ (-(e + fixP)).toNat

/-- 2^x. -/
def fExp2Raw (x : FVal) : FRaw :=
  match x with
  | .nan => .exact .nan
  | .inf neg => if neg then .exact (.fin false 0 0) else .exact (.inf false)
  | .fin neg m e =>
    if m = 0 then .exact (.fin false 1 0)
    else if !magLt m e 1024 0 then (if neg then tinyRaw false else hugeRaw false)
    else
      let v : Int := if neg then -(toFix m e : Int) else toFix m e
      let n := v / fixOne
      let fr := (v % fixOne).toNat
      if fr = 0 then .exact (.fin false 1 n)
      else fixRaw false (expFix (fr * ln2Fix / fixOne)) n

/-- log2 x. -/
def fLog2Raw (x : FVal) : FRaw :=
  match x with
  | .nan => .exact .nan
  | .inf neg => if neg then .invalid else .exact (.inf false)
  | .fin neg m e =>
    if m = 0 then .divZero true
    else if neg then .invalid
    else
      let l := bitLen m - 1
      let n := e + l
      if m = 2 ^ l then .exact (ofUnits false n 0)
      else
        -- f = m / 2^l in (1, 2): log2 f = 2 atanh((f − 1)/(f + 1)) / ln 2
        let z := (m - 2 ^ l) * fixOne / (m + 2 ^ l)
        let v : Int := n * fixOne + (2 * atanhFix z * fixOne / ln2Fix : Nat)
        fixRaw (v < 0) v.natAbs 0

/-- e^(−t) for a magnitude t = `m × 2^e` below 2^10: a fixed-point number in (1/2, 1] and an exponent. -/
def expNeg (m : Nat) (e : Int) : Nat × Int :=
  let t := toFix m e
  let k := t / ln2Fix
  (fixOne * fixOne / expFix (t % ln2Fix), -k)

/-- A fixed-point number scaled by 2^k, k ≤ 0. -/
def fixScale (v : Nat) (k : Int) : Nat := v / 2 ^ (-k).toNat

/-- tanh x. -/
def fTanhRaw (x : FVal) : FRaw :=
  match x with
  | .nan => .exact .nan
  | .inf neg => .exact (.fin neg 1 0)
  | .fin neg m e =>
    if m = 0 then .exact (.fin neg 0 0)
    else if magLt m e 1 (-40) then .near neg (m * 2 ^ 64 - 1) (e - 64)
    else if !magLt m e 64 0 then .near neg (2 ^ 64 - 1) (-64)
    else
      let p := expNeg m (e + 1)
      let q := fixScale p.1 p.2
      fixRaw neg ((fixOne - q) * fixOne / (fixOne + q)) 0

/-- 1 ÷ (1 + e^(−x)). -/
def fSigRaw (x : FVal) : FRaw :=
  match x with
  | .nan => .exact .nan
  | .inf neg => if neg then .exact (.fin false 0 0) else .exact (.fin false 1 0)
  | .fin neg m e =>
    if m = 0 then .exact (.fin false 1 (-1))
    else if !magLt m e 256 0 then (if neg then tinyRaw false else .near false (2 ^ 64 - 1) (-64))
    else
      let p := expNeg m e
      let q := fixScale p.1 p.2
      if neg then fixRaw false (p.1 * fixOne / (fixOne + q)) p.2
      else fixRaw false (fixOne * fixOne / (fixOne + q)) 0

end Sys2Proof.Machine
end

