-- ==== Sys2Proof/Machine/IntArith.lean ====
section
/-! DEFINITION. Integer arithmetic (08 R178 to R182): IV, IS, ICV, ICS. Each operation is given once, on `n` bits:
n = 32 per lane in IV, n = 64 once in IS. -/
namespace Sys2Proof.Machine

/-! ## The operations of R179 and R180 -/

def iAdd {n : Nat} (a b : BitVec n) : BitVec n := a + b
def iSub {n : Nat} (a b : BitVec n) : BitVec n := a - b
def iMul {n : Nat} (a b : BitVec n) : BitVec n := a * b
def iMulh {n : Nat} (a b : BitVec n) : BitVec n := wrap n ((a.toInt * b.toInt) / 2 ^ n)
def iMulhn {n : Nat} (a b : BitVec n) : BitVec n := BitVec.ofNat n ((a.toNat * b.toNat) / 2 ^ n)
def iMad {n : Nat} (a b c : BitVec n) : BitVec n := a * b + c
def iMin {n : Nat} (a b : BitVec n) : BitVec n := if b.slt a then b else a
def iMax {n : Nat} (a b : BitVec n) : BitVec n := if a.slt b then b else a
def nMin {n : Nat} (a b : BitVec n) : BitVec n := if b.ult a then b else a
def nMax {n : Nat} (a b : BitVec n) : BitVec n := if a.ult b then b else a
def iAbs {n : Nat} (a : BitVec n) : BitVec n := wrap n a.toInt.natAbs
def iNeg {n : Nat} (a : BitVec n) : BitVec n := -a
def iAnd {n : Nat} (a b : BitVec n) : BitVec n := a &&& b
def iOr {n : Nat} (a b : BitVec n) : BitVec n := a ||| b
def iXor {n : Nat} (a b : BitVec n) : BitVec n := a ^^^ b
def iAndn {n : Nat} (a b : BitVec n) : BitVec n := a &&& ~~~b
def iNot {n : Nat} (a : BitVec n) : BitVec n := ~~~a
def iShl {n : Nat} (a b : BitVec n) : BitVec n := if b.toNat < n then a <<< b.toNat else 0
def iShr {n : Nat} (a b : BitVec n) : BitVec n := if b.toNat < n then a >>> b.toNat else 0
def iSar {n : Nat} (a b : BitVec n) : BitVec n := a.sshiftRight (min b.toNat n)
def iRotl {n : Nat} (a b : BitVec n) : BitVec n := a.rotateLeft (b.toNat % n)
def iClz {n : Nat} (a : BitVec n) : BitVec n := BitVec.ofNat n (n - bitLen a.toNat)
def iPopc {n : Nat} (a : BitVec n) : BitVec n := BitVec.ofNat n ((List.range n).filter fun i => a.getLsbD i).length
def iBrev {n : Nat} (a : BitVec n) : BitVec n := a.reverse
def iSadd {n : Nat} (a b : BitVec n) : BitVec n × W64 := satFlag n (a.toInt + b.toInt)
def iSsub {n : Nat} (a b : BitVec n) : BitVec n × W64 := satFlag n (a.toInt - b.toInt)

/-- Width of the field that starts at `pos` and has `len` bits, inside `n` bits; 0 for no field (R180). -/
def fieldWidth (n pos len : Nat) : Nat := if pos < n then min len (n - pos) else 0

/-- Bit-field extract (R180). -/
def iBfx {n : Nat} (a b c : BitVec n) : BitVec n :=
  BitVec.ofNat n ((a.toNat >>> b.toNat) % 2 ^ fieldWidth n b.toNat c.toNat)

/-- Bit-field insert (R180). -/
def iBfi {n : Nat} (old a b c : BitVec n) : BitVec n :=
  let w := fieldWidth n b.toNat c.toNat
  if w = 0 then old
  else
    let m : BitVec n := BitVec.ofNat n (2 ^ w - 1) <<< b.toNat
    (old &&& ~~~m) ||| ((a <<< b.toNat) &&& m)

/-- Division (R180). -/
def iDiv {n : Nat} (a b : BitVec n) : BitVec n × W64 :=
  if b = 0 then (0, flDZ)
  else if a = BitVec.intMin n && b = BitVec.allOnes n then (BitVec.intMax n, flSAT)
  else (a.sdiv b, 0)

/-- Remainder (R180). -/
def iRem {n : Nat} (a b : BitVec n) : BitVec n × W64 :=
  if b = 0 then (a, flDZ)
  else if a = BitVec.intMin n && b = BitVec.allOnes n then (0, 0)
  else (a.srem b, 0)

/-! ## IV and IS -/

/-- Integer class with A, with A and B, with A, B and C (R135, R179). -/
def intA (c : Ctx) : List TagCheck := c.needA intTags
def intAB (c : Ctx) : List TagCheck := c.needA intTags ++ c.needB intTags
def intABC (c : Ctx) : List TagCheck := c.needA intTags ++ c.needB intTags ++ c.needC intTags
def noTags (_ : Ctx) : List TagCheck := []

/-- Vector operations of the integer class. -/
def iv1 (f : W32 → W32) : Ctx → State → Res := vecOp intA (fun _ => tI32) fun c i => (f (c.opA i), 0)
def iv2 (f : W32 → W32 → W32) : Ctx → State → Res := vecOp intAB (fun _ => tI32) fun c i => (f (c.opA i) (c.opB i), 0)
def iv2f (f : W32 → W32 → W32 × W64) : Ctx → State → Res := vecOp intAB (fun _ => tI32) fun c i => f (c.opA i) (c.opB i)
def iv3 (f : W32 → W32 → W32 → W32) : Ctx → State → Res :=
  vecOp intABC (fun _ => tI32) fun c i => (f (c.opA i) (c.opB i) (c.opC i), 0)

/-- Vector operations of the bitwise class: any tag, result RAW. -/
def bv1 (f : W32 → W32) : Ctx → State → Res := vecOp noTags (fun _ => tRAW) fun c i => (f (c.opA i), 0)
def bv2 (f : W32 → W32 → W32) : Ctx → State → Res := vecOp noTags (fun _ => tRAW) fun c i => (f (c.opA i) (c.opB i), 0)

/-- Scalar operations. -/
def is1 (f : W64 → W64) : Ctx → State → Res := scalOp fun c => (f c.sA, 0)
def is2 (f : W64 → W64 → W64) : Ctx → State → Res := scalOp fun c => (f c.sA c.sBl, 0)
def is2f (f : W64 → W64 → W64 × W64) : Ctx → State → Res := scalOp fun c => f c.sA c.sBl
def is3 (f : W64 → W64 → W64 → W64) : Ctx → State → Res := scalOp fun c => (f c.sA c.sBl c.sC, 0)

/-- `sel` of IV (R181): every lane of the lane set takes A or B by the predicate. -/
def selV (c : Ctx) (s : State) : Res :=
  let p := predLanes c.g c.e
  let tag : BitVec 4 := if c.o.lit.isSome || c.tagA 0 = c.tagB 0 then c.tagA 0 else tRAW
  .ok (c.putV s 0 (fun i => if p.getLsbD i then c.opA i else c.opB i) tag)

/-- `sel` of IS (R181): by the lowest lane of the lane set. -/
def selS (c : Ctx) (s : State) : Res :=
  let p := predLanes c.g c.e
  match lanesOf c.w c.cl.lanes with
  | [] => .ok s
  | i :: _ => .ok (c.putS s (if p.getLsbD i then c.sA else c.sBl))

/-! ### IV, major 0x01 (R179) -/

/-- `iadd` (R179). -/
def execIadd (o : Ops) (s : State) : Out := issue 0x01 0 o (iv2 iAdd) s

/-- `isub` (R179). -/
def execIsub (o : Ops) (s : State) : Out := issue 0x01 1 o (iv2 iSub) s

/-- `imul` (R179). -/
def execImul (o : Ops) (s : State) : Out := issue 0x01 2 o (iv2 iMul) s

/-- `imulh` (R179). -/
def execImulh (o : Ops) (s : State) : Out := issue 0x01 3 o (iv2 iMulh) s

/-- `imulhn` (R179). -/
def execImulhn (o : Ops) (s : State) : Out := issue 0x01 4 o (iv2 iMulhn) s

/-- `imad` (R179). -/
def execImad (o : Ops) (s : State) : Out := issue 0x01 5 o (iv3 iMad) s

/-- `imin` (R179). -/
def execImin (o : Ops) (s : State) : Out := issue 0x01 6 o (iv2 iMin) s

/-- `imax` (R179). -/
def execImax (o : Ops) (s : State) : Out := issue 0x01 7 o (iv2 iMax) s

/-- `nmin` (R179). -/
def execNmin (o : Ops) (s : State) : Out := issue 0x01 8 o (iv2 nMin) s

/-- `nmax` (R179). -/
def execNmax (o : Ops) (s : State) : Out := issue 0x01 9 o (iv2 nMax) s

/-- `iabs` (R179). -/
def execIabs (o : Ops) (s : State) : Out := issue 0x01 10 o (iv1 iAbs) s

/-- `ineg` (R179). -/
def execIneg (o : Ops) (s : State) : Out := issue 0x01 11 o (iv1 iNeg) s

/-- `and` (R179). -/
def execAnd (o : Ops) (s : State) : Out := issue 0x01 12 o (bv2 iAnd) s

/-- `or` (R179). -/
def execOr (o : Ops) (s : State) : Out := issue 0x01 13 o (bv2 iOr) s

/-- `xor` (R179). -/
def execXor (o : Ops) (s : State) : Out := issue 0x01 14 o (bv2 iXor) s

/-- `andn` (R179). -/
def execAndn (o : Ops) (s : State) : Out := issue 0x01 15 o (bv2 iAndn) s

/-- `not` (R179). -/
def execNot (o : Ops) (s : State) : Out := issue 0x01 16 o (bv1 iNot) s

/-- `shl` (R179). -/
def execShl (o : Ops) (s : State) : Out := issue 0x01 17 o (iv2 iShl) s

/-- `shr` (R179). -/
def execShr (o : Ops) (s : State) : Out := issue 0x01 18 o (iv2 iShr) s

/-- `sar` (R179). -/
def execSar (o : Ops) (s : State) : Out := issue 0x01 19 o (iv2 iSar) s

/-- `rotl` (R179). -/
def execRotl (o : Ops) (s : State) : Out := issue 0x01 20 o (bv2 iRotl) s

/-- `clz` (R179). -/
def execClz (o : Ops) (s : State) : Out := issue 0x01 21 o (iv1 iClz) s

/-- `popc` (R179). -/
def execPopc (o : Ops) (s : State) : Out := issue 0x01 22 o (iv1 iPopc) s

/-- `brev` (R179). -/
def execBrev (o : Ops) (s : State) : Out := issue 0x01 23 o (bv1 iBrev) s

/-- `sadd` (R179). -/
def execSadd (o : Ops) (s : State) : Out := issue 0x01 24 o (iv2f iSadd) s

/-- `ssub` (R179). -/
def execSsub (o : Ops) (s : State) : Out := issue 0x01 25 o (iv2f iSsub) s

/-- `sel` (R181). -/
def execSel (o : Ops) (s : State) : Out := issue 0x01 26 o selV s

/-- `bfx` (R180). -/
def execBfx (o : Ops) (s : State) : Out := issue 0x01 27 o (iv3 iBfx) s

/-- `bfi` (R180). -/
def execBfi (o : Ops) (s : State) : Out := issue 0x01 28 o (vecOp (fun c => intABC c ++ c.needD intTags) (fun _ => tI32)
  fun c i => (iBfi (c.opDk 0 i) (c.opA i) (c.opB i) (c.opC i), 0)) s

/-- `idiv` (R180). -/
def execIdiv (o : Ops) (s : State) : Out := issue 0x01 29 o (iv2f iDiv) s

/-- `irem` (R180). -/
def execIrem (o : Ops) (s : State) : Out := issue 0x01 30 o (iv2f iRem) s

/-! ### IS, major 0x02 (R179) -/

/-- Scalar `iadd`. -/
def execIaddS (o : Ops) (s : State) : Out := issue 0x02 0 o (is2 iAdd) s

/-- Scalar `isub`. -/
def execIsubS (o : Ops) (s : State) : Out := issue 0x02 1 o (is2 iSub) s

/-- Scalar `imul`. -/
def execImulS (o : Ops) (s : State) : Out := issue 0x02 2 o (is2 iMul) s

/-- Scalar `imulh`. -/
def execImulhS (o : Ops) (s : State) : Out := issue 0x02 3 o (is2 iMulh) s

/-- Scalar `imulhn`. -/
def execImulhnS (o : Ops) (s : State) : Out := issue 0x02 4 o (is2 iMulhn) s

/-- Scalar `imad`. -/
def execImadS (o : Ops) (s : State) : Out := issue 0x02 5 o (is3 iMad) s

/-- Scalar `imin`. -/
def execIminS (o : Ops) (s : State) : Out := issue 0x02 6 o (is2 iMin) s

/-- Scalar `imax`. -/
def execImaxS (o : Ops) (s : State) : Out := issue 0x02 7 o (is2 iMax) s

/-- Scalar `nmin`. -/
def execNminS (o : Ops) (s : State) : Out := issue 0x02 8 o (is2 nMin) s

/-- Scalar `nmax`. -/
def execNmaxS (o : Ops) (s : State) : Out := issue 0x02 9 o (is2 nMax) s

/-- Scalar `iabs`. -/
def execIabsS (o : Ops) (s : State) : Out := issue 0x02 10 o (is1 iAbs) s

/-- Scalar `ineg`. -/
def execInegS (o : Ops) (s : State) : Out := issue 0x02 11 o (is1 iNeg) s

/-- Scalar `and`. -/
def execAndS (o : Ops) (s : State) : Out := issue 0x02 12 o (is2 iAnd) s

/-- Scalar `or`. -/
def execOrS (o : Ops) (s : State) : Out := issue 0x02 13 o (is2 iOr) s

/-- Scalar `xor`. -/
def execXorS (o : Ops) (s : State) : Out := issue 0x02 14 o (is2 iXor) s

/-- Scalar `andn`. -/
def execAndnS (o : Ops) (s : State) : Out := issue 0x02 15 o (is2 iAndn) s

/-- Scalar `not`. -/
def execNotS (o : Ops) (s : State) : Out := issue 0x02 16 o (is1 iNot) s

/-- Scalar `shl`. -/
def execShlS (o : Ops) (s : State) : Out := issue 0x02 17 o (is2 iShl) s

/-- Scalar `shr`. -/
def execShrS (o : Ops) (s : State) : Out := issue 0x02 18 o (is2 iShr) s

/-- Scalar `sar`. -/
def execSarS (o : Ops) (s : State) : Out := issue 0x02 19 o (is2 iSar) s

/-- Scalar `rotl`. -/
def execRotlS (o : Ops) (s : State) : Out := issue 0x02 20 o (is2 iRotl) s

/-- Scalar `clz`. -/
def execClzS (o : Ops) (s : State) : Out := issue 0x02 21 o (is1 iClz) s

/-- Scalar `popc`. -/
def execPopcS (o : Ops) (s : State) : Out := issue 0x02 22 o (is1 iPopc) s

/-- Scalar `brev`. -/
def execBrevS (o : Ops) (s : State) : Out := issue 0x02 23 o (is1 iBrev) s

/-- Scalar `sadd`. -/
def execSaddS (o : Ops) (s : State) : Out := issue 0x02 24 o (is2f iSadd) s

/-- Scalar `ssub`. -/
def execSsubS (o : Ops) (s : State) : Out := issue 0x02 25 o (is2f iSsub) s

/-- Scalar `sel`. -/
def execSelS (o : Ops) (s : State) : Out := issue 0x02 26 o selS s

/-- Scalar `bfx`. -/
def execBfxS (o : Ops) (s : State) : Out := issue 0x02 27 o (is3 iBfx) s

/-- Scalar `bfi`. -/
def execBfiS (o : Ops) (s : State) : Out := issue 0x02 28 o (scalOp fun c => (iBfi c.sD c.sA c.sBl c.sC, 0)) s

/-- Scalar `idiv`. -/
def execIdivS (o : Ops) (s : State) : Out := issue 0x02 29 o (is2f iDiv) s

/-- Scalar `irem`. -/
def execIremS (o : Ops) (s : State) : Out := issue 0x02 30 o (is2f iRem) s

/-! ## ICV and ICS (R182) -/

/-- The conditions of R182. -/
def cEq {n : Nat} (a b : BitVec n) : Bool := a == b
def cNe {n : Nat} (a b : BitVec n) : Bool := a != b
def cLt {n : Nat} (a b : BitVec n) : Bool := a.slt b
def cLe {n : Nat} (a b : BitVec n) : Bool := a.sle b
def cGt {n : Nat} (a b : BitVec n) : Bool := b.slt a
def cGe {n : Nat} (a b : BitVec n) : Bool := b.sle a
def cLo {n : Nat} (a b : BitVec n) : Bool := a.ult b
def cLs {n : Nat} (a b : BitVec n) : Bool := a.ule b
def cHi {n : Nat} (a b : BitVec n) : Bool := b.ult a
def cHs {n : Nat} (a b : BitVec n) : Bool := b.ule a

/-- Combine an old bit with a condition: D[5:4] set, and, or, xor (R26, R182). -/
def combBit (k : Nat) (old cond : Bool) : Bool :=
  match k with
  | 0 => cond
  | 1 => old && cond
  | 2 => old || cond
  | _ => Bool.xor old cond

/-- Write the predicate of a compare in the executing lanes. -/
def Ctx.putCmp (c : Ctx) (s : State) (cond : Nat → Bool) : State :=
  let old := c.g.pval (c.g.pref (c.fd % 8))
  c.putP s (c.fd % 8) (maskOf (c.lanes.filter fun i => combBit (c.fd / 16) (old.getLsbD i) (cond i)))

/-- A compare of ICV. -/
def icv (f : W32 → W32 → Bool) (c : Ctx) (s : State) : Res :=
  tagged c (intAB c) (.ok (c.putCmp s fun i => f (c.opA i) (c.opB i)))

/-- A compare of ICS. -/
def ics (f : W64 → W64 → Bool) : Ctx → State → Res := is2 fun a b => if f a b then 1 else 0

/-- `icmpeq`. -/
def execIcmpeq (o : Ops) (s : State) : Out := issue 0x03 0 o (icv cEq) s

/-- `icmpne`. -/
def execIcmpne (o : Ops) (s : State) : Out := issue 0x03 1 o (icv cNe) s

/-- `icmplt`. -/
def execIcmplt (o : Ops) (s : State) : Out := issue 0x03 2 o (icv cLt) s

/-- `icmple`. -/
def execIcmple (o : Ops) (s : State) : Out := issue 0x03 3 o (icv cLe) s

/-- `icmpgt`. -/
def execIcmpgt (o : Ops) (s : State) : Out := issue 0x03 4 o (icv cGt) s

/-- `icmpge`. -/
def execIcmpge (o : Ops) (s : State) : Out := issue 0x03 5 o (icv cGe) s

/-- `icmplo`. -/
def execIcmplo (o : Ops) (s : State) : Out := issue 0x03 6 o (icv cLo) s

/-- `icmpls`. -/
def execIcmpls (o : Ops) (s : State) : Out := issue 0x03 7 o (icv cLs) s

/-- `icmphi`. -/
def execIcmphi (o : Ops) (s : State) : Out := issue 0x03 8 o (icv cHi) s

/-- `icmphs`. -/
def execIcmphs (o : Ops) (s : State) : Out := issue 0x03 9 o (icv cHs) s

/-- Scalar `icmpeq`. -/
def execIcmpeqS (o : Ops) (s : State) : Out := issue 0x04 0 o (ics cEq) s

/-- Scalar `icmpne`. -/
def execIcmpneS (o : Ops) (s : State) : Out := issue 0x04 1 o (ics cNe) s

/-- Scalar `icmplt`. -/
def execIcmpltS (o : Ops) (s : State) : Out := issue 0x04 2 o (ics cLt) s

/-- Scalar `icmple`. -/
def execIcmpleS (o : Ops) (s : State) : Out := issue 0x04 3 o (ics cLe) s

/-- Scalar `icmpgt`. -/
def execIcmpgtS (o : Ops) (s : State) : Out := issue 0x04 4 o (ics cGt) s

/-- Scalar `icmpge`. -/
def execIcmpgeS (o : Ops) (s : State) : Out := issue 0x04 5 o (ics cGe) s

/-- Scalar `icmplo`. -/
def execIcmploS (o : Ops) (s : State) : Out := issue 0x04 6 o (ics cLo) s

/-- Scalar `icmpls`. -/
def execIcmplsS (o : Ops) (s : State) : Out := issue 0x04 7 o (ics cLs) s

/-- Scalar `icmphi`. -/
def execIcmphiS (o : Ops) (s : State) : Out := issue 0x04 8 o (ics cHi) s

/-- Scalar `icmphs`. -/
def execIcmphsS (o : Ops) (s : State) : Out := issue 0x04 9 o (ics cHs) s

end Sys2Proof.Machine
end

