-- ==== Sys2Proof/Machine/FloatArith.lean ====
section
/-! DEFINITION. Floating arithmetic (08 R185 to R190): FV, FS, FCV. Each operation is given once on the elements of
a format; FV applies it to the elements that A's tag names, FS to F32. -/
namespace Sys2Proof.Machine

/-- An operation on one element: format, MODE, rounding mode, codes of A, B and C; result and flags. -/
abbrev FEl := FFmt → W64 → Rm → Nat → Nat → Nat → Nat × W64

/-! ## The elements (R186 to R189) -/

def eAdd : FEl := fun f m r a b _ => f.result m r (fAddV r (f.inF m a) (f.inF m b))
def eSub : FEl := fun f m r a b _ => f.result m r (fAddV r (f.inF m a) (f.inF m b).flip)
def eMul : FEl := fun f m r a b _ => f.result m r (fMulV (f.inF m a) (f.inF m b))
def eFma : FEl := fun f m r a b c => f.result m r (fMaV r false (f.inF m a) (f.inF m b) (f.inF m c))
def eFms : FEl := fun f m r a b c => f.result m r (fMaV r false (f.inF m a) (f.inF m b) (f.inF m c).flip)
def eFnma : FEl := fun f m r a b c => f.result m r (fMaV r true (f.inF m a) (f.inF m b) (f.inF m c))
def eMin : FEl := fun f m _ a b _ => (f.code (fSelV false (modeNanmax m) (f.inF m a) (f.inF m b)), 0)
def eMax : FEl := fun f m _ a b _ => (f.code (fSelV true (modeNanmax m) (f.inF m a) (f.inF m b)), 0)
def eMinnum : FEl := fun f m _ a b _ => (f.code (fSelV false true (f.inF m a) (f.inF m b)), 0)
def eMaxnum : FEl := fun f m _ a b _ => (f.code (fSelV true true (f.inF m a) (f.inF m b)), 0)

/-- The code of x with another sign; a NaN is canonical (R187). -/
def withSign (f : FFmt) (x : FVal) (neg : Bool) : Nat :=
  if x.isNan then f.nanCode else f.sign neg + f.code x % 2 ^ (f.eb + f.fb)

def eAbs : FEl := fun f m _ a _ _ => (withSign f (f.inF m a) false, 0)
def eNeg : FEl := fun f m _ a _ _ => (withSign f (f.inF m a) (!(f.inF m a).neg), 0)
def eCps : FEl := fun f m _ a b _ => (withSign f (f.inF m a) (bits b (f.eb + f.fb) (f.eb + f.fb) == 1), 0)
def eRnd : FEl := fun f m r a _ _ => (f.code (fRndV r (f.inF m a)), 0)
def eClass : FEl := fun f _ _ a _ _ => (f.classOf a, 0)

/-- A function evaluated in F32; for a 16-bit format its result is rounded once more (R188). -/
def viaF32 (g : FVal → FVal → FRaw) : FEl := fun f m r a b _ =>
  let p := fmtF32.ofRaw m r (g (f.inF m a) (f.inF m b))
  if f = fmtF32 then p
  else
    let q := f.put m r (fmtF32.decode p.1)
    (q.1, p.2 ||| q.2)

def eRcp : FEl := viaF32 fun x _ => fRcpRaw x
def eRsq : FEl := viaF32 fun x _ => fRsqRaw x
def eSqrt : FEl := viaF32 fun x _ => fSqrtRaw x
def eDiv : FEl := viaF32 fDivRaw
def eExp2 : FEl := viaF32 fun x _ => fExp2Raw x
def eLog2 : FEl := viaF32 fun x _ => fLog2Raw x
def eTanh : FEl := viaF32 fun x _ => fTanhRaw x
def eSig : FEl := viaF32 fun x _ => fSigRaw x

/-! ## FV and FS -/

/-- Tags of FV (R185). -/
def floatTags : List (BitVec 4) := [2, 3, 4]

/-- The format that a tag names. -/
def fmtOfTag (t : BitVec 4) : FFmt := if t = tBF16x2 then fmtBF16 else if t = tF16x2 then fmtF16 else fmtF32

/-- The elements of one lane (R185). -/
def fvLane (el : FEl) (tag : BitVec 4) (mode : W64) (rm : Rm) (a b c : W32) : W32 × W64 :=
  let f := fmtOfTag tag
  if tag = tBF16x2 || tag = tF16x2 then
    let h (x : W32) (k : Nat) : Nat := (x.extractLsb' (16 * k) 16).toNat
    let lo := el f mode rm (h a 0) (h b 0) (h c 0)
    let hi := el f mode rm (h a 1) (h b 1) (h c 1)
    (w32 (lo.1 + hi.1 * 65536), lo.2 ||| hi.2)
  else
    let r := el f mode rm a.toNat b.toNat c.toNat
    (w32 r.1, r.2)

/-- FV with A, with A and B, with A, B and C: the other sources carry A's tag (R185). -/
def fv1 (el : FEl) : Ctx → State → Res :=
  vecOp (fun c => c.needA floatTags) (fun c => c.tagA 0) fun c i => fvLane el (c.tagA 0) c.mode c.rm (c.opA i) 0 0
def fv2 (el : FEl) : Ctx → State → Res :=
  vecOp (fun c => c.needA floatTags ++ c.needB [c.tagA 0]) (fun c => c.tagA 0)
    fun c i => fvLane el (c.tagA 0) c.mode c.rm (c.opA i) (c.opB i) 0
def fv3 (el : FEl) : Ctx → State → Res :=
  vecOp (fun c => c.needA floatTags ++ c.needB [c.tagA 0] ++ c.needC [c.tagA 0]) (fun c => c.tagA 0)
    fun c i => fvLane el (c.tagA 0) c.mode c.rm (c.opA i) (c.opB i) (c.opC i)

/-- `fclass` of FV: the result is I32 or I16x2 (R189); where no lane executes, I16x2 for every tag but F32 (DESIGN CHOICE, log
entry 14). -/
def fvClass : Ctx → State → Res :=
  vecOp (fun c => c.needA floatTags) (fun c => if c.tagA 0 = tF32 then tI32 else tI16x2)
    fun c i => fvLane eClass (c.tagA 0) c.mode c.rm (c.opA i) 0 0

/-- FS: F32 in bits [31:0]; bits [63:32] become zero (R185). -/
def fsOp (el : FEl) : Ctx → State → Res :=
  scalOp fun c =>
    let lo (x : W64) : Nat := x.toNat % 2 ^ 32
    let r := el fmtF32 c.mode c.rm (lo c.sA) (lo c.sBl) (lo c.sC)
    (w64 r.1, r.2)

/-! ### FV, major 0x06 -/

/-- `fadd`. -/
def execFadd (o : Ops) (s : State) : Out := issue 0x06 0 o (fv2 eAdd) s

/-- `fsub`. -/
def execFsub (o : Ops) (s : State) : Out := issue 0x06 1 o (fv2 eSub) s

/-- `fmul`. -/
def execFmul (o : Ops) (s : State) : Out := issue 0x06 2 o (fv2 eMul) s

/-- `ffma`. -/
def execFfma (o : Ops) (s : State) : Out := issue 0x06 3 o (fv3 eFma) s

/-- `ffms`. -/
def execFfms (o : Ops) (s : State) : Out := issue 0x06 4 o (fv3 eFms) s

/-- `fnma`. -/
def execFnma (o : Ops) (s : State) : Out := issue 0x06 5 o (fv3 eFnma) s

/-- `fmin`. -/
def execFmin (o : Ops) (s : State) : Out := issue 0x06 6 o (fv2 eMin) s

/-- `fmax`. -/
def execFmax (o : Ops) (s : State) : Out := issue 0x06 7 o (fv2 eMax) s

/-- `fminnum`. -/
def execFminnum (o : Ops) (s : State) : Out := issue 0x06 8 o (fv2 eMinnum) s

/-- `fmaxnum`. -/
def execFmaxnum (o : Ops) (s : State) : Out := issue 0x06 9 o (fv2 eMaxnum) s

/-- `fabs`. -/
def execFabs (o : Ops) (s : State) : Out := issue 0x06 10 o (fv1 eAbs) s

/-- `fneg`. -/
def execFneg (o : Ops) (s : State) : Out := issue 0x06 11 o (fv1 eNeg) s

/-- `fcps`. -/
def execFcps (o : Ops) (s : State) : Out := issue 0x06 12 o (fv2 eCps) s

/-- `frnd`. -/
def execFrnd (o : Ops) (s : State) : Out := issue 0x06 13 o (fv1 eRnd) s

/-- `frcp`. -/
def execFrcp (o : Ops) (s : State) : Out := issue 0x06 14 o (fv1 eRcp) s

/-- `frsq`. -/
def execFrsq (o : Ops) (s : State) : Out := issue 0x06 15 o (fv1 eRsq) s

/-- `fsqrt`. -/
def execFsqrt (o : Ops) (s : State) : Out := issue 0x06 16 o (fv1 eSqrt) s

/-- `fdiv`. -/
def execFdiv (o : Ops) (s : State) : Out := issue 0x06 17 o (fv2 eDiv) s

/-- `fexp2`. -/
def execFexp2 (o : Ops) (s : State) : Out := issue 0x06 18 o (fv1 eExp2) s

/-- `flog2`. -/
def execFlog2 (o : Ops) (s : State) : Out := issue 0x06 19 o (fv1 eLog2) s

/-- `ftanh`. -/
def execFtanh (o : Ops) (s : State) : Out := issue 0x06 20 o (fv1 eTanh) s

/-- `fsig`. -/
def execFsig (o : Ops) (s : State) : Out := issue 0x06 21 o (fv1 eSig) s

/-- `fclass`. -/
def execFclass (o : Ops) (s : State) : Out := issue 0x06 22 o fvClass s

/-! ### FS, major 0x07 -/

/-- Scalar `fadd`. -/
def execFaddS (o : Ops) (s : State) : Out := issue 0x07 0 o (fsOp eAdd) s

/-- Scalar `fsub`. -/
def execFsubS (o : Ops) (s : State) : Out := issue 0x07 1 o (fsOp eSub) s

/-- Scalar `fmul`. -/
def execFmulS (o : Ops) (s : State) : Out := issue 0x07 2 o (fsOp eMul) s

/-- Scalar `ffma`. -/
def execFfmaS (o : Ops) (s : State) : Out := issue 0x07 3 o (fsOp eFma) s

/-- Scalar `ffms`. -/
def execFfmsS (o : Ops) (s : State) : Out := issue 0x07 4 o (fsOp eFms) s

/-- Scalar `fnma`. -/
def execFnmaS (o : Ops) (s : State) : Out := issue 0x07 5 o (fsOp eFnma) s

/-- Scalar `fmin`. -/
def execFminS (o : Ops) (s : State) : Out := issue 0x07 6 o (fsOp eMin) s

/-- Scalar `fmax`. -/
def execFmaxS (o : Ops) (s : State) : Out := issue 0x07 7 o (fsOp eMax) s

/-- Scalar `fminnum`. -/
def execFminnumS (o : Ops) (s : State) : Out := issue 0x07 8 o (fsOp eMinnum) s

/-- Scalar `fmaxnum`. -/
def execFmaxnumS (o : Ops) (s : State) : Out := issue 0x07 9 o (fsOp eMaxnum) s

/-- Scalar `fabs`. -/
def execFabsS (o : Ops) (s : State) : Out := issue 0x07 10 o (fsOp eAbs) s

/-- Scalar `fneg`. -/
def execFnegS (o : Ops) (s : State) : Out := issue 0x07 11 o (fsOp eNeg) s

/-- Scalar `fcps`. -/
def execFcpsS (o : Ops) (s : State) : Out := issue 0x07 12 o (fsOp eCps) s

/-- Scalar `frnd`. -/
def execFrndS (o : Ops) (s : State) : Out := issue 0x07 13 o (fsOp eRnd) s

/-- Scalar `frcp`. -/
def execFrcpS (o : Ops) (s : State) : Out := issue 0x07 14 o (fsOp eRcp) s

/-- Scalar `frsq`. -/
def execFrsqS (o : Ops) (s : State) : Out := issue 0x07 15 o (fsOp eRsq) s

/-- Scalar `fsqrt`. -/
def execFsqrtS (o : Ops) (s : State) : Out := issue 0x07 16 o (fsOp eSqrt) s

/-- Scalar `fdiv`. -/
def execFdivS (o : Ops) (s : State) : Out := issue 0x07 17 o (fsOp eDiv) s

/-- Scalar `fexp2`. -/
def execFexp2S (o : Ops) (s : State) : Out := issue 0x07 18 o (fsOp eExp2) s

/-- Scalar `flog2`. -/
def execFlog2S (o : Ops) (s : State) : Out := issue 0x07 19 o (fsOp eLog2) s

/-- Scalar `ftanh`. -/
def execFtanhS (o : Ops) (s : State) : Out := issue 0x07 20 o (fsOp eTanh) s

/-- Scalar `fsig`. -/
def execFsigS (o : Ops) (s : State) : Out := issue 0x07 21 o (fsOp eSig) s

/-- Scalar `fclass`. -/
def execFclassS (o : Ops) (s : State) : Out := issue 0x07 22 o (fsOp eClass) s

/-! ## FCV (R190) -/

/-- A compare of FCV on F32. -/
def fcv (p : FVal → FVal → Bool) (c : Ctx) (s : State) : Res :=
  tagged c (c.needA [tF32] ++ c.needB [tF32])
    (.ok (c.putCmp s fun i => p (fmtF32.inF c.mode (c.opA i).toNat) (fmtF32.inF c.mode (c.opB i).toNat)))

def fcEq (x y : FVal) : Bool := fEq x y
def fcNe (x y : FVal) : Bool := !fEq x y
def fcLt (x y : FVal) : Bool := fLt x y
def fcLe (x y : FVal) : Bool := fLt x y || fEq x y
def fcGt (x y : FVal) : Bool := fLt y x
def fcGe (x y : FVal) : Bool := fLt y x || fEq x y
def fcUn (x y : FVal) : Bool := x.isNan || y.isNan
def fcOrd (x y : FVal) : Bool := !(x.isNan || y.isNan)

/-- `fcmpeq`. -/
def execFcmpeq (o : Ops) (s : State) : Out := issue 0x08 0 o (fcv fcEq) s

/-- `fcmpne`. -/
def execFcmpne (o : Ops) (s : State) : Out := issue 0x08 1 o (fcv fcNe) s

/-- `fcmplt`. -/
def execFcmplt (o : Ops) (s : State) : Out := issue 0x08 2 o (fcv fcLt) s

/-- `fcmple`. -/
def execFcmple (o : Ops) (s : State) : Out := issue 0x08 3 o (fcv fcLe) s

/-- `fcmpgt`. -/
def execFcmpgt (o : Ops) (s : State) : Out := issue 0x08 4 o (fcv fcGt) s

/-- `fcmpge`. -/
def execFcmpge (o : Ops) (s : State) : Out := issue 0x08 5 o (fcv fcGe) s

/-- `fcmpun`. -/
def execFcmpun (o : Ops) (s : State) : Out := issue 0x08 6 o (fcv fcUn) s

/-- `fcmpord`. -/
def execFcmpord (o : Ops) (s : State) : Out := issue 0x08 7 o (fcv fcOrd) s

end Sys2Proof.Machine
end

