-- ==== Sys2Proof/Machine/Access.lean ====
section
/-! DEFINITION. Memory accesses of a group: where they go (04 R76, R77; 05 R99), what the kiln records of them (12
R235), the operand log that holds them (02 R38, 21 R364), when a load binds (14 R257, R258), what an
atomic does (04 R86), the waits of acquires, releases and fences (04 R82, R84, R90). -/
namespace Sys2Proof.Machine

/-! ## Addresses -/

/-- Effective address of lane `i` of a vector form, and of a scalar form (R76). -/
def Ctx.eaVec (c : Ctx) (i : Nat) : W64 := c.sA + sext32 (c.opBw i) + c.lit
def Ctx.eaScal (c : Ctx) : W64 := c.sA + c.lit

/-- Lane number under which the scalar access of a group stands. -/
def scalarLane : Nat := 64

/-- The accesses that an instruction of `n` bytes forms (R76, R79). -/
def Ctx.vecAccs (c : Ctx) (n : Nat) : List Access := c.lanes.map fun i => { lane := i, va := c.eaVec i, n := n }
def Ctx.scalAccs (c : Ctx) (n : Nat) : List Access :=
  if c.anyLane then [{ lane := scalarLane, va := c.eaScal, n := n }] else []
def Ctx.accs (c : Ctx) (scal : Bool) (n : Nat) : List Access := if scal then c.scalAccs n else c.vecAccs n

/-- The aperture address is no valid, aligned local address of the issuing team (R97 to R99). -/
def State.apertureBad (s : State) (g : Group) (a : Access) : Bool :=
  inAperture g a.va && (a.va.toNat % a.n != 0 || (s.localAddr g (a.va.toNat - apertureBase) a.n).isNone)

/-- Team and offset of an aperture access. -/
def State.aperturePlace (s : State) (g : Group) (a : Access) : Option (Nat × Nat) :=
  if inAperture g a.va then s.localAddr g (a.va.toNat - apertureBase) a.n else none

/-- An aperture access that meets the range scoreboard (R114). -/
def State.apertureScored (s : State) (g : Group) (writesOnly : Bool) (a : Access) : Bool :=
  match s.aperturePlace g a with
  | some (t, off) => s.scoreHit t off a.n writesOnly
  | none => false

/-- EMBREQ of the first access whose bytes overlap a shared range, in a deterministic launch whose ember the team
does not hold (R93, R360). `commit` is 4 at the `rlxclose` join. -/
def State.embreqOf (s : State) (g : Group) (commit : Nat) (accs : List Access) : Option (Cause × W64) :=
  match s.workOf g, s.teamOf g with
  | some w, some t =>
    if w.det != 1 || w.holds t then none
    else accs.findSome? fun a =>
      if inAperture g a.va then none
      else (w.sharedHit a.va.toNat a.n).map fun r =>
        (.embreq, w64 (r + commit + (if w.abort then 8 else 0) + max a.va.toNat (w.shared r).1 % 2 ^ 52 * 2 ^ 12))
  | _, _ => none

/-- BARBUSY for a byte of a window, by its relative team (R126). -/
def barbusy (d reason off : Nat) : Cause × W64 := (.barbusy, w64 (off + reason * 2 ^ 20 + d * 2 ^ 24))

/-- Where an aperture access overlaps a valid barrier object: relative team and lowest overlapping byte. -/
def State.apertureHit (s : State) (g : Group) (a : Access) : Option (Nat × Nat) :=
  match s.aperturePlace g a with
  | some (t, off) => (s.barrierHit t off a.n).map fun b => ((a.va.toNat - apertureBase) / 2 ^ 20 % 4, b)
  | none => none

/-- BARBUSY of aperture accesses (R116): that of the lowest lane; of the rows and the strip of one panel or accumulator, that of
the lowest overlapping byte (R126). -/
def State.apertureBarbusy (s : State) (g : Group) (accs : List Access) : Option (Cause × W64) :=
  match accs.filterMap (s.apertureHit g) with
  | [] => none
  | x :: t =>
    let y := if accs.all fun a => decide (1000 ≤ a.lane) then t.foldl (fun m p => if p.2 < m.2 then p else m) x else x
    some (barbusy y.1 4 y.2)

/-! ## Translation of the accesses -/

/-- How the translation of a list of accesses fails. -/
inductive AFail where
  | fault (r : FaultRec)
  | perm (va : W64)
  /-- a table word with an uncorrectable error: the address of the access, and where the word stands (R48). -/
  | bad (va : W64) (pa : Nat)
  | reg
deriving DecidableEq, Repr

/-- Translate accesses in order; an aperture access goes to the issuing team's window (R99). -/
def State.placeAll (s : State) (g : Group) (k : Kind) : List Access → State × Except AFail (List Access)
  | [] => (s, .ok [])
  | a :: t =>
    match s.aperturePlace g a with
    | some (team, off) =>
      match s.placeAll g k t with
      | (s, .ok l) => (s, .ok ({ a with place := .loc team off } :: l))
      | r => r
    | none =>
      match s.resolve (s.agent g) a.va a.n k (s.workId g) with
      | (s, .ok ps) =>
        match s.placeAll g k t with
        | (s, .ok l) => (s, .ok ({ a with place := .phys ps } :: l))
        | r => r
      | (s, .fault r) => (s, .error (.fault r))
      | (s, .perm) => (s, .error (.perm a.va))
      | (s, .bad pa) => (s, .error (.bad a.va pa))
      | (s, .reg) => (s, .error .reg)

/-- The attempt that a failed translation of an interlocked instruction ends in (R365, R370). -/
def failRes (s : State) : AFail → Res
  | .fault r => .fault s r
  | .perm va => .freeze s 0x20 va.toNat 0
  | .bad va pa => .freeze s (s.badCause pa) va.toNat pa
  | .reg => .stop .deviceRegister

/-! ## What the kiln records (R234, R235) -/

/-- log2 of an access size (R234). -/
def logSize (n : Nat) : Nat := if n = 16 then 4 else if n = 8 then 3 else if n = 4 then 2 else if n = 2 then 1 else 0

/-- The 32 bytes of an entry of the step store buffer. -/
def REntry.bytes (e : REntry) : List Byte :=
  natBytes 8 e.addr.toNat
    ++ natBytes 8 ((if e.store then 1 else 0) + (if e.loc then 2 else 0) + e.lg * 4)
    ++ e.data ++ List.replicate (16 - e.data.length) 0

/-- Write bytes of a window except those of valid barrier objects (R115). -/
def State.windowWriteKeep (s : State) (team off : Nat) (bs : List Byte) : State :=
  if (s.barrierHit team off bs.length).isNone then s.windowWrite team off bs
  else (List.range bs.length).foldl (fun s i =>
    if (s.barrierHit team (off + i) 1).isNone then s.windowWrite team (off + i) [bs.getD i 0] else s) s

/-- Append an entry to a step's list and write it to the buffer; a full list puts the step into the overflow set. -/
def State.kilnRecord (s : State) (team step : Nat) (e : REntry) : State :=
  match s.team? team with
  | none => s
  | some t =>
    let r := t.region
    let l := aget r.entries step []
    if r.cap ≤ l.length then
      s.setTeam { t with region := { r with overs := if r.overs.contains step then r.overs else r.overs ++ [step] } }
    else
      (s.setTeam { t with region := { r with entries := aset r.entries step (l ++ [e]) } }).windowWriteKeep team
        (r.buf + (step - 1) * r.cap * 32 + l.length * 32) e.bytes

/-- Step to which an access belongs: its lane's, or the lowest executing lane's for a scalar one (R235). -/
def Ctx.stepOf (c : Ctx) (r : Region) (a : Access) : Nat :=
  r.step c.g (if a.lane < scalarLane then a.lane else c.lanes.headD 0)

/-- Record the accesses of a body load or store; `data` gives the bytes of a store. -/
def Ctx.record (c : Ctx) (s : State) (store : Bool) (accs : List Access) (data : Nat → List Byte) : State :=
  match s.inRegion c.g, s.regionOf c.g with
  | .body, some r =>
    accs.foldl (fun s a =>
      let isLoc := inAperture c.g a.va
      s.kilnRecord c.g.team (c.stepOf r a)
        { addr := if isLoc then a.va - w64 apertureBase else a.va, store := store, loc := isLoc, lg := logSize a.n,
          data := if store then data a.lane else [], place := a.place }) s
  | _, _ => s

/-! ## Places -/

/-- Two ranges overlap. -/
def meets (a n b m : Nat) : Bool := a < b + m && b < a + n

/-- Two places share a byte; `n` and `m` are their sizes. -/
def Place.meets : Place → Nat → Place → Nat → Bool
  | .phys ps, _, .phys qs, _ => ps.any fun p => qs.any fun q => Machine.meets p.pa p.n q.pa q.n
  | .loc t a, n, .loc u b, m => t == u && Machine.meets a n b m
  | _, _, _, _ => false

/-- Lines of virtual memory that an access touches. -/
def Access.lines (a : Access) : List Nat := (pieces (a.n / 128 + 2) a.va.toNat a.n).map fun p => p.1 / 128

/-- Two accesses touch a common line (R365). -/
def Access.sharesLine (a b : Access) : Bool := a.lines.any fun l => b.lines.contains l

/-- Serve a load of one line for a group: a core from the home slice, a tile through its cache and store path (R69, R71,
R72). -/
def State.groupLine (s : State) (g : Group) (tile line attr : Nat) (wide : Bool) (hint : Nat) : State × List Byte :=
  if g.core.isSome then (if attr = 2 then s else s.touch line hint, s.homeRead (line * 128) 128)
  else s.lineRead tile line attr wide hint

/-- The group takes bytes that stand in a line that was read for it. -/
def State.takeBytes (s : State) (g : Group) (tile : Nat) (p : Piece) : State :=
  if g.core.isSome then s else s.setTile tile ((s.tile tile).noteSeen g.id p.pa p.n)

/-- Serve the parts of a load, one after another. -/
def State.readPieces (s : State) (g : Group) (tile : Nat) (wide : Bool) (hint : Nat) : List Piece → State × List Byte
  | [] => (s, [])
  | p :: t =>
    let (s, line) := s.groupLine g tile (p.pa / 128) p.attr (wide && p.attr == 0) hint
    let (s, rest) := (s.takeBytes g tile p).readPieces g tile wide hint t
    (s, (line.drop (p.pa % 128)).take p.n ++ rest)

/-- The first byte of an access at `va` with an uncorrectable error (R48), in the parts that are read and that no copy hides: its
virtual and its physical address (R370). -/
def State.badPiece (s : State) (g : Group) (tile : Nat) (wide : Bool) (va : W64) (read : Piece → Bool) (ps : List Piece) :
    Option (Nat × Nat) :=
  (s.badIn (fun p => read p
    && (g.core.isSome || !(wide && p.attr == 0) || ((s.tile tile).cline? (p.pa / 128)).isNone)) va.toNat ps)

/-- What the stores of one instruction of a group have in common in the store path. -/
def Group.storeEntry (g : Group) (hint : Nat) (rel : Bool := false) (log : Option Nat := none) (inst : Nat := 0) : PathEntry :=
  { id := 0, grp := g.id, pa := 0, op := .store [], hint := hint, rel := rel, log := log, inst := inst }

/-- Enter the parts of a store of a tile into its path, or perform those of a core at home (R68, R72); a device line is held
nowhere (R69). -/
def State.storePieces (s : State) (g : Group) (e : PathEntry) : List Piece → List Byte → State
  | [], _ => s
  | p :: t, bs =>
    let dev := p.attr == 2 || e.dev
    let hint := if p.attr == 2 then 3 else e.hint
    let d := bs.take p.n
    let s :=
      if g.core.isSome then s.homeWrite p.pa d hint e.inst
      else s.pathStore ((s.groupTile g).getD 0) { e with pa := p.pa, op := .store d, hint := hint, dev := dev }
    s.storePieces g e t (bs.drop p.n)

/-- Store bytes at a resolved place. A valid barrier object in the window keeps its bytes: what was none when a `cstore` issued
may have become one since (R117; DEDUCED, log entry 47). -/
def State.storePlace (s : State) (g : Group) (e : PathEntry) (p : Place) (bs : List Byte) : State :=
  match p with
  | .todo => s
  | .loc team off => s.windowWriteKeep team off bs
  | .phys ps => s.storePieces g e ps bs

/-! ## Atomics (R86, R88) -/

/-- The new word of a 32-bit atomic. -/
def AOp.newWord (op : AOp) (old v e : W32) : W32 :=
  match op with
  | .fadd => w32 (eAdd fmtF32 0 .rne old.toNat v.toNat 0).1
  | .famax =>
    if (fmtF32.decode old.toNat).isNan || (fmtF32.decode v.toNat).isNan then w32 fmtF32.nanCode
    else
      let a := old &&& 0x7FFFFFFF
      let b := v &&& 0x7FFFFFFF
      if a.ult b then b else a
  | .famaxrst => 0
  | op => op.newInt old v e

/-- Perform an atomic at its home: the old value, and the state after (R86). -/
def State.atomicAt (s : State) (pa : Nat) (op : AOp) (v e : W64) (hint : Nat) : State × W64 :=
  match op with
  | .add64 =>
    let old := s.homeW64 pa
    (s.homeWrite pa (natBytes 8 (old + v).toNat) hint, old)
  | op =>
    let old := w32 (bytesNat (s.homeRead pa 4))
    (s.homeWrite pa (natBytes 4 (op.newWord old (v.setWidth 32) (e.setWidth 32)).toNat) hint, old.zeroExtend 64)

/-- Issue an atomic of a lane at a resolved place: into the tile's path, or at home for a core (DESIGN CHOICE, log entry
22). `ret` is the log entry and lane that wait for the old value. -/
def State.issueAtomic (s : State) (g : Group) (hint : Nat) (op : AOp) (v e : W64) (ret : Option (Nat × Nat)) (a : Access) :
    State :=
  match a.place with
  | .phys (q :: _) =>
    let pa := q.pa
    if g.core.isSome then
      let (s, old) := s.atomicAt pa op v e hint
      match ret with
      | some (id, lane) =>
        { s with log := s.log.map fun k => if k.id == id then { k with bound := k.bound ++ [(lane, old.toNat)] } else k }
      | none => s
    else s.pathStore ((s.groupTile g).getD 0) { id := 0, grp := g.id, pa := pa, va := a.va, op := .atomic op v e ret, hint := hint }
  | _ => s

/-- The access of an atomic of a stoker core whose word has an uncorrectable error: it halts the core before any lane is
performed (R93, R369). -/
def State.coreAtomicBad (s : State) (g : Group) (accs : List Access) : Option (W64 × Nat) :=
  if g.core.isNone then none
  else accs.findSome? fun a => match a.place with
    | .phys ps => (ps.find? fun p => s.badRead p.pa p.n).map fun p => (a.va, p.pa)
    | _ => none

/-! ## The operand log -/

/-- Take an entry of the log for the issuing instruction and raise its flag (R38, R364). -/
def Ctx.logIssue (c : Ctx) (s : State) (op : LogOp) (f : LogEntry → LogEntry) : State × Nat :=
  let (id, s) := s.takeId
  let flag := if c.o.fs then c.cl.setb else c.cl.seta
  let e : LogEntry :=
    { id := id, tile := s.logOf c.g, grp := c.g.id, pc := c.cl.next, clause := c.cl, flag := flag, op := op, lanes := c.act,
      mode := c.g.csrs.mode, dests := c.dests, tlevel := c.g.flow.tl,
      nbp := if c.e.nb then some (c.g.pref c.e.nbp.toNat) else none, born := s.time }
  let s := s.onGroup c.g.id fun g => { g with cf := lset g.cf flag (g.cf.getD flag 0 + 1) }
  ({ s with log := s.log ++ [f e] }, id)

/-- The last of an instruction in the log: tags, flags, its completion flag, its entry (R38, R134). -/
def State.finishEntry (s : State) (e : LogEntry) : State :=
  (s.onGroup e.grp fun g =>
    let g := e.dests.foldl (fun (g : Group) d => g.setTag d e.tag) g
    { g.orFlags e.fl with cf := lset g.cf e.flag (g.cf.getD e.flag 0 - 1) }).dropEntry e.id

/-- The entry waits on the token of a freeze of its group, for a replay (R371). That of a group that is frozen, or owes a freeze, already
has consumed nothing yet, and tries again once the group goes on. -/
def State.freezeEntry (s : State) (g : Group) (id cause va ipa : Nat) : State :=
  let stands := match s.group? g.id with | some h => h.frozen.isSome || h.owed.isSome | none => false
  let s := if stands then s else s.freeze g cause va ipa
  match (if stands then none else s.group? g.id) with
  | some { frozen := some f, .. } =>
    { s with log := s.log.map fun e => if e.id == id then { e with state := .waiting f.token } else e }
  | _ => s

/-- Kind of the accesses of an entry. -/
def LogOp.kind : LogOp → Kind
  | .atomic _ _ _ => .atomic
  | .pst => .write
  | .cstore _ _ => .write
  | _ => .read

/-- What becomes of an entry whose translation fails: it waits on a fault, or its group freezes (R365, R370). -/
def State.entryFails (s : State) (g : Group) (id : Nat) (f : AFail) : State :=
  match f with
  | .perm va => s.freezeEntry g id 0x20 va.toNat 0
  | .bad va pa => s.freezeEntry g id (s.badCause pa) va.toNat pa
  | .reg => s
  | .fault r =>
    if g.core.isSome then s.haltCore g
    else match s.postFault r (.entry g.id id) with
      | none => s
      | some (num, s) =>
        { s with log := s.log.map fun e => if e.id == id then { e with state := .waiting num } else e }

/-! ## Binding (R257, R258) -/

/-- What binding gives. -/
inductive BRes where
  | ok (s : State)
  | wait
  /-- the data has an uncorrectable error: the entry's group freezes. -/
  | bad (s : State)
deriving DecidableEq, Repr

/-- The entry is a load. -/
def LogEntry.isLoad (e : LogEntry) : Bool := match e.op with | .load _ _ _ _ _ => true | _ => false

/-- The value of the lane is fixed. -/
def LogEntry.isBound (e : LogEntry) (lane : Nat) : Bool := e.bound.any fun p => p.1 == lane

/-- Every lane is bound. -/
def LogEntry.allBound (e : LogEntry) : Bool := e.accs.all fun a => e.isBound a.lane

/-- An earlier atomic of the group on these bytes is still on its way (R258). -/
def State.atomicInFlight (s : State) (e : LogEntry) (a : Access) : Bool :=
  (s.tile e.tile).path.any fun p => p.grp == e.grp && p.id < e.id
    && match p.op with
      | .atomic op _ _ _ => a.place.meets a.n (.phys [{ pa := p.pa, n := op.size }]) op.size
      | _ => false

/-- Drop every line of a tile's cache. -/
def State.dropCache (s : State) (tile : Nat) : State := s.setTile tile { s.tile tile with cache := [] }

/-- AN ACQUIRE OF A GROUP (R82, R90, R124): the tile cache drops its lines, unless the scope is tile-wide. A later release covers
the stores of its tile that were visible to it there, for synchronisation is transitive (R266). -/
def State.acquireAt (s : State) (g : Group) (scope : Nat) : State :=
  match s.groupTile g with
  | some t => let s := s.seePaths g; if s.tileWide g scope then s else s.dropCache t
  | none => s

/-- An acquire whose last lane has bound (R82). -/
def State.acquired (s : State) (g : Group) (e : LogEntry) : State :=
  match e.op with
  | .load _ _ true scope _ => if e.allBound then s.acquireAt g scope else s
  | _ => s

/-- The bytes of an access whose lines have all been read. -/
def valueIn (reads : List (Nat × List Byte)) (ps : List Piece) : Option (List Byte) :=
  ps.foldr (fun p acc =>
    match acc, reads.find? fun r => r.1 == p.pa / 128 with
    | some bs, some r => some ((r.2.drop (p.pa % 128)).take p.n ++ bs)
    | _, _ => none) (some [])

/-- Parts of an access that lie on device lines, each a transaction of its own (R69). -/
def Access.isDev (a : Access) : Bool := match a.place with | .phys ps => ps.any fun p => p.attr == 2 | _ => false

/-- Parts of an access that the entry has still to read: of a line once for all lanes (R78). -/
def LogEntry.toRead (e : LogEntry) (a : Access) : List Piece :=
  match a.place with
  | .phys ps => ps.filter fun p => p.attr == 2 || !(e.reads.any fun r => r.1 == p.pa / 128)
  | _ => []

/-- The accesses that reading these parts for one lane feeds: the lane's own, and of a line that is no device line those of
every lane that touches it. -/
def LogEntry.fed (e : LogEntry) (a : Access) (ps : List Piece) : List Access :=
  if a.isDev then [a]
  else e.accs.filter fun b => !e.isBound b.lane && !b.isDev
    && match b.place with | .phys qs => qs.any fun q => ps.any fun p => p.pa / 128 == q.pa / 128 | _ => false

/-- Parts of an access in the lines of others. -/
def Access.partsIn (b : Access) (ps : List Piece) : List Piece :=
  match b.place with
  | .phys qs => qs.filter fun q => ps.any fun p => p.pa / 128 == q.pa / 128
  | _ => []

/-- Read lines for a group, in order. -/
def State.readLines (s : State) (g : Group) (tile : Nat) (wide : Bool) (hint : Nat) : List Piece → State × List (Nat × List Byte)
  | [] => (s, [])
  | p :: t =>
    let (s, d) := s.groupLine g tile (p.pa / 128) p.attr (wide && p.attr == 0) hint
    let (s, rest) := s.readLines g tile wide hint t
    (s, (p.pa / 128, d) :: rest)

/-- What an entry has once lines were read for one lane. -/
def LogEntry.withReads (e : LogEntry) (a : Access) (rs : List (Nat × List Byte)) : LogEntry :=
  let reads := if a.isDev then e.reads else e.reads ++ rs
  let now := e.accs.filterMap fun b =>
    match b.place with
    | .phys qs =>
      if e.isBound b.lane || (b.isDev && b.lane != a.lane) then none
      else (valueIn (if b.isDev then rs else reads) qs).map fun bs => (b.lane, bytesNat bs)
    | _ => none
  { e with reads := reads, bound := e.bound ++ now }

/-- Read the lines that one lane of a load needs: they bind every lane of it that then has all its bytes (R78, R257). -/
def State.bindOne (s : State) (id lane : Nat) : BRes :=
  match s.entry? id with
  | none => .ok s
  | some e =>
    match e.op, e.accs.find? (fun a => a.lane == lane), s.group? e.grp with
    | .load _ _ _ scope hint, some a, some g =>
      let ps := e.toRead a
      let fed := e.fed a ps
      if e.isBound lane then .ok s
      else if e.state != .running || a.place == .todo || fed.any (s.atomicInFlight e) then .wait
      else
        let wide := s.tileWide g scope
        match fed.findSome? fun b => match b.place with
            | .phys qs => s.badPiece g e.tile wide b.va (fun q => ps.any fun p => p.pa / 128 == q.pa / 128) qs
            | _ => none with
        | some (va, pa) => .bad (s.freezeEntry g id (s.badCause pa) va pa)
        | none =>
          let (s, rs) := s.readLines g e.tile wide hint ps
          let s := fed.foldl (fun s b => (b.partsIn ps).foldl (fun s p => s.takeBytes g e.tile p) s) s
          let e := e.withReads a rs
          .ok ((s.setEntry e).acquired g e)
    | _, _, _ => .ok s

/-- Accesses of a load that are still to bind, and of device lines those of the lower lanes, which go first (R69). -/
def LogEntry.withLower (e : LogEntry) (p : Access → Bool) : List Access :=
  e.accs.filter fun a => !e.isBound a.lane && (p a || (a.isDev && e.accs.any fun b => b.isDev && p b && decide (a.lane < b.lane)))

/-- The lanes of earlier loads that are to bind before accesses, each through those after it: number and lane, oldest first
(R258). The list is newest first. -/
def lapping : List LogEntry → List Access → List (Nat × Nat) → List (Nat × Nat)
  | [], _, acc => acc
  | e :: t, as, acc =>
    let hit := if e.isLoad then e.withLower fun a => !e.isBound a.lane
        && as.any fun b => b.lane == a.lane && b.place.meets b.n a.place a.n
      else []
    lapping t (hit.flatMap (fun a => e.fed a (e.toRead a)) ++ as) (hit.map (fun a => (e.id, a.lane)) ++ acc)

/-- Insert an entry by its place in program order. -/
def insertByTurn (e : LogEntry) : List LogEntry → List LogEntry
  | [] => [e]
  | f :: t => if e.turn ≤ f.turn then e :: f :: t else f :: insertByTurn e t

/-- Entries in program order (R209). -/
def byTurn (l : List LogEntry) : List LogEntry := l.foldr insertByTurn []

/-- Loads of the group that stand before the place `upTo` in its order, newest first; what a handler found in the log stands behind it
(R365). -/
def State.earlierOf (s : State) (grp upTo : Nat) : List LogEntry :=
  (byTurn (s.log.filter fun e => e.grp == grp && e.turn < upTo && !s.atReturn e)).reverse

/-- Bind lanes of loads in order. -/
def State.bindList (s : State) : List (Nat × Nat) → BRes
  | [] => .ok s
  | p :: t =>
    match s.bindOne p.1 p.2 with
    | .ok s => s.bindList t
    | r => r

/-- Bind a lane of a load, on device lines after the lower lanes (R69), and each after the earlier loads of its lane on the
same bytes (R258). -/
def State.bindLane (s : State) (id lane : Nat) : BRes :=
  match s.entry? id with
  | none => .ok s
  | some e =>
    let as := e.withLower fun a => a.lane == lane
    s.bindList (lapping (s.earlierOf e.grp e.turn) (as.flatMap fun a => e.fed a (e.toRead a)) []
      ++ as.map fun a => (id, a.lane))

/-- Before a store or atomic of these accesses, the earlier loads of each lane on the same bytes bind (R258). -/
def State.bindBefore (s : State) (g : Group) (upTo : Nat) (accs : List Access) : BRes :=
  s.bindList (lapping (s.earlierOf g.id upTo) accs [])

/-- Go on after binding. -/
def BRes.andThen (r : BRes) (f : State → Res) : Res :=
  match r with
  | .ok s => f s
  | .wait => .stall .order
  | .bad s => .stay s

/-! ## Issue into the log -/

/-- The places of an entry's accesses; `dread` knows no aperture (R99). -/
def State.placeEntry (s : State) (g : Group) (e : LogEntry) : State × Except AFail (List Access) :=
  match e.op, e.accs with
  | .dread, a :: _ =>
    match s.resolve (s.agent g) a.va a.n .read none with
    | (s, .ok ps) => (s, .ok [{ a with place := .phys ps }])
    | (s, .fault r) => (s, .error (.fault r))
    | (s, .perm) => (s, .error (.perm a.va))
    | (s, .bad pa) => (s, .error (.bad a.va pa))
    | (s, .reg) => (s, .error .reg)
  | op, accs => s.placeAll g op.kind accs

/-- At issue, the accesses of a load, a `pld` or a `pst` through the aperture are performed, in the group's program order and ahead of
any translation (R99, R103, R114, R117). -/
def State.issueLocals (s : State) (g : Group) (e : LogEntry) : State :=
  let accs := e.accs.map fun a =>
    match s.aperturePlace g a with | some (t, off) => { a with place := .loc t off } | none => a
  let e := { e with accs := accs }
  match e.op with
  | .load n _ _ _ _ =>
    let e := { e with bound := e.bound ++ accs.filterMap fun a =>
      match a.place with | .loc t off => some (a.lane, bytesNat (s.windowRead t off n)) | _ => none }
    (s.setEntry e).acquired g e
  | .pld _ =>
    s.setEntry { e with bound := e.bound ++ accs.filterMap fun a =>
      match a.place with | .loc t off => some (a.lane, bytesNat (s.windowRead t off a.n)) | _ => none }
  | .pst =>
    let e := if e.untranslated then e else { e with written := 1 }
    accs.foldl (fun s a => match a.place with
      | .loc t off => s.windowWriteKeep t off (natBytes a.n (aget e.bound a.lane 0))
      | _ => s) (s.setEntry e)
  | _ => s

/-- An access to a window that has to wait for the range scoreboard (R114). -/
def State.locScored (s : State) (accs : List Access) : Bool :=
  accs.any fun a => match a.place with | .loc t off => s.scoreHit t off a.n false | _ => false

/-- Translate the accesses of an entry that are still to be translated; all go or none. An atomic enters the path once
the earlier loads of its lanes on its bytes have bound; a `pst` writes all of its bytes, those in a window again, once no
copy's interval holds them (R216, R114). -/
def State.resolveEntry (s : State) (id : Nat) : State × Option AFail :=
  match s.entry? id with
  | none => (s, none)
  | some e =>
    match s.group? e.grp with
    | none => (s, none)
    | some g =>
      if !e.untranslated then (s, none)
      else
        match s.placeEntry g e with
        | (s, .error f) => (s.entryFails g id f, some f)
        | (s, .ok accs) =>
          let e := { e with accs := accs, state := .running }
          match e.op with
          | .atomic op _ hint =>
            match s.coreAtomicBad g accs with
            | some (va, pa) => (s.freezeEntry g id (s.badCause pa) va.toNat pa, none)
            | none =>
              match s.bindBefore g e.turn accs with
              | .wait => (s, none)
              | .bad s => (s, none)
              | .ok s =>
                (accs.foldl (fun s a =>
                  let o := (e.opnds.find? fun p => p.1 == a.lane).map (fun p => p.2) |>.getD (0, 0)
                  s.issueAtomic g hint op o.1 o.2 (some (id, a.lane)) a) (s.setEntry e), none)
          | .pst =>
            if s.locScored accs then (s, none)
            else
              (accs.foldl (fun s a => s.storePlace g (g.storeEntry 0 false (some id) id) a.place
                (natBytes a.n (aget e.bound a.lane 0))) (s.setEntry { e with written := 1 }), none)
          | _ => (s.setEntry e, none)

/-- Issue of an instruction of the log that accesses memory: its local accesses are made, and the others translated, at once
(R103, R365). -/
def State.settleEntry (s : State) (g : Group) (id : Nat) : Res :=
  match s.entry? id with
  | none => .ok s
  | some e =>
    match (s.issueLocals g e).resolveEntry id with
    | (_, some .reg) => .stop .deviceRegister
    | (s, _) => .ok s

/-! ## Waits (R82, R84, R90) -/

/-- Entries of the group that a wait covers, those of R209, R212 and R213 among them: its own, a suspended one apart (R209); at trap level
those issued there (R164, R365; for accumulators and panels DEDUCED, log entry 56). -/
def State.ownLog (s : State) (g : Group) : List LogEntry :=
  s.log.filter fun e => e.grp == g.id && e.state != .suspended && (!g.flow.tl || e.tlevel)

/-- An acquire of the group has a lane that is not bound (R82), or a message not received (R280). -/
def State.acquirePending (s : State) (g : Group) : Bool :=
  (s.ownLog g).any fun e => match e.op with | .load _ _ true _ _ => !e.allBound | .mbrecv _ _ => e.bound.isEmpty | _ => false

/-- Every earlier load and return-form atomic of the group has bound, a `pld` has read (R90, R216). -/
def State.loadsBound (s : State) (g : Group) : Bool :=
  (s.ownLog g).all fun e => match e.op with
    | .load _ _ _ _ _ => e.allBound
    | .atomic _ _ _ => e.allBound
    | .pld _ => false
    | _ => true

/-- Beside that, `pst` and `cstore` have entered the store path (R84). -/
def State.accessesMade (s : State) (g : Group) : Bool :=
  s.loadsBound g && (s.ownLog g).all fun e => match e.op with
    | .pst => !e.untranslated
    | .cstore _ _ => e.written != 0
    | _ => true

/-- A store or atomic in a store path that a release of the group covers: its own, and one that an earlier load of it returned or an
earlier acquire of it found there (R84, R266, R267). -/
def PathEntry.covered (e : PathEntry) (grp : Nat) : Bool := e.grp == grp || e.seen.contains grp

/-- Nothing that a release of the group covers is left in the paths of these tiles. -/
def State.tilesClear (s : State) (g : Group) (tiles : List Nat) : Bool :=
  tiles.all fun t => (s.tile t).path.all fun p => !p.covered g.id

/-- Nothing that a release of the group covers is left in a store path. -/
def State.pathClear (s : State) (g : Group) : Bool := s.tilesClear g (s.pathTiles g)

/-- The same of the tile of the pair that is not the group's own: a release store in the group's own path does not
order those. -/
def State.otherClear (s : State) (g : Group) : Bool :=
  s.tilesClear g ((s.pathTiles g).filter fun t => some t != s.groupTile g)

/-- The group's atomics have left the store path: no load is served from them there, so a tile-wide release waits for them
too, as its synchronisation needs (R262, R266, R278; DEDUCED, log entry 22). -/
def State.atomicsHome (s : State) (g : Group) : Bool :=
  (s.pathTiles g).all fun t => (s.tile t).path.all fun p =>
    p.grp != g.id || match p.op with | .store _ => true | _ => false

/-- Every earlier access of the group is performed with respect to the reach of a scope (R84, R267; DESIGN CHOICE,
log entry 22). -/
def State.released (s : State) (g : Group) (scope : Nat) : Bool :=
  s.accessesMade g && (if s.tileWide g scope then s.atomicsHome g else s.pathClear g)

/-- Wait for the release of earlier accesses, then go on. -/
def Ctx.afterRelease (c : Ctx) (s : State) (scope : Nat) (r : Res) : Res :=
  if s.released c.g scope then r else .stall .order

/-- What holds every access of R82: an acquire that has not bound. -/
def Ctx.afterAcquires (c : Ctx) (s : State) (r : Res) : Res := if s.acquirePending c.g then .stall .order else r

/-- A load that touches a line of an instruction waiting on a fault is held (R365), or takes its QUOTA (R366). -/
def Ctx.afterWaiters (c : Ctx) (s : State) (accs : List Access) (r : Res) : Res :=
  let touches (e : LogEntry) : Bool := e.accs.any fun a => accs.any fun b => a.sharesLine b
  match c.quotaDue ((s.quotaEntries c.g).any touches) with
  | some t => .stay (s.takeQuota c t)
  | none => if (s.waitersOf c.g).any touches then .stall .behind else r

end Sys2Proof.Machine
end

