-- ==== Sys2Proof/Machine/Barriers.lean ====
section
/-! DEFINITION. Barrier objects and the team barrier (05 R115 to R124), and batches of copies (05 R111). -/
namespace Sys2Proof.Machine

/-! ## A barrier object (R115) -/

/-- The two words of the object at an offset of a team's window. -/
def State.barWords (s : State) (team off : Nat) : W64 × W64 :=
  let bs := s.windowRead team off 16
  (w64 (bytesNat (bs.take 8)), w64 (bytesNat (bs.drop 8)))

/-- Replace the two words. -/
def State.setBarWords (s : State) (team off : Nat) (w : W64 × W64) : State :=
  s.windowWrite team off (natBytes 8 w.1.toNat ++ natBytes 8 w.2.toNat)

/-- The fields of a valid object. -/
structure Bar where
  phase : Nat
  expect : Nat
  arrived : Nat
  waiters : Bool
  stray : Bool
  acks : Nat
  bytes : Int
deriving DecidableEq, Repr

/-- Read the fields. -/
def State.bar (s : State) (team off : Nat) : Bar :=
  let w := s.barWords team off
  { phase := fld w.1 63 48, expect := fld w.1 47 32, arrived := fld w.1 31 16, waiters := bit w.1 2, stray := bit w.1 1,
    acks := fld w.2 63 48, bytes := (BitVec.ofNat 32 (fld w.2 31 0)).toInt }

/-- Write the fields of a valid object. -/
def State.setBar (s : State) (team off : Nat) (b : Bar) : State :=
  s.setBarWords team off
    (w64 (b.phase % 2 ^ 16 * 2 ^ 48 + b.expect % 2 ^ 16 * 2 ^ 32 + b.arrived % 2 ^ 16 * 2 ^ 16
        + (if b.waiters then 4 else 0) + (if b.stray then 2 else 0) + 1),
     w64 (b.acks % 2 ^ 16 * 2 ^ 48 + (BitVec.ofInt 32 b.bytes).toNat))

/-- The object is valid (R116). -/
def State.barValid (s : State) (team off : Nat) : Bool := (s.barriersOf team).contains off

/-- Release the groups that wait on an object, with a result (R118, R121). -/
def State.releaseWaiters (s : State) (team off : Nat) (v : Bool) : State :=
  (s.groups.filter fun g => match g.hold with | .bwait t o _ _ _ => t == team && o == off | _ => false).foldl
    (fun s g =>
      match g.hold with
      | .bwait _ _ d lanes words =>
        let s := if v then s.acquireAt g 2 else s
        s.onGroup g.id fun g =>
          ({ g.setPval d lanes (if v then lanes else 0) with hold := .none }).advance words true
      | _ => s) s

/-- The test after every change of a valid object (R118). -/
def State.barTest (s : State) (team off : Nat) : State :=
  let b := s.bar team off
  if b.arrived = b.expect && b.bytes = 0 && b.acks = 0 then
    (s.setBar team off { b with phase := b.phase + 1, arrived := 0, waiters := false }).releaseWaiters team off true
  else s

/-- STRAY of an object that is not valid (R118, R121): bit 1 of its word 0, nothing else. -/
def State.setStray (s : State) (team off : Nat) : State :=
  s.windowWrite team off [((s.windowRead team off 1).getD 0 0) ||| 2]

/-- STRAY of a valid object (R116). -/
def State.strayValid (s : State) (team off : Nat) : State :=
  s.setBar team off { s.bar team off with stray := true }

/-- `Deliver` (R118). -/
def State.deliver (s : State) (team off n : Nat) : State :=
  if s.barValid team off then
    let b := s.bar team off
    (s.setBar team off { b with bytes := b.bytes - n }).barTest team off
  else s.setStray team off

/-- An acknowledgement arrives (R122). -/
def State.acknowledge (s : State) (team off count : Nat) : State :=
  if s.barValid team off then
    let b := s.bar team off
    (s.setBar team off { b with acks := b.acks + 2 ^ 16 - count }).barTest team off
  else s.setStray team off

/-- A copy in flight names the object: as its barrier, or as a receiver's (R121). -/
def State.copyNames (s : State) (team off : Nat) : Bool :=
  s.copies.any fun c => c.bar == some (team, off)
    || (c.recvBar == some off && c.lanes.any fun l => l.recvs.contains team)

/-! ## The team barrier (R123) -/

/-- The group has exited: no lane is left. -/
def Group.gone (g : Group) : Bool := g.retired || g.running == 0

/-- Release the groups of a team held in `bteam` once every group that has not exited has arrived. -/
def State.bteamCheck (s : State) (team : Nat) : State :=
  match s.team? team with
  | none => s
  | some t =>
    let here (g : Group) : Bool := g.core.isNone && g.team == team
    if !t.arrived.isEmpty && s.groups.all (fun g => !here g || g.gone || t.arrived.contains g.id) then
      let s := s.setTeam { t with arrived := [] }
      (s.groups.filter here).foldl (fun s g =>
        match g.hold with
        | .bteam words => (s.acquireAt g 1).onGroup g.id fun g => ({ g with hold := .none }).advance words true
        | _ => s) s
    else s

/-! ## Batches (R111) -/

/-- Numbers of the unfinished batches of a group. -/
def State.unfinished (s : State) (grp : Nat) : List Nat :=
  ((s.copies.filter fun c => c.grp == grp).filterMap fun c => c.batch).eraseDups

/-- The open batch of a group is closed, and its number written (R111). -/
def State.closeBatch (s : State) (g : Group) (d : Dest) : State :=
  let k := g.nextBatch
  let s : State := { s with copies := s.copies.map fun cp =>
    if cp.grp == g.id && cp.batch.isNone then { cp with batch := some k } else cp }
  s.onGroup g.id fun g => { g.setSval d (w64 k) with nextBatch := (k + 1) % 2 ^ 16 }

/-- A group held until few enough batches are unfinished completes its `cpwait` or `cpseal`. -/
def State.batchCheck (s : State) (grp : Nat) : State :=
  match s.group? grp with
  | some g =>
    match g.hold with
    | .batches n d words =>
      if n < (s.unfinished grp).length then s
      else
        let s := match d with | some d => s.closeBatch g d | none => s
        s.onGroup grp fun g => ({ g with hold := .none }).advance words true
    | _ => s
  | none => s

end Sys2Proof.Machine
end

