-- ==== Sys2Proof/Machine/LoadStore.lean ====
section
/-! DEFINITION. Loads LDG, stores STG, atomics AT and ATS, cache and ordering control MO (04 R76 to R93; 05 R99; 12
R233 to R235 in a relaxation body). -/
namespace Sys2Proof.Machine

/-- A check that carries its own trap. -/
def optCheck (x : Option (Cause × W64)) : Bool × (Cause × W64) := (x.isSome, x.getD (illop 0x0D))

/-! ## LDG (R80 to R82) -/

/-- A load of `n` bytes. -/
def ldg (n : Nat) (signed acq scal : Bool) (c : Ctx) (s : State) : Res :=
  let accs := c.accs scal n
  checked c s (if scal then [] else c.needBw intTags) [(accs.any (s.apertureBad c.g), illop 0x0D)] <|
    c.afterAcquires s <| c.afterWaiters s accs <|
      if accs.any (s.apertureScored c.g true) then .stall .resource
      else
        let op : LogOp := if c.anyLane then .load n signed acq c.e.scope.toNat c.e.hint.toNat else .nothing
        let (s, id) := c.logIssue s op fun e => { e with scalar := scal, tag := c.e.xmod, accs := accs }
        (c.record s false accs fun _ => []).settleEntry c.g id

/-- `ld8s`. -/
def execLd8s (o : Ops) (s : State) : Out := issue 0x12 0 o (ldg 1 true false false) s

/-- `ld8z`. -/
def execLd8z (o : Ops) (s : State) : Out := issue 0x12 1 o (ldg 1 false false false) s

/-- `ld16s`. -/
def execLd16s (o : Ops) (s : State) : Out := issue 0x12 2 o (ldg 2 true false false) s

/-- `ld16z`. -/
def execLd16z (o : Ops) (s : State) : Out := issue 0x12 3 o (ldg 2 false false false) s

/-- `ld32`. -/
def execLd32 (o : Ops) (s : State) : Out := issue 0x12 4 o (ldg 4 false false false) s

/-- `ld64`. -/
def execLd64 (o : Ops) (s : State) : Out := issue 0x12 5 o (ldg 8 false false false) s

/-- `ld128`. -/
def execLd128 (o : Ops) (s : State) : Out := issue 0x12 6 o (ldg 16 false false false) s

/-- `lds32`. -/
def execLds32 (o : Ops) (s : State) : Out := issue 0x12 7 o (ldg 4 false false true) s

/-- `lds64`. -/
def execLds64 (o : Ops) (s : State) : Out := issue 0x12 8 o (ldg 8 false false true) s

/-- `ldacq32`. -/
def execLdacq32 (o : Ops) (s : State) : Out := issue 0x12 9 o (ldg 4 false true false) s

/-- `ldacqs64`. -/
def execLdacqs64 (o : Ops) (s : State) : Out := issue 0x12 10 o (ldg 8 false true true) s

/-! ## STG (R83, R84) -/

/-- The bytes that a store of `n` bytes writes for a lane. -/
def Ctx.storeData (c : Ctx) (scal : Bool) (n lane : Nat) : List Byte :=
  if scal then natBytes n c.sD.toNat
  else if n ≤ 4 then natBytes n (c.opDk 0 lane).toNat
  else (List.range (n / 4)).flatMap fun k => natBytes 4 (c.opDk k lane).toNat

/-- Store the lanes' bytes in ascending lane order (R78). -/
def Ctx.storeLanes (c : Ctx) (s : State) (rel : Bool) (accs : List Access) (data : Nat → List Byte) : State :=
  let (id, s) := s.takeId
  accs.foldl (fun s a => s.storePlace c.g (c.g.storeEntry c.e.hint.toNat rel none id) a.place (data a.lane)) s

/-- A release store may be sent: earlier accesses are made, and what a later entry of the group's own path does not order
is performed (R84); a lane through the aperture stands in no path, so all of them are performed (R99). Since the tile takes the store from
the path at once (R72), the group's own atomics, which none takes from there, are at home before it (R266; DEDUCED, log entry 22). -/
def State.mayRelease (s : State) (g : Group) (scope : Nat) (accs : List Access) : Bool :=
  s.accessesMade g
    && (if s.tileWide g scope || accs.any (fun a => inAperture g a.va) then s.released g scope
      else s.otherClear g && s.atomicsHome g)

/-- A store of `n` bytes; in a body it is translated and recorded, and memory is unchanged (R235). -/
def stg (n : Nat) (scal rel : Bool) (c : Ctx) (s : State) : Res :=
  let accs := c.accs scal n
  let data := c.storeData scal n
  let body := s.inRegion c.g == .body
  checked c s (if scal then [] else c.needBw intTags)
    [(accs.any (s.apertureBad c.g), illop 0x0D),
     optCheck (if body then none else s.embreqOf c.g 0 accs),
     optCheck (if body then none else s.apertureBarbusy c.g accs)] <|
    c.afterAcquires s <|
      if rel && !body && c.anyLane && !s.mayRelease c.g c.e.scope.toNat accs then .stall .order
      else if !body && accs.any (s.apertureScored c.g false) then .stall .resource
      else
        match s.placeAll c.g .write accs with
        | (s, .error f) => failRes s f
        | (s, .ok accs) =>
          if body then .ok (c.record s true accs data)
          else (s.bindBefore c.g s.nextId accs).andThen fun s =>
            .ok (c.storeLanes s (rel && !s.tileWide c.g c.e.scope.toNat) accs data)

/-- `st8`. -/
def execSt8 (o : Ops) (s : State) : Out := issue 0x13 0 o (stg 1 false false) s

/-- `st16`. -/
def execSt16 (o : Ops) (s : State) : Out := issue 0x13 1 o (stg 2 false false) s

/-- `st32`. -/
def execSt32 (o : Ops) (s : State) : Out := issue 0x13 2 o (stg 4 false false) s

/-- `st64`. -/
def execSt64 (o : Ops) (s : State) : Out := issue 0x13 3 o (stg 8 false false) s

/-- `st128`. -/
def execSt128 (o : Ops) (s : State) : Out := issue 0x13 4 o (stg 16 false false) s

/-- `sts32`. -/
def execSts32 (o : Ops) (s : State) : Out := issue 0x13 5 o (stg 4 true false) s

/-- `sts64`. -/
def execSts64 (o : Ops) (s : State) : Out := issue 0x13 6 o (stg 8 true false) s

/-- `strel32`. -/
def execStrel32 (o : Ops) (s : State) : Out := issue 0x13 7 o (stg 4 false true) s

/-- `strels64`. -/
def execStrels64 (o : Ops) (s : State) : Out := issue 0x13 8 o (stg 8 true true) s

/-! ## AT and ATS (R85 to R88) -/

/-- Operand and expected value of a lane. -/
def Ctx.atomicOpnd (c : Ctx) (op : AOp) (scal : Bool) (lane : Nat) : W64 × W64 :=
  if scal then (c.sB, c.sD)
  else if op == .add64 then (w64 ((c.opCk 0 lane).toNat + (c.opCk 1 lane).toNat * 2 ^ 32), 0)
  else ((c.opC lane).zeroExtend 64, (c.opDk 0 lane).zeroExtend 64)

/-- An atomic; `tags` are those of its vector operands, `tag` that of the old value. -/
def atomicIssue (op : AOp) (scal sext : Bool) (tags : Ctx → List TagCheck) (tag : Ctx → BitVec 4) (c : Ctx) (s : State) : Res :=
  let n := op.size
  let accs := c.accs scal n
  let opnds := accs.map fun a => (a.lane, c.atomicOpnd op scal a.lane)
  let hint := c.e.hint.toNat
  checked c s (if scal then [] else c.needBw intTags ++ tags c)
    [(accs.any fun a => a.va.toNat % n != 0 || inAperture c.g a.va, illop 0x0D),
     optCheck (s.embreqOf c.g 0 accs)] <|
    c.afterAcquires s <|
      if c.xm % 2 = 0 then
        let (s, id) := c.logIssue s (if c.anyLane then .atomic op sext hint else .nothing)
          fun e => { e with scalar := scal, tag := tag c, accs := accs, opnds := opnds }
        s.settleEntry c.g id
      else
        match s.placeAll c.g .atomic accs with
        | (s, .error f) => failRes s f
        | (s, .ok accs) =>
          match s.coreAtomicBad c.g accs with
          | some (va, pa) => .freeze s (s.badCause pa) va.toNat pa
          | none =>
            (s.bindBefore c.g s.nextId accs).andThen fun s =>
              .ok (accs.foldl (fun s a =>
                let o := c.atomicOpnd op scal a.lane
                s.issueAtomic c.g hint op o.1 o.2 none a) s)

/-- Tag checks of the operand: integers, any, F32. -/
def intOpnd (c : Ctx) : List TagCheck := c.needC intTags
def anyOpnd (_ : Ctx) : List TagCheck := []
def f32Opnd (c : Ctx) : List TagCheck := c.needC [tF32]
def int2Opnd (c : Ctx) : List TagCheck := c.needC intTags ++ c.needCk 1 intTags

/-- `aadd`. -/
def execAadd (o : Ops) (s : State) : Out := issue 0x14 0 o (atomicIssue .add false false intOpnd fun _ => tI32) s

/-- `amin`. -/
def execAmin (o : Ops) (s : State) : Out := issue 0x14 1 o (atomicIssue .smin false false intOpnd fun _ => tI32) s

/-- `amax`. -/
def execAmax (o : Ops) (s : State) : Out := issue 0x14 2 o (atomicIssue .smax false false intOpnd fun _ => tI32) s

/-- `anmin`. -/
def execAnmin (o : Ops) (s : State) : Out := issue 0x14 3 o (atomicIssue .umin false false intOpnd fun _ => tI32) s

/-- `anmax`. -/
def execAnmax (o : Ops) (s : State) : Out := issue 0x14 4 o (atomicIssue .umax false false intOpnd fun _ => tI32) s

/-- `aand`. -/
def execAand (o : Ops) (s : State) : Out := issue 0x14 5 o (atomicIssue .and false false anyOpnd fun _ => tRAW) s

/-- `aor`. -/
def execAor (o : Ops) (s : State) : Out := issue 0x14 6 o (atomicIssue .or false false anyOpnd fun _ => tRAW) s

/-- `axor`. -/
def execAxor (o : Ops) (s : State) : Out := issue 0x14 7 o (atomicIssue .xor false false anyOpnd fun _ => tRAW) s

/-- `aexch`. -/
def execAexch (o : Ops) (s : State) : Out := issue 0x14 8 o (atomicIssue .exch false false anyOpnd fun c => c.tagC 0) s

/-- `acas`. -/
def execAcas (o : Ops) (s : State) : Out := issue 0x14 9 o (atomicIssue .cas false false anyOpnd fun c => c.tagC 0) s

/-- `afadd`. -/
def execAfadd (o : Ops) (s : State) : Out := issue 0x14 10 o (atomicIssue .fadd false false f32Opnd fun _ => tF32) s

/-- `afamax`. -/
def execAfamax (o : Ops) (s : State) : Out := issue 0x14 11 o (atomicIssue .famax false false f32Opnd fun _ => tF32) s

/-- `afamaxrst`. -/
def execAfamaxrst (o : Ops) (s : State) : Out := issue 0x14 12 o (atomicIssue .famaxrst false false anyOpnd fun _ => tF32) s

/-- `aadd64`. -/
def execAadd64 (o : Ops) (s : State) : Out := issue 0x14 13 o (atomicIssue .add64 false false int2Opnd fun _ => tRAW) s

/-- A scalar atomic; `sext`: the old value is sign-extended (R86). -/
def ats (op : AOp) (sext : Bool) : Ctx → State → Res := atomicIssue op true sext anyOpnd fun _ => tRAW

/-- `aadd`, scalar. -/
def execAaddS (o : Ops) (s : State) : Out := issue 0x15 0 o (ats .add true) s

/-- `amin`, scalar. -/
def execAminS (o : Ops) (s : State) : Out := issue 0x15 1 o (ats .smin true) s

/-- `amax`, scalar. -/
def execAmaxS (o : Ops) (s : State) : Out := issue 0x15 2 o (ats .smax true) s

/-- `anmin`, scalar. -/
def execAnminS (o : Ops) (s : State) : Out := issue 0x15 3 o (ats .umin false) s

/-- `anmax`, scalar. -/
def execAnmaxS (o : Ops) (s : State) : Out := issue 0x15 4 o (ats .umax false) s

/-- `aand`, scalar. -/
def execAandS (o : Ops) (s : State) : Out := issue 0x15 5 o (ats .and false) s

/-- `aor`, scalar. -/
def execAorS (o : Ops) (s : State) : Out := issue 0x15 6 o (ats .or false) s

/-- `axor`, scalar. -/
def execAxorS (o : Ops) (s : State) : Out := issue 0x15 7 o (ats .xor false) s

/-- `aexch`, scalar. -/
def execAexchS (o : Ops) (s : State) : Out := issue 0x15 8 o (ats .exch false) s

/-- `acas`, scalar. -/
def execAcasS (o : Ops) (s : State) : Out := issue 0x15 9 o (ats .cas false) s

/-- `afadd`, scalar. -/
def execAfaddS (o : Ops) (s : State) : Out := issue 0x15 10 o (ats .fadd false) s

/-- `afamax`, scalar. -/
def execAfamaxS (o : Ops) (s : State) : Out := issue 0x15 11 o (ats .famax false) s

/-- `afamaxrst`, scalar. -/
def execAfamaxrstS (o : Ops) (s : State) : Out := issue 0x15 12 o (ats .famaxrst false) s

/-- `aadd64`, scalar. -/
def execAadd64S (o : Ops) (s : State) : Out := issue 0x15 13 o (ats .add64 false) s

/-! ## MO (R89 to R92) -/

/-- `fence` with what its kind asks for (R90): a release, an acquire, an sc fence's drain of the store path. -/
def fence (rel acq sc : Bool) (c : Ctx) (s : State) : Res :=
  let scope := c.e.scope.toNat
  rlxGate c s <| c.once s <|
    if (rel && !s.released c.g scope) || (acq && !s.loadsBound c.g) || (sc && !s.pathClear c.g) then .stall .order
    else .ok (if acq then s.acquireAt c.g scope else s)

/-- `fence sc`. -/
def execFenceSc (o : Ops) (s : State) : Out := issue 0x16 0 o (fence true true true) s

/-- `fence acq`. -/
def execFenceAcq (o : Ops) (s : State) : Out := issue 0x16 0 o (fence false true false) s

/-- `fence rel`. -/
def execFenceRel (o : Ops) (s : State) : Out := issue 0x16 0 o (fence true false false) s

/-- `fence acqrel`. -/
def execFenceAcqrel (o : Ops) (s : State) : Out := issue 0x16 0 o (fence true true false) s

/-- `pf` for one lane: dropped where it cannot be served, in the aperture, the host window, a device line (R69, R91, R99). A line that
the tile cache holds is read again (DESIGN CHOICE, log entry 22). -/
def prefetch (c : Ctx) (s : State) (va : W64) : State :=
  if inAperture c.g va then s
  else match s.translate (s.agent c.g) va 1 .read none with
    | (t, .ok pa attr) =>
      if attr = 2 || !t.isMemory pa then s
      else
        let hint := c.e.hint.toNat
        let t := t.touch (pa / 128) hint
        match t.groupTile c.g with
        | some n =>
          if t.tileWide c.g c.e.scope.toNat && attr = 0 then t.fillTile n (pa / 128) hint else t
        | none => t
    | _ => s

/-- `pf`. -/
def pf (c : Ctx) (s : State) : Res :=
  checked c s (c.needBw intTags) [] (.ok (c.lanes.foldl (fun s i => prefetch c s (c.eaVec i)) s))

/-- `pf`. -/
def execPf (o : Ops) (s : State) : Out := issue 0x16 1 o pf s

/-- Translate the lines of the lanes of `cwb` and `cinv`. They act on a device line, a line of the host window and one of the register
space as on any other, and raise nothing there (R69, R92; DESIGN CHOICE, log entry 48). -/
def State.linesOf (s : State) (g : Group) : List W64 → State × Except AFail (List Nat)
  | [] => (s, .ok [])
  | va :: t =>
    match s.translate (s.agent g) va 1 .read none with
    | (s, .fault r) => (s, .error (.fault r))
    | (s, .perm) => (s, .error (.perm va))
    | (s, .bad pa) => (s, .error (.bad va pa))
    | (s, .ok pa _) =>
      match s.linesOf g t with
      | (s, .ok l) => (s, .ok (pa / 128 :: l))
      | r => r

/-- `cinv` of one line. -/
def State.invalidate (s : State) (tiles : List Nat) (home : Bool) (line : Nat) : State :=
  let s := tiles.foldl (fun s t => s.setTile t ((s.tile t).dropLine line)) s
  if home then s.evict line else s

/-- An atomic of the log has bound in every lane whose place may lie in these lines. -/
def LogEntry.clearOf (e : LogEntry) (lines : List Nat) : Bool :=
  e.accs.all fun a => e.isBound a.lane || match a.place with
    | .phys ps => ps.all fun p => !lines.contains (p.pa / 128)
    | .loc _ _ => true
    | .todo => false

/-- The group's earlier stores and atomics to these lines have reached their home slices: `cwb` and `cinv` act on what they
left there (R92, R277; DEDUCED, log entry 48). -/
def State.linesHome (s : State) (g : Group) (lines : List Nat) : Bool :=
  ((s.ownLog g).all fun e => match e.op with 
      | .pst => !e.untranslated
      | .cstore _ _ => e.written != 0
      | .atomic _ _ _ => e.clearOf lines
      | _ => true)
    && (s.pathTiles g).all fun t => (s.tile t).path.all fun p => !p.covered g.id || !lines.contains (p.pa / 128)

/-- `cwb` and `cinv`: the lines are translated, then `f` acts on each. -/
def onLines (f : Ctx → State → Nat → State) (c : Ctx) (s : State) : Res :=
  let vas := c.lanes.map c.eaVec
  checked c s (c.needBw intTags) [(vas.any (inAperture c.g), illop 0x0D)] <|
    match s.linesOf c.g vas with
    | (s, .error e) => failRes s e
    | (s, .ok l) => if s.linesHome c.g l then .ok (l.foldl (f c) s) else .stall .order

/-- `cwb`. -/
def execCwb (o : Ops) (s : State) : Out := issue 0x16 2 o (onLines fun _ s l => s.writeBack l) s

/-- `cinv`. -/
def execCinv (o : Ops) (s : State) : Out :=
  issue 0x16 3 o (onLines fun c s l => s.invalidate (s.reach c.g c.e.scope.toNat) (4 ≤ c.e.scope.toNat) l) s

end Sys2Proof.Machine
end

