-- ==== Sys2Proof/Machine/Convert.lean ====
section
/-! DEFINITION. Narrow formats and block scales (07 R158 to R161, R168), and the conversions CVT and NQ (07 R169
to R176). -/
namespace Sys2Proof.Machine

/-! ## Narrow element formats (R158, R159) -/

/-- A narrow format. -/
structure NFmt where
  s : Bool
  e : Nat
  m : Nat
  bias : Int
deriving DecidableEq, Repr

/-- Format of an nf word (R158). -/
def NFmt.ofWord (w : BitVec 16) : NFmt :=
  { s := w.getLsbD 7, e := (w.extractLsb' 4 3).toNat, m := (w.extractLsb' 0 4).toNat, bias := (w.extractLsb' 8 8).toInt }

/-- nf(k) of a context. -/
def Group.nfmt (g : Group) (k : Nat) : NFmt := NFmt.ofWord (g.csrs.nf.getD k 0)

/-- Width w. -/
def NFmt.width (f : NFmt) : Nat := (if f.s then 1 else 0) + f.e + f.m

/-- Bits of a slot: 8 or 4 (R158). -/
def NFmt.slot (f : NFmt) : Nat := if 5 ≤ f.width then 8 else 4

/-- Exponent of the unit of the subnormal codes. -/
def NFmt.qmin (f : NFmt) : Int := 1 - f.bias - f.m

/-- Exponent of the unit of the top binade. -/
def NFmt.qtop (f : NFmt) : Int := f.qmin + ((max 1 (2 ^ f.e - 1) : Nat) : Int) - 1

/-- maxfin in units of 2^qtop (R159). -/
def NFmt.maxUnits (f : NFmt) : Nat := if f.e = 0 then 2 ^ f.m - 1 else 2 ^ (f.m + 1) - 1

/-- `NDecode`: sign, units and exponent of a code (R159), under NFSUB (R160). -/
def NFmt.decode (f : NFmt) (nfsub : Bool) (code : Nat) : Bool × Nat × Int :=
  let neg := f.s && code.testBit (f.width - 1)
  let ef := (code / 2 ^ f.m) % 2 ^ f.e
  let mf := code % 2 ^ f.m
  if ef = 0 then (neg, if nfsub && 1 ≤ f.e then 0 else mf, f.qmin)
  else (neg, 2 ^ f.m + mf, f.qmin + (ef - 1))

/-- `NEncode` (R168) of a finite value: the code, whether an overflow is left unresolved, the flags. -/
def NFmt.encode (f : NFmt) (nfsub : Bool) (rm : Rm) (sat : Bool) (neg : Bool) (m : Nat) (e : Int) : Nat × Bool × W64 :=
  let top : Int := e + bitLen m - 1
  let q := min (max (top - f.m) f.qmin) f.qtop
  let r0 := roundAt rm neg m e false q
  let below (k : Nat) : Bool := 1 ≤ f.e && magLt k q 1 (1 - f.bias)
  let flush := nfsub && 1 ≤ f.e && r0.1 != 0 && below r0.1
  let r := if flush then 0 else r0.1
  let inex := flush || r0.2
  let ovf := (!f.s && neg && r != 0) || magLt f.maxUnits f.qtop r q
  if ovf && !sat then (0, true, flagIf flush (flUF ||| flNX))
  else
    -- satv: +0 where there is no sign, else maxfin
    let isZero := ovf && !f.s && neg
    let k := if isZero then 0 else if ovf then f.maxUnits else r
    let qk := if ovf then f.qtop else q
    let body := if k = 0 then 0 else (qk - f.qmin).toNat * 2 ^ f.m + k
    let differs := inex || ovf
    let small := k = 0 || (1 ≤ f.e && magLt k qk 1 (1 - f.bias))
    ((if f.s && neg then 2 ^ (f.width - 1) else 0) + body, false,
     flagIf flush (flUF ||| flNX) ||| flagIf ovf flNSAT ||| flagIf differs flNX ||| flagIf (differs && small) flUF)

/-- Bits [slot × k + slot − 1 : slot × k] of a register. -/
def slotOf (bitsN : Nat) (x : W32) (k : Nat) : Nat := (x.toNat >>> (bitsN * k)) % 2 ^ bitsN

/-! ## CVT (R169, R170) -/

/-- `Val(a, k)` (R170): element k of a register under a tag. -/
def valOf (mode : W64) (tag : BitVec 4) (a : W32) (k : Nat) : FVal :=
  let h : BitVec 16 := a.extractLsb' (16 * k) 16
  if tag = tI32 then ofUnits false a.toInt 0
  else if tag = tI16x2 then ofUnits false h.toInt 0
  else if tag = tBF16x2 then fmtBF16.inF mode h.toNat
  else if tag = tF16x2 then fmtF16.inF mode h.toNat
  else fmtF32.inF mode a.toNat

/-- To F32 from element k. -/
def cvtToF32 (k : Nat) (ok : List (BitVec 4)) : Ctx → State → Res :=
  vecOp (fun c => c.needA ok) (fun _ => tF32) fun c i =>
    let r := fmtF32.put c.mode c.rm (valOf c.mode (c.tagA 0) (c.opA i) k)
    (w32 r.1, r.2)

/-- Two F32 to two 16-bit elements. -/
def cvtPair (f : FFmt) (tag : BitVec 4) : Ctx → State → Res :=
  vecOp (fun c => c.needA [tF32] ++ c.needB [tF32]) (fun _ => tag) fun c i =>
    let lo := f.put c.mode c.rm (fmtF32.inF c.mode (c.opA i).toNat)
    let hi := f.put c.mode c.rm (fmtF32.inF c.mode (c.opB i).toNat)
    (w32 (lo.1 + hi.1 * 65536), lo.2 ||| hi.2)

/-- F32 to a 32-bit integer. -/
def cvtInt (signed : Bool) : Ctx → State → Res :=
  vecOp (fun c => c.needA [tF32]) (fun _ => tI32) fun c i =>
    let r := fToInt (fmtF32.inF c.mode (c.opA i).toNat) 32 signed c.rm
    (BitVec.ofInt 32 r.1, r.2)

/-- `Narrow(x, n)` (R170): of an F32 source `FToInt` of the value as it is, without `InF`. -/
def narrow (rm : Rm) (tag : BitVec 4) (x : W32) (n : Nat) : BitVec n × W64 :=
  if tag = tF32 then
    let r := fToInt (fmtF32.decode x.toNat) n true rm
    (BitVec.ofInt n r.1, r.2)
  else satFlag n x.toInt

/-- The tag the sources of `toi16x2` and `toi8x4` must share: I32 where A carries it, else F32. -/
def narrowTags (c : Ctx) : List (BitVec 4) := if c.tagA 0 = tI32 then [tI32] else [tF32]

def cvtI16x2 : Ctx → State → Res :=
  vecOp (fun c => c.needA [tF32, tI32] ++ c.needB (narrowTags c)) (fun _ => tI16x2) fun c i =>
    let lo := narrow c.rm (c.tagA 0) (c.opA i) 16
    let hi := narrow c.rm (c.tagA 0) (c.opB i) 16
    (hi.1 ++ lo.1, lo.2 ||| hi.2)

def cvtI8x4 : Ctx → State → Res :=
  vecOp (fun c => c.needA [tF32, tI32] ++ c.needAk 1 (narrowTags c) ++ c.needAk 2 (narrowTags c) ++ c.needAk 3 (narrowTags c))
    (fun _ => tI8x4) fun c i =>
      let n (k : Nat) : BitVec 8 × W64 := narrow c.rm (c.tagA 0) (c.opAk k i) 8
      ((n 3).1 ++ (n 2).1 ++ (n 1).1 ++ (n 0).1, (n 0).2 ||| (n 1).2 ||| (n 2).2 ||| (n 3).2)

/-- `tonf`: always saturates; a NaN or an infinity has no code of its own (R170). -/
def encodeVal (f : NFmt) (mode : W64) (rm : Rm) (sat : Bool) (v : FVal) (scale : Int) : Nat × Bool × W64 :=
  match v with
  | .nan => (0, false, flNV)
  | .inf neg => f.encode (modeNfsub mode) rm sat neg 1 4096
  | .fin neg m e => f.encode (modeNfsub mode) rm sat neg m (e + scale)

def cvtTonf : Ctx → State → Res :=
  vecOp (fun c => c.needA [tF32]) (fun c => BitVec.ofNat 4 (8 + c.fb)) fun c i =>
    let r := encodeVal (c.g.nfmt c.fb) c.mode c.rm true (fmtF32.inF c.mode (c.opA i).toNat) 0
    (w32 r.1, r.2.2)

/-- Tags of narrow formats. -/
def nfTags : List (BitVec 4) := [8, 9, 10, 11, 12, 13, 14, 15]

/-- The format of A's tag. -/
def Ctx.nfA (c : Ctx) : NFmt := c.g.nfmt ((c.tagA 0).toNat - 8)

/-- A code times 2^scale, rounded to F32. -/
def decodeTo (f : NFmt) (mode : W64) (rm : Rm) (code : Nat) (scale : Int) : Nat × W64 :=
  let d := f.decode (modeNfsub mode) code
  fmtF32.put mode rm (.fin d.1 d.2.1 (d.2.2 + scale))

def cvtFromnf : Ctx → State → Res :=
  vecOp (fun c => c.needA nfTags) (fun _ => tF32) fun c i =>
    let f := c.nfA
    let r := decodeTo f c.mode c.rm (slotOf f.slot (c.opA i) 0) 0
    (w32 r.1, r.2)

/-- `retag`: t must be a tag (R169); where no lane executes, the tag set is t mod 16 (DESIGN CHOICE, log entry 14). -/
def cvtRetag (c : Ctx) (s : State) : Res :=
  c.guarded [(c.fb == 7 || 16 ≤ c.fb, illop 0x0D)] (.ok (c.putV s 0 c.opA (BitVec.ofNat 4 c.fb)))

/-- `tof32`. -/
def execTof32 (o : Ops) (s : State) : Out := issue 0x09 0 o (cvtToF32 0 [1, 2, 3, 4, 5]) s

/-- `tobf16x2`. -/
def execTobf16x2 (o : Ops) (s : State) : Out := issue 0x09 1 o (cvtPair fmtBF16 tBF16x2) s

/-- `tof16x2`. -/
def execTof16x2 (o : Ops) (s : State) : Out := issue 0x09 2 o (cvtPair fmtF16 tF16x2) s

/-- `toi32`. -/
def execToi32 (o : Ops) (s : State) : Out := issue 0x09 3 o (cvtInt true) s

/-- `ton32`. -/
def execTon32 (o : Ops) (s : State) : Out := issue 0x09 4 o (cvtInt false) s

/-- `toi16x2`. -/
def execToi16x2 (o : Ops) (s : State) : Out := issue 0x09 5 o cvtI16x2 s

/-- `toi8x4`. -/
def execToi8x4 (o : Ops) (s : State) : Out := issue 0x09 6 o cvtI8x4 s

/-- `tonf`. -/
def execTonf (o : Ops) (s : State) : Out := issue 0x09 7 o cvtTonf s

/-- `fromnf`. -/
def execFromnf (o : Ops) (s : State) : Out := issue 0x09 8 o cvtFromnf s

/-- `retag`. -/
def execRetag (o : Ops) (s : State) : Out := issue 0x09 9 o cvtRetag s

/-- `hi2f32`. -/
def execHi2f32 (o : Ops) (s : State) : Out := issue 0x09 10 o (cvtToF32 1 [3, 4, 5]) s

/-! ## NQ (R171 to R175) -/

/-- The check of R176 step 2 for a block operation. -/
def needW32 (c : Ctx) (r : Res) : Res := c.guarded [(c.w < 32, illop 0x0D)] r

/-- Byte b of a scalar. -/
def scaleByte (x : W64) (b : Nat) : Nat := fld x (8 * b + 7) (8 * b)

/-- A scalar with one of its bytes replaced. -/
def setByte (x : W64) (b v : Nat) : W64 := (x &&& ~~~(0xFF#64 <<< (8 * b))) ||| (w64 v <<< (8 * b))

/-- Largest magnitude of a list of F32 values (R172): its code, the canonical NaN if one is a NaN. -/
def amaxCode (l : List FVal) : Nat :=
  l.foldl (fun m v =>
    if m = fmtF32.nanCode || v.isNan then fmtF32.nanCode else max m (fmtF32.code v % 2 ^ 31)) 0

/-- `bamax` (R172). -/
def nqBamax (c : Ctx) (s : State) : Res :=
  tagged c (c.needA [tF32]) <| needW32 c <| c.once s <|
    let m (b : Nat) : Nat :=
      if c.w / 32 ≤ b then 0
      else amaxCode ((c.lanes.filter fun i => i / 32 == b).map fun i => fmtF32.inF c.mode ((c.opA i).toNat))
    .ok (c.putS s (w64 (m 0 + m 1 * 2 ^ 32)))

/-- Smallest code with m ≤ maxfin × 2^(c − 127), 254 if there is none (R172). -/
def scaleCode (f : NFmt) (v : FVal) : Nat :=
  match v with
  | .nan => 0xFF
  | .inf _ => 254
  | .fin _ m e => ((List.range 255).find? fun (k : Nat) => !magLt f.maxUnits (f.qtop + ((k : Int) - 127)) m e).getD 254

/-- `scaleof` (R172): sets no flag and reads its scalar without `InF`. -/
def nqScaleof (c : Ctx) (s : State) : Res :=
  let f := c.g.nfmt c.fb
  let k (b : Nat) : Nat := scaleCode f (fmtF32.decode (fld c.sA (32 * b + 31) (32 * b)))
  c.once s (.ok (c.putS s (w64 (k 0 + k 1 * 256))))

/-- One block of `qnt` (R173): the codes of its lanes, the scale byte after, the flags. The lanes are taken in ascending order, which
decides whose flags are set before the scale becomes NaN (DESIGN CHOICE, log entry 59). -/
def quantBlock (f : NFmt) (mode : W64) (rm : Rm) (scale : Nat) (lanes : List (Nat × FVal)) :
    List (Nat × Nat) × Nat × W64 :=
  let step (acc : List (Nat × Nat) × Bool × W64) (p : Nat × FVal) : List (Nat × Nat) × Bool × W64 :=
    let (codes, bad, fl) := acc
    if bad then (codes ++ [(p.1, 0)], true, fl)
    else match p.2 with
      | .nan => (codes ++ [(p.1, 0)], true, fl ||| flNV)
      | v =>
        let r := encodeVal f mode rm (!modeNsat mode) v (127 - scale)
        (codes ++ [(p.1, r.1)], r.2.1, fl ||| r.2.2 ||| flagIf r.2.1 flOF)
  let r := lanes.foldl step ([], scale = 0xFF, 0)
  if r.2.1 then (r.1.map fun p => (p.1, 0), 0xFF, r.2.2) else (r.1, scale, r.2.2)

/-- `qnt` (R173). -/
def nqQnt (c : Ctx) (s : State) : Res :=
  tagged c (c.needA [tF32]) <| needW32 c <|
    let f := c.g.nfmt c.fc
    let block (b : Nat) : List (Nat × FVal) :=
      (c.lanes.filter fun i => i / 32 == b).map fun i => (i, fmtF32.inF c.mode (c.opA i).toNat)
    let r (b : Nat) : List (Nat × Nat) × Nat × W64 := quantBlock f c.mode c.rm (scaleByte c.sB b) (block b)
    let sb := (List.range 2).foldl (fun x b => if (block b).isEmpty then x else setByte x b (r b).2.1) c.sB
    let s := c.putV s 0 (fun i => w32 (aget (r (i / 32)).1 i 0)) (BitVec.ofNat 4 (8 + c.fc))
    let s := if c.anyLane then c.upd s fun g => g.setSval (c.g.sref c.fb) sb else s
    .ok (c.upd s fun g => g.orFlags ((r 0).2.2 ||| (r 1).2.2))

/-- `dqnt` (R174). -/
def nqDqnt (c : Ctx) (s : State) : Res :=
  tagged c (c.needA nfTags) <| needW32 c <|
    let f := c.nfA
    .ok (c.putVF s (fun i =>
      let k := scaleByte c.sB (i / 32)
      if k = 0xFF then (w32 fmtF32.nanCode, 0)
      else
        let r := decodeTo f c.mode c.rm (slotOf f.slot (c.opA i) 0) (k - 127)
        (w32 r.1, r.2)) tF32)

/-- A register of slots from a list of codes. -/
def packSlots (bitsN : Nat) (codes : List Nat) : W32 :=
  w32 (codes.foldr (fun v acc => v + acc * 2 ^ bitsN) 0)

/-- `pack4` (R175); the bits of a slot above w are ignored and written zero (R159; DEDUCED, log entry 32). -/
def nqPack4 (c : Ctx) (s : State) : Res :=
  tagged c (c.needA nfTags) <|
    let f := c.nfA
    let n := 32 / f.slot
    .ok (c.putV s 0 (fun i =>
      if i < c.w / n then
        packSlots f.slot ((List.range n).map fun j => slotOf f.slot (c.opA (n * i + j)) 0 % 2 ^ f.width)
      else 0) (c.tagA 0))

/-- `unpack4` (R175). -/
def nqUnpack4 (c : Ctx) (s : State) : Res :=
  tagged c (c.needA nfTags) <|
    let f := c.nfA
    let n := 32 / f.slot
    .ok (c.putV s 0 (fun i => w32 (slotOf f.slot (c.opA (i / n)) (i % n) % 2 ^ f.width)) (c.tagA 0))

/-- `qnt`. -/
def execQnt (o : Ops) (s : State) : Out := issue 0x0A 0 o nqQnt s

/-- `dqnt`. -/
def execDqnt (o : Ops) (s : State) : Out := issue 0x0A 1 o nqDqnt s

/-- `bamax`. -/
def execBamax (o : Ops) (s : State) : Out := issue 0x0A 2 o nqBamax s

/-- `scaleof`. -/
def execScaleof (o : Ops) (s : State) : Out := issue 0x0A 3 o nqScaleof s

/-- `pack4`. -/
def execPack4 (o : Ops) (s : State) : Out := issue 0x0A 4 o nqPack4 s

/-- `unpack4`. -/
def execUnpack4 (o : Ops) (s : State) : Out := issue 0x0A 5 o nqUnpack4 s

end Sys2Proof.Machine
end

