-- ==== Sys2Proof/Machine/Pairing.lean ====
section
/-! DEFINITION. The block tree and the pairing stage of an accumulator element (10 R196, R197, R200 to R205), the
conversions of a drain (R220). -/
namespace Sys2Proof.Machine

/-! ## Panels (R196, R197) -/

/-- Geometry of a panel's control word. -/
structure Geo where
  rows : Nat
  rbytes : Nat
  fmt : Nat
  scaled : Bool
  ew : Nat
deriving DecidableEq, Repr

/-- Element width of a format code (R196). -/
def elemWidth (g : Group) (fmt : Nat) : Nat :=
  if fmt = 3 || fmt = 4 then 16 else if fmt = 6 then 8 else (g.nfmt (fmt - 8)).slot

/-- The geometry of a control word. -/
def geoOf (g : Group) (ctl : W64) : Geo :=
  { rows := fld ctl 17 12 + 1, rbytes := fld ctl 7 0, fmt := fld ctl 23 20, scaled := bit ctl 19,
    ew := elemWidth g (fld ctl 23 20) }

/-- Elements of a row, and blocks of a row. -/
def Geo.k (p : Geo) : Nat := p.rbytes * 8 / p.ew
def Geo.bpr (p : Geo) : Nat := p.k / 32

/-- A control word that `movp` accepts (R196). -/
def ctlOk (g : Group) (ctl : W64) : Bool :=
  let p := geoOf g ctl
  fld ctl 63 24 == 0 && !bit ctl 18 && fld ctl 11 8 == 0 && (p.fmt == 3 || p.fmt == 4 || p.fmt == 6 || 8 ≤ p.fmt)
    && 1 ≤ p.rbytes && p.rbytes ≤ 128 && p.rbytes * 8 % p.ew == 0 && p.k % 32 == 0

/-- The value of an element code under a format (R197). -/
def elemVal (g : Group) (mode : W64) (fmt code : Nat) : FVal :=
  match fmt with
  | 3 => fmtBF16.inF mode code
  | 4 => fmtF16.inF mode code
  | 6 => let x := (BitVec.ofNat 8 code).toInt; .fin (decide (x < 0)) x.natAbs 0
  | f => let d := (g.nfmt (f - 8)).decode (modeNfsub mode) code; .fin d.1 d.2.1 d.2.2

/-- Code of element `k` of row `r`. -/
def panelCode (p : Panel) (q : Geo) (r k : Nat) : Nat :=
  let at' := r * q.rbytes + k * q.ew / 8
  match q.ew with
  | 16 => (memGet p.bytes at').toNat + 256 * (memGet p.bytes (at' + 1)).toNat
  | 8 => (memGet p.bytes at').toNat
  | _ => (memGet p.bytes at').toNat / (if k % 2 = 0 then 1 else 16) % 16

/-- One block of a row: its 32 values and its scale. A panel that is not fenced gives free values from `free` on (R212). -/
def panelBlock (g : Group) (mode : W64) (p : Panel) (free r kb : Nat) : List FVal × Nat :=
  let q := geoOf g p.ctl
  if p.unfenced.isEmpty then
    ((List.range 32).map fun j => elemVal g mode q.fmt (panelCode p q r (32 * kb + j)),
     if q.scaled then (memGet p.strip (r * q.bpr + kb)).toNat else 127)
  else
    let u (j : Nat) : Nat := fld (Config.freeWord (free + j)) 15 0
    ((List.range 32).map fun j => elemVal g mode q.fmt (u j % 2 ^ q.ew), if q.scaled then u 32 % 256 else 127)

/-! ## The block tree (R200) -/

/-- An item of an element's stream. -/
inductive Item where
  | zero (loss : Bool)
  | nan (invalid : Bool)
  | inf (neg : Bool)
  | val (s q : Int) (loss : Bool)
deriving DecidableEq, Repr

/-- Signed significand and exponent of a finite product. -/
def finParts : FVal → Int × Int
  | .fin neg m e => (if neg then -(m : Int) else m, e)
  | _ => (0, 0)

/-- `floor(m × 2^sh)` and whether a remainder is left. -/
def shiftFloor (m sh : Int) : Int × Bool :=
  if 0 ≤ sh then (m * 2 ^ sh.toNat, false)
  else (m / 2 ^ (-sh).toNat, m % 2 ^ (-sh).toNat != 0)

/-- `BlockSum` of two blocks with their scales (R200). -/
def blockSum (a b : List FVal × Nat) : Item :=
  if a.2 = 0xFF || b.2 = 0xFF then .nan false
  else
    let ps := (a.1.zip b.1).map fun p => if p.1.isNan || p.2.isNan then some FVal.nan else fMulV p.1 p.2
    let inv := ps.any fun p => p.isNone
    if inv || ps.any (fun p => p == some .nan) then .nan inv
    else if ps.contains (some (.inf false)) && ps.contains (some (.inf true)) then .nan true
    else if ps.contains (some (.inf false)) then .inf false
    else if ps.contains (some (.inf true)) then .inf true
    else
      let fs := (ps.filterMap fun p => p.map finParts).filter fun p => p.1 != 0
      match fs with
      | [] => .zero false
      | f :: _ =>
        let top (p : Int × Int) : Int := bitLen p.1.natAbs - 1 + p.2
        let pmax := fs.foldl (fun m p => max m (top p)) (top f)
        let ts := fs.map fun p => shiftFloor p.1 (p.2 - (pmax - 55))
        let sum := ts.foldl (fun (acc : Int) t => acc + t.1) 0
        let loss := ts.any fun t => t.2
        if sum = 0 then .zero loss
        else .val sum (pmax - 55 + ((a.2 : Int) - 127) + ((b.2 : Int) - 127)) loss

/-! ## The pairing stage (R201 to R205) -/

/-- The largest magnitude in range. -/
def accTop : Int := 2 ^ 95 - 1

/-- An element at work: what was found, and whether the step is to be undone. -/
structure Feeding where
  e : Elem
  loss : Bool := false
  nv : Bool := false
  ashx : Bool := false
  undo : Bool := false
deriving DecidableEq, Repr

/-- `Release`, with `AshExhausted` under ACCR 1 or 0 (R201, R203). -/
def release (sat : Bool) (f : Feeding) (x : Int) : Feeding :=
  let e := f.e
  if (e.a + x).natAbs ≤ accTop.natAbs then { f with e := { e with a := e.a + x } }
  else if e.ash0.isNone then { f with e := { e with ash0 := some x } }
  else if e.ash1.isNone then { f with e := { e with ash1 := some x } }
  else if sat then
    { f with ashx := true
             e := { e with a := if x < 0 then -accTop else accTop, ash0 := none, ash1 := none, pos := [], neg := [], satd := true } }
  else { f with undo := true }

/-- `ReleaseStep` (R201). -/
def releaseStep (sat ended : Bool) (f : Feeding) : Feeding :=
  let e := f.e
  let first := 0 ≤ e.a
  match (if first then e.neg else e.pos), (if first then e.pos else e.neg) with
  | x :: t, _ => release sat { f with e := if first then { e with neg := t } else { e with pos := t } } x
  | [], x :: t =>
    if t.length = 3 || ended then
      release sat { f with e := if first then { e with pos := t } else { e with neg := t } } x
    else f
  | [], [] => f

/-- `Special` (R205). -/
def special (f : Feeding) (spec : Nat) (inv : Bool) : Feeding :=
  let e := f.e
  let new := if spec = 3 || (e.spec != 0 && e.spec != spec) then 3 else spec
  let clash := spec != 3 && (e.spec = 1 || e.spec = 2) && e.spec != spec
  { f with nv := f.nv || inv || clash
           e := if e.spec = 0 then { e with spec := new, ash0 := none, ash1 := none, pos := [], neg := [] }
                else { e with spec := new } }

/-- A value in window units enters its queue (R201 lines 6 to 10). -/
def enqueue (sat : Bool) (f : Feeding) (v : Int) : Feeding :=
  if v = 0 then f
  else
    let full := 4 ≤ (if 0 < v then f.e.pos else f.e.neg).length
    let f := if full then
        match (if 0 < v then f.e.pos else f.e.neg) with
        | x :: t => release sat { f with e := if 0 < v then { f.e with pos := t } else { f.e with neg := t } } x
        | [] => f
      else f
    if f.undo || (full && f.e.satd) then f
    else
      releaseStep sat false
        { f with e := if 0 < v then { f.e with pos := f.e.pos ++ [v] } else { f.e with neg := f.e.neg ++ [v] } }

/-- `Feed` (R201), in a window at `anch`. -/
def feed (sat : Bool) (anch : Int) (f : Feeding) (it : Item) : Feeding :=
  if f.undo then f
  else
    match it with
    | .nan inv => special f 3 inv
    | .inf neg => special f (if neg then 2 else 1) false
    | .zero loss => if f.e.spec != 0 || f.e.satd then f else { f with loss := f.loss || loss }
    | .val s q loss =>
      if f.e.spec != 0 || f.e.satd then f
      else
        let v := shiftFloor s (q - anch + 94)
        enqueue sat { f with loss := f.loss || loss || v.2 } v.1

/-- The ash entries are emptied and fed back, entry 0 first (R202). -/
def reenter (sat : Bool) (f : Feeding) : Feeding :=
  let items := f.e.ash0.toList ++ f.e.ash1.toList
  items.foldl (fun f x => if f.undo || f.e.spec != 0 || f.e.satd then f else enqueue sat f x)
    { f with e := { f.e with ash0 := none, ash1 := none } }

/-- `EndStream` (R201); `fuel` bounds the items. -/
def endStream (sat : Bool) : Nat → Feeding → Feeding
  | 0, f => f
  | n + 1, f => if f.undo || (f.e.pos.isEmpty && f.e.neg.isEmpty) then f else endStream sat n (releaseStep sat true f)

/-! ## Drains (R204, R205, R220) -/

/-- Exact total of an element. -/
def Elem.total (e : Elem) : Int := e.a + e.ash0.getD 0 + e.ash1.getD 0

/-- The ash pass finds genuine overflow (R204). -/
def Elem.overflows (e : Elem) : Bool := e.spec = 0 && !e.satd && accTop.natAbs < e.total.natAbs

/-- `Resolve` where it succeeds, or saturates (R203, R204). -/
def Elem.resolve (e : Elem) : Elem :=
  if e.spec != 0 || e.satd then e
  else if e.overflows then
    { e with a := if e.total < 0 then -accTop else accTop, ash0 := none, ash1 := none, satd := true }
  else { e with a := e.total, ash0 := none, ash1 := none }

/-- The code and flags that an element is delivered as (R205, R220). -/
def Elem.deliver (f : FFmt) (mode : W64) (anch : Int) (e : Elem) : Nat × W64 :=
  match e.spec with
  | 0 => f.put mode (modeRm mode) (ofUnits false e.a (anch - 94))
  | 1 => (f.infCode, 0)
  | 2 => (f.sign true + f.infCode, 0)
  | _ => (f.nanCode, 0)

/-- The 16 bytes of a raw record (R220). -/
def Elem.raw (anch : Int) (e : Elem) : List Byte :=
  natBytes 12 (BitVec.ofInt 96 e.a).toNat ++ [BitVec.ofNat 8 (e.spec + if e.satd then 4 else 0), 0]
    ++ natBytes 2 (BitVec.ofInt 16 anch).toNat

/-- An element of an accumulator. -/
def Acc.elem (a : Acc) (k : Nat) : Elem := aget a.elems k {}

/-- Replace an element; one as at launch stands in no list. -/
def Acc.setElem (a : Acc) (k : Nat) (e : Elem) : Acc :=
  { a with elems := if e == {} then adel a.elems k else aset a.elems k e }

/-- The status word (R199). -/
def Acc.status (a : Acc) (busy : Bool) : W64 :=
  let b (x : Bool) (n : Nat) : Nat := if x then 2 ^ n else 0
  w64 ((BitVec.ofInt 16 a.anch).toNat * 2 ^ 32
    + (a.elems.filter fun p => p.2.ash0.isSome || p.2.ash1.isSome).length * 2 ^ 16
    + b a.satd 8 + b a.nan 7 + b a.inf 6 + b a.ashx 5 + b a.aovf 4 + b a.loss 3 + b busy 0)

end Sys2Proof.Machine
end

