-- ==== Sys2Proof/Machine/Matrix.lean ====
section
/-! DEFINITION. The matrix unit: panels, accumulators and the MX family (10 R195 to R222), `movp` and `movpr` (06 R144), the
loop buffer SQ (10 R223, R224), and the steps MACRO_OP_STEP and DRAIN_PERFORM (10 R206, R214, R220). -/
namespace Sys2Proof.Machine

/-! ## Access to the team's panels and accumulators -/

/-- Panel `n` of the context's team. -/
def State.panelOf (s : State) (g : Group) (n : Nat) : Panel :=
  match s.teamOf g with
  | some t => t.panels.getD n {}
  | none => {}

/-- Replace a panel. -/
def State.setPanel (s : State) (g : Group) (n : Nat) (p : Panel) : State :=
  match s.teamOf g with
  | some t => s.setTeam { t with panels := lset t.panels n p }
  | none => s

/-- Accumulator `n`. -/
def State.accOf (s : State) (g : Group) (n : Nat) : Acc :=
  match s.teamOf g with
  | some t => t.accs.getD n {}
  | none => {}

/-- Replace an accumulator. -/
def State.setAcc (s : State) (g : Group) (n : Nat) (a : Acc) : State :=
  match s.teamOf g with
  | some t => s.setTeam { t with accs := lset t.accs n a }
  | none => s

/-- A write to the panel by a group, not fenced yet (R212). -/
def Panel.soil (p : Panel) (grp : Nat) : Panel :=
  { p with unfenced := if p.unfenced.contains grp then p.unfenced else p.unfenced ++ [grp] }

/-- An `mma` or `mmat` of the group that is not suspended reads the panel (R213). -/
def State.panelRead (s : State) (g : Group) (n : Nat) : Bool :=
  (s.ownLog g).any fun e => match e.op with | .mma _ pa pb _ _ => pa == n || pb == n | _ => false

/-- A `pld` to the panel is on its way in the team (R39). -/
def State.panelInFlight (s : State) (g : Group) (n : Nat) : Bool :=
  match s.teamOf g with
  | some t => s.log.any fun e => t.grps.contains e.grp && (match e.op with | .pld p => p == n | _ => false)
  | none => false

/-- An entry of the group on the accumulator is incomplete and not suspended (R209). -/
def State.accBusy (s : State) (g : Group) (acc : Nat) : Bool := (s.ownLog g).any fun e => e.op.acc? == some acc

/-- Lowest `n` free values as bytes. -/
def freeBytes (fresh n : Nat) : Nat → List Byte := fun k => natBytes n (Config.freeWord (fresh + k)).toNat

/-! ## movp and movpr -/

/-- `movp` (R144, R196). -/
def movp (c : Ctx) (s : State) : Res :=
  rlxGate c s <| c.once s <| c.guarded [(!ctlOk c.g c.sAl, illop 0x0D)] <|
    if s.panelRead c.g c.fd then .stall .matrix
    else .ok (s.setPanel c.g c.fd ({ s.panelOf c.g c.fd with ctl := c.sAl }.soil c.g.id))

/-- `movp`. -/
def execMovp (o : Ops) (s : State) : Out := issue 0x0C 6 o movp s

/-- `movpr`. -/
def execMovpr (o : Ops) (s : State) : Out :=
  issue 0x0C 7 o (fun c s => rlxGate c s (c.once s (.ok (c.putS s (s.panelOf c.g c.fa).ctl)))) s

/-! ## pld and pst (R216) -/

/-- The rows and the strip of a whole panel in memory. -/
def rowAccs (p : Geo) (ea pitch strip : Nat) : List Access :=
  ((List.range p.rows).map fun r => { lane := 1000 + r, va := w64 (ea + r * pitch), n := p.rbytes })
    ++ (if p.scaled then [{ lane := 1064, va := w64 (ea + strip), n := p.rows * p.bpr }] else [])

/-- An aperture access of a row is no valid local address. -/
def State.rowBad (s : State) (g : Group) (a : Access) : Bool :=
  inAperture g a.va && (s.localAddr g (a.va.toNat - apertureBase) a.n).isNone

/-- The address checks of `pld` and `pst`. -/
def Ctx.panelChecks (c : Ctx) (s : State) (p : Panel) (accs : List Access) : List (Bool × (Cause × W64)) :=
  let ea := c.eaScal
  [(p.ctl = 0, illop 0x0D),
   (fld ea 3 0 != 0 || fld c.sB 3 0 != 0 || fld c.sB 34 32 != 0, illop 0x0D),
   (accs.any (s.rowBad c.g), illop 0x0D)]

/-- An entry of a variable-latency MX instruction that no lane executes (R38). -/
def Ctx.idle (c : Ctx) (s : State) (tag : BitVec 4) (r : Res) : Res :=
  if c.anyLane then r else .ok (c.logIssue s .nothing fun e => { e with tag := tag }).1

/-- `pld`. -/
def pld (c : Ctx) (s : State) : Res :=
  let p := s.panelOf c.g c.fd
  let accs := rowAccs (geoOf c.g p.ctl) c.eaScal.toNat (fld c.sB 31 0) (fld c.sB 63 32)
  rlxGate c s <| c.idle s tRAW <| c.guarded (c.panelChecks s p accs) <|
    c.afterAcquires s <| c.afterWaiters s accs <|
      if s.panelRead c.g c.fd then .stall .matrix
      else if accs.any (s.apertureScored c.g true) then .stall .resource
      else
        let s := s.setPanel c.g c.fd (p.soil c.g.id)
        let (s, id) := c.logIssue s (.pld c.fd) fun e => { e with accs := accs }
        s.settleEntry c.g id

/-- `pld`. -/
def execPld (o : Ops) (s : State) : Out := issue 0x1A 0 o pld s

/-- The bytes of a row, or of the strip, that `pst` stores. -/
def Panel.rowBytes (p : Panel) (a : Access) : List Byte :=
  if a.lane = 1064 then memRead p.strip 0 a.n else memRead p.bytes ((a.lane - 1000) * a.n) a.n

/-- `pst`: its bytes are read when it issues; those of a panel that a `pld` is writing are free (R39). -/
def pst (c : Ctx) (s : State) : Res :=
  let p := s.panelOf c.g c.fd
  let accs := rowAccs (geoOf c.g p.ctl) c.eaScal.toNat (fld c.sB 31 0) (fld c.sB 63 32)
  rlxGate c s <| c.idle s tRAW <|
    c.guarded (c.panelChecks s p accs ++ [optCheck (s.embreqOf c.g 0 accs), optCheck (s.apertureBarbusy c.g accs)]) <|
      c.afterAcquires s <|
        if accs.any (s.apertureScored c.g false) then .stall .resource
        else
          let free := s.panelInFlight c.g c.fd
          let row (a : Access) : List Byte :=
            if free then (List.range a.n).flatMap (freeBytes (s.fresh + 128 * (a.lane - 1000)) 1) else p.rowBytes a
          let data := accs.map fun a => (a.lane, bytesNat (row a))
          let s := if free then { s with fresh := s.fresh + 128 * 128 } else s
          let (s, id) := c.logIssue s .pst fun e => { e with accs := accs, bound := data }
          s.settleEntry c.g id

/-- `pst`. -/
def execPst (o : Ops) (s : State) : Out := issue 0x1A 1 o pst s

/-- A completed `pld`: its rows are read, those of a window as they were at issue, and the panel written, or what keeps it from
that (R216). -/
def State.pldFinish (s : State) (e : LogEntry) (g : Group) (n : Nat) : State :=
  let wide := s.tileWide g 0
  let bad := e.accs.findSome? fun a => match a.place with
    | .phys ps => s.badPiece g e.tile wide a.va (fun _ => true) ps
    | _ => none
  match bad with
  | some b => s.freezeEntry g e.id (s.badCause b.2) b.1 b.2
  | none =>
    let s := e.accs.foldl (fun s a =>
      let (s, bs) := match a.place with
        | .phys ps => s.readPieces g e.tile wide 0 ps
        | .loc _ _ => (s, natBytes a.n (aget e.bound a.lane 0))
        | .todo => (s, [])
      let p := s.panelOf g n
      s.setPanel g n
        (if a.lane = 1064 then { p with strip := memWrite p.strip 0 bs }
         else { p with bytes := memWrite p.bytes ((a.lane - 1000) * a.n) bs })) s
    s.finishEntry e

/-! ## pzero, pfence, pput, pget (R212, R217) -/

/-- `pzero`. -/
def pzero (c : Ctx) (s : State) : Res :=
  rlxGate c s <| c.once s <|
    if s.panelRead c.g c.fd then .stall .matrix
    else
      let p := s.panelOf c.g c.fd
      .ok (s.setPanel c.g c.fd
        ({ p with bytes := [], strip := memWrite [] 0 (List.replicate 512 0x7F) }.soil c.g.id))

/-- `pzero`. -/
def execPzero (o : Ops) (s : State) : Out := issue 0x1A 2 o pzero s

/-- The matrix unit sees the writes of a group to a panel (R212). -/
def Panel.fence (p : Panel) (grp : Nat) : Panel :=
  if p.unfenced.contains grp then { p with unfenced := p.unfenced.filter fun i => i != grp, seen := p.ctl } else p

/-- `pfence`: after the group's earlier panel writes the matrix unit sees them. A `pld` that a handler is to replay stays a write
that is not fenced. -/
def pfence (c : Ctx) (s : State) : Res :=
  let isPld (e : LogEntry) : Bool := match e.op with | .pld _ => true | _ => false
  rlxGate c s <| c.once s <|
    if (s.ownLog c.g).any isPld then .stall .matrix
    else
      match s.teamOf c.g with
      | none => .ok s
      | some t => .ok (s.setTeam { t with panels := t.panels.mapIdx fun n (p : Panel) =>
          if (s.log.any fun e => e.grp == c.g.id && (match e.op with | .pld m => m == n | _ => false)) then p else p.fence c.g.id })

/-- `pfence`. -/
def execPfence (o : Ops) (s : State) : Out := issue 0x1A 3 o pfence s

/-- The checks of `pput` and `pget` on part, row and offset. -/
def Ctx.partChecks (c : Ctx) (p : Panel) (part : Nat) : List (Bool × (Cause × W64)) :=
  let q := geoOf c.g p.ctl
  [(2 ≤ part || p.ctl = 0 || fld c.sB 63 14 != 0 || fld c.sB 7 6 != 0 || q.rows ≤ fld c.sB 5 0
      || (part = 1 && 1 < fld c.sB 13 8), illop 0x0D)]

/-- First byte and number of bytes that lane `i` moves, within a row of `lim` bytes. -/
def Ctx.partSpan (c : Ctx) (lim i : Nat) : Nat × Nat :=
  let k := 4 * (fld c.sB 13 8 + i)
  (k, Nat.min 4 (lim - k))

/-- `pput`. -/
def pput (c : Ctx) (s : State) : Res :=
  let p := s.panelOf c.g c.fd
  let q := geoOf c.g p.ctl
  let part := c.fc
  let tags := if part = 0 then (if p.ctl = 0 then [] else c.needA [BitVec.ofNat 4 q.fmt]) else if part = 1 then c.needA intTags else []
  checked c s tags (c.partChecks p part) <|
    if s.panelRead c.g c.fd then .stall .matrix
    else
      let lim := if part = 0 then q.rbytes else q.bpr
      let put (m : Mem) (i : Nat) : Mem :=
        let sp := c.partSpan lim i
        memWrite m (fld c.sB 5 0 * lim + sp.1) (natBytes sp.2 (c.opA i).toNat)
      let p := if part = 0 then { p with bytes := c.lanes.foldl put p.bytes } else { p with strip := c.lanes.foldl put p.strip }
      .ok (if c.anyLane then s.setPanel c.g c.fd (p.soil c.g.id) else s)

/-- `pput`. -/
def execPput (o : Ops) (s : State) : Out := issue 0x1A 11 o pput s

/-- `pget`: a lane wholly beyond the row keeps its data; a panel that a `pld` is writing reads free values (R39). -/
def pget (c : Ctx) (s : State) : Res :=
  let p := s.panelOf c.g c.fa
  let q := geoOf c.g p.ctl
  let part := c.fc
  checked c s [] (c.partChecks p part) <|
    let lim := if part = 0 then q.rbytes else q.bpr
    let m := if part = 0 then p.bytes else p.strip
    let free := s.panelInFlight c.g c.fa
    let val (i : Nat) : W32 :=
      let sp := c.partSpan lim i
      if sp.2 = 0 then (c.g.slot (c.dRef 0)).data.getD i 0
      else if free then (Config.freeWord (s.fresh + i)).extractLsb' 0 32
      else w32 (bytesNat (memRead m (fld c.sB 5 0 * lim + sp.1) sp.2))
    let s := if free then { s with fresh := s.fresh + 64 } else s
    .ok (c.putV s 0 val (if part = 0 then BitVec.ofNat 4 q.fmt else tRAW))

/-- `pget`. -/
def execPget (o : Ops) (s : State) : Out := issue 0x1A 12 o pget s

/-! ## mma and mmat (R211, R218) -/

/-- ILLCONV with a reason (R206, R211, R218, R232). -/
def illconv (n : Nat) : Cause × W64 := (.illconv, w64 n)

/-- Every lane that has not exited stands in the lane set and passes the predicate. -/
def Ctx.wholeGroup (c : Ctx) : Bool := c.act == c.g.running

/-- The formats of two control words are of one class (R218). -/
def sameClass (fa fb : Nat) : Bool := (fa == 3 || fa == 4) == (fb == 3 || fb == 4)

/-- `mma`, and `mmat` with `tr` (stall on the accumulator by R39: DEDUCED, log entry 26). Its checks are made for the group, whichever
lanes execute (R218; DEDUCED, log entry 14). The FMTX of a mixed pair names register 0 and requires panel A's format, and ILLCONV 1 comes
before 2 (DESIGN CHOICE, log entry 26). -/
def mmaOp (tr : Bool) (c : Ctx) (s : State) : Res :=
  let a := (s.panelOf c.g c.fa).ctl
  let b := (s.panelOf c.g c.fb).ctl
  let qa := geoOf c.g a
  let qb := geoOf c.g b
  let tags : List TagCheck :=
    if a = 0 || b = 0 || sameClass qa.fmt qb.fmt then []
    else [{ found := BitVec.ofNat 4 qb.fmt, ok := [BitVec.ofNat 4 qa.fmt], pos := 1, reg := 0 }]
  let det := match s.workOf c.g with | some w => w.det == 1 | none => false
  wholeChecked c s tags
    [(!c.wholeGroup, illconv 1),
     (det && (s.accOf c.g c.fd).owner != c.g.id, illconv 2),
     (a = 0 || b = 0 || qa.k != qb.k, illop 0x0D)] <|
    .ok (c.logIssue s (.mma c.fd c.fa c.fb tr 0) fun e => e).1

/-- `mma`. -/
def execMma (o : Ops) (s : State) : Out := issue 0x1A 4 o (mmaOp false) s

/-- `mmat`. -/
def execMmat (o : Ops) (s : State) : Out := issue 0x1A 5 o (mmaOp true) s

/-! ## czero, canch, cstat (R209, R219, R221) -/

/-- The group's own suspended `mma` on the accumulator completes with no further effect (R206). -/
def State.cancelMma (s : State) (g : Group) (acc : Nat) : State :=
  (s.log.filter fun e => e.grp == g.id && e.state == .suspended
    && (match e.op with | .mma a _ _ _ _ => a == acc | _ => false)).foldl
      (fun s e => s.finishEntry { e with fl := 0, dests := [] }) s

/-- The accumulator emptied, its anchor replaced, owned by a group. -/
def Acc.emptied (anch : Int) (owner : Nat) : Acc := { anch := anch, owner := owner }

/-- `czero` and `canch`. -/
def emptyAcc (anch : Option Int) (c : Ctx) (s : State) : Res :=
  rlxGate c s <|
    c.guarded [((match anch with | some a => decide (a < -1024) || decide (1023 < a) | none => false), illop 0x0D)] <|
      c.once s <|
        if s.accBusy c.g c.fd then .stall .matrix
        else
          let s := s.cancelMma c.g c.fd
          .ok (s.setAcc c.g c.fd (Acc.emptied (anch.getD (s.accOf c.g c.fd).anch) c.g.id))

/-- `czero`. -/
def execCzero (o : Ops) (s : State) : Out := issue 0x1A 6 o (emptyAcc none) s

/-- `canch`. -/
def execCanch (o : Ops) (s : State) : Out := issue 0x1A 7 o (fun c s => emptyAcc (some (s64 c.sAl)) c s) s

/-- An entry of any group of the team names the accumulator (R199). -/
def State.accNamed (s : State) (g : Group) (acc : Nat) : Bool :=
  match s.teamOf g with
  | some t => s.log.any fun e => t.grps.contains e.grp && e.op.acc? == some acc
  | none => false

/-- `cstat`. -/
def cstat (c : Ctx) (s : State) : Res :=
  rlxGate c s <| c.once s <|
    if s.accBusy c.g c.fa then .stall .matrix
    else .ok (c.putS s ((s.accOf c.g c.fa).status (s.accNamed c.g c.fa)))

/-- `cstat`. -/
def execCstat (o : Ops) (s : State) : Out := issue 0x1A 10 o cstat s

/-! ## cdrain and cstore (R220) -/

/-- `cdrain`. -/
def cdrain (c : Ctx) (s : State) : Res :=
  let base := fld c.sB 13 8
  checked c s []
    [(fld c.sB 63 14 != 0 || fld c.sB 7 6 != 0 || c.lanes.any fun i => 63 < base + i, illop 0x0D)] <|
    c.idle s tF32 (.ok (c.logIssue s (.cdrain c.fa (fld c.sB 5 0) base) fun e => { e with tag := tF32 }).1)

/-- `cdrain`. -/
def execCdrain (o : Ops) (s : State) : Out := issue 0x1A 8 o cdrain s

/-- Bytes of an element in a format of `cstore`. -/
def esize (fmt : Nat) : Nat := if fmt = 0 then 4 else if fmt = 1 then 2 else 16

/-- `cstore`. -/
def cstore (c : Ctx) (s : State) : Res :=
  let n := 64 * esize c.fd
  let base := c.sB + c.lit
  let accs : List Access := (List.range 64).map fun r => { lane := 1000 + r, va := base + w64 r * c.sC, n := n }
  rlxGate c s <| c.idle s tRAW <|
    c.guarded
      [(2 < c.fd || fld base 3 0 != 0 || fld c.sC 3 0 != 0 || c.sC.toNat < n || accs.any (s.rowBad c.g), illop 0x0D),
       optCheck (s.embreqOf c.g 0 accs), optCheck (s.apertureBarbusy c.g accs)] <|
      c.afterAcquires s <|
        if accs.any (s.apertureScored c.g false) then .stall .resource
        else
          let (s, id) := c.logIssue s (.cstore c.fd c.fa) fun e => { e with accs := accs }
          s.settleEntry c.g id

/-- `cstore`. -/
def execCstore (o : Ops) (s : State) : Out := issue 0x1A 9 o cstore s

/-! ## seq (R223, R224) -/

/-- Largest value a masked field may take; `none` where a mask may not name it. -/
def fieldTop (pa : Nat × Nat) (cl : Cls) : Option Nat :=
  match cl with
  | .win _ => some 63
  | .scal => some 31
  | .panel => if pa.1 = 0 then none else some (pa.1 - 1)
  | .acc => if pa.2 = 0 then none else some (pa.2 - 1)
  | _ => none

/-- A body instruction's control byte breaks a rule. -/
def seqBad (pa : Nat × Nat) (passes ctl : Nat) (ws : List W32) : Bool :=
  let w := ws.headD 0
  let f := Form.of (majOf w) (minOf w)
  let hasLit := 2 ≤ lenOf w
  let c := if lenOf w % 2 = 1 then bits (ws.getD 1 0).toNat 23 18 else 0
  let above (on : Bool) (cl : Cls) (v : Nat) : Bool :=
    on && (match fieldTop pa cl with | some top => top < v + (passes - 1) * (ctl / 16 % 8) | none => true)
  majOf w != 0x1A || (ctl.testBit 7 && !hasLit)
    || above (ctl.testBit 0) f.d (bits w.toNat 13 8)
    || above (ctl.testBit 1) (if f.lit == .a64 && hasLit then .none else f.a) (bits w.toNat 19 14)
    || above (ctl.testBit 2) f.b (bits w.toNat 25 20)
    || above (ctl.testBit 3) f.c c

/-- Read the body: its length in bytes and whether a rule is broken. -/
def State.seqBody (s : State) (g : Group) (passes : Nat) (ctl : W64) : Nat → Nat → W64 → State × Except Res (W64 × Bool)
  | 0, _, a => (s, .ok (a, false))
  | k + 1, j, a =>
    match s.fetchInstr g a with
    | (s, .error f) => (s, .error (fetchRes a f s))
    | (s, .ok ws) =>
      if seqBad (s.matrixOf g) passes (seqByte ctl j) ws then (s, .ok (a, true))
      else s.seqBody g passes ctl k (j + 1) (a + w64 (4 * ws.length))

/-- `seq`: its checks are made whether a lane executes or not (R224). Where no pass runs and its body ends the clause, it is the `seq`
that leads to the header that follows, and checks it (R37). -/
def seqOp (c : Ctx) (s : State) : Res :=
  let n := c.fd
  let passes := max c.sA.toNat 1
  s.rlxAlways c <|
    present [(n = 0 || 8 < n || c.cl.cnt < c.cl.pos + 1 + n || c.lit.toNat >>> (8 * n) != 0, illop 0x0D)] <|
      match s.seqBody c.g passes c.lit n 0 c.after with
      | (_, .error r) => r
      | (_, .ok (_, true)) => .ofPair (illop 0x0D)
      | (s, .ok (past, false)) =>
        if c.anyLane then
          .ok (c.upd s fun g => { g with clause := g.clause.map fun cl => { cl with
            seq := some { n := n, passes := passes, pass := 0, ctl := c.lit, stride := c.sB, body := c.after, bodyPos := cl.pos + 1 } } })
        else if c.cl.pos + 1 + n = c.cl.cnt then
          c.afterHeaders (s.checkHeader c.g past) fun s => .stay (c.upd s fun g => { g with stall := none }.endClause c.cl past true)
        else
          .stay (c.upd s fun g => { g with stall := none, clause := some { c.cl with next := past, pos := c.cl.pos + 1 + n } })

/-- `seq`. -/
def execSeq (o : Ops) (s : State) : Out := issue 0x1B 0 o seqOp s

/-! ## ACCRANGE (R206) -/

/-- The gang of a group runs, or runs to its stop. -/
def State.gangRuns (s : State) (g : Group) : Bool :=
  match s.gangOf g with
  | some k => match k.state with | .running => true | .stopping _ => true | _ => false
  | none => true

/-- A trap that names an instruction in the log: taken at the next clause boundary at user level; at trap level the
group freezes for one that the handler issued (R206, R363, R366). -/
def State.trapEntryOf (s : State) (e : LogEntry) (cause : Cause) (info : W64) : State :=
  let t : PendTrap :=
    { cause := cause, info := info, pc := e.pc, pos := e.clause.pos, seta := e.clause.seta, setb := e.clause.setb,
      lanes := e.clause.lanes, replay := some e.id }
  match s.group? e.grp with
  | none => s
  | some g =>
    if g.flow.tl && e.tlevel then s.raise g.id t
    else s.onGroup g.id fun g => { g with due := g.due ++ [t] }

/-- The entry is suspended and ACCRANGE is to be taken. -/
def State.suspend (s : State) (e : LogEntry) (kind acc k step : Nat) : State :=
  (s.setEntry { e with state := .suspended }).trapEntryOf e .accrange
    (w64 (kind + acc * 4 + k / 64 * 2 ^ 12 + k % 64 * 2 ^ 18 + step % 2 ^ 16 * 2 ^ 24))

/-- An older entry of the same group on the accumulator is to be performed first (R209); a handler's entry goes before those that
complete after its `eret` (R164, R365; DEDUCED, log entry 56). -/
def State.accOlder (s : State) (e : LogEntry) (acc : Nat) : Bool :=
  s.log.any fun f => f.grp == e.grp && f.turn < e.turn && f.state != .suspended && f.op.acc? == some acc
    && !s.atReturn f

/-! ## MACRO_OP_STEP (R214) -/

/-- A panel as the matrix unit sees it: of one with a write that is not fenced, the control word last fenced, where there is one
(R212 gives element values alone as undefined; DESIGN CHOICE, log entry 53). -/
def Panel.shown (p : Panel) : Panel := if p.unfenced.isEmpty || p.seen = 0 then p else { p with ctl := p.seen }

/-- Steps of two panels: M, N and K ÷ 32. -/
def stepShape (qa qb : Geo) : Nat × Nat × Nat := (qa.rows, qb.rows, qa.k / 32)

/-- Subtile and block of step `i`: ti, tj, kb. -/
def stepAt (sh : Nat × Nat × Nat) (i : Nat) : Nat × Nat × Nat :=
  let nk := max sh.2.2 1
  let nj := max ((sh.2.1 + 31) / 32) 1
  (i / nk / nj, i / nk % nj, i % nk)

/-- Number of steps. -/
def stepCount (sh : Nat × Nat × Nat) : Nat := (sh.1 + 31) / 32 * ((sh.2.1 + 31) / 32) * sh.2.2

/-- One element through a step: its ash at the first block, the block sum, its end at the last (R214 lines 4 to 6). -/
def feedElem (sat : Bool) (anch : Int) (kb nk : Nat) (it : Item) (e : Elem) : Feeding :=
  let f : Feeding := { e := e }
  let f := if kb = 0 then reenter sat f else f
  let f := feed sat anch f it
  if kb + 1 = nk then endStream sat 9 f else f

/-- What a step makes of every element of its subtile: element number and feeding. -/
def stepFeed (g : Group) (mode : W64) (a b : Panel) (acc : Acc) (tr : Bool) (free i : Nat) : List (Nat × Feeding) :=
  let qa := geoOf g a.ctl
  let qb := geoOf g b.ctl
  let sh := stepShape qa qb
  let (ti, tj, kb) := stepAt sh i
  let rows (t n : Nat) : List Nat := (List.range 32).map (fun r => 32 * t + r) |>.filter fun r => r < n
  let blocks (p : Panel) (l : List Nat) (at' : Nat) : List (Nat × (List FVal × Nat)) :=
    l.map fun r => (r, panelBlock g mode p (free + at' + 33 * (r % 32)) r kb)
  let as := blocks a (rows ti sh.1) 0
  let bs := blocks b (rows tj sh.2.1) 2048
  as.flatMap fun m => bs.map fun n =>
    let k := if tr then 64 * n.1 + m.1 else 64 * m.1 + n.1
    (k, feedElem (modeAccr mode == 1) acc.anch kb sh.2.2 (blockSum m.2 n.2) (acc.elem k))

/-- The accumulator with the step's elements and what they found. -/
def Acc.fed (acc : Acc) (fs : List (Nat × Feeding)) : Acc :=
  let acc := fs.foldl (fun (acc : Acc) p => acc.setElem p.1 p.2.e) acc
  let any (q : Feeding → Bool) : Bool := fs.any fun p => q p.2
  { acc with
      loss := acc.loss || any fun f => f.loss
      ashx := acc.ashx || any fun f => f.ashx
      satd := acc.satd || any fun f => f.ashx
      nan := acc.nan || any fun f => f.e.spec == 3
      inf := acc.inf || any fun f => f.e.spec == 1 || f.e.spec == 2 }

/-- FLAGS of what a step found (R207). -/
def fedFlags (fs : List (Nat × Feeding)) : W64 :=
  flagIf (fs.any fun p => p.2.loss) flLOSS ||| flagIf (fs.any fun p => p.2.ashx) flASHX ||| flagIf (fs.any fun p => p.2.nv) flNV

/-- The least of a list of element numbers. -/
def leastOf : List Nat → Nat
  | [] => 0
  | x :: t => t.foldl min x

/-- A step that starts counts as 256 lanes of its partition (R345). -/
def State.stepActivity (s : State) (g : Group) : State :=
  match s.groupTile g with
  | some t =>
    let k := (s.cluster (clusterOf t)).part
    s.setPartn k { s.partn k with now := (s.partn k).now + 256 }
  | none => s

/-- A drain of the group in flight waits for the entry (R209). -/
def State.drainWaits (s : State) (e : LogEntry) : Bool :=
  s.log.any fun f => f.grp == e.grp && e.turn < f.turn && f.op.acc?.isSome && f.op.acc? == e.op.acc?
    && match f.op with | .mma _ _ _ _ _ => false | _ => f.state == .running

/-- The instruction at which the group stands: major, minor, D and A of its first word; in a `seq` body, where control bytes
change the fields, `none`. -/
def State.standsAt (s : State) (g : Group) : Option (Nat × Nat × Nat × Nat) :=
  match g.clause with
  | some { next, seq := none, .. } =>
    (match (s.fetchWord g next).2 with
      | .ok w => some (majOf w, minOf w, bits w.toNat 13 8, bits w.toNat 19 14)
      | _ => none)
  | _ => none

/-- The instruction of the fields given would write a panel that this `mma` reads (R213). -/
def writesPanelOf (pa pb maj min d : Nat) : Bool :=
  (maj == 0x0C && min == 6 || maj == 0x1A && (min == 0 || min == 2 || min == 11)) && (d == pa || d == pb)

/-- It would write, empty or read the accumulator of this `mma` (R39, R209). -/
def usesAccOf (n maj min d a : Nat) : Bool :=
  maj == 0x1A && (if min == 10 then a == n else 4 ≤ min && min ≤ 7 && d == n)

/-- The group's own issue, on its way to its clause boundary, waits for the entry: for its flag or the log to have room, for the
accumulator it writes, or for a panel it reads. -/
def State.waitsFor (s : State) (g : Group) (e : LogEntry) : Bool :=
  match g.stall, e.op with
  | some .flagFull, _ => e.flag == (g.clause.map fun cl => cl.seta).getD 15 || e.flag == (g.clause.map fun cl => cl.setb).getD 15
  | some .logFull, _ => true
  | some w, .mma n pa pb _ _ =>
    (w == .matrix || w == .dest) && (match s.standsAt g with
      | some (maj, min, d, a) => usesAccOf n maj min d a || (w == .matrix && writesPanelOf pa pb maj min d)
      | none => true)
  | _, _ => false

/-- A macro-op makes steps: at a stop it stands at a step boundary (R331), but where the group cannot come to its clause boundary, or a
drain of it cannot complete, before that `mma` has (DEDUCED, log entry 18). -/
def State.stepsOn (s : State) (g : Group) (e : LogEntry) : Bool :=
  s.gangRuns g && (s.waitsFor g e || s.drainWaits e
    || !(match s.gangOf g with | some { state := .stopping _, .. } => true | _ => false))

/-- One step of an `mma` or `mmat`. -/
def macroStep (s : State) (id : Nat) : State :=
  match s.entry? id with
  | none => s
  | some e =>
    match e.op, s.group? e.grp with
    | .mma n pa pb tr i, some g =>
      if e.state != .running || !s.stepsOn g e || s.accOlder e n then s
      else
        let a := (s.panelOf g pa).shown
        let b := (s.panelOf g pb).shown
        let acc := s.accOf g n
        let sh := stepShape (geoOf g a.ctl) (geoOf g b.ctl)
        let fs := stepFeed g e.mode a b acc tr s.fresh i
        let s := if a.unfenced.isEmpty && b.unfenced.isEmpty then s else { s with fresh := s.fresh + 4096 }
        let bad := (fs.filter fun p => p.2.undo).map fun p => p.1
        let s := s.stepActivity g
        if !bad.isEmpty then s.suspend e 1 n (leastOf bad) i
        else
          let e := { e with op := .mma n pa pb tr (i + 1), fl := e.fl ||| fedFlags fs }
          let s := (s.setAcc g n (acc.fed fs)).setEntry e
          if stepCount sh ≤ i + 1 then s.finishEntry { e with dests := [] } else s
    | _, _ => s

/-- MACRO_OP_STEP. -/
def execMacroOpStep (entry : Nat) (s : State) : Out := .next (macroStep s entry)

/-! ## DRAIN_PERFORM (R204, R220) -/

/-- The elements that a drain reads: lane or row key, and element. -/
def drainElems (e : LogEntry) : List (Nat × Nat) :=
  match e.op with
  | .cdrain _ row base => (lanesOf 64 e.lanes).map fun i => (i, 64 * row + base + i)
  | .cstore _ _ => (List.range 4096).map fun k => (1000 + k / 64, k)
  | _ => []

/-- The accumulator with the elements of a drain resolved, and what that found. -/
def Acc.drained (acc : Acc) (ks : List Nat) : Acc :=
  let es := ks.map fun k => (k, acc.elem k)
  let ovf := es.any fun p => p.2.overflows
  let acc := es.foldl (fun (a : Acc) p => a.setElem p.1 p.2.resolve) acc
  { acc with
      aovf := acc.aovf || ovf
      satd := acc.satd || ovf
      nan := acc.nan || es.any fun p => p.2.spec == 3
      inf := acc.inf || es.any fun p => p.2.spec == 1 || p.2.spec == 2 }

/-- Bytes and flags of an element in a format of `cstore`. -/
def storeElem (fmt : Nat) (mode : W64) (anch : Int) (e : Elem) : List Byte × W64 :=
  match fmt with
  | 0 => let r := e.deliver fmtF32 mode anch; (natBytes 4 r.1, r.2)
  | 1 => let r := e.deliver fmtBF16 mode anch; (natBytes 2 r.1, r.2)
  | _ => (e.raw anch, 0)

/-- What a resolved drain delivers: the lanes' values for `cdrain`, the rows stored for `cstore`. -/
def State.drainDeliver (s : State) (e : LogEntry) (g : Group) (acc : Acc) (fl : W64) : State :=
  match e.op with
  | .cdrain _ _ _ =>
    let vs := (drainElems e).map fun p => (p.1, (acc.elem p.2).deliver fmtF32 e.mode acc.anch)
    s.setEntry { e with bound := vs.map (fun p => (p.1, p.2.1)), fl := fl ||| vs.foldl (fun m p => m ||| p.2.2) 0 }
  | .cstore fmt _ =>
    let row (r : Nat) : List (List Byte × W64) := (List.range 64).map fun c => storeElem fmt e.mode acc.anch (acc.elem (64 * r + c))
    let rows := (List.range 64).map row
    let s := s.setEntry { e with written := 1, fl := fl ||| rows.foldl (fun m r => r.foldl (fun m p => m ||| p.2) m) 0 }
    e.accs.foldl (fun s a =>
      s.storePlace g (g.storeEntry 0 false (some e.id) e.id) a.place ((rows.getD (a.lane - 1000) []).flatMap fun p => p.1)) s
  | _ => s

/-- A drain is performed: every ash pass is tried first under ACCR 0 (R220). Rows of a `cstore` in a window wait while a copy's interval
holds them (R114). -/
def drainStep (s : State) (id : Nat) : State :=
  match s.entry? id with
  | none => s
  | some e =>
    match e.op.acc?, s.group? e.grp with
    | some n, some g =>
      let isDrain := match e.op with | .cdrain _ _ _ => e.bound.isEmpty | .cstore _ _ => e.written == 0 | _ => false
      if !isDrain || e.state != .running || s.atReturn e || e.untranslated || !s.gangRuns g || s.accOlder e n || s.locScored e.accs then s
      else
        let acc := s.accOf g n
        let ks := (drainElems e).map fun p => p.2
        let bad := ks.filter fun k => (acc.elem k).overflows
        if modeAccr e.mode != 1 && !bad.isEmpty then s.suspend e 2 n (leastOf bad) 0
        else
          let acc' := acc.drained ks
          (s.setAcc g n acc').drainDeliver e g acc' (flagIf (!bad.isEmpty) flAOVF)
    | _, _ => s

/-- DRAIN_PERFORM. -/
def execDrainPerform (entry : Nat) (s : State) : Out := .next (drainStep s entry)

end Sys2Proof.Machine
end

