-- ==== Sys2Proof/Machine/Kiln.lean ====
section
/-! DEFINITION. Relaxation regions: the KN family and the steps of the kiln (12 R228 to R252). -/
namespace Sys2Proof.Machine

/-! ## Arithmetic of the kiln (R236): codes of F32 -/

/-- `K(x − y)`, `K(x × y)`, `KF(x, y, z)`. -/
def kSub (x y : W32) : W32 := w32 (eSub fmtF32 0 .rne x.toNat y.toNat 0).1
def kMul (x y : W32) : W32 := w32 (eMul fmtF32 0 .rne x.toNat y.toNat 0).1
def kFma (x y z : W32) : W32 := w32 (eFma fmtF32 0 .rne x.toNat y.toNat z.toNat).1

/-- The code is of a finite number. -/
def kFinite (x : W32) : Bool := bits x.toNat 30 23 != 255

/-- Magnitude. -/
def kAbs (x : W32) : W32 := x &&& 0x7FFFFFFF

/-- A list of vectors is finite throughout. -/
def kAll (l : List (List W32)) : Bool := l.all fun v => v.all kFinite

/-- Element-wise over two vectors. -/
def vzip (f : W32 → W32 → W32) (a b : List W32) : List W32 := (a.zip b).map fun p => f p.1 p.2

/-- Element-wise over three vectors. -/
def vzip3 (f : W32 → W32 → W32 → W32) (a b c : List W32) : List W32 :=
  (a.zip (b.zip c)).map fun p => f p.1 p.2.1 p.2.2

/-- One level of the scan: every right side from before the level (R238 lines 4 and 5). -/
def scanLevel (n s : Nat) (ag : List (List W32 × List W32)) : List (List W32 × List W32) :=
  (List.range n).map fun j =>
    let cur := ag.getD j ([], [])
    if j < s then cur
    else
      let low := ag.getD (j - s) ([], [])
      (vzip kMul cur.1 low.1, vzip3 kFma cur.1 low.2 cur.2)

/-- The levels s = 1, 2, 4 … below n. -/
def scanLevels (n : Nat) : Nat → Nat → List (List W32 × List W32) → List (List W32 × List W32)
  | 0, _, ag => ag
  | fuel + 1, s, ag => if s < n then scanLevels n fuel (2 * s) (scanLevel n s ag) else ag

/-- The scan (R238): δ of the steps after the prefix, from the slopes and corrections. -/
def relaxScan (a c : List (List W32)) : List (List W32) :=
  (scanLevels a.length 11 1 (a.zip c)).map fun p => p.2

/-! ## Steps and lanes (R228, R229) -/

/-- The team's groups in ascending GROUPID. -/
def byGroupId (gs : List Group) : List Group := gs.mergeSort fun a b => a.role * 16 + a.index ≤ b.role * 16 + b.index

/-- Region groups in index order. -/
def State.regionGroups (s : State) (r : Region) : List Group := r.grps.filterMap s.group?

/-- Group and lane of step `t`. -/
def State.stepLane (s : State) (r : Region) (t : Nat) : Option (Group × Nat) :=
  match s.regionGroups r with
  | [] => none
  | gs@(g :: _) => (gs[(t - 1) / g.width]?).map fun h => (h, (t - 1) % g.width)

/-- Window base at which a group's blocks stand: that of its pass start. -/
def Region.wbOf (r : Region) (g : Group) : Nat :=
  match r.starts.find? fun p => p.grp == g.id with
  | some p => p.wb
  | none => g.flow.wb

/-- Slot of register X + k of a region group. -/
def Region.slotOf (r : Region) (g : Group) (k : Nat) : Dest := .slot ((r.wbOf g + r.x + k) % g.budget)

/-- The d words of a block (0 X, 1 F, 2 S) of step `t`. -/
def State.blockOf (s : State) (r : Region) (block t : Nat) : List W32 :=
  match s.stepLane r t with
  | some (g, i) => (List.range r.d).map fun e => (g.slot (r.slotOf g (block * r.d + e))).data.getD i 0
  | none => []

/-- Write u into X of every step lane, with tag F32 on every X register (R232). -/
def State.writeX (s : State) (r : Region) (u : List (List W32)) : State :=
  (s.regionGroups r).foldl (fun s g =>
    s.onGroup g.id fun h => (List.range r.d).foldl (fun h e =>
      let lanes := maskOf ((List.range g.width).filter fun i => r.step g i ≤ r.t)
      h.writeLanes (r.slotOf g e) lanes (fun i => (u.getD (r.step g i - 1) []).getD e 0) tF32) h) s

/-- Steps whose lane has exited. -/
def State.exitedSteps (s : State) (r : Region) : List Nat :=
  (List.range r.t).filterMap fun k =>
    match s.stepLane r (k + 1) with
    | some (g, i) => if g.flow.exited.getLsbD i then some (k + 1) else none
    | none => none

/-- Replace a team's region. -/
def State.setRegion (s : State) (team : Nat) (r : Region) : State :=
  match s.team? team with
  | some t => s.setTeam { t with region := r }
  | none => s

/-- Every group of a region has arrived; one with no lane left counts (R247). -/
def State.allArrived (s : State) (r : Region) : Bool :=
  (s.regionGroups r).all fun g => g.gone || r.arrived.contains g.id

/-! ## Checks common to the whole-group instructions (R241) -/

/-- Issued by every lane that has not exited, unpredicated. -/
def Ctx.wholeUnpredicated (c : Ctx) : Bool :=
  (c.g.running &&& ~~~c.cl.lanes) == 0 && c.e.pred == 7 && !c.e.pinv

/-- Last instruction of its clause. -/
def Ctx.isLast (c : Ctx) : Bool := c.cl.pos + 1 == c.cl.cnt

/-- F32 required of `n` registers from v(base), at position D (R135, R252); a block that runs past v63 is refused behind it. -/
def Ctx.needBlock (c : Ctx) (base n : Nat) : List TagCheck :=
  (List.range (Nat.min n (64 - base))).map fun k => { found := (c.g.slot (c.g.wref false (base + k))).tag, ok := [tF32], pos := 3, reg := base + k }

/-! ## rlxopen (R231, R232) -/

/-- A tolerance: −0 counts as +0. -/
def tolOf (x : W32) : W32 := if x = 0x80000000 then 0 else x

/-- A tolerance is finite and not negative. -/
def tolOk (x : W32) : Bool := kFinite x && !(tolOf x).getLsbD 31

/-- The parameters that an `rlxopen` names. -/
def Ctx.params (c : Ctx) : Region :=
  let l := c.lit
  { state := .gather, t := fld l 10 0, g := fld l 14 11 + 1, d := fld l 17 15 + 1, guess := fld l 19 18, plim := fld l 31 20,
    stallLim := fld l 39 32, atol := tolOf (c.sA.extractLsb' 0 32), rtol := tolOf (c.sA.extractLsb' 32 32),
    buf := fld c.sB 31 0, cap := fld c.sB 37 32 + 1, x := c.fd }

/-- Two registrations agree. -/
def Region.sameParams (a b : Region) : Bool :=
  a.t == b.t && a.g == b.g && a.d == b.d && a.guess == b.guess && a.plim == b.plim && a.stallLim == b.stallLim
    && a.atol == b.atol && a.rtol == b.rtol && a.buf == b.buf && a.cap == b.cap && a.x == b.x

/-- The cases of ILLOP 0x0D of `rlxopen` (R231). Once G groups have arrived the region is as good as open. -/
def Ctx.openBad (c : Ctx) (s : State) : Bool :=
  let p := c.params
  let team := s.teamOf c.g
  !c.isLast || fld c.lit 63 40 != 0 || p.plim = 0 || p.guess = 3 || p.t = 0 || 1024 < p.t || c.w * p.g < p.t
    || (match team with | some t => t.grps.length < p.g | none => true)
    || 64 < p.x + 3 * p.d || !tolOk (c.sA.extractLsb' 0 32) || !tolOk (c.sA.extractLsb' 32 32)
    || fld c.sB 63 38 != 0 || p.buf % 32 != 0
    || (match team with | some t => t.bytes < p.buf + p.t * p.cap * 32 | none => true)
    || (match team with
        | some t => match t.region.state with
          | .open => true
          | .settled => true
          | .gather => !t.region.sameParams p || (p.g ≤ t.region.arrived.length && !t.region.arrived.contains c.g.id)
          | _ => false
        | none => true)

/-- The window registers of a block, which the kiln writes: a write in flight to one of them holds the instruction (R39). -/
def blockDests (g : Group) (base n : Nat) : List Dest := (List.range n).map fun k => g.wref false (base + k)

/-- `rlxopen`: the group registers, or joins, its team's region and waits. -/
def rlxopen (c : Ctx) (s : State) : Res :=
  let p := c.params
  wholeChecked c s (if p.guess = 0 || p.guess = 2 then c.needBlock c.fd p.d else [])
    [(!c.wholeUnpredicated, illconv 3), (c.openBad s, illop 0x0D)] <|
    match s.teamOf c.g with
    | none => .ok s
    | some t =>
      if s.destBusy c.g (blockDests c.g c.fd p.d) then .stall .dest else
      let t := if t.region.state == .gather then t else { t with prior := t.region, region := p }
      let r := t.region
      .stay ((s.setTeam { t with region := { r with arrived := (r.arrived.filter fun i => i != c.g.id) ++ [c.g.id] } }).onGroup
        c.g.id fun g => { g with hold := .rlxopen c.words, stall := none })

/-- `rlxopen`. -/
def execRlxopen (o : Ops) (s : State) : Out := issue 0x1C 0 o rlxopen s

/-- Raise a trap in a held group at its instruction. -/
def State.raiseHeld (s : State) (id : Nat) (p : Cause × W64) : State :=
  match s.group? id with
  | some { clause := some cl, .. } =>
    s.raise id { cause := p.1, info := p.2, pc := cl.next, pos := cl.pos, seta := cl.seta, setb := cl.setb, lanes := cl.lanes,
                 clause := some cl }
  | _ => s

/-- First inputs (R232). -/
def State.firstU (s : State) (r : Region) : List (List W32) :=
  let x (t : Nat) := s.blockOf r 0 t
  (List.range r.t).map fun k =>
    if k = 0 then x 1
    else match r.guess with
      | 0 => x 1
      | 1 => List.replicate r.d 0
      | _ => x (k + 1)

/-- The pass-start state of a group that goes on to its body. -/
def passStart (g : Group) (body : W64) : PassStart :=
  { grp := g.id, mode := g.csrs.mode, flags := g.csrs.flags, links := g.flow.links, loops := g.flow.loops, wb := g.flow.wb, body := body }

/-- Address of the header after the clause of a held group. -/
def Group.afterHeld (g : Group) (words : Nat) : W64 :=
  match g.clause with
  | some cl => cl.next + w64 (4 * words)
  | none => 0

/-- The groups of a join, with the length of the instruction that holds each. -/
def State.joined (s : State) (ids : List Nat) : List (Group × Nat) :=
  (ids.filterMap s.group?).filterMap fun g =>
    match g.hold with
    | .rlxopen w => some (g, w)
    | .rlxpass w => some (g, w)
    | .rlxclose w => some (g, w)
    | _ => none

/-- The join of `rlxopen` (R232). -/
def openJoin (s : State) (team : Nat) : State :=
  match s.team? team with
  | none => s
  | some t =>
    let r := t.region
    let held := s.joined r.arrived
    if r.state != .gather || held.length < r.g then s
    else
      let r := { r with grps := (byGroupId (held.map fun p => p.1)).map fun g => g.id, arrived := [] }
      if !(s.exitedSteps r).isEmpty then
        r.grps.foldl (fun s id => s.raiseHeld id (illconv 3)) (s.setTeam { t with region := t.prior })
      else
        let u := s.firstU r
        let s := held.foldl (fun s p => s.onGroup p.1.id fun g => ({ g with hold := .none }).advance p.2 true) s
        let starts := held.filterMap fun p => (s.group? p.1.id).map fun g => passStart g (p.1.afterHeld p.2)
        let r := { r with state := .open, u := u, starts := starts }
        (s.setRegion team r).writeX r u

/-- RLXOPEN_JOIN. -/
def execRlxopenJoin (team : Nat) (s : State) : Out := .next (openJoin s team)

/-! ## rlxpass (R241) -/

/-- The region of which the group is a member, open. -/
def State.openRegion (s : State) (g : Group) : Option Region :=
  match s.regionOf g with
  | some r => if r.state == .open then some r else none
  | none => none

/-- The pass start of a group. -/
def Region.startOf (r : Region) (g : Group) : Option PassStart := r.starts.find? fun p => p.grp == g.id

/-- `rlxpass` (at trap level: DEDUCED, log entry 26). -/
def rlxpass (c : Ctx) (s : State) : Res :=
  let r? := if c.g.flow.tl then none else s.openRegion c.g
  let tags := match r? with | some r => c.needBlock (r.x + r.d) (2 * r.d) | none => []
  let bad := match r? with
    | none => true
    | some r => match r.startOf c.g with
      | some p => p.links.length != c.g.ldepth || p.wb != c.g.flow.wb || p.loops.length != c.g.flow.loops.length
      | none => true
  wholeChecked c s tags [(!c.wholeUnpredicated, illconv 3), (!c.isLast || bad, illop 0x0D)] <|
    match r?.bind fun r => r.startOf c.g with
    | none => .ok s
    | some _ =>
      match s.teamOf c.g with
      | none => .ok s
      | some t =>
        if s.destBusy c.g (blockDests c.g t.region.x t.region.d) then .stall .dest
        else
          .stay ((s.setRegion t.id { t.region with arrived := (t.region.arrived.filter fun i => i != c.g.id) ++ [c.g.id] }).onGroup
            c.g.id fun g => { g with hold := .rlxpass c.words, stall := none })

/-- `rlxpass`. -/
def execRlxpass (o : Ops) (s : State) : Out := issue 0x1C 1 o rlxpass s

/-! ## The pass end (R235, R237, R239) -/

/-- Two entries overlap in one address space (R235). -/
def REntry.overlaps (a b : REntry) : Bool :=
  a.loc == b.loc && meets a.addr.toNat (2 ^ a.lg) b.addr.toNat (2 ^ b.lg)

/-- A load entry of a list overlaps an earlier store entry: of the stores given, or of its own list. -/
def aliased (stores : List REntry) : List REntry → Bool
  | [] => false
  | e :: t =>
    (!e.store && stores.any fun x => e.overlaps x) || aliased (if e.store then stores ++ [e] else stores) t

/-- The steps of the alias set, from the entries of the steps in order. -/
def aliasSteps (stores : List REntry) (step : Nat) : List (List REntry) → List Nat
  | [] => []
  | l :: t =>
    (if aliased stores l then [step] else []) ++ aliasSteps (stores ++ l.filter fun e => e.store) (step + 1) t

/-- Leading steps whose output matches the next input (R237 line 4). -/
def prefixLen : List (List W32) → List (List W32) → Nat
  | y :: ys, u :: us => if y == u then 1 + prefixLen ys us else 0
  | _, _ => 0

/-- The least of a list and a bound. -/
def leastOr (d : Nat) (l : List Nat) : Nat := l.foldl min d

/-- How a pass ends. -/
inductive PassEnd where
  /-- Exit(status, n, inputs). -/
  | exit (code n : Nat) (inputs : List (List W32))
  | again (u : List (List W32))
deriving DecidableEq, Repr

/-- What R237 finds: the region's figures and how the pass ends. `y`, `a`: outputs and slopes; `te`: least exited step;
`ab`: aborted. -/
def passResult (r : Region) (y a : List (List W32)) (te : Nat) (ab : Bool) : Region × PassEnd :=
  let n := r.t
  let u := r.u
  let passes := r.passes + 1
  let p := 1 + prefixLen (y.take (n - 1)) (u.drop 1)
  let r := { r with passes := passes, p := p }
  let tc := leastOr (n + 1) r.overs
  let al := aliasSteps [] 1 ((List.range n).map fun k => aget r.entries (k + 1) [])
  let ta := leastOr (n + 1) al
  if ab then (r, .exit 7 (min p (te - 1)) u)
  else if !r.overs.isEmpty then (r, .exit 6 (min p (tc - 1)) u)
  else if !al.isEmpty then (r, .exit 5 (min p (ta - 1)) u)
  else if !(kAll y && kAll a) then (r, .exit 4 p u)
  else if p = n then (r, .exit 0 n u)
  else
    -- c and a of steps P … T − 1
    let c := (List.range (n - p)).map fun j => vzip kSub (y.getD (p + j - 1) []) (u.getD (p + j) [])
    let d := relaxScan ((List.range (n - p)).map fun j => a.getD (p + j - 1) []) c
    let delta := List.replicate p (List.replicate r.d (0 : W32)) ++ d
    let r := { r with delta := delta }
    if !(kAll c && kAll d) then (r, .exit 4 p u)
    else
      let next (t : Nat) : List W32 :=
        vzip3 (fun dl (sl : W32) (out : W32) => if kAbs dl = 0 then out else kFma sl dl out)
          (delta.getD t []) (a.getD t []) (y.getD t [])
      let u' := u.take 1 ++ (List.range (n - 1)).map next
      if !kAll u' then (r, .exit 4 p u)
      else
        let res := (delta.flatMap fun v => v.map fun x => (kAbs x).toNat).foldl max 0
        let ok := (delta.zip u').all fun q => (q.1.zip q.2).all fun e =>
          (kAbs e.1).toNat ≤ (kFma r.rtol (kAbs e.2) r.atol).toNat
        let r := { r with r := w32 res }
        if ok then (r, .exit 1 n u')
        else
          let better := res < r.rbest.toNat
          let r := { r with rbest := if better then w32 res else r.rbest, nstall := if better then 0 else r.nstall + 1 }
          if r.stallLim != 0 && r.nstall = r.stallLim then (r, .exit 3 p u')
          else if passes = r.plim then (r, .exit 2 p u')
          else (r, .again u')

/-- Every lane that has not exited stands at an address, outside any clause. -/
def Group.standAt (g : Group) (a : W64) : Group :=
  { g with
      clause := none, stall := none
      flow := { g.flow with lpc := (List.range g.width).map fun i =>
        if g.flow.exited.getLsbD i then g.flow.lpc.getD i 0 else lpcOf a } }

/-- The entries of every step reset, and what a pass counts. -/
def Region.resetPass (r : Region) : Region :=
  { r with entries := [], overs := [], arrived := [], aborted := false, passClocks := 0, stopClocks := 0 }

/-- Each region group's state as the next pass starts, which is what an abandoned pass goes back to (R163, R248, R250). -/
def State.renewStarts (s : State) (r : Region) : Region :=
  { r with starts := r.starts.map fun p => match s.group? p.grp with | some g => passStart g p.body | none => p }

/-- The end of a pass (R237, R239). A stop that was requested falls after the join (R248). -/
def passEnd (s : State) (team : Nat) : State :=
  match s.team? team with
  | none => s
  | some t =>
    let r := t.region
    if r.state != .open || !s.allArrived r then s
    else
      let steps := (List.range r.t).map fun k => k + 1
      let ex := s.exitedSteps r
      let res := passResult r (steps.map (s.blockOf r 1)) (steps.map (s.blockOf r 2)) (leastOr (r.t + 1) ex) (r.aborted || !ex.isEmpty)
      let held := s.joined r.arrived
      match res.2 with
      | .exit code n inputs =>
        let r := { res.1 with
          state := .settled, code := code, p := n, tol := code == 1, u := inputs,
          commit := if code ≤ 1 then r.t else n, arrived := [] }
        let s := (s.setRegion team r).writeX r inputs
        held.foldl (fun s p => s.onGroup p.1.id fun g => ({ g with hold := .none }).advance p.2 false) s
      | .again u =>
        let r := s.renewStarts { res.1.resetPass with u := u }
        let s := (s.setRegion team r).writeX r u
        held.foldl (fun s p =>
          let stop := s.stopRequested p.1
          (if stop then s.seePaths p.1 else s).onGroup p.1.id fun g =>
            { g.standAt (match r.startOf g with | some q => q.body | none => 0) with
                hold := if stop then .stopped else .none }) s

/-- KILN_PASS_END. -/
def execKilnPassEnd (team : Nat) (s : State) : Out := .next (passEnd s team)

/-! ## A pass abandoned (R248) -/

/-- A group back at its pass start. -/
def Group.atPassStart (g : Group) (p : PassStart) : Group :=
  let g := g.standAt p.body
  { g with
      hold := .stopped
      csrs := { g.csrs with mode := p.mode, flags := p.flags }
      flow := { g.flow with links := p.links, loops := p.loops, wb := p.wb, fl := List.replicate g.width p.links.length } }

/-- A stop waits on the pass and one of the bounds is reached. -/
def State.passOverdue (s : State) (r : Region) : Bool :=
  r.state == .open && !s.allArrived r && (s.regionGroups r).any (fun g => s.stopRequested g)
    && (65536 ≤ r.passClocks || 32768 ≤ r.stopClocks)

/-- No region group is at trap level, on its way there, or has an instruction in the log that runs; one may be frozen. -/
def State.passQuiet (s : State) (r : Region) : Bool :=
  (s.regionGroups r).all fun g => !g.flow.tl && g.pend.isNone && s.earlierDone g

/-- The pass is abandoned. -/
def passAbandon (s : State) (team : Nat) : State :=
  match s.team? team with
  | none => s
  | some t =>
    let r := t.region
    if !s.passOverdue r || !s.passQuiet r then s
    else
      let s := (s.regionGroups r).foldl (fun s g =>
        match r.startOf g with
        | some p => if g.gone then s else (s.seePaths g).onGroup g.id fun g => g.atPassStart p
        | none => s) s
      (s.setRegion team r.resetPass).writeX r r.u

/-- KILN_PASS_ABANDON. -/
def execKilnPassAbandon (team : Nat) (s : State) : Out := .next (passAbandon s team)

/-! ## rlxclose (R243, R244) -/

/-- The settled region of which the group is a member. -/
def State.settledRegion (s : State) (g : Group) : Bool :=
  match s.regionOf g with
  | some r => r.state == .settled
  | none => false

/-- `rlxclose`. -/
def rlxclose (c : Ctx) (s : State) : Res :=
  wholeChecked c s [] [(!c.wholeUnpredicated, illconv 3), (!s.settledRegion c.g, illop 0x0D)] <|
    match s.teamOf c.g with
    | none => .ok s
    | some t =>
      .stay ((s.setRegion t.id { t.region with arrived := (t.region.arrived.filter fun i => i != c.g.id) ++ [c.g.id] }).onGroup
        c.g.id fun g => { g with hold := .rlxclose c.words, stall := none })

/-- `rlxclose`. -/
def execRlxclose (o : Ops) (s : State) : Out := issue 0x1C 2 o rlxclose s

/-- The committed store entries with their steps, in step and list order. -/
def Region.committed (r : Region) : List (Nat × REntry) :=
  (List.range r.commit).flatMap fun k => ((aget r.entries (k + 1) []).filter fun e => e.store).map fun e => (k + 1, e)

/-- EMBREQ of the commit (R243, R360). -/
def State.commitEmbreq (s : State) (g : Group) (r : Region) : Option (Cause × W64) :=
  s.embreqOf g 4 ((r.committed.filter fun p => !p.2.loc).map fun p => { lane := 0, va := p.2.addr, n := 2 ^ p.2.lg })

/-- BARBUSY of the commit (R117, R126). -/
def State.commitBarbusy (s : State) (r : Region) : Option (Cause × W64) :=
  r.committed.findSome? fun p =>
    match p.2.place with
    | .loc t off => (s.barrierHit t off (2 ^ p.2.lg)).map fun b => barbusy (fld p.2.addr 21 20) 4 b
    | _ => none

/-- The groups of an `rlxclose` go on and the region is closed. -/
def State.closeRegion (s : State) (team : Nat) (r : Region) : State :=
  (s.joined r.arrived).foldl (fun s p => s.onGroup p.1.id fun g => ({ g with hold := .none }).advance p.2 true)
    (s.setRegion team { r with state := .closed, entries := [], arrived := [] })

/-- Every region group's `rlxclose` raises a trap, and nothing is written. -/
def State.refuseClose (s : State) (team : Nat) (r : Region) (p : Cause × W64) : State :=
  r.arrived.foldl (fun s id => s.raiseHeld id p) (s.setRegion team { r with arrived := [] })

/-- What a release store of GROUP scope waits for, in every region group (R244, R84, R82). -/
def State.commitMay (s : State) (r : Region) : Bool :=
  (s.regionGroups r).all fun g => s.released g 0 && !s.acquirePending g

/-- The other tiles on which region groups stand. -/
def State.mateTiles (s : State) (r : Region) (g : Group) : List Nat :=
  ((s.regionGroups r).filterMap s.groupTile).eraseDups.filter fun t => some t != s.groupTile g

/-- A committed global store enters the store paths of the region groups' tiles as a store of each region group, behind the one
before it (R244). -/
def State.commitStore (s : State) (r : Region) (g : Group) (ps : List Piece) (bs : List Byte) : State :=
  s.storePieces g { g.storeEntry 0 false none r.inst with
    dev := true, mates := s.mateTiles r g, seen := r.grps.filter fun i => i != g.id } ps bs

/-- A committed store before this one still stands in a store path: a local one waits for it (R244). -/
def State.commitOnWay (s : State) (r : Region) : Bool := s.tiles.any fun p => p.2.path.any fun e => e.inst == r.inst && e.dev

/-- What performing one committed entry gives. -/
inductive CRes where
  | done (s : State)
  | wait (s : State)
  | fails (s : State) (f : AFail)
deriving DecidableEq, Repr

/-- Perform one committed entry of a step: into the window, or, translated again, into the store path, after the earlier loads
of its lane on its bytes (R243, R258). -/
def State.commitOne (s : State) (r : Region) (g : Group) (k : Nat) (e : REntry) : CRes :=
  match e.place with
  | .loc t off =>
    if s.scoreHit t off (2 ^ e.lg) false || s.commitOnWay r then .wait s else .done (s.windowWriteKeep t off e.data)
  | _ =>
    match s.resolve (s.agent g) e.addr (2 ^ e.lg) .write (s.workId g) with
    | (s, .ok ps) =>
      let a : Access := { lane := 0, va := e.addr, n := 2 ^ e.lg, place := .phys ps }
      match (match s.stepLane r k with | some (h, i) => s.bindBefore h s.nextId [{ a with lane := i }] | none => .ok s) with
      | .ok s => .done (s.commitStore r g ps e.data)
      | .wait => .wait s
      | .bad s => .wait s
    | (s, .fault f) => .fails s (.fault f)
    | (s, .perm) => .fails s (.perm e.addr)
    | (s, .bad pa) => .fails s (.bad e.addr pa)
    | (s, .reg) => .fails s .reg

/-- A fault of the commit stalls the first region group at its instruction; the commit begins again from the first entry. -/
def State.commitFails (s : State) (team : Nat) (r : Region) (g : Group) (f : AFail) : Out :=
  let s := s.setRegion team { r with next := 0 }
  match f with
  | .fault f =>
    match s.postFault f (.group g.id) with
    | some (num, s) => .next (s.onGroup g.id fun g => { g with stall := some (.token num) })
    | none => .next s
  | .perm va => .next (if g.frozen.isSome then s else s.freeze g 0x20 va.toNat 0)
  | .bad va pa => .next (if g.frozen.isSome then s else s.freeze g (s.badCause pa) va.toNat pa)
  | .reg => .fault .deviceRegister

/-- The join of `rlxclose` (R243): its checks, then one committed entry each time, and after the last the region closes. A stop
may fall between two entries. -/
def closeJoin (s : State) (team : Nat) : Out :=
  match s.team? team with
  | none => .next s
  | some t =>
    let r := t.region
    if r.state != .settled || !s.allArrived r then .next s
    else
      match s.regionGroups r with
      | [] => .next s
      | g :: _ =>
        if (match g.stall with | some (.token n) => (s.token? n).isSome | _ => false) || g.frozen.isSome then .next s
        else
          match (if r.next = 0 then (s.commitEmbreq g r).orElse fun _ => s.commitBarbusy r else none) with
          | some p => .next (s.refuseClose team r p)
          | none =>
            match r.committed[r.next]? with
            | none => .next (s.closeRegion team r)
            | some (k, e) =>
              if r.next = 0 && !s.commitMay r then .next s
              else
                let p : State × Region := if r.inst = 0 then (s.takeId.2, { r with inst := s.takeId.1 }) else (s, r)
                match p.1.commitOne p.2 g k e with
                | .wait s => .next s
                | .fails s f => s.commitFails team p.2 g f
                | .done s => .next (s.setRegion team { p.2 with next := r.next + 1 })

/-- RLXCLOSE_JOIN. -/
def execRlxcloseJoin (team : Nat) (s : State) : Out := closeJoin s team

/-! ## rlxstat, rlxres, rlxabort (R245 to R247) -/

/-- The region of a context's team. -/
def State.teamRegion (s : State) (g : Group) : Region := match s.teamOf g with | some t => t.region | none => {}

/-- Code of a state (R245). -/
def RState.code : RState → Nat
  | .none => 0
  | .gather => 1
  | .open => 1
  | .settled => 2
  | .closed => 3

/-- The status word, and the residual word (R245). -/
def Region.statWord (r : Region) : W64 :=
  w64 (r.passes % 4096 * 2 ^ 32 + r.p % 2048 * 2 ^ 16 + r.state.code * 16 + (if r.tol then 8 else 0) + r.code % 8)
def Region.residWord (r : Region) : W64 := w64 (r.r.toNat + r.rbest.toNat * 2 ^ 32)

/-- `rlxstat`. -/
def rlxstat (c : Ctx) (s : State) : Res :=
  rlxGate c s <| c.guarded [(1 < c.fb, illop 0x0D)] <| c.once s
    (.ok (c.putS s (if c.fb = 0 then (s.teamRegion c.g).statWord else (s.teamRegion c.g).residWord)))

/-- `rlxstat`. -/
def execRlxstat (o : Ops) (s : State) : Out := issue 0x1C 3 o rlxstat s

/-- `rlxres`. -/
def rlxres (c : Ctx) (s : State) : Res :=
  let k := c.fb
  let r? := s.regionOf c.g
  let val (i : Nat) : W32 :=
    match r? with
    | some r =>
      let t := r.step c.g i
      if t ≤ 1 || t ≤ r.p || r.t < t then 0 else (r.delta.getD (t - 1) []).getD k 0
    | none => 0
  checked c s [] [(7 < k || (match r? with | some r => r.d ≤ k | none => false), illop 0x0D)] (.ok (c.putV s 0 val tF32))

/-- `rlxres`. -/
def execRlxres (o : Ops) (s : State) : Out := issue 0x1C 4 o rlxres s

/-- `rlxabort`: accepted at trap level too. -/
def rlxabort (c : Ctx) (s : State) : Res :=
  rlxGate c s <| c.once s <|
    match s.openRegion c.g with
    | none => .ofPair (illop 0x0D)
    | some r => .ok (s.setRegion c.g.team { r with aborted := true })

/-- `rlxabort`. -/
def execRlxabort (o : Ops) (s : State) : Out := issue 0x1C 5 o rlxabort s

end Sys2Proof.Machine
end

