-- ==== Sys2Proof/Machine/Csr.lean ====
section
/-! DEFINITION. The CSRs that `csrrd` and `csrwr` reach (06 R128, R145, R146; 07 R164; 16 R285; 17 R323; 18 R339;
21 R359; 20 R352; 23 R402). -/
namespace Sys2Proof.Machine

/-- Step of the top frame; 0 without one (R128). -/
def Group.topStep (g : Group) : Nat := match g.flow.links with | e :: _ => e.step | [] => 0

/-- WINSTAT (R128). -/
def Group.winstat (g : Group) : W64 :=
  w64 (g.flow.lo * 2 ^ 44 + g.flow.wb * 2 ^ 24 + (g.budget / 4 - 1) * 2 ^ 16 + g.ldepth * 2 ^ 11
    + g.flow.loops.length * 2 ^ 8 + g.topStep * 2 ^ 2 + (if g.flow.tl then 2 else 0))

/-- DETCTL (R323). -/
def detctl (w : Work) (t : Team) : W64 :=
  w64 (t.visits % 2 ^ 32 * 2 ^ 16 + (if w.abort then 16 else 0) + (if t.skip then 8 else 0)
    + (if w.holds t then 4 else 0) + w.det)

/-- An identity CSR of a tile group (R285, R323, R324, R339); `none` for another number. -/
def identity (s : State) (g : Group) (t : Team) (w : Work) (k : Gang) (n : Nat) : Option W64 :=
  match n with
  | 0x002 => some w.sig
  | 0x003 => some (detctl w t)
  | 0x010 => some (w64 (let p := (s.groupTile g).getD 0; p / 104 * 256 + p % 104))
  | 0x011 => some (w64 t.ltile)
  | 0x012 => some (w64 (g.role * 16 + g.index))
  | 0x013 => some (w64 t.l)
  | 0x014 => some (w64 k.k)
  | 0x015 => some (w64 w.num)
  | _ => none

/-- The numbers of the identity CSRs. -/
def isIdentity (n : Nat) : Bool := n == 2 || n == 3 || (0x10 ≤ n && n ≤ 0x15)

/-- Read a user CSR (R145, R146); `none`: no such CSR. Of a stoker core the spec gives LPLACE only; its other
identity CSRs read a free value (DESIGN CHOICE, log entry 1). -/
def State.csrRead (s : State) (g : Group) (n : Nat) : State × Option W64 :=
  match n with
  | 0x000 => (s, some g.csrs.mode)
  | 0x001 => (s, some g.csrs.flags)
  | 0x020 => (s, some g.csrs.spillbase)
  | 0x021 => (s, some g.winstat)
  | 0x030 => (s, some g.csrs.trapvec)
  | 0x031 => (s, some g.csrs.trapcause)
  | 0x032 => (s, some g.csrs.trappc)
  | 0x033 => (s, some g.csrs.trapinfo)
  | 0x041 => (s, some g.csrs.deadline)
  | 0x100 => (s, some s.caps)
  | n =>
    if !isIdentity n then (s, none)
    else match g.core with
      | some c => if n = 0x011 then (s, some (w64 c.num)) else let (v, s) := s.takeFree; (s, some v)
      | none =>
        match s.teamOf g, s.workOf g, s.gangOf g with
        | some t, some w, some k => (s, identity s g t w k n)
        | _, _, _ => (s, some 0)

/-- Every variable-latency instruction whose flags a FLAGS access waits for has completed: those that the group
issued, at trap level those that the handler issued (R164), a suspended one apart (R209). -/
def State.flagsReady (s : State) (g : Group) : Bool :=
  !(s.log.any fun e => e.grp == g.id && e.state != .suspended && (!g.flow.tl || e.tlevel))

/-- What a CSR write gives. -/
inductive WRes where
  | ok (s : State)
  | bad (reason : Nat)
  | wait
deriving DecidableEq, Repr

/-- Mark physical slots dirty. -/
def Group.dirtySlots (g : Group) (l : List Nat) : Group :=
  { g with regs := { g.regs with slots := l.foldl (fun (sl : List Slot) n =>
      lset sl n { sl.getD n {} with dirty := true }) g.regs.slots } }

/-- A window register of free values (R128, DESIGN CHOICE, log entry 6); nothing has written it, so it is not dirty (R136). -/
def freeSlot (w : Nat) (s : State) : Slot × State :=
  let (tag, s) := s.takeFree
  ({ data := (List.range w).map fun i => (Config.freeWord (s.fresh + i)).extractLsb' 0 32,
     tag := tag.extractLsb' 0 4, dirty := false }, { s with fresh := s.fresh + w })

/-- Registers newly covered by a lowered LO hold free values. -/
def State.coverSlots (s : State) (gid : Nat) : List Nat → State
  | [] => s
  | n :: t =>
    match s.group? gid with
    | none => s
    | some g =>
      let (sl, s) := freeSlot g.width s
      (s.onGroup gid fun g => g.setSlot (.slot n) sl).coverSlots gid t

/-- Write LO alone (R128). -/
def State.writeLo (s : State) (g : Group) (v : W64) : WRes :=
  let lo := fld v 63 44
  if lo ≤ g.flow.wb + 60 && g.flow.wb + 64 ≤ g.budget + lo then
    let s := s.onGroup g.id fun g => { g with flow := { g.flow with lo := lo } }
    .ok (s.coverSlots g.id (g.slotsOf lo g.flow.lo))
  else .bad 0x0D

/-- Change the CSRs of a group. -/
def State.onCsrs (s : State) (g : Group) (f : Csrs → Csrs) : State := s.onGroup g.id fun g => { g with csrs := f g.csrs }

/-- The writable bits of TRAPCAUSE (R359). -/
def trapcauseMask : W64 := 0x0000000000FFFCFF

/-- Write a user CSR (R145, R146, R164, R359). `high` is trap or privileged level. -/
def State.csrWrite (s : State) (g : Group) (n : Nat) (v : W64) : WRes :=
  let high := g.flow.tl || g.core.isSome
  let addr := fld v 63 52 = 0 && fld v 1 0 = 0
  if 0x200 ≤ n then .bad 0x0B
  else match n with
  | 0x000 =>
    if fld v 63 10 != 0 || 5 ≤ fld v 2 0 || 2 ≤ fld v 7 6 then .bad 0x0D
    else .ok (s.onCsrs g fun c => { c with mode := v })
  | 0x001 =>
    if fld v 63 10 != 0 then .bad 0x0D
    else if !s.flagsReady g then .wait
    else .ok (s.onCsrs g fun c => { c with flags := v })
  | 0x020 =>
    if !addr then .bad 0x0D
    else .ok (s.onGroup g.id fun g =>
      { g.dirtySlots (g.slotsOf g.flow.lo (g.flow.wb + 64)) with csrs := { g.csrs with spillbase := v } })
  | 0x030 => if !addr then .bad 0x0D else .ok (s.onCsrs g fun c => { c with trapvec := v })
  | 0x021 => if !high then .bad 0x0B else s.writeLo g v
  | 0x031 => if !high then .bad 0x0B else .ok (s.onCsrs g fun c => { c with trapcause := v &&& trapcauseMask })
  | 0x032 =>
    if !high then .bad 0x0B
    else if !addr then .bad 0x0D
    else .ok (s.onGroup g.id fun g =>
      { g with csrs := { g.csrs with trappc := v }, frame := g.frame.map fun f => { f with pcWritten := true } })
  | 0x033 => if !high then .bad 0x0B else .ok (s.onCsrs g fun c => { c with trapinfo := v })
  | n => if isIdentity n || n = 0x041 || n = 0x100 then .bad 0x0B else .bad 0x0D

/-- `csrrd`. -/
def csrrd (c : Ctx) (s : State) : Res :=
  let n := csrNumA c.o
  present [(0x200 ≤ n, illop 0x0B)] <|
    match s.csrRead c.g n with
    | (_, none) => c.once s (.ofPair (illop 0x0D))
    | (t, some v) => c.once s (if n = 0x001 && !s.flagsReady c.g then .stall .order else .ok (c.putS t v))

/-- A `csrwr` of a CSR: the rights by level first, which are a matter of step 7 of R43, then the value, where a lane
executes. -/
def csrwrOf (n : Nat) (c : Ctx) (s : State) : Res :=
  match s.csrWrite c.g n c.sA with
  | .bad r => present [(r == 0x0B, illop 0x0B)] (c.once s (.ofPair (illop r)))
  | .wait => c.once s (.stall .order)
  | .ok t => c.once s (.ok t)

/-- `csrwr`. -/
def csrwr (c : Ctx) (s : State) : Res := csrwrOf (csrNumD c.o) c s

end Sys2Proof.Machine
end

