-- ==== Sys2Proof/Machine/Queues.lean ====
section
/-! DEFINITION. Hardware queues and mailboxes QM (17 R315 to R317), the event MAILBOX_DELIVERY (17 R316). -/
namespace Sys2Proof.Machine

/-! ## Helpers of the families of work -/

/-- Read a block of memory once, as a load of the group (R312, R392): the waits of a load, a precise fault, then `f`. -/
def Ctx.readBlock (c : Ctx) (s : State) (va : W64) (n : Nat) (f : State → List Byte → Res) : Res :=
  let acc : Access := { lane := scalarLane, va := va, n := n }
  c.afterAcquires s <| c.afterWaiters s [acc] <|
    match s.resolve (s.agent c.g) va n .read (s.workId c.g) with
    | (s, .fault r) => .fault s r
    | (s, .perm) => .freeze s 0x20 va.toNat 0
    | (s, .bad pa) => .freeze s (s.badCause pa) va.toNat pa
    | (_, .reg) => .stop .deviceRegister
    | (s, .ok ps) =>
      let tile := (s.groupTile c.g).getD 0
      let wide := s.tileWide c.g 0
      match s.badPiece c.g tile wide va (fun _ => true) ps with
      | some (at', pa) => .freeze s (s.badCause pa) at' pa
      | none => let p := s.readPieces c.g tile wide 0 ps; f p.1 p.2

/-- An instruction uses words of a die's collective table: its context freezes at an uncorrectable error in them (R48, R382; DESIGN
CHOICE, log entry 54). -/
def readsTable (s : State) (die : Nat) (offs : List Nat) (r : Res) : Res :=
  match s.collBad die offs with
  | some pa => .freeze s (s.badCause pa) pa pa
  | none => r

/-- DEVICE scope. -/
def scopeDevice : Nat := 4

/-! ## Queues (R315) -/

/-- Entries of queue `q` of a die, oldest first. -/
def State.queue (s : State) (die q : Nat) : List W64 := aget (s.die die).queues q []

/-- Replace a queue. -/
def State.setQueue (s : State) (die q : Nat) (l : List W64) : State :=
  let d := s.die die
  s.setDie die { d with queues := if l.isEmpty then adel d.queues q else aset d.queues q l }

/-- Die and number of the queue that PLACE names (R336). -/
def Ctx.queueOf (c : Ctx) (s : State) : Nat × Nat :=
  let e := s.pbankEntry (c.e.place.toNat % 1024)
  (fld e 8 8, fld e 7 0)

/-- The oldest pop that waits on a queue. -/
def State.oldestPop (s : State) (die q : Nat) : Option LogEntry :=
  s.log.find? fun e => e.op == .qpop die q false && e.bound.isEmpty

/-- Serve the waiting pops of a queue in the order in which they reached it, each whole; at most `fuel`. -/
def State.servePops (s : State) (die q : Nat) : Nat → State
  | 0 => s
  | fuel + 1 =>
    match s.oldestPop die q with
    | none => s
    | some e =>
      let lanes := lanesOf 64 e.lanes
      let l := s.queue die q
      if l.length < lanes.length then s
      else
        (((s.setQueue die q (l.drop lanes.length)).setEntry
          { e with bound := lanes.zip ((l.take lanes.length).map fun v => v.toNat) })).servePops die q fuel

/-- `qpush`. -/
def qpush (c : Ctx) (s : State) : Res :=
  rlxGate c s <|
    let q := c.queueOf s
    let l := s.queue q.1 q.2
    if 256 < l.length + c.lanes.length then .stall .resource
    else
      let new := c.lanes.map fun i => w64 ((c.opAk 0 i).toNat + (c.opAk 1 i).toNat * 2 ^ 32)
      .ok ((s.setQueue q.1 q.2 (l ++ new)).servePops q.1 q.2 256)

/-- `qpush`. -/
def execQpush (o : Ops) (s : State) : Out := issue 0x1D 0 o qpush s

/-- The destinations of an NB instruction that found nothing: its predicate (R34). -/
def nbOnly (e : LogEntry) : LogEntry := { e with dests := e.nbp.toList }

/-- `qpop`: with NB it takes what the queue holds at issue. -/
def qpop (c : Ctx) (s : State) : Res :=
  rlxGate c s <|
    if !c.anyLane then .ok (c.logIssue s .nothing id).1
    else
      let q := c.queueOf s
      if c.e.nb then
        let l := s.queue q.1 q.2
        let got := c.lanes.zip (l.map fun v => v.toNat)
        if got.isEmpty then .ok (c.logIssue s .nothing nbOnly).1
        else
          let s := s.setQueue q.1 q.2 (l.drop got.length)
          .ok (c.logIssue s (.qpop q.1 q.2 true) fun e => { e with bound := got }).1
      else .ok ((c.logIssue s (.qpop q.1 q.2 false) id).1.servePops q.1 q.2 256)

/-- `qpop`. -/
def execQpop (o : Ops) (s : State) : Out := issue 0x1D 1 o qpop s

/-! ## Mailboxes (R316) -/

/-- Messages in a mailbox of an agent, oldest first. -/
def State.mailbox (s : State) (agent box : Nat) : List (List Byte) := aget s.mail (8 * agent + box) []

/-- Replace a mailbox. -/
def State.setMailbox (s : State) (agent box : Nat) (l : List (List Byte)) : State :=
  { s with mail := if l.isEmpty then adel s.mail (8 * agent + box) else aset s.mail (8 * agent + box) l }

/-- The oldest receiver that waits on a mailbox of an agent. -/
def State.oldestRecv (s : State) (agent box : Nat) : Option LogEntry :=
  s.log.find? fun e => e.op == .mbrecv box false && e.bound.isEmpty
    && (match s.group? e.grp with | some g => g.asid.toNat == agent | none => false)

/-- A message bound by a receiver: an acquire of DEVICE scope (R280), and no later load of its group has bound (R82). -/
def State.receive (s : State) (e : LogEntry) (m : List Byte) : State :=
  let s := s.setEntry { e with bound := [(scalarLane, bytesNat m)] }
  match s.group? e.grp with
  | some g => s.acquireAt g scopeDevice
  | none => s

/-- Serve the waiting receivers of a mailbox in order, one message each; at most `fuel`. -/
def State.serveMail (s : State) (agent box : Nat) : Nat → State
  | 0 => s
  | fuel + 1 =>
    match s.oldestRecv agent box, s.mailbox agent box with
    | some e, m :: t =>
      ((s.setMailbox agent box t).receive e m).serveMail agent box fuel
    | _, _ => s

/-- `mbsend`: a release of DEVICE scope (R280), then the message goes to its die's outbound buffer. ABSENT of its place is a matter of
`placeChecks`. -/
def mbsend (c : Ctx) (s : State) : Res :=
  let e := s.pbankEntry (c.e.place.toNat % 1024)
  let die := s.dieOf c.g
  readsTable s die (peerOffs (fld e 47 40)) <| rlxGate c s <| c.once s <|
    let d := s.die die
    c.afterRelease s scopeDevice <|
      if 64 ≤ d.outbound.length then .stall .resource
      else
        let (seq, s) := s.takeId
        let m : Msg :=
          { grp := some c.g.id, seq := seq, born := s.time, module := fld e 47 40, agent := fld e 39 26, box := fld e 2 0,
            data := (List.range 16).flatMap fun i => natBytes 4 (c.opA i).toNat,
            cls := match s.workOf c.g with | some w => w.prio | none => 3 }
        .ok (s.setDie die { d with outbound := d.outbound ++ [m] })

/-- `mbsend`. -/
def execMbsend (o : Ops) (s : State) : Out := issue 0x1D 2 o mbsend s

/-- `mbrecv`. -/
def mbrecv (c : Ctx) (s : State) : Res :=
  rlxGate c s <| c.guarded [(7 < c.fa, illop 0x0D)] <|
    if !c.anyLane then .ok (c.logIssue s .nothing id).1
    else
      let agent := c.g.asid.toNat
      if c.e.nb then
        match s.mailbox agent c.fa with
        | [] => .ok (c.logIssue s .nothing nbOnly).1
        | m :: t =>
          .ok ((c.logIssue (s.setMailbox agent c.fa t) (.mbrecv c.fa true)
            fun e => { e with bound := [(scalarLane, bytesNat m)] }).1.acquireAt c.g scopeDevice)
      else .ok ((c.logIssue s (.mbrecv c.fa false) id).1.serveMail agent c.fa 16)

/-- `mbrecv`. -/
def execMbrecv (o : Ops) (s : State) : Out := issue 0x1D 3 o mbrecv s

/-- `mbpeek`. -/
def execMbpeek (o : Ops) (s : State) : Out :=
  issue 0x1D 4 o (fun c s => rlxGate c s <| c.guarded [(7 < c.fa, illop 0x0D)] <|
    c.once s (.ok (c.putS s (w64 (s.mailbox c.g.asid.toNat c.fa).length)))) s

/-- A message of this module reaches its mailbox: while no slot is free it waits. -/
def State.mailIn (s : State) (m : Msg) : Option State :=
  let l := s.mailbox m.agent m.box
  if 16 ≤ l.length then none
  else some ((s.setMailbox m.agent m.box (l ++ [m.data])).serveMail m.agent m.box 16)

/-- Two messages go to one mailbox. -/
def Msg.sameBox (a b : Msg) : Bool := a.module == b.module && a.agent == b.agent && a.box == b.box

/-- An older message of the same sender to the same mailbox waits in some die's buffer (R316). -/
def State.mailBehind (s : State) (m : Msg) : Bool :=
  s.dieNums.any fun n => (s.die n).outbound.any fun k => k.sameBox m && k.grp == m.grp && k.seq < m.seq

/-- Message `n` of a die's outbound buffer is delivered, behind no older one of its sender to its mailbox. -/
def deliverMail (s : State) (die n : Nat) : State :=
  let d := s.die die
  match d.outbound[n]? with
  | none => s
  | some m =>
    if s.mailBehind m then s
    else
      let s' := s.setDie die { d with outbound := d.outbound.eraseIdx n }
      if m.module != 0 then { s' with sends := s'.sends ++ [.message m.module m] }
      else (s'.mailIn m).getD s

/-- MAILBOX_DELIVERY. -/
def execMailboxDelivery (die n : Nat) (s : State) : Out := .next (deliverMail s die n)

end Sys2Proof.Machine
end

