-- ==== Sys2Proof/Machine/Rings.lean ====
section
/-! DEFINITION. Fault records and rings (03 R60; 21 R367, R368), notices (16 R301; 22 R387, R394), accesses of the
engines (03 R49; 22 R385), the event FAULT_RECORD_POST. -/
namespace Sys2Proof.Machine

/-! ## Records -/

/-- The 64 bytes of a record (R60). -/
def FaultRec.bytesOf (r : FaultRec) : List Byte :=
  natBytes 8 (r.va % 2 ^ 52) ++ natBytes 8 r.ipa ++ natBytes 2 r.asid ++ natBytes 1 r.vmid ++ natBytes 1 r.cause
    ++ natBytes 1 r.walk ++ natBytes 1 r.master ++ natBytes 2 0 ++ natBytes 8 r.token ++ natBytes 8 r.bytes ++ natBytes 24 0

/-- A record without a token goes to the fault buffer of its ring's die; `none` where it finds no room (R368). -/
def State.postNotice (s : State) (r : FaultRec) : Option State :=
  let die := s.ringCore r.asid / 8
  let d := s.die die
  if !s.recordFits r then none else some (s.setDie die { d with buffer := d.buffer ++ [{ r with born := s.time }] })

/-- A notice to mailbox 7 of an agent (R387): it waits in the die's outbound buffer while no slot is free. -/
def State.mailNotice (s : State) (die : Nat) (r : FaultRec) : State :=
  let m : Msg := { module := 0, agent := r.asid, box := 7, data := r.bytesOf }
  let d := s.die die
  let wait := s.setDie die { d with outbound := d.outbound ++ [m] }
  if d.outbound.any fun k => k.sameBox m then wait else (s.mailIn m).getD wait

/-! ## Rings (R367) -/

/-- Write a record, then advance PROD. -/
def State.ringPut (s : State) (r : Ring) (f : FaultRec) : State :=
  let k := s.prod r
  let s := s.homeWriteAll (r.base + 64 + 64 * (k % 2 ^ r.log2n)) f.bytesOf 0
  s.homeWrite r.base (natBytes 8 (k + 1)) 0

/-- The first record of a list whose ring takes one, with its position. -/
def State.postable (s : State) : Nat → List FaultRec → Option (Nat × FaultRec)
  | _, [] => none
  | n, f :: t => if s.ringTakes (s.ringOf f) then some (n, f) else s.postable (n + 1) t

/-- Move a record of a die's buffer into its ring. -/
def postRecord (s : State) (die : Nat) : State :=
  let d := s.die die
  match s.postable 0 d.buffer with
  | some (n, f) => (s.setDie die { d with buffer := d.buffer.eraseIdx n }).ringPut (s.ringOf f) f
  | none => s

/-- FAULT_RECORD_POST. -/
def execFaultRecordPost (die : Nat) (s : State) : Out := .next (postRecord s die)

/-! ## Accesses of the engines -/

/-- What an engine's access gives: the parts, or a hold on a token (`none`: no room for its record). -/
inductive ERes where
  | ok (pieces : List Piece)
  | held (token : Option Nat)
  /-- the device register space (R46). -/
  | reg
deriving DecidableEq, Repr

/-- Post a record for an engine that waits. -/
def State.engineWaits (s : State) (r : FaultRec) (who : Waiter) : State × ERes :=
  match s.postFault r who with
  | some (num, s) => (s, .held (some num))
  | none => (s, .held none)

/-- Translate an engine's range; a permission violation or an uncorrectable error holds it as a freeze (R370). -/
def State.engine (s : State) (ag : Agent) (va n : Nat) (k : Kind) (who : Waiter) : State × ERes :=
  match s.resolve ag (w64 va) n k none with
  | (s, .fault r) => s.engineWaits r who
  | (s, .perm) => s.engineWaits (mkFault ag va 0 0x20 0 n) who
  | (s, .bad pa) => s.engineWaits (mkFault ag va pa (s.badCause pa) 0 n) who
  | (s, .reg) => (s, .reg)
  | (s, .ok ps) =>
    match (if k.reads then s.badIn (fun _ => true) va ps else none) with
    | some (at', pa) => s.engineWaits (mkFault ag at' pa (s.badCause pa) 0 n) who
    | none => (s, .ok ps)

/-- An engine uses words of a die's collective table: an uncorrectable error in them holds it as a freeze (R48, R382). -/
def State.engineTab (s : State) (ag : Agent) (die : Nat) (offs : List Nat) (who : Waiter) : State × ERes :=
  match s.collBad die offs with
  | some pa => s.engineWaits (mkFault ag pa pa (s.badCause pa) 0 8) who
  | none => (s, .ok [])

/-- One access of an engine after another. -/
def eThen (p : State × ERes) (f : State → State × ERes) : State × ERes :=
  match p with
  | (s, .ok _) => f s
  | r => r

/-- Where a range begins. -/
def startOf (ps : List Piece) : Nat := (ps.head?.map fun p => p.pa).getD 0

/-- Read the parts of a range at home. -/
def State.readAll (s : State) (ps : List Piece) : List Byte := ps.flatMap fun p => s.homeRead p.pa p.n

/-- Write bytes into the parts of a range at home. -/
def State.writeAll (s : State) : List Piece → List Byte → State
  | [], _ => s
  | p :: t, bs => (s.homeWrite p.pa (bs.take p.n) 0).writeAll t (bs.drop p.n)

end Sys2Proof.Machine
end

