-- ==== Sys2Proof/Machine/Place.lean ====
section
/-! DEFINITION. Where teams and gangs fit: registers, windows, panels and accumulators of a tile (16 R290), the blocks
of a gang and their order (16 R291, R294), deterministic placement (17 R319), the dealer's capacity F (17 R306). -/
namespace Sys2Proof.Machine

/-! ## Free resources of a tile (R290) -/

/-- A gang stands on its tiles. -/
def Gang.resident (g : Gang) : Bool :=
  match g.state with
  | .saved _ => false
  | .retired => false
  | _ => true

/-- Teams that stand on a physical tile. -/
def State.teamsOn (s : State) (pt : Nat) : List Team :=
  s.teams.filter fun t => (s.teamTiles t).contains pt && (match s.gang? t.gang with | some k => k.resident | none => false)

/-- Free registers of every quarter of the four sequencers of a tile, and the groups on each. -/
structure Files where
  free : List (List Nat)
  groups : List Nat
deriving DecidableEq, Repr

/-- Registers in each lane quarter that a tile has. -/
def filesOf (rows : Nat) : Files := { free := List.replicate 4 (List.replicate 4 rows), groups := List.replicate 4 0 }

/-- Take a group's registers. -/
def Files.take (f : Files) (sq q0 n b : Nat) : Files :=
  { free := lset f.free sq ((f.free.getD sq []).mapIdx fun q v => if q0 ≤ q && q < q0 + n then v - b else v)
    groups := lset f.groups sq (f.groups.getD sq 0 + 1) }

/-- The files of a tile as they stand. -/
def State.files (s : State) (pt : Nat) : Files :=
  let here := s.groups.filter fun g => g.core.isNone && !g.retired && s.groupTile g == some pt
    && (match s.gangOf g with | some k => k.resident | none => false)
  here.foldl (fun f g => f.take (g.seqr % 4) g.quarter (g.width / 16) g.budget) (filesOf (s.tile pt).rows)

/-- The first place of a group on the sequencers of a team (R290): sequencer and quarter. -/
def Files.find (f : Files) (w b : Nat) : Option (Nat × Nat) :=
  let n := w / 16
  (List.range f.free.length).findSome? fun sq =>
    if 16 ≤ f.groups.getD sq 0 then none
    else ((List.range (4 / n)).map fun k => k * n).findSome? fun q0 =>
      if (List.range n).all fun i => b ≤ (f.free.getD sq []).getD (q0 + i) 0 then some (sq, q0) else none

/-- Place groups in order; `none` where one does not fit. -/
def Files.placeAll (f : Files) : List (Nat × Nat) → Option (List (Nat × Nat))
  | [] => some []
  | (w, b) :: t =>
    match f.find w b with
    | none => none
    | some (sq, q0) => ((f.take sq q0 (w / 16) b).placeAll t).map fun l => (sq, q0) :: l

/-- The files of a pair: sequencers 4 to 7 lie on the odd tile. -/
def Files.join (a b : Files) : Files := { free := a.free ++ b.free, groups := a.groups ++ b.groups }

/-- Bytes of a placed window (R290, R96). -/
def windowBytes (bytes : Nat) : Nat := (bytes + 3071) / 3072 * 3072

/-- The lowest free base of a window in a tile's 786,432 bytes, beside the windows given as (base, bytes). -/
def findWindow (used : List (Nat × Nat)) (n : Nat) : Option Nat :=
  ((List.range 256).map fun k => 3072 * k).find? fun b =>
    b + n ≤ 786432 && used.all fun u => b + n ≤ u.1 || u.1 + u.2 ≤ b

/-- Windows that stand on a tile; that of a retired team stays until its gang's tiles become free (R299). -/
def State.windowsOn (s : State) (pt : Nat) : List (Nat × Nat) :=
  ((s.teamsOn pt).filter fun t => s.teamTile t == pt && t.placed != 0).map fun t => (t.base, t.placed)

/-- Panels and accumulators taken on a tile. -/
def State.panelsOn (s : State) (pt : Nat) : Nat × Nat :=
  let l := (s.teamsOn pt).filter fun t => s.teamTile t == pt && !t.retired
  (l.foldl (fun n t => n + t.panels.length) 0, l.foldl (fun n t => n + t.accs.length) 0)

/-- What a team needs: widths and budgets of its groups, local bytes, panels, accumulators. -/
structure Needs where
  groups : List (Nat × Nat)
  bytes : Nat
  panels : Nat
  accs : Nat
  pair : Bool
deriving DecidableEq, Repr

/-- Where a team fits: sequencer and quarter of each group, window base. -/
structure Fit where
  spots : List (Nat × Nat)
  base : Nat
deriving DecidableEq, Repr

/-- A team on files and a window space (R290). -/
def fitOn (f : Files) (wins : List (Nat × Nat)) (pa : Nat × Nat) (n : Needs) : Option Fit :=
  if 32 < pa.1 + n.panels || 8 < pa.2 + n.accs then none
  else
    match f.placeAll n.groups with
    | none => none
    | some spots =>
      if n.bytes = 0 then some { spots := spots, base := 0 }
      else (findWindow wins (windowBytes n.bytes)).map fun b => { spots := spots, base := b }

/-- The team fits an empty tile, or an empty pair (R289 reason 0x0A). -/
def fitsEmpty (n : Needs) : Bool :=
  let f := filesOf 1024
  (fitOn (if n.pair then f.join f else f) [] (0, 0) n).isSome

/-- A physical tile takes placements: valid logical tile, not failed, in no exchange (R330, R376). -/
def State.takes (s : State) (lt : Nat) : Bool :=
  let pt := s.physTile lt
  bit (s.ptileEntry lt) 63 && !(s.tile pt).failed
    && !((s.die (pt / 104)).pairs.any fun p => (p.hot ≤ pt && pt < p.hot + p.size) || (p.cool ≤ pt && pt < p.cool + p.size))

/-- Fit of a team whose first logical tile is `lt`. -/
def State.fitAt (s : State) (lt : Nat) (n : Needs) : Option Fit :=
  let pt := s.physTile lt
  if !s.takes lt || (n.pair && !s.takes (lt + 1)) then none
  else
    let f := s.files pt
    fitOn (if n.pair then f.join (s.files (s.physTile (lt + 1))) else f) (s.windowsOn pt) (s.panelsOn pt) n

/-- Widths and budgets of a work's groups, in group order (R284). -/
def Work.groupNeeds (w : Work) : List (Nat × Nat) :=
  w.roles.flatMap fun r => List.replicate r.2.2.1 (w.width, 4 * (r.2.2.2 + 1))

/-- What each team of a work needs. -/
def Work.needs (w : Work) : Needs :=
  { groups := w.groupNeeds, bytes := w.localBytes, panels := w.panels, accs := w.accs, pair := w.tspan }

/-! ## Blocks of a gang (R291) -/

/-- Logical tiles of a gang of teams. -/
def gangTilesOf (teams : Nat) (pair : Bool) : Nat := teams * (if pair then 2 else 1)

/-- Every team of a gang fits the block from `lt`; the needs are those of its teams in order. -/
def State.fitBlock (s : State) (lt : Nat) (ns : List Needs) : Option (List Fit) :=
  (ns.mapIdx fun j n => (j, n)).foldr (fun p acc =>
    match acc, s.fitAt (lt + p.1 * (if p.2.pair then 2 else 1)) p.2 with
    | some l, some f => some (f :: l)
    | _, _ => none) (some [])

/-- First logical tiles of the aligned blocks of a logical cluster. -/
def blocksOf (cluster size : Nat) : List Nat := (List.range (8 / size)).map fun k => 8 * cluster + k * size

/-- Logical clusters of a die, from one on in ascending order, wrapping. -/
def clustersFrom (die c : Nat) : List Nat := (List.range 12).map fun k => 12 * die + (c + k) % 12

/-- The hash of R294. -/
def affHash (x y z : Nat) : Nat :=
  Nat.xor (Nat.xor (x * 0x9E37) (y * 0x85EB)) (z * 0xC2B3) % 2 ^ 16

/-- Logical clusters in the order in which the distributor tries them for the gang whose first team is `l`. -/
def State.clusterOrder (s : State) (w : Work) (l : Nat) : List Nat :=
  match w.aff with
  | 0 =>
    let gx := max w.gridX 1
    let gy := max w.gridY 1
    let h := affHash (l % gx) (l / gx % gy) (l / (gx * gy))
    let die := if s.ndies = 2 then h / 2 ^ 15 else 0
    let c := h % 64 * 12 / 64
    clustersFrom die c ++ (if s.ndies = 2 then clustersFrom (1 - die) c else [])
  | 1 => clustersFrom 0 0
  | 2 => if s.ndies = 2 then clustersFrom 1 0 else []
  | _ => s.dieNums.flatMap fun d => clustersFrom d 0

/-- Valid logical tiles in ascending order (R319, R376). -/
def State.validTiles (s : State) : List Nat := (List.range 192).filter fun lt => bit (s.ptileEntry lt) 63

/-- Where gang `k` of a launch would be placed: first logical tile and fits. In a deterministic launch team L goes to the (L mod C)-th
valid logical tile; where fewer than C are left valid since, the count goes round (R319, R376 give none; DESIGN CHOICE, log entry
51). -/
def State.spotOf (s : State) (w : Work) (k : Nat) : Option (Nat × List Fit) :=
  let size := gangTilesOf w.gangt w.tspan
  let ns := List.replicate w.gangt w.needs
  let try' (lts : List Nat) : Option (Nat × List Fit) := lts.findSome? fun lt => (s.fitBlock lt ns).map fun f => (lt, f)
  if w.det = 1 then
    let v := s.validTiles
    try' ((v[k % max w.c 1 % max v.length 1]?).toList)
  else try' ((s.clusterOrder w (k * w.gangt)).flatMap fun c => blocksOf c size)

/-! ## Capacity of a die for a job (R306) -/

/-- Teams that one tile holds beside what stands there, at most `fuel`. -/
def teamsThatFit : Nat → Files → List (Nat × Nat) → Nat × Nat → Needs → Nat
  | 0, _, _, _, _ => 0
  | fuel + 1, f, wins, pa, n =>
    match fitOn f wins pa n with
    | none => 0
    | some fit =>
      let f := (n.groups.zip fit.spots).foldl (fun f p => f.take p.2.1 p.2.2 (p.1.1 / 16) p.1.2) f
      let wins := if n.bytes = 0 then wins else (fit.base, windowBytes n.bytes) :: wins
      1 + teamsThatFit fuel f wins (pa.1 + n.panels, pa.2 + n.accs) n

/-- F of a die for a team template: at most 1,024. -/
def State.capacity (s : State) (die : Nat) (n : Needs) : Nat :=
  Nat.min 1024 (((List.range 96).map fun i => 96 * die + i).foldl (fun k lt =>
    if s.takes lt then
      let pt := s.physTile lt
      k + teamsThatFit 64 (s.files pt) (s.windowsOn pt) (s.panelsOn pt) n
    else k) 0)

/-- Where the next team of a job is placed on its die: the lowest logical tile that takes it (R291). -/
def State.jobSpot (s : State) (w : Work) : Option (Nat × Fit) :=
  ((List.range 96).map fun i => 96 * w.die + i).findSome? fun lt => (s.fitAt lt w.needs).map fun f => (lt, f)

end Sys2Proof.Machine
end

