-- ==== Sys2Proof/Machine/Tasks.lean ====
section
/-! DEFINITION. Jobs, launches and counters TK (17 R303, R312 to R314), the ember DT (17 R320 to R322), the event
EMBER_ADVANCE (17 R320). -/
namespace Sys2Proof.Machine

/-! ## Handles and the table (R314) -/

/-- The handle word. -/
def handleWord (launch : Bool) (module die num : Nat) : W64 :=
  w64 (num % 2 ^ 32 + die % 2 * 2 ^ 32 + module % 256 * 2 ^ 40 + (if launch then 2 ^ 63 else 0))

/-- Works in the table of a die. -/
def State.tableOn (s : State) (die : Nat) : List Work := s.works.filter fun w => w.die == die && w.module == 0

/-- The table of a die has an entry free. -/
def State.tableRoom (s : State) (die : Nat) : Bool := (s.tableOn die).length < 1024

/-- A job number that no job of the die's table has: from a free value on (DESIGN CHOICE, log entry 6). -/
def freshNum (used : List Nat) : Nat → Nat → Nat
  | 0, n => n
  | fuel + 1, n => if used.contains n then freshNum used fuel ((n + 1) % 2 ^ 32) else n

/-- The number that the handle of a work carries (R314). -/
def Work.handleNum (w : Work) : Nat := if w.job then w.num else w.handle

/-- Take a number for a job of a die, or for the handle of a launch that is not ready. -/
def State.workNumber (s : State) (die : Nat) (job : Bool) : Nat × State :=
  let (v, s) := s.takeFree
  (freshNum (((s.tableOn die).filter fun w => w.job == job).map Work.handleNum) 1025 (fld v 31 0), s)

/-- The job that a context runs in: the parent of what it enqueues (R307). -/
def State.parentOf (s : State) (g : Group) : Option Nat :=
  match s.workOf g with
  | some w => if w.job then some w.id else none
  | none => none

/-- OUT of a job changes. -/
def State.addOut (s : State) (id : Option Nat) (up : Bool) : State :=
  match id.bind s.work? with
  | some w => s.setWork { w with out := if up then w.out + 1 else w.out - 1 }
  | none => s

/-- What a submission takes from the issuing group. -/
def Ctx.newWork (c : Ctx) (s : State) (id : Nat) : Work :=
  let own := s.workOf c.g
  { id := id, asid := c.g.asid.toNat, vmid := c.g.vmid.toNat, privileged := c.g.core.isSome,
    subAsid := c.g.asid.toNat, subVmid := c.g.vmid.toNat
    subTenant := match own with | some w => w.tenant | none => 0
    subPrio := match own with | some w => w.prio | none => 0
    trapvec := c.g.csrs.trapvec, parent := s.parentOf c.g }

/-! ## TK (R312, R313) -/

/-- Die that `jobenq` names: 0 the one with the larger F (R312). -/
def State.jobDie (s : State) (sel : Nat) (w : Work) : Nat :=
  match sel with
  | 1 => 0
  | 2 => 1
  | _ => if s.ndies = 2 && s.capacity 0 w.needs < s.capacity 1 w.needs then 1 else 0

/-- `jobenq`. A job for a peer leaves with its card; its number there is a free value (DESIGN CHOICE, log entry 6). -/
def jobenq (c : Ctx) (s : State) : Res :=
  let b := c.sB
  let va := c.sA + c.lit
  let module := fld b 15 8
  let absent : Option (Cause × W64) :=
    if fld b 1 0 = 2 && s.ndies = 1 && module = 0 then some (.absent, w64 (1 + 4 * 16)) else s.peerAbsent (s.dieOf c.g) module
  readsTable s (s.dieOf c.g) (peerOffs module) <| present [optCheck absent] <| rlxGate c s <| c.once s <|
    c.guarded [(fld b 1 0 = 3 || fld b 7 2 != 0 || fld b 63 16 != 0, illop 0x0D), (fld va 5 0 != 0, illop 0x0D)] <|
      c.readBlock s va 64 fun s bs =>
        let (id, s) := s.takeId
        let w : Work := { c.newWork s id with job := true, words := bytesW64s 8 bs }
        if module != 0 then
          let (v, s) := s.takeFree
          let die := if fld b 1 0 = 0 then fld v 32 32 else fld b 1 0 - 1
          let w := { w with module := module, die := die, num := fld v 31 0 }
          .ok (c.putS (({ s with works := s.works ++ [w], sends := s.sends ++ [PeerSend.card module w.words id] } : State).addOut w.parent true)
            (handleWord false module die w.num))
        else
          let die := s.jobDie (fld b 1 0) w
          if !s.tableRoom die then .stall .resource
          else
            let (num, s) := s.workNumber die true
            .ok (c.putS ({ s with works := s.works ++ [{ w with die := die, num := num, rem := fld (word w.words 3) 31 0 }] }.addOut
              w.parent true) (handleWord false 0 die num))

/-- `jobenq`. -/
def execJobenq (o : Ops) (s : State) : Out := issue 0x1E 0 o jobenq s

/-- `launch` (R313). With no counter the launch is ready here: it is read and takes its LAUNCHID (R285, R286). With one, this
reading serves its faults and its DEPCTR, and the number in its handle is a free value (R314 and R285 give none before the launch is
ready; DESIGN CHOICE, log entry 52). -/
def launch (c : Ctx) (s : State) : Res :=
  let va := c.sA + c.lit
  rlxGate c s <| c.once s <| c.guarded [(fld va 7 0 != 0, illop 0x0D)] <|
    let die := s.dieOf c.g
    if !s.tableRoom die then .stall .resource
    else c.readBlock s va 256 fun s bs =>
      let (id, s) := s.takeId
      let w : Work := { c.newWork s id with words := bytesW64s 32 bs, addr := va, die := die }
      let p : Work × State :=
        if w.depctr = 0 then
          ({ w with num := s.launchid.toNat, named := true, handle := s.launchid.toNat }, { s with launchid := s.launchid + 1 })
        else
          let (n, s) := s.workNumber die false
          ({ w with handle := n }, s)
      .ok (c.putS ({ p.2 with works := p.2.works ++ [p.1] }.addOut w.parent true) (handleWord true 0 die p.1.handle))

/-- `launch`. -/
def execLaunch (o : Ops) (s : State) : Out := issue 0x1E 1 o launch s

/-- A counter step of a group: a tile sends it with its stores and atomics, a core performs it at home. -/
def Ctx.counterStep (c : Ctx) (s : State) (va : W64) (count : Option (BitVec 32)) : Res :=
  match s.resolve (s.agent c.g) va 8 .atomic (s.workId c.g) with
  | (s, .fault r) => .fault s r
  | (s, .perm) => .freeze s 0x20 va.toNat 0
  | (s, .bad pa) => .freeze s (s.badCause pa) va.toNat pa
  | (_, .reg) => .stop .deviceRegister
  | (s, .ok ps) =>
    (s.bindBefore c.g s.nextId [{ lane := scalarLane, va := va, n := 8, place := .phys ps }]).andThen fun s =>
      match ps with
      | { pa := pa, .. } :: _ =>
        if c.g.core.isSome then
          if s.badRead pa 8 then .freeze s (s.badCause pa) va.toNat pa
          else .ok (match count with | some n => s.counterInit pa n.toNat 0 | none => s.counterDec pa 0)
        else .ok (s.pathStore ((s.groupTile c.g).getD 0)
          { id := 0, grp := c.g.id, pa := pa, va := va, op := .counter count, rel := count.isNone })
      | [] => .ok s

/-- `dinit`. -/
def dinit (c : Ctx) (s : State) : Res :=
  rlxGate c s <| c.once s <| c.guarded [(fld c.sA 2 0 != 0 || fld c.sB 63 32 != 0, illop 0x0D)] <|
    c.counterStep s c.sA (some (BitVec.ofNat 32 (fld c.sB 31 0)))

/-- `dinit`. -/
def execDinit (o : Ops) (s : State) : Out := issue 0x1E 2 o dinit s

/-- `ddec`: a release of DEVICE scope. -/
def ddec (c : Ctx) (s : State) : Res :=
  rlxGate c s <| c.once s <| c.guarded [(fld c.sA 2 0 != 0, illop 0x0D)] <|
    if !s.accessesMade c.g || !s.otherClear c.g then .stall .order
    else c.counterStep s c.sA none

/-- `ddec`. -/
def execDdec (o : Ops) (s : State) : Out := issue 0x1E 3 o ddec s

/-- `dread`. -/
def dread (c : Ctx) (s : State) : Res :=
  rlxGate c s <|
    if !c.anyLane then .ok (c.logIssue s .nothing id).1
    else c.guarded [(fld c.sA 2 0 != 0, illop 0x0D)] <|
      let (s, id) := c.logIssue s .dread fun e => { e with accs := [{ lane := scalarLane, va := c.sA, n := 8 }] }
      s.settleEntry c.g id

/-- `dread`. -/
def execDread (o : Ops) (s : State) : Out := issue 0x1E 4 o dread s

/-- A handle whose die, or whose module's port or link, the part has not (R4). -/
def Ctx.handleAbsent (c : Ctx) (s : State) : Option (Cause × W64) :=
  if fld c.sA 47 40 != 0 then s.peerAbsent (s.dieOf c.g) (fld c.sA 47 40)
  else if s.ndies ≤ fld c.sA 32 32 then some (.absent, w64 (1 + 4 * 16)) else none

/-- `jobstat`: as for `jobenq` and `mbsend`, ABSENT is raised whichever lanes execute (R43 step 8; DEDUCED, log entry 13). -/
def execJobstat (o : Ops) (s : State) : Out :=
  issue 0x1E 5 o (fun c s => readsTable s (s.dieOf c.g) (peerOffs (fld c.sA 47 40)) <| present [optCheck (c.handleAbsent s)] <| rlxGate c s
    (.ok (c.logIssue s (if c.anyLane then .jobstat c.sA else .nothing) id).1)) s

/-- STATE of a work (R314); one that has been reported to its parent is complete, rejected or killed. -/
def Work.stateCode (w : Work) : Nat :=
  match w.state with
  | .rejected => 5
  | .killed => 6
  | _ =>
    if w.reported then 4
    else match w.state with
      | .ready => 1
      | .running => if w.nextGang = 0 && w.ordinal = 0 then 1 else 2
      | .dealt => 3
      | _ => 0

/-- The status word of a work. -/
def Work.statusWord (w : Work) : W64 :=
  w64 ((if w.state == .rejected then w.reason * 2 ^ 40 else 0) + w.stateCode * 2 ^ 32 + (if w.job then w.out % 2 ^ 32 else 0))

/-- The status that `jobstat` returns; of a job of a peer it is a free value below 2^48 (DESIGN CHOICE, log entry 6). -/
def State.jobStatus (s : State) (h : W64) : W64 × State :=
  if fld h 47 40 != 0 then
    let (v, s) := s.takeFree
    (v &&& w64 (2 ^ 48 - 1), s)
  else
    let other := fld h 39 33 != 0 || fld h 62 48 != 0
    match (s.tableOn (fld h 32 32)).find? fun w => w.job != bit h 63 && (w.job || w.named || w.cq.isNone) && w.handleNum == fld h 31 0 with
    | some w => (if other then w64 (255 * 2 ^ 32) else w.statusWord, s)
    | none => (w64 (255 * 2 ^ 32), s)

/-! ## DT (R320 to R322) -/

/-- The deterministic launch and the team of a context. -/
def State.emberOf (s : State) (g : Group) : Option (Work × Team) :=
  match s.workOf g, s.teamOf g with
  | some w, some t => if w.det = 1 then some (w, t) else none
  | _, _ => none

/-- The `embwait` that holds a group completes: with the ember it acquires (R280), after an abort it gives 0 (R321). -/
def State.endEmbwait (s : State) (g : Group) (got : Bool) : State :=
  match g.hold with
  | .embwait d lanes words =>
    let s := if got then s.acquireAt g scopeDevice else s
    s.onGroup g.id fun h => ({ h.setPval d lanes (if got then lanes else 0) with hold := .none }).advance words true
  | _ => s

/-- The groups of a work that wait for the ember go on: those of team `l` that obtains it, or all of them after an abort. -/
def State.freeEmbwait (s : State) (work : Nat) (l : Option Nat) : State :=
  (s.groups.filter fun g => match s.teamOf g with
    | some t => t.work == work && (match l with | some l => t.l == l | none => true)
    | none => false).foldl (fun s g => s.endEmbwait g l.isSome) s

/-- `embwait`; after an abort it completes with 0, also where the team has skipped (R321, R322). Where D and NBP name one predicate, NBP
is written last (DESIGN CHOICE, log entry 23). -/
def embwait (c : Ctx) (s : State) : Res :=
  rlxGate c s <| c.once s <|
    match s.emberOf c.g with
    | none => .ofPair (illop 0x0D)
    | some (w, t) =>
      let nb (s : State) (v : Mask) : State := match c.e.nb with | true => c.putP s c.e.nbp.toNat v | false => s
      if w.abort then .ok (nb (c.putP s c.fd 0) c.act)
      else c.guarded [(t.skip, illop 0x0D)] <|
        if w.holds t then .ok (nb ((c.putP s c.fd c.act).acquireAt c.g scopeDevice) c.act)
        else if c.e.nb then .ok (nb s 0)
        else .stay (c.upd s fun g => { g with hold := .embwait (c.g.pref c.fd) c.act c.words, stall := none })

/-- `embwait`. -/
def execEmbwait (o : Ops) (s : State) : Out := issue 0x1F 0 o embwait s

/-- Every access of the team is performed with respect to the device (R280). -/
def State.teamReleased (s : State) (t : Team) : Bool :=
  (t.grps.filterMap s.group?).all fun g => s.released g scopeDevice

/-- The visit of the ember ends (R320). -/
def State.endVisit (s : State) (w : Work) (t : Team) : State :=
  (s.setWork { w with visiting := false, holder := w.holder + 1 }).setTeam { t with visits := t.visits + 1 }

/-- `embpass`. -/
def embpass (c : Ctx) (s : State) : Res :=
  rlxGate c s <| c.once s <|
    match s.emberOf c.g with
    | none => .ofPair (illop 0x0D)
    | some (w, t) =>
      c.guarded [(!w.holds t, illop 0x0D)] <|
        if s.teamReleased t then .ok (s.endVisit w t) else .stall .order

/-- `embpass`. -/
def execEmbpass (o : Ops) (s : State) : Out := issue 0x1F 1 o embpass s

/-- `embskip`. -/
def embskip (c : Ctx) (s : State) : Res :=
  rlxGate c s <| c.once s <|
    match s.emberOf c.g with
    | none => .ofPair (illop 0x0D)
    | some (w, t) =>
      if w.abort then .ok s
      else if !s.teamReleased t then .stall .order
      else
        let w' := { w with skipped := if w.skipped.contains t.l then w.skipped else w.skipped ++ [t.l] }
        let t' := { t with skip := true }
        .ok (if w.holds t then s.endVisit w' t' else (s.setWork w').setTeam t')

/-- `embskip`. -/
def execEmbskip (o : Ops) (s : State) : Out := issue 0x1F 2 o embskip s

/-- The ember goes to the team due; it waits there until the team is placed (R320). -/
def emberAdvance (s : State) (work : Nat) : State :=
  match s.work? work with
  | none => s
  | some w =>
    if w.det != 1 || w.abort || w.visiting || w.state != .running then s
    else
      let (w, due) := w.emberDue
      match due with
      | none => s
      | some l =>
        if s.teams.any fun t => t.work == work && t.l == l && !t.retired then
          (s.setWork { w with holder := l, visiting := true }).freeEmbwait work (some l)
        else s.setWork { w with holder := l }

/-- EMBER_ADVANCE. -/
def execEmberAdvance (work : Nat) (s : State) : Out := .next (emberAdvance s work)

/-- DETABORT of a deterministic launch (R321). -/
def State.detAbort (s : State) (work : Nat) : State :=
  match s.work? work with
  | some w =>
    if w.det = 1 then (s.setWork { w with abort := true, visiting := false }).freeEmbwait work none else s
  | none => s

end Sys2Proof.Machine
end

