-- ==== Sys2Proof/Machine/Collect.lean ====
section
/-! DEFINITION. The collective engine: CL (22 R391 to R393), queue pairs (22 R383 to R385), write-with-reduce (22 R386,
R387), token sorting (22 R388 to R390), the command queue (22 R394), and their events. -/
namespace Sys2Proof.Machine

/-! ## Checks of entries and descriptors (R383, R388) -/

/-- OP, and the fields of a queue-pair entry. -/
def qOp (ws : List W64) : Nat := fld (word ws 0) 1 0
def qFmt (ws : List W64) : Nat := fld (word ws 0) 9 8
def qMax (ws : List W64) : Bool := bit (word ws 0) 10
def qRank (ws : List W64) : Nat := fld (word ws 0) 23 16
def qNrank (ws : List W64) : Nat := fld (word ws 0) 31 24
def qChunk (ws : List W64) : Nat := fld (word ws 0) 63 32
def qSrc (ws : List W64) : Nat := (word ws 1).toNat
def qDst (ws : List W64) : Nat := (word ws 2).toNat
def qLen (ws : List W64) : Nat := fld (word ws 3) 31 0

/-- The entry is refused (R383): FMT and RED are fields of WRED (DEDUCED, log entry 23). -/
def qRefused (ws : List W64) (peer : Nat) : Bool :=
  let op := qOp ws
  op == 3
    || qNrank ws ≤ qRank ws
    || (op == 1 && (qFmt ws == 3 || (qMax ws && qFmt ws == 2) || 2 ^ 20 < qLen ws))
    || (if op == 2 then qSrc ws % 64 != 0 || peer != 0 else qSrc ws % 128 != 0)
    || qDst ws % 128 != 0
    || qLen ws % 128 != 0 || qLen ws < 128 || 2 ^ 31 < qLen ws || fld (word ws 3) 63 32 != 0
    || fld (word ws 4) 63 9 != 0 || fld (word ws 6) 15 9 != 0 || fld (word ws 6) 63 25 != 0 || word ws 7 != 0

/-- The counter in eight bits of a word that an enable bit allows. -/
def ctrOf (w : W64) (lo en : Nat) : List Nat := if bit w en then [fld w (lo + 7) lo] else []

/-- Counters that an entry names: its arm's and LDONE of this die, RDONE of the destination's. -/
def qCounters (ws : List W64) : List Nat := ctrOf (word ws 4) 0 8 ++ ctrOf (word ws 6) 0 8
def qRdone (ws : List W64) : List Nat := ctrOf (word ws 6) 16 24

/-- Fields of a sort descriptor. -/
def tN (ws : List W64) : Nat := fld (word ws 4) 31 0
def tRsize (ws : List W64) : Nat := fld (word ws 4) 47 32
def tE (ws : List W64) : Nat := fld (word ws 5) 15 0

/-- Ranges IN, OUT, IDS, OFFS of a descriptor: base and bytes. -/
def tRanges (ws : List W64) : List (Nat × Nat) :=
  [((word ws 0).toNat, tN ws * tRsize ws), ((word ws 1).toNat, tN ws * tRsize ws), ((word ws 2).toNat, 4 * tN ws),
   ((word ws 3).toNat, 4 * (tE ws + 2))]

/-- No two ranges overlap. -/
def apart : List (Nat × Nat) → Bool
  | [] => true
  | r :: t => (t.all fun q => !meets r.1 r.2 q.1 q.2) && apart t

/-- The descriptor is refused. -/
def tRefused (ws : List W64) : Bool :=
  tN ws == 0 || 2 ^ 20 < tN ws || tRsize ws % 16 != 0 || tRsize ws == 0 || 8192 < tRsize ws || fld (word ws 4) 63 48 != 0
    || tE ws == 0 || 4096 < tE ws || fld (word ws 5) 63 16 != 0 || fld (word ws 6) 63 9 != 0 || word ws 7 != 0
    || ((tRanges ws).any fun r => r.1 % 16 != 0) || !apart (tRanges ws)

/-! ## CL (R391 to R393) -/

/-- Counter number from a field and B[1:0]. -/
def Ctx.hcNum (c : Ctx) (f : Nat) : Nat := f + 64 * (c.fb % 4)

/-- The checks of R393 that come before a read: RLXOP, then these in order; the table's words at `offs` are used. -/
def clChecks (c : Ctx) (s : State) (offs : List Nat) (l : List (Bool × (Cause × W64))) (r : Res) : Res :=
  rlxGate c s <| c.once s <| readsTable s (s.dieOf c.g) offs <| c.guarded l r

/-- The first of some counters that the issuer may not use. -/
def State.countersAbsent (s : State) (die asid : Nat) (ns : List Nat) : Option (Cause × W64) :=
  ns.findSome? fun n => s.hcAbsent die n asid

/-- The die, of this module, in which an entry's RDONE counter is, and that counter: of an entry for a peer it is the peer's. -/
def State.rdoneHere (s : State) (die qp : Nat) (ws : List W64) : Nat × List Nat :=
  let q := s.qpInfo die qp
  (q.ddie, if q.peer = 0 then qRdone ws else [])

/-- The first counter of an entry that the issuer may not use. -/
def State.entryAbsent (s : State) (die qp asid : Nat) (ws : List W64) : Option (Cause × W64) :=
  let r := s.rdoneHere die qp ws
  (s.countersAbsent die asid (qCounters ws)).orElse fun _ => s.countersAbsent r.1 asid r.2

/-- Post an entry to a queue pair; its arm is tested as it is posted (R384). -/
def State.qpPush (s : State) (die n : Nat) (ws : List W64) (asid vmid : Nat) (cq : Option (Nat × Nat)) : State :=
  let (id, s) := s.takeId
  let d := s.die die
  let held : Bool := word ws 5 ≤ s.hc die (fld (word ws 4) 7 0)
  s.setDie die { d with qps := aset d.qps n (aget d.qps n [] ++
    [{ id := id, words := ws, asid := asid, vmid := vmid, armed := held, cq := cq }]) }

/-- Entries of a queue pair that have not completed. -/
def State.qpList (s : State) (die n : Nat) : List QpEntry := aget (s.die die).qps n []

/-- `qppost`. -/
def qppost (c : Ctx) (s : State) : Res :=
  let die := s.dieOf c.g
  let asid := c.g.asid.toNat
  let va := c.sA + c.lit
  clChecks c s (s.qpOffs die c.fd) [optCheck (s.qpAbsent die c.fd asid), (fld va 5 0 != 0, illop 0x0D)] <|
    c.afterRelease s scopeDevice <|
      c.readBlock s va 64 fun s bs =>
        let ws := bytesW64s 8 bs
        let r := s.rdoneHere die c.fd ws
        readsTable s die (hcOffs (qCounters ws)) <| readsTable s r.1 (hcOffs r.2) <|
        c.guarded [optCheck (s.entryAbsent die c.fd asid ws), (qRefused ws (s.qpInfo die c.fd).peer, illop 0x0D)] <|
          if 256 ≤ (s.qpList die c.fd).length then .stall .resource
          else .ok (s.qpPush die c.fd ws asid c.g.vmid.toNat none)

/-- `qppost`. -/
def execQppost (o : Ops) (s : State) : Out := issue 0x20 0 o qppost s

/-- `hcadd`. -/
def hcadd (c : Ctx) (s : State) : Res :=
  let die := s.dieOf c.g
  let n := c.hcNum c.fd
  clChecks c s (hcOffs [n]) [optCheck (s.hcAbsent die n c.g.asid.toNat), (3 < c.fb, illop 0x0D)] <|
    c.afterRelease s scopeDevice (.ok (s.hcAdd die n c.sAl))

/-- `hcadd`. -/
def execHcadd (o : Ops) (s : State) : Out := issue 0x20 1 o hcadd s

/-- `hcrd`: the counter is read at completion. -/
def hcrd (c : Ctx) (s : State) : Res :=
  let die := s.dieOf c.g
  let n := c.hcNum c.fa
  rlxGate c s <|
    if !c.anyLane then .ok (c.logIssue s .nothing id).1
    else readsTable s die (hcOffs [n]) <| c.guarded [optCheck (s.hcAbsent die n c.g.asid.toNat), (3 < c.fb, illop 0x0D)]
      (.ok (c.logIssue s (.hcrd (256 * die + n)) id).1)

/-- `hcrd`. -/
def execHcrd (o : Ops) (s : State) : Out := issue 0x20 2 o hcrd s

/-- `hcarm`. -/
def hcarm (c : Ctx) (s : State) : Res :=
  let die := s.dieOf c.g
  let n := c.hcNum c.fd
  let d := s.die die
  let thr := c.lit
  clChecks c s (hcOffs [n])
    [optCheck (s.hcAbsent die n c.g.asid.toNat), (3 < c.fb, illop 0x0D), (thr != 0 && fld c.sA 2 0 != 0, illop 0x0D),
     (thr != 0 && d.arms.any (fun p => p.1 == n), illop 0x0D)] <|
    if thr = 0 then .ok (s.setDie die { d with arms := d.arms.filter fun p => p.1 != n })
    else .ok ((s.setDie die { d with arms := d.arms ++
      [(n, { thr := thr, addr := c.sA, asid := c.g.asid.toNat, vmid := c.g.vmid.toNat })] }).armTest die n)

/-- `hcarm`. -/
def execHcarm (o : Ops) (s : State) : Out := issue 0x20 3 o hcarm s

/-- `toksort`. -/
def toksort (c : Ctx) (s : State) : Res :=
  let die := s.dieOf c.g
  let asid := c.g.asid.toNat
  let va := c.sA + c.lit
  rlxGate c s <| present [(!s.hasTsort, (.absent, w64 (1 + 16)))] <| c.once s <| c.guarded [(fld va 5 0 != 0, illop 0x0D)] <|
    c.afterRelease s scopeDevice <|
      c.readBlock s va 64 fun s bs =>
        let ws := bytesW64s 8 bs
        let ctr := ctrOf (word ws 6) 0 8
        readsTable s die (hcOffs ctr) <| c.guarded [optCheck (s.countersAbsent die asid ctr), (tRefused ws, illop 0x0D)] <|
          let d := s.die die
          .ok (s.setDie die { d with sorts := d.sorts ++ [{ words := ws, asid := asid, vmid := c.g.vmid.toNat }] })

/-- `toksort`. -/
def execToksort (o : Ops) (s : State) : Out := issue 0x20 4 o toksort s

/-! ## Entries of a queue pair (R384, R385) -/

/-- Change the entries of a queue pair. -/
def State.setQp (s : State) (die qp : Nat) (l : List QpEntry) : State :=
  let d := s.die die
  s.setDie die { d with qps := if l.isEmpty then adel d.qps qp else aset d.qps qp l }

/-- Change the entry with a number. -/
def State.onQp (s : State) (die qp id : Nat) (f : QpEntry → QpEntry) : State :=
  s.setQp die qp ((s.qpList die qp).map fun e => if e.id == id then f e else e)

/-- The cause of the token that an object waits on is a freeze. -/
def State.isFreeze (s : State) (t : Option Nat) : Bool :=
  match t.bind s.token? with
  | some k => 0x20 ≤ k.cause && k.cause < 0x30
  | none => false

/-- The first entry that has not started, of entries in posting order. -/
def firstWaiting (l : List QpEntry) : Option QpEntry := l.find? fun e => !e.started

/-- An entry starts (R384); none starts while a step of its queue pair is frozen (R385), nor while the engine accepts no
work or a checkpoint holds it (R381, R397). -/
def qpStart (s : State) (die qp : Nat) : State :=
  let l := s.qpList die qp
  if !(s.die die).collEn || s.ckpt.busy || l.any (fun e => s.isFreeze e.token)
      || s.transfers.any (fun t => match t.src with | some p => p.1 == die && p.2.1 == qp && s.isFreeze t.token | none => false)
  then s
  else match firstWaiting l with
    | some e => if bit (word e.words 4) 8 && !e.armed then s else s.onQp die qp e.id fun e => { e with started := true }
    | none => s

/-- QP_ENTRY_START. -/
def execQpEntryStart (die qp : Nat) (s : State) : Out := .next (qpStart s die qp)

/-- Add 1 to each of some counters of a die for an agent; one that the agent may not use at this moment stays as it is, for no
instruction is there to raise ABSENT (R382; DESIGN CHOICE, log entry 23). -/
def State.bump (s : State) (die asid : Nat) (ns : List Nat) : State :=
  ns.foldl (fun s n => if (s.hcAbsent die n asid).isNone then s.hcAdd die n 1 else s) s

/-- The engine captures the source bytes (R385), for a peer behind a network port too (log entry 57): LDONE advances, and the bytes leave for their destination. -/
def qpLocal (s : State) (die qp n : Nat) : Out :=
  match (s.qpList die qp)[n]? with
  | none => .next s
  | some e =>
    if !e.started || e.localDone || e.token.isSome || 2 ≤ qOp e.words || s.ckpt.busy then .next s
    else
      let q := s.qpInfo die qp
      let ldone := ctrOf (word e.words 6) 0 8
      let ag : Agent := { master := .coll die, asid := e.asid, vmid := e.vmid }
      let who : Waiter := .qp die qp e.id
      match eThen (s.engineTab ag die (s.qpOffs die qp ++ hcOffs ldone) who) fun s => s.engine ag (qSrc e.words) (qLen e.words) .read who with
      | (_, .reg) => .fault .deviceRegister
      | (s, .held t) => .next (s.onQp die qp e.id fun e => { e with token := t })
      | (s, .ok ps) =>
        let data := s.readAll ps
        let s := (s.onQp die qp e.id fun e => { e with localDone := true, peer := q.peer }).bump die e.asid ldone
        let src := (die, qp, e.id)
        .next (if q.peer = 0 then
            { s with transfers := s.transfers ++
              [{ words := e.words, data := data, ddie := q.ddie, asid := e.asid, rasid := q.rasid, vmid := q.vmid, src := some src }] }
          else { s with sends := s.sends ++ [.transfer q.peer e.words data src] })

/-- QP_LOCAL_COMPLETE. -/
def execQpLocalComplete (die qp n : Nat) (s : State) : Out := qpLocal s die qp n

/-- Position of the `n`-th transfer of an operation bound for a die. -/
def State.transferAt (s : State) (die op n : Nat) : Option Transfer :=
  (s.transfers.filter fun t => t.ddie == die && qOp t.words == op)[n]?

/-- Drop one transfer. -/
def State.dropTransfer (s : State) (t : Transfer) : State := { s with transfers := s.transfers.erase t }

/-- The acknowledgement of a transfer's entry may return. -/
def State.ackSource (s : State) (src : Option (Nat × Nat × Nat)) : State :=
  match src with
  | some (die, qp, id) => s.onQp die qp id fun e => { e with written := true }
  | none => s

/-- A transfer waits on a token. -/
def State.holdTransfer (s : State) (t : Transfer) (k : Option Nat) : State :=
  { s with transfers := s.transfers.map fun u => if u == t then { u with token := k } else u }

/-- The lines of a WRITE are written at their home slices, then RDONE advances (R385). -/
def qpWrite (s : State) (die n : Nat) : Out :=
  match s.transferAt die 0 n with
  | none => .next s
  | some t =>
    if t.token.isSome || s.ckpt.busy then .next s
    else
      let ag : Agent := { master := .coll die, asid := t.rasid, vmid := t.vmid }
      match eThen (s.engineTab ag die (hcOffs (qRdone t.words)) (.coll die)) fun s =>
          s.engine ag (qDst t.words) (qLen t.words) .write (.coll die) with
      | (_, .reg) => .fault .deviceRegister
      | (s, .held k) => .next (s.holdTransfer t k)
      | (s, .ok ps) => .next ((((s.writeAll ps t.data).bump die t.asid (qRdone t.words)).dropTransfer t).ackSource t.src)

/-- QP_REMOTE_WRITE. -/
def execQpRemoteWrite (die n : Nat) (s : State) : Out := qpWrite s die n

/-- A command-queue entry has completed. -/
def State.cqDone (s : State) (cq : Option (Nat × Nat)) : State :=
  match cq with
  | some (die, n) => let d := s.die die; s.setDie die { d with cqRuns := d.cqRuns.filter fun r => r.n != n }
  | none => s

/-- An entry completes and leaves its queue pair. -/
def State.qpComplete (s : State) (die qp : Nat) (e : QpEntry) : State :=
  (s.setQp die qp ((s.qpList die qp).filter fun f => f.id != e.id)).cqDone e.cq

/-- The acknowledgement arrives: of a peer's, once the bytes have left. The peer is that of the capture. -/
def qpAck (s : State) (die qp n : Nat) : State :=
  match (s.qpList die qp)[n]? with
  | some e =>
    if e.written || (e.localDone && e.peer != 0) then s.qpComplete die qp e else s
  | none => s

/-- QP_ACK. -/
def execQpAck (die qp n : Nat) (s : State) : Out := .next (qpAck s die qp n)

/-! ## Write-with-reduce (R386, R387) -/

/-- Staging of a die: bytes in all, and free. -/
def State.staging (s : State) (die : Nat) : Nat := (s.die die).ways * 2 ^ 23
def State.stagingFree (s : State) (die : Nat) : Nat :=
  s.staging die - ((s.die die).chunks.foldl (fun n k => n + k.nrank * k.len) 0)

/-- A contribution as it stands in staging. -/
def Transfer.contrib (t : Transfer) : Contrib := { rank := qRank t.words, asid := t.asid, data := t.data, words := t.words, src := t.src }

/-- The chunk is in error: its entries complete, its key stays in error, the agent is told (R387). -/
def State.chunkError (s : State) (die rasid vmid chunk : Nat) (parts : List Contrib) : State :=
  let d := s.die die
  let s := s.setDie die { d with
    chunks := d.chunks.filter fun k => !(k.rasid == rasid && k.chunk == chunk)
    badKeys := d.badKeys ++ [(rasid, chunk)] }
  let s := parts.foldl (fun s p => s.ackSource p.src) s
  s.mailNotice die { va := 0, ipa := 0, asid := rasid, vmid := vmid, cause := 0x30, walk := 0, master := 6, token := 0,
                     bytes := 0, hyper := false }

/-- The contribution differs from the first of its chunk, or its rank has arrived. -/
def Chunk.mismatch (k : Chunk) (t : Transfer) : Bool :=
  k.nrank != qNrank t.words || k.len != qLen t.words
    || (match k.parts with
        | p :: _ => fld (word p.words 0) 10 8 != fld (word t.words 0) 10 8 || qDst p.words != qDst t.words
        | [] => false)
    || k.parts.any fun p => p.rank == qRank t.words

/-- The chunks of an agent in error are forgotten as it posts a contribution under a new CHUNK value (R387). -/
def State.forgetKeys (s : State) (die rasid : Nat) : State :=
  s.setDie die { s.die die with badKeys := (s.die die).badKeys.filter fun k => k.1 != rasid }

/-- A contribution arrives. -/
def wredArrive (s : State) (die n : Nat) : State :=
  match s.transferAt die 1 n with
  | none => s
  | some t =>
    if s.ckpt.busy then s
    else
      let ch := qChunk t.words
      let d := s.die die
      let need := qNrank t.words * qLen t.words
      let s' := s.dropTransfer t
      if d.badKeys.contains (t.rasid, ch) then s'.ackSource t.src
      else
        match d.chunks.find? fun k => k.rasid == t.rasid && k.chunk == ch with
        | some k =>
          if k.mismatch t then s'.chunkError die t.rasid t.vmid ch (k.parts ++ [t.contrib])
          else s'.setDie die { s'.die die with chunks := (s'.die die).chunks.map fun c =>
            if c.rasid == t.rasid && c.chunk == ch then { c with parts := c.parts ++ [t.contrib] } else c }
        | none =>
          if d.ways = 0 || s.staging die < need then (s'.forgetKeys die t.rasid).chunkError die t.rasid t.vmid ch [t.contrib]
          else if s.stagingFree die < need then s
          else
            let s' := s'.forgetKeys die t.rasid
            s'.setDie die { s'.die die with chunks := (s'.die die).chunks ++
            [{ rasid := t.rasid, vmid := t.vmid, chunk := ch, nrank := qNrank t.words, len := qLen t.words, parts := [t.contrib] }] }

/-- WRED_CONTRIBUTION. -/
def execWredContribution (die n : Nat) (s : State) : Out := .next (wredArrive s die n)

/-- One element folded over the ranks in ascending order (R386): element bytes of each rank to element bytes. -/
def foldElem (fmt : Nat) (mx : Bool) (cs : List Nat) : Nat :=
  let f32 (r c : Nat) : Nat := if mx then (eMax fmtF32 0 .rne r c 0).1 else (eAdd fmtF32 0 .rne r c 0).1
  match cs with
  | [] => 0
  | c :: t =>
    match fmt with
    | 0 => t.foldl f32 c
    | 1 => (fmtBF16.put 0 .rne (fmtF32.decode (t.foldl (fun r x => f32 r (x * 65536)) (c * 65536)))).1
    | _ => t.foldl (fun r x => (r + x) % 2 ^ 32) c

/-- The bytes of a folded chunk: `cs` are the contributions' bytes in rank order, as elements. -/
def foldChunk (fmt : Nat) (mx : Bool) (len : Nat) (cs : List (List Byte)) : List Byte :=
  let es := if fmt = 1 then 2 else 4
  (List.range (len / es)).flatMap fun e => natBytes es (foldElem fmt mx (cs.map fun c => bytesNat ((c.drop (e * es)).take es)))

/-- The sweep of a chunk whose ranks are all present. -/
def wredSweep (s : State) (die n : Nat) : Out :=
  match (s.die die).chunks[n]? with
  | none => .next s
  | some k =>
    if k.parts.length < k.nrank || k.token.isSome || s.ckpt.busy then .next s
    else
      let byRank := (List.range k.nrank).filterMap fun r => k.parts.find? fun p => p.rank == r
      let ws := match k.parts with | p :: _ => p.words | [] => []
      let last := byRank.getLast?
      let rdone := match last with | some p => qRdone p.words | none => []
      let ag : Agent := { master := .coll die, asid := k.rasid, vmid := k.vmid }
      match eThen (s.engineTab ag die (hcOffs rdone) (.coll die)) fun s => s.engine ag (qDst ws) k.len .write (.coll die) with
      | (_, .reg) => .fault .deviceRegister
      | (s, .held t) =>
        .next (s.setDie die { s.die die with chunks := (s.die die).chunks.set n { k with token := t } })
      | (s, .ok ps) =>
        let s := s.writeAll ps (foldChunk (qFmt ws) (qMax ws) k.len (byRank.map fun p => p.data))
        let s := match last with | some p => s.bump die p.asid rdone | none => s
        let s := s.setDie die { s.die die with chunks := (s.die die).chunks.eraseIdx n }
        .next (k.parts.foldl (fun s p => s.ackSource p.src) s)

/-- WRED_SWEEP. -/
def execWredSweep (die n : Nat) (s : State) : Out := wredSweep s die n

/-! ## Token sorting (R389, R390) -/

/-- Segment of an identifier. -/
def segmentOf (e : Nat) (id : W32) : Nat := if id.toInt < 0 || (e : Int) ≤ id.toInt then e else id.toNat

/-- The offsets and the records in sorted order, by segments in token order. -/
def sortTokens (e : Nat) (gs : List Nat) : List Nat × List Nat :=
  let order := (List.range (e + 1)).flatMap fun k => (gs.mapIdx fun j g => (j, g)).filterMap fun p => if p.2 == k then some p.1 else none
  ((List.range (e + 2)).map fun k => (gs.filter fun g => g < k).length, order)

/-- Perform a sort: the ranges are translated, the tokens read, the offsets and records written. -/
def State.sortRun (s : State) (ag : Agent) (ws : List W64) (who : Waiter) : State × ERes :=
  let n := tN ws
  let rs := tRsize ws
  match s.engine ag (word ws 2).toNat (4 * n) .read who with
  | (s, .ok ids) =>
    match s.engine ag (word ws 0).toNat (n * rs) .read who with
    | (s, .ok ins) =>
      match s.engine ag (word ws 1).toNat (n * rs) .write who with
      | (s, .ok outs) =>
        match s.engine ag (word ws 3).toNat (4 * (tE ws + 2)) .write who with
        | (s, .ok offs) =>
          let idBytes := s.readAll ids
          let recs := s.readAll ins
          let gs := (List.range n).map fun j => segmentOf (tE ws) (w32 (bytesNat ((idBytes.drop (4 * j)).take 4)))
          let r := sortTokens (tE ws) gs
          let s := s.writeAll offs (r.1.flatMap fun v => natBytes 4 v)
          (s.writeAll outs (r.2.flatMap fun j => (recs.drop (rs * j)).take rs), .ok [])
        | r => r
      | r => r
    | r => r
  | r => r

/-- A sort of the token-sort unit is done: CTR takes one as a release of DEVICE scope. -/
def sortDone (s : State) (die n : Nat) : Out :=
  match (s.die die).sorts[n]? with
  | none => .next s
  | some w =>
    if w.token.isSome || s.ckpt.busy then .next s
    else
      let ag : Agent := { master := .coll die, asid := w.asid, vmid := w.vmid }
      let ctr := ctrOf (word w.words 6) 0 8
      match eThen (s.engineTab ag die (hcOffs ctr) (.coll die)) fun s => s.sortRun ag w.words (.coll die) with
      | (_, .reg) => .fault .deviceRegister
      | (s, .held t) =>
        .next (s.setDie die { s.die die with sorts := (s.die die).sorts.set n { w with token := t } })
      | (s, .ok _) =>
        .next ((s.setDie die { s.die die with sorts := (s.die die).sorts.eraseIdx n }).bump die w.asid ctr)

/-- TOKSORT_COMPLETE. -/
def execToksortComplete (die n : Nat) (s : State) : Out := sortDone s die n

/-- A ROUTE entry: its descriptor is read and its sort performed; both completions come with the CTR increment. A
descriptor that R388 does not allow moves nothing. -/
def routeRun (s : State) (die qp n : Nat) : Out :=
  match (s.qpList die qp)[n]? with
  | none => .next s
  | some e =>
    if !e.started || e.token.isSome || qOp e.words != 2 || s.ckpt.busy then .next s
    else
      let ag : Agent := { master := .coll die, asid := e.asid, vmid := e.vmid }
      let held (s : State) (t : Option Nat) : Out := .next (s.onQp die qp e.id fun e => { e with token := t })
      match s.engine ag (qSrc e.words) 64 .read (.qp die qp e.id) with
      | (_, .reg) => .fault .deviceRegister
      | (s, .held t) => held s t
      | (s, .ok ps) =>
        let ws := bytesW64s 8 (s.readAll ps)
        if tRefused ws then .next (s.qpComplete die qp e)
        else
          let who : Waiter := .qp die qp e.id
          let ddie := (s.qpInfo die qp).ddie
          let here := ctrOf (word ws 6) 0 8 ++ ctrOf (word e.words 6) 0 8
          match eThen (s.engineTab ag die (s.qpOffs die qp ++ hcOffs here) who) fun s =>
              eThen (s.engineTab ag ddie (hcOffs (qRdone e.words)) who) fun s => s.sortRun ag ws who with
          | (_, .reg) => .fault .deviceRegister
          | (s, .held t) => held s t
          | (s, .ok _) => .next (((s.bump die e.asid here).bump ddie e.asid (qRdone e.words)).qpComplete die qp e)

/-- ROUTE_ENTRY. -/
def execRouteEntry (die qp n : Nat) (s : State) : Out := routeRun s die qp n

/-! ## The command queue (R394) -/

/-- Device physical address of the head entry of a die's command queue. -/
def State.cqAt (s : State) (die : Nat) : Nat :=
  let r := (s.die die).cq
  r.base + 64 + 32 * (s.cons r % 2 ^ r.log2n)

/-- The entry at the head of a die's command queue: its number and four words. -/
def State.cqHead (s : State) (die : Nat) : Option (Nat × List W64) :=
  let r := (s.die die).cq
  let k := s.cons r
  if !r.en || s.prod r = k || (s.die die).cqToken.isSome || s.ckpt.busy then none
  else
    let ws := bytesW64s 4 (s.homeRead (s.cqAt die) 32)
    if bit (word ws 0) 8 && !(s.die die).cqRuns.isEmpty then none else some (k, ws)

/-- The head entry has started: CONS advances. -/
def State.cqAdvance (s : State) (die : Nat) : State :=
  let r := (s.die die).cq
  (s.setDie die { s.die die with rung := false }).homeWrite (r.base + 8) (natBytes 8 (s.cons r + 1)) 0

/-- A refused entry is skipped, and its record goes to the kernel ring. -/
def State.cqRefuse (s : State) (die : Nat) (ws : List W64) : State :=
  let r : FaultRec := { va := (word ws 1).toNat, ipa := 0, asid := 0, vmid := 0, cause := 0x31, walk := 0, master := 7, token := 0,
                        bytes := 0, hyper := false }
  match s.postNotice r with
  | some s => s.cqAdvance die
  | none => s

/-- Agent under which a command processor reads its queue, its POST entries and the collective table: no context submits them
(DESIGN CHOICE, log entry 23). -/
def cqAgent (die : Nat) : Agent := { master := .command die, asid := 0, vmid := 0 }

/-- The first byte with an uncorrectable error that the command processor consumes at the head of its queue: of the queue's header, else
of the entry, else of the words of the collective table that it uses (R48). -/
def State.cqBadAt (s : State) (die : Nat) : Option Nat :=
  let r := (s.die die).cq
  if !r.en || (s.die die).cqToken.isSome || s.ckpt.busy then none
  else
    match s.badByte { pa := r.base, n := 16 } with
    | some i => some (r.base + i)
    | none =>
      if s.prod r = s.cons r then none
      else match s.badByte { pa := s.cqAt die, n := 32 } with
        | some i => some (s.cqAt die + i)
        | none => (s.cqHead die).bind fun p =>
          let w := word p.2 0
          let n := fld w 23 16
          match fld w 7 0 with
          | 1 => if n < 64 then s.collBad die (s.qpOffs die n) else none
          | 2 => s.collBad die (hcOffs [n])
          | 3 => s.collBad die (hcOffs [n])
          | _ => none

/-- The command processor freezes on an uncorrectable error in `n` bytes that it consumes (R48, R370). -/
def State.cqBad (s : State) (die pa n : Nat) : Out :=
  match s.engineWaits (mkFault (cqAgent die) pa pa (s.badCause pa) 0 n) (.command die) with
  | (s, .held t) => .next (s.setDie die { s.die die with cqToken := t })
  | (s, _) => .next s

/-- Take up the head entry if it is of a kind; the kinds that are refused fall to the first. -/
def onCq (s : State) (die kind : Nat) (f : Nat → List W64 → Out) : Out :=
  match s.cqBadAt die, s.cqHead die with
  | some pa, _ => s.cqBad die pa 32
  | none, none => .next s
  | none, some (n, ws) =>
    let k := fld (word ws 0) 7 0
    if k = kind then f n ws else if kind = 0 && 4 ≤ k then .next (s.cqRefuse die ws) else .next s

/-- A LAUNCH entry. -/
def cqLaunch (s : State) (die : Nat) : Out :=
  onCq s die 0 fun n ws =>
    if fld (word ws 1) 7 0 != 0 then .next (s.cqRefuse die ws)
    else if !s.tableRoom die then .next s
    else
      let (id, s) := s.takeId
      let w : Work := { id := id, addr := word ws 1, die := die, privileged := true, cq := some (die, n) }
      let s := s.cqAdvance die
      .next { s.setDie die { s.die die with cqRuns := (s.die die).cqRuns ++ [{ n := n, kind := 0 }] } with works := s.works ++ [w] }

/-- CQ_LAUNCH. -/
def execCqLaunch (die : Nat) (s : State) : Out := cqLaunch s die

/-- A POST entry: it is posted under the agent of its queue pair. -/
def cqPost (s : State) (die : Nat) : Out :=
  onCq s die 1 fun n ws =>
    let qp := fld (word ws 0) 23 16
    let q := s.qpInfo die qp
    if 64 ≤ qp || fld (word ws 1) 5 0 != 0 || (s.qpAbsent die qp q.owner).isSome then .next (s.cqRefuse die ws)
    else if 256 ≤ (s.qpList die qp).length then .next s
    else
      match s.engine (cqAgent die) (word ws 1).toNat 64 .read (.command die) with
      | (_, .reg) => .fault .deviceRegister
      | (s, .held t) => .next (s.setDie die { s.die die with cqToken := t })
      | (s, .ok ps) =>
        let es := bytesW64s 8 (s.readAll ps)
        let r := s.rdoneHere die qp es
        match s.collBad die (hcOffs (qCounters es)), s.collBad r.1 (hcOffs r.2) with
        | some pa, _ => s.cqBad die pa 8
        | none, some pa => s.cqBad die pa 8
        | none, none =>
        if qRefused es q.peer || (s.entryAbsent die qp q.owner es).isSome then .next (s.cqRefuse die ws)
        else
          let s := (s.cqAdvance die).qpPush die qp es q.owner q.vmid (some (die, n))
          .next (s.setDie die { s.die die with cqRuns := (s.die die).cqRuns ++ [{ n := n, kind := 1 }] })

/-- CQ_POST. -/
def execCqPost (die : Nat) (s : State) : Out := cqPost s die

/-- A counter that no valid entry of the table names. -/
def State.hcUnknown (s : State) (die n : Nat) : Bool := !bit (s.collWord die (0x800 + 8 * n)) 63

/-- A WAIT entry: it starts and completes once its counter has held the threshold since its turn came. -/
def cqWait (s : State) (die : Nat) : Out :=
  onCq s die 2 fun _ ws =>
    let n := fld (word ws 0) 23 16
    let v := word ws 2
    if s.hcUnknown die n then .next (s.cqRefuse die ws)
    else
      let held := match (s.die die).cqWait with | some (m, t, h) => m == n && t == v && h | none => false
      if held || v ≤ s.hc die n then .next ((s.setDie die { s.die die with cqWait := none }).cqAdvance die)
      else .next (s.setDie die { s.die die with cqWait := some (n, v, false) })

/-- CQ_WAIT. -/
def execCqWait (die : Nat) (s : State) : Out := cqWait s die

/-- An ADD entry. -/
def cqAdd (s : State) (die : Nat) : Out :=
  onCq s die 3 fun _ ws =>
    let n := fld (word ws 0) 23 16
    if s.hcUnknown die n then .next (s.cqRefuse die ws)
    else .next ((s.cqAdvance die).hcAdd die n (word ws 2))

/-- CQ_ADD. -/
def execCqAdd (die : Nat) (s : State) : Out := cqAdd s die

end Sys2Proof.Machine
end

