-- ==== Sys2Proof/Machine/Traps.lean ====
section
/-! DEFINITION. Leaving a hold, local traps that wait, the deadline (20 R352; 21 R361), the return from a trap (R362,
R363), tokens resumed, killed or answered with QUOTA (03 R63, R64; 21 R365, R366, R371), the end of a gang that is killed
(16 R302; 17 R321), and the events of these. -/
namespace Sys2Proof.Machine

/-! ## LOCAL_TRAP_ENTRY -/

/-- A token the group stalls on is gone. -/
def State.stallOver (s : State) (g : Group) : Bool :=
  match g.stall with | some (.token n) => (s.token? n).isNone | _ => true

/-- A trap that waits is entered (R361). -/
def trapEntry (s : State) (grp : Nat) : State :=
  match s.group? grp with
  | some g =>
    match g.pend with
    | some t =>
      if g.hold == .trapEntry && g.frozen.isNone && s.stallOver g && s.earlierDone g && s.gangRuns g then s.enterTrap g t else s
    | none => s
  | none => s

/-- LOCAL_TRAP_ENTRY. -/
def execLocalTrapEntry (grp : Nat) (s : State) : Out := .next (trapEntry s grp)

/-! ## Leaving a hold (R331, R352) -/

/-- The group is no longer held; it re-executes its instruction. -/
def State.unhold (s : State) (g : Group) : State := s.onGroup g.id fun h => { h with hold := .none }

/-- No group waits on the object. -/
def State.noWaiter (s : State) (team off : Nat) : Bool :=
  !(s.groups.any fun g => match g.hold with | .bwait t o _ _ _ => t == team && o == off | _ => false)

/-- A registration of a group for `rlxopen` is withdrawn; the last one restores the region before (R232). -/
def Team.withdraw (t : Team) (grp : Nat) : Team :=
  let l := t.region.arrived.filter fun i => i != grp
  if l.isEmpty then { t with region := t.prior } else { t with region := { t.region with arrived := l } }

/-- A held group leaves its hold, where its instruction allows it to be left: `bwait`, `bteam`, `embwait`, `rlxopen`,
`rlxclose`, and a full `cpseal` or `cpwait`. -/
def State.leaveHold (s : State) (g : Group) : Option State :=
  match g.hold with
  | .bwait t o _ _ _ =>
    let s := s.unhold g
    some (if s.barValid t o && s.noWaiter t o then s.setBar t o { s.bar t o with waiters := false } else s)
  | .bteam _ =>
    let s := s.unhold g
    some (match s.team? g.team with
      | some t => s.setTeam { t with arrived := t.arrived.filter fun i => i != g.id }
      | none => s)
  | .embwait _ _ _ => some (s.unhold g)
  | .batches _ _ _ => some (s.unhold g)
  | .rlxopen _ =>
    let s := s.unhold g
    some (match s.team? g.team with | some t => s.setTeam (t.withdraw g.id) | none => s)
  | .rlxclose _ =>
    let s := s.unhold g
    some (match s.team? g.team with
      | some t => s.setTeam { t with region := { t.region with arrived := t.region.arrived.filter fun i => i != g.id } }
      | none => s)
  | _ => none

/-! ## DEADLINE_EXPIRY (R352) -/

/-- A held group whose deadline has come leaves its hold and takes DEADLINE; others take it at a clause boundary. -/
def deadlineExpiry (s : State) (grp : Nat) : State :=
  match s.group? grp with
  | some g =>
    if !s.deadlineDue g || g.flow.tl || g.frozen.isSome || !s.gangRuns g then s
    else
      match s.leaveHold g with
      | some s =>
        (s.onGroup grp fun h => h.disarm { cause := .deadline, info := 0, pc := 0 }).raiseHeld grp
          (.deadline, w64 (fld g.csrs.deadline 62 0))
      | none => s
  | none => s

/-- DEADLINE_EXPIRY. -/
def execDeadlineExpiry (grp : Nat) (s : State) : Out := .next (deadlineExpiry s grp)

/-! ## Replays (R362, R364, R366) -/

/-- MODE with its ACCR field replaced by another's (R162, R206). -/
def withAccr (mode now : W64) : W64 := (mode &&& ~~~(0xC0#64)) ||| (now &&& 0xC0#64)

/-- An entry that is not replayed completes with nothing written (R362 line 2). -/
def State.abandonEntry (s : State) (e : LogEntry) : State := s.finishEntry { e with dests := [], fl := 0 }

/-- The entry, and those that its QUOTA holds. -/
def State.replayed (s : State) (e : LogEntry) : List LogEntry :=
  byTurn (s.log.filter fun f => f.id == e.id || (s.heldByQuota f && s.heldByQuota e && f.op.acc? == e.op.acc? && e.turn < f.turn))

/-- Give entries, in this order, the last places in the order of their group. -/
def State.standLast (s : State) (l : List LogEntry) : State :=
  l.foldl (fun s f => let (n, s) := s.takeId; s.setEntry { f with again := n }) s

/-- What a group's handler found in the log stands behind what the handler has issued (R365). -/
def State.behindHandler (s : State) (grp : Nat) : State :=
  s.standLast (byTurn (s.log.filter fun e => e.grp == grp && !e.tlevel))

/-- Replay an entry, behind what the group has issued meanwhile (R209). One suspended by ACCRANGE goes on, or its drain is made again,
under the MODE of its issue (R164) but for ACCR, which is the current one (R206); one that QUOTA answered is made again under the
current MODE (R362 line 10; DEDUCED, log entry 49), and what it held goes on behind it, in program order. -/
def State.replay (s : State) (e : LogEntry) (mode : W64) : State :=
  let s := s.standLast (s.replayed e)
  match s.entry? e.id with
  | none => s
  | some e =>
    let e := { e with state := .running, mode := if e.state == .quota then mode else withAccr e.mode mode }
    let s := s.setEntry e
    if e.untranslated then (s.resolveEntry e.id).1 else s

/-- The entry that the frame's trap replays. -/
def State.replayOf (s : State) (f : Frame) : Option LogEntry := f.trap.replay.bind s.entry?

/-- Copies that were answered with QUOTA try again after the handler (R64). -/
def State.retryCopies (s : State) (grp : Nat) : State :=
  { s with copies := s.copies.map fun c => if c.grp == grp then { c with held := false } else c }

/-- `eret` at trap level. -/
def State.returnFrom (s : State) (g : Group) (f : Frame) : State :=
  let s := s.behindHandler g.id
  let s := match s.replayOf f with
    | some e => if f.pcWritten then s.abandonEntry e else s.replay e g.csrs.mode
    | none => s
  let s := if f.trap.cause == .quota && f.trap.replay.isNone then s.retryCopies g.id else s
  s.onGroup g.id fun h => h.leaveHandler f

/-- `eret`: a written TRAPPC is refused in another CODEHI (R137); its header is checked at step 6 (R37). A stoker core without a frame goes on (log
entry 17). -/
def eret (c : Ctx) (s : State) : Res :=
  c.once s <|
    match c.g.frame with
    | none => .ok s
    | some f =>
      match c.g.resumesAt with
      | some pc => if c.g.sameHi pc then .stay (s.returnFrom c.g f) else .ofPair (illop 0x0D)
      | none => .stay (s.returnFrom c.g f)

/-- `eret`. -/
def execEret (o : Ops) (s : State) : Out := issue 0x22 2 o eret s

/-! ## Resume (R366, R371) -/

/-- The group takes part in a gang that stands on its tiles, or is a stoker core. -/
def State.residentGroup (s : State) (g : Group) : Bool :=
  match s.gangOf g with | some k => k.resident | none => g.core.isSome

/-- An entry that waited on the token runs again; of a gang that is not resident it is translated at restore (R372), of a group in a
handler after its `eret` (R164). -/
def State.resumeEntry (s : State) (e : LogEntry) : State :=
  let s := s.setEntry { e with state := .running }
  match s.group? e.grp with
  | some g => if s.residentGroup g && !s.atReturn e then (s.resolveEntry e.id).1 else s
  | none => s

/-- Clear a token in the units of a die. -/
def Die.clearToken (d : Die) (n : Nat) : Die :=
  let cl (t : Option Nat) : Option Nat := if t == some n then none else t
  { d with
      cqToken := cl d.cqToken
      qps := d.qps.map fun p => (p.1, p.2.map fun (e : QpEntry) => { e with token := cl e.token })
      sorts := d.sorts.map fun (w : SortWork) => { w with token := cl w.token }
      chunks := d.chunks.map fun (k : Chunk) => { k with token := cl k.token } }

/-- Clear a token wherever something waits on it, and let that go on. -/
def State.clearToken (s : State) (n : Nat) : State :=
  let cl (t : Option Nat) : Option Nat := if t == some n then none else t
  let s : State := { s with
    tokens := s.tokens.filter fun t => t.num != n
    groups := s.groups.map fun g => if (g.frozen.map fun f => f.token) == some n then { g with frozen := none } else g
    works := s.works.map fun w => { w with token := cl w.token }
    copies := s.copies.map fun c => { c with token := cl c.token }
    transfers := s.transfers.map fun t => { t with token := cl t.token }
    dies := s.dies.map fun p => (p.1, p.2.clearToken n) }
  let s := s.dieNums.foldl (fun s d => s.refire d (some n)) s
  (s.log.filter fun e => e.state == .waiting n).foldl State.resumeEntry s

/-! ## Kill (R302, R321, R366) -/

/-- The launch or job on whose behalf a waiter waits. -/
def State.waiterWork (s : State) (w : Waiter) : Option Work :=
  let ofGroup (grp : Nat) : Option Work := (s.group? grp).bind s.workOf
  match w with
  | .group grp => ofGroup grp
  | .entry grp _ => ofGroup grp
  | .copy id => (s.copy? id).bind fun c => (s.team? c.team).bind fun t => s.work? t.work
  | .work id => s.work? id
  | _ => none

/-- The gang on whose behalf a waiter waits. -/
def State.waiterGang (s : State) (w : Waiter) : Option Gang :=
  let ofGroup (grp : Nat) : Option Gang := (s.group? grp).bind s.gangOf
  match w with
  | .group grp => ofGroup grp
  | .entry grp _ => ofGroup grp
  | .copy id => (s.copy? id).bind fun c => (s.team? c.team).bind fun t => s.gang? t.gang
  | _ => none

/-- What a team's retirement releases (R299, R374): its context area, its barriers leave the tile's table, the acknowledgements that `back` would
send are sent, its region, panels and accumulators are gone. -/
def State.releaseTeam (s : State) (t : Team) : State :=
  let pt := s.teamTile t
  let tl := s.tile pt
  let mine (e : AckEntry) : Bool := e.recvTeam == t.id
  let sent := (tl.acks.filter mine ++ t.savedAcks).map fun (e : AckEntry) => ({ team := e.sendTeam, off := e.sendOff, count := e.count } : AckMsg)
  let s : State := { s with acks := s.acks ++ sent }
  let s := s.setBarriers t.id []
  let tl := s.tile pt
  let s := s.setTile pt { tl with acks := tl.acks.filter fun e => !mine e }
  s.setTeam { t with retired := true, panels := [], accs := [], region := {}, prior := {}, arrived := [], savedBars := [],
                     savedAcks := [], pool := 0 }

/-- A gang whose teams have all retired retires: its tiles become free together, its windows with them (R299). -/
def State.gangCheck (s : State) (gang : Nat) : State :=
  match s.gang? gang with
  | some k =>
    if k.state != .retired && k.teams.all fun id => match s.team? id with | some t => t.retired | none => true then
      let s := match s.work? k.work with | some w => s.setWork { w with gangsDone := w.gangsDone + 1 } | none => s
      s.setGang { k with state := .retired }
    else s
  | none => s

/-- Requests to queues and mailboxes of instructions that are dropped hold up later ones no longer (R315, R316). -/
def State.serveAfter (s : State) (dropped : List LogEntry) : State :=
  dropped.foldl (fun s e =>
    match e.op with
    | .qpop die q false => s.servePops die q 256
    | .mbrecv box false => match s.group? e.grp with | some g => s.serveMail g.asid.toNat box 16 | none => s
    | _ => s) s

/-- Remove a gang as if retired (R302): its groups stop, its instructions and copies in flight are dropped; stores on their
way are still performed. -/
def State.removeGang (s : State) (k : Gang) : State :=
  let ids := (k.teams.filterMap s.team?).flatMap fun t => t.grps
  let inGang (grp : Nat) : Bool := ids.contains grp
  let dropped := s.log.filter fun (e : LogEntry) => inGang e.grp
  let s : State := { s with
    log := s.log.filter fun (e : LogEntry) => !inGang e.grp
    copies := s.copies.filter fun (c : Copy) => !inGang c.grp
    tokens := s.tokens.filter fun (t : Token) => match t.who with
      | .group g => !inGang g
      | .entry g _ => !inGang g
      | .copy c => !((s.copy? c).any fun (c : Copy) => inGang c.grp)
      | _ => true
    groups := s.groups.map fun (g : Group) => if inGang g.id then
        { g with retired := true, clause := none, hold := .none, stall := none, frozen := none, owed := none, pend := none, due := [],
                 cf := List.replicate 12 0, flow := { g.flow with exited := fullMask g.width } }
      else g }
  let s : State := { s with tiles := s.tiles.map fun (p : Nat × Tile) =>
    (p.1, { p.2 with scores := p.2.scores.filter fun (sc : Score) => s.copies.any fun (c : Copy) => c.id == sc.copy }) }
  let s := match s.work? k.work with
    | some w =>
      if w.job then s.setWork { w with out := w.out - ((k.teams.filterMap s.team?).filter fun (t : Team) => !t.retired).length }
      else s.setWork { w with gone := w.gone ++ (k.teams.filterMap s.team?).map fun (t : Team) => t.l }
    | none => s
  let s := (k.teams.filterMap s.team?).foldl (fun (s : State) (t : Team) => if t.retired then s else s.releaseTeam t) s
  (s.gangCheck k.id).serveAfter dropped

/-- Gangs of a work that have not retired. -/
def State.gangsOf (s : State) (work : Nat) : List Gang := s.gangs.filter fun k => k.work == work && k.state != .retired

/-- End a launch or job with KILLED. A deterministic launch of which a team is killed ends with DETABORT, and only the team's gang is
removed (R302, R321); one killed before any team stands ends with KILLED (R366). -/
def State.killWork (s : State) (w : Work) (gang : Option Gang) : State :=
  match (if w.det = 1 then gang else none) with
  | some k => (s.detAbort w.id).removeGang k
  | none =>
    let s := (s.gangsOf w.id).foldl State.removeGang s
    match s.work? w.id with
    | some w => s.setWork { w with state := .killed, token := none }
    | none => s

/-- Drop what an engine was doing for a killed token. -/
def Die.dropToken (d : Die) (n : Nat) : Die :=
  { d with
      cqToken := if d.cqToken == some n then none else d.cqToken
      fires := d.fires.filter fun p => p.2 != some n
      qps := d.qps.map fun p => (p.1, p.2.filter fun e => e.token != some n)
      sorts := d.sorts.filter fun w => w.token != some n
      chunks := d.chunks.filter fun k => k.token != some n }

/-- A command queue whose head waits on the token skips that entry. -/
def State.skipHead (s : State) (n : Nat) : State :=
  s.dieNums.foldl (fun s d => if (s.die d).cqToken == some n then s.cqAdvance d else s) s

/-- End the wait on a token by a kill: a launch ends; the retirement step ends with nothing written (R301); an engine's
step is dropped (DESIGN CHOICE, log entry 17). -/
def State.killToken (s : State) (t : Token) : State :=
  let s' := { s with tokens := s.tokens.filter fun u => u.num != t.num }
  match t.who, s.waiterWork t.who with
  | .work _, some w =>
    if w.state == .submitted || w.state == .ready then s'.killWork w none
    else s'.setWork { w with token := none, words := w.words.set (if w.job then 6 else 15) 0 }
  | who, some w => s'.killWork w (s.waiterGang who)
  | _, none =>
    let s' := s'.skipHead t.num
    { s' with transfers := s'.transfers.filter fun u => u.token != some t.num
              dies := s'.dies.map fun p => (p.1, p.2.dropToken t.num) }

/-! ## QUOTA (R63, R64, R366) -/

/-- Translation faults (R358). -/
def isTranslationCause (n : Nat) : Bool := n == 1 || n == 2 || n == 3 || n == 0x10 || n == 0x11 || n == 0x12

/-- TRAPINFO of QUOTA: the size code of the leaf that the kernel would have mapped is a free value (DESIGN CHOICE, log entry 6). -/
def quotaInfo (va : Nat) (size : Nat) (copy : Bool) : W64 :=
  w64 (bits va 51 14 * 2 ^ 14 + (if copy then 4 else 0) + size % 3)

/-- The trap comes again by itself: its instruction is issued, or its header read, once more. -/
def PendTrap.comesAgain (t : PendTrap) : Bool :=
  t.replay.isNone && t.cause != .swtrap && t.cause != .deadline && !(t.cause == .quota && bit t.info 2)

/-- QUOTA for the handler's fetch takes the place of the trap that waits to be entered; that one follows after its `eret` (R63
names no such case; DESIGN CHOICE, log entry 50). -/
def Group.quotaAtEntry (g : Group) (t : PendTrap) (info : W64) : Group :=
  { g with
      stall := none
      pend := some { t with cause := .quota, info := info, replay := none, boundary := t.boundary || (t.replay.isSome && !t.held) }
      due := if t.comesAgain then g.due else t :: g.due }

/-- Deliver QUOTA in a group that stalls at the token: at its instruction, in front of the header it fetches, or at the trap
entry that fetches its handler. -/
def State.quotaGroup (s : State) (g : Group) (info : W64) : State :=
  match g.hold, g.pend with
  | .trapEntry, some t => s.onGroup g.id fun h => h.quotaAtEntry t info
  | _, _ =>
    match g.clause with
    | some _ => (s.onGroup g.id fun h => { h with stall := none }).raiseHeld g.id (.quota, info)
    | none =>
      match g.boundary with
      | (_, some (addr, set)) =>
        (s.onGroup g.id fun h => { h with stall := none }).raise g.id (boundaryTrap addr set (.quota, info))
      | (_, none) => s

/-- Deliver QUOTA for a copy: its group takes it at its next clause boundary, and the copy is held until then (R64). -/
def State.quotaCopy (s : State) (c : Copy) (info : W64) : State :=
  match s.group? c.grp with
  | some g =>
    if g.gone then s.setCopy { c with token := none }
    else
      (s.setCopy { c with token := none, held := true }).onGroup g.id fun h =>
        { h with due := h.due ++ [{ cause := .quota, info := info, pc := 0, boundary := true }] }
  | none => s.setCopy { c with token := none }

/-- Deliver QUOTA to the token. -/
def State.quotaToken (s : State) (t : Token) : State :=
  let (v, s) := s.takeFree
  let size := v.toNat % 4
  let s : State := { s with tokens := s.tokens.filter fun u => u.num != t.num }
  match t.who with
  | .group grp =>
    match s.group? grp with
    | some g => s.quotaGroup g (quotaInfo t.va size false)
    | none => s
  | .entry _ id =>
    match s.entry? id with
    | some e => let e := { e with state := .quota }; (s.setEntry e).trapEntryOf e .quota (quotaInfo t.va size false)
    | none => s
  | .copy id =>
    match s.copy? id with
    | some c => s.quotaCopy c (quotaInfo t.va size true)
    | none => s
  | _ => s

/-- A token that QUOTA may answer: of a tile group or its copy, on a translation fault (R64, R378; DEDUCED, log entry 29). -/
def Token.quotaOk (t : Token) : Bool :=
  isTranslationCause t.cause && (match t.who with | .group _ => true | .entry _ _ => true | .copy _ => true | _ => false)

end Sys2Proof.Machine
end

