-- ==== Sys2Proof/Machine/Context.lean ====
section
/-! DEFINITION. Stopping a gang (18 R331; 21 R372), saving and restoring its context (21 R373 to R375), and the events
GANG_STOP, CONTEXT_RESTORE and CLASS0_PREEMPT (17 R311). -/
namespace Sys2Proof.Machine

/-! ## The stop (R331) -/

/-- Groups of a gang. -/
def State.gangGroups (s : State) (k : Gang) : List Group := ((k.teams.filterMap s.team?).flatMap fun t => t.grps).filterMap s.group?

/-- Groups of a gang that is to stop leave the holds that R331 names at once. A group in `cpseal` or `cpwait` goes on to
its clause boundary. -/
def State.stopHeld (s : State) (k : Gang) : State :=
  (s.gangGroups k).foldl (fun s g =>
    match g.hold with
    | .batches _ _ _ => s
    | _ =>
      if g.frozen.isSome then s
      else match s.leaveHold g with
        | some s => s.stopGroup g
        | none => s) s

/-- A gang is to stop, for a turn or a pre-emption, of which the request counts from `since`. -/
def State.stopSince (s : State) (k : Gang) (turn : Bool) (since : Nat) : State :=
  let k := { k with state := .stopping turn, stopAt := since }
  let s := ((s.gangGroups k).filter fun g => g.frozen.isSome).foldl State.seePaths s
  (s.setGang k).stopHeld k

/-- Request a stop of a gang. -/
def State.requestStop (s : State) (k : Gang) (turn : Bool) : State := s.stopSince k turn s.time

/-- Request a pre-emption: of a gang in a turn it takes effect as the turn ends (R333); the bound of R318 counts from the request. -/
def State.askPreempt (s : State) (k : Gang) : State :=
  match k.state with
  | .running => s.requestStop k false
  | .stopping true => if k.preempt then s else s.setGang { k with preempt := true, stopAt := s.time }
  | _ => s

/-- The group has reached its boundary: it stopped, has no lane left, or is frozen. -/
def Group.atRest (g : Group) : Bool := g.gone || g.hold == .stopped || g.frozen.isSome

/-- The entry may stand as it is while its gang is stopped: a macro-op at a step boundary, one that waits on a fault, a
suspended one. -/
def LogEntry.atRest (e : LogEntry) : Bool :=
  match e.state, e.op with
  | .running, .mma _ _ _ _ _ => true
  | .running, _ => false
  | _, _ => true

/-- Line of the device memory side of a lane; of a copy between windows, of its destination. -/
def CopyLane.lineNo (l : CopyLane) : Nat :=
  match l.src, l.dst with
  | .glob va, _ => va.toNat / 128
  | _, .glob va => va.toNat / 128
  | _, .loc _ off => off / 128

/-- The lane's line has begun to be delivered to a receiver. -/
def Copy.begun (c : Copy) (l : CopyLane) (recv : Nat) : Bool := c.sent.contains (recv, l.lineNo)

/-- The lane is still to be delivered to a receiver that has begun to take its line. -/
def Copy.halfSent (c : Copy) (l : CopyLane) : Bool := l.recvs.any (c.begun l)

/-- A fault suspends the copy, or QUOTA holds it (R108, R64). -/
def Copy.suspended (c : Copy) : Bool := c.token.isSome || c.held

/-- The fault that suspends the copy stopped at this lane. -/
def Copy.stuckAt (c : Copy) (l : CopyLane) : Bool := c.suspended && c.stuck.contains l.lane

/-- The engine's work on a copy stands at a line boundary (R108, R331): no lane of its own window is read and not written, and none of
the line in progress, or of one that a receiver has begun to take, is left, but for those at which the fault stopped that suspends it.
Deliveries to other tiles are held at their source (R335). -/
def Copy.atRest (c : Copy) : Bool :=
  c.lanes.all fun l => c.stuckAt l || (!c.halfSent l &&
    match l.data with
    | some _ => c.remote || c.mc
    | none => some l.lineNo != c.line)

/-- The token is of a freeze. -/
def State.freezeToken (s : State) (n : Nat) : Bool := s.tokens.any fun t => t.num == n && decide (0x20 ≤ t.cause && t.cause ≤ 0x22)

/-- The engine is frozen at the copy: it stands as it is (R370). -/
def State.copyFrozen (s : State) (c : Copy) : Bool := c.token.any s.freezeToken

/-- Stores that are still on their way: of the gang's groups, and those of others of which their loads took bytes (R279). -/
def State.pathBusy (s : State) (k : Gang) : Bool :=
  let ids := (s.gangGroups k).map fun g => g.id
  (s.gangTiles k).any fun t => (s.tile t).path.any fun e => ids.any fun i => e.covered i

/-- The gang has stopped: groups, log, copies and store path are at the boundaries of R331; an entry that completes after an `eret` stands
as it is. -/
def State.gangQuiet (s : State) (k : Gang) : Bool :=
  let gs := s.gangGroups k
  gs.all Group.atRest && s.log.all (fun e => !(gs.any fun g => g.id == e.grp) || e.atRest || s.atReturn e)
    && s.copies.all (fun c => !(gs.any fun g => g.id == c.grp) || s.copyFrozen c || c.atRest) && !s.pathBusy k

/-- The groups of a gang go on from where they stopped. -/
def State.releaseStops (s : State) (k : Gang) : State :=
  (s.gangGroups k).foldl (fun s g =>
    if g.hold == .stopped then s.onGroup g.id fun h => { h with hold := .none, stall := none } else s) s

/-! ## The context pool (R374) -/

/-- Bytes of a team's context area. -/
def Team.areaBytes (t : Team) : Nat :=
  4096 + 1024 * t.grps.length + t.placed + 8704 * t.panels.length + 196608 * t.accs.length

/-- Bytes of the pool of a die. -/
def Die.poolBytes (d : Die) : Nat := d.ctxSize * 2 ^ 24

/-- Die on which a gang stands. -/
def State.gangDie (s : State) (k : Gang) : Nat := s.physTile k.ltile / 104

/-- Bytes that the areas of a gang's teams need which have none yet. -/
def State.poolNeed (s : State) (k : Gang) : Nat :=
  (k.teams.filterMap s.team?).foldl (fun n t => if t.pool != 0 || t.retired then n else n + t.areaBytes) 0

/-- The pool of the gang's die has room for the areas of its teams that have none yet. A pool of no bytes disables pre-emption. -/
def State.poolFits (s : State) (k : Gang) : Bool :=
  let die := s.gangDie k
  let d := s.die die
  d.ctxSize != 0
    && decide ((s.teams.foldl (fun n t => if t.poolDie = die then n + t.pool else n) 0) + s.poolNeed k ≤ d.poolBytes)

/-- A team takes its area at its first pre-emption, and keeps it until it retires. -/
def Team.takeArea (t : Team) (die : Nat) : Team :=
  if t.pool != 0 || t.retired then t else { t with pool := t.areaBytes, poolDie := die }

/-! ## The spill area (R373) -/

/-- TOP: the logical register after the window (R128). -/
def Group.top (g : Group) : Nat := g.flow.wb + 64

/-- Address of logical register `j` in the group's spill area. -/
def Group.spillAt (g : Group) (j : Nat) : W64 := g.csrs.spillbase + w64 (4 * g.width * j)

/-- Resident logical registers. -/
def Group.resident (g : Group) : List Nat := (List.range (g.top - g.flow.lo)).map fun k => g.flow.lo + k

/-- What a save or a restore of a group's registers comes to. -/
inductive SRes where
  | done (s : State)
  /-- waits on a kernel fault. -/
  | waits (s : State)
  | reg
deriving DecidableEq, Repr

/-- A save or restore of a group meets a fault: the group waits on the token (R373). -/
def State.spillFault (s : State) (g : Group) (r : FaultRec) : SRes :=
  match s.postFault r (.group g.id) with
  | some (num, s) => .waits (s.onGroup g.id fun h => { h with stall := some (.token num) })
  | none => .waits s

/-- Pieces of the row of register `j`, for a write or a read. -/
def State.spillRow (s : State) (g : Group) (j : Nat) (k : Kind) : State × ARes :=
  s.resolve (s.agent g) (g.spillAt j) (4 * g.width) k (s.workId g)

/-- Write the dirty ones of the given resident registers and clear their bits. -/
def State.saveRows (s : State) (gid : Nat) : List Nat → SRes
  | [] => .done s
  | j :: t =>
    match s.group? gid with
    | none => .done s
    | some g =>
      let d : Dest := .slot (j % g.budget)
      let sl := g.slot d
      if !sl.dirty then s.saveRows gid t
      else
        match s.spillRow g j .write with
        | (s, .fault r) => s.spillFault g r
        | (s, .perm) => s.spillFault g (mkFault (s.agent g) (g.spillAt j).toNat 0 0x20 0 0)
        | (s, .bad pa) => s.spillFault g (mkFault (s.agent g) (g.spillAt j).toNat pa (s.badCause pa) 0 0)
        | (_, .reg) => .reg
        | (s, .ok ps) =>
          let s := s.writeAll ps (sl.data.flatMap fun v => natBytes 4 v.toNat)
          (s.onGroup gid fun h => { h with regs := { h.regs with slots := lset h.regs.slots (j % h.budget) { sl with dirty := false } } }).saveRows
            gid t

/-- Save the registers of several groups. -/
def State.saveGroups (s : State) : List Nat → SRes
  | [] => .done s
  | gid :: t =>
    match s.group? gid with
    | none => s.saveGroups t
    | some g =>
      match (if g.gone then .done s else s.saveRows gid g.resident) with
      | .done s => s.saveGroups t
      | r => r

/-- Read the given registers from the spill area; their tags stood in the context area. -/
def State.loadRows (s : State) (gid : Nat) : List Nat → SRes
  | [] => .done s
  | j :: t =>
    match s.group? gid with
    | none => .done s
    | some g =>
      match s.spillRow g j .read with
      | (s, .fault r) => s.spillFault g r
      | (s, .perm) => s.spillFault g (mkFault (s.agent g) (g.spillAt j).toNat 0 0x20 0 0)
      | (s, .bad pa) => s.spillFault g (mkFault (s.agent g) (g.spillAt j).toNat pa (s.badCause pa) 0 0)
      | (_, .reg) => .reg
      | (s, .ok ps) =>
        match s.badIn (fun _ => true) (g.spillAt j).toNat ps with
        | some (va, pa) => s.spillFault g (mkFault (s.agent g) va pa (s.badCause pa) 0 0)
        | none =>
          let bs := s.readAll ps
          let data := (List.range g.width).map fun i => w32 (bytesNat ((bs.drop (4 * i)).take 4))
          (s.onGroup gid fun h =>
            let n := j % h.budget
            { h with regs := { h.regs with slots := lset h.regs.slots n { h.regs.slots.getD n {} with data := data, dirty := false } } }).loadRows
              gid t

/-- Restore the registers of several groups. -/
def State.loadGroups (s : State) : List Nat → SRes
  | [] => .done s
  | gid :: t =>
    match s.group? gid with
    | none => s.loadGroups t
    | some g =>
      match (if g.gone then .done s else s.loadRows gid g.resident) with
      | .done s => s.loadGroups t
      | r => r

/-! ## The rest of the context (R374) -/

/-- Intervals of the range scoreboard in a window. -/
def Tile.scoresIn (tl : Tile) (base n : Nat) : List Score := tl.scores.filter fun sc => base ≤ sc.lo && sc.lo < base + n

/-- Take a team's window, barriers, acknowledgements and scoreboard entries off its tile. -/
def State.packTeam (s : State) (t : Team) : State :=
  let pt := s.teamTile t
  let tl := s.tile pt
  let bars := s.barriersOf t.id
  let data := memRead tl.store t.base t.placed
  let sc := tl.scoresIn t.base t.placed
  let t' := { t with
    saved := memWrite [] 0 data, savedBars := bars
    savedAcks := tl.acks.filter fun (e : AckEntry) => e.recvTeam == t.id
    savedScores := sc.map fun (x : Score) => { x with lo := x.lo - t.base, hi := x.hi - t.base } }
  (s.setTile pt { tl with
    store := memWrite tl.store t.base (List.replicate t.placed 0)
    bars := tl.bars.filter fun (b : Nat) => !(t.base ≤ b && b < t.base + t.placed)
    acks := tl.acks.filter fun (e : AckEntry) => e.recvTeam != t.id
    scores := tl.scores.filter fun (x : Score) => !(t.base ≤ x.lo && x.lo < t.base + t.placed) }).setTeam t'

/-- Put them on a tile at a new base. -/
def State.unpackTeam (s : State) (t : Team) (base : Nat) : State :=
  let pt := s.teamTile t
  let tl := s.tile pt
  (s.setTile pt { tl with
    store := memWrite tl.store base (memRead t.saved 0 t.placed)
    bars := tl.bars ++ t.savedBars.map fun (b : Nat) => base + b
    acks := tl.acks ++ t.savedAcks
    scores := tl.scores ++ t.savedScores.map fun (x : Score) => { x with lo := x.lo + base, hi := x.hi + base } }).setTeam
      { t with base := base, saved := [], savedBars := [], savedAcks := [], savedScores := [] }

/-- A stoker core waits with `ctxsave` for the gang. -/
def State.saver (s : State) (gang : Nat) : Bool :=
  s.groups.any fun g => match g.core with | some c => c.saving == some gang | none => false

/-- The scalars and predicates stand in the context area: a save clears their dirty bits (R136). -/
def Group.cleanSaved (g : Group) : Group :=
  { g with regs := { g.regs with
      sregs := g.regs.sregs.map fun r => { r with dirty := false }
      pregs := g.regs.pregs.map fun r => { r with dirty := false } } }

/-- The number that stands for no tile's log, and for no core's. -/
def savedLog : Nat := 2 ^ 32

/-- The log entries of groups travel with their contexts: they count in no tile's log (R372). -/
def State.unlog (s : State) (ids : List Nat) : State :=
  { s with log := s.log.map fun e => if ids.contains e.grp then { e with tile := savedLog } else e }

/-- A store in a path that is to be performed before a group of the gang issues again (R279). -/
def State.pathAhead (s : State) (k : Gang) : Bool :=
  s.tiles.any fun t => t.2.path.any fun e => (s.gangGroups k).any fun g => e.covered g.id

/-- The gang's context is saved and its tiles become free; it returns to the head of its tenant's work (R311). Every store that stands
in their store paths then is to be performed before it issues again (R279). -/
def State.saveGang (s : State) (k : Gang) : Out :=
  match s.saveGroups ((s.gangGroups k).map fun g => g.id) with
  | .reg => .fault .deviceRegister
  | .waits s => .next s
  | .done s =>
    let die := s.gangDie k
    let stood := s.gangTiles k
    let s := ((s.gangGroups k).foldl State.seePaths s).unlog ((s.gangGroups k).map fun g => g.id)
    let s := (k.teams.filterMap s.team?).foldl (fun (s : State) (t : Team) => s.packTeam (t.takeArea die)) s
    let s := (s.gangGroups k).foldl (fun (s : State) (g : Group) => s.onGroup g.id Group.cleanSaved) s
    let (n, s) := s.takeId
    .next (s.setGang { k with state := .saved (s.saver k.id), stood := stood, back := n })

/-- No group of the gang still waits on a token of its save or restore. -/
def State.spillIdle (s : State) (k : Gang) : Bool := (s.gangGroups k).all s.stallOver

/-- A gang that is pre-empted stops and is saved (R372); with no room left in the pool it is not pre-empted, and goes on (R374). -/
def gangStop (s : State) (gang : Nat) : Out :=
  match s.gang? gang with
  | some k =>
    if k.state == .stopping false then
      let s := s.stopHeld k
      if !s.gangQuiet k || !s.spillIdle k then .next s
      else if s.poolFits k then s.saveGang k
      else .next ((s.setGang { k with state := .running }).releaseStops k)
    else .next s
  | none => .next s

/-- GANG_STOP. -/
def execGangStop (gang : Nat) (s : State) : Out := gangStop s gang

/-! ## Restore (R375) -/

/-- What the groups of a team need at restore: width, budget, and the least budget it may shrink to. -/
def State.liveNeeds (s : State) (t : Team) : List (Group × (Nat × Nat)) :=
  ((t.grps.filterMap s.group?).filter fun g => !g.retired).map fun g => (g, (g.width, g.budget))

/-- Needs of a saved team. -/
def State.savedNeeds (s : State) (t : Team) : Needs :=
  { groups := (s.liveNeeds t).map fun p => p.2, bytes := t.bytes, panels := t.panels.length, accs := t.accs.length, pair := t.pair }

/-- Place a group with the largest budget that fits, from `b` down to `lo` in steps of 4. -/
def Files.findShrunk (f : Files) (w lo : Nat) : Nat → Nat → Option (Nat × (Nat × Nat))
  | 0, _ => none
  | fuel + 1, b =>
    if b < lo then none
    else match f.find w b with
      | some sp => some (b, sp)
      | none => f.findShrunk w lo fuel (b - 4)

/-- Budgets with which groups fit where they may shrink. -/
def Files.shrinkAll (f : Files) : List Group → Option (List Nat)
  | [] => some []
  | g :: t =>
    match f.findShrunk g.width (64 + g.topStep) 256 g.budget with
    | none => none
    | some (b, sp) => ((f.take sp.1 sp.2 (g.width / 16) b).shrinkAll t).map fun l => b :: l

/-- Budgets for the groups of a team on a repaired tile; elsewhere their own. -/
def State.budgetsAt (s : State) (lt : Nat) (t : Team) : Option (List Nat) :=
  let gs := (s.liveNeeds t).map fun p => p.1
  let pt := s.physTile lt
  let odd := s.physTile (lt + 1)
  if (s.tile pt).rows = 1024 && (!t.pair || (s.tile odd).rows = 1024) then some (gs.map fun g => g.budget)
  else (if t.pair then (s.files pt).join (s.files odd) else s.files pt).shrinkAll gs

/-- Where a team of a saved gang would stand, with the budgets of its groups. -/
def State.restoreAt (s : State) (lt : Nat) (shrink : Bool) (t : Team) : Option (Fit × List Nat) :=
  let own := (s.liveNeeds t).map fun p => p.1.budget
  match (if shrink then s.budgetsAt lt t else some own) with
  | none => none
  | some bs =>
    let n := s.savedNeeds t
    (s.fitAt lt { n with groups := (n.groups.zip bs).map fun p => (p.1.1, p.2) }).map fun f => (f, bs)

/-- A block for every team of a saved gang. -/
def State.restoreBlock (s : State) (lt : Nat) (shrink : Bool) (ts : List Team) : Option (List (Fit × List Nat)) :=
  (ts.mapIdx fun j t => (j, t)).foldr (fun p acc =>
    match acc, s.restoreAt (lt + p.1 * (if p.2.pair then 2 else 1)) shrink p.2 with
    | some l, some f => some (f :: l)
    | _, _ => none) (some [])

/-- First logical tiles that a saved gang is tried on, in order (R290, R291, R294). One taken off a tile that has failed returns
to its logical tile, which a spare serves then (R376), and a deterministic one to the tile of R319. -/
def State.restoreTiles (s : State) (w : Work) (k : Gang) : List Nat :=
  if w.det = 1 || k.stood.any fun pt => (s.tile pt).failed then [k.ltile]
  else if w.job then (List.range 96).map fun i => 96 * w.die + i
  else (s.clusterOrder w (k.k * w.gangt)).flatMap fun c => blocksOf c k.ntiles

/-- The spot of a saved gang: with every budget as it was, else shrunk. -/
def State.restoreSpot (s : State) (w : Work) (k : Gang) : Option (Nat × List (Fit × List Nat)) :=
  let ts := k.teams.filterMap s.team?
  let try' (shrink : Bool) := (s.restoreTiles w k).findSome? fun lt => (s.restoreBlock lt shrink ts).map fun l => (lt, l)
  (try' false).orElse fun _ => try' true

/-- The slots of a group laid out for a new budget: logical registers from `lo` on keep their places. -/
def Group.relaid (g : Group) (lo b : Nat) : List Slot :=
  if b = g.budget then g.regs.slots
  else (List.range b).map fun n => g.regs.slots.getD ((lo + (n + b - lo % b) % b) % g.budget) { data := List.replicate g.width 0 }

/-- A group on its new sequencer: with a smaller budget LO rises (R375). -/
def Group.replaced (g : Group) (spot : Nat × Nat) (b : Nat) : Group :=
  let lo := max g.flow.lo (g.top - b)
  { g with
      seqr := spot.1, quarter := spot.2, budget := b
      flow := { g.flow with lo := lo }, regs := { g.regs with slots := g.relaid lo b } }

/-- The log entries of groups that have moved stand in the log of their new tile. -/
def State.relog (s : State) (ids : List Nat) : State :=
  { s with log := s.log.map fun e =>
      match s.group? e.grp with
      | some g => if ids.contains g.id then { e with tile := s.logOf g } else e
      | none => e }

/-- Place a team of a saved gang: its groups become ready there, in the order in which they are placed (R295). -/
def State.replaceTeam (s : State) (lt : Nat) (t : Team) (f : Fit × List Nat) : State :=
  let gs := (s.liveNeeds t).map fun p => p.1
  let s := (gs.zip (f.1.spots.zip f.2)).foldl (fun (s : State) p =>
    let (n, s) := s.takeId
    s.onGroup p.1.id fun g => { g.replaced p.2.1 p.2.2 with age := s.time, order := n }) s
  let t : Team := { t with ltile := lt }
  ((s.setTeam t).unpackTeam t f.1.base).relog t.grps

/-- Place a saved gang at its spot, and drop the caches of its tiles (R279). -/
def State.replaceGang (s : State) (k : Gang) (lt : Nat) (fs : List (Fit × List Nat)) : State :=
  let k : Gang := { k with ltile := lt, state := .running, placedAt := s.time }
  let ts := k.teams.filterMap s.team?
  let s := s.setGang k
  let s := ((ts.zip fs).mapIdx fun j p => (j, p)).foldl (fun s p => s.replaceTeam (lt + p.1 * (if p.2.1.pair then 2 else 1)) p.2.1 p.2.2) s
  (s.gangTiles k).foldl State.dropCache s

/-- Entries of the gang that were resumed while it was saved are translated (R372). -/
def State.wakeEntries (s : State) (k : Gang) : State :=
  let ids := (s.gangGroups k).map fun g => g.id
  (s.log.filter fun e => ids.contains e.grp && e.state == .running && !s.atReturn e && e.untranslated).foldl (fun s e => (s.resolveEntry e.id).1) s

/-- Restore a saved gang at its spot; a fault of the reads leaves it saved and waiting (R373). -/
def State.restoreGang (s : State) (k : Gang) (spot : Nat × List (Fit × List Nat)) : Out :=
  let t := s.replaceGang k spot.1 spot.2
  match t.loadGroups ((t.gangGroups k).map fun g => g.id) with
  | .reg => .fault .deviceRegister
  | .waits u => .next { u with
      gangs := s.gangs, teams := s.teams, tiles := s.tiles, log := s.log
      groups := s.groups.map fun g => { g with stall := (u.group? g.id).bind fun h => h.stall } }
  | .done t => .next ((t.releaseStops k).wakeEntries k)

end Sys2Proof.Machine
end

