-- ==== Sys2Proof/Machine/System.lean ====
section
/-! DEFINITION. The SY family (21 R377 to R379) and the privileged CSRs (23 R404, with 03 R52; 18 R327, R338; 20 R343 to
R346; 21 R367, R374; 22 R381, R394, R397; 23 R403); the tiles that are left (23 R402, 21 R376). -/
namespace Sys2Proof.Machine

/-! ## Helpers -/

/-- Change the registers of a stoker core. -/
def State.onCore (s : State) (g : Group) (f : CoreRegs → CoreRegs) : State :=
  s.onGroup g.id fun h => { h with core := h.core.map f }

/-- The core's registers. -/
def Ctx.core (c : Ctx) : CoreRegs := c.g.core.getD { num := 0 }

/-- The value that a `csrwrp` writes. -/
def Ctx.csrVal (c : Ctx) : W64 := c.sAl

/-- From a VM other than VM 0: ILLOP 0x0B. -/
def Ctx.vm0Only (c : Ctx) : Bool × (Cause × W64) := (c.g.vmid != 0, illop 0x0B)

/-- An SY instruction's checks (R379: privilege, RLXOP, the rest), then its effect, once for the core. ABSENT of a unit that it names
comes behind privilege, whichever lanes execute (R43 step 8; DEDUCED, log entry 13). -/
def sy (c : Ctx) (s : State) (l : List (Bool × (Cause × W64))) (r : Res) : Res :=
  c.guarded (l.filter fun p => p.2 == illop 0x0B) <| present (l.filter fun p => p.2.1 == .absent) <|
    rlxGate c s (c.once s (c.guarded l r))

/-! ## The agent entry (R51, R52) -/

/-- What finding the agent entry of the core's ASID gives. -/
inductive EntryRes where
  /-- no VM table yet: the value stands in the core (R399). -/
  | own
  | at' (pa : Nat)
  | bad (cause ipa : Nat)
deriving DecidableEq, Repr

/-- Physical address of the agent entry of a core's VM and ASID, for a read or a write of it. -/
def State.agentEntry (s : State) (g : Group) (wr : Bool) : State × EntryRes :=
  let ag := s.agent g
  match s.tableOf ag.master with
  | some (some vmt) =>
    match s.agentSpot vmt ag (!wr) wr with
    | (s, .ok _ pa) => (s, .at' pa)
    | (s, .perm) => (s, .bad 0x20 0)
    | (s, .fault c ipa) => (s, .bad c ipa)
    | (s, .err pa) => (s, .bad (s.badCause pa) pa)
  | _ => (s, .own)

/-- QUOTA (`off` 8) or QUSED (`off` 16) is read. -/
def quotaRead (off : Nat) (c : Ctx) (s : State) : Res :=
  match s.agentEntry c.g false with
  | (s, .own) => .ok (c.putS s (if off = 8 then c.core.quota else c.core.qused))
  | (s, .at' pa) =>
    if s.badRead (pa + off) 8 then .freeze s (s.badCause (pa + off)) (pa + off) (pa + off) else .ok (c.putS s (s.homeW64 (pa + off)))
  | (s, .bad k ipa) => .freeze s k 0 ipa

/-- QUOTA or QUSED is written: one 8-byte store (R52). -/
def quotaWrite (c : Ctx) (s : State) : Res :=
  let off := if csrNumD c.o = 0x202 then 8 else 16
  sy c s [] <|
    match s.agentEntry c.g true with
    | (s, .own) => .ok (s.onCore c.g fun k => if off = 8 then { k with quota := c.csrVal } else { k with qused := c.csrVal })
    | (s, .at' pa) => .ok (s.homeWrite (pa + off) (natBytes 8 c.csrVal.toNat) 0)
    | (s, .bad k ipa) => .freeze s k 0 ipa

/-- QUOTA_CSR_WRITE. -/
def execQuotaCsrWrite (o : Ops) (s : State) : Out := issue 0x22 1 o quotaWrite s

/-! ## TURN_PERIOD (R327, R328) -/

/-- The first multiple of a period after a time. -/
def nextMultiple (t p : Nat) : Nat := (t / p + 1) * p

/-- TURN_PERIOD is written; a new EXP takes effect from the first multiple of the new period after the write. -/
def turnPeriodWrite (c : Ctx) (s : State) : Res :=
  let v := c.csrVal
  let exp := fld v 4 0
  sy c s [c.vm0Only, (exp < 16 || 26 < exp || 8 < fld v 23 16, illop 0x0D)] <|
    let n := s.dieOf c.g
    let d := s.die n
    .ok (s.setDie n { d with hyst := fld v 31 24, maxPairs := fld v 23 16
                             nextExp := if exp = d.exp then none else some (exp, nextMultiple s.time (2 ^ exp)) })

/-- TURN_PERIOD_WRITE. -/
def execTurnPeriodWrite (o : Ops) (s : State) : Out := issue 0x22 1 o turnPeriodWrite s

/-- TURN_PERIOD as it was last written. -/
def Die.turnPeriod (d : Die) : W64 :=
  w64 (d.hyst * 2 ^ 24 + d.maxPairs * 2 ^ 16 + (match d.nextExp with | some p => p.1 | none => d.exp))

/-! ## SWALLOW, DROOPTH, DAMPCFG, SLEWBUDGET (R343 to R347) -/

/-- ABSENT of a selector that names a die that is not there (R360). -/
def absentDie (die : Nat) : Cause × W64 := (.absent, w64 (4 + 4 * 16 + die * 2 ^ 20))

/-- The checks of a write through the selector [53:48]. -/
def Ctx.selChecks (c : Ctx) (s : State) : List (Bool × (Cause × W64)) :=
  [c.vm0Only, (s.ndies ≤ fld c.csrVal 53 53, absentDie 1), (12 ≤ fld c.csrVal 52 48, illop 0x0D)]

/-- The cluster that the selector of a value names. -/
def selOf (v : W64) : Nat := fld v 53 48

/-- Ones of a pattern. -/
def onesOf (v : W64) : Nat := ((List.range 16).filter fun i => bit v i).length

/-- SWALLOW is written: the pattern waits for a multiple of 16 (R344). -/
def swallowWrite (c : Ctx) (s : State) : Res :=
  let v := c.csrVal
  sy c s (c.selChecks s ++ [(decide (onesOf v < 4), illop 0x0D)]) <|
    let n := selOf v
    .ok ((s.setCluster n { s.cluster n with nextPattern := some (v.extractLsb' 0 16) }).onCore c.g fun k => { k with selSwallow := n })

/-- SWALLOW_WRITE. -/
def execSwallowWrite (o : Ops) (s : State) : Out := issue 0x22 1 o swallowWrite s

/-- What governs a cluster's samples as its registers stand. -/
def Cluster.damp (k : Cluster) : Damp := { level := k.level, en := k.en, halfN := k.halfN, strN := k.strN }

/-- A write of DROOPTH or DAMPCFG governs the samples from the next local clock on (R347). -/
def Cluster.reconf (k : Cluster) (f : Cluster → Cluster) : Cluster :=
  { f k with before := match k.before with | some b => some b | none => some k.damp }

/-- DROOPTH is written (R346). -/
def droopthWrite (c : Ctx) (s : State) : Res :=
  let v := c.csrVal
  sy c s (c.selChecks s) <|
    let n := selOf v
    .ok ((s.setCluster n ((s.cluster n).reconf fun k => { k with level := fld v 9 0 })).onCore c.g fun k => { k with selDroop := n })

/-- DROOPTH_WRITE. -/
def execDroopthWrite (o : Ops) (s : State) : Out := issue 0x22 1 o droopthWrite s

/-- DAMPCFG is written (R346). -/
def dampcfgWrite (c : Ctx) (s : State) : Res :=
  let v := c.csrVal
  sy c s (c.selChecks s ++ [(decide (fld v 7 4 = 0 ∨ 4 < fld v 7 4), illop 0x0D)]) <|
    let n := selOf v
    let set (k : Cluster) : Cluster :=
      { k with part := fld v 23 20, en := bit v 16, halfN := fld v 15 8, strLen := fld v 7 4, strN := fld v 3 0 }
    .ok ((s.setCluster n ((s.cluster n).reconf set)).onCore c.g fun k => { k with selDamp := n })

/-- DAMPCFG_WRITE. -/
def execDampcfgWrite (o : Ops) (s : State) : Out := issue 0x22 1 o dampcfgWrite s

/-- SLEWBUDGET is written (R345). -/
def slewbudgetWrite (c : Ctx) (s : State) : Res :=
  let v := c.csrVal
  sy c s [c.vm0Only] <|
    let n := fld v 51 48
    .ok ((s.setPartn n { s.partn n with rise := fld v 15 0 }).onCore c.g fun k => { k with selSlew := n })

/-- SLEWBUDGET_WRITE. -/
def execSlewbudgetWrite (o : Ops) (s : State) : Out := issue 0x22 1 o slewbudgetWrite s

/-- The four registers as a core reads them. -/
def State.powerRead (s : State) (k : CoreRegs) (n : Nat) : W64 :=
  match n with
  | 0x220 => let c := s.cluster k.selSwallow; w64 (k.selSwallow * 2 ^ 48 + (c.nextPattern.getD c.pattern).toNat)
  | 0x221 => w64 (k.selDroop * 2 ^ 48 + (s.cluster k.selDroop).level)
  | 0x222 =>
    let c := s.cluster k.selDamp
    w64 (k.selDamp * 2 ^ 48 + c.part * 2 ^ 20 + (if c.en then 2 ^ 16 else 0) + c.halfN * 2 ^ 8 + c.strLen * 2 ^ 4 + c.strN)
  | _ => w64 (k.selSlew * 2 ^ 48 + (s.partn k.selSlew).rise)

/-! ## PLACETAB (R336, R338) -/

/-- The entry that a selector names; zero where there is none. -/
def State.placeEntryAt (s : State) (sel : Nat) : W64 :=
  let i := sel % 1024
  match sel / 1024 with
  | 1 => s.ptileEntry i
  | 2 => s.pclusterEntry i
  | 3 => s.pbankEntry i
  | _ => 0

/-- A selector with a bit above it, or of kind 0. -/
def selBad (v : W64) : Bool := fld v 63 12 != 0 || fld v 11 10 = 0

/-- PLACETAB is written: a selector, one for the module (R404). -/
def placetabSelect (c : Ctx) (s : State) : Res :=
  sy c s [(selBad c.csrVal, illop 0x0D)] (.ok { s with selPlace := fld c.csrVal 11 0 })

/-- PLACETAB_SELECT. -/
def execPlacetabSelect (o : Ops) (s : State) : Out := issue 0x22 1 o placetabSelect s

/-- Physical tiles of a die that no valid tile entry names and that have not failed: the unused spares (R403). -/
def State.sparesOf (s : State) (die : Nat) : List Nat :=
  let named := (s.validTiles).map s.physTile
  ((List.range 104).map fun i => 104 * die + i).filter fun pt => die < s.ndies && !named.contains pt && !(s.tile pt).failed

/-- LT0, LT1, SPARE0 and SPARE1 after a change of the tile entries: one indivisible change (R402). -/
def State.recount (s : State) : State :=
  let n (die : Nat) : Nat := (s.validTiles.filter fun lt => lt / 96 == die).length
  { s with lt0 := n 0, lt1 := n 1
           health := { s.health with spare0 := (s.sparesOf 0).length, spare1 := (s.sparesOf 1).length } }

/-- A gang stands on, or is bound to, the logical tile. -/
def State.tileHeld (s : State) (lt : Nat) : Bool := s.gangs.any fun k => k.resident && k.ltile ≤ lt && lt < k.ltile + k.ntiles

/-- A physical tile takes part in an exchange. -/
def State.inExchange (s : State) (pt : Nat) : Bool :=
  (s.die (pt / 104)).pairs.any fun p => (p.hot ≤ pt && pt < p.hot + p.size) || (p.cool ≤ pt && pt < p.cool + p.size)

/-- The logical tile whose valid entry names a physical tile. -/
def State.behind (s : State) (pt : Nat) : Option Nat := s.validTiles.find? fun lt => s.physTile lt == pt

/-- The tile entry that names a physical tile. -/
def tileWord (pt : Nat) : W64 := w64 (2 ^ 63 + pt / 104 * 256 + pt % 104)

/-- Write a tile entry; the entry that names the same physical tile takes the old value (R378). -/
def State.swapTile (s : State) (i : Nat) (v : W64) : State :=
  let old := s.ptileEntry i
  let set (l : List (Nat × W64)) (j : Nat) (w : W64) := aset l j w
  let l := match (if bit v 63 then s.behind (104 * fld v 8 8 + fld v 7 0) else none) with
    | some j => set (set s.ptiles j old) i v
    | none => set s.ptiles i v
  { s with ptiles := l }.recount

/-- A logical tile's entry becomes invalid: the count of its die falls, and the host is asked to replace the module (R3,
R376). -/
def State.invalidTile (s : State) (i : Nat) (v : W64) : State :=
  let s := s.swapTile i v
  { s with health := { s.health with replace := true }, notes := s.notes ++ [.replaceModule] }

/-- The entry or its contents name die 1 of a part that has one (R4). -/
def State.placeAbsent (s : State) (sel : Nat) (v : W64) : Bool :=
  s.ndies == 1 && match sel / 1024 with
    | 1 => (decide (96 ≤ sel % 1024) && decide (sel % 1024 < 192)) || (bit v 63 && bit v 8)
    | 2 => decide (12 ≤ sel % 1024) && decide (sel % 1024 < 24)
    | 3 => bit v 63 && !bit v 62 && bit v 8
    | _ => false

/-- `placewr` (R378). V = 0 is for a tile that has failed where its die has no spare left (R376). -/
def placewr (c : Ctx) (s : State) : Res :=
  let sel := fld c.sA 11 0
  let i := sel % 1024
  let v := c.sBl
  let pt := 104 * fld v 8 8 + fld v 7 0
  let now := s.physTile i
  let bad : Bool :=
    match sel / 1024 with
    | 1 =>
      96 * s.ndies ≤ i || fld v 62 9 != 0 || (bit v 63 && (104 ≤ fld v 7 0 || s.ndies ≤ fld v 8 8))
        || (!bit v 63 && !((s.tile now).failed && (s.sparesOf (now / 104)).isEmpty))
        || s.tileHeld i || (bit v 63 && (match s.behind pt with | some j => s.tileHeld j | none => false))
    | 2 => 12 * s.ndies ≤ i || fld v 62 0 != 0
    | _ => fld v 25 9 != 0 || (bit v 62 && fld v 7 3 != 0)
  let waits := sel / 1024 = 1 && (s.inExchange now || (bit v 63 && s.inExchange pt))
  sy c s [c.vm0Only, (s.placeAbsent sel v, (.absent, w64 (1 + 4 * 16))), (selBad c.sA, illop 0x0D)] <|
    if waits then .stall .resource
    else c.guarded [(bad, illop 0x0D)] <|
      .ok (match sel / 1024 with
        | 1 => if bit v 63 then s.swapTile i v else s.invalidTile i v
        | 2 => { s with pclusters := aset s.pclusters i v }
        | _ => { s with pbanks := aset s.pbanks i v })

/-- `placewr`. -/
def execPlacewr (o : Ops) (s : State) : Out := issue 0x22 9 o placewr s

/-! ## HEALTH (R403) -/

/-- HEALTH is read: TMAX and HOT are cleared in the same step. -/
def healthRead (c : Ctx) (s : State) : Res :=
  sy c s [] (.ok ({ c.putS s s.health.word with health := { s.health with tmax := 0, hot := false } }))

/-- HEALTH_READ. -/
def execHealthRead (o : Ops) (s : State) : Out := issue 0x22 0 o healthRead s

/-- HEALTH is written: CECNT and UECNT. -/
def healthWrite (c : Ctx) (s : State) : Res :=
  sy c s [] (.ok { s with health := { s.health with cecnt := fld c.csrVal 63 32, uecnt := fld c.csrVal 31 24 } })

/-- HEALTH_WRITE. -/
def execHealthWrite (o : Ops) (s : State) : Out := issue 0x22 1 o healthWrite s

/-! ## Rings, pools, the collective engine, the checkpoint -/

/-- A ring register (R367). -/
def Ring.word (r : Ring) : W64 := w64 (r.base + (if r.en then 32 else 0) + r.log2n)

/-- The ring that a value names. -/
def ringOfWord (v : W64) : Ring := { base := fld v 47 12 * 4096, en := bit v 5, log2n := fld v 3 0 }

/-- A bit that must be zero, or LOG2N outside 6 to 12. -/
def ringBad (v : W64) : Bool := fld v 63 48 != 0 || fld v 11 6 != 0 || bit v 4 || fld v 3 0 < 6 || 12 < fld v 3 0

/-- FRINGBASE or HRINGBASE is written (R367). -/
def ringbaseWrite (c : Ctx) (s : State) : Res :=
  let h := csrNumD c.o = 0x251
  let v := c.csrVal
  sy c s [(h && c.g.vmid != 0, illop 0x0B), (ringBad v, illop 0x0D)] <|
    .ok (s.onCore c.g fun k => if h then { k with hring := ringOfWord v } else { k with fring := ringOfWord v })

/-- RINGBASE_WRITE. -/
def execRingbaseWrite (o : Ops) (s : State) : Out := issue 0x22 1 o ringbaseWrite s

/-- CTXPOOL is written (R374). -/
def ctxpoolWrite (c : Ctx) (s : State) : Res :=
  let v := c.csrVal
  sy c s [(fld v 63 48 != 0, illop 0x0D)] <|
    let n := s.dieOf c.g
    .ok (s.setDie n { s.die n with ctxBase := fld v 47 12 * 4096, ctxSize := fld v 11 0 })

/-- CTXPOOL_WRITE. -/
def execCtxpoolWrite (o : Ops) (s : State) : Out := issue 0x22 1 o ctxpoolWrite s

/-- Lines above the ways that are left leave the slices of a die when staging takes ways (R67). -/
def State.shrinkSlices (s : State) : List SLine → State
  | [] => s
  | l :: t =>
    if s.sways l.line < (s.sset l.line).length then
      match victimOf SLine.mark (s.sset l.line) with
      | some v => (s.evict v.line).shrinkSlices t
      | none => s.shrinkSlices t
    else s.shrinkSlices t

/-- COLLCFG is written (R381). -/
def collcfgWrite (c : Ctx) (s : State) : Res :=
  let v := c.csrVal
  let n := s.dieOf c.g
  let d := s.die n
  sy c s [c.vm0Only,
      (fld v 63 48 != 0 || fld v 11 4 != 0 || 4 < fld v 2 0 || (fld v 2 0 != d.ways && !d.chunks.isEmpty), illop 0x0D)] <|
    let s := s.setDie n { d with collBase := fld v 47 12 * 4096, collEn := bit v 3, ways := fld v 2 0 }
    .ok (s.shrinkSlices s.sram)

/-- COLLCFG_WRITE. -/
def execCollcfgWrite (o : Ops) (s : State) : Out := issue 0x22 1 o collcfgWrite s

/-- CQBASE is written (R394). -/
def cqbaseWrite (c : Ctx) (s : State) : Res :=
  let v := c.csrVal
  sy c s [c.vm0Only, (ringBad v, illop 0x0D)] <|
    let n := s.dieOf c.g
    .ok (s.setDie n { s.die n with cq := ringOfWord v })

/-- CKPTCTL (R397). -/
def Ckpt.word (k : Ckpt) : W64 :=
  w64 (k.peer * 2 ^ 56 + k.dest.toNat * 2 ^ 16 + k.links.toNat * 16 + (if k.err then 4 else 0) + (if k.busy then 2 else 0))

/-- CKPTCTL is written: GO starts a checkpoint, one written to ERR clears it; both then come about as steps of their own. -/
def ckptctlWrite (c : Ctx) (s : State) : Res :=
  let v := c.csrVal
  let peer := fld v 63 56
  let go := bit v 0
  let kind := fld (s.collWord (s.dieOf c.g) (0x1000 + 16 * peer)) 7 0
  sy c s [c.vm0Only] <| readsTable s (s.dieOf c.g) (if go then peerOffs peer else []) <| c.guarded
      [(go && (s.ckpt.busy || peer = 0 || kind != 1 || fld v 15 4 = 0 || 2 ^ s.links ≤ fld v 15 4), illop 0x0D)] <|
    let k := { s.ckpt with peer := peer, dest := v.extractLsb' 16 40, links := v.extractLsb' 4 12, busy := s.ckpt.busy || go,
                           started := s.ckpt.started && !go }
    .ok { s with ckpt := k, agenda := s.agenda ++ (if bit v 2 then [.ckptErrClear] else []) ++ (if go then [.ckptGo] else []) }

/-! ## csrrdp and csrwrp (R378) -/

/-- The value of a privileged CSR that is read without an effect of its own; `none`: no such CSR. -/
def State.privRead (s : State) (g : Group) (k : CoreRegs) (n : Nat) : Option W64 :=
  let d := s.die (s.dieOf g)
  match n with
  | 0x200 => some (g.asid.zeroExtend 64)
  | 0x201 => some (g.vmid.zeroExtend 64)
  | 0x204 => some k.vmtbase
  | 0x210 => some d.turnPeriod
  | 0x220 => some (s.powerRead k n)
  | 0x221 => some (s.powerRead k n)
  | 0x222 => some (s.powerRead k n)
  | 0x223 => some (s.powerRead k n)
  | 0x230 => some (s.placeEntryAt s.selPlace)
  | 0x250 => some k.fring.word
  | 0x251 => some k.hring.word
  | 0x260 => some (w64 (d.ctxBase + d.ctxSize))
  | 0x270 => some (w64 (d.collBase + (if d.collEn then 8 else 0) + d.ways))
  | 0x271 => some d.cq.word
  | 0x272 => some s.ckpt.word
  | _ => none

/-- `csrrdp`. -/
def csrrdp (c : Ctx) (s : State) : Res :=
  let n := csrNumA c.o
  match n with
  | 0x202 => sy c s [] (quotaRead 8 c s)
  | 0x203 => sy c s [] (quotaRead 16 c s)
  | 0x240 => healthRead c s
  | n =>
    rlxGate c s <| c.once s <|
      if 0x200 ≤ n then
        match s.privRead c.g c.core n with
        | some v => .ok (c.putS s v)
        | none => .ofPair (illop 0x0D)
      else
        match s.csrRead c.g n with
        | (_, none) => .ofPair (illop 0x0D)
        | (t, some v) => if n = 0x001 && !s.flagsReady c.g then .stall .order else .ok (c.putS t v)

/-- `csrrdp`. -/
def execCsrrdp (o : Ops) (s : State) : Out := issue 0x22 0 o csrrdp s

/-- A write of ASID, VMID, VMTBASE or a user CSR. The first write of VMTBASE ends the core's VA = PA (R399); VMTBASE then
serves the other masters too (DEDUCED, log entry 9). -/
def plainWrite (n : Nat) (c : Ctx) (s : State) : Res :=
  let v := c.csrVal
  match n with
  | 0x200 => sy c s [(fld v 63 14 != 0, illop 0x0D)] (.ok (c.upd s fun g => { g with asid := v.extractLsb' 0 14 }))
  | 0x201 => sy c s [c.vm0Only, (fld v 63 8 != 0, illop 0x0D)] (.ok (c.upd s fun g => { g with vmid := v.extractLsb' 0 8 }))
  | 0x204 =>
    sy c s [c.vm0Only, (fld v 63 48 != 0 || fld v 11 0 != 0, illop 0x0D)] <|
      .ok { s.onCore c.g (fun k => { k with vmtbase := v, tables := true }) with vmtbase := some v.toNat }
  | n =>
    rlxGate c s <| c.once s <|
      if 0x200 ≤ n then .ofPair (illop 0x0D)
      else match s.csrWrite c.g n v with
        | .bad r => .ofPair (illop r)
        | .wait => .stall .order
        | .ok t => .ok t

/-- `csrwrp` of any CSR. -/
def csrwrp (c : Ctx) (s : State) : Res :=
  match csrNumD c.o with
  | 0x202 => quotaWrite c s
  | 0x203 => quotaWrite c s
  | 0x210 => turnPeriodWrite c s
  | 0x220 => swallowWrite c s
  | 0x221 => droopthWrite c s
  | 0x222 => dampcfgWrite c s
  | 0x223 => slewbudgetWrite c s
  | 0x230 => placetabSelect c s
  | 0x240 => healthWrite c s
  | 0x250 => ringbaseWrite c s
  | 0x251 => ringbaseWrite c s
  | 0x260 => ctxpoolWrite c s
  | 0x270 => collcfgWrite c s
  | 0x271 => cqbaseWrite c s
  | 0x272 => ckptctlWrite c s
  | n => plainWrite n c s

/-- `csrwrp`. -/
def execCsrwrp (o : Ops) (s : State) : Out := issue 0x22 1 o csrwrp s

/-! ## wfi, halt, and the events WFI_WAKE, STOKER_CORE_RESTART, STOKER_HALT_ON_FAULT (R369, R378) -/

/-- A ring that the core serves, accepting records or not, has PROD ≠ CONS (R378). -/
def State.ringWork (s : State) (k : CoreRegs) : Bool := s.prod k.fring != s.cons k.fring || s.prod k.hring != s.cons k.hring

/-- The first byte with an uncorrectable error in the headers of the rings that the core serves: its address (R48). -/
def State.servedBad (s : State) (k : CoreRegs) : Option Nat :=
  [k.fring, k.hring].findSome? fun r => (s.badByte { pa := r.base, n := 16 }).map fun i => r.base + i

/-- `wfi`: it ends at once where a ring has work or the doorbell has rung; a bad header that it reads freezes the core (R48). -/
def wfi (c : Ctx) (s : State) : Res :=
  sy c s [] <|
    match s.servedBad c.core with
    | some pa => .freeze s (s.badCause pa) pa pa
    | none =>
    if s.ringWork c.core || c.core.doorbell then .ok (s.onCore c.g fun k => { k with doorbell := false })
    else .stay (c.upd s fun g => { g with hold := .wfi, stall := none })

/-- `wfi`. -/
def execWfi (o : Ops) (s : State) : Out := issue 0x22 3 o wfi s

/-- A core in `wfi` resumes: for a ring's work, else because the host rings its doorbell. One whose ring has a bad header halts, as a
core does for a freeze (R48, R369). -/
def wfiWake (s : State) (n : Nat) : State :=
  match s.coreGroup n with
  | some g =>
    match g.core with
    | some k =>
      if g.hold == .wfi && (s.servedBad k).isSome then s.haltCore g
      else if g.hold == .wfi then
        let s := if s.ringWork k then s else s.onCore g fun k => { k with doorbell := true }
        s.onGroup g.id fun h => { h with hold := .none }
      else s.onCore g fun k => { k with doorbell := true }
    | none => s
  | none => s

/-- WFI_WAKE. -/
def execWfiWake (core : Nat) (s : State) : Out := .next (wfiWake s core)

/-- `halt`: the core stops after it until the host restarts it. -/
def execHalt (o : Ops) (s : State) : Out :=
  issue 0x22 8 o (fun c s => sy c s [] (.stay (c.upd s fun g => { g.advance c.words true with hold := .halted }))) s

/-- The host restarts a core that has stopped; it goes on from where it stands (DESIGN CHOICE, log entry 17). -/
def coreRestart (s : State) (n : Nat) : State :=
  match s.coreGroup n with
  | some g => if g.hold == .halted && n < s.ncores then s.onGroup g.id fun h => { h with hold := .none, stall := none, pend := none } else s
  | none => s

/-- STOKER_CORE_RESTART. -/
def execStokerCoreRestart (core : Nat) (s : State) : Out := .next (coreRestart s core)

/-- A core meets a fault or a freeze cause of its own. -/
def coreFault (s : State) (n : Nat) : State :=
  match s.coreGroup n with
  | some g => if g.hold == .halted || s.ncores ≤ n then s else s.haltCore g
  | none => s

/-- STOKER_HALT_ON_FAULT. -/
def execStokerHaltOnFault (core : Nat) (s : State) : Out := .next (coreFault s core)

/-! ## tlbinv and tlbharv (R57 to R59, R378) -/

/-- What a `tlbinv` covers: kind, agent, VM, page of 16 KiB. -/
structure Cover where
  kind : Nat
  asid : Nat
  vmid : Nat
  page : Nat
deriving DecidableEq, Repr

/-- The agent is covered. -/
def Cover.agent (v : Cover) (asid vmid : Nat) : Bool :=
  match v.kind with
  | 3 => true
  | 2 => vmid == v.vmid
  | _ => asid == v.asid && vmid == v.vmid

/-- The range of addresses is covered. -/
def Cover.range (v : Cover) (va n : Nat) : Bool := v.kind != 0 || (va < (v.page + 1) * 2 ^ 14 && v.page * 2 ^ 14 < va + n)

/-- A TLB entry is covered. -/
def Cover.entry (v : Cover) (e : TlbEntry) : Bool := v.agent e.asid e.vmid && v.range e.va (sizeBytes e.size)

/-- A master still makes an access with a translation that is covered: an access in the log, or on a store path. -/
def State.usesOld (s : State) (v : Cover) : Bool :=
  let ofGroup (grp : Nat) : Bool := match s.group? grp with | some g => v.agent g.asid.toNat g.vmid.toNat | none => true
  s.log.any (fun e => ofGroup e.grp && e.accs.any fun a =>
    (match a.place with | .phys _ => true | _ => false) && !e.isBound a.lane && v.range a.va.toNat a.n)
  || s.tiles.any fun p => p.2.path.any fun e => ofGroup e.grp

/-- The covered entries leave every TLB; walk caches hold nothing afterwards. -/
def State.dropTlbs (s : State) (v : Cover) : State :=
  { s with
      tlbs := s.tlbs.map fun p => (p.1, p.2.filter fun e => !v.entry e)
      dies := s.dies.map fun p => (p.1, { p.2 with tlb := p.2.tlb.filter fun e => !v.entry e, walkCache := [] }) }

/-- `tlbinv`: covered gathers are written back, for a page those of its whole agent (R58; DESIGN CHOICE, log entry 17). -/
def tlbinv (c : Ctx) (s : State) : Res :=
  let b := c.sB
  let v : Cover := { kind := fld b 63 62, asid := fld b 13 0, vmid := fld b 21 14, page := (c.sA.toNat) / 2 ^ 14 }
  sy c s [(fld b 61 22 != 0, illop 0x0D)] <|
    if s.usesOld v then .stall .resource
    else .ok ((s.dieNums.foldl (fun s d => s.flushGathers d fun g => g.under v.agent) s).dropTlbs v)

/-- `tlbinv`. -/
def execTlbinv (o : Ops) (s : State) : Out := issue 0x22 4 o tlbinv s

/-- `tlbharv`. -/
def execTlbharv (o : Ops) (s : State) : Out :=
  issue 0x22 5 o (fun c s => sy c s [] (.ok (s.dieNums.foldl (fun s d => s.flushGathers d fun _ => true) s))) s

/-! ## ctxsave and ctxload (R378) -/

/-- The gang that a word names, of the issuer's VM: of a launch, else of a job. -/
def State.gangNamed (s : State) (g : Group) (v : W64) : Option Gang :=
  let of' (job : Bool) : Option Gang := s.gangs.find? fun k =>
    k.state != .retired && k.k == fld v 55 32
      && (match s.work? k.work with
          | some w => w.job == job && (w.job || w.named) && w.num == fld v 31 0 && w.vmid == g.vmid.toNat
          | none => false)
  (of' false).orElse fun _ => of' true

/-- `ctxsave`: it requests the stop once, and stalls until the gang is saved. A gang that stops already, be it for a turn, is left to
stop; of one that has stopped for a turn the request takes effect after the exchange (R333; DESIGN CHOICE, log entry 17). -/
def ctxsave (c : Ctx) (s : State) : Res :=
  let answer (s : State) (v : Nat) : Res := .ok ((c.putS s (w64 v)).onCore c.g fun k => { k with saving := none })
  sy c s [] <|
    match c.core.saving with
    | some id =>
      match s.gang? id with
      | some k =>
        match k.state with
        | .saved _ => answer (s.setGang { k with state := .saved true }) 0
        | .stopping _ => .stall .resource
        | .running => answer s 2
        | .retired => answer s 1
      | none => answer s 1
    | none =>
      match s.gangNamed c.g c.sA with
      | none => answer s 1
      | some k =>
        match k.state with
        | .running =>
          if !s.poolFits k then answer s 2
          else .stay ((s.requestStop k false).onCore c.g fun r => { r with saving := some k.id })
        | .stopping turn =>
          if !(turn && s.gangQuiet k && !k.preempt) then answer s 3
          else if !s.poolFits k then answer s 2
          else .stay ((s.askPreempt k).onCore c.g fun r => { r with saving := some k.id })
        | _ => answer s 1

/-- `ctxsave`. -/
def execCtxsave (o : Ops) (s : State) : Out := issue 0x22 6 o ctxsave s

/-- `ctxload`: the held gang may be restored, at the head of its tenant's work. -/
def ctxload (c : Ctx) (s : State) : Res :=
  sy c s [] <|
    match s.gangNamed c.g c.sA with
    | some k =>
      if k.state == .saved true then
        let (n, s) := s.takeId
        .ok (c.putS (s.setGang { k with state := .saved false, back := n }) 0)
      else .ok (c.putS s 1)
    | none => .ok (c.putS s 1)

/-- `ctxload`. -/
def execCtxload (o : Ops) (s : State) : Out := issue 0x22 7 o ctxload s

/-! ## fring (R366, R378) -/

/-- `fring` op 0: CONS of a ring is set and PROD returned. -/
def fringCons (c : Ctx) (s : State) : Res :=
  let k := c.core
  let r := if bit c.sA 63 then k.hring else k.fring
  let n := fld c.sA 62 0
  let bad (s : State) (r' : Res) : Res :=
    match s.badByte { pa := r.base, n := 16 } with
    | some i => .freeze s (s.badCause r.base) (r.base + i) (r.base + i)
    | none => r'
  sy c s [(c.fb != 0, illop 0x0D)] <| bad s <| c.guarded [(n < s.cons r || s.prod r < n, illop 0x0D)] <|
    .ok (c.putS (s.homeWrite (r.base + 8) (natBytes 8 n) 0) (w64 (s.prod r)))

/-- `fring` op 0. -/
def execFringCons (o : Ops) (s : State) : Out := issue 0x22 10 o fringCons s

/-- Act on a token: 1 where it names a waiting or frozen master, else 0 and no effect. -/
def onToken (c : Ctx) (s : State) (more : Token → List (Bool × (Cause × W64))) (f : State → Token → State) : Res :=
  sy c s [] <|
    match s.token? c.sA.toNat with
    | some t => c.guarded (more t) (.ok (c.putS (f s t) 1))
    | none => .ok (c.putS s 0)

/-- `fring` op 1. -/
def execFringResume (o : Ops) (s : State) : Out :=
  issue 0x22 10 o (fun c s => onToken c s (fun _ => []) fun s t => s.clearToken t.num) s

/-- `fring` op 2. -/
def execFringKill (o : Ops) (s : State) : Out := issue 0x22 10 o (fun c s => onToken c s (fun _ => []) State.killToken) s

/-- `fring` op 3. -/
def execFringQuota (o : Ops) (s : State) : Out :=
  issue 0x22 10 o (fun c s => onToken c s (fun t => [(!t.quotaOk, illop 0x0D)]) State.quotaToken) s

end Sys2Proof.Machine
end

