-- ==== Sys2Proof/Machine/Power.lean ====
section
/-! DEFINITION. Pulse patterns and dampers (20 R344, R346 to R349): SWALLOW_PATTERN_APPLY, DROOP_DETECT, STRETCH_END,
HALF_END; temperatures and failures (21 R376; 23 R403, R405): TILE_TEMPERATURE_RISE, TILE_HOT, OVER_TEMPERATURE_STOP,
TILE_FAILURE. -/
namespace Sys2Proof.Machine

/-! ## Patterns (R344) -/

/-- A pattern that was written takes effect. -/
def Cluster.applyPattern (k : Cluster) : Cluster :=
  match k.nextPattern with
  | some p => { k with pattern := p, nextPattern := none }
  | none => k

/-- It does so just before a master clock whose TIME is a multiple of 16. -/
def swallowPatternApply (s : State) (cluster : Nat) : State :=
  if (s.time + 1) % 16 = 0 then s.setCluster cluster (s.cluster cluster).applyPattern else s

/-- SWALLOW_PATTERN_APPLY. -/
def execSwallowPatternApply (cluster : Nat) (s : State) : Out := .next (swallowPatternApply s cluster)

/-! ## The damper (R347) -/

/-- State after the lead clock of a trigger. -/
def Damp.triggered (d : Damp) : DState := if d.strN != 0 then .stretch else if d.halfN != 0 then .half else .idle

/-- A trigger: clock k + 1 is normal, STRN clocks from k + 2 on are stretched; with STRN = 0 the halved window begins
there. -/
def Cluster.trigger (k : Cluster) (d : Damp) : Cluster :=
  { k with events := k.events + 1, lead := true, tail := k.state == .half && k.halfRem != 0, strRem := d.strN
           halfRem := if d.strN = 0 then d.halfN else 0, state := d.triggered }

/-- The supply was low in the last local clock: at most one sample of each clock. -/
def Cluster.low (k : Cluster) : Cluster :=
  let d := k.before.getD k.damp
  if k.clocks = 0 || k.lowAt == some k.clocks || d.level = 0 || !d.en then k
  else
    let k : Cluster := { k with lowAt := some k.clocks }
    match k.state with
    | .stretch => { k with strRem := max k.strRem (if k.lead then d.strN else d.strN + 1) }
    | _ => k.trigger d

/-- DROOP_DETECT. -/
def execDroopDetect (cluster : Nat) (s : State) : Out := .next (s.setCluster cluster (s.cluster cluster).low)

/-- After the last stretched clock the next HALFN clocks are halved; with HALFN = 0, IDLE. -/
def Cluster.stretchEnd (k : Cluster) : Cluster :=
  if k.state == .stretch && !k.lead && k.strRem = 0 then
    let n := (k.before.getD k.damp).halfN
    { k with state := if n = 0 then .idle else .half, halfRem := n, odd := false, lowAt := some k.clocks }
  else k

/-- STRETCH_END. -/
def execStretchEnd (cluster : Nat) (s : State) : Out := .next (s.setCluster cluster (s.cluster cluster).stretchEnd)

/-- After the halved window: IDLE. -/
def Cluster.halfEnd (k : Cluster) : Cluster :=
  if k.state == .half && !k.lead && k.halfRem = 0 then { k with state := .idle, odd := false, lowAt := some k.clocks } else k

/-- HALF_END. -/
def execHalfEnd (cluster : Nat) (s : State) : Out := .next (s.setCluster cluster (s.cluster cluster).halfEnd)

/-! ## Temperatures (R403, R405) -/

/-- Readings of 100 °C and 110 °C in units of 0.25 °C. -/
def hotReading : Nat := 400
def stopReading : Nat := 440

/-- A sensor's new reading. TMAX holds whole degrees; passing 100 °C and 110 °C have steps of their own. -/
def tileTemperatureRise (s : State) (tile temp : Nat) : State :=
  let t := s.tile tile
  let passes (n : Nat) : Bool := t.temp ≤ n && n < temp
  let s := s.setTile tile { t with temp := temp }
  { s with
      health := { s.health with tmax := Nat.min 255 (max s.health.tmax (temp / 4)) }
      agenda := s.agenda ++ (if passes hotReading then [.tileHot tile] else [])
        ++ (if passes stopReading then [.overTemperatureStop tile] else []) }

/-- TILE_TEMPERATURE_RISE. -/
def execTileTemperatureRise (tile temp : Nat) (s : State) : Out := .next (tileTemperatureRise s tile temp)

/-- A tile that has passed 100 °C sets HOT. -/
def tileHot (s : State) (tile : Nat) : State :=
  let t := (s.tile tile).temp
  if hotReading < t then { s with health := { s.health with hot := true, tmax := Nat.min 255 (max s.health.tmax (t / 4)) } } else s

/-- TILE_HOT. -/
def execTileHot (tile : Nat) (s : State) : Out := .next (tileHot s tile)

/-- A tile that has passed 110 °C: Aelmel stops the master clock, and every master stops where it stands. -/
def overTemperatureStop (s : State) (tile : Nat) : State :=
  if stopReading < (s.tile tile).temp then
    { s with aelmel := { s.aelmel with state := .recovery, reason := 5, clockStopped := true }, agenda := [], issueq := [] }
  else s

/-- OVER_TEMPERATURE_STOP. -/
def execOverTemperatureStop (tile : Nat) (s : State) : Out := .next (overTemperatureStop s tile)

/-! ## TILE_FAILURE (R376) -/

/-- Gangs on a physical tile. -/
def State.gangsAt (s : State) (pt : Nat) : List Gang := s.gangs.filter fun k => k.resident && (s.gangTiles k).contains pt

/-- The gangs on a tile are pre-empted where the pool has room for them (R374). -/
def State.stopTile (s : State) (pt : Nat) : State :=
  (s.gangsAt pt).foldl (fun s k => if s.poolFits k then s.askPreempt k else s) s

/-- A saved gang can be restored on no tile but the logical tile (R319, R376). -/
def State.boundTo (s : State) (w : Work) (k : Gang) (lt : Nat) : Bool :=
  (match k.state with | .saved _ => true | _ => false) && k.ltile ≤ lt && lt < k.ltile + k.ntiles && s.restoreTiles w k == [k.ltile]

/-- No spare is left: the launches with a team on the logical tile end, the entry becomes invalid, the host is asked to replace the
module. -/
def State.loseTile (s : State) (lt pt : Nat) : State :=
  let here := s.gangsAt pt ++ s.gangs.filter fun k => match s.work? k.work with | some w => s.boundTo w k lt | none => false
  let s := here.foldl (fun s k =>
    match s.gang? k.id, s.work? k.work with
    | some k, some w => if k.state == .retired then s else s.killWork w (some k)
    | _, _ => s) s
  s.invalidTile lt (s.ptileEntry lt &&& w64 (2 ^ 63 - 1))

/-- A tile has failed, with no row left, or its register file has `rows` rows left. A spare takes the place of a failed
tile once no gang stands on it (DESIGN CHOICE, log entry 28). -/
def tileFailure (s : State) (tile rows : Nat) : State :=
  if 104 * s.ndies ≤ tile || 1024 ≤ rows then s
  else if rows != 0 then
    let t := s.tile tile
    if rows < t.rows then (s.setTile tile { t with rows := rows }).stopTile tile else s
  else
    let s := s.setTile tile { s.tile tile with failed := true }
    match s.behind tile with
    | none => s.recount
    | some lt =>
      match s.sparesOf (tile / 104) with
      | [] => s.loseTile lt tile
      | sp :: _ =>
        if (s.gangsAt tile).isEmpty && !s.inExchange tile then s.swapTile lt (tileWord sp) else s.stopTile tile

/-- TILE_FAILURE. -/
def execTileFailure (tile rows : Nat) (s : State) : Out := .next (tileFailure s tile rows)

end Sys2Proof.Machine
end

