-- ==== Sys2Proof/Machine/LocalStore.lean ====
section
/-! DEFINITION. Local loads, stores and atomics LL (05 R97 to R103), copies CP (05 R104 to R114), barrier objects BA
(05 R115 to R124). -/
namespace Sys2Proof.Machine

/-! ## LL (R100 to R102) -/

/-- The local address of lane `i`, exact (R100). -/
def Ctx.llAddr (c : Ctx) (i : Nat) : Int := (c.opA i).toNat + s64 c.sB + s64 c.lit

/-- Team and offset of a local address that is valid and aligned (R97, R98). -/
def State.llPlace (s : State) (g : Group) (la : Int) (n : Nat) : Option (Nat × Nat) :=
  if 0 ≤ la && la < 2 ^ 32 && la.toNat % n = 0 then s.localAddr g la.toNat n else none

/-- The lanes with their places. -/
def Ctx.llPlaces (c : Ctx) (s : State) (n : Nat) : List (Nat × (Nat × Nat)) :=
  c.lanes.filterMap fun i => (s.llPlace c.g (c.llAddr i) n).map fun p => (i, p)

/-- A lane has no valid local address. -/
def Ctx.llBad (c : Ctx) (s : State) (n : Nat) : Bool := c.lanes.any fun i => (s.llPlace c.g (c.llAddr i) n).isNone

/-- BARBUSY of the first lane onto a valid barrier object (R116). -/
def Ctx.llBarbusy (c : Ctx) (s : State) (n : Nat) : Option (Cause × W64) :=
  (c.llPlaces s n).findSome? fun p =>
    (s.barrierHit p.2.1 p.2.2 n).map fun b => barbusy ((c.llAddr p.1).toNat / 2 ^ 20 % 4) 4 b

/-- A lane meets the range scoreboard (R114). -/
def Ctx.llScored (c : Ctx) (s : State) (n : Nat) (writesOnly : Bool) : Bool :=
  (c.llPlaces s n).any fun p => s.scoreHit p.2.1 p.2.2 n writesOnly

/-- The kiln's record of a local access in a body (R235). -/
def Ctx.llRecord (c : Ctx) (s : State) (n : Nat) (store : Bool) (data : Nat → List Byte) : State :=
  match s.inRegion c.g, s.regionOf c.g with
  | .body, some r =>
    (c.llPlaces s n).foldl (fun s p =>
      s.kilnRecord c.g.team (r.step c.g p.1)
        { addr := w64 (c.llAddr p.1).toNat, store := store, loc := true, lg := logSize n,
          data := if store then data p.1 else [], place := .loc p.2.1 p.2.2 }) s
  | _, _ => s

/-- Register `k` of a load of `n` bytes (R80, R100). -/
def loadReg (n : Nat) (signed : Bool) (v k : Nat) : W32 :=
  match n with
  | 1 => if signed then (BitVec.ofNat 8 v).signExtend 32 else BitVec.ofNat 32 (v % 2 ^ 8)
  | 2 => if signed then (BitVec.ofNat 16 v).signExtend 32 else BitVec.ofNat 32 (v % 2 ^ 16)
  | _ => BitVec.ofNat 32 (v >>> (32 * k))

/-- Registers that a load of `n` bytes writes. -/
def loadRegs (n : Nat) : Nat := if n ≤ 4 then 1 else n / 4

/-- A local load of `n` bytes; its tags are set also when no lane executes (R101). -/
def ldl (n : Nat) (signed : Bool) (c : Ctx) (s : State) : Res :=
  checked c s (c.needA intTags) [(c.llBad s n, illop 0x0D)] <|
    c.afterAcquires s <|
      if c.llScored s n true then .stall .resource
      else
        let vals := (c.llPlaces s n).map fun p => (p.1, bytesNat (s.windowRead p.2.1 p.2.2 n))
        let s := c.llRecord s n false fun _ => []
        .ok ((List.range (loadRegs n)).foldl (fun s k =>
          c.putV s k (fun i => loadReg n signed (aget vals i 0) k) c.e.xmod) s)

/-- `ldl8s`. -/
def execLdl8s (o : Ops) (s : State) : Out := issue 0x17 0 o (ldl 1 true) s

/-- `ldl8z`. -/
def execLdl8z (o : Ops) (s : State) : Out := issue 0x17 1 o (ldl 1 false) s

/-- `ldl16s`. -/
def execLdl16s (o : Ops) (s : State) : Out := issue 0x17 2 o (ldl 2 true) s

/-- `ldl16z`. -/
def execLdl16z (o : Ops) (s : State) : Out := issue 0x17 3 o (ldl 2 false) s

/-- `ldl32`. -/
def execLdl32 (o : Ops) (s : State) : Out := issue 0x17 4 o (ldl 4 false) s

/-- `ldl64`. -/
def execLdl64 (o : Ops) (s : State) : Out := issue 0x17 5 o (ldl 8 false) s

/-- `ldl128`. -/
def execLdl128 (o : Ops) (s : State) : Out := issue 0x17 6 o (ldl 16 false) s

/-- A local store of `n` bytes; in a body it is recorded only (R235). -/
def stl (n : Nat) (c : Ctx) (s : State) : Res :=
  let body := s.inRegion c.g == .body
  let data := c.storeData false n
  checked c s (c.needA intTags)
    [(c.llBad s n, illop 0x0D), optCheck (if body then none else c.llBarbusy s n)] <|
    c.afterAcquires s <|
      if body then .ok (c.llRecord s n true data)
      else if c.llScored s n false then .stall .resource
      else .ok ((c.llPlaces s n).foldl (fun s p => s.windowWrite p.2.1 p.2.2 (data p.1)) s)

/-- `stl8`. -/
def execStl8 (o : Ops) (s : State) : Out := issue 0x17 7 o (stl 1) s

/-- `stl16`. -/
def execStl16 (o : Ops) (s : State) : Out := issue 0x17 8 o (stl 2) s

/-- `stl32`. -/
def execStl32 (o : Ops) (s : State) : Out := issue 0x17 9 o (stl 4) s

/-- `stl64`. -/
def execStl64 (o : Ops) (s : State) : Out := issue 0x17 10 o (stl 8) s

/-- `stl128`. -/
def execStl128 (o : Ops) (s : State) : Out := issue 0x17 11 o (stl 16) s

/-- A local atomic: lane by lane, ascending, each old value returned (R102, R103). -/
def localAtomic (op : AOp) (tags : Ctx → List TagCheck) (tag : Ctx → BitVec 4) (c : Ctx) (s : State) : Res :=
  checked c s (c.needA intTags ++ tags c) [(c.llBad s 4, illop 0x0D), optCheck (c.llBarbusy s 4)] <|
    c.afterAcquires s <|
      if c.llScored s 4 false then .stall .resource
      else
        let (s, vals) := (c.llPlaces s 4).foldl (fun (a : State × List (Nat × W32)) p =>
          let old := w32 (bytesNat (a.1.windowRead p.2.1 p.2.2 4))
          let new := op.newInt old (c.opC p.1) (c.opDk 0 p.1)
          (a.1.windowWrite p.2.1 p.2.2 (natBytes 4 new.toNat), (p.1, old) :: a.2)) (s, [])
        .ok (c.putV s 0 (fun i => aget vals i 0) (tag c))

/-- `laadd`. -/
def execLaadd (o : Ops) (s : State) : Out := issue 0x17 12 o (localAtomic .add intOpnd fun _ => tI32) s

/-- `lamin`. -/
def execLamin (o : Ops) (s : State) : Out := issue 0x17 13 o (localAtomic .smin intOpnd fun _ => tI32) s

/-- `lamax`. -/
def execLamax (o : Ops) (s : State) : Out := issue 0x17 14 o (localAtomic .smax intOpnd fun _ => tI32) s

/-- `laexch`. -/
def execLaexch (o : Ops) (s : State) : Out := issue 0x17 15 o (localAtomic .exch anyOpnd fun c => c.tagC 0) s

/-- `lacas`. -/
def execLacas (o : Ops) (s : State) : Out := issue 0x17 16 o (localAtomic .cas anyOpnd fun c => c.tagC 0) s

/-! ## CP (R104 to R112) -/

/-- Side of a copy lane from a local address. -/
def Side.ofLocal (p : Option (Nat × Nat)) : Side := match p with | some p => .loc p.1 p.2 | none => .loc 0 0

/-- Intervals of the range scoreboard for one side, one for each tile (R113). -/
def State.intervals (s : State) (copy n : Nat) (write : Bool) (ps : List (Nat × Nat)) : List (Nat × Score) :=
  let at' (p : Nat × Nat) : Nat × Nat := match s.team? p.1 with | some t => (s.teamTile t, t.base + p.2) | none => (0, 0)
  let all := ps.map at'
  ((all.map fun q => q.1).eraseDups).map fun tile =>
    let los := (all.filter fun q => q.1 == tile).map fun q => q.2
    (tile, { copy := copy, lo := los.foldl min (los.headD 0), hi := los.foldl max 0 + n - 1, write := write })

/-- Room in the scoreboards for these entries. -/
def State.scoreRoom (s : State) (l : List (Nat × Score)) : Bool :=
  l.all fun p => (s.tile p.1).scores.length + (l.filter fun q => q.1 == p.1).length ≤ 64

/-- Enter a copy and its intervals. -/
def State.enterCopy (s : State) (cp : Copy) (l : List (Nat × Score)) : State :=
  let s := { s with copies := s.copies ++ [cp] }
  l.foldl (fun s p => s.setTile p.1 { s.tile p.1 with scores := (s.tile p.1).scores ++ [p.2] }) s

/-- Teams of the launch resident on the tile or cluster that PLACE names, the issuing team apart (R109). -/
def Ctx.receivers (c : Ctx) (s : State) : List Nat :=
  let kind := c.e.place.toNat / 1024
  let idx := c.e.place.toNat % 1024
  let names (lt : Nat) : Bool := if kind = 1 then lt == idx else lt / 8 == idx
  match s.teamOf c.g with
  | none => []
  | some t =>
    (s.teams.filter fun u => u.work == t.work && u.id != t.id && !u.retired
      && (names u.ltile || (u.pair && names (u.ltile + 1)))
      && (match s.gang? u.gang with | some { state := .saved _, .. } => false | some _ => true | none => false)).map fun u => u.id

/-- Global address of a copy lane (R105). -/
def Ctx.copyGlob (c : Ctx) (v : W32) : W64 := c.sB + sext32 v + c.lit

/-- Local side of a copy lane. -/
def Ctx.copyLoc (c : Ctx) (s : State) (v : W32) (n : Nat) : Option (Nat × Nat) := s.llPlace c.g v.toNat n

/-- A barrier address in a scalar register (R105, R119). -/
def State.barrierAt (s : State) (g : Group) (v : W64) : Option (Nat × Nat) := s.llPlace g (fld v 31 0) 16

/-- EMBREQ of the destinations of an `l2g` copy (R108): the aperture range is an ordinary range. -/
def State.copyEmbreq (s : State) (g : Group) (n : Nat) (vas : List W64) : Option (Cause × W64) :=
  match s.workOf g, s.teamOf g with
  | some w, some t =>
    if w.det != 1 || w.holds t then none
    else vas.findSome? fun va => (w.sharedHit va.toNat n).map fun r =>
      (.embreq, w64 (r + (if w.abort then 8 else 0) + max va.toNat (w.shared r).1 % 2 ^ 52 * 2 ^ 12))
  | _, _ => none

/-- `cp4`, `cp8`, `cp16`. A remote copy takes no write entry, also for a receiver on the issuing team's own tile (R113 says none for
another tile alone; DESIGN CHOICE, log entry 18). -/
def copyOp (n : Nat) (c : Ctx) (s : State) : Res :=
  let dir : Dir := match c.xm % 4 with | 0 => .g2l | 1 => .l2g | _ => .l2l
  let remote := c.e.place.toNat / 1024 != 0
  let a (i : Nat) := c.opA i
  let d (i : Nat) := c.opDk 0 i
  let locSrc := dir != .g2l
  let locDst := dir != .l2g
  let badLoc (v : W32) : Bool := (c.copyLoc s v n).isNone
  let badGlob (v : W32) : Bool := (c.copyGlob v).toNat % n != 0
  let bar := if c.fc = 0 then none else s.barrierAt c.g c.sC
  checked c s (c.needA intTags ++ c.needD intTags)
    [(remote && dir != .l2l, illop 0x0D),
     (c.lanes.any (fun i => if locSrc then badLoc (a i) else badGlob (a i)), illop 0x0D),
     (c.lanes.any (fun i => if locDst then badLoc (d i) || (remote && 2 ^ 20 ≤ (d i).toNat) else badGlob (d i)), illop 0x0D),
     (c.fc != 0 && (bar.isNone || (remote && 2 ^ 20 ≤ fld c.sC 31 0)), illop 0x0D),
     optCheck (if dir == .l2g then s.copyEmbreq c.g n (c.lanes.map fun i => c.copyGlob (d i)) else none)] <|
    if !c.anyLane then .ok s
    else
      let recvs := if remote then c.receivers s else []
      let lanes : List CopyLane := c.lanes.map fun i =>
        { lane := i
          src := if locSrc then .ofLocal (c.copyLoc s (a i) n) else .glob (c.copyGlob (a i))
          dst := if locDst then .ofLocal (c.copyLoc s (d i) n) else .glob (c.copyGlob (d i))
          recvs := recvs }
      let (id, s') := s.takeId
      let ivs := s.intervals id n false (lanes.flatMap fun l => l.src.window)
        ++ (if remote then [] else s.intervals id n true (lanes.flatMap fun l => l.dst.window))
      if !s.scoreRoom ivs then .stall .resource
      else
        let cp : Copy :=
          { id := id, grp := c.g.id, team := c.g.team, asid := c.g.asid.toNat, vmid := c.g.vmid.toNat, dir := dir, n := n,
            scope := c.e.scope.toNat, hint := c.e.hint.toNat, remote := remote,
            bar := if remote then none else bar, recvBar := if remote then bar.map (fun b => b.2) else none, lanes := lanes }
        if remote && recvs.isEmpty then .ok s else .ok (s'.enterCopy cp ivs)

/-- `cp4`. -/
def execCp4 (o : Ops) (s : State) : Out := issue 0x18 0 o (copyOp 4) s

/-- `cp8`. -/
def execCp8 (o : Ops) (s : State) : Out := issue 0x18 1 o (copyOp 8) s

/-- `cp16`. -/
def execCp16 (o : Ops) (s : State) : Out := issue 0x18 2 o (copyOp 16) s

/-- `cpseal`: closes the open batch, or is held while 16 are unfinished (R111). -/
def cpseal (c : Ctx) (s : State) : Res :=
  rlxGate c s <| c.once s <|
    let d := c.g.sref c.fd
    if 16 ≤ (s.unfinished c.g.id).length then
      .stay (c.upd s fun g => { g with hold := .batches 15 (some d) c.words, stall := none })
    else .ok (s.closeBatch c.g d)

/-- `cpseal`. -/
def execCpseal (o : Ops) (s : State) : Out := issue 0x18 3 o cpseal s

/-- `cpwait` (R112). -/
def cpwait (c : Ctx) (s : State) : Res :=
  rlxGate c s <| c.once s <|
    let n := c.sAl.toNat
    let ok : Bool := (s.unfinished c.g.id).length ≤ n || 16 ≤ n
    if c.e.nb then .ok (c.putP s c.e.nbp.toNat (if ok then c.act else 0))
    else if ok then .ok s
    else .stay (c.upd s fun g => { g with hold := .batches n none c.words, stall := none })

/-- `cpwait`. -/
def execCpwait (o : Ops) (s : State) : Out := issue 0x18 4 o cpwait s

/-- `cpmc` (R110): the sender barrier takes the bytes and acknowledgements to come. C = 0 raises ILLOP 0x0D at step 10, where a lane
executes (R104 names no trap; DESIGN CHOICE, log entry 18). -/
def cpmc (c : Ctx) (s : State) : Res :=
  let dstOff (i : Nat) : Int := (c.opDk 0 i).toNat + s64 c.lit
  let src (i : Nat) := c.copyLoc s (c.opA i) 16
  let dst (i : Nat) := s.llPlace c.g (dstOff i) 16
  let snd := s.barrierAt c.g c.sB
  let rcv := s.barrierAt c.g c.sC
  checked c s (c.needA intTags ++ c.needD intTags)
    [(c.e.place.toNat / 1024 = 0 || c.fc = 0, illop 0x0D),
     (c.lanes.any (fun i => (src i).isNone || (dst i).isNone || 2 ^ 20 ≤ dstOff i), illop 0x0D),
     (snd.isNone || rcv.isNone || 2 ^ 20 ≤ fld c.sC 31 0, illop 0x0D)] <|
    match snd, rcv with
    | some sb, some rb =>
      let recvs := c.receivers s
      let k := recvs.length
      if !c.anyLane || k = 0 then .ok s
      else
        let lanes : List CopyLane := c.lanes.map fun i =>
          { lane := i, src := .ofLocal (src i), dst := .ofLocal (dst i), recvs := recvs }
        let (id, s') := s.takeId
        let ivs := s.intervals id 16 false (lanes.flatMap fun l => l.src.window)
        if !s.scoreRoom ivs then .stall .resource
        else
          let cp : Copy :=
            { id := id, grp := c.g.id, team := c.g.team, asid := c.g.asid.toNat, vmid := c.g.vmid.toNat, dir := .l2l, n := 16,
              scope := 0, hint := 0, mc := true, bar := some sb, recvBar := some rb.2, lanes := lanes }
          let s := s'.enterCopy cp ivs
          .ok (if s.barValid sb.1 sb.2 then
              let b := s.bar sb.1 sb.2
              (s.setBar sb.1 sb.2 { b with bytes := b.bytes + 16 * lanes.length * k, acks := b.acks + k }).barTest sb.1 sb.2
            else s.setStray sb.1 sb.2)
    | _, _ => .ok s

/-- `cpmc`. -/
def execCpmc (o : Ops) (s : State) : Out := issue 0x18 5 o cpmc s

/-! ## BA (R119 to R123) -/

/-- The checks and the address of a BA instruction; `f` acts on team, offset and D of the address. -/
def onBarrier (c : Ctx) (s : State) (more : List (Bool × (Cause × W64))) (f : Nat → Nat → Nat → Res) : Res :=
  rlxGate c s <| c.once s <|
    match s.barrierAt c.g c.sA with
    | none => .ofPair (illop 0x0D)
    | some (t, off) => c.guarded more (f t off (fld c.sA 21 20))

/-- `binit` (R119, R121). -/
def binit (c : Ctx) (s : State) : Res :=
  let n := c.sBl.toNat
  onBarrier c s [(n = 0 || 65535 < n, illop 0x0D)] fun t off d =>
    let valid := s.barValid t off
    let b := s.bar t off
    let named := s.copyNames t off
    let bars := match s.team? t with | some tm => (s.tile (s.teamTile tm)).bars.length | none => 0
    c.guarded
      [(named || (valid && (b.waiters || b.bytes != 0 || b.acks != 0)), barbusy d 1 off),
       (!valid && 128 ≤ bars, barbusy d 3 off)]
      (.ok ((s.setBarriers t ((s.barriersOf t).filter (fun o => o != off) ++ [off])).setBar t off
        { phase := 0, expect := n, arrived := 0, waiters := false, stray := false, acks := 0, bytes := 0 }))

/-- `binit`. -/
def execBinit (o : Ops) (s : State) : Out := issue 0x19 0 o binit s

/-- `barrive`: a release at GANG scope, then the arrival (R119, R124). -/
def barrive (c : Ctx) (s : State) : Res :=
  onBarrier c s [] fun t off d =>
    let b := s.bar t off
    c.guarded [(!s.barValid t off, barbusy d 2 off), (b.expect ≤ b.arrived, barbusy d 5 off)] <|
      c.afterRelease s 2 (.ok ((s.setBar t off { b with arrived := b.arrived + 1 }).barTest t off))

/-- `barrive`. -/
def execBarrive (o : Ops) (s : State) : Out := issue 0x19 1 o barrive s

/-- `bexpect`. -/
def bexpect (c : Ctx) (s : State) : Res :=
  let n := c.sBl.toNat
  onBarrier c s [(n = 0 || 2 ^ 31 ≤ n, illop 0x0D)] fun t off d =>
    let b := s.bar t off
    c.guarded [(!s.barValid t off, barbusy d 2 off), ((2 ^ 31 : Int) ≤ b.bytes + n, barbusy d 5 off)]
      (.ok ((s.setBar t off { b with bytes := b.bytes + n }).barTest t off))

/-- `bexpect`. -/
def execBexpect (o : Ops) (s : State) : Out := issue 0x19 2 o bexpect s

/-- `bwait` and `btest` (R120); a true one acquires at GANG scope (R124). -/
def barrierPoll (wait : Bool) (c : Ctx) (s : State) : Res :=
  onBarrier c s [] fun t off _ =>
    let b := s.bar t off
    if !s.barValid t off then .ok (c.putP s c.fd 0)
    else if b.phase != fld c.sB 15 0 then .ok ((c.putP s c.fd c.act).acquireAt c.g 2)
    else if wait then
      .stay ((s.setBar t off { b with waiters := true }).onGroup c.g.id fun g =>
        { g with hold := .bwait t off (c.g.pref c.fd) c.act c.words, stall := none })
    else .ok (c.putP s c.fd 0)

/-- `bwait`. -/
def execBwait (o : Ops) (s : State) : Out := issue 0x19 3 o (barrierPoll true) s

/-- `btest`. -/
def execBtest (o : Ops) (s : State) : Out := issue 0x19 4 o (barrierPoll false) s

/-- `binval` (R121). -/
def binval (c : Ctx) (s : State) : Res :=
  onBarrier c s [] fun t off d =>
    c.guarded [(!s.barValid t off, barbusy d 2 off)]
      (let w := s.barWords t off
       let s := s.setBarWords t off (w.1 &&& ~~~5#64, w.2)
       let s := s.setBarriers t ((s.barriersOf t).filter fun o => o != off)
       .ok (s.releaseWaiters t off false))

/-- `binval`. -/
def execBinval (o : Ops) (s : State) : Out := issue 0x19 5 o binval s

/-- `bteam` (R123): a release at TEAM scope, then the group arrives. -/
def bteam (c : Ctx) (s : State) : Res :=
  rlxGate c s <| c.once s <|
    match s.teamOf c.g with
    | none => .ok s
    | some t =>
      c.afterRelease s 1 <|
        .stay (((s.setTeam { t with arrived := (t.arrived.filter fun i => i != c.g.id) ++ [c.g.id] }).onGroup c.g.id fun g =>
          { g with hold := .bteam c.words, stall := none }).bteamCheck t.id)

/-- `bteam`. -/
def execBteam (o : Ops) (s : State) : Out := issue 0x19 6 o bteam s

/-- `back` (R122): an acknowledgement leaves for every sender of the receiver barrier. -/
def back (c : Ctx) (s : State) : Res :=
  onBarrier c s [] fun t off d =>
    c.guarded [(!s.barValid t off, barbusy d 2 off)]
      (match s.team? t with
       | none => .ok s
       | some tm =>
         let tl := s.teamTile tm
         let mine (e : AckEntry) : Bool := e.recvTeam == t && e.recvOff == off
         let sent := ((s.tile tl).acks.filter mine).map fun (e : AckEntry) =>
           ({ team := e.sendTeam, off := e.sendOff, count := e.count } : AckMsg)
         .ok { s.setTile tl { s.tile tl with acks := (s.tile tl).acks.filter fun e => !mine e } with
                acks := s.acks ++ sent })

/-- `back`. -/
def execBack (o : Ops) (s : State) : Out := issue 0x19 7 o back s

end Sys2Proof.Machine
end

