-- ==== Sys2Proof/Machine/Shake.lean ====
section
/-! DEFINITION. SHAKE256, which 17 R324 and 23 R400 and R401 name: the sponge over Keccak-f[1600] of FIPS 202 with rate 136. -/
namespace Sys2Proof.Machine

/-- Round constants of Keccak-f[1600]. -/
def roundConstants : List W64 :=
  [0x0000000000000001, 0x0000000000008082, 0x800000000000808A, 0x8000000080008000,
   0x000000000000808B, 0x0000000080000001, 0x8000000080008081, 0x8000000000008009,
   0x000000000000008A, 0x0000000000000088, 0x0000000080008009, 0x000000008000000A]
  ++ [0x000000008000808B, 0x800000000000008B, 0x8000000000008089, 0x8000000000008003,
   0x8000000000008002, 0x8000000000000080, 0x000000000000800A, 0x800000008000000A,
   0x8000000080008081, 0x8000000000008080, 0x0000000080000001, 0x8000000080008008]

/-- Rotation of lane x + 5y. -/
def rotations : List Nat :=
  [0, 1, 62, 28, 27, 36, 44, 6, 55, 20, 3, 10, 43] ++ [25, 39, 41, 45, 15, 21, 8, 18, 2, 61, 56, 14]

/-- Lane (x, y) of a state of 25 lanes. -/
def laneAt (a : List W64) (x y : Nat) : W64 := a.getD (x % 5 + 5 * (y % 5)) 0

/-- A state from its lanes. -/
def lanesFrom (f : Nat → Nat → W64) : List W64 := (List.range 25).map fun i => f (i % 5) (i / 5)

/-- One round. -/
def keccakRound (a : List W64) (rc : W64) : List W64 :=
  let c : List W64 := (List.range 5).map fun x => (List.range 5).foldl (fun v y => v ^^^ laneAt a x y) 0
  let d (x : Nat) : W64 := c.getD ((x + 4) % 5) 0 ^^^ (c.getD ((x + 1) % 5) 0).rotateLeft 1
  let t := lanesFrom fun x y => laneAt a x y ^^^ d x
  let b := lanesFrom fun x y => (laneAt t (x + 3 * y) x).rotateLeft (rotations.getD ((x + 3 * y) % 5 + 5 * x) 0)
  let e := lanesFrom fun x y => laneAt b x y ^^^ (~~~(laneAt b (x + 1) y) &&& laneAt b (x + 2) y)
  e.mapIdx fun i v => if i = 0 then v ^^^ rc else v

/-- Keccak-f[1600]. -/
def keccakF (a : List W64) : List W64 := roundConstants.foldl keccakRound a

/-- Bytes of a block of SHAKE256. -/
def shakeRate : Nat := 136

/-- Absorb a whole block. -/
def absorb (a : List W64) (block : List Byte) : List W64 :=
  keccakF (a.mapIdx fun i v => if i < 17 then v ^^^ w64 (bytesNat ((block.drop (8 * i)).take 8)) else v)

/-- The message with the padding of SHAKE256. -/
def shakePad (m : List Byte) : List Byte :=
  let n := shakeRate - m.length % shakeRate
  if n = 1 then m ++ [0x9F] else m ++ [0x1F] ++ List.replicate (n - 2) 0 ++ [0x80]

/-- Absorb `n` blocks. -/
def absorbAll : Nat → List W64 → List Byte → List W64
  | 0, a, _ => a
  | n + 1, a, m => absorbAll n (absorb a (m.take shakeRate)) (m.drop shakeRate)

/-- The first `n` bytes, at most 136, of SHAKE256 of a message. -/
def shake256 (m : List Byte) (n : Nat) : List Byte :=
  let p := shakePad m
  let a := absorbAll (p.length / shakeRate) (List.replicate 25 0) p
  (w64sBytes (a.take 17)).take n

end Sys2Proof.Machine
end

