-- ==== Sys2Proof/Machine/Works.lean ====
section
/-! DEFINITION. The life of a launch or job from its submission to its completion (16 R286 to R289, R299 to R302;
17 R304, R307, R308, R324): DEPCTR_REGISTER, LAUNCH_READY, JOB_READY, GROUP_RETIRE, TEAM_RETIRE, LAUNCH_RETIRE,
JOB_COMPLETE, CHILD_COMPLETION. -/
namespace Sys2Proof.Machine

/-! ## DEPCTR_REGISTER (R308) -/

/-- Agent under which the command processor or dealer acts for a work. -/
def Work.agent (w : Work) : Agent := { master := .command w.die, asid := w.asid, vmid := w.vmid }

/-- Agent under which the command processor reads the block of a launch: that of the submitting context (R49, R286), and for an
entry of a command queue, which none submits, ASID 0 in VM 0 (DESIGN CHOICE, log entry 23). -/
def Work.submitter (w : Work) : Agent := { master := .command w.die, asid := w.subAsid, vmid := w.subVmid }

/-- A privileged launch runs under the ASID and VMID of its block (R289 reason 0x0B). -/
def Work.owned (w : Work) : Work :=
  if w.job || !w.privileged then w else { w with asid := fld (word w.words 0) 37 24, vmid := fld (word w.words 0) 45 38 }

/-- A step of a work waits on a token. -/
def State.workHeld (s : State) (w : Work) (t : Option Nat) : State := s.setWork { w with token := t }

/-- Register a work, whose block or card is known, at its counter's home slice. -/
def State.register (s : State) (w : Work) : Out :=
  if w.depctr = 0 then .next (s.makeReady w.id)
  else
    match s.engine w.agent (w.depctr.toNat / 8 * 8) 8 .read (.work w.id) with
    | (_, .reg) => .fault .deviceRegister
    | (s, .held t) => .next (s.workHeld w t)
    | (s, .ok ps) =>
      let pa := startOf ps
      let d := s.die w.die
      if fld (s.homeW64 pa) 31 0 = 0 then .next (s.makeReady w.id)
      else if 4096 ≤ d.watch.length then .next s
      else .next ((s.setDie w.die { d with watch := d.watch ++ [{ pa := pa, work := w.id }] }).setWork { w with state := .waiting })

/-- A submitted work is registered; of a launch from a command queue the block is read first, for its DEPCTR (R308, R394). -/
def depctrRegister (s : State) (id : Nat) : Out :=
  match s.work? id with
  | some w =>
    if w.state != .submitted || w.module != 0 || w.token.isSome then .next s
    else if w.words.isEmpty then
      match s.engine w.submitter w.addr.toNat 256 .read (.work w.id) with
      | (_, .reg) => .fault .deviceRegister
      | (s, .held t) => .next (s.workHeld w t)
      | (s, .ok ps) =>
        let w := ({ w with words := bytesW64s 32 (s.readAll ps) } : Work).owned
        (s.setWork w).register w
    else
      let w := w.owned
      (s.setWork w).register w
  | none => .next s

/-- DEPCTR_REGISTER. -/
def execDepctrRegister (work : Nat) (s : State) : Out := depctrRegister s work

/-! ## LAUNCH_READY (R289, R324) -/

/-- S + E + M of an nf word lies in 1 to 8. -/
def nfBad (v : BitVec 16) : Bool :=
  let n := (NFmt.ofWord v).width
  n = 0 || 8 < n

/-- A role entry that breaks R288. -/
def roleBad (pc cfg : W64) : Bool :=
  if fld cfg 7 0 = 0 then pc != 0 || cfg != 0
  else 16 < fld cfg 7 0 || fld cfg 15 8 < 15 || fld cfg 63 16 != 0 || fld pc 63 52 != 0 || fld pc 1 0 != 0

/-- The three role entries of a block: entry PC and configuration. -/
def Work.roleEntries (w : Work) : List (W64 × W64) := [(word w.words 6, word w.words 7), (word w.words 8, word w.words 9), (word w.words 10, word w.words 11)]

/-- An address with bits [63:52] or [1:0] set. -/
def badAddr (v : W64) : Bool := fld v 63 52 != 0 || fld v 1 0 != 0

/-- Reason 0x08. -/
def Work.detBad (w : Work) : Bool :=
  let rs := (List.range 4).map w.shared
  match w.det with
  | 0 => rs.any fun r => r.1 != 0 || r.2 != 0
  | 1 => w.gangt != 1 || w.tspan || rs.any fun r => r.1 % 128 != 0 || r.2 % 128 != 0 || 2 ^ 52 ≤ r.1 || 2 ^ 52 < r.1 + r.2
  | _ => true

/-- Local bytes, panels or accumulators out of range. -/
def Work.storeBad (w : Work) : Bool := w.localBytes % 128 != 0 || 786432 < w.localBytes || 8 < w.panels || 4 < w.accs

/-- The checks of R289 in order: reason and failure. -/
def State.launchChecks (s : State) (w : Work) : List (Nat × Bool) :=
  let ctl := word w.words 0
  let n := w.teamsN
  [(0x01, w.wsel = 3 || fld ctl 3 2 = 3),
   (0x02, n = 0 || 2 ^ 24 < n || n % w.gangt != 0),
   (0x03, w.storeBad),
   (0x04, fld (word w.words 3) 15 10 != 0 || 5 ≤ fld (word w.words 3) 2 0 || 2 ≤ fld (word w.words 3) 7 6),
   (0x05, w.nf.any nfBad),
   (0x06, w.roleEntries.any (fun r => roleBad r.1 r.2) || w.groupNeeds.isEmpty || 16 < w.groupNeeds.length),
   (0x07, badAddr w.tvec || badAddr w.spill),
   (0x08, w.detBad)]
  ++ [(0x09, fld ctl 63 48 != 0 || fld ctl 15 10 != 0 || bit ctl 7 || fld (word w.words 1) 63 48 != 0
        || fld (word w.words 2) 63 27 != 0 || fld (word w.words 3) 63 16 != 0 || (w.words.drop 28).any fun v => v != 0),
   (0x0A, !fitsEmpty w.needs),
   (0x0B, !w.privileged && (fld ctl 37 24 != w.asid || fld ctl 45 38 != w.vmid)),
   (0x0C, 8 < gangTilesOf w.gangt w.tspan || (w.aff = 2 && s.ndies = 1))]

/-- The first check that fails. -/
def firstReason (l : List (Nat × Bool)) : Option Nat := (l.find? fun p => p.2).map fun p => p.1

/-- The 64 bytes from which SIG is hashed (R324). -/
def State.sigBytes (s : State) (w : Work) : List Byte :=
  natBytes 2 (word w.words 3).toNat ++ w64sBytes ((w.words.drop 4).take 2)
    ++ natBytes 1 w.wsel ++ natBytes 1 (fld (word w.words 0) 4 2 * 4)
    ++ natBytes 6 (word w.words 1).toNat ++ natBytes 2 s.tileCount ++ natBytes 1 w.det ++ List.replicate 3 0
    ++ w64sBytes ((w.words.drop 24).take 4)

/-- A launch that is ready takes its number where it has none (R285), and its handle of the command queue with it. -/
def State.nameLaunch (s : State) (w : Work) : State × Work :=
  if w.named then (s, w)
  else
    let n := s.launchid.toNat
    ({ s with launchid := s.launchid + 1 }, { w with num := n, named := true, handle := if w.cq.isSome then n else w.handle })

/-- A launch that is ready, and read, is checked: it is rejected, or runs with its SIG and its C (R319). -/
def State.startLaunch (s : State) (w : Work) : State :=
  let (s, w) := s.nameLaunch w
  match firstReason (s.launchChecks w) with
  | some r => s.setWork { w with state := .rejected, reason := r }
  | none => s.setWork { w with state := .running, c := s.tileCount, sig := w64 (bytesNat (shake256 (s.sigBytes w) 8)) }

/-- A launch that became ready: its block is read now, under the ASID of the context that submitted it (R286). One without a
counter was ready as it was submitted, and has been read. -/
def launchReady (s : State) (id : Nat) : Out :=
  match s.work? id with
  | some w =>
    if w.job || w.state != .ready || w.reported || w.token.isSome then .next s
    else if w.depctr = 0 then .next (s.startLaunch w)
    else
      match s.engine w.submitter w.addr.toNat 256 .read (.work w.id) with
      | (_, .reg) => .fault .deviceRegister
      | (s, .held t) => .next (s.workHeld w t)
      | (s, .ok ps) => .next (s.startLaunch ({ w with words := bytesW64s 32 (s.readAll ps) } : Work).owned)
  | none => .next s

/-- LAUNCH_READY. -/
def execLaunchReady (work : Nat) (s : State) : Out := launchReady s work

/-! ## JOB_READY (R304) -/

/-- The checks of R304 in order. -/
def Work.jobChecks (w : Work) : List (Nat × Bool) :=
  let tmpl := word w.words 1
  let args := word w.words 3
  let deal := word w.words 4
  let rsize := fld args 47 32
  [(0x01, w.wsel = 3),
   (0x02, fld args 31 0 = 0 || rsize = 0 || rsize % 8 != 0 || 4096 < rsize),
   (0x03, w.storeBad),
   (0x06, fld tmpl 13 6 < 15 || badAddr (word w.words 0)),
   (0x07, w.spill = 0 || fld w.spill 11 0 != 0 || fld w.spill 63 52 != 0),
   (0x09, fld tmpl 63 41 != 0 || fld args 63 48 != 0 || fld deal 63 42 != 0),
   (0x0A, !fitsEmpty w.needs),
   (0x0B, !w.privileged && (w.tenant != w.subTenant || decide (w.prio < w.subPrio)))]

/-- A job that became ready is checked. -/
def jobReady (s : State) (id : Nat) : State :=
  match s.work? id with
  | some w =>
    if !w.job || w.state != .ready then s
    else
      match firstReason w.jobChecks with
      | some r => s.setWork { w with state := .rejected, reason := r }
      | none => s.setWork { w with state := .running }
  | none => s

/-- JOB_READY. -/
def execJobReady (work : Nat) (s : State) : Out := .next (jobReady s work)

/-! ## GROUP_RETIRE and TEAM_RETIRE (R299) -/

/-- A group whose lanes have all exited and whose completion flags are clear retires: its registers are free for others
(`State.files`) and keep their values, and a copy of it that waits for a handler waits no longer. -/
def groupRetire (s : State) (grp : Nat) : State :=
  match s.group? grp with
  | some g =>
    if g.core.isSome || g.retired || g.running != 0 || g.pend.isSome || g.frozen.isSome || g.cf.any fun n => n != 0 then s
    else
      (s.onGroup grp fun g => { g with retired := true, clause := none, stall := none, due := [], hold := .none }).retryCopies grp
  | none => s

/-- GROUP_RETIRE. -/
def execGroupRetire (grp : Nat) (s : State) : Out := .next (groupRetire s grp)

/-- A copy in flight is of the team, is to be delivered to it, or reads or writes its window. -/
def State.copiesAt (s : State) (t : Team) : Bool :=
  s.copies.any fun c => c.team == t.id || c.lanes.any fun l =>
    l.recvs.contains t.id || (l.src.window ++ l.dst.window).any fun p => p.1 == t.id

/-- A visit of the ember to the team ends with it (R320). -/
def Work.teamGone (w : Work) (t : Team) : Work :=
  let w : Work := { w with gone := w.gone ++ [t.l] }
  if w.visiting && w.holder == t.l then { w with visiting := false, holder := w.holder + 1 } else w

/-- A team retires. -/
def teamRetire (s : State) (team : Nat) : State :=
  match s.team? team with
  | some t =>
    let resident := match s.gang? t.gang with | some k => k.resident | none => false
    if t.retired || !resident || !(t.grps.filterMap s.group?).all (fun g => g.retired) || s.copiesAt t then s
    else
      let s := s.releaseTeam t
      let s := match s.work? t.work with
        | some w => s.setWork (if w.job then { w with out := w.out - 1 } else if w.det = 1 then w.teamGone t else w)
        | none => s
      s.gangCheck t.gang
  | none => s

/-- TEAM_RETIRE. -/
def execTeamRetire (team : Nat) (s : State) : Out := .next (teamRetire s team)

/-! ## LAUNCH_RETIRE, JOB_COMPLETE, CHILD_COMPLETION (R301, R302, R307) -/

/-- CODE and REASON of the completion record (R302). -/
def Work.doneWord (w : Work) : W64 :=
  match w.state with
  | .rejected => w64 (1 + w.reason * 256)
  | .killed => 3
  | _ => if w.abort then 2 else 0

/-- Stores of the work's groups on their way. -/
def State.workBusy (s : State) (w : Work) : Bool :=
  let mine (grp : Nat) : Bool := match (s.group? grp).bind s.workOf with | some v => v.id == w.id | none => false
  s.tiles.any fun p => p.2.path.any fun e => mine e.grp

/-- The record of a DONE that breaks its rules. -/
def Work.doneNotice (w : Work) : FaultRec :=
  { va := w.done.toNat % 2 ^ 52, ipa := 0, asid := w.asid, vmid := w.vmid, cause := 0x32, walk := 0, master := 7, token := 0,
    bytes := 0, hyper := false }

/-- What writing the completion record comes to. -/
inductive DoneRes where
  | done (s : State)
  | waits (s : State)
  | reg

/-- Steps 1 and 2 of R301. -/
def State.writeDone (s : State) (w : Work) : DoneRes :=
  let s := s.dieNums.foldl (fun s d => s.flushGathers d fun g => g.works.contains w.id) s
  if w.done = 0 then .done s
  else if fld w.done 3 0 != 0 || fld w.done 63 52 != 0 then
    match s.postNotice w.doneNotice with
    | some s => .done s
    | none => .waits s
  else
    match s.engine w.agent w.done.toNat 16 .atomic (.work w.id) with
    | (_, .reg) => .reg
    | (s, .held t) => .waits (s.workHeld w t)
    | (s, .ok ps) =>
      let pa := startOf ps
      .done ((s.homeWrite (pa + 8) (natBytes 8 w.doneWord.toNat) 0).counterDec pa 0)

/-- A work leaves the tables with what it held; its command-queue entry is complete. -/
def State.removeWork (s : State) (w : Work) : State :=
  let ts := (s.teams.filter fun t => t.work == w.id).map fun t => t.id
  ({ s with
      works := s.works.filter fun v => v.id != w.id
      groups := s.groups.filter fun g => g.core.isSome || !ts.contains g.team
      teams := s.teams.filter fun t => t.work != w.id
      gangs := s.gangs.filter fun k => k.work != w.id
      dies := s.dies.map fun p => (p.1, { p.2 with watch := p.2.watch.filter fun v => v.work != w.id }) } : State).cqDone w.cq

/-- Retirement or completion: the record, then the report; a child stays until its completion reaches the parent. -/
def State.complete (s : State) (w : Work) : Out :=
  match s.writeDone w with
  | .reg => .fault .deviceRegister
  | .waits s => .next s
  | .done s =>
    match w.parent with
    | none => .next (s.removeWork w)
    | some _ => .next ((s.setWork { w with reported := true }).cqDone w.cq)

/-- No gang of a launch is left, and none is still to be placed. -/
def State.launchOver (s : State) (w : Work) : Bool :=
  match w.state with
  | .rejected => true
  | .killed => true
  | .running => (w.abort || w.teamsN ≤ w.nextGang * w.gangt) && (s.gangsOf w.id).isEmpty
  | _ => false

/-- A launch whose gangs have all retired retires. -/
def launchRetire (s : State) (id : Nat) : Out :=
  match s.work? id with
  | some w => if w.job || w.reported || w.token.isSome || !s.launchOver w || s.workBusy w then .next s else s.complete w
  | none => .next s

/-- LAUNCH_RETIRE. -/
def execLaunchRetire (work : Nat) (s : State) : Out := launchRetire s work

/-- A job that is dealt, rejected or ended, with OUT at 0, completes. -/
def jobComplete (s : State) (id : Nat) : Out :=
  match s.work? id with
  | some w =>
    let ended := w.state == .dealt || w.state == .rejected || w.state == .killed
    if !w.job || w.module != 0 || w.reported || !ended || w.out != 0 || w.token.isSome || s.workBusy w then .next s else s.complete w
  | none => .next s

/-- JOB_COMPLETE. -/
def execJobComplete (work : Nat) (s : State) : Out := jobComplete s work

/-- The completion of a child, here or on a peer, reaches its parent's dealer. -/
def childCompletion (s : State) (id : Nat) : State :=
  match s.work? id with
  | some w => if w.reported || w.module != 0 then (s.addOut w.parent false).removeWork w else s
  | none => s

/-- CHILD_COMPLETION. -/
def execChildCompletion (work : Nat) (s : State) : Out := .next (childCompletion s work)

end Sys2Proof.Machine
end

