-- ==== Sys2Proof/Machine/Rotation.lean ====
section
/-! DEFINITION. Turns (18 R327 to R337): TURN_START, TURN_ABANDON, TURN_EXCHANGE_END. -/
namespace Sys2Proof.Machine

/-! ## Turn units (R329) -/

/-- An aligned block of physical tiles: its first tile and its size. -/
structure Block where
  first : Nat
  size : Nat
deriving DecidableEq, Repr

/-- Tiles of a block. -/
def Block.tiles (b : Block) : List Nat := (List.range b.size).map fun i => b.first + i

/-- Two blocks share a tile. -/
def Block.overlaps (b c : Block) : Bool := b.first < c.first + c.size && c.first < b.first + b.size

/-- The blocks of a pair. -/
def TurnPair.blocks (p : TurnPair) : List Block := [{ first := p.hot, size := p.size }, { first := p.cool, size := p.size }]

/-- The aligned block of a size around a tile; blocks are aligned within the tiles of a die. -/
def blockAround (pt size : Nat) : Block := { first := pt / 104 * 104 + pt % 104 / size * size, size := size }

/-- Gangs that stand on a block. -/
def State.gangsIn (s : State) (b : Block) : List Gang :=
  s.gangs.filter fun k => k.resident && (s.gangTiles k).any fun t => b.first ≤ t && t < b.first + b.size

/-- A block is a turn unit: every gang on it lies wholly within it. -/
def State.isUnit (s : State) (b : Block) : Bool :=
  (s.gangsIn b).all fun k => (s.gangTiles k).all fun t => b.first ≤ t && t < b.first + b.size

/-- The smallest unit of an occupied tile. -/
def State.smallestUnit (s : State) (pt : Nat) : Option Block := ([1, 2, 4, 8].map fun n => blockAround pt n).find? s.isUnit

/-- Occupied smallest units of a die. -/
def State.occupied (s : State) (die : Nat) : List Block :=
  (((List.range 104).map fun i => 104 * die + i).filterMap fun pt =>
    if (s.gangsIn { first := pt, size := 1 }).isEmpty then none else s.smallestUnit pt).eraseDups

/-- Temperature of a block: the highest reading. -/
def State.blockTemp (s : State) (b : Block) : Nat := (b.tiles.map fun t => (s.tile t).temp).foldl max 0

/-- Every tile of the block stands behind a logical tile and has not failed (DESIGN CHOICE, log entry 19). -/
def State.sound (s : State) (b : Block) : Bool := b.tiles.all fun t => (s.behind t).isSome && !(s.tile t).failed

/-- The block takes part in no exchange, and every gang on it runs. -/
def State.pairable (s : State) (b : Block) : Bool :=
  !((s.die (b.first / 104)).pairs.any fun p => p.blocks.any b.overlaps) && (s.gangsIn b).all fun k => k.state == .running

/-! ## Pairing (R330) -/

/-- Registers that the groups on a tile hold in each quarter of each sequencer. -/
def State.heldFiles (s : State) (pt : Nat) : List Nat :=
  ((s.files pt).free.flatMap id).map fun v => (s.tile pt).rows - v

/-- The allocations on a tile fit the register files of another. -/
def State.filesFit (s : State) (a b : Nat) : Bool := (s.heldFiles a).all fun v => v ≤ (s.tile b).rows

/-- Every register file of each of two units can hold every allocation of the other's groups. -/
def State.exchangeable (s : State) (h c : Block) : Bool :=
  h.tiles.all fun a => c.tiles.all fun b => s.filesFit a b && s.filesFit b a

/-- Candidates for a unit: units of its size on its die; a free one has no spare or failed tile (R329). -/
def State.candidates (s : State) (h : Block) : List Block :=
  let die := h.first / 104
  ((List.range (104 / h.size)).map fun i => ({ first := 104 * die + i * h.size, size := h.size } : Block)).filter fun c =>
    !c.overlaps h && s.isUnit c && (!(s.gangsIn c).isEmpty || s.sound c) && s.pairable c && s.exchangeable h c

/-- The coolest block; ties by lowest tile. -/
def State.coolest (s : State) : List Block → Option Block
  | [] => none
  | b :: t => match s.coolest t with
    | some c => if s.blockTemp c < s.blockTemp b then some c else some b
    | none => some b

/-- Insert by temperature descending, equal ones by lowest tile. -/
def State.insertHot (s : State) (b : Block) : List Block → List Block
  | [] => [b]
  | c :: t =>
    if s.blockTemp b < s.blockTemp c || (s.blockTemp b == s.blockTemp c && c.first < b.first) then c :: s.insertHot b t
    else b :: c :: t

/-- The units by temperature descending, equal ones by lowest tile. -/
def State.hotOrder (s : State) (l : List Block) : List Block := l.foldr s.insertHot []

/-- Pair two units and request the stop of their gangs (R331). -/
def State.pairUp (s : State) (h c : Block) : State :=
  let die := h.first / 104
  let ks := s.gangsIn h ++ s.gangsIn c
  let d := s.die die
  let s := s.setDie die { d with pairs := d.pairs ++ [{ hot := h.first, cool := c.first, size := h.size, since := s.time }] }
  ks.foldl (fun s k => s.requestStop k true) s

/-- Lines 3 to 9 of R330. -/
def State.pairAll (s : State) (die : Nat) : List Block → State
  | [] => s
  | h :: t =>
    let d := s.die die
    if d.maxPairs ≤ d.pairs.length then s
    else if !s.pairable h then s.pairAll die t
    else match s.coolest (s.candidates h) with
      | some c => (if d.hyst + s.blockTemp c ≤ s.blockTemp h then s.pairUp h c else s).pairAll die t
      | none => s.pairAll die t

/-- A turn begins at a multiple of the period (R328). -/
def turnStart (s : State) (die : Nat) : State :=
  if s.time % 2 ^ (s.die die).exp = 0 && !s.ckpt.busy then s.pairAll die (s.hotOrder (s.occupied die)) else s

/-- TURN_START. -/
def execTurnStart (die : Nat) (s : State) : Out := .next (turnStart s die)

/-! ## TURN_ABANDON (R332) -/

/-- Gangs of a pair. -/
def State.pairGangs (s : State) (p : TurnPair) : List Gang := p.blocks.flatMap s.gangsIn

/-- A group waits on a kernel fault or is frozen. -/
def State.groupFaults (s : State) (g : Group) : Bool :=
  g.frozen.isSome || !s.stallOver g || s.log.any fun e => e.grp == g.id && (match e.state with | .waiting _ => true | _ => false)

/-- A group waits on a kernel fault, a freeze of it apart (R248, R332, R358). -/
def State.groupWaits (s : State) (g : Group) : Bool :=
  let waits (n : Nat) : Bool := (s.token? n).isSome && !s.freezeToken n
  (match g.stall with | some (.token n) => waits n | _ => false)
    || s.log.any fun e => e.grp == g.id && (match e.state with | .waiting n => waits n | _ => false)

/-- A group of the gang waits on a kernel fault or is frozen, or its copy's master is; a copy that a fault suspends travels
(R332, R334). -/
def State.gangFaults (s : State) (k : Gang) : Bool :=
  (s.gangGroups k).any s.groupFaults || s.copies.any fun c => k.teams.contains c.team && s.copyFrozen c

/-- A lane of a copy, from wherever, is half delivered to a team of the pair (R335). -/
def State.pairTakes (s : State) (p : TurnPair) (c : Copy) : Bool :=
  let here (r : Nat) : Bool := (s.pairGangs p).any fun k => k.teams.contains r
  c.lanes.any fun l => l.recvs.any fun r => c.begun l r && here r

/-- Both units have stopped: their gangs are quiet, every store of their tiles is performed, and no line is half delivered to them. -/
def State.pairQuiet (s : State) (p : TurnPair) : Bool :=
  (s.pairGangs p).all s.gangQuiet && (p.blocks.flatMap Block.tiles).all (fun t => (s.tile t).path.isEmpty)
    && !s.copies.any (s.pairTakes p)

/-- A gang runs again after a turn; a pre-emption that was requested meanwhile begins (R333). -/
def State.endTurn (s : State) (k : Gang) : State :=
  let k' : Gang := { k with state := .running, preempt := false }
  let s := (s.setGang k').releaseStops k'
  if k.preempt then s.stopSince k' false k.stopAt else s

/-- The gangs of a pair run again, and the pair is over. -/
def State.endPair (s : State) (die n : Nat) (p : TurnPair) : State :=
  let ks := s.pairGangs p
  let d := s.die die
  let s := s.setDie die { d with pairs := d.pairs.eraseIdx n }
  ks.foldl State.endTurn s

/-- A pair is abandoned where a fault is waited on, or 49,152 master clocks after the request. -/
def turnAbandon (s : State) (die n : Nat) : State :=
  match (s.die die).pairs[n]? with
  | some p =>
    if (s.pairGangs p).any s.gangFaults || (p.since + 49152 ≤ s.time && !s.pairQuiet p) then s.endPair die n p else s
  | none => s

/-- TURN_ABANDON. -/
def execTurnAbandon (die n : Nat) (s : State) : Out := .next (turnAbandon s die n)

/-! ## TURN_EXCHANGE_END (R333, R334, R337) -/

/-- What moves between two physical tiles; the caches are dropped. -/
def State.swapContents (s : State) (a b : Nat) : State :=
  let ta := s.tile a
  let tb := s.tile b
  (s.setTile a { ta with cache := [], store := tb.store, bars := tb.bars, acks := tb.acks, scores := tb.scores }).setTile b
    { tb with cache := [], store := ta.store, bars := ta.bars, acks := ta.acks, scores := ta.scores }

/-- The logical tiles that stand at two physical tiles change places (R337). -/
def State.swapEntries (s : State) (a b : Nat) : State :=
  let move (l : List (Nat × W64)) (lt : Option Nat) (pt : Nat) : List (Nat × W64) :=
    match lt with | some i => aset l i (tileWord pt) | none => l
  { s with ptiles := move (move s.ptiles (s.behind a) b) (s.behind b) a }

/-- The exchange of a pair ends. -/
def turnExchangeEnd (s : State) (die n : Nat) : State :=
  match (s.die die).pairs[n]? with
  | some p =>
    if !s.pairQuiet p || (s.pairGangs p).any s.gangFaults then s
    else
      let ids := ((s.pairGangs p).flatMap s.gangGroups).map fun g => g.id
      let s := (List.range p.size).foldl (fun s i => (s.swapContents (p.hot + i) (p.cool + i)).swapEntries (p.hot + i) (p.cool + i)) s
      (s.relog ids).endPair die n p
  | none => s

/-- TURN_EXCHANGE_END. -/
def execTurnExchangeEnd (die n : Nat) (s : State) : Out := .next (turnExchangeEnd s die n)

end Sys2Proof.Machine
end

