-- ==== Sys2Proof/Machine/Run.lean ====
section
/-! DEFINITION. What one step of the machine takes up: a decided event, the turn of a context that was chosen to
issue, or what the free schedule picks next (DESIGN CHOICE, log entry 5). `ex` is the meaning of instructions and events. -/
namespace Sys2Proof.Machine

/-- Fields of words that decode to nothing. -/
def blankOps : Ops := { fs := false, b := 0, a := 0, d := 0, ext := none, lit := none }

/-- What a context does when a fetch at its boundary fails (R45, R369, R370). -/
def boundaryFetch (g : Group) (addr : W64) (f : FRes) (s : State) : Out :=
  (s.ctx 0x3F 0 blankOps g { header := addr, next := addr, cnt := 1, seta := 15, setb := 15, lanes := 0 }).settle s
    (fetchRes addr f s)

/-- A context at a clause boundary: the header at its issue address is fetched and acted on; a stop or a trap
that is due comes before the fetch. -/
def runBoundary (ex : Instr → State → Out) (g : Group) (s : State) : Out :=
  let blank : Header := { cnt := 0, setb := 15, seta := 15, wait := 0 }
  match g.boundary with
  | (_, none) => ex (.clauseBoundary blank) s
  | (g', some (addr, set)) =>
    if s.stopsHere g' || (s.boundaryDue g').isSome then ex (.clauseBoundary blank) s
    else
      match s.fetchWord g' addr with
      | (s, .ok w) =>
        match headerBad w with
        | some r => .next ((s.setGroup g').raise g.id (boundaryTrap addr set (illop r)))
        | none => ex (.clauseBoundary (decodeHeader w)) s
      | (s, f) => boundaryFetch g' addr f (s.setGroup g')

/-- The reason of an ILLOP for words that the decoder rejects (R43 step 2, R44). -/
def rejectReason : Reject → Nat
  | .reservedMajor => 0x01
  | .reservedMinor => 0x02
  | .truncated => 0x02
  | .badHeader => 0x05

/-! ## Arbitration (R295, R296, R345) -/

/-- The lane quarters of a tile group: tile, sequencer, quarter. -/
def State.quartersOf (s : State) (g : Group) : List (Nat × Nat × Nat) :=
  match s.groupTile g with
  | some t => (List.range (g.width / 16)).map fun i => (t, g.seqr % 4, g.quarter + i)
  | none => []

/-- A quarter of the group has issued in this clock. -/
def State.quartersTaken (s : State) (g : Group) : Bool := (s.quartersOf g).any fun q => s.used.contains q

/-- The partition's budget holds an issue of so many lanes; never the first of its cluster in a clock. -/
def State.slewHolds (s : State) (g : Group) (lanes : Nat) : Bool :=
  match s.groupTile g with
  | some t =>
    let k := clusterOf t
    let p := s.partn (s.cluster k).part
    p.rise != 0xFFFF && s.used.any (fun q => clusterOf q.1 == k) && decide (p.last + p.rise < p.now + lanes)
  | none => false

/-- A group of a tile issues: its quarters are used in this clock, and its lanes count for its partition. -/
def State.spend (s : State) (g : Group) (lanes : Nat) : State :=
  match s.groupTile g with
  | some t =>
    let n := (s.cluster (clusterOf t)).part
    let p := s.partn n
    ({ s with used := s.used ++ s.quartersOf g } : State).setPartn n { p with now := p.now + lanes }
  | none => s

/-- A group that was not ready becomes ready in a later clock. -/
def State.ageLater (s : State) (g : Group) : State :=
  if g.core.isSome then s else s.onGroup g.id fun h => { h with age := s.time + 1 }

/-- The attempt has issued its instruction. -/
def State.hasIssued (s : State) (id : Nat) : Bool :=
  match s.group? id with | some g => g.stall.isNone && g.frozen.isNone | none => true

/-- The group was not ready: the attempt has met an interlock or a stall, and has had no effect (R295). -/
def State.unready (s : State) (id : Nat) : Bool :=
  match s.group? id with
  | some g => g.frozen.isNone && (match g.stall with | some (.token _) => false | some _ => true | none => false)
  | none => false

/-- A group that is ready and does not issue: it has lost the clock's arbitration where one of its quarters is taken, but in a muted
clock, or held by its partition's budget, it has lost none (R295, R345, R349); `none`: it issues. -/
def State.passedOver (s : State) (g : Group) (lanes : Nat) : Option State :=
  let muted : Bool := match s.groupTile g with | some t => s.muted.contains (clusterOf t) | none => false
  if muted then some s
  else if s.quartersTaken g then some (s.onGroup g.id fun h => { h with lost := h.lost + 1 })
  else if s.slewHolds g lanes then some s
  else none

/-- The attempt of a group: it was not ready, and takes a later age, or is passed over, or issues. -/
def State.arbitrate (s : State) (g : Group) (lanes : Nat) (r : Out) : Out :=
  if g.core.isSome then r
  else match r, s.passedOver g lanes with
    | .next t, some u => .next (if t.unready g.id then t.ageLater g else u)
    | _, some u => .next u
    | .next t, none => .next (if t.hasIssued g.id then (t.spend g lanes).ageLater g else t.ageLater g)
    | r, none => r

/-- Lanes that execute the instruction of these words. -/
def State.lanesFor (s : State) (g : Group) (cl : Clause) (ws : List W32) : Nat :=
  match ws with
  | [] => 0
  | w :: t =>
    match decodeOps w t with
    | some o => countMask g.width (s.ctx (majOf w) (minOf w) o g cl).act
    | none => 0

/-- The group was not ready in this clock. -/
def ageAfter (g : Group) (r : Out) : Out :=
  match r with
  | .next t => .next (t.ageLater g)
  | r => r

/-- A context inside a clause: its next instruction is fetched, decoded and executed (R45, R43 steps 1 and 2). One whose instruction is
not known is not ready (R295). -/
noncomputable def runClause (ex : Instr → State → Out) (g : Group) (cl : Clause) (s : State) : Out :=
  let c := s.ctx 0x3F 0 blankOps g cl
  match s.fetchInstr g cl.next with
  | (s, .error f) => ageAfter g (c.settle s (fetchRes cl.next f s))
  | (s, .ok ws) =>
    match decode ws with
    | .error r => s.arbitrate g 0 (c.settle s (.ofPair (illop (rejectReason r))))
    | .ok (i, _) =>
      s.arbitrate g (s.lanesFor g cl ws) (ex i s)

/-- A group that opened its clause goes on to its first instruction in the same clock: a header takes no issue (R295). -/
def afterHeader (id : Nat) (r : Out) : Out :=
  match r with
  | .next t =>
    match t.group? id with
    | some g => .next (if g.clause.isSome && t.mayIssue g then { t with issueq := id :: t.issueq } else t.ageLater g)
    | none => .next t
  | r => r

/-- A group that is to stop stands between two instructions of a `seq` body (R331). -/
def State.stopsInSeq (s : State) (g : Group) (cl : Clause) : Bool :=
  s.stopsHere g && match cl.seq with | some q => cl.pos != q.bodyPos || q.pass != 0 | none => false

/-- The turn of a context that was chosen to issue. -/
noncomputable def runContext (ex : Instr → State → Out) (id : Nat) (s : State) : Out :=
  let s := { s with issueq := s.issueq.drop 1, cur := id }
  match s.group? id with
  | none => .next s
  | some g =>
    if !s.mayIssue g then .next (s.ageLater g)
    else match g.clause with
      | none => afterHeader id (runBoundary ex g s)
      | some cl =>
        if s.stopsInSeq g cl then .next (s.stopGroup g)
        else runClause ex g cl s

/-- The events that Aelmel and the host interface answer while the dies are held (R399, R400). -/
def answersHeld : Instr → Bool
  | .moduleReset => true
  | .aelmelVerify => true
  | .aelmelBoot => true
  | .aelcmdVerifyBoot => true
  | .aelcmdAttest => true
  | .recbufWrite _ _ => true
  | .hostRead _ _ => true
  | .hostWrite _ _ => true
  | _ => false

/-- Events that come about at moments the spec fixes: only the agenda runs them (DESIGN CHOICE, log entry 5). -/
def timed : Instr → Bool
  | .deficitCharge _ => true
  | .turnStart _ => true
  | .ckptErrClear => true
  | .ckptGo => true
  | .tileHot _ => true
  | .overTemperatureStop _ => true
  | .issueArbitration => true
  | .clauseBoundary _ => true
  | _ => false

/-- The tile's cluster has a local clock in this master clock. -/
def State.tileTicks (s : State) (pt : Nat) : Bool := (s.cluster (clusterOf pt)).last == s.time && s.time != 0

/-- The tile of a log entry's group has one; that of a core has no cluster. -/
def State.entryTicks (s : State) (id : Nat) : Bool :=
  match (s.entry? id).bind fun e => s.group? e.grp with
  | some g => match s.groupTile g with | some t => s.tileTicks t | none => true
  | none => true

/-- The tile of a group has one. -/
def State.groupTicks (s : State) (id : Nat) : Bool :=
  match (s.group? id).bind s.groupTile with | some t => s.tileTicks t | none => true

/-- The tile on which a team stands has one; a team that is saved, or has retired, needs none. -/
def State.teamTicks (s : State) (id : Nat) : Bool :=
  match s.team? id with
  | some t =>
    t.retired || (match s.gang? t.gang with | some { state := .saved _, .. } => true | _ => s.tileTicks (s.teamTile t))
  | none => true

/-- The tile of the team whose visit of the ember is next has one (R322). -/
def State.emberTicks (s : State) (work : Nat) : Bool :=
  match (s.work? work).bind fun w => w.emberDue.2 with
  | some l => s.teams.all fun t => t.work != work || t.l != l || s.teamTicks t.id
  | none => true

/-- The tile has one at which a lane of a copy is read, or is written once it has been read: that of the window, else the engine's. The
returns of deliveries reach the sender's. -/
def State.copyTicks (s : State) (id lane : Nat) : Bool :=
  match s.copy? id with
  | some c =>
    match (c.lanes.find? fun l => l.lane == lane && !((c.remote || c.mc) && l.data.isSome)).bind fun l => ((if l.data.isSome then l.dst else l.src).window.head?) with
    | some (team, _) => s.teamTicks team
    | none => s.teamTicks c.team
  | none => true

/-- Sequencers, banks and units of a cluster advance only on its local clocks (R344). -/
def State.onClock (s : State) : Instr → Bool
  | .bankArbitration t => s.tileTicks t
  | .vlComplete e _ => s.entryTicks e
  | .localTrapEntry g => s.groupTicks g
  | .groupRetire g => s.groupTicks g
  | .deadlineExpiry g => s.groupTicks g
  | .copyTransfer c l => s.copyTicks c l
  | .remoteDelivery _ _ recv => s.teamTicks recv
  | .emberAdvance w => s.emberTicks w
  | .ackArrival n => match s.acks[n]? with | some a => s.teamTicks a.team | none => true
  | .macroOpStep e => s.entryTicks e
  | .drainPerform e => s.entryTicks e
  | .rlxopenJoin t => s.teamTicks t
  | .kilnPassEnd t => s.teamTicks t
  | .kilnPassAbandon t => s.teamTicks t
  | .rlxcloseJoin t => s.teamTicks t
  | _ => true

/-- The schedule may pick the event in this state of Aelmel and in this clock. -/
def State.accepts (s : State) (i : Instr) : Bool :=
  i.isEvent && !timed i && s.onClock i && (s.aelmel.state == .run || answersHeld i)

/-- The event that the schedule picks before the next turn, if any. -/
def State.picked (s : State) : Option Instr :=
  if s.chosen then none else (Config.schedule s.sched).filter s.accepts

/-- What Aelmel, or the clock, does next when the schedule picks no event. -/
def runClock (ex : Instr → State → Out) (s : State) : Out :=
  match s.aelmel.state with
  | .run => ex .issueArbitration s
  | .recovery => .next s
  | _ => if s.aelmel.verified then ex .aelmelBoot s else ex .aelmelVerify s

/-- One step: the head of the agenda, else what the schedule picks, else the next context chosen to issue, else the next
master clock. Events may fall between the issues of one clock (R345). -/
noncomputable def runStep (ex : Instr → State → Out) (s : State) : Out :=
  match s.agenda with
  | i :: t => ex i { s with agenda := t }
  | [] =>
    let t : State := { s with sched := if s.chosen then s.sched else s.sched + 1, chosen := false }
    match s.picked with
    | some i => ex i t
    | none =>
      match s.issueq with
      | id :: _ => runContext ex id t
      | [] => runClock ex t

/-- Where `placeWord` puts the header of its clause. -/
def placeBase : Nat := 0x1000

/-- Core 0 about to fetch the instruction whose bits are `w`: it runs with VA = PA (R399), its one-instruction clause
stands at `placeBase`, and a header follows. A header word stands itself at `placeBase`, with no clause open. -/
def placeWord (s : State) (nbits w : Nat) : State :=
  let ws := tableWords nbits w
  let first := ws.headD 0
  let isHeader := majOf first == 0x3F
  let n := if isHeader then 1 else wordsOfLen (lenOf first)
  let start := if isHeader then placeBase else placeBase + 4
  let hdr : List Byte := [0xFC, 0, 0, 0x01]
  let bytes := (if isHeader then [] else hdr) ++ (ws.take n).flatMap wordBytes ++ hdr
  let cl : Clause := { header := w64 placeBase, next := w64 start, cnt := 1, seta := 0, setb := 1,
                       lanes := fullMask Config.coreWidth }
  let core : Group := coreAtReset 0
  let g : Group :=
    { core with
        core := some { num := 0 }
        hold := .none
        flow := { core.flow with lpc := List.replicate Config.coreWidth (w32 placeBase) }
        clause := if isHeader then none else some cl }
  { s with
      aelmel := { s.aelmel with state := .run }
      mem := memWrite s.mem placeBase bytes
      sram := s.sram.filter fun l => l.line != placeBase / 128
      badBursts := s.badBursts.filter fun b => b.burst != placeBase / 64
      badSlices := s.badSlices.filter fun b => b.burst / 2 != placeBase / 128
      groups := g :: s.groups.filter fun h => h.id != 0
      agenda := [], issueq := [0], chosen := true, cur := 0 }

end Sys2Proof.Machine
end

