-- ==== Sys2Proof/Machine/Clock.lean ====
section
/-! DEFINITION. The master clock (20 R344 to R351) and the arbitration of a clock (16 R295): ISSUE_ARBITRATION. It also puts
on the agenda what the spec bounds in clocks (04 R70, R270; 03 R58; 18 R328, R332; 20 R352; 12 R248). -/
namespace Sys2Proof.Machine

/-! ## Local clocks (R344, R347 to R349) -/

/-- Clusters of the part. -/
def State.clusterNums (s : State) : List Nat := s.dieNums.flatMap fun d => (List.range 12).map fun c => 32 * d + c

/-- The next local clock is a stretched one. -/
def Cluster.nextStretched (k : Cluster) : Bool := k.state == .stretch && !k.lead && k.strRem != 0

/-- The master clock delivers a local clock to the cluster. -/
def Cluster.ticks (k : Cluster) (time : Nat) : Bool :=
  k.pattern.getLsbD (time % 16) && (!k.nextStretched || k.last + k.strLen ≤ time)

/-- A local clock of the cluster: the clock after a trigger, a stretched, a halved or an ordinary one (DESIGN CHOICE, log entry 28). -/
def Cluster.tick (k : Cluster) (time : Nat) : Cluster :=
  let k : Cluster := { k with last := time, clocks := k.clocks + 1, before := none }
  if k.lead then { k with lead := false, tail := false, odd := false }
  else match k.state with
    | .stretch => { k with strRem := k.strRem - 1 }
    | .half => { k with halfRem := k.halfRem - 1, odd := !k.odd }
    | .idle => k

/-- The local clock after this state lies in a halved window and is an even one of it: no group issues (R349). -/
def Cluster.mute (k : Cluster) : Bool := ((k.state == .half && !k.lead) || k.tail) && k.odd

/-- A cluster in a new master clock: pattern, ends of episodes, its local clock; with that, where there is one, whether its groups may
issue. -/
def Cluster.clock (k : Cluster) (time : Nat) : Cluster × Option Bool :=
  let k := if time % 16 = 0 then k.applyPattern else k
  let k := k.stretchEnd.halfEnd
  if k.ticks time then (k.tick time, some (!k.mute)) else (k, none)

/-- Every cluster in a new master clock: those that have a local clock, with whether their groups may issue. -/
def State.clockClusters (s : State) : List Nat → List (Nat × Bool) × State
  | [] => ([], s)
  | n :: t =>
    let r := (s.cluster n).clock s.time
    let p := (s.setCluster n r.1).clockClusters t
    ((r.2.toList.map fun b => (n, b)) ++ p.1, p.2)

/-! ## CYC (R351) and the counts of a pass (R248) -/

/-- The group stands on a tile whose cluster had a local clock in the master clock that ends. -/
def State.hadClock (s : State) (g : Group) : Bool :=
  match s.groupTile g with
  | some t => (s.cluster (clusterOf t)).last == s.time && s.time != 0 && s.residentGroup g
  | none => false

/-- CYC counts the local clock that ends. -/
def State.countCyc (s : State) : State :=
  { s with groups := s.groups.map fun g => if g.core.isNone && !g.retired && s.hadClock g then { g with cyc := g.cyc + 1 } else g }

/-- The clock counts toward the bounds of R248: the gang stands, the groups were released at the body start, and no region group is
at trap level or waits on a kernel fault. One that is frozen lets it count (R248 names those two alone). -/
def State.passCounts (s : State) (t : Team) : Bool :=
  (match s.gang? t.gang with | some k => (match k.state with | .running => true | .stopping _ => true | _ => false) | none => false)
    && (s.regionGroups t.region).all fun g => !g.flow.tl && !s.groupWaits g && g.hold != .stopped

/-- A pass that runs counts its local clocks, and master clocks while a stop is requested. -/
def State.countPass (s : State) : State :=
  { s with teams := s.teams.map fun t =>
      if t.region.state == .open && s.passCounts t then
        let ticked := (s.cluster (clusterOf (s.teamTile t))).last == s.time
        let stop := match s.gang? t.gang with | some k => (match k.state with | .stopping _ => true | _ => false) | none => false
        { t with region := { t.region with passClocks := t.region.passClocks + (if ticked then 1 else 0)
                                           stopClocks := if stop then t.region.stopClocks + 1 else 0 } }
      else t }

/-- A new budget period of the partitions (R345). -/
def State.turnPartns (s : State) : State :=
  { s with partns := s.partns.map fun p => (p.1, { p.2 with last := p.2.now, now := 0 }) }

/-- A written EXP takes effect (R328). -/
def State.applyExp (s : State) : State :=
  { s with dies := s.dies.map fun p => (p.1, match p.2.nextExp with
      | some (e, at') => if at' ≤ s.time then { p.2 with exp := e, nextExp := none } else p.2
      | none => p.2) }

/-- Stops that were requested reach groups in holds (R331); freezes and arms that found no room for a record try again. -/
def State.retryWaits (s : State) : State :=
  let s := s.gangs.foldl (fun s k => match k.state with | .stopping _ => s.stopHeld k | _ => s) s
  let s := (s.groups.filter fun g => g.owed.isSome).foldl State.payOwed s
  s.dieNums.foldl (fun s d => s.refire d none) s

/-- The pairs note since when both of their units have stopped (R333). -/
def State.markQuiet (s : State) : State :=
  { s with dies := s.dies.map fun d => (d.1, { d.2 with pairs := d.2.pairs.map fun p =>
      { p with quiet := if s.pairQuiet p then some (p.quiet.getD s.time) else none } }) }

/-! ## What is due in this clock -/

/-- Local clocks within which a line leaves a tile cache and a store reaches its home slice (R70, R270). -/
def lineClocks : Nat := 65536

/-- Tile-cache lines and stores that have reached their bound. -/
def State.dueOfTile (s : State) (n : Nat) (t : Tile) : List Instr :=
  let c := s.tileClock n
  ((t.cache.filter fun l => l.fill + lineClocks ≤ c).map fun l => .tileCacheLineDrop n l.line)
  ++ ((t.path.filter fun e => e.clock + lineClocks ≤ c).map fun e =>
    if e.isStore then .storePerformHome n e.id else .homeAtomicPerform n e.id)

/-- Master clocks within which an exchange ends, counted from the clock that finds both units stopped (R333: 6,750 from their stop). -/
def exchangeClocks : Nat := 6749

/-- Dirty gathers older than 2^22 master clocks (R58); the list is in order of age. -/
def State.dueOfDie (s : State) (n : Nat) : List Instr :=
  let d := s.die n
  (d.gathers.filter fun g => g.time + 2 ^ 22 ≤ s.time).map (fun _ => .dirtyGatherWriteback n 0)
  ++ (if d.maxPairs != 0 && s.time % 2 ^ d.exp = 0 then [.turnStart n] else [])
  ++ ((List.range d.pairs.length).reverse.map fun i =>
    if (d.pairs[i]?.bind fun p => p.quiet).any fun t => decide (t + exchangeClocks ≤ s.time) then .turnExchangeEnd n i else .turnAbandon n i)

/-- Mail and fault records of class 0 near their bounds of 4,500 and 2,250 master clocks (R318): each clock moves one message, so that a
full buffer of 64 is moved in time, and every record up to the last one that is near its bound. -/
def State.dueOfBuffers (s : State) (n : Nat) : List Instr :=
  let d := s.die n
  let late (m : Msg) : Bool := m.cls == 0 && decide (m.born + 4436 ≤ s.time) && !s.mailBehind m && (m.module != 0 || (s.mailIn m).isSome)
  (match d.outbound.findIdx? late with | some i => [.mailboxDelivery n i] | none => [])
  ++ List.replicate (d.buffer.length - (d.buffer.reverse.takeWhile fun f => !(f.cls == 0 && decide (f.born + 1994 ≤ s.time))).length)
      (.faultRecordPost n)

/-- What moves a gang to its stop (R331), from half of the bound of R318 on: its instructions in flight, its copies, the stores
that it waits for. Not where it waits on a fault. -/
def State.dueOfStop (s : State) (k : Gang) : List Instr :=
  if k.state != .stopping false || s.time < k.stopAt + 33750 || s.gangFaults k then []
  else
    let ids := (s.gangGroups k).map fun g => g.id
    ((s.log.filter fun e => ids.contains e.grp && e.state == .running).flatMap fun e =>
      match e.op with
      | .mma _ _ _ _ _ => [.macroOpStep e.id]
      | .cstore _ _ => [.drainPerform e.id, .vlComplete e.id 0]
      | .cdrain _ _ _ => [.drainPerform e.id, .vlComplete e.id 0]
      | _ => [.vlComplete e.id (2 ^ 65 - 1)])
    ++ (s.copies.filter fun c => ids.contains c.grp).flatMap (fun c => c.lanes.flatMap fun l =>
      .copyTransfer c.id l.lane :: l.recvs.map fun r => .remoteDelivery c.id l.lane r)
    ++ s.tiles.flatMap (fun p => (p.2.path.filter fun e => ids.any fun i => e.covered i).map fun e =>
      if e.isStore then .storePerformHome p.1 e.id else .homeAtomicPerform p.1 e.id)
    ++ [.gangStop k.id]

/-- What a group is due: its held deadline, its trap in a clock of its own. -/
def State.dueOfGroup (s : State) (g : Group) : List Instr :=
  (if g.core.isNone && g.hold != .none && s.deadlineDue g then [.deadlineExpiry g.id] else [])
  ++ (if g.pend.isSome && (g.core.isSome || s.hadClock g) then [.localTrapEntry g.id] else [])
  ++ (match g.core with | some k => if g.hold == .wfi && (s.ringWork k || (s.servedBad k).isSome) then [.wfiWake k.num] else [] | none => [])

/-- Everything that the clock decides. -/
def State.due (s : State) : List Instr :=
  (s.dieNums.map fun d => .deficitCharge d)
  ++ s.dieNums.flatMap s.dueOfDie
  ++ s.dieNums.flatMap s.dueOfBuffers
  ++ s.gangs.flatMap s.dueOfStop
  ++ s.tiles.flatMap (fun p => s.dueOfTile p.1 p.2)
  ++ s.groups.flatMap s.dueOfGroup
  ++ ((s.teams.filter fun t => s.passOverdue t.region).map fun t => .kilnPassAbandon t.id)
  ++ ((s.log.filter fun e => e.op == .nothing && e.born + 4 ≤ s.time).map fun e => .vlComplete e.id 0)

/-! ## Arbitration (R295) -/

/-- `a` stands before `b` on their sequencer: it yielded not, is older, or was placed first. -/
def Group.before (a b : Group) : Bool :=
  if a.yielded != b.yielded then b.yielded
  else if a.age != b.age then a.age < b.age else max a.id a.order < max b.id b.order

/-- Insert a group by age. -/
def insertByAge (g : Group) : List Group → List Group
  | [] => [g]
  | h :: t => if g.before h then g :: h :: t else h :: insertByAge g t

/-- The groups of one sequencer, oldest first. -/
def byAge (l : List Group) : List Group := l.foldr insertByAge []

/-- Merge the queues of the sequencers in an order that the spec leaves free; each keeps its own. -/
def mergeFree (pick : Nat → Nat) : Nat → List (List Nat) → List Nat
  | 0, _ => []
  | n + 1, qs =>
    let qs := qs.filter fun q => !q.isEmpty
    match qs[pick n % max qs.length 1]? with
    | some (x :: _) => x :: mergeFree pick n (qs.mapIdx fun i q => if i = pick n % max qs.length 1 then q.drop 1 else q)
    | _ => []

/-- The contexts whose readiness is evaluated in this clock: a queue for each sequencer with groups in the clusters, one for each core. -/
def State.queues (s : State) (clusters : List Nat) : List (List Nat) :=
  let cores := (s.groups.filter fun g => g.core.isSome).map fun g => [g.id]
  let here := s.groups.filterMap fun g =>
    match s.groupTile g with
    | some t => if !g.retired && clusters.contains (clusterOf t) && s.residentGroup g then some ((t, g.seqr % 4), g) else none
    | none => none
  let keys := (here.map fun p => p.1).eraseDups
  cores ++ keys.map fun k => (byAge ((here.filter fun p => p.1 == k).map fun p => p.2)).map fun g => g.id

/-- The order in which contexts take their turns. -/
def State.order (s : State) (clusters : List Nat) : State :=
  let n := s.groups.length
  let q := mergeFree (fun i => (Config.freeWord (s.fresh + i)).toNat) n (s.queues clusters)
  { s with issueq := q, fresh := s.fresh + n, groups := s.groups.map fun g => { g with yielded := false } }

/-- One master clock (R351; bounds in clocks: DESIGN CHOICE, log entry 30). What a clock decides for a cluster waits for a local clock
of it (R344). -/
def masterClock (s : State) : State :=
  let s := s.countCyc
  let s := ({ s with time := s.time + 1, used := [] } : State).turnPartns.applyExp
  let (clocked, s) := s.clockClusters s.clusterNums
  let s := s.countPass.retryWaits.markQuiet
  let s := ({ s with muted := (clocked.filter fun p => !p.2).map fun p => p.1 } : State).order (clocked.map fun p => p.1)
  { s with agenda := s.agenda ++ s.due.filter s.onClock }

/-- ISSUE_ARBITRATION: the next master clock, unless Aelmel has stopped it. -/
def execIssueArbitration (s : State) : Out := .next (if s.aelmel.clockStopped then s else masterClock s)

end Sys2Proof.Machine
end

