-- ==== Sys2Proof/Machine/Complete.lean ====
section
/-! DEFINITION. What happens after issue: completion of instructions in the log (02 R38, R39; 21 R364), stores and atomics
at their home slices (04 R68, R72, R86), the tile caches' drops (R70), walks and gathers (03 R55, R58), memory errors
(03 R48; 21 R371), and their events. -/
namespace Sys2Proof.Machine

/-! ## VL_COMPLETE -/

/-- The lane is asked for and still to be written. -/
def LogEntry.asked (e : LogEntry) (lanes lane : Nat) : Bool := lanes.testBit lane && !e.written.getLsbD lane

/-- Write the destinations of one lane with a value of `n` bytes (R80, R81, R87); a scalar one is the value of lane 64. -/
def State.deliverLane (s : State) (e : LogEntry) (n : Nat) (signed : Bool) (lane v : Nat) : State :=
  s.onGroup e.grp fun g =>
    (e.dests.mapIdx fun k d => (k, d)).foldl (fun (g : Group) p =>
      match p.2 with
      | .slot _ => g.setSlot p.2 { g.slot p.2 with
          data := lset (g.slot p.2).data lane (loadReg n signed v p.1), dirty := true }
      | .bankV _ => g.setSlot p.2 { g.slot p.2 with
          data := lset (g.slot p.2).data lane (loadReg n signed v p.1), dirty := true }
      | .sreg _ => g.setSval p.2 (if signed then sextN (8 * n) v else w64 v)
      | .bankS _ => g.setSval p.2 (if signed then sextN (8 * n) v else w64 v)
      | _ => g) g

/-- Note that a lane is written. -/
def State.markWritten (s : State) (id lane : Nat) : State :=
  { s with log := s.log.map fun e => if e.id == id then { e with written := e.written ||| (1#64 <<< lane) } else e }

/-- The entry completes once every lane is written. -/
def State.finishWhole (s : State) (id : Nat) : State :=
  match s.entry? id with
  | some e => if e.accs.all fun a => e.written.getLsbD a.lane then s.finishEntry e else s
  | none => s

/-- Bind and write lanes of a load, one after another. -/
def State.loadLanes (s : State) (id n : Nat) (signed : Bool) : List Nat → State
  | [] => s.finishWhole id
  | lane :: t =>
    match s.bindLane id lane with
    | .bad s => s
    | .wait => s.loadLanes id n signed t
    | .ok s =>
      match s.entry? id with
      | none => s
      | some e =>
        match e.bound.find? fun p => p.1 == lane with
        | some p =>
          if lane = scalarLane then (s.deliverLane e n signed lane p.2).finishEntry e
          else ((s.deliverLane e n signed lane p.2).markWritten id lane).loadLanes id n signed t
        | none => s.loadLanes id n signed t

/-- Write lanes of an atomic whose old values have come back. -/
def State.atomicLanes (s : State) (e : LogEntry) (n : Nat) (sext : Bool) (lanes : Nat) : State :=
  match e.bound.find? fun p => p.1 == scalarLane with
  | some p => (s.deliverLane e n sext scalarLane p.2).finishEntry e
  | none =>
    ((e.bound.filter fun p => e.asked lanes p.1).foldl (fun s p =>
      (s.deliverLane e n false p.1 p.2).markWritten e.id p.1) s).finishWhole e.id

/-- Set the NBP predicate in the executing lanes (R34). -/
def State.setNbp (s : State) (e : LogEntry) (v : Mask) : State :=
  match e.nbp with
  | some d => s.onGroup e.grp fun g => g.setPval d e.lanes v
  | none => s

/-- The window destinations of an entry: its NBP apart. -/
def LogEntry.winDests (e : LogEntry) : List Dest := e.dests.filter fun d => some d != e.nbp

/-- A `pst` or `cstore` whose stores have all been performed. -/
def State.storesDone (s : State) (e : LogEntry) : Bool :=
  e.written != 0 && !(s.tiles.any fun p => p.2.path.any fun q => q.log == some e.id)

/-- Entries that take a value from one place when they complete. -/
def State.takeValue (s : State) (e : LogEntry) (v : W64) : State := (s.deliverLane e 8 false scalarLane v.toNat).finishEntry e

/-- An earlier store, atomic or counter step of the group to the word is still on its way (R313). -/
def State.wordInPath (s : State) (e : LogEntry) (pa : Nat) : Bool :=
  s.tiles.any fun p => p.2.path.any fun q => q.covered e.grp && decide (q.id < e.id) && meets pa 8 q.pa q.len

/-- `dread` reads the counter at its home slice, after the group's own earlier steps there (R313). -/
def State.dreadDone (s : State) (g : Group) (e : LogEntry) : State :=
  match e.accs with
  | { place := .phys (p :: _), va := va, .. } :: _ =>
    if s.wordInPath e p.pa then s
    else if s.badRead p.pa 8 then s.freezeEntry g e.id (s.badCause p.pa) va.toNat p.pa
    else s.takeValue e (s.homeW64 p.pa)
  | _ => s

/-- An entry that has all it needs completes, in the lanes given (R38). -/
def State.completeEntry (s : State) (g : Group) (e : LogEntry) (lanes : Nat) : State :=
  match e.op with
  | .nothing => (s.setNbp e 0).finishEntry e
  | .load n signed _ _ _ =>
    s.loadLanes e.id n signed ((e.accs.filter fun a => e.asked lanes a.lane).map fun a => a.lane)
  | .atomic op sext _ => s.atomicLanes e op.size sext lanes
  | .pld n => s.pldFinish e g n
  | .pst => if s.storesDone e then s.finishEntry e else s
  | .cstore _ _ => if s.storesDone e then s.finishEntry e else s
  | .mma _ _ _ _ _ => s
  | .cdrain _ _ _ =>
    if e.bound.isEmpty then s
    else (e.bound.foldl (fun s p => s.deliverLane e 4 false p.1 p.2) s).finishEntry e
  | .qpop _ _ _ =>
    if e.bound.isEmpty then s
    else
      let got := maskOf (e.bound.map fun p => p.1)
      let s := e.bound.foldl (fun s p => s.deliverLane { e with dests := e.winDests } 8 false p.1 p.2) s
      (s.setNbp e got).finishEntry { e with dests := e.winDests }
  | .mbrecv _ _ =>
    match e.bound with
    | [] => s
    | p :: _ =>
      let bs := natBytes 64 p.2
      let s := (List.range 16).foldl (fun s i =>
        s.deliverLane { e with dests := e.winDests } 4 false i (bytesNat ((bs.drop (4 * i)).take 4))) s
      (s.setNbp e e.lanes).finishEntry { e with dests := e.winDests }
  | .dread => s.dreadDone g e
  | .jobstat h => let r := s.jobStatus h; r.2.takeValue e r.1
  | .hcrd n => s.takeValue e (s.hc (n / 256) (n % 256))

/-- A step of completion of an entry: its translation is tried again where its fault found no room for a record (R368), or where it was
resumed in a handler (R164), else lanes complete. -/
def vlComplete (s : State) (id lanes : Nat) : Out :=
  match s.entry? id with
  | none => .next s
  | some e =>
    match s.group? e.grp with
    | none => .next s
    | some g =>
      if e.state != .running || !s.residentGroup g || s.atReturn e then .next s
      else if e.untranslated then
        match s.resolveEntry id with
        | (_, some .reg) => .fault .deviceRegister
        | (s, _) => .next s
      else .next (s.completeEntry g e lanes)

/-- VL_COMPLETE. -/
def execVlComplete (entry lanes : Nat) (s : State) : Out := vlComplete s entry lanes

/-! ## STORE_PERFORM_HOME and HOME_ATOMIC_PERFORM -/

/-- Take an entry off every store path that holds it. -/
def State.offPath (s : State) (id : Nat) : State :=
  { s with tiles := s.tiles.map fun (p : Nat × Tile) => (p.1, { p.2 with path := p.2.path.filter fun e => e.id != id }) }

/-- A store that may go is performed at its home slice, or at the host interface (R68, R69, R72). -/
def storePerform (s : State) (tile id : Nat) : State :=
  let path := (s.tile tile).path
  match path.find? fun e => e.id == id with
  | some e =>
    match e.op with
    | .store bs => if s.pathsReady id then (s.homeWrite e.pa bs e.hint e.inst).offPath id else s
    | _ => s
  | none => s

/-- STORE_PERFORM_HOME. -/
def execStorePerformHome (tile n : Nat) (s : State) : Out := .next (storePerform s tile n)

/-- The old value goes back to the instruction that waits for it (R87). -/
def State.giveOld (s : State) (ret : Option (Nat × Nat)) (v : W64) : State :=
  match ret with
  | some (id, lane) =>
    { s with log := s.log.map fun e => if e.id == id then { e with bound := e.bound ++ [(lane, v.toNat)] } else e }
  | none => s

/-- An atomic or a counter step that reads a bad burst freezes its group (R370, R371); one whose group is frozen waits. That of a
group that is gone is dropped. -/
def State.atomicBad (s : State) (e : PathEntry) (n : Nat) : Option (State × Bool) :=
  if !s.badRead e.pa n then none
  else
    match s.group? e.grp with
    | some g =>
      if g.gone then some (s, true)
      else if g.frozen.isSome then some (s, false) else some (s.freeze g (s.badCause e.pa) e.va.toNat e.pa, false)
    | none => some (s, true)

/-- An atomic or a counter step that may go is performed at its home slice; the tile's copy of the line is dropped (R73,
R86). -/
def atomicPerform (s : State) (tile id : Nat) : State :=
  let path := (s.tile tile).path
  match path.find? fun e => e.id == id with
  | some e =>
    if !s.pathsReady id then s
    else
      let off (s : State) : State :=
        let s := s.offPath id
        s.setTile tile ((s.tile tile).dropLine (e.pa / 128))
      if e.isStore then s
      else
        match s.atomicBad e e.len with
        | some (s, gone) => if gone then off s else s
        | none =>
          match e.op with
          | .store _ => s
          | .atomic op v x ret => let r := s.atomicAt e.pa op v x e.hint; (off r.1).giveOld ret r.2
          | .counter (some n) => off (s.counterInit e.pa n.toNat e.hint)
          | .counter none => off (s.counterDec e.pa e.hint)
  | none => s

/-- HOME_ATOMIC_PERFORM. -/
def execHomeAtomicPerform (tile n : Nat) (s : State) : Out := .next (atomicPerform s tile n)

/-! ## TILE_CACHE_LINE_DROP (R70) and BANK_ARBITRATION's store -/

/-- TILE_CACHE_LINE_DROP. -/
def execTileCacheLineDrop (tile line : Nat) (s : State) : Out := .next (s.setTile tile ((s.tile tile).dropLine line))

/-! ## TRANSLATION_WALK (R55) -/

/-- The master with a number: tiles, then stoker cores from 1000, then tile copy engines from 2000. -/
def masterOfNum (n : Nat) : Option Master :=
  if n < 1000 then some (.tile n) else if n < 2000 then some (.core (n - 1000)) else if n < 3000 then some (.copyEngine (n - 2000))
  else none

/-- An instruction in the log, or a copy, waits for the translation of this address. -/
def State.walkWanted (s : State) (m : Master) (va asid vmid : Nat) : Bool :=
  match m with
  | .copyEngine t =>
    s.copies.any fun c => c.asid == asid && c.vmid == vmid && c.token.isNone
      && (match (s.team? c.team) with | some u => s.teamTile u == t | none => false)
      && c.lanes.any fun l => [l.src, l.dst].any fun d => match d with | .glob v => v.toNat / 2 ^ 14 == va / 2 ^ 14 | _ => false
  | m =>
    s.log.any fun e => e.state == .running && e.untranslated
      && (match s.group? e.grp with
          | some g => s.masterOf g == m && g.asid.toNat == asid && g.vmid.toNat == vmid
          | none => false)
      && e.accs.any fun a => a.place == .todo && a.va.toNat / 2 ^ 14 ≤ va / 2 ^ 14 && va / 2 ^ 14 ≤ (a.va.toNat + a.n) / 2 ^ 14

/-- Access kinds by number (R60). -/
def kindOfNum (n : Nat) : Kind := if n = 0 then .read else if n = 1 then .write else if n = 2 then .fetch else .atomic

/-- A walk for an access that waits: on success the TLBs take the entry; a failure is the access's own to report. -/
def translationWalk (s : State) (master va asid vmid kind : Nat) : State :=
  match masterOfNum master with
  | none => s
  | some m =>
    let ag : Agent := { master := m, asid := asid, vmid := vmid }
    let k := kindOfNum kind
    if !s.walkWanted m va asid vmid || 2 ^ 52 ≤ va || (s.tlbFind ag va).any fun e => e.serves k then s
    else
      match s.tableOf m with
      | some (some vmt) =>
        match s.walk vmt ag va 1 k with
        | (s, _, some e) => s.tlbFill m e
        | (s, _, none) => s
      | _ => s

/-- TRANSLATION_WALK. -/
def execTranslationWalk (master va asid vmid kind : Nat) (s : State) : Out := .next (translationWalk s master va asid vmid kind)

/-! ## DIRTY_GATHER_WRITEBACK (R58) -/

/-- One gather of a die's list is written back. -/
def gatherWriteback (s : State) (die n : Nat) : State :=
  match (s.die die).gathers[n]? with
  | some g => (s.setDie die { s.die die with gathers := (s.die die).gathers.eraseIdx n }).writeGather die g
  | none => s

/-- DIRTY_GATHER_WRITEBACK. -/
def execDirtyGatherWriteback (die n : Nat) (s : State) : Out := .next (gatherWriteback s die n)

/-! ## Errors (R48, R370, R371, R403) -/

/-- Numbers from which an error is one of a context's own registers or local store, consumed as it is found. -/
def errorOfGroup : Nat := 2 ^ 48

/-- An uncorrectable error: of a burst, in the slice that holds its line or in the stack, whose consumers freeze when they
read it; or, beyond the physical addresses, of SRAM, local store or registers that a context has just consumed. -/
def uncorrectable (s : State) (addr : Nat) : State :=
  let s := { s with health := { s.health with uecnt := min 0xFF (s.health.uecnt + 1) } }
  if addr < errorOfGroup then
    if (s.sline? (addr / 128)).isSome then { s with badSlices := s.badSlices ++ [{ burst := addr / 64, cause := 0x22 }] }
    else { s with badBursts := s.badBursts.filter (fun b => b.burst != addr / 64) ++ [{ burst := addr / 64 }] }
  else
    match s.group? (addr - errorOfGroup) with
    | some g => if g.gone || g.frozen.isSome || g.hold == .halted then s else s.freeze g 0x22 0 0
    | none => s

/-- UNCORRECTABLE_ERROR. -/
def execUncorrectableError (addr : Nat) (s : State) : Out := .next (uncorrectable s addr)

/-- CORRECTED_ERROR. -/
def execCorrectedError (s : State) : Out :=
  .next { s with health := { s.health with cecnt := min 0xFFFFFFFF (s.health.cecnt + 1) } }

end Sys2Proof.Machine
end

