-- ==== Sys2Proof/Machine/Control.lean ====
section
/-! DEFINITION. Control flow CF (06 R139, R150, R151), loops LP (06 R140, R152), and `movlpc` (06 R144). -/
namespace Sys2Proof.Machine

/-! ## Transfers (R37, R137) -/

/-- The first address of a list with another CODEHI (R137). -/
def badHi (g : Group) (l : List W64) : Bool := l.any fun a => !g.sameHi a

/-- Send lanes to their targets at the end of the clause, whose headers have been checked (R37): CODEHI first (R137, R153),
then `more`, then `f` changes the group. -/
def Ctx.goTo (c : Ctx) (s : State) (ts : List (Nat × W64)) (more : List (Bool × (Cause × W64))) (f : Group → Group) : Res :=
  c.guarded ((badHi c.g (ts.map fun p => p.2), illop 0x0D) :: more)
    (.ok (c.upd s fun g =>
      let g := f g
      { g with clause := g.clause.map fun cl => { cl with targets := ts } }))

/-- Lanes with one target. -/
def toAll (l : List Nat) (a : W64) : List (Nat × W64) := l.map fun i => (i, a)

/-- `call` and `calli` refuse at trap level (R131); the link stack holds 16 (R151). -/
def Ctx.callTo (c : Ctx) (s : State) (a : W64) : Res :=
  rlxGate c s <| c.guarded [(c.g.flow.tl, illop 0x0D)] <| c.once s <|
    c.guarded [(fld a 63 52 != 0, illop 0x0D)] <|
    c.goTo s (toAll c.lanes (a &&& ~~~3#64)) [(16 ≤ c.g.ldepth, (.wovf, w64 (2 ^ 60)))] fun g =>
      { g with flow := { g.flow with
          links := { ret := c.after, step := 0 } :: g.flow.links
          fl := (List.range g.width).map fun i => if c.act.getLsbD i then g.ldepth + 1 else g.flow.fl.getD i 0 } }

/-- `br`. -/
def execBr (o : Ops) (s : State) : Out :=
  issue 0x10 0 o (fun c s => rlxGate c s (c.once s (c.goTo s (toAll c.lanes c.target) [] id))) s

/-- `jmp`: the whole lane set goes if any lane executes. -/
def execJmp (o : Ops) (s : State) : Out :=
  issue 0x10 1 o (fun c s => rlxGate c s (c.once s
    (c.goTo s (toAll (lanesOf c.w (c.cl.lanes &&& ~~~c.g.flow.exited)) c.target) [] id))) s

/-- `call`. -/
def execCall (o : Ops) (s : State) : Out := issue 0x10 2 o (fun c s => c.callTo s c.target) s

/-- `calli`. -/
def execCalli (o : Ops) (s : State) : Out := issue 0x10 3 o (fun c s => c.callTo s c.sA) s

/-- `ret` (R151). -/
def ret (c : Ctx) (s : State) : Res :=
  rlxGate c s <| c.guarded [(c.g.flow.tl, illop 0x0D)] <| c.once s <|
    match c.g.flow.links with
    | [] => .ofPair (illop 0x0D)
    | e :: _ =>
      c.goTo s (toAll c.lanes e.ret) [] fun g =>
        { g with flow := { g.flow with
            fl := (List.range g.width).map fun i => if c.act.getLsbD i then g.ldepth - 1 else g.flow.fl.getD i 0 } }

/-- `ret`. -/
def execRet (o : Ops) (s : State) : Out := issue 0x10 4 o ret s

/-- Zero registers with tag RAW. -/
def Group.zeroSlots (g : Group) (l : List Nat) : Group :=
  l.foldl (fun g n => g.setSlot (.slot n) { data := List.replicate g.width 0, tag := tRAW }) g

/-- `enter` (R151). -/
def enter (c : Ctx) (s : State) : Res :=
  let k := c.fb
  let g := c.g
  rlxGate c s <| c.guarded [(g.flow.tl, illop 0x0D)] <| c.once s <|
    c.guarded [(g.ldepth = 0 || 60 < g.topStep + k || k % 4 != 0, illop 0x0D),
             (g.budget + g.flow.lo < g.flow.wb + k + 64, (.wovf, w64 ((g.flow.wb + k + 64 - g.flow.lo - g.budget) % 1024)))]
      (.ok (c.upd s fun g =>
        let g := g.zeroSlots (g.slotsOf (g.flow.wb + 64) (g.flow.wb + 64 + k))
        { g with flow := { g.flow with
            wb := g.flow.wb + k
            links := match g.flow.links with | e :: t => { e with step := e.step + k } :: t | [] => [] } }))

/-- `enter`. -/
def execEnter (o : Ops) (s : State) : Out := issue 0x10 5 o enter s

/-- `exit`: a group with no lane left counts as arrived at a `bteam` (R123). -/
def exitOp (c : Ctx) (s : State) : Res :=
  rlxGate c s (.ok ((c.upd s fun g =>
    { g with flow := { g.flow with exited := g.flow.exited ||| c.act } }).bteamCheck c.g.team))

/-- `exit`. -/
def execExit (o : Ops) (s : State) : Out := issue 0x10 6 o exitOp s

/-- `yield`: the next issue slot goes to another ready group. -/
def execYield (o : Ops) (s : State) : Out :=
  issue 0x10 7 o (fun c s => rlxGate c s (c.once s (.ok (c.upd s fun g => { g with yielded := true })))) s

/-- `nop`. -/
def execNop (o : Ops) (s : State) : Out := issue 0x10 8 o (fun c s => rlxGate c s (.ok s)) s

/-- `trap n`: the lane set goes on to the next clause, and SWTRAP is raised with that as resume point (R150, R362). -/
def swtrap (c : Ctx) (s : State) : Res :=
  rlxGate c s <| c.once s <|
    let t := { c.trapAt .swtrap (w64 c.imm18) with clause := none, boundary := true }
    .stay ((if c.g.flow.tl then s else c.upd s fun g => g.advance c.words true).raise c.g.id t)

/-- `trap`. -/
def execTrap (o : Ops) (s : State) : Out := issue 0x10 9 o swtrap s

/-- `sys n`: the service is requested, and the group goes on (R150; DESIGN CHOICE, log entry 58). -/
def execSys (o : Ops) (s : State) : Out :=
  issue 0x10 10 o (fun c s => rlxGate c s (c.once s (.ok { s with services := s.services ++ [(c.g.id, c.imm18)] }))) s

/-- `movlpc` (R144). The headers of its lanes' targets are checked last, since no step of R43 before the tags depends on lane data
(R37, R43; DEDUCED, log entry 55). -/
def movlpc (c : Ctx) (s : State) : Res :=
  checked c s (c.needA intTags) [] <|
    c.afterHeaders (s.checkHeaders c.g (c.laneTargets.map fun p => p.2).eraseDups) fun s => c.goTo s c.laneTargets [] id

/-- `movlpc`. -/
def execMovlpc (o : Ops) (s : State) : Out := issue 0x0C 11 o movlpc s

/-! ## LP (R140, R152) -/

/-- Step over `n` instructions from an address (R22): a fault of these fetches is taken by the `loop` itself (R140; DESIGN CHOICE, log
entry 37). -/
def State.skipInstrs (s : State) (g : Group) : Nat → W64 → State × Except Res W64
  | 0, a => (s, .ok a)
  | n + 1, a =>
    match s.fetchWord g a with
    | (s, .ok w) => s.skipInstrs g n (a + w64 (4 * wordsOfLen (lenOf w)))
    | (s, f) => (s, .error (fetchRes a f s))

/-- The checks all LP minors share. -/
def lpGate (c : Ctx) (s : State) (r : Res) : Res :=
  rlxGate c s (c.guarded [(c.g.flow.tl, illop 0x0D)] (c.once s r))

/-- `loop` (R140). -/
def loopOp (c : Ctx) (s : State) : Res :=
  lpGate c s <|
    match s.skipInstrs c.g (c.cl.cnt - c.cl.pos - 1) c.after with
    | (_, .error r) => r
    | (s, .ok start) =>
      let endh := c.cl.next + w64 (4 * (c.fd * 64 + c.fb))
      let n := c.sAl
      c.guarded [(4 ≤ c.g.flow.loops.length || endh.toNat < start.toNat, illop 0x0D)]
        (.ok (c.upd s fun g => { g with flow := { g.flow with
          loops := { start := start, endh := endh, n := if n = 0 then 1 else n, fl := g.ldepth } :: g.flow.loops } }))

/-- `loop`. -/
def execLoop (o : Ops) (s : State) : Out := issue 0x11 0 o loopOp s

/-- The loop entries after `k` pops, where each belongs to the top frame. -/
def popLoops (g : Group) : Nat → List LoopEntry → Option (List LoopEntry)
  | 0, l => some l
  | _ + 1, [] => none
  | k + 1, e :: t => if e.fl = g.ldepth then popLoops g k t else none

/-- Pop `k` entries. -/
def popN (k : Option Nat) (c : Ctx) (s : State) : Res :=
  lpGate c s <|
    match k.bind fun k => popLoops c.g k c.g.flow.loops with
    | none => .ofPair (illop 0x0D)
    | some l => .ok (c.upd s fun g => { g with flow := { g.flow with loops := l } })

/-- `lbrk`. -/
def execLbrk (o : Ops) (s : State) : Out := issue 0x11 1 o (popN (some 1)) s

/-- `lcnt`. -/
def lcnt (c : Ctx) (s : State) : Res :=
  lpGate c s <|
    match c.g.flow.loops[c.fa]? with
    | none => .ofPair (illop 0x0D)
    | some e => .ok (c.putS s e.n)

/-- `lcnt`. -/
def execLcnt (o : Ops) (s : State) : Out := issue 0x11 2 o lcnt s

/-- `lpop`. -/
def execLpop (o : Ops) (s : State) : Out :=
  issue 0x11 3 o (fun c s =>
    let d := c.g.flow.loops.length
    popN (if c.fd ≤ d && c.fd < 4 then some (d - c.fd) else none) c s) s

/-! ## The boundary itself -/

/-- CLAUSE_BOUNDARY (R36, R138). -/
def execClauseBoundary (h : Header) (s : State) : Out := openClause h s

end Sys2Proof.Machine
end

