-- ==== Sys2Proof/Machine/CopyEngine.lean ====
section
/-! DEFINITION. What the copy engines do after a copy has retired (05 R106 to R111, R113, R116, R122): COPY_TRANSFER,
REMOTE_DELIVERY, ACK_ARRIVAL, and BANK_ARBITRATION (16 R297). A lane is read by one transfer and written by a later
one. -/
namespace Sys2Proof.Machine

/-! ## What a transfer works on -/

/-- The copy may move: its gang stands on its tiles and is not stopped, and its engine is not frozen at it (R106, R331, R370). -/
def State.copyMoves (s : State) (c : Copy) : Bool :=
  !s.copyFrozen c
    && match (s.team? c.team).bind fun t => s.gang? t.gang with
      | some k => (match k.state with | .running => true | .stopping _ => true | _ => false)
      | none => false

/-- A stop is asked of the copy's gang. -/
def State.copyStops (s : State) (c : Copy) : Bool :=
  match (s.team? c.team).bind fun t => s.gang? t.gang with
  | some { state := .stopping _, .. } => true
  | _ => false

/-- The copy's interval in a scoreboard holds an access to a window (R114). -/
def State.copyScores (s : State) (c : Copy) (a : Access) : Bool :=
  match a.place with | .loc t off => s.scoreMeets t off a.n fun sc => sc.copy == c.id | _ => false

/-- The group is to stop, and has not yet (R331). -/
def State.toStop (s : State) (g : Group) : Bool :=
  !g.atRest && match s.gangOf g with | some { state := .stopping _, .. } => true | _ => false

/-- What is to stop comes to its own boundary only once the copy has moved on: its group in `cpwait` or `cpseal`, a group that stands at
a scoreboard with entries of it, an instruction in flight whose bytes it holds. The copy then goes past the next line boundary (R331
gives both; DEDUCED, log entry 18). -/
def State.copyAwaited (s : State) (c : Copy) : Bool :=
  s.groups.any (fun g => s.toStop g &&
    match g.hold with
    | .batches _ _ _ => g.id == c.grp
    | _ => g.stall == some .resource && match s.gangOf g with
      | some k => (s.gangTiles k).any fun t => (s.tile t).scores.any fun sc => sc.copy == c.id
      | none => false)
  || s.log.any fun e => e.state == .running && e.accs.any (s.copyScores c)
      && match (s.group? e.grp).bind s.gangOf with | some { state := .stopping _, .. } => true | _ => false

/-- Tile of the copy engine, and of the issuing group with its cache and store path. -/
def State.copyTile (s : State) (c : Copy) : Nat := match s.team? c.team with | some t => s.teamTile t | none => 0
def State.copyHome (s : State) (c : Copy) : Nat := match s.group? c.grp with | some g => s.logOf g | none => 0

/-- Agent of the engine, and the launch whose gathers it makes. -/
def State.copyAgent (s : State) (c : Copy) : Agent := { master := .copyEngine (s.copyTile c), asid := c.asid, vmid := c.vmid }
def State.copyWork (s : State) (c : Copy) : Option Nat := (s.team? c.team).map fun t => t.work

/-- A lane meets a fault: the copy waits on its record, or on room for it, and stops at a line boundary (R108, R370). A lane of the
line in progress that meets one too posts none. -/
def State.copyWaits (s : State) (c : Copy) (lane : Nat) (r : FaultRec) : State :=
  if c.suspended then s.setCopy { c with stuck := c.stuck ++ [lane] }
  else match s.postFault r (.copy c.id) with
    | some (num, s) => s.setCopy { c with token := some num, stuck := [lane] }
    | none => s

/-- The issuing group's own atomic on these pieces is still on its way (R108). -/
def State.ownAtomic (s : State) (c : Copy) (ps : List Piece) : Bool :=
  (s.tile (s.copyHome c)).path.any fun e => e.grp == c.grp && e.id < c.id
    && match e.op with
      | .atomic op _ _ _ => ps.any fun p => meets p.pa p.n e.pa op.size
      | _ => false

/-- An earlier store or atomic of the issuing group to these bytes has not been performed: the copy's write comes after it, for a load
once its batch has finished returns what it wrote (R108, R274). -/
def State.ownOnWay (s : State) (c : Copy) (ps : List Piece) : Bool :=
  s.tiles.any fun t => t.2.path.any fun e => e.covered c.grp && decide (e.id < c.id) && ps.any fun p => meets p.pa p.n e.pa e.len

/-! ## Reading a lane -/

/-- Every lane left has been read: the read entries of the scoreboard are freed (R113). -/
def State.freeReads (s : State) (id : Nat) : State :=
  match s.copy? id with
  | some c =>
    if c.lanes.all fun l => l.data.isSome then
      { s with tiles := s.tiles.map fun p => (p.1, { p.2 with scores := p.2.scores.filter fun x => x.write || x.copy != id }) }
    else s
  | none => s

/-- Serve the parts of a read of the engine through the cache and store path of its group's tile (R106, R108). -/
def State.enginePieces (s : State) (tile : Nat) (wide : Bool) (hint : Nat) : List Piece → State × List Byte
  | [] => (s, [])
  | p :: t =>
    let (s, line) := s.lineRead tile (p.pa / 128) p.attr (wide && p.attr == 0) hint
    let (s, rest) := s.enginePieces tile wide hint t
    (s, (line.drop (p.pa % 128)).take p.n ++ rest)

/-- A lane takes its bytes; its line is the one in progress. -/
def State.laneRead (s : State) (c : Copy) (l : CopyLane) (bs : List Byte) : State :=
  (s.setCopy { c with
    line := some l.lineNo
    lanes := c.lanes.map fun m => if m.lane = l.lane then { m with data := some bs } else m }).freeReads c.id

/-- Read the source of a lane (R106 line 7, R108). The group's own earlier stores are those in the store paths: a `cstore` counts
from its write on (R108 lists stores alone; DEDUCED, log entry 18). -/
def State.copyRead (s : State) (c : Copy) (l : CopyLane) : Out :=
  match l.src with
  | .loc t off => .next (s.laneRead c l (s.windowRead t off c.n))
  | .glob va =>
    match s.resolve (s.copyAgent c) va c.n .read (s.copyWork c) with
    | (s, .fault r) => .next (s.copyWaits c l.lane r)
    | (s, .perm) => .next (s.copyWaits c l.lane (mkFault (s.copyAgent c) va.toNat 0 0x20 0 c.n))
    | (s, .bad pa) => .next (s.copyWaits c l.lane (mkFault (s.copyAgent c) va.toNat pa (s.badCause pa) 0 c.n))
    | (_, .reg) => .fault .deviceRegister
    | (s, .ok ps) =>
      match s.group? c.grp with
      | none => .next s
      | some g =>
        let wide := s.tileWide g c.scope
        match s.badPiece g (s.copyHome c) wide va (fun _ => true) ps with
        | some (at', pa) => .next (s.copyWaits c l.lane (mkFault (s.copyAgent c) at' pa (s.badCause pa) 0 c.n))
        | none =>
          if s.ownAtomic c ps then .next s
          else
            let (s, bs) := s.enginePieces (s.copyHome c) wide c.hint ps
            .next (s.laneRead c l bs)

/-! ## Writing a lane -/

/-- Physical pieces of a destination in memory; `none` where it does not translate. -/
def State.dstPieces (s : State) (c : Copy) (d : Side) : Option (List Piece) :=
  match d with
  | .glob va => match s.resolve (s.copyAgent c) va c.n .write none with | (_, .ok ps) => some ps | _ => none
  | .loc _ _ => none

/-- Two destinations share a byte: of a window, or of memory, whatever the mappings that name it. One that does not translate
may. -/
def State.sidesMeet (s : State) (c : Copy) (a b : Side) : Bool :=
  match a, b with
  | .glob _, .glob _ =>
    match s.dstPieces c a, s.dstPieces c b with
    | some ps, some qs => ps.any fun p => qs.any fun q => meets p.pa p.n q.pa q.n
    | _, _ => true
  | .loc t x, .loc u y => t == u && meets x c.n y c.n
  | _, _ => false

/-- A lower lane of the instruction still has to write bytes that this one writes (R107). -/
def State.lowerFirst (s : State) (c : Copy) (l : CopyLane) (recv : Option Nat) : Bool :=
  c.lanes.any fun m => decide (m.lane < l.lane) && (match recv with | some r => m.recvs.contains r | none => true)
    && s.sidesMeet c m.dst l.dst

/-- The lane takes the engine to the next line boundary: it has been read, is of the line in progress, or those read wait for it. -/
def State.laneBegun (s : State) (c : Copy) (l : CopyLane) : Bool :=
  l.data.isSome || some l.lineNo == c.line || c.halfSent l
    || c.lanes.any fun m => m.data.isSome && decide (l.lane < m.lane) && s.sidesMeet c l.dst m.dst

/-- The engine goes on with a lane: of a copy that a fault suspends, or that is to stop, up to the next line boundary (R108, R331). -/
def State.laneGoes (s : State) (c : Copy) (l : CopyLane) : Bool :=
  !c.stuckAt l && (s.laneBegun c l || (!c.suspended && (!s.copyStops c || s.copyAwaited c)))

/-- Copy bytes into a window: those of valid barrier objects are dropped, and set STRAY (R116). -/
def State.copyInto (s : State) (team off : Nat) (bs : List Byte) : State :=
  let hit := (s.barriersOf team).filter fun b => b < off + bs.length && off < b + 16
  hit.foldl (fun s b => s.strayValid team b) (s.windowWriteKeep team off bs)

/-- A lane of a copy is done; the copy ends with its last lane: its write entries are freed, and its batch may have
finished (R111, R113). -/
def State.laneDone (s : State) (id lane : Nat) : State :=
  match s.copy? id with
  | some c =>
    let c : Copy := { c with lanes := c.lanes.filter fun m => m.lane != lane }
    if c.lanes.isEmpty then
      let s : State := { s with
        copies := s.copies.filter fun d => d.id != id
        tiles := s.tiles.map fun p => (p.1, { p.2 with scores := p.2.scores.filter fun x => x.copy != id }) }
      s.batchCheck c.grp
    else s.setCopy c
  | none => s

/-- The delivery of a local or global copy's lane at its barrier (R106 line 9). -/
def State.copyDeliver (s : State) (c : Copy) : State := match c.bar with | some b => s.deliver b.1 b.2 c.n | none => s

/-- Write the destination of a lane that has been read (R106 lines 8 and 9, R108). -/
def State.copyWrite (s : State) (c : Copy) (l : CopyLane) (bs : List Byte) : Out :=
  if s.lowerFirst c l none then .next s
  else
    match l.dst with
    | .loc t off => .next (((s.copyInto t off bs).laneDone c.id l.lane).copyDeliver c)
    | .glob va =>
      match s.resolve (s.copyAgent c) va c.n .write (s.copyWork c) with
      | (s, .fault r) => .next (s.copyWaits c l.lane r)
      | (s, .perm) => .next (s.copyWaits c l.lane (mkFault (s.copyAgent c) va.toNat 0 0x20 0 c.n))
      | (s, .bad pa) => .next (s.copyWaits c l.lane (mkFault (s.copyAgent c) va.toNat pa (s.badCause pa) 0 c.n))
      | (_, .reg) => .fault .deviceRegister
      | (s, .ok ps) =>
        if s.ownOnWay c ps then .next s else
        let home := s.copyHome c
        let s := (ps.foldl (fun (a : State × List Byte) p =>
          (a.1.homeWrite p.pa (a.2.take p.n) c.hint c.id, a.2.drop p.n)) (s, bs)).1
        let s := ps.foldl (fun s p => s.setTile home ((s.tile home).dropLine (p.pa / 128))) s
        .next ((s.laneDone c.id l.lane).copyDeliver c)

/-- The sender takes the returns of deliveries of a lane (R110): at its barrier, and for its batch once every receiver is done. They
cross the fabric before (DEDUCED, log entry 18). -/
def State.takeReturns (s : State) (c : Copy) (l : CopyLane) : State :=
  let s := s.setCopy { c with lanes := c.lanes.map fun m => if m.lane = l.lane then { m with back := 0 } else m }
  let s := if l.recvs.isEmpty then s.laneDone c.id l.lane else s
  match c.mc && l.back != 0, c.bar with
  | true, some b => s.deliver b.1 b.2 (c.n * l.back)
  | _, _ => s

/-- The copy engine reaches a lane: it reads it, writes what it has read, or takes the returns of REMOTE_DELIVERY
(two transfers: DEDUCED, log entry 18). -/
def copyTransfer (s : State) (copy lane : Nat) : Out :=
  match s.copy? copy with
  | some c =>
    match (if s.copyMoves c then c.lanes.find? fun l => l.lane == lane && s.laneGoes c l else none) with
    | some l =>
      match l.data with
      | none => s.copyRead c l
      | some bs => if c.remote || c.mc then .next (s.takeReturns c l) else s.copyWrite c l bs
    | none => .next s
  | none => .next s

/-- COPY_TRANSFER. -/
def execCopyTransfer (copy lane : Nat) (s : State) : Out := copyTransfer s copy lane

/-! ## Remote deliveries (R109, R110, R122) -/

/-- The tile of a team takes part in an exchange, so traffic for it is held at its source (R335). -/
def State.moving (s : State) (t : Team) : Bool :=
  match s.gang? t.gang with
  | some { state := .saved _, .. } => false
  | _ => (s.teamTiles t).any fun pt =>
    (s.die (pt / 104)).pairs.any fun p => (p.hot ≤ pt && pt < p.hot + p.size) || (p.cool ≤ pt && pt < p.cool + p.size)

/-- The acknowledgement entries that stand for a team: of its tile, or of its context. -/
def State.ackTable (s : State) (t : Team) : List AckEntry :=
  match s.gang? t.gang with
  | some { state := .saved _, .. } => t.savedAcks
  | _ => (s.tile (s.teamTile t)).acks

/-- Replace them. -/
def State.setAckTable (s : State) (t : Team) (l : List AckEntry) : State :=
  match s.gang? t.gang with
  | some { state := .saved _, .. } => s.setTeam { t with savedAcks := l }
  | _ => let pt := s.teamTile t; s.setTile pt { s.tile pt with acks := l }

/-- One more acknowledgement for a pair of barriers; `none` where the delivery has to wait (R122). -/
def addAck (l : List AckEntry) (rt ro st so : Nat) : Option (List AckEntry) :=
  let pair (e : AckEntry) : Bool := e.recvTeam == rt && e.recvOff == ro && e.sendTeam == st && e.sendOff == so
  if l.any pair then some (l.map fun e => if pair e then { e with count := e.count + 1 } else e)
  else if 64 ≤ l.length || 4 ≤ (l.filter fun e => e.recvTeam == rt && e.recvOff == ro).length then none
  else some (l ++ [{ recvTeam := rt, recvOff := ro, sendTeam := st, sendOff := so, count := 1 }])

/-- A receiver has taken the lane, or has dropped it; the return is on its way to the sender. -/
def State.recvDone (s : State) (c : Copy) (l : CopyLane) (recv : Nat) (ack : Bool) : State :=
  let rest := l.recvs.filter fun r => r != recv
  let acked := if ack && !c.acked.contains recv then c.acked ++ [recv] else c.acked
  let c : Copy := { c with acked := acked, sent := if c.begun l recv then c.sent else c.sent ++ [(recv, l.lineNo)], lanes := c.lanes.map fun m => if m.lane = l.lane then { m with recvs := rest, back := m.back + 1 } else m }
  s.setCopy c

/-- A delivery to a team that has retired is dropped: it counts as made for the batch, and as acknowledged (R300). -/
def State.dropDelivery (s : State) (c : Copy) (l : CopyLane) (recv : Nat) : State :=
  let s := s.recvDone c l recv c.mc
  match c.mc && !c.acked.contains recv, c.bar with
  | true, some b => { s with acks := s.acks ++ [{ team := b.1, off := b.2, count := 1 }] }
  | _, _ => s

/-- The bytes, and the receiver's barrier. -/
def State.makeDelivery (s : State) (c : Copy) (l : CopyLane) (recv off : Nat) (bs : List Byte) : State :=
  let s := (s.copyInto recv off bs).recvDone c l recv c.mc
  match c.recvBar with | some o => s.deliver recv o c.n | none => s

/-- A lane that has been read is delivered to a receiver, in its window or in its saved context. For a unit that moves it is held at a
line boundary (R335). -/
def remoteDelivery (s : State) (copy lane recv : Nat) : State :=
  match s.copy? copy with
  | some c =>
    match (if s.copyMoves c && (c.remote || c.mc) then c.lanes.find? fun l => l.lane == lane else none) with
    | some l =>
      match l.data, l.dst, s.team? recv with
      | some bs, .loc _ off, some t =>
        if !l.recvs.contains recv || s.lowerFirst c l (some recv) then s
        else if t.retired then s.dropDelivery c l recv
        else if s.moving t && !c.begun l recv then s
        else if c.mc && !c.acked.contains recv then
          match c.bar, c.recvBar with
          | some b, some o =>
            match addAck (s.ackTable t) recv o b.1 b.2 with
            | some tab => (s.setAckTable t tab).makeDelivery c l recv off bs
            | none => s
          | _, _ => s
        else s.makeDelivery c l recv off bs
      | some _, _, none => if l.recvs.contains recv then s.dropDelivery c l recv else s
      | _, _, _ => s
    | none => s
  | none => s

/-- REMOTE_DELIVERY. -/
def execRemoteDelivery (copy lane recv : Nat) (s : State) : Out := .next (remoteDelivery s copy lane recv)

/-- An acknowledgement arrives at its sender barrier (R122); of a team that has retired it is dropped. -/
def ackArrival (s : State) (n : Nat) : State :=
  match s.acks[n]? with
  | some a =>
    let rest : State := { s with acks := s.acks.eraseIdx n }
    match s.team? a.team with
    | some t => if t.retired then rest else if s.moving t then s else rest.acknowledge a.team a.off a.count
    | none => rest
  | none => s

/-- ACK_ARRIVAL. -/
def execAckArrival (n : Nat) (s : State) : Out := .next (ackArrival s n)

/-! ## BANK_ARBITRATION (R297) -/

/-- The oldest request of a tile's banks that waits is the oldest copy's: accesses of instructions are served when they
issue or step (DESIGN CHOICE, log entry 11). -/
def bankArbitration (s : State) (tile : Nat) : Out :=
  match s.copies.find? fun c => s.copyTile c == tile && s.copyMoves c with
  | some c =>
    match c.lanes with
    | l :: _ => copyTransfer s c.id l.lane
    | [] => .next s
  | none => .next s

/-- BANK_ARBITRATION. -/
def execBankArbitration (tile : Nat) (s : State) : Out := bankArbitration s tile

end Sys2Proof.Machine
end

