-- ==== Sys2Proof/Machine/Distribute.lean ====
section
/-! DEFINITION. The work distributor and the dealer (16 R284, R291 to R294; 17 R305, R306, R310, R311, R319): TENANT_SERVE,
DEFICIT_CHARGE, GANG_PLACE, JOB_DEAL, CONTEXT_RESTORE, CLASS0_PREEMPT. -/
namespace Sys2Proof.Machine

/-! ## The state in which a group starts (R293, R305) -/

/-- A register of zeros, marked dirty (R136, R293). -/
def zeroSlot (w : Nat) : Slot := { data := List.replicate w 0, tag := 0, dirty := true }

/-- Registers at the start. -/
def startRegs (w b : Nat) : Regs :=
  { slots := List.replicate b (zeroSlot w), sregs := List.replicate 32 {}, pregs := List.replicate 7 {},
    bankV := List.replicate 8 { data := List.replicate w 0 }, bankS := List.replicate 4 0 }

/-- What a group of a work starts with: `l` and `index` give its spill area (R373). -/
def Work.startGroup (w : Work) (id team role index l : Nat) (entry : W64) (b : Nat) (spot : Nat × Nat) : Group :=
  { id := id, team := team, role := role, index := index, seqr := spot.1, quarter := spot.2, width := w.width, budget := b,
    codehi := BitVec.ofNat 20 (fld entry 51 32), asid := BitVec.ofNat 14 w.asid, vmid := BitVec.ofNat 8 w.vmid,
    regs := startRegs w.width b
    flow := { lpc := List.replicate w.width (lpcOf entry), fl := List.replicate w.width 0 }
    csrs := { mode := w.mode, nf := w.nf, trapvec := w.tvec, spillbase := w.spill + w64 (4096 * w.width * (16 * l + index)) }
    cf := List.replicate 12 0 }

/-- Role, entry PC and budget of each group of a team, in group order (R284). -/
def Work.groupList (w : Work) : List (Nat × W64 × Nat) :=
  w.roles.flatMap fun r => List.replicate r.2.2.1 (r.1, r.2.1, 4 * (r.2.2.2 + 1))

/-- A group becomes ready where it is placed (R295). -/
def Group.begun (g : Group) (time : Nat) : Group := { g with age := time }

/-- Place a team: its groups, its window of zeros, panels, accumulators (R293). `l` is TEAMID, `area` the number that its
spill areas go by. -/
def State.placeTeam (s : State) (w : Work) (gang l pos lt area : Nat) (f : Fit) (tweak : Group → Group) : Nat × State :=
  let (id, s) := s.takeId
  let first := s.nextId
  let gl := w.groupList
  let gs : List Group := gl.mapIdx fun i r =>
    tweak ((w.startGroup (first + i) id r.1 i area r.2.1 r.2.2 (f.spots.getD i (0, 0))).begun s.time)
  let placed := if w.localBytes = 0 then 0 else windowBytes w.localBytes
  let t : Team :=
    { id := id, work := w.id, gang := gang, l := l, pos := pos, ltile := lt, pair := w.tspan, grps := gs.map fun g => g.id
      base := f.base, bytes := w.localBytes, placed := placed, panels := List.replicate w.panels {}
      accs := List.replicate w.accs { owner := first }, slot := if w.job then area else 0 }
  let pt := s.physTile lt
  let s := s.setTile pt { s.tile pt with store := memWrite (s.tile pt).store f.base (List.replicate placed 0) }
  (id, { s with nextId := s.nextId + gs.length, teams := s.teams ++ [t], groups := s.groups ++ gs })

/-! ## What is ready for a die (R310) -/

/-- A gang that was saved, or the next gang or chunk of a work. -/
inductive Placeable where
  | saved (gang : Nat)
  | next (work : Nat)
deriving DecidableEq, Repr

/-- The work of an item. -/
def State.itemWork (s : State) (i : Placeable) : Option Work :=
  match i with
  | .saved k => (s.gang? k).bind fun k => s.work? k.work
  | .next w => s.work? w

/-- A work has a gang or chunk to be placed. -/
def Work.hasNext (w : Work) : Bool :=
  w.module = 0 && w.state == .running && !w.abort
    && (if w.job then w.rem != 0 else decide (w.nextGang * w.gangt < w.teamsN))

/-- A job has one of its 1,024 slots free (R305). -/
def State.slotsUsed (s : State) (w : Work) : List Nat := (s.teams.filter fun t => t.work == w.id && !t.retired).map fun t => t.slot

/-- First logical tile of the place that an item would get; `none` where it does not fit. -/
def State.itemTile (s : State) (i : Placeable) : Option Nat :=
  match i with
  | .saved k =>
    match s.gang? k with
    | some k => match s.work? k.work with
      | some w => (s.restoreSpot w k).map fun p => p.1
      | none => none
    | none => none
  | .next id =>
    match s.work? id with
    | some w =>
      if w.job then (if 1024 ≤ (s.slotsUsed w).length then none else (s.jobSpot w).map fun p => p.1)
      else (s.spotOf w w.nextGang).map fun p => p.1
    | none => none

/-- Dies on which a work may ever be placed. -/
def State.workDies (s : State) (w : Work) : List Nat :=
  if w.job then [w.die]
  else if w.det = 1 then
    let v := s.validTiles
    ((v[w.nextGang % max w.c 1 % max v.length 1]?).toList).map fun lt => lt / 96
  else match w.aff with
    | 1 => [0]
    | 2 => [1]
    | _ => s.dieNums

/-- Dies on which an item may ever be placed: of a saved gang those of the tiles that a restore tries. -/
def State.itemDies (s : State) (i : Placeable) : List Nat :=
  match i, s.itemWork i with
  | .saved k, some w => match s.gang? k with | some k => (s.restoreTiles w k).map fun lt => lt / 96 | none => []
  | .next _, some w => s.workDies w
  | _, none => []

/-- An item is for a die: the die of its place, or one it may wait on. -/
def State.itemOn (s : State) (die : Nat) (i : Placeable) : Bool :=
  match s.itemTile i with
  | some lt => lt / 96 == die
  | none => (s.itemDies i).contains die

/-- The first of the items with the least key. -/
def leastBy (key : Nat → Nat) : List Nat → Option Nat
  | [] => none
  | x :: t => match leastBy key t with
    | some y => if key y < key x then some y else some x
    | none => some x

/-- Saved gangs of a tenant and class that may be restored on a die, as items. -/
def State.savedItems (s : State) (die tenant cls : Nat) : List Nat :=
  (s.gangs.filter fun k => k.state == .saved false && s.spillIdle k
    && (match s.work? k.work with | some w => w.tenant == tenant && w.prio == cls | none => false)
    && s.itemOn die (.saved k.id)).map fun k => k.id

/-- Works of a tenant and class with something to place on a die. -/
def State.nextItems (s : State) (die tenant cls : Nat) : List Nat :=
  (s.works.filter fun w => w.hasNext && w.tenant == tenant && w.prio == cls && s.itemOn die (.next w.id)).map fun w => w.id

/-- The order in which a work became ready. -/
def State.seqOf (s : State) (id : Nat) : Nat := match s.work? id with | some w => w.seqNo | none => 0

/-- The tenant's oldest ready work of a class on a die; gangs that were pre-empted stand at its head, the last that returned
there first (R310, R311). -/
def State.oldest (s : State) (die tenant cls : Nat) : Option Placeable :=
  match leastBy (fun k => match s.gang? k with | some g => s.nextId - g.back | none => 0) (s.savedItems die tenant cls) with
  | some k => some (.saved k)
  | none => (leastBy s.seqOf (s.nextItems die tenant cls)).map .next

/-- All the tenant's ready work of a class on a die. -/
def State.readyItems (s : State) (die tenant cls : Nat) : List Placeable :=
  (s.savedItems die tenant cls).map .saved ++ (s.nextItems die tenant cls).map .next

/-- Weight of a tenant. -/
def Die.weight (d : Die) (tenant : Nat) : Nat := aget d.weights tenant 1

/-- An item fits on the die. -/
def State.fitsOn (s : State) (die : Nat) (i : Placeable) : Bool := match s.itemTile i with | some lt => lt / 96 == die | none => false

/-- Tenants of the works. -/
def State.tenants (s : State) : List Nat := (s.works.map fun w => w.tenant).eraseDups

/-- All ready work of a class on a die, but for that of tenants of WEIGHT 0, which is never placed. -/
def State.classItems (s : State) (die cls : Nat) : List Placeable :=
  (s.tenants.filter fun n => (s.die die).weight n != 0).flatMap fun n => s.readyItems die n cls

/-- Ready work of a class fits on the die. -/
def State.classFits (s : State) (die cls : Nat) : Bool := (s.classItems die cls).any fun i => s.fitsOn die i

/-! ## TENANT_SERVE and DEFICIT_CHARGE (R310) -/

/-- Deficit of a tenant and class. -/
def Die.deficit (d : Die) (tenant cls : Nat) : Deficit :=
  (d.deficits.find? fun x => x.tenant == tenant && x.cls == cls).getD { tenant := tenant, cls := cls }

/-- Replace it. -/
def Die.setDeficit (d : Die) (x : Deficit) : Die :=
  { d with deficits := x :: d.deficits.filter fun y => !(y.tenant == x.tenant && y.cls == x.cls) }

/-- The turn of a tenant ends (lines 5 to 7). -/
def Die.passOn (d : Die) (x : Deficit) (empty : Bool) : Die :=
  let x : Deficit := { x with deficit := if empty then min x.deficit 0 else x.deficit, credited := false }
  { d.setDeficit x with cursors := aset d.cursors x.cls ((x.tenant + 1) % 256) }

/-- Tenants in ring order from the cursor. -/
def Die.ringOrder (d : Die) (cls : Nat) : List Nat := (List.range 256).map fun i => (aget d.cursors cls 0 + i) % 256

/-- The tenant that Serve(c) stands at: from the cursor on, the first that has ready work or a turn to end. WEIGHT 0 is never
served. -/
def State.turnOf (s : State) (die cls : Nat) : Option Nat :=
  let d := s.die die
  d.ringOrder cls |>.find? fun n => d.weight n != 0 && ((d.deficit n cls).credited || (s.oldest die n cls).isSome)

/-- One decision of Serve(c): the tenant whose turn it is is credited, or its turn ends. -/
def tenantServe (s : State) (die cls : Nat) : State :=
  let d := s.die die
  match s.turnOf die cls with
  | some n =>
    let x := d.deficit n cls
    if x.credited then
      let empty := (s.oldest die n cls).isNone
      if empty || x.deficit ≤ 0 then s.setDie die (d.passOn x empty) else s
    else s.setDie die (d.setDeficit { x with deficit := x.deficit + d.weight n * 4096, credited := true })
  | none => s

/-- TENANT_SERVE. -/
def execTenantServe (die cls : Nat) (s : State) : Out := .next (tenantServe s die cls)

/-- Deficits after the local clocks of a master clock: every resident team of a cluster that had one subtracts t. -/
def deficitCharge (s : State) (die : Nat) : State :=
  (s.teams.filter fun t => !t.retired && s.physTile t.ltile / 104 == die
      && (s.cluster (clusterOf (s.physTile t.ltile))).last == s.time
      && (match s.gang? t.gang with | some k => k.resident | none => false)).foldl (fun s t =>
    match s.work? t.work with
    | some w =>
      let d := s.die die
      let x := d.deficit w.tenant w.prio
      s.setDie die (d.setDeficit { x with deficit := max (-(2 ^ 47)) (x.deficit - (if t.pair then 2 else 1)) })
    | none => s) s

/-- DEFICIT_CHARGE. -/
def execDeficitCharge (die : Nat) (s : State) : Out := .next (deficitCharge s die)

/-- The tenant rules allow the placement of an item on its die (R310). -/
def State.allowed (s : State) (i : Placeable) : Bool :=
  match s.itemTile i, s.itemWork i with
  | some lt, some w =>
    let die := lt / 96
    let x := (s.die die).deficit w.tenant w.prio
    !s.ckpt.busy && s.turnOf die w.prio == some w.tenant && x.credited && decide (0 < x.deficit)
      && s.oldest die w.tenant w.prio == some i
      && (List.range w.prio).all fun c => !s.classFits die c
  | _, _ => false

/-! ## GANG_PLACE, JOB_DEAL, CONTEXT_RESTORE -/

/-- A gang stands on its tiles: they keep no line from before, so that its groups see what preceded the launch (R301, R309,
R325). -/
def State.seat (s : State) (g : Gang) : State :=
  (s.gangTiles g).foldl State.dropCache ({ s with gangs := s.gangs ++ [g] } : State)

/-- Place the next gang of a launch (R291 to R293). -/
def State.placeGang (s : State) (w : Work) (lt : Nat) (fs : List Fit) : State :=
  let (gid, s) := s.takeId
  let k := w.nextGang
  let size := if w.tspan then 2 else 1
  let r := (fs.mapIdx fun j f => (j, f)).foldl (fun (a : List Nat × State) p =>
    let l := k * w.gangt + p.1
    let (id, s) := a.2.placeTeam w gid l p.1 (lt + p.1 * size) l p.2 id
    (a.1 ++ [id], s)) ([], s)
  let g : Gang := { id := gid, work := w.id, k := k, teams := r.1, ltile := lt, ntiles := size * w.gangt, placedAt := s.time }
  (r.2.seat g).setWork { w with nextGang := k + 1 }

/-- The next gang of a launch is placed where it fits, if the tenant rules allow it. -/
def gangPlace (s : State) (work : Nat) : State :=
  match s.work? work with
  | some w =>
    if w.job || !w.hasNext || !s.allowed (.next work) then s
    else match s.spotOf w w.nextGang with
      | some p => s.placeGang w p.1 p.2
      | none => s
  | none => s

/-- GANG_PLACE. -/
def execGangPlace (work : Nat) (s : State) : Out := .next (gangPlace s work)

/-- What a group of a chunk starts with beside R293: s0 to s3 (R305). -/
def Work.chunkGroup (w : Work) (first chunk : Nat) (g : Group) : Group :=
  let rsize := fld (word w.words 3) 47 32
  let vals : List W64 := [word w.words 2 + w64 (first * rsize), w64 chunk, w64 first, handleWord false 0 w.die w.num]
  { g with regs := { g.regs with sregs := g.regs.sregs.mapIdx fun i r => match vals[i]? with | some v => { r with val := v } | none => r } }

/-- Size of the next chunk (R306). -/
def Work.chunk (w : Work) (f : Nat) : Nat :=
  min w.rem (max (fld (word w.words 4) 31 0) ((w.rem + 2 * f - 1) / (2 * f)))

/-- Deal the next chunk of a job as a team of its own gang (R305, R306). -/
def State.deal (s : State) (w : Work) (lt : Nat) (fit : Fit) : State :=
  let f := max 1 (s.capacity w.die w.needs)
  let n := w.chunk f
  let first := fld (word w.words 3) 31 0 - w.rem
  let used := s.slotsUsed w
  let slot := ((List.range 1024).find? fun i => !used.contains i).getD 0
  let (gid, s) := s.takeId
  let (tid, s) := s.placeTeam w gid w.ordinal 0 lt slot fit (w.chunkGroup first n)
  let g : Gang := { id := gid, work := w.id, k := w.ordinal, teams := [tid], ltile := lt, ntiles := 1, placedAt := s.time }
  (s.seat g).setWork
    { w with rem := w.rem - n, ordinal := w.ordinal + 1, out := w.out + 1, state := if w.rem - n = 0 then .dealt else .running }

/-- The next chunk of a job is dealt, if the tenant rules allow it. -/
def jobDeal (s : State) (work : Nat) : State :=
  match s.work? work with
  | some w =>
    if !w.job || !w.hasNext || !s.allowed (.next work) then s
    else match s.jobSpot w with
      | some p => s.deal w p.1 p.2
      | none => s
  | none => s

/-- JOB_DEAL. -/
def execJobDeal (work : Nat) (s : State) : Out := .next (jobDeal s work)

/-- A saved gang is restored where it fits, if the tenant rules allow it (R311, R375), once the stores that it left behind are
performed (R279). -/
def contextRestore (s : State) (gang : Nat) : Out :=
  match s.gang? gang with
  | some k =>
    match s.work? k.work with
    | some w =>
      if k.state != .saved false || !s.spillIdle k || s.pathAhead k || !s.allowed (.saved gang) then .next s
      else match s.restoreSpot w k with
        | some spot => s.restoreGang k spot
        | none => .next s
    | none => .next s
  | none => .next s

/-- CONTEXT_RESTORE. -/
def execContextRestore (gang : Nat) (s : State) : Out := contextRestore s gang

/-! ## CLASS0_PREEMPT (R311) -/

/-- A job waits for one of its slots, and for no room (R305). -/
def State.slotsFull (s : State) (i : Placeable) : Bool :=
  match i, s.itemWork i with
  | .next _, some w => w.job && decide (1024 ≤ (s.slotsUsed w).length)
  | _, _ => false

/-- Class-0 work is ready on a die and does not fit. -/
def State.class0Waits (s : State) (die : Nat) : Bool := (s.classItems die 0).any fun i => (s.itemTile i).isNone && !s.slotsFull i

/-- A pre-emption on the die is still under way. -/
def State.preempting (s : State) (die : Nat) : Bool :=
  s.gangs.any fun k => (k.state == .stopping false || k.preempt) && s.gangDie k == die

/-- Class of a gang. -/
def State.gangClass (s : State) (k : Gang) : Nat := match s.work? k.work with | some w => w.prio | none => 0

/-- Gangs of a class on a die that may be pre-empted. -/
def State.victims (s : State) (die cls : Nat) : List Gang :=
  s.gangs.filter fun k => (k.state == .running || k.state == .stopping true) && !k.preempt && s.gangDie k == die && s.gangClass k == cls && s.poolFits k

/-- The most recently placed of a list; of two placed in one clock, the one with the larger number. -/
def latest : List Gang → Option Gang
  | [] => none
  | k :: t => match latest t with
    | some m => if m.placedAt < k.placedAt || (m.placedAt == k.placedAt && m.id < k.id) then some k else some m
    | none => some k

/-- The distributor asks the next gang in the order of R311 to stop. -/
def class0Preempt (s : State) (die : Nat) : State :=
  if !s.class0Waits die || s.preempting die then s
  else match ([3, 2, 1].findSome? fun c => latest (s.victims die c)) with
    | some k => s.askPreempt k
    | none => s

/-- CLASS0_PREEMPT. -/
def execClass0Preempt (die : Nat) (s : State) : Out := .next (class0Preempt s die)

end Sys2Proof.Machine
end

