-- ==== Sys2Proof/Machine/Host.lean ====
section
/-! DEFINITION. Aelmel: boot, recovery, attestation (23 R398 to R401): MODULE_RESET, AELMEL_VERIFY, AELMEL_BOOT,
AELCMD_VERIFY_BOOT, AELCMD_ATTEST, RECBUF_WRITE; the host and the storage port (14 R272, R277; 22 R395): HOST_WRITE,
HOST_READ, STORAGE_PORT_TRANSFER; the checkpoint (22 R397): CKPT_GO, CKPT_COMPLETE, CKPT_ERR_CLEAR. -/
namespace Sys2Proof.Machine

/-! ## Images (R398) -/

/-- A 64-bit field of an image. -/
def imageW64 (m : Mem) (off : Nat) : Nat := bytesNat (memRead m off 8)

/-- Body bytes of an image. -/
def imageLen (m : Mem) : Nat := imageW64 m 0x10

/-- Offset of the entry in the body. -/
def imageEntry (m : Mem) : Nat := imageW64 m 0x18

/-- Bytes of an image that its signature covers. -/
def imageSigned (m : Mem) : List Byte := memRead m 0 0x100 ++ memRead m 0x200 (imageLen m)

/-- The measurement: 64 bytes of SHAKE256 over header and body. -/
def imageMeasure (m : Mem) : List Byte := shake256 (memRead m 0 (0x200 + imageLen m)) 64

/-- A field that breaks R398. -/
def imageBad (m : Mem) : Bool :=
  imageW64 m 0 != 0x39574643 || imageLen m % 4096 != 0 || 2 ^ 26 < imageLen m || imageEntry m % 4 != 0
    || imageLen m ≤ imageEntry m || (memRead m 0x20 0xE0).any (fun b => b != 0) || (memRead m 0x172 0x8E).any fun b => b != 0

/-- REASON of a refused image: 1 bad field, 2 bad signature, 3 version below the floor, in this order (DEDUCED, log entry 21). -/
def Aelmel.refuses (a : Aelmel) (m : Mem) : Option Nat :=
  if imageBad m then some 1
  else if !Config.firmwareSigned (imageSigned m) (memRead m 0x100 114) then some 2
  else if imageW64 m 8 < a.floor then some 3
  else none

/-- The image being verified. -/
def Aelmel.image (a : Aelmel) : Mem := if a.fromBuf then a.recbuf else a.flash

/-! ## The states of R399 -/

/-- Module reset: what the flash, the fuses, the stacks and the tiles themselves hold stays (DESIGN CHOICE, log entry 20). -/
def moduleReset (s : State) : State :=
  let a := s.aelmel
  let r := State.resetOf s.part
  { r with
      aelmel := { r.aelmel with flash := a.flash, flashOk := a.flashOk, floor := a.floor, boots := a.boots }
      mem := s.mem, badBursts := s.badBursts
      tiles := s.tiles.map fun p => (p.1, ({ temp := p.2.temp, failed := p.2.failed, rows := p.2.rows } : Tile))
      notes := s.notes, sends := s.sends, sched := s.sched, fresh := s.fresh, nextId := s.nextId }

/-- MODULE_RESET. -/
def execModuleReset (s : State) : Out := .next (moduleReset s)

/-- From RESET, Aelmel reads the flash header and goes to VERIFY, or to RECOVERY with REASON 4; in VERIFY it checks the
image and records its measurement. -/
def aelmelVerify (s : State) : State :=
  let a := s.aelmel
  match a.state with
  | .reset =>
    if a.flashOk then { s with aelmel := { a with state := .verify, fromBuf := false, verified := false } }
    else { s with aelmel := { a with state := .recovery, reason := 4 } }
  | .verify =>
    if a.verified then s
    else match a.refuses a.image with
      | some r => { s with aelmel := { a with state := .recovery, reason := r } }
      | none => { s with aelmel := { a with verified := true, measure := imageMeasure a.image } }
  | _ => s

/-- AELMEL_VERIFY. -/
def execAelmelVerify (s : State) : Out := .next (aelmelVerify s)

/-- A stoker core started at an entry. -/
def startedCore (entry n : Nat) : Group :=
  let g := coreAtReset n
  { g with hold := .none, codehi := BitVec.ofNat 20 (entry / 2 ^ 32)
           flow := { g.flow with lpc := List.replicate Config.coreWidth (w32 entry) } }

/-- Aelmel boots the image that it has verified: the body goes to device physical address 0, TIME to 0, and every stoker
core starts at ENTRY; an image of the recovery buffer goes to the flash first. -/
def aelmelBoot (s : State) : State :=
  let a := s.aelmel
  if a.state == .verify && a.verified then
    let m := a.image
    { s with
        time := 0
        mem := memWrite s.mem 0 (memRead m 0x200 (imageLen m))
        groups := (List.range s.ncores).map (startedCore (imageEntry m)) ++ s.groups.filter fun g => g.core.isNone
        aelmel := { a with
          state := .run, reason := 0, boots := a.boots + 1, verified := false, fromBuf := false
          flash := if a.fromBuf then memWrite [] 0 (memRead m 0 (0x200 + imageLen m)) else a.flash
          flashOk := a.flashOk || a.fromBuf } }
  else s

/-- AELMEL_BOOT. -/
def execAelmelBoot (s : State) : Out := .next (aelmelBoot s)

/-- AELCMD_VERIFY_BOOT. -/
def execAelcmdVerifyBoot (s : State) : Out := .next (aelcmdVerifyBoot s)

/-! ## Attestation and the recovery buffer (R400, R401) -/

/-- AELCMD_ATTEST. -/
def execAelcmdAttest (s : State) : Out := .next (aelcmdAttest s)

/-- RECBUF_WRITE. -/
def execRecbufWrite (off : Nat) (bytes : List Byte) (s : State) : Out := .next (recbufWrite s off bytes)

/-! ## The host (R272, R396, R400) -/

/-- A host write into BAR0; AELSTAT alone answers in RESET. -/
def hostRegWrite (s : State) (off : Nat) (bs : List Byte) : Out :=
  if s.aelmel.state == .reset then .next s
  else if aelmelHolds off bs.length then .next (s.regWrite off bs)
  else .fault .deviceRegister

/-- A range lies in device memory, or in the host window. -/
def State.hostRange (s : State) (addr n : Nat) : Bool :=
  (s.isMemory addr && s.isMemory (addr + (n - 1))) || (isHostWindow addr && isHostWindow (addr + (n - 1)))

/-- The host rings the doorbell of a die's command queue through BAR2. The processor starts entries as PROD and CONS stand, rung or not
(R394), so the ring itself is all that changes. -/
def hostRing (s : State) (die : Nat) : State :=
  if s.aelmel.state == .run && die < s.ndies then s.setDie die { s.die die with rung := true } else s

/-- A host write: to a register of Aelmel, to a doorbell, or at home slices while the module runs. -/
def hostWrite (s : State) (addr : Nat) (bs : List Byte) : Out :=
  if isRegSpace addr then hostRegWrite s (addr - barBase) bs
  else if bar2Base ≤ addr then .next (hostRing s ((addr - bar2Base) / 8))
  else if s.aelmel.state == .run && s.hostRange addr bs.length then .next (s.homeWriteAll addr bs 0)
  else .next s

/-- HOST_WRITE. -/
def execHostWrite (addr : Nat) (bytes : List Byte) (s : State) : Out := hostWrite s addr bytes

/-- The host has its bytes. -/
def State.answer (s : State) (addr : Nat) (bs : List Byte) : Out := .next { s with notes := s.notes ++ [.readReturned addr bs] }

/-- A host read of BAR0; AELSTAT alone answers in RESET. -/
def hostRegRead (s : State) (addr n : Nat) : Out :=
  let off := addr - barBase
  if s.aelmel.state == .reset && !(off + n ≤ 8) then .next s
  else if aelmelHolds off n then s.answer addr ((List.range n).map fun i => s.regByte (off + i))
  else .fault .deviceRegister

/-- A host read: of a register of Aelmel, of the identity key and its certificate (R401), or at home slices while the module runs. The host is no master of R49: it is told
nothing of an error in what it reads (DESIGN CHOICE, log entry 54). -/
def hostRead (s : State) (addr n : Nat) : Out :=
  if isRegSpace addr then hostRegRead s addr n
  else if mgmtBase ≤ addr then
    if s.aelmel.state != .reset && mgmtHolds (addr - mgmtBase) n then s.answer addr ((List.range n).map fun i => mgmtByte (addr - mgmtBase + i))
    else .next s
  else if s.aelmel.state == .run && s.hostRange addr n then s.answer addr (s.homeRead addr n)
  else .next s

/-- HOST_READ. -/
def execHostRead (addr width : Nat) (s : State) : Out := hostRead s addr width

/-! ## The storage port (R277, R395) -/

/-- A queue of the port waits on a token (R370). -/
def State.portWaits (s : State) (queue : Nat) : Bool := s.tokens.any fun t => t.who == .port queue

/-- The kernel binds a queue of the port to an agent: no rule says how, so the binding comes with a transfer of the queue (R49; DESIGN
CHOICE, log entry 45). -/
def State.bindPort (s : State) (q : PortQueue) : State :=
  match q.bind with
  | some a => { s with portQueues := aset s.portQueues q.queue a }
  | none => s

/-- Write bytes to parts in the stacks, past the slices; whole bursts take away their errors (R371). -/
def State.stackWrite (s : State) : List Piece → List Byte → State
  | [], _ => s
  | p :: t, bs =>
    (if isRegSpace p.pa then s.regWrite (p.pa - barBase) (bs.take p.n)
    else { s with
        mem := memWrite s.mem p.pa (bs.take p.n)
        badBursts := s.badBursts.filterMap (BadBurst.rewrite 0 p.pa p.n) } : State).stackWrite t (bs.drop p.n)

/-- The storage port moves bytes between its controller and the stacks, under the ASID bound to its queue (R49, R277, R395; past the
slices: DEDUCED, log entry 31; in VM 0: DESIGN CHOICE, log entry 45); a checkpoint holds it (R397). -/
def portMove (s : State) (queue asid va : Nat) (toStack : Bool) (bs : List Byte) : Out :=
  let n := bs.length
  let ag : Agent := { master := .storPort, asid := asid, vmid := 0 }
  let wait (s : State) (r : FaultRec) : Out := .next (match s.postFault r (.port queue) with | some p => p.2 | none => s)
  match s.resolve ag (w64 va) n (if toStack then .write else .read) none with
  | (s, .fault r) => wait s r
  | (s, .perm) => wait s (mkFault ag va 0 0x20 0 n)
  | (s, .bad pa) => wait s (mkFault ag va pa (s.badCause pa) 0 n)
  | (_, .reg) => .fault .deviceRegister
  | (s, .ok ps) =>
    if toStack then .next (s.stackWrite ps bs)
    else
      match ({ s with sram := [], badSlices := [] } : State).badIn (fun _ => true) va ps with
      | some (at', pa) => wait s (mkFault ag at' pa 0x21 0 n)
      | none =>
        let part (p : Piece) : List Byte := if isRegSpace p.pa then s.homeRead p.pa p.n else memRead s.mem p.pa p.n
        .next { s with sends := s.sends ++ [.storage asid va (ps.flatMap part)] }

/-- A transfer of a queue of the storage port; none before the queue is bound, or while it waits. -/
def storageTransfer (s : State) (q : PortQueue) (va : Nat) (toStack : Bool) (bs : List Byte) : Out :=
  if !s.hasStorage || s.portWaits q.queue || bs.isEmpty || s.ckpt.busy then .next s
  else
    let s := s.bindPort q
    match s.portQueues.find? fun p => p.1 == q.queue with
    | some (_, asid) => portMove s q.queue asid va toStack bs
    | none => .next s

/-- STORAGE_PORT_TRANSFER. -/
def execStoragePortTransfer (port : PortQueue) (va : Nat) (toStack : Bool) (bytes : List Byte) (s : State) : Out :=
  storageTransfer s port va toStack bytes

/-! ## The checkpoint (R397) -/

/-- CKPT_ERR_CLEAR. -/
def execCkptErrClear (s : State) : Out := .next { s with ckpt := { s.ckpt with err := false } }

/-- Every gang that runs is asked to stop. -/
def State.stopAll (s : State) : State := s.gangs.foldl State.askPreempt s

/-- GO: the gangs are pre-empted. -/
def ckptGo (s : State) : State :=
  if s.ckpt.busy && !s.ckpt.started then { s.stopAll with ckpt := { s.ckpt with started := true } } else s

/-- CKPT_GO. -/
def execCkptGo (s : State) : Out := .next (ckptGo s)

/-- The gang is saved, or stands stopped where its pool has no room. -/
def State.gangHeld (s : State) (k : Gang) : Bool :=
  match k.state with
  | .saved _ => true
  | .retired => true
  | .stopping false => s.gangQuiet k && !s.poolFits k
  | _ => false

/-- Every modified line of the slices is written back; the slices keep it. -/
def State.writeBackAll (s : State) : State :=
  let t := s.sram.foldl State.intoStack s
  { t with sram := t.sram.map fun l => { l with modified := false } }

/-- Device memory below an address, laid out in the pool. -/
def State.poolImage (s : State) (limit : Nat) : Mem :=
  (s.mem.filter fun c => c.1 < s.memEnd && c.1 < limit).map fun c => (s.ckpt.dest.toNat * 2 ^ 16 + c.1, c.2)

/-- Gangs that stopped without being saved go on. -/
def State.goOn (s : State) : State :=
  s.gangs.foldl (fun s k => if k.state == .stopping false then (s.setGang { k with state := .running }).releaseStops k else s) s

/-- The first line of device memory with an uncorrectable error, at which the copy stops (R48; DESIGN CHOICE, log entry 54). -/
def State.badLine (s : State) : Option Nat :=
  ((s.badBursts.map fun b => b.burst / 2).filter fun l => l * 128 < s.memEnd).min?

/-- The copy ends, or fails at a line that the spec leaves free or at one with an error, and every held master resumes. -/
def ckptComplete (s : State) (ok : Bool) : State :=
  if !s.ckpt.busy || !s.ckpt.started then s
  else if !s.gangs.all s.gangHeld then s.stopAll
  else
    let s := s.writeBackAll
    let (v, s) := s.takeFree
    let bad := s.badLine
    let limit := min (if ok then s.memEnd else v.toNat % (s.memEnd / 128) * 128) (match bad with | some l => l * 128 | none => s.memEnd)
    let k := s.ckpt
    let s : State := { s with
      sends := s.sends ++ [.checkpoint k.peer k.links.toNat (s.poolImage limit)]
      ckpt := { k with busy := false, started := false, err := k.err || !ok || bad.isSome } }
    s.goOn

/-- CKPT_COMPLETE. -/
def execCkptComplete (ok : Bool) (s : State) : Out := .next (ckptComplete s ok)

end Sys2Proof.Machine
end

