-- ==== Sys2Proof/Machine/Lanes.lean ====
section
/-! DEFINITION. Lane exchange XL (06 R147, R148) and predicate logic PR (06 R149). -/
namespace Sys2Proof.Machine

/-! ## Window and scalar forms -/

/-- A vector form without flags: tags, checks, result tag, lanes. -/
def xlVec (tags : Ctx → List TagCheck) (bad : Ctx → Bool) (tag : Ctx → BitVec 4) (f : Ctx → Nat → W32) (c : Ctx)
    (s : State) : Res :=
  checked c s (tags c) [(bad c, illop 0x0D)] (.ok (c.putV s 0 (f c) (tag c)))

/-- A scalar form, which acts once over the executing lanes. -/
def xlScal (tags : Ctx → List TagCheck) (bad : Ctx → Bool) (f : Ctx → W64) (c : Ctx) (s : State) : Res :=
  checked c s (tags c) [(bad c, illop 0x0D)] (c.once s (.ok (c.putS s (f c))))

/-- No check of operand values. -/
def never (_ : Ctx) : Bool := false

/-- A and B carry equal tags, of those accepted for A. -/
def sameTags (ok : Option (List (BitVec 4))) (c : Ctx) : List TagCheck :=
  (match ok with | some l => c.needA l | none => []) ++ c.needBw [c.tagA 0]

/-- Tags of the half-word slides. -/
def halfTags : List (BitVec 4) := [0, 5, 3, 4]

/-- The low and the high half of a register. -/
def loHalf (x : W32) : BitVec 16 := x.extractLsb' 0 16
def hiHalf (x : W32) : BitVec 16 := x.extractLsb' 16 16

/-- Source A of the executing lanes, signed. -/
def Ctx.signedA (c : Ctx) : List Int := c.lanes.map fun i => (c.opA i).toInt

/-- Largest and smallest of a list of integers. -/
def listMax (l : List Int) : Int := l.foldl max (l.headD 0)
def listMin (l : List Int) : Int := l.foldl min (l.headD 0)

/-- A predicate form that writes one bit to every executing lane. -/
def xlAll (p : Ctx → Bool) (c : Ctx) (s : State) : Res :=
  checked c s [] [] (.ok (c.putP s c.fd (if p c then BitVec.allOnes 64 else 0)))

/-- `perm`. -/
def execPerm (o : Ops) (s : State) : Out :=
  issue 0x0B 0 o (xlVec (fun c => c.needBw intTags) never (fun c => c.tagA 0)
    fun c i => c.opA ((c.opBw i).toNat % c.w)) s

/-- `slideup`. -/
def execSlideup (o : Ops) (s : State) : Out :=
  issue 0x0B 1 o (xlVec (sameTags none) (fun c => c.w ≤ c.fc) (fun c => c.tagA 0)
    fun c i => if c.fc ≤ i then c.opA (i - c.fc) else c.opBw (c.w - c.fc + i)) s

/-- `slidedn`. -/
def execSlidedn (o : Ops) (s : State) : Out :=
  issue 0x0B 2 o (xlVec (sameTags none) (fun c => c.w ≤ c.fc) (fun c => c.tagA 0)
    fun c i => if i + c.fc < c.w then c.opA (i + c.fc) else c.opBw (i + c.fc - c.w)) s

/-- `slideh`. -/
def execSlideh (o : Ops) (s : State) : Out :=
  issue 0x0B 3 o (xlVec (sameTags (some halfTags)) never (fun c => c.tagA 0)
    fun c i => loHalf (c.opA i) ++ hiHalf (if i = 0 then c.opBw (c.w - 1) else c.opA (i - 1))) s

/-- `slidehd`. -/
def execSlidehd (o : Ops) (s : State) : Out :=
  issue 0x0B 4 o (xlVec (sameTags (some halfTags)) never (fun c => c.tagA 0)
    fun c i => loHalf (if i + 1 < c.w then c.opA (i + 1) else c.opBw 0) ++ hiHalf (c.opA i)) s

/-- `pmov` to a window register. -/
def execPmovXl (o : Ops) (s : State) : Out :=
  issue 0x0B 5 o (xlVec noTags never (fun _ => tI32)
    fun c i => if (c.g.pval (c.g.pref c.fa)).getLsbD i then 1 else 0) s

/-- `vany`. -/
def execVany (o : Ops) (s : State) : Out := issue 0x0B 6 o (xlAll fun c => c.lanes.any fun j => c.opA j != 0) s

/-- `vall`. -/
def execVall (o : Ops) (s : State) : Out := issue 0x0B 7 o (xlAll fun c => c.lanes.all fun j => c.opA j != 0) s

/-- `ballot`. -/
def execBallot (o : Ops) (s : State) : Out :=
  issue 0x0B 8 o (xlScal (fun c => c.needA intTags) never fun c => maskOf (c.lanes.filter fun j => c.opA j != 0)) s

/-- The pairs of bits that `bits2` gathers from half `h` of the lanes. -/
def bits2Word (c : Ctx) : W64 :=
  (List.range 32).foldl (fun x m =>
    let j := 32 * c.fb + m
    if c.lanes.contains j then x ||| (w64 ((c.opA j).toNat % 4) <<< (2 * m)) else x) 0

/-- `bits2`. -/
def execBits2 (o : Ops) (s : State) : Out :=
  issue 0x0B 9 o (xlScal (fun c => c.needA intTags) (fun c => 1 < c.fb || (c.fb == 1 && c.w < 64)) bits2Word) s

/-- `lredadd`. -/
def execLredadd (o : Ops) (s : State) : Out :=
  issue 0x0B 10 o (xlScal (fun c => c.needA intTags) never fun c => wrap 64 (c.signedA.foldl (· + ·) 0)) s

/-! ### Sums of F32 (R148) -/

/-- One addition of two values read already, MODE.RM and the flush of results apply. -/
def addF32 (mode : W64) (x y : Nat) : Nat × W64 :=
  fmtF32.result mode (modeRm mode) (fAddV (modeRm mode) (fmtF32.decode x) (fmtF32.decode y))

/-- A value as it is written. -/
def writeF32 (mode : W64) (x : Nat) : Nat × W64 := fmtF32.put mode (modeRm mode) (fmtF32.decode x)

/-- A lane's value through `InF`, as a code; a NaN is canonical. -/
def readF32 (mode : W64) (x : W32) : Nat := fmtF32.code (fmtF32.inF mode x.toNat)

/-- One level of the tree. -/
def treeLevel (mode : W64) : List (Option Nat) → List (Option Nat) × W64
  | x :: y :: t =>
    let r := treeLevel mode t
    match x, y with
    | some a, some b =>
      let p := addF32 mode a b
      (some p.1 :: r.1, p.2 ||| r.2)
    | some a, none => (some a :: r.1, r.2)
    | none, y => (y :: r.1, r.2)
  | l => (l, 0)

/-- The root of the tree over `k` levels. -/
def treeFold (mode : W64) : Nat → List (Option Nat) × W64 → List (Option Nat) × W64
  | 0, r => r
  | k + 1, r =>
    let q := treeLevel mode r.1
    treeFold mode k (q.1, r.2 ||| q.2)

/-- `lredfadd`. -/
def redFadd (c : Ctx) : W64 × W64 :=
  let leaves := (List.range c.w).map fun i => if c.act.getLsbD i then some (readF32 c.mode (c.opA i)) else none
  let r := treeFold c.mode 6 (leaves, 0)
  match r.1 with
  | some x :: _ =>
    let p := writeF32 c.mode x
    (w64 p.1, r.2 ||| p.2)
  | _ => (0, r.2)

/-- `lredfadd`. -/
def execLredfadd (o : Ops) (s : State) : Out :=
  issue 0x0B 11 o (fun c s => checked c s (c.needA [tF32]) [] (c.once s (.ok (c.putSF s (redFadd c))))) s

/-- `lredmax`. -/
def execLredmax (o : Ops) (s : State) : Out :=
  issue 0x0B 12 o (xlScal (fun c => c.needA intTags) never fun c => wrap 64 (listMax c.signedA)) s

/-- `lredmin`. -/
def execLredmin (o : Ops) (s : State) : Out :=
  issue 0x0B 13 o (xlScal (fun c => c.needA intTags) never fun c => wrap 64 (listMin c.signedA)) s

/-- `lscanadd`. -/
def execLscanadd (o : Ops) (s : State) : Out :=
  issue 0x0B 14 o (xlVec (fun c => c.needA intTags) never (fun _ => tI32)
    fun c i => (c.lanes.filter fun j => j ≤ i).foldl (fun x j => x + c.opA j) 0) s

/-- The running sums of `lscanfadd`: lane, code, flags. -/
def scanFadd (c : Ctx) : List (Nat × Nat) × W64 :=
  let r := c.lanes.foldl (fun (acc : Option Nat × List (Nat × Nat) × W64) i =>
    let x := readF32 c.mode (c.opA i)
    let p := match acc.1 with | none => writeF32 c.mode x | some a => addF32 c.mode a x
    (some p.1, acc.2.1 ++ [(i, p.1)], acc.2.2 ||| p.2)) (none, [], 0)
  (r.2.1, r.2.2)

/-- `lscanfadd`. -/
def execLscanfadd (o : Ops) (s : State) : Out :=
  issue 0x0B 15 o (fun c s =>
    let r := scanFadd c
    checked c s (c.needA [tF32]) []
      (.ok (c.upd (c.putV s 0 (fun i => w32 (aget r.1 i 0)) tF32) fun g => g.orFlags r.2))) s

/-- `laneid`. -/
def execLaneid (o : Ops) (s : State) : Out := issue 0x0B 16 o (xlVec noTags never (fun _ => tI32) fun _ i => w32 i) s

/-- `v2s`. -/
def execV2s (o : Ops) (s : State) : Out :=
  issue 0x0B 17 o (xlScal noTags (fun c => c.w ≤ c.fb) fun c => sext32 (c.opA c.fb)) s

/-- `s2v`. -/
def execS2v (o : Ops) (s : State) : Out :=
  issue 0x0B 18 o (xlVec noTags never (fun _ => tRAW) fun c _ => c.sA.extractLsb' 0 32) s

/-- `firstlane`. -/
def execFirstlane (o : Ops) (s : State) : Out :=
  issue 0x0B 19 o (xlScal noTags never fun c => w64 (c.lanes.headD 0)) s

/-! ## PR -/

/-- Predicate sources A and B. -/
def Ctx.pA (c : Ctx) : Mask := c.g.pval (c.g.pref c.fa)
def Ctx.pB (c : Ctx) : Mask := c.g.pval (c.g.pref c.fb)

/-- A predicate result in the executing lanes. -/
def prOp (f : Ctx → Mask) (c : Ctx) (s : State) : Res := checked c s [] [] (.ok (c.putP s c.fd (f c)))

/-- `pand`. -/
def execPand (o : Ops) (s : State) : Out := issue 0x0D 0 o (prOp fun c => c.pA &&& c.pB) s

/-- `por`. -/
def execPor (o : Ops) (s : State) : Out := issue 0x0D 1 o (prOp fun c => c.pA ||| c.pB) s

/-- `pxor`. -/
def execPxor (o : Ops) (s : State) : Out := issue 0x0D 2 o (prOp fun c => c.pA ^^^ c.pB) s

/-- `pnot`. -/
def execPnot (o : Ops) (s : State) : Out := issue 0x0D 3 o (prOp fun c => ~~~c.pA) s

/-- `pmov` between predicates. -/
def execPmovPr (o : Ops) (s : State) : Out := issue 0x0D 4 o (prOp fun c => c.pA) s

/-- `ptov`: every lane, active or not. -/
def execPtov (o : Ops) (s : State) : Out :=
  issue 0x0D 5 o (xlScal noTags never fun c => c.pA &&& fullMask c.w) s

/-- `pcnt`. -/
def execPcnt (o : Ops) (s : State) : Out := issue 0x0D 6 o (xlScal noTags never fun c => w64 (countMask c.w (c.pA &&& c.act))) s

/-- `pall`. -/
def execPall (o : Ops) (s : State) : Out :=
  issue 0x0D 7 o (xlAll fun c => c.lanes.all fun j => c.pA.getLsbD j) s

end Sys2Proof.Machine
end

