-- ==== Sys2Proof/Machine/Moves.lean ====
section
/-! DEFINITION. Moves and state access MV (06 R143 to R146); `movlpc` is in Control.lean, `movp` and `movpr` in
Matrix.lean. -/
namespace Sys2Proof.Machine

/-- `mov`. -/
def execMov (o : Ops) (s : State) : Out :=
  issue 0x0C 0 o (xlVec noTags never (fun c => c.tagA 0) fun c i => c.opA i) s

/-- `movi`. -/
def execMovi (o : Ops) (s : State) : Out :=
  issue 0x0C 1 o (xlVec noTags never (fun c => c.e.xmod) fun c _ => c.lit.extractLsb' 0 32) s

/-- `movs`. -/
def execMovs (o : Ops) (s : State) : Out := issue 0x0C 2 o (xlScal noTags never fun c => c.sA) s

/-- `movsi`. -/
def execMovsi (o : Ops) (s : State) : Out := issue 0x0C 3 o (xlScal noTags never fun c => c.lit) s

/-! ### Indexed moves (R144) -/

/-- An index names a non-resident register (R129). -/
def nonResident (g : Group) (j : Nat) : Bool := blockNonResident g j 1

/-- The checks on the indexes of the executing lanes: range, then residency (R153). -/
def Ctx.indexChecks (c : Ctx) (idx : Nat → W32) : List (Bool × (Cause × W64)) :=
  [(c.lanes.any fun i => 64 ≤ (idx i).toNat, illop 0x0D),
   (c.lanes.any fun i => nonResident c.g (idx i).toNat, (.wunf, w64 (c.g.flow.lo - c.g.flow.wb)))]

/-- The common tag of a list of tags; RAW where they differ or there is none. -/
def commonTag : List (BitVec 4) → BitVec 4
  | [] => tRAW
  | t :: l => if l.all fun u => u == t then t else tRAW

/-- `movx`. -/
def movx (c : Ctx) (s : State) : Res :=
  let at' (i : Nat) : Slot := c.g.slot (c.g.wref false (c.opA i).toNat)
  checked c s (c.needA intTags) (c.indexChecks c.opA)
    (.ok (c.putV s 0 (fun i => (at' i).data.getD i 0) (commonTag (c.lanes.map fun i => (at' i).tag))))

/-- `movx`. -/
def execMovx (o : Ops) (s : State) : Out := issue 0x0C 4 o movx s

/-- `movxw`: a register it writes that a variable-latency instruction will write makes it stall (R39). -/
def movxw (c : Ctx) (s : State) : Res :=
  let idx (i : Nat) : Nat := (c.opDk 0 i).toNat
  let regs := (c.lanes.map idx).eraseDups
  checked c s (c.needD intTags) (c.indexChecks (c.opDk 0)) <|
    if s.destBusy c.g (regs.map (c.g.wref false)) then .stall .dest
    else .ok (c.upd s fun g => regs.foldl (fun g j =>
      g.writeLanes (c.g.wref false j) (maskOf (c.lanes.filter fun i => idx i == j)) c.opA (c.tagA 0)) g)

/-- `movxw`. -/
def execMovxw (o : Ops) (s : State) : Out := issue 0x0C 5 o movxw s

/-- `tagrd`. -/
def execTagrd (o : Ops) (s : State) : Out :=
  issue 0x0C 8 o (xlScal noTags never fun c => (c.tagA 0).zeroExtend 64) s

/-- `rdlpc`: every lane of the group. -/
def rdlpc (c : Ctx) (s : State) : Res :=
  .ok (c.upd s fun g => g.writeLanes (c.dRef 0) (fullMask g.width)
    (fun i => if g.flow.exited.getLsbD i then 0xFFFFFFFF else g.flow.lpc.getD i 0) tRAW)

/-- `rdlpc`. -/
def execRdlpc (o : Ops) (s : State) : Out := issue 0x0C 12 o rdlpc s

/-! ### CSRs -/

/-- `csrrd`. -/
def execCsrrd (o : Ops) (s : State) : Out := issue 0x0C 9 o csrrd s

/-- `csrwr`. -/
def execCsrwr (o : Ops) (s : State) : Out := issue 0x0C 10 o csrwr s

/-- `csrrd` of FLAGS. -/
def execFlagsRead (o : Ops) (s : State) : Out :=
  issue 0x0C 9 o (fun c s => c.once s
    (if s.flagsReady c.g then .ok (c.putS s c.g.csrs.flags) else .stall .order)) s

/-- `csrwr` of FLAGS. -/
def execFlagsWrite (o : Ops) (s : State) : Out := issue 0x0C 10 o (csrwrOf 0x001) s

/-- `csrwr` of WINSTAT. -/
def execWinstatWrite (o : Ops) (s : State) : Out := issue 0x0C 10 o (csrwrOf 0x021) s

/-- `csrwr` of SPILLBASE. -/
def execSpillbaseWrite (o : Ops) (s : State) : Out := issue 0x0C 10 o (csrwrOf 0x020) s

/-- `csrwr` of TRAPPC. -/
def execTrappcWrite (o : Ops) (s : State) : Out := issue 0x0C 10 o (csrwrOf 0x032) s

end Sys2Proof.Machine
end

