-- ==== Sys2Proof/Machine/Packed.lean ====
section
/-! DEFINITION. Packed integers: PK, major 0x05 (08 R183, R184). -/
namespace Sys2Proof.Machine

/-- Half `h` of a register as I16. -/
def half (x : W32) (h : Nat) : Int := (x.extractLsb' (16 * h) 16).toInt

/-- Byte `k` of a register as I8. -/
def byteI (x : W32) (k : Nat) : Int := (x.extractLsb' (8 * k) 8).toInt

/-- A register of two halves. -/
def packHalves (lo hi : BitVec 16) : W32 := hi ++ lo

/-- An operation on each half, wrapping. -/
def halves (f : Int → Int → Int) (a b : W32) : W32 × W64 :=
  (packHalves (wrap 16 (f (half a 0) (half b 0))) (wrap 16 (f (half a 1) (half b 1))), 0)

/-- An operation on each half, saturating (SAT). -/
def halvesSat (f : Int → Int → Int) (a b : W32) : W32 × W64 :=
  let x := satFlag 16 (f (half a 0) (half b 0))
  let y := satFlag 16 (f (half a 1) (half b 1))
  (packHalves x.1 y.1, x.2 ||| y.2)

/-- Tags of the packed class of R183. -/
def rawI16x2 : List (BitVec 4) := [0, 5]
def rawI8x4 : List (BitVec 4) := [0, 6]

/-- Checks of A, and of A and B, against one list of tags. -/
def pkA (ok : List (BitVec 4)) (c : Ctx) : List TagCheck := c.needA ok
def pkAB (ok : List (BitVec 4)) (c : Ctx) : List TagCheck := c.needA ok ++ c.needB ok

/-- A minor on A and B of RAW or I16x2 with an I16x2 result. -/
def pk2 (f : W32 → W32 → W32 × W64) : Ctx → State → Res :=
  vecOp (pkAB rawI16x2) (fun _ => tI16x2) fun c i => f (c.opA i) (c.opB i)

/-- The dot product of halves with C, saturated once (R184). -/
def dot2 (a b c : W32) : W32 × W64 := satFlag 32 (half a 0 * half b 0 + half a 1 * half b 1 + c.toInt)

/-- The dot product of bytes with C. -/
def dot4 (a b c : W32) : W32 × W64 :=
  satFlag 32 (byteI a 0 * byteI b 0 + byteI a 1 * byteI b 1 + byteI a 2 * byteI b 2 + byteI a 3 * byteI b 3 + c.toInt)

/-- `rshr` (R184). -/
def rshr (a b : W32) : W32 × W64 := (wrap 32 (roundShift a.toInt (bits b.toNat 4 0)), 0)

/-- `rshrn` (R184). -/
def rshrn (a b c : W32) : W32 × W64 :=
  let n := bits b.toNat 4 0
  let lo := satFlag 16 (roundShift a.toInt n)
  let hi := satFlag 16 (roundShift c.toInt n)
  (packHalves lo.1 hi.1, lo.2 ||| hi.2)

/-- `cmpm2`: bit h is set where B's half exceeds A's. -/
def cmpm2 (a b : W32) : W32 × W64 :=
  ((if half a 0 < half b 0 then 1 else 0) + (if half a 1 < half b 1 then 2 else 0), 0)

/-- `sxt2`: tags, then the range of its immediate (R191). -/
def sxt2 (c : Ctx) (s : State) : Res :=
  let k := c.fb
  tagged c (pkA rawI16x2 c) (c.guarded [(1 < k, illop 0x0D)]
    (.ok (c.putVF s (fun i => (wrap 32 (half (c.opA i) k), 0)) tI32)))

/-- `add2`. -/
def execAdd2 (o : Ops) (s : State) : Out := issue 0x05 0 o (pk2 (halves fun a b => a + b)) s

/-- `sub2`. -/
def execSub2 (o : Ops) (s : State) : Out := issue 0x05 1 o (pk2 (halves fun a b => a - b)) s

/-- `sadd2`. -/
def execSadd2 (o : Ops) (s : State) : Out := issue 0x05 2 o (pk2 (halvesSat fun a b => a + b)) s

/-- `ssub2`. -/
def execSsub2 (o : Ops) (s : State) : Out := issue 0x05 3 o (pk2 (halvesSat fun a b => a - b)) s

/-- `min2`. -/
def execMin2 (o : Ops) (s : State) : Out := issue 0x05 4 o (pk2 (halves fun a b => min a b)) s

/-- `max2`. -/
def execMax2 (o : Ops) (s : State) : Out := issue 0x05 5 o (pk2 (halves fun a b => max a b)) s

/-- `mul2l`. -/
def execMul2l (o : Ops) (s : State) : Out := issue 0x05 6 o (pk2 (halves fun a b => a * b)) s

/-- `dot2`. -/
def execDot2 (o : Ops) (s : State) : Out :=
  issue 0x05 7 o (vecOp (fun c => pkAB rawI16x2 c ++ c.needC intTags) (fun _ => tI32)
    fun c i => dot2 (c.opA i) (c.opB i) (c.opC i)) s

/-- `dot4`. -/
def execDot4 (o : Ops) (s : State) : Out :=
  issue 0x05 8 o (vecOp (fun c => pkAB rawI8x4 c ++ c.needC intTags) (fun _ => tI32)
    fun c i => dot4 (c.opA i) (c.opB i) (c.opC i)) s

/-- `cmpm2`. -/
def execCmpm2 (o : Ops) (s : State) : Out :=
  issue 0x05 9 o (vecOp (pkAB rawI16x2) (fun _ => tI32) fun c i => cmpm2 (c.opA i) (c.opB i)) s

/-- `pack2`. -/
def execPack2 (o : Ops) (s : State) : Out :=
  issue 0x05 10 o (vecOp (pkAB [0, 1, 5]) (fun _ => tI16x2)
    fun c i => (packHalves ((c.opA i).extractLsb' 0 16) ((c.opB i).extractLsb' 0 16), 0)) s

/-- `swap2`. -/
def execSwap2 (o : Ops) (s : State) : Out :=
  issue 0x05 11 o (vecOp (pkA rawI16x2) (fun _ => tI16x2)
    fun c i => (packHalves ((c.opA i).extractLsb' 16 16) ((c.opA i).extractLsb' 0 16), 0)) s

/-- `absd2`. -/
def execAbsd2 (o : Ops) (s : State) : Out := issue 0x05 12 o (pk2 (halvesSat fun a b => (a - b).natAbs)) s

/-- `rshr`. -/
def execRshr (o : Ops) (s : State) : Out :=
  issue 0x05 13 o (vecOp (pkAB intTags) (fun _ => tI32) fun c i => rshr (c.opA i) (c.opB i)) s

/-- `rshrn`. -/
def execRshrn (o : Ops) (s : State) : Out :=
  issue 0x05 14 o (vecOp (fun c => pkAB intTags c ++ c.needC intTags) (fun _ => tI16x2)
    fun c i => rshrn (c.opA i) (c.opB i) (c.opC i)) s

/-- `sxt2`. -/
def execSxt2 (o : Ops) (s : State) : Out := issue 0x05 15 o sxt2 s

end Sys2Proof.Machine
end

