-- ==== Sys2Proof/Machine/Timing.lean ====
section
/-! DEFINITION. Time, cycles and deadlines TM (20 R351 to R356). -/
namespace Sys2Proof.Machine

/-- The cluster of a tile group. -/
def State.clusterNum (s : State) (g : Group) : Option Nat := (s.groupTile g).map clusterOf

/-- A value that acts once on scalar D (R79), refused in the settled state (R356). -/
def timeRead (v : Ctx → State → W64 × State) (c : Ctx) (s : State) : Res :=
  rlxGate c s <| c.once s <| let r := v c s; .ok (c.putS r.2 r.1)

/-- `time`: the count of master clocks at the start of the issue clock (R351). -/
def execTime (o : Ops) (s : State) : Out := issue 0x21 0 o (timeRead fun _ s => (w64 s.time, s)) s

/-- `cyc`; of a stoker core, which has no cluster, a free value (DESIGN CHOICE, log entry 1). -/
def execCyc (o : Ops) (s : State) : Out :=
  issue 0x21 1 o (timeRead fun c s => if c.g.core.isSome then s.takeFree else (c.g.cyc, s)) s

/-- `dline` (R354). -/
def dline (c : Ctx) (s : State) : Res :=
  rlxGate c s <| c.once s <|
    let n := c.sAl
    c.guarded [(2 ^ 62 ≤ n.toNat, illop 0x0D)] <|
      .ok (s.onCsrs c.g fun k => { k with deadline := if n = 0 then 0 else w64 (2 ^ 63) + (w64 s.time + n) })

/-- `dline`. -/
def execDline (o : Ops) (s : State) : Out := issue 0x21 2 o dline s

/-- `dchk`: each executing lane (R353). -/
def dchk (c : Ctx) (s : State) : Res :=
  rlxGate c s <|
    let dl := c.g.csrs.deadline
    .ok (c.putP s c.fd (if bit dl 63 && s.time < fld dl 62 0 then c.act else 0))

/-- `dchk`. -/
def execDchk (o : Ops) (s : State) : Out := issue 0x21 3 o dchk s

/-- The word of R355. -/
def Cluster.dampWord (c : Cluster) : W64 :=
  w64 (c.events.toNat * 2 ^ 32 + (match c.state with | .idle => 0 | .stretch => 1 | .half => 2) * 2 ^ 16
    + Nat.min 255 ((if c.state == .stretch then c.halfN else c.halfRem) + (if c.tail then 1 else 0)) * 2 ^ 8 + Nat.min 255 c.strRem)

/-- `dampst`; of a stoker core, which has no cluster, a free value (DESIGN CHOICE, log entry 1). -/
def execDampst (o : Ops) (s : State) : Out :=
  issue 0x21 4 o (timeRead fun c s =>
    match s.clusterNum c.g with
    | some n => ((s.cluster n).dampWord, s)
    | none => s.takeFree) s

end Sys2Proof.Machine
end

