-- ==== Sys2Proof/Machine/Dispatch.lean ====
section
/-! DEFINITION. One arm for each row of spec/opcode_table.json: each arm is one call of the meaning. -/
namespace Sys2Proof.Machine

/-- What the instruction, or the step of the machine, does to the module. -/
def exec (i : Instr) (s : State) : Host.Outcome State Fault Refusal :=
  match i with
  | .clauseBoundary h => Sys2Proof.Machine.execClauseBoundary h s
  | .issueArbitration => Sys2Proof.Machine.execIssueArbitration s
  | .bankArbitration tile => Sys2Proof.Machine.execBankArbitration tile s
  | .vlComplete entry lanes => Sys2Proof.Machine.execVlComplete entry lanes s
  | .localTrapEntry grp => Sys2Proof.Machine.execLocalTrapEntry grp s
  | .storePerformHome tile n => Sys2Proof.Machine.execStorePerformHome tile n s
  | .homeAtomicPerform tile n => Sys2Proof.Machine.execHomeAtomicPerform tile n s
  | .tileCacheLineDrop tile line => Sys2Proof.Machine.execTileCacheLineDrop tile line s
  | .translationWalk master va asid vmid kind => Sys2Proof.Machine.execTranslationWalk master va asid vmid kind s
  | .dirtyGatherWriteback die n => Sys2Proof.Machine.execDirtyGatherWriteback die n s
  | .faultRecordPost die => Sys2Proof.Machine.execFaultRecordPost die s
  | .uncorrectableError addr => Sys2Proof.Machine.execUncorrectableError addr s
  | .correctedError => Sys2Proof.Machine.execCorrectedError s
  | .copyTransfer copy lane => Sys2Proof.Machine.execCopyTransfer copy lane s
  | .remoteDelivery copy lane recv => Sys2Proof.Machine.execRemoteDelivery copy lane recv s
  | .ackArrival n => Sys2Proof.Machine.execAckArrival n s
  | .macroOpStep entry => Sys2Proof.Machine.execMacroOpStep entry s
  | .drainPerform entry => Sys2Proof.Machine.execDrainPerform entry s
  | .rlxopenJoin team => Sys2Proof.Machine.execRlxopenJoin team s
  | .kilnPassEnd team => Sys2Proof.Machine.execKilnPassEnd team s
  | .kilnPassAbandon team => Sys2Proof.Machine.execKilnPassAbandon team s
  | .rlxcloseJoin team => Sys2Proof.Machine.execRlxcloseJoin team s
  | .launchReady work => Sys2Proof.Machine.execLaunchReady work s
  | .depctrRegister work => Sys2Proof.Machine.execDepctrRegister work s
  | .gangPlace work => Sys2Proof.Machine.execGangPlace work s
  | .tenantServe die cls => Sys2Proof.Machine.execTenantServe die cls s
  | .deficitCharge die => Sys2Proof.Machine.execDeficitCharge die s
  | .class0Preempt die => Sys2Proof.Machine.execClass0Preempt die s
  | .gangStop gang => Sys2Proof.Machine.execGangStop gang s
  | .contextRestore gang => Sys2Proof.Machine.execContextRestore gang s
  | .groupRetire grp => Sys2Proof.Machine.execGroupRetire grp s
  | .teamRetire team => Sys2Proof.Machine.execTeamRetire team s
  | .launchRetire work => Sys2Proof.Machine.execLaunchRetire work s
  | .jobReady work => Sys2Proof.Machine.execJobReady work s
  | .jobDeal work => Sys2Proof.Machine.execJobDeal work s
  | .jobComplete work => Sys2Proof.Machine.execJobComplete work s
  | .childCompletion work => Sys2Proof.Machine.execChildCompletion work s
  | .emberAdvance work => Sys2Proof.Machine.execEmberAdvance work s
  | .mailboxDelivery die n => Sys2Proof.Machine.execMailboxDelivery die n s
  | .turnStart die => Sys2Proof.Machine.execTurnStart die s
  | .turnAbandon die n => Sys2Proof.Machine.execTurnAbandon die n s
  | .turnExchangeEnd die n => Sys2Proof.Machine.execTurnExchangeEnd die n s
  | .swallowPatternApply cluster => Sys2Proof.Machine.execSwallowPatternApply cluster s
  | .droopDetect cluster => Sys2Proof.Machine.execDroopDetect cluster s
  | .stretchEnd cluster => Sys2Proof.Machine.execStretchEnd cluster s
  | .halfEnd cluster => Sys2Proof.Machine.execHalfEnd cluster s
  | .deadlineExpiry grp => Sys2Proof.Machine.execDeadlineExpiry grp s
  | .tileHot tile => Sys2Proof.Machine.execTileHot tile s
  | .overTemperatureStop tile => Sys2Proof.Machine.execOverTemperatureStop tile s
  | .tileFailure tile rows => Sys2Proof.Machine.execTileFailure tile rows s
  | .qpEntryStart die qp => Sys2Proof.Machine.execQpEntryStart die qp s
  | .qpLocalComplete die qp n => Sys2Proof.Machine.execQpLocalComplete die qp n s
  | .qpRemoteWrite die n => Sys2Proof.Machine.execQpRemoteWrite die n s
  | .qpAck die qp n => Sys2Proof.Machine.execQpAck die qp n s
  | .wredContribution die n => Sys2Proof.Machine.execWredContribution die n s
  | .wredSweep die n => Sys2Proof.Machine.execWredSweep die n s
  | .routeEntry die qp n => Sys2Proof.Machine.execRouteEntry die qp n s
  | .toksortComplete die n => Sys2Proof.Machine.execToksortComplete die n s
  | .cqLaunch die => Sys2Proof.Machine.execCqLaunch die s
  | .cqPost die => Sys2Proof.Machine.execCqPost die s
  | .cqWait die => Sys2Proof.Machine.execCqWait die s
  | .cqAdd die => Sys2Proof.Machine.execCqAdd die s
  | .ckptGo => Sys2Proof.Machine.execCkptGo s
  | .ckptComplete ok => Sys2Proof.Machine.execCkptComplete ok s
  | .ckptErrClear => Sys2Proof.Machine.execCkptErrClear s
  | .hostWrite addr bytes => Sys2Proof.Machine.execHostWrite addr bytes s
  | .hostRead addr width => Sys2Proof.Machine.execHostRead addr width s
  | .moduleReset => Sys2Proof.Machine.execModuleReset s
  | .aelmelVerify => Sys2Proof.Machine.execAelmelVerify s
  | .aelmelBoot => Sys2Proof.Machine.execAelmelBoot s
  | .aelcmdVerifyBoot => Sys2Proof.Machine.execAelcmdVerifyBoot s
  | .aelcmdAttest => Sys2Proof.Machine.execAelcmdAttest s
  | .recbufWrite off bytes => Sys2Proof.Machine.execRecbufWrite off bytes s
  | .wfiWake core => Sys2Proof.Machine.execWfiWake core s
  | .stokerHaltOnFault core => Sys2Proof.Machine.execStokerHaltOnFault core s
  | .winstatWrite o => Sys2Proof.Machine.execWinstatWrite o s
  | .flagsWrite o => Sys2Proof.Machine.execFlagsWrite o s
  | .flagsRead o => Sys2Proof.Machine.execFlagsRead o s
  | .spillbaseWrite o => Sys2Proof.Machine.execSpillbaseWrite o s
  | .trappcWrite o => Sys2Proof.Machine.execTrappcWrite o s
  | .quotaCsrWrite o => Sys2Proof.Machine.execQuotaCsrWrite o s
  | .turnPeriodWrite o => Sys2Proof.Machine.execTurnPeriodWrite o s
  | .swallowWrite o => Sys2Proof.Machine.execSwallowWrite o s
  | .droopthWrite o => Sys2Proof.Machine.execDroopthWrite o s
  | .dampcfgWrite o => Sys2Proof.Machine.execDampcfgWrite o s
  | .slewbudgetWrite o => Sys2Proof.Machine.execSlewbudgetWrite o s
  | .placetabSelect o => Sys2Proof.Machine.execPlacetabSelect o s
  | .healthWrite o => Sys2Proof.Machine.execHealthWrite o s
  | .healthRead o => Sys2Proof.Machine.execHealthRead o s
  | .ringbaseWrite o => Sys2Proof.Machine.execRingbaseWrite o s
  | .ctxpoolWrite o => Sys2Proof.Machine.execCtxpoolWrite o s
  | .collcfgWrite o => Sys2Proof.Machine.execCollcfgWrite o s
  | .iadd o => Sys2Proof.Machine.execIadd o s
  | .isub o => Sys2Proof.Machine.execIsub o s
  | .imul o => Sys2Proof.Machine.execImul o s
  | .imulh o => Sys2Proof.Machine.execImulh o s
  | .imulhn o => Sys2Proof.Machine.execImulhn o s
  | .imad o => Sys2Proof.Machine.execImad o s
  | .imin o => Sys2Proof.Machine.execImin o s
  | .imax o => Sys2Proof.Machine.execImax o s
  | .nmin o => Sys2Proof.Machine.execNmin o s
  | .nmax o => Sys2Proof.Machine.execNmax o s
  | .iabs o => Sys2Proof.Machine.execIabs o s
  | .ineg o => Sys2Proof.Machine.execIneg o s
  | .and o => Sys2Proof.Machine.execAnd o s
  | .or o => Sys2Proof.Machine.execOr o s
  | .xor o => Sys2Proof.Machine.execXor o s
  | .andn o => Sys2Proof.Machine.execAndn o s
  | .not o => Sys2Proof.Machine.execNot o s
  | .shl o => Sys2Proof.Machine.execShl o s
  | .shr o => Sys2Proof.Machine.execShr o s
  | .sar o => Sys2Proof.Machine.execSar o s
  | .rotl o => Sys2Proof.Machine.execRotl o s
  | .clz o => Sys2Proof.Machine.execClz o s
  | .popc o => Sys2Proof.Machine.execPopc o s
  | .brev o => Sys2Proof.Machine.execBrev o s
  | .sadd o => Sys2Proof.Machine.execSadd o s
  | .ssub o => Sys2Proof.Machine.execSsub o s
  | .sel o => Sys2Proof.Machine.execSel o s
  | .bfx o => Sys2Proof.Machine.execBfx o s
  | .bfi o => Sys2Proof.Machine.execBfi o s
  | .idiv o => Sys2Proof.Machine.execIdiv o s
  | .irem o => Sys2Proof.Machine.execIrem o s
  | .iaddS o => Sys2Proof.Machine.execIaddS o s
  | .isubS o => Sys2Proof.Machine.execIsubS o s
  | .imulS o => Sys2Proof.Machine.execImulS o s
  | .imulhS o => Sys2Proof.Machine.execImulhS o s
  | .imulhnS o => Sys2Proof.Machine.execImulhnS o s
  | .imadS o => Sys2Proof.Machine.execImadS o s
  | .iminS o => Sys2Proof.Machine.execIminS o s
  | .imaxS o => Sys2Proof.Machine.execImaxS o s
  | .nminS o => Sys2Proof.Machine.execNminS o s
  | .nmaxS o => Sys2Proof.Machine.execNmaxS o s
  | .iabsS o => Sys2Proof.Machine.execIabsS o s
  | .inegS o => Sys2Proof.Machine.execInegS o s
  | .andS o => Sys2Proof.Machine.execAndS o s
  | .orS o => Sys2Proof.Machine.execOrS o s
  | .xorS o => Sys2Proof.Machine.execXorS o s
  | .andnS o => Sys2Proof.Machine.execAndnS o s
  | .notS o => Sys2Proof.Machine.execNotS o s
  | .shlS o => Sys2Proof.Machine.execShlS o s
  | .shrS o => Sys2Proof.Machine.execShrS o s
  | .sarS o => Sys2Proof.Machine.execSarS o s
  | .rotlS o => Sys2Proof.Machine.execRotlS o s
  | .clzS o => Sys2Proof.Machine.execClzS o s
  | .popcS o => Sys2Proof.Machine.execPopcS o s
  | .brevS o => Sys2Proof.Machine.execBrevS o s
  | .saddS o => Sys2Proof.Machine.execSaddS o s
  | .ssubS o => Sys2Proof.Machine.execSsubS o s
  | .selS o => Sys2Proof.Machine.execSelS o s
  | .bfxS o => Sys2Proof.Machine.execBfxS o s
  | .bfiS o => Sys2Proof.Machine.execBfiS o s
  | .idivS o => Sys2Proof.Machine.execIdivS o s
  | .iremS o => Sys2Proof.Machine.execIremS o s
  | .icmpeq o => Sys2Proof.Machine.execIcmpeq o s
  | .icmpne o => Sys2Proof.Machine.execIcmpne o s
  | .icmplt o => Sys2Proof.Machine.execIcmplt o s
  | .icmple o => Sys2Proof.Machine.execIcmple o s
  | .icmpgt o => Sys2Proof.Machine.execIcmpgt o s
  | .icmpge o => Sys2Proof.Machine.execIcmpge o s
  | .icmplo o => Sys2Proof.Machine.execIcmplo o s
  | .icmpls o => Sys2Proof.Machine.execIcmpls o s
  | .icmphi o => Sys2Proof.Machine.execIcmphi o s
  | .icmphs o => Sys2Proof.Machine.execIcmphs o s
  | .icmpeqS o => Sys2Proof.Machine.execIcmpeqS o s
  | .icmpneS o => Sys2Proof.Machine.execIcmpneS o s
  | .icmpltS o => Sys2Proof.Machine.execIcmpltS o s
  | .icmpleS o => Sys2Proof.Machine.execIcmpleS o s
  | .icmpgtS o => Sys2Proof.Machine.execIcmpgtS o s
  | .icmpgeS o => Sys2Proof.Machine.execIcmpgeS o s
  | .icmploS o => Sys2Proof.Machine.execIcmploS o s
  | .icmplsS o => Sys2Proof.Machine.execIcmplsS o s
  | .icmphiS o => Sys2Proof.Machine.execIcmphiS o s
  | .icmphsS o => Sys2Proof.Machine.execIcmphsS o s
  | .add2 o => Sys2Proof.Machine.execAdd2 o s
  | .sub2 o => Sys2Proof.Machine.execSub2 o s
  | .sadd2 o => Sys2Proof.Machine.execSadd2 o s
  | .ssub2 o => Sys2Proof.Machine.execSsub2 o s
  | .min2 o => Sys2Proof.Machine.execMin2 o s
  | .max2 o => Sys2Proof.Machine.execMax2 o s
  | .mul2l o => Sys2Proof.Machine.execMul2l o s
  | .dot2 o => Sys2Proof.Machine.execDot2 o s
  | .dot4 o => Sys2Proof.Machine.execDot4 o s
  | .cmpm2 o => Sys2Proof.Machine.execCmpm2 o s
  | .pack2 o => Sys2Proof.Machine.execPack2 o s
  | .swap2 o => Sys2Proof.Machine.execSwap2 o s
  | .absd2 o => Sys2Proof.Machine.execAbsd2 o s
  | .rshr o => Sys2Proof.Machine.execRshr o s
  | .rshrn o => Sys2Proof.Machine.execRshrn o s
  | .sxt2 o => Sys2Proof.Machine.execSxt2 o s
  | .fadd o => Sys2Proof.Machine.execFadd o s
  | .fsub o => Sys2Proof.Machine.execFsub o s
  | .fmul o => Sys2Proof.Machine.execFmul o s
  | .ffma o => Sys2Proof.Machine.execFfma o s
  | .ffms o => Sys2Proof.Machine.execFfms o s
  | .fnma o => Sys2Proof.Machine.execFnma o s
  | .fmin o => Sys2Proof.Machine.execFmin o s
  | .fmax o => Sys2Proof.Machine.execFmax o s
  | .fminnum o => Sys2Proof.Machine.execFminnum o s
  | .fmaxnum o => Sys2Proof.Machine.execFmaxnum o s
  | .fabs o => Sys2Proof.Machine.execFabs o s
  | .fneg o => Sys2Proof.Machine.execFneg o s
  | .fcps o => Sys2Proof.Machine.execFcps o s
  | .frnd o => Sys2Proof.Machine.execFrnd o s
  | .frcp o => Sys2Proof.Machine.execFrcp o s
  | .frsq o => Sys2Proof.Machine.execFrsq o s
  | .fsqrt o => Sys2Proof.Machine.execFsqrt o s
  | .fdiv o => Sys2Proof.Machine.execFdiv o s
  | .fexp2 o => Sys2Proof.Machine.execFexp2 o s
  | .flog2 o => Sys2Proof.Machine.execFlog2 o s
  | .ftanh o => Sys2Proof.Machine.execFtanh o s
  | .fsig o => Sys2Proof.Machine.execFsig o s
  | .fclass o => Sys2Proof.Machine.execFclass o s
  | .faddS o => Sys2Proof.Machine.execFaddS o s
  | .fsubS o => Sys2Proof.Machine.execFsubS o s
  | .fmulS o => Sys2Proof.Machine.execFmulS o s
  | .ffmaS o => Sys2Proof.Machine.execFfmaS o s
  | .ffmsS o => Sys2Proof.Machine.execFfmsS o s
  | .fnmaS o => Sys2Proof.Machine.execFnmaS o s
  | .fminS o => Sys2Proof.Machine.execFminS o s
  | .fmaxS o => Sys2Proof.Machine.execFmaxS o s
  | .fminnumS o => Sys2Proof.Machine.execFminnumS o s
  | .fmaxnumS o => Sys2Proof.Machine.execFmaxnumS o s
  | .fabsS o => Sys2Proof.Machine.execFabsS o s
  | .fnegS o => Sys2Proof.Machine.execFnegS o s
  | .fcpsS o => Sys2Proof.Machine.execFcpsS o s
  | .frndS o => Sys2Proof.Machine.execFrndS o s
  | .frcpS o => Sys2Proof.Machine.execFrcpS o s
  | .frsqS o => Sys2Proof.Machine.execFrsqS o s
  | .fsqrtS o => Sys2Proof.Machine.execFsqrtS o s
  | .fdivS o => Sys2Proof.Machine.execFdivS o s
  | .fexp2S o => Sys2Proof.Machine.execFexp2S o s
  | .flog2S o => Sys2Proof.Machine.execFlog2S o s
  | .ftanhS o => Sys2Proof.Machine.execFtanhS o s
  | .fsigS o => Sys2Proof.Machine.execFsigS o s
  | .fclassS o => Sys2Proof.Machine.execFclassS o s
  | .fcmpeq o => Sys2Proof.Machine.execFcmpeq o s
  | .fcmpne o => Sys2Proof.Machine.execFcmpne o s
  | .fcmplt o => Sys2Proof.Machine.execFcmplt o s
  | .fcmple o => Sys2Proof.Machine.execFcmple o s
  | .fcmpgt o => Sys2Proof.Machine.execFcmpgt o s
  | .fcmpge o => Sys2Proof.Machine.execFcmpge o s
  | .fcmpun o => Sys2Proof.Machine.execFcmpun o s
  | .fcmpord o => Sys2Proof.Machine.execFcmpord o s
  | .tof32 o => Sys2Proof.Machine.execTof32 o s
  | .tobf16x2 o => Sys2Proof.Machine.execTobf16x2 o s
  | .tof16x2 o => Sys2Proof.Machine.execTof16x2 o s
  | .toi32 o => Sys2Proof.Machine.execToi32 o s
  | .ton32 o => Sys2Proof.Machine.execTon32 o s
  | .toi16x2 o => Sys2Proof.Machine.execToi16x2 o s
  | .toi8x4 o => Sys2Proof.Machine.execToi8x4 o s
  | .tonf o => Sys2Proof.Machine.execTonf o s
  | .fromnf o => Sys2Proof.Machine.execFromnf o s
  | .retag o => Sys2Proof.Machine.execRetag o s
  | .hi2f32 o => Sys2Proof.Machine.execHi2f32 o s
  | .qnt o => Sys2Proof.Machine.execQnt o s
  | .dqnt o => Sys2Proof.Machine.execDqnt o s
  | .bamax o => Sys2Proof.Machine.execBamax o s
  | .scaleof o => Sys2Proof.Machine.execScaleof o s
  | .pack4 o => Sys2Proof.Machine.execPack4 o s
  | .unpack4 o => Sys2Proof.Machine.execUnpack4 o s
  | .perm o => Sys2Proof.Machine.execPerm o s
  | .slideup o => Sys2Proof.Machine.execSlideup o s
  | .slidedn o => Sys2Proof.Machine.execSlidedn o s
  | .slideh o => Sys2Proof.Machine.execSlideh o s
  | .slidehd o => Sys2Proof.Machine.execSlidehd o s
  | .pmovXl o => Sys2Proof.Machine.execPmovXl o s
  | .vany o => Sys2Proof.Machine.execVany o s
  | .vall o => Sys2Proof.Machine.execVall o s
  | .ballot o => Sys2Proof.Machine.execBallot o s
  | .bits2 o => Sys2Proof.Machine.execBits2 o s
  | .lredadd o => Sys2Proof.Machine.execLredadd o s
  | .lredfadd o => Sys2Proof.Machine.execLredfadd o s
  | .lredmax o => Sys2Proof.Machine.execLredmax o s
  | .lredmin o => Sys2Proof.Machine.execLredmin o s
  | .lscanadd o => Sys2Proof.Machine.execLscanadd o s
  | .lscanfadd o => Sys2Proof.Machine.execLscanfadd o s
  | .laneid o => Sys2Proof.Machine.execLaneid o s
  | .v2s o => Sys2Proof.Machine.execV2s o s
  | .s2v o => Sys2Proof.Machine.execS2v o s
  | .firstlane o => Sys2Proof.Machine.execFirstlane o s
  | .mov o => Sys2Proof.Machine.execMov o s
  | .movi o => Sys2Proof.Machine.execMovi o s
  | .movs o => Sys2Proof.Machine.execMovs o s
  | .movsi o => Sys2Proof.Machine.execMovsi o s
  | .movx o => Sys2Proof.Machine.execMovx o s
  | .movxw o => Sys2Proof.Machine.execMovxw o s
  | .movp o => Sys2Proof.Machine.execMovp o s
  | .movpr o => Sys2Proof.Machine.execMovpr o s
  | .tagrd o => Sys2Proof.Machine.execTagrd o s
  | .csrrd o => Sys2Proof.Machine.execCsrrd o s
  | .csrwr o => Sys2Proof.Machine.execCsrwr o s
  | .movlpc o => Sys2Proof.Machine.execMovlpc o s
  | .rdlpc o => Sys2Proof.Machine.execRdlpc o s
  | .pand o => Sys2Proof.Machine.execPand o s
  | .por o => Sys2Proof.Machine.execPor o s
  | .pxor o => Sys2Proof.Machine.execPxor o s
  | .pnot o => Sys2Proof.Machine.execPnot o s
  | .pmovPr o => Sys2Proof.Machine.execPmovPr o s
  | .ptov o => Sys2Proof.Machine.execPtov o s
  | .pcnt o => Sys2Proof.Machine.execPcnt o s
  | .pall o => Sys2Proof.Machine.execPall o s
  | .br o => Sys2Proof.Machine.execBr o s
  | .jmp o => Sys2Proof.Machine.execJmp o s
  | .call o => Sys2Proof.Machine.execCall o s
  | .calli o => Sys2Proof.Machine.execCalli o s
  | .ret o => Sys2Proof.Machine.execRet o s
  | .enter o => Sys2Proof.Machine.execEnter o s
  | .exit o => Sys2Proof.Machine.execExit o s
  | .yield o => Sys2Proof.Machine.execYield o s
  | .nop o => Sys2Proof.Machine.execNop o s
  | .trap o => Sys2Proof.Machine.execTrap o s
  | .sys o => Sys2Proof.Machine.execSys o s
  | .loop o => Sys2Proof.Machine.execLoop o s
  | .lbrk o => Sys2Proof.Machine.execLbrk o s
  | .lcnt o => Sys2Proof.Machine.execLcnt o s
  | .lpop o => Sys2Proof.Machine.execLpop o s
  | .ld8s o => Sys2Proof.Machine.execLd8s o s
  | .ld8z o => Sys2Proof.Machine.execLd8z o s
  | .ld16s o => Sys2Proof.Machine.execLd16s o s
  | .ld16z o => Sys2Proof.Machine.execLd16z o s
  | .ld32 o => Sys2Proof.Machine.execLd32 o s
  | .ld64 o => Sys2Proof.Machine.execLd64 o s
  | .ld128 o => Sys2Proof.Machine.execLd128 o s
  | .lds32 o => Sys2Proof.Machine.execLds32 o s
  | .lds64 o => Sys2Proof.Machine.execLds64 o s
  | .ldacq32 o => Sys2Proof.Machine.execLdacq32 o s
  | .ldacqs64 o => Sys2Proof.Machine.execLdacqs64 o s
  | .st8 o => Sys2Proof.Machine.execSt8 o s
  | .st16 o => Sys2Proof.Machine.execSt16 o s
  | .st32 o => Sys2Proof.Machine.execSt32 o s
  | .st64 o => Sys2Proof.Machine.execSt64 o s
  | .st128 o => Sys2Proof.Machine.execSt128 o s
  | .sts32 o => Sys2Proof.Machine.execSts32 o s
  | .sts64 o => Sys2Proof.Machine.execSts64 o s
  | .strel32 o => Sys2Proof.Machine.execStrel32 o s
  | .strels64 o => Sys2Proof.Machine.execStrels64 o s
  | .aadd o => Sys2Proof.Machine.execAadd o s
  | .amin o => Sys2Proof.Machine.execAmin o s
  | .amax o => Sys2Proof.Machine.execAmax o s
  | .anmin o => Sys2Proof.Machine.execAnmin o s
  | .anmax o => Sys2Proof.Machine.execAnmax o s
  | .aand o => Sys2Proof.Machine.execAand o s
  | .aor o => Sys2Proof.Machine.execAor o s
  | .axor o => Sys2Proof.Machine.execAxor o s
  | .aexch o => Sys2Proof.Machine.execAexch o s
  | .acas o => Sys2Proof.Machine.execAcas o s
  | .afadd o => Sys2Proof.Machine.execAfadd o s
  | .afamax o => Sys2Proof.Machine.execAfamax o s
  | .afamaxrst o => Sys2Proof.Machine.execAfamaxrst o s
  | .aadd64 o => Sys2Proof.Machine.execAadd64 o s
  | .aaddS o => Sys2Proof.Machine.execAaddS o s
  | .aminS o => Sys2Proof.Machine.execAminS o s
  | .amaxS o => Sys2Proof.Machine.execAmaxS o s
  | .anminS o => Sys2Proof.Machine.execAnminS o s
  | .anmaxS o => Sys2Proof.Machine.execAnmaxS o s
  | .aandS o => Sys2Proof.Machine.execAandS o s
  | .aorS o => Sys2Proof.Machine.execAorS o s
  | .axorS o => Sys2Proof.Machine.execAxorS o s
  | .aexchS o => Sys2Proof.Machine.execAexchS o s
  | .acasS o => Sys2Proof.Machine.execAcasS o s
  | .afaddS o => Sys2Proof.Machine.execAfaddS o s
  | .afamaxS o => Sys2Proof.Machine.execAfamaxS o s
  | .afamaxrstS o => Sys2Proof.Machine.execAfamaxrstS o s
  | .aadd64S o => Sys2Proof.Machine.execAadd64S o s
  | .fenceSc o => Sys2Proof.Machine.execFenceSc o s
  | .fenceAcq o => Sys2Proof.Machine.execFenceAcq o s
  | .fenceRel o => Sys2Proof.Machine.execFenceRel o s
  | .fenceAcqrel o => Sys2Proof.Machine.execFenceAcqrel o s
  | .pf o => Sys2Proof.Machine.execPf o s
  | .cwb o => Sys2Proof.Machine.execCwb o s
  | .cinv o => Sys2Proof.Machine.execCinv o s
  | .ldl8s o => Sys2Proof.Machine.execLdl8s o s
  | .ldl8z o => Sys2Proof.Machine.execLdl8z o s
  | .ldl16s o => Sys2Proof.Machine.execLdl16s o s
  | .ldl16z o => Sys2Proof.Machine.execLdl16z o s
  | .ldl32 o => Sys2Proof.Machine.execLdl32 o s
  | .ldl64 o => Sys2Proof.Machine.execLdl64 o s
  | .ldl128 o => Sys2Proof.Machine.execLdl128 o s
  | .stl8 o => Sys2Proof.Machine.execStl8 o s
  | .stl16 o => Sys2Proof.Machine.execStl16 o s
  | .stl32 o => Sys2Proof.Machine.execStl32 o s
  | .stl64 o => Sys2Proof.Machine.execStl64 o s
  | .stl128 o => Sys2Proof.Machine.execStl128 o s
  | .laadd o => Sys2Proof.Machine.execLaadd o s
  | .lamin o => Sys2Proof.Machine.execLamin o s
  | .lamax o => Sys2Proof.Machine.execLamax o s
  | .laexch o => Sys2Proof.Machine.execLaexch o s
  | .lacas o => Sys2Proof.Machine.execLacas o s
  | .cp4 o => Sys2Proof.Machine.execCp4 o s
  | .cp8 o => Sys2Proof.Machine.execCp8 o s
  | .cp16 o => Sys2Proof.Machine.execCp16 o s
  | .cpseal o => Sys2Proof.Machine.execCpseal o s
  | .cpwait o => Sys2Proof.Machine.execCpwait o s
  | .cpmc o => Sys2Proof.Machine.execCpmc o s
  | .binit o => Sys2Proof.Machine.execBinit o s
  | .barrive o => Sys2Proof.Machine.execBarrive o s
  | .bexpect o => Sys2Proof.Machine.execBexpect o s
  | .bwait o => Sys2Proof.Machine.execBwait o s
  | .btest o => Sys2Proof.Machine.execBtest o s
  | .binval o => Sys2Proof.Machine.execBinval o s
  | .bteam o => Sys2Proof.Machine.execBteam o s
  | .back o => Sys2Proof.Machine.execBack o s
  | .pld o => Sys2Proof.Machine.execPld o s
  | .pst o => Sys2Proof.Machine.execPst o s
  | .pzero o => Sys2Proof.Machine.execPzero o s
  | .pfence o => Sys2Proof.Machine.execPfence o s
  | .mma o => Sys2Proof.Machine.execMma o s
  | .mmat o => Sys2Proof.Machine.execMmat o s
  | .czero o => Sys2Proof.Machine.execCzero o s
  | .canch o => Sys2Proof.Machine.execCanch o s
  | .cdrain o => Sys2Proof.Machine.execCdrain o s
  | .cstore o => Sys2Proof.Machine.execCstore o s
  | .cstat o => Sys2Proof.Machine.execCstat o s
  | .pput o => Sys2Proof.Machine.execPput o s
  | .pget o => Sys2Proof.Machine.execPget o s
  | .seq o => Sys2Proof.Machine.execSeq o s
  | .rlxopen o => Sys2Proof.Machine.execRlxopen o s
  | .rlxpass o => Sys2Proof.Machine.execRlxpass o s
  | .rlxclose o => Sys2Proof.Machine.execRlxclose o s
  | .rlxstat o => Sys2Proof.Machine.execRlxstat o s
  | .rlxres o => Sys2Proof.Machine.execRlxres o s
  | .rlxabort o => Sys2Proof.Machine.execRlxabort o s
  | .qpush o => Sys2Proof.Machine.execQpush o s
  | .qpop o => Sys2Proof.Machine.execQpop o s
  | .mbsend o => Sys2Proof.Machine.execMbsend o s
  | .mbrecv o => Sys2Proof.Machine.execMbrecv o s
  | .mbpeek o => Sys2Proof.Machine.execMbpeek o s
  | .jobenq o => Sys2Proof.Machine.execJobenq o s
  | .launch o => Sys2Proof.Machine.execLaunch o s
  | .dinit o => Sys2Proof.Machine.execDinit o s
  | .ddec o => Sys2Proof.Machine.execDdec o s
  | .dread o => Sys2Proof.Machine.execDread o s
  | .jobstat o => Sys2Proof.Machine.execJobstat o s
  | .embwait o => Sys2Proof.Machine.execEmbwait o s
  | .embpass o => Sys2Proof.Machine.execEmbpass o s
  | .embskip o => Sys2Proof.Machine.execEmbskip o s
  | .qppost o => Sys2Proof.Machine.execQppost o s
  | .hcadd o => Sys2Proof.Machine.execHcadd o s
  | .hcrd o => Sys2Proof.Machine.execHcrd o s
  | .hcarm o => Sys2Proof.Machine.execHcarm o s
  | .toksort o => Sys2Proof.Machine.execToksort o s
  | .time o => Sys2Proof.Machine.execTime o s
  | .cyc o => Sys2Proof.Machine.execCyc o s
  | .dline o => Sys2Proof.Machine.execDline o s
  | .dchk o => Sys2Proof.Machine.execDchk o s
  | .dampst o => Sys2Proof.Machine.execDampst o s
  | .csrrdp o => Sys2Proof.Machine.execCsrrdp o s
  | .csrwrp o => Sys2Proof.Machine.execCsrwrp o s
  | .eret o => Sys2Proof.Machine.execEret o s
  | .wfi o => Sys2Proof.Machine.execWfi o s
  | .tlbinv o => Sys2Proof.Machine.execTlbinv o s
  | .tlbharv o => Sys2Proof.Machine.execTlbharv o s
  | .ctxsave o => Sys2Proof.Machine.execCtxsave o s
  | .ctxload o => Sys2Proof.Machine.execCtxload o s
  | .halt o => Sys2Proof.Machine.execHalt o s
  | .placewr o => Sys2Proof.Machine.execPlacewr o s
  | .fringCons o => Sys2Proof.Machine.execFringCons o s
  | .fringResume o => Sys2Proof.Machine.execFringResume o s
  | .fringKill o => Sys2Proof.Machine.execFringKill o s
  | .fringQuota o => Sys2Proof.Machine.execFringQuota o s
  | .stokerCoreRestart core => Sys2Proof.Machine.execStokerCoreRestart core s
  | .storagePortTransfer port va toStack bytes => Sys2Proof.Machine.execStoragePortTransfer port va toStack bytes s
  | .tileTemperatureRise tile temp => Sys2Proof.Machine.execTileTemperatureRise tile temp s

end Sys2Proof.Machine
end

