-- ==== Sys2Proof/Machine/Step.lean ====
section
/-! DEFINITION. One step of the module, and the state that is about to run a given instruction. -/
namespace Sys2Proof.Machine

/-- One step of the module (Machine/Run.lean) with the meanings of Machine/Dispatch.lean (not compiled: log entry 27). -/
noncomputable def step (s : State) : Host.Outcome State Fault Refusal := runStep exec s

/-- The state with one instruction placed where core 0 fetches next (DESIGN CHOICE, log entry 3). -/
def State.withFetchWord (s : State) (nbits w : Nat) : State := placeWord s nbits w

end Sys2Proof.Machine
end

