-- ==== Sys2Proof/Safety.lean ====
section
/-! DEFINITION. What the statements call a well-kept state, an instruction that passes the checks every instruction
makes (02 R43 steps 3 to 8), and the end of an instruction. -/
namespace Sys2Proof.Machine

/-- Device memory and the flash images keep the canonical form of a memory (DESIGN CHOICE, log entry 2). -/
def State.memWf (s : State) : Bool := s.mem.wf && s.aelmel.flash.wf && s.aelmel.recbuf.wf

/-- The lines that the home slices hold: each line once, of 128 bytes, and an unmodified one as memory has it. The storage
port, which moves bytes past the slices (R277), is the one step that may break the last of these. -/
def State.linesAgree (s : State) : Bool :=
  decide (s.sram.map fun l => l.line).Nodup
    && s.sram.all fun l => l.data.length == 128 && (l.modified || memRead s.mem (l.line * 128) 128 == l.data)

/-- THE INSTRUCTION IS CLEAR TO ACT: the context in turn is `g`, it may issue, its clause `cl` is open, the fields
pass steps 3 to 8 of R43 and the residency checks of R129, and nothing stalls it (R38, R39, R365). `t` is the state
after the headers to which it leads were checked (R37, R43 step 6): `s` itself where it is not the last of its clause and
no transfer. -/
structure Clear (s : State) (maj min : Nat) (o : Ops) (g : Group) (cl : Clause) (t : State) : Prop where
  turn : s.group? s.cur = some g
  open' : g.clause = some cl
  ready : s.mayIssue g = true
  fields : decodeChecks (s.matrixOf g) (s.ctx maj min o g cl) = none
  follows : s.headerChecks (s.ctx maj min o g cl) = (t, none)
  privilege : privilegeChecks (s.ctx maj min o g cl) = none
  place : placeChecks t (s.ctx maj min o g cl) = none
  resident : residencyChecks (s.ctx maj min o g cl) = none
  quota : t.quotaHeld (s.ctx maj min o g cl) = none
  free : t.stallOf (s.ctx maj min o g cl) = none

/-- The tag checks pass, or no lane executes (R43, R135). -/
def Ctx.tagsPass (c : Ctx) (l : List TagCheck) : Prop := c.anyLane = true → tagFail l = none

/-- The issuing context moves past the instruction (R36). -/
def Ctx.done (c : Ctx) (t : State) : State := t.onGroup c.g.id fun g => g.advance c.words true

/-- An effect made once, where at least one lane executes (R79). -/
def Ctx.onceDo (c : Ctx) (t t' : State) : State := if c.anyLane then t' else t

end Sys2Proof.Machine
end

