-- ==== Sys2Proof/Certificates/Slice0/Obligations.lean ====
section
/-! DEFINITION. The statements for the provers. Each says what the spec's rule says of an instruction or of the
module; tables list instructions of one shape beside the formula of the spec for each. -/
namespace Sys2Proof.Stated
open Sys2Proof.Machine

/-! ## Words that statements share -/

/-- A constructor that carries the fields of its words. -/
abbrev Mk := Ops → Instr

/-- The instruction runs to its end: the next state is `t'` with the context moved past the instruction. -/
def Runs (i : Instr) (s : State) (c : Ctx) (t' : State) : Prop := exec i s = .next (c.done t')

/-- The instruction stalls and has no effect. Where QUOTA was delivered for an earlier instruction of the group, and it is behind
that one that this one would wait, QUOTA is taken in front of this one (R365, R366). -/
def Stalls (i : Instr) (s t : State) (c : Ctx) (w : Stall) : Prop :=
  let stalled := exec i s = .next (t.onGroup c.g.id fun h => { h with stall := some w })
  ((∀ e ∈ t.log, e.grp = c.g.id → e.state ≠ .quota) ∨ c.g.flow.tl = true → stalled) ∧
  (stalled ∨ ∃ q, c.g.due.find? (fun x => x.cause == .quota && x.replay.isSome) = some q ∧ exec i s = .next (t.takeQuota c
    { q with pos := c.cl.pos, seta := c.cl.seta, setb := c.cl.setb, lanes := c.cl.lanes, clause := some c.cl, held := true
             boundary := false }))

/-- Vector instructions: (constructor, minor, lanes' result and flags from the sources). -/
abbrev VRow := Mk × Nat × (Ctx → Nat → W32 × W64)

/-- Scalar instructions: (constructor, minor, result and flags from the sources). -/
abbrev SRow := Mk × Nat × (Ctx → W64 × W64)

/-! ## Integers (08 R179 to R182) -/

/-- The result and the flags that R179 and R180 give minor `m` on `n` bits; `old` is D read as a source. -/
def intResult (n m : Nat) (a b c old : BitVec n) : BitVec n × W64 :=
  match m with
  | 0 => (BitVec.ofInt n (a.toInt + b.toInt), 0)
  | 1 => (BitVec.ofInt n (a.toInt - b.toInt), 0)
  | 2 => (BitVec.ofInt n (a.toInt * b.toInt), 0)
  | 3 => (BitVec.ofInt n (a.toInt * b.toInt / 2 ^ n), 0)
  | 4 => (BitVec.ofNat n (a.toNat * b.toNat / 2 ^ n), 0)
  | 5 => (BitVec.ofInt n (a.toInt * b.toInt + c.toInt), 0)
  | 6 => (BitVec.ofInt n (min a.toInt b.toInt), 0)
  | 7 => (BitVec.ofInt n (max a.toInt b.toInt), 0)
  | 8 => (BitVec.ofNat n (min a.toNat b.toNat), 0)
  | 9 => (BitVec.ofNat n (max a.toNat b.toNat), 0)
  | 10 => (BitVec.ofInt n |a.toInt|, 0)
  | 11 => (BitVec.ofInt n (-a.toInt), 0)
  | 12 => (a &&& b, 0)
  | 13 => (a ||| b, 0)
  | 14 => (a ^^^ b, 0)
  | 15 => (a &&& ~~~b, 0)
  | 16 => (~~~a, 0)
  | 17 => (if b.toNat < n then BitVec.ofInt n (a.toInt * 2 ^ b.toNat) else 0, 0)
  | 18 => (if b.toNat < n then BitVec.ofNat n (a.toNat / 2 ^ b.toNat) else 0, 0)
  | 19 => (if b.toNat < n then BitVec.ofInt n (a.toInt / 2 ^ b.toNat) else if a.toInt < 0 then BitVec.allOnes n else 0, 0)
  | 20 => (a.rotateLeft (b.toNat % n), 0)
  | 21 => (a.clz, 0)
  | 22 => (a.cpop, 0)
  | 23 => (a.reverse, 0)
  | 24 =>
    let x := a.toInt + b.toInt
    (BitVec.ofInt n (satS x n), if satS x n = x then 0 else flSAT)
  | 25 =>
    let x := a.toInt - b.toInt
    (BitVec.ofInt n (satS x n), if satS x n = x then 0 else flSAT)
  | 27 =>
    if c = 0 ∨ n ≤ b.toNat then (0, 0)
    else (BitVec.ofNat n (a.toNat / 2 ^ b.toNat % 2 ^ min c.toNat (n - b.toNat)), 0)
  | 28 =>
    if c = 0 ∨ n ≤ b.toNat then (old, 0)
    else
      let w := min c.toNat (n - b.toNat)
      (BitVec.ofFnLE fun i : Fin n => if b.toNat ≤ i ∧ i < b.toNat + w then a.getLsbD (i - b.toNat) else old.getLsbD i, 0)
  | 29 =>
    if b = 0 then (0, flDZ)
    else if a.toInt = -2 ^ (n - 1) ∧ b.toInt = -1 then (BitVec.ofInt n (2 ^ (n - 1) - 1), flSAT)
    else (BitVec.ofInt n (a.toInt.tdiv b.toInt), 0)
  | 30 =>
    if b = 0 then (a, flDZ)
    else if a.toInt = -2 ^ (n - 1) ∧ b.toInt = -1 then (0, 0)
    else (BitVec.ofInt n (a.toInt - b.toInt * a.toInt.tdiv b.toInt), 0)
  | _ => (0, 0)

/-- Which sources minor `m` reads: B, C, D. -/
def readsB (m : Nat) : Bool := !(m == 10 || m == 11 || m == 16 || m == 21 || m == 22 || m == 23)
def readsC (m : Nat) : Bool := m == 5 || m == 27 || m == 28
def readsD (m : Nat) : Bool := m == 28

/-- The bitwise class of R179. -/
def bitwise (m : Nat) : Bool := (12 ≤ m && m ≤ 16) || m == 20 || m == 23

/-- The tag checks of IV (R135): RAW or I32 in each source of the integer class. -/
def ivTags (m : Nat) (c : Ctx) : List TagCheck :=
  if bitwise m then []
  else c.needA [0, 1] ++ (if readsB m then c.needB [0, 1] else []) ++ (if readsC m then c.needC [0, 1] else [])
    ++ (if readsD m then c.needD [0, 1] else [])

/-- The minors of IV and of IS but for `sel`. -/
def ivMinors : List (Mk × Mk × Nat) :=
  [(.iadd, .iaddS, 0), (.isub, .isubS, 1), (.imul, .imulS, 2), (.imulh, .imulhS, 3), (.imulhn, .imulhnS, 4),
   (.imad, .imadS, 5), (.imin, .iminS, 6), (.imax, .imaxS, 7), (.nmin, .nminS, 8), (.nmax, .nmaxS, 9),
   (.iabs, .iabsS, 10), (.ineg, .inegS, 11), (.and, .andS, 12), (.or, .orS, 13), (.xor, .xorS, 14),
   (.andn, .andnS, 15),
   (.not, .notS, 16), (.shl, .shlS, 17), (.shr, .shrS, 18), (.sar, .sarS, 19), (.rotl, .rotlS, 20),
   (.clz, .clzS, 21), (.popc, .popcS, 22), (.brev, .brevS, 23), (.sadd, .saddS, 24), (.ssub, .ssubS, 25),
   (.bfx, .bfxS, 27), (.bfi, .bfiS, 28), (.idiv, .idivS, 29), (.irem, .iremS, 30)]

/-- R182: the condition that minor `m` of ICV and ICS names. -/
def intCond (n m : Nat) (a b : BitVec n) : Prop :=
  match m with
  | 0 => a = b
  | 1 => a ≠ b
  | 2 => a.toInt < b.toInt
  | 3 => a.toInt ≤ b.toInt
  | 4 => b.toInt < a.toInt
  | 5 => b.toInt ≤ a.toInt
  | 6 => a.toNat < b.toNat
  | 7 => a.toNat ≤ b.toNat
  | 8 => b.toNat < a.toNat
  | 9 => b.toNat ≤ a.toNat
  | _ => False

/-- The minors of ICV and of ICS. -/
def icMinors : List (Mk × Mk × Nat) :=
  [(.icmpeq, .icmpeqS, 0), (.icmpne, .icmpneS, 1), (.icmplt, .icmpltS, 2), (.icmple, .icmpleS, 3), (.icmpgt, .icmpgtS, 4),
   (.icmpge, .icmpgeS, 5), (.icmplo, .icmploS, 6), (.icmpls, .icmplsS, 7), (.icmphi, .icmphiS, 8), (.icmphs, .icmphsS, 9)]

/-- The predicate bits that a compare leaves (R26, R182): in each executing lane D[5:4] combines the old bit with the
condition; the other lanes keep theirs. -/
def comparedBits (c : Ctx) (cond : Nat → Prop) (p : Mask) : Prop :=
  ∀ i, i < 64 → (p.getLsbD i = true ↔
    if i < c.w ∧ c.act.getLsbD i = true then
      match c.fd / 16 with
      | 0 => cond i
      | 1 => (c.g.pval (c.g.pref (c.fd % 8))).getLsbD i = true ∧ cond i
      | 2 => (c.g.pval (c.g.pref (c.fd % 8))).getLsbD i = true ∨ cond i
      | _ => ¬ ((c.g.pval (c.g.pref (c.fd % 8))).getLsbD i = true ↔ cond i)
    else (c.g.pval (c.g.pref (c.fd % 8))).getLsbD i = true)

end Sys2Proof.Stated

open Sys2Proof Sys2Proof.Machine Sys2Proof.Stated

/-- R179, R180: every minor of IV but `sel`, where its sources carry accepted tags, writes in each executing lane the
result that the table gives, tags D I32 (integer class) or RAW (bitwise class), sets the flags of the executing
lanes, changes nothing else, and moves on.
R179, R180: every minor of IS but `sel` writes, once, the result of the table on 64 bits into its scalar and sets
its flags; with no lane executing it does nothing; no tag is checked. -/
def Obligations.IntegerResults : Prop :=
  (∀ r ∈ ivMinors, ∀ (o : Ops) (s : State) (g : Group) (cl : Clause) (t : State), Clear s 1 r.2.2 o g cl t →
     let c := s.ctx 1 r.2.2 o g cl
     c.tagsPass (ivTags r.2.2 c) →
     Runs (r.1 o) s c (c.putVF t (fun i => intResult 32 r.2.2 (c.opA i) (c.opB i) (c.opC i) (c.opDk 0 i))
       (if bitwise r.2.2 then tRAW else tI32))) ∧
  (∀ r ∈ ivMinors, ∀ (o : Ops) (s : State) (g : Group) (cl : Clause) (t : State), Clear s 2 r.2.2 o g cl t →
     let c := s.ctx 2 r.2.2 o g cl
     Runs (r.2.1 o) s c (c.onceDo t (c.putSF t (intResult 64 r.2.2 c.sA c.sBl c.sC c.sD))))

/-- R181, R182: `sel` takes A where the predicate holds and B elsewhere, in every lane of the lane set; its tag is A's where
both agree; a compare whose sources carry tags of the integer class combines its condition into predicate D of the
executing lanes. -/
def Obligations.SelectsAndIntegerCompares : Prop :=
  ((∀ (o : Ops) (s : State) (g : Group) (cl : Clause) (t : State), Clear s 1 26 o g cl t →
     let c := s.ctx 1 26 o g cl
     c.act = cl.lanes &&& ~~~g.flow.exited &&& s.notIdle g ∧
     Runs (.sel o) s c (c.putV t 0 (fun i => if (predLanes g c.e).getLsbD i then c.opA i else c.opB i)
       (if c.o.lit.isSome ∨ c.tagA 0 = c.tagB 0 then c.tagA 0 else tRAW))) ∧
   (∀ (o : Ops) (s : State) (g : Group) (cl : Clause) (t : State) (i : Nat), Clear s 2 26 o g cl t →
     let c := s.ctx 2 26 o g cl
     cl.lanes.getLsbD i = true → i < c.w → (∀ j, j < i → cl.lanes.getLsbD j = false) →
     Runs (.selS o) s c (c.putS t (if (predLanes g c.e).getLsbD i then c.sA else c.sBl)))) ∧
  (∀ r ∈ icMinors,
   (∀ (o : Ops) (s : State) (g : Group) (cl : Clause) (t : State), Clear s 3 r.2.2 o g cl t →
     let c := s.ctx 3 r.2.2 o g cl
     c.tagsPass (c.needA [0, 1] ++ c.needB [0, 1]) →
     ∃ p : Mask, comparedBits c (fun i => intCond 32 r.2.2 (c.opA i) (c.opB i)) p ∧
       Runs (r.1 o) s c (c.putP t (c.fd % 8) p)) ∧
   (∀ (o : Ops) (s : State) (g : Group) (cl : Clause) (t : State), Clear s 4 r.2.2 o g cl t →
     let c := s.ctx 4 r.2.2 o g cl
     ∃ v : W64, (intCond 64 r.2.2 c.sA c.sBl → v = 1) ∧ (¬ intCond 64 r.2.2 c.sA c.sBl → v = 0) ∧
       Runs (r.2.1 o) s c (c.onceDo t (c.putSF t (v, 0)))))
namespace Sys2Proof.Stated
open Sys2Proof.Machine

/-! ## Packed integers (08 R183, R184) -/

/-- Half `h` of a register as a signed integer, and byte `b`. -/
def h16 (x : W32) (h : Nat) : Int := (BitVec.ofNat 16 (x.toNat / 2 ^ (16 * h))).toInt
def b8 (x : W32) (b : Nat) : Int := (BitVec.ofNat 8 (x.toNat / 2 ^ (8 * b))).toInt

/-- A register of two halves, each wrapped to 16 bits. -/
def pair16 (lo hi : Int) : W32 := BitVec.ofInt 16 hi ++ BitVec.ofInt 16 lo

/-- Two halves clamped to 16 bits, with SAT where either clamps. -/
def sat16 (lo hi : Int) : W32 × W64 :=
  (pair16 (satS lo 16) (satS hi 16), if satS lo 16 = lo ∧ satS hi 16 = hi then 0 else flSAT)

/-- A value clamped to 32 bits, with SAT where it clamps. -/
def sat32 (x : Int) : W32 × W64 := (BitVec.ofInt 32 (satS x 32), if satS x 32 = x then 0 else flSAT)

/-- The result and the flags of minor `m` of PK (R183, R184). -/
def pkResult (m : Nat) (a b c : W32) : W32 × W64 :=
  match m with
  | 0 => (pair16 (h16 a 0 + h16 b 0) (h16 a 1 + h16 b 1), 0)
  | 1 => (pair16 (h16 a 0 - h16 b 0) (h16 a 1 - h16 b 1), 0)
  | 2 => sat16 (h16 a 0 + h16 b 0) (h16 a 1 + h16 b 1)
  | 3 => sat16 (h16 a 0 - h16 b 0) (h16 a 1 - h16 b 1)
  | 4 => (pair16 (min (h16 a 0) (h16 b 0)) (min (h16 a 1) (h16 b 1)), 0)
  | 5 => (pair16 (max (h16 a 0) (h16 b 0)) (max (h16 a 1) (h16 b 1)), 0)
  | 6 => (pair16 (h16 a 0 * h16 b 0) (h16 a 1 * h16 b 1), 0)
  | 7 => sat32 (h16 a 0 * h16 b 0 + h16 a 1 * h16 b 1 + c.toInt)
  | 8 => sat32 (b8 a 0 * b8 b 0 + b8 a 1 * b8 b 1 + b8 a 2 * b8 b 2 + b8 a 3 * b8 b 3 + c.toInt)
  | 9 => (BitVec.ofNat 32 ((if h16 a 0 < h16 b 0 then 1 else 0) + (if h16 a 1 < h16 b 1 then 2 else 0)), 0)
  | 10 => (pair16 (h16 a 0) (h16 b 0), 0)
  | 11 => (pair16 (h16 a 1) (h16 a 0), 0)
  | 12 => sat16 |h16 a 0 - h16 b 0| |h16 a 1 - h16 b 1|
  | 13 => (BitVec.ofInt 32 (roundShift a.toInt (b.toNat % 32)), 0)
  | 14 => sat16 (roundShift a.toInt (b.toNat % 32)) (roundShift c.toInt (b.toNat % 32))
  | _ => (0, 0)

/-- The tags that minor `m` of PK accepts in A and B, its checks, and the tag of its result. -/
def pkOk (m : Nat) : List (BitVec 4) :=
  if m = 8 then [0, 6] else if m = 10 then [0, 1, 5] else if m = 13 ∨ m = 14 then [0, 1] else [0, 5]
def pkTags (m : Nat) (c : Ctx) : List TagCheck :=
  c.needA (pkOk m) ++ (if m = 11 then [] else c.needB (pkOk m)) ++ (if m = 7 ∨ m = 8 ∨ m = 14 then c.needC [0, 1] else [])
def pkTag (m : Nat) : BitVec 4 := if m = 7 ∨ m = 8 ∨ m = 9 ∨ m = 13 then tI32 else tI16x2

/-- The minors of PK but for `sxt2`. -/
def pkMinors : List (Mk × Nat) :=
  [(.add2, 0), (.sub2, 1), (.sadd2, 2), (.ssub2, 3), (.min2, 4), (.max2, 5), (.mul2l, 6), (.dot2, 7), (.dot4, 8),
   (.cmpm2, 9), (.pack2, 10), (.swap2, 11), (.absd2, 12), (.rshr, 13), (.rshrn, 14)]

/-! ## The exact result, rounded once (07 R155 to R168, 08 R186) -/

/-- What a code stands for, as a number: a NaN, an infinity, or a rational with the sign that its zero carries. -/
inductive Num where
  | nan
  | inf (neg : Bool)
  | fin (neg : Bool) (x : ℚ)

/-- A magnitude with a sign. -/
def signed (neg : Bool) (x : ℚ) : ℚ := if neg = true then -x else x

/-- 2 to an integer power. -/
noncomputable def twoTo (z : ℤ) : ℚ := (2 : ℚ) ^ z

/-- Exponent bias of a binary format, 2^(eb - 1) - 1 (R155). -/
def biasOf (f : FFmt) : ℤ := 2 ^ (f.eb - 1) - 1

/-- The number that a code of a binary format stands for, as IEEE 754 defines it (R155). -/
noncomputable def numOf (f : FFmt) (code : Nat) : Num :=
  let neg : Bool := decide (code / 2 ^ (f.eb + f.fb) % 2 = 1)
  let ef := code / 2 ^ f.fb % 2 ^ f.eb
  let mf := code % 2 ^ f.fb
  if ef = 2 ^ f.eb - 1 then (if mf = 0 then .inf neg else .nan)
  else if ef = 0 then .fin neg (signed neg (mf * twoTo (1 - biasOf f - f.fb)))
  else .fin neg (signed neg ((1 + (mf : ℚ) / 2 ^ f.fb) * twoTo (ef - biasOf f)))

/-- `InF` (R166): under SUBN 2 and 3 a magnitude below the smallest normal is read as zero of its sign. -/
noncomputable def inOf (f : FFmt) (mode : W64) (code : Nat) : Num :=
  match numOf f code with
  | .fin neg x => if mode.getLsbD 4 = true ∧ |x| < twoTo (1 - biasOf f) then .fin neg 0 else .fin neg x
  | v => v

/-- `k` is the integer nearest to `t` under `rm` (R166, R167). -/
def Nearest (rm : Rm) (t : ℚ) (k : ℤ) : Prop :=
  match rm with
  | .rtz => (0 ≤ t → k = ⌊t⌋) ∧ (t ≤ 0 → k = ⌈t⌉)
  | .rdn => k = ⌊t⌋
  | .rup => k = ⌈t⌉
  | .rne => |t - k| ≤ 1 / 2 ∧ (|t - k| = 1 / 2 → Even k)
  | .rna => |t - k| ≤ 1 / 2 ∧ (|t - k| = 1 / 2 → |t| < |(k : ℚ)|)

/-- Canonical NaN of a format (R155). -/
def nanOf (f : FFmt) : Nat := (2 ^ f.eb - 1) * 2 ^ f.fb + 2 ^ (f.fb - 1)

/-- `r` is the code and the flags of `Canon(Round(v, f, rm))` under the SUBN of `mode` (R166): the exact value rounded once to
the precision of the format, OF beyond the largest finite value, UF where what an unbounded exponent would give is below
the smallest normal and the result is not exact. -/
def Rounds (f : FFmt) (mode : W64) (rm : Rm) (v : Num) (r : Nat × W64) : Prop :=
  r.1 < 2 ^ (1 + f.eb + f.fb) ∧
  match v with
  | .nan => r = (nanOf f, 0)
  | .inf neg => numOf f r.1 = .inf neg ∧ r.2 = 0
  | .fin neg x =>
    if x = 0 then numOf f r.1 = .fin neg 0 ∧ r.2 = 0
    else ∃ (q u k : ℤ) (y : ℚ), twoTo (q + f.fb) ≤ |x| ∧ |x| < twoTo (q + f.fb + 1) ∧ Nearest rm (x / twoTo q) u ∧
      Nearest rm (x / twoTo (max q (1 - biasOf f - f.fb))) k ∧ y = k * twoTo (max q (1 - biasOf f - f.fb)) ∧
      let big : ℚ := (2 ^ (f.fb + 1) - 1) * twoTo (biasOf f - f.fb)
      if big < |y| then
        r.2 = flOF ||| flNX ∧ numOf f r.1 =
          if rm = .rne ∨ rm = .rna ∨ (rm = .rdn ∧ x < 0) ∨ (rm = .rup ∧ 0 < x) then .inf neg else .fin neg (signed neg big)
      else if mode.getLsbD 3 = true ∧ y ≠ 0 ∧ |y| < twoTo (1 - biasOf f) then
        numOf f r.1 = .fin neg 0 ∧ r.2 = flUF ||| flNX
      else numOf f r.1 = .fin neg y ∧
        r.2 = (if y ≠ x ∧ |u * twoTo q| < twoTo (1 - biasOf f) then flUF else 0) ||| (if y ≠ x then flNX else 0)

/-- The other sign. -/
def minus : Num → Num
  | .nan => .nan
  | .inf neg => .inf (!neg)
  | .fin neg x => .fin (!neg) (-x)

/-- x + y exactly; `none` is the invalid case. A zero sum of operands of opposite sign is +0, under RDN −0 (R157). -/
def sumOf (rm : Rm) : Num → Num → Option Num
  | .nan, _ => some .nan
  | _, .nan => some .nan
  | .inf a, .inf b => if a = b then some (.inf a) else none
  | .inf a, .fin _ _ => some (.inf a)
  | .fin _ _, .inf b => some (.inf b)
  | .fin a x, .fin b y =>
    some (.fin (if x + y = 0 then (if a = b then a else decide (rm = .rdn)) else decide (x + y < 0)) (x + y))

/-- x × y exactly; 0 × ∞ is invalid. -/
def prodOf : Num → Num → Option Num
  | .nan, _ => some .nan
  | _, .nan => some .nan
  | .inf a, .inf b => some (.inf (a ^^ b))
  | .inf a, .fin b y => if y = 0 then none else some (.inf (a ^^ b))
  | .fin a x, .inf b => if x = 0 then none else some (.inf (a ^^ b))
  | .fin a x, .fin b y => some (.fin (a ^^ b) (x * y))

/-- The exact results of the minors 0 to 5 of FV and FS (R186), `none` where the minor is invalid. -/
def exactMinors : List (FEl × (Rm → Num → Num → Num → Option Num)) :=
  [(eAdd, fun rm x y _ => sumOf rm x y), (eSub, fun rm x y _ => sumOf rm x (minus y)), (eMul, fun _ x y _ => prodOf x y),
   (eFma, fun rm x y z => (prodOf x y).bind fun p => sumOf rm p z),
   (eFms, fun rm x y z => (prodOf x y).bind fun p => sumOf rm p (minus z)),
   (eFnma, fun rm x y z => (prodOf x y).bind fun p => sumOf rm (minus p) z)]

/-- The arithmetic of one element of a format: the exact result of the inputs as `InF` reads them, rounded once; NV and the
canonical NaN where the minor is invalid. -/
def RoundsOnce (f : FFmt) : Prop :=
  ∀ p ∈ exactMinors, ∀ (mode : W64) (rm : Rm) (a b c : Nat),
    a < 2 ^ (1 + f.eb + f.fb) → b < 2 ^ (1 + f.eb + f.fb) → c < 2 ^ (1 + f.eb + f.fb) →
    match p.2 rm (inOf f mode a) (inOf f mode b) (inOf f mode c) with
    | none => p.1 f mode rm a b c = (nanOf f, flNV)
    | some v => Rounds f mode rm v (p.1 f mode rm a b c)

/-- The number that a value of the model stands for. -/
noncomputable def numV : FVal → Num
  | .nan => .nan
  | .inf neg => .inf neg
  | .fin neg m e => .fin neg (signed neg (m * twoTo e))

/-- The order of two numbers, false with a NaN; −0 is +0 (R190). -/
def before : Num → Num → Prop
  | .inf a, .inf b => a = true ∧ b = false
  | .inf a, .fin _ _ => a = true
  | .fin _ _, .inf b => b = false
  | .fin _ x, .fin _ y => x < y
  | _, _ => False

/-- Equality of two numbers, false with a NaN; −0 is +0 (R190). -/
def sameAs : Num → Num → Prop
  | .inf a, .inf b => a = b
  | .fin _ x, .fin _ y => x = y
  | _, _ => False

/-! ## Floating arithmetic (08 R185 to R190) -/

/-- The minors of FV and FS but for `fclass`: vector and scalar constructor, minor, the element's function, sources. -/
def fMinors : List (Mk × Mk × Nat × FEl × Nat) :=
  [(.fadd, .faddS, 0, eAdd, 2), (.fsub, .fsubS, 1, eSub, 2), (.fmul, .fmulS, 2, eMul, 2), (.ffma, .ffmaS, 3, eFma, 3),
   (.ffms, .ffmsS, 4, eFms, 3), (.fnma, .fnmaS, 5, eFnma, 3), (.fmin, .fminS, 6, eMin, 2), (.fmax, .fmaxS, 7, eMax, 2),
   (.fminnum, .fminnumS, 8, eMinnum, 2), (.fmaxnum, .fmaxnumS, 9, eMaxnum, 2), (.fabs, .fabsS, 10, eAbs, 1),
   (.fneg, .fnegS, 11, eNeg, 1),
   (.fcps, .fcpsS, 12, eCps, 2), (.frnd, .frndS, 13, eRnd, 1), (.frcp, .frcpS, 14, eRcp, 1), (.frsq, .frsqS, 15, eRsq, 1),
   (.fsqrt, .fsqrtS, 16, eSqrt, 1), (.fdiv, .fdivS, 17, eDiv, 2), (.fexp2, .fexp2S, 18, eExp2, 1),
   (.flog2, .flog2S, 19, eLog2, 1), (.ftanh, .ftanhS, 20, eTanh, 1), (.fsig, .fsigS, 21, eSig, 1)]

/-- Tag checks of FV: A is of a float format, the other sources carry A's tag (R185). -/
def fTags (n : Nat) (c : Ctx) : List TagCheck :=
  c.needA [2, 3, 4] ++ (if 2 ≤ n then c.needB [c.tagA 0] else []) ++ (if 3 ≤ n then c.needC [c.tagA 0] else [])

/-- The elements of a register under a tag: one F32, or two of 16 bits (R185). -/
def elemsOf (tag : BitVec 4) (x : W32) : List Nat :=
  if tag = 3 ∨ tag = 4 then [x.toNat % 2 ^ 16, x.toNat / 2 ^ 16] else [x.toNat]

/-- A register from its elements. -/
def ofElems : List Nat → W32
  | [x] => BitVec.ofNat 32 x
  | [x, y] => BitVec.ofNat 32 (x + y * 2 ^ 16)
  | _ => 0

/-- A lane of FV: the element function on each element, the flags of all. -/
def fLane (el : FEl) (c : Ctx) (n i : Nat) : W32 × W64 :=
  let tag := c.tagA 0
  let bs := if 2 ≤ n then elemsOf tag (c.opB i) else (elemsOf tag (c.opA i)).map fun _ => 0
  let cs := if 3 ≤ n then elemsOf tag (c.opC i) else (elemsOf tag (c.opA i)).map fun _ => 0
  let rs := ((elemsOf tag (c.opA i)).zip (bs.zip cs)).map fun p => el (fmtOfTag tag) c.mode c.rm p.1 p.2.1 p.2.2
  (ofElems (rs.map fun r => r.1), rs.foldl (fun f r => f ||| r.2) 0)

/-- The compares of FCV (R190) on two values. -/
def fcMinors : List (Mk × Nat × (FVal → FVal → Prop)) :=
  [(.fcmpeq, 0, fun x y => fEq x y = true), (.fcmpne, 1, fun x y => fEq x y = false), (.fcmplt, 2, fun x y => fLt x y = true),
   (.fcmple, 3, fun x y => fLt x y = true ∨ fEq x y = true), (.fcmpgt, 4, fun x y => fLt y x = true),
   (.fcmpge, 5, fun x y => fLt y x = true ∨ fEq x y = true), (.fcmpun, 6, fun x y => x = .nan ∨ y = .nan),
   (.fcmpord, 7, fun x y => x ≠ .nan ∧ y ≠ .nan)]

end Sys2Proof.Stated

open Sys2Proof Sys2Proof.Machine Sys2Proof.Stated

/-- R183, R184: every minor of PK, where its sources carry accepted tags, writes the result and tag of the table and sets
SAT where a half or the sum clamps; `sxt2` with k above 1 raises ILLOP 0x0D where a lane executes (the last clause). -/
def Obligations.PackedIntegerResults : Prop :=
  (∀ r ∈ pkMinors, ∀ (o : Ops) (s : State) (g : Group) (cl : Clause) (t : State), Clear s 5 r.2 o g cl t →
    let c := s.ctx 5 r.2 o g cl
    c.tagsPass (pkTags r.2 c) →
    Runs (r.1 o) s c (c.putVF t (fun i => pkResult r.2 (c.opA i) (c.opB i) (c.opC i)) (pkTag r.2))) ∧
  (∀ (o : Ops) (s : State) (g : Group) (cl : Clause) (t : State), Clear s 5 15 o g cl t →
    let c := s.ctx 5 15 o g cl
    c.tagsPass (c.needA [0, 5]) →
    (c.fb ≤ 1 → Runs (.sxt2 o) s c (c.putVF t (fun i => (BitVec.ofInt 32 (h16 (c.opA i) c.fb), 0)) tI32)) ∧
    (1 < c.fb → c.anyLane = true → exec (.sxt2 o) s = .next (t.raise g.id (c.trapAt .illop 0x0D))))

/-- R185 to R189: every minor of FV applies its function to each element of the format that A's tag names (one F32, or two
of 16 bits), in the rounding mode of XMOD or MODE, tags D like A, and sets the flags of all elements of executing
lanes; `fclass` gives tag I32 or I16x2. In each of the three formats the functions of `fadd`, `fsub`, `fmul`, `ffma`,
`ffms` and `fnma` give the exact result of their inputs, read through `InF`, rounded once with the flags of R166, and NV with the
canonical NaN in their invalid cases (R156, R157, R186); those of the other minors enter as the model's own reading. -/
def Obligations.FloatVectorResults : Prop :=
  (∀ r ∈ fMinors, ∀ (o : Ops) (s : State) (g : Group) (cl : Clause) (t : State), Clear s 6 r.2.2.1 o g cl t →
    let c := s.ctx 6 r.2.2.1 o g cl
    c.tagsPass (fTags r.2.2.2.2 c) →
    Runs (r.1 o) s c (c.putVF t (fun i => fLane r.2.2.2.1 c r.2.2.2.2 i) (c.tagA 0))) ∧
  (∀ (o : Ops) (s : State) (g : Group) (cl : Clause) (t : State), Clear s 6 22 o g cl t →
    let c := s.ctx 6 22 o g cl
    c.tagsPass (c.needA [2, 3, 4]) →
    Runs (.fclass o) s c (c.putVF t (fun i => fLane eClass c 1 i) (if c.tagA 0 = tF32 then tI32 else tI16x2))) ∧
  (∀ f ∈ [fmtF32, fmtF16, fmtBF16], RoundsOnce f)

/-- R185, R190: every minor of FS applies its function once to bits [31:0] of its sources as F32, writes bits [31:0] of D with
zeros above them and sets the function's flags; a compare of FCV on two sources of tag F32 combines its condition into
predicate D in the executing lanes and sets no flag. The functions of the minors 0 to 5 round the exact result once (R166, R186),
and the compares are those of the numbers that the codes stand for, read through `InF`, with −0 equal to +0 and every order and
equality false of a NaN. -/
def Obligations.FloatScalarsAndCompares : Prop :=
  (∀ r ∈ fMinors ++ [(.fclass, .fclassS, 22, eClass, 1)],
     ∀ (o : Ops) (s : State) (g : Group) (cl : Clause) (t : State), Clear s 7 r.2.2.1 o g cl t →
     let c := s.ctx 7 r.2.2.1 o g cl
     let x := r.2.2.2.1 fmtF32 c.mode c.rm (c.sA.toNat % 2 ^ 32) (c.sBl.toNat % 2 ^ 32) (c.sC.toNat % 2 ^ 32)
     Runs (r.2.1 o) s c (c.onceDo t (c.putSF t (BitVec.ofNat 64 x.1, x.2)))) ∧
  ((∀ r ∈ fcMinors, ∀ (o : Ops) (s : State) (g : Group) (cl : Clause) (t : State), Clear s 8 r.2.1 o g cl t →
     let c := s.ctx 8 r.2.1 o g cl
     let x (w : W32) : FVal := fmtF32.inF c.mode w.toNat
     c.tagsPass (c.needA [2] ++ c.needB [2]) →
     ∃ p : Mask, comparedBits c (fun i => r.2.2 (x (c.opA i)) (x (c.opB i))) p ∧ Runs (r.1 o) s c (c.putP t (c.fd % 8) p)) ∧
   (∀ y : FVal, fEq .nan y = false ∧ fEq y .nan = false ∧ fLt .nan y = false ∧ fLt y .nan = false)) ∧
  RoundsOnce fmtF32 ∧
  (∀ (mode : W64) (a b : Nat), a < 2 ^ 32 → b < 2 ^ 32 →
    (fLt (fmtF32.inF mode a) (fmtF32.inF mode b) = true ↔ before (inOf fmtF32 mode a) (inOf fmtF32 mode b)) ∧
    (fEq (fmtF32.inF mode a) (fmtF32.inF mode b) = true ↔ sameAs (inOf fmtF32 mode a) (inOf fmtF32 mode b)))
namespace Sys2Proof.Stated
open Sys2Proof.Machine

/-! ## Conversions and block quantisation (07 R169 to R176) -/

/-- `Val` of R170. -/
def elemVal (c : Ctx) (a : W32) (k : Nat) : FVal :=
  if c.tagA 0 = 1 then ofUnits false a.toInt 0
  else if c.tagA 0 = 5 then ofUnits false (h16 a k) 0
  else if c.tagA 0 = 3 then fmtBF16.inF c.mode (a.toNat / 2 ^ (16 * k) % 2 ^ 16)
  else if c.tagA 0 = 4 then fmtF16.inF c.mode (a.toNat / 2 ^ (16 * k) % 2 ^ 16)
  else fmtF32.inF c.mode a.toNat

/-- An F32 result from a value, with its flags: `Canon(Round(v, F32, rm))`. -/
def toF32 (c : Ctx) (v : FVal) : W32 × W64 := (BitVec.ofNat 32 (fmtF32.put c.mode c.rm v).1, (fmtF32.put c.mode c.rm v).2)

/-- Two 16-bit results with the flags of both. -/
def twoOf (lo hi : Nat × W64) : W32 × W64 := (BitVec.ofNat 32 (lo.1 + hi.1 * 2 ^ 16), lo.2 ||| hi.2)

/-- `Narrow(x, n)` of R170: signed, n bits, from F32 or I32. -/
def narrowed (c : Ctx) (x : W32) (n : Nat) : Int × W64 :=
  if c.tagA 0 = 2 then fToInt (fmtF32.decode x.toNat) n true c.rm
  else (satS x.toInt n, if satS x.toInt n = x.toInt then 0 else flSAT)

/-- The lanes of CVT but for `retag` (R170): constructor, minor, tag checks, result tag, lane. -/
noncomputable def cvtMinors : List (Mk × Nat × (Ctx → List TagCheck) × (Ctx → BitVec 4) × (Ctx → Nat → W32 × W64)) :=
  let f32 (c : Ctx) (i : Nat) : FVal := fmtF32.inF c.mode (c.opA i).toNat
  let f32b (c : Ctx) (i : Nat) : FVal := fmtF32.inF c.mode (c.opB i).toNat
  let same (c : Ctx) : List (BitVec 4) := if c.tagA 0 = 1 then [1] else [2]
  [(.tof32, 0, fun c => c.needA [1, 2, 3, 4, 5], fun _ => tF32, fun c i => toF32 c (elemVal c (c.opA i) 0)),
   (.hi2f32, 10, fun c => c.needA [3, 4, 5], fun _ => tF32, fun c i => toF32 c (elemVal c (c.opA i) 1)),
   (.tobf16x2, 1, fun c => c.needA [2] ++ c.needB [2], fun _ => tBF16x2,
     fun c i => twoOf (fmtBF16.put c.mode c.rm (f32 c i)) (fmtBF16.put c.mode c.rm (f32b c i))),
   (.tof16x2, 2, fun c => c.needA [2] ++ c.needB [2], fun _ => tF16x2,
     fun c i => twoOf (fmtF16.put c.mode c.rm (f32 c i)) (fmtF16.put c.mode c.rm (f32b c i))),
   (.toi32, 3, fun c => c.needA [2], fun _ => tI32,
     fun c i => (BitVec.ofInt 32 (fToInt (f32 c i) 32 true c.rm).1, (fToInt (f32 c i) 32 true c.rm).2)),
   (.ton32, 4, fun c => c.needA [2], fun _ => tI32,
     fun c i => (BitVec.ofInt 32 (fToInt (f32 c i) 32 false c.rm).1, (fToInt (f32 c i) 32 false c.rm).2)),
   (.toi16x2, 5, fun c => c.needA [2, 1] ++ c.needB (same c), fun _ => tI16x2,
     fun c i => (BitVec.ofInt 16 (narrowed c (c.opB i) 16).1 ++ BitVec.ofInt 16 (narrowed c (c.opA i) 16).1,
       (narrowed c (c.opA i) 16).2 ||| (narrowed c (c.opB i) 16).2)),
   (.toi8x4, 6, fun c => c.needA [2, 1] ++ c.needAk 1 (same c) ++ c.needAk 2 (same c) ++ c.needAk 3 (same c), fun _ => tI8x4,
     fun c i =>
       let n (k : Nat) : Int × W64 := narrowed c (c.opAk k i) 8
       (BitVec.ofInt 8 (n 3).1 ++ BitVec.ofInt 8 (n 2).1 ++ BitVec.ofInt 8 (n 1).1 ++ BitVec.ofInt 8 (n 0).1,
        (n 0).2 ||| (n 1).2 ||| (n 2).2 ||| (n 3).2)),
   (.tonf, 7, fun c => c.needA [2], fun c => BitVec.ofNat 4 (8 + c.fb),
     fun c i => let r := encodeVal (c.g.nfmt c.fb) c.mode c.rm true (f32 c i) 0; (BitVec.ofNat 32 r.1, r.2.2)),
   (.fromnf, 8, fun c => c.needA [8, 9, 10, 11, 12, 13, 14, 15], fun _ => tF32,
     fun c i =>
       let v := c.nfA.decode (modeNfsub c.mode) ((c.opA i).toNat % 2 ^ c.nfA.slot)
       toF32 c (.fin v.1 v.2.1 v.2.2))]

/-- The lanes of a block of 32 that execute (R172, R173). -/
def blockLanes (c : Ctx) (b : Nat) : List Nat := c.lanes.filter fun i => i / 32 == b

/-! ## The conversions, exactly (07 R159, R160, R166 to R168) -/

/-- `FToInt` (R167) of a number: the integer and its flag. -/
def ToInt (n : Nat) (sgn : Bool) (rm : Rm) (v : Num) (r : Int × W64) : Prop :=
  let lo : Int := if sgn = true then -2 ^ (n - 1) else 0
  let hi : Int := if sgn = true then 2 ^ (n - 1) - 1 else 2 ^ n - 1
  match v with
  | .nan => r = (0, flNV)
  | .inf neg => r = (if neg = true then lo else hi, flNV)
  | .fin _ x => ∃ k : ℤ, Nearest rm x k ∧
      r = if k < lo then (lo, flNV) else if hi < k then (hi, flNV) else (k, if (k : ℚ) ≠ x then flNX else 0)

/-- What a code of a narrow format stands for (R159), a subnormal code zero under NFSUB where the format has exponent bits
(R160): the sign and the value. -/
noncomputable def narrowOf (f : NFmt) (nfsub : Bool) (code : Nat) : Num :=
  let neg : Bool := f.s && decide (code / 2 ^ (f.e + f.m) % 2 = 1)
  let ef := if 1 ≤ f.e then code / 2 ^ f.m % 2 ^ f.e else 0
  let mf := code % 2 ^ f.m
  .fin neg (signed neg (
    if ef = 0 then (if nfsub = true ∧ 1 ≤ f.e then 0 else mf * twoTo (1 - f.bias - f.m))
    else (2 ^ f.m + mf) * twoTo (ef - f.bias - f.m)))

/-- Largest finite magnitude of a narrow format, and its smallest normal (R159). -/
noncomputable def maxfin (f : NFmt) : ℚ :=
  if 1 ≤ f.e then (2 ^ (f.m + 1) - 1) * twoTo (2 ^ f.e - 1 - f.bias - f.m) else (2 ^ f.m - 1) * twoTo (1 - f.bias - f.m)
noncomputable def minnorm (f : NFmt) : ℚ := twoTo (1 - f.bias)

/-- Lines 5 to 14 of R168: what `NEncode` gives for a number of sign `neg` once it is rounded to `r`, where `exact` says that
nothing was lost: the code, whether the overflow is left unresolved, the flags. -/
def Encoded (f : NFmt) (sat neg : Bool) (r : ℚ) (exact beyond : Prop) (x : Nat × Bool × W64) : Prop :=
  let small (y : ℚ) : Prop := y = 0 ∨ (1 ≤ f.e ∧ |y| < minnorm f)
  (beyond ∧ sat = false → x = (0, true, 0)) ∧
  (beyond ∧ sat = true →
    let y : ℚ := if f.s = false ∧ neg = true then 0 else signed neg (maxfin f)
    x.1 < 2 ^ f.width ∧ narrowOf f false x.1 = .fin (f.s && neg) y ∧ x.2.1 = false ∧
    (small y → x.2.2 = flNSAT ||| flNX ||| flUF) ∧ (¬ small y → x.2.2 = flNSAT ||| flNX)) ∧
  (¬ beyond →
    x.1 < 2 ^ f.width ∧ narrowOf f false x.1 = .fin (f.s && neg) r ∧ x.2.1 = false ∧
    (exact → x.2.2 = 0) ∧ (¬ exact → small r → x.2.2 = flNX ||| flUF) ∧ (¬ exact → ¬ small r → x.2.2 = flNX))

/-- `NEncode` (R168) of a number times 2^`scale`: rounded once to the values of the format with a sign and an unbounded top
binade; a NaN has code 0 and sets NV (R170, R173), an infinity lies beyond every value. -/
def Encodes (f : NFmt) (nfsub : Bool) (rm : Rm) (sat : Bool) (scale : ℤ) (v : Num) (x : Nat × Bool × W64) : Prop :=
  match v with
  | .nan => x = (0, false, flNV)
  | .inf neg => Encoded f sat neg 0 False True x
  | .fin neg v =>
    let y := v * twoTo scale
    let low : ℤ := 1 - f.bias - f.m
    let top : ℤ := if 1 ≤ f.e then 2 ^ f.e - 1 - f.bias - f.m else low
    if y = 0 then Encoded f sat neg 0 True False x
    else ∃ q k : ℤ, twoTo (q + f.m) ≤ |y| ∧ |y| < twoTo (q + f.m + 1) ∧
      let u : ℤ := min (max q low) top
      let r0 : ℚ := k * twoTo u
      let r : ℚ := if nfsub = true ∧ 1 ≤ f.e ∧ |r0| < minnorm f then 0 else r0
      Nearest rm (y / twoTo u) k ∧ Encoded f sat neg r (r = y) ((f.s = false ∧ r < 0) ∨ maxfin f < |r|) x

/-- The fields of an nf word (R158). -/
def nfWord (w : BitVec 16) : NFmt :=
  { s := decide (w.toNat / 2 ^ 7 % 2 = 1), e := w.toNat / 2 ^ 4 % 2 ^ 3, m := w.toNat % 2 ^ 4
    bias := (BitVec.ofNat 8 (w.toNat / 2 ^ 8)).toInt }

end Sys2Proof.Stated

open Sys2Proof Sys2Proof.Machine Sys2Proof.Stated

/-- R169, R170: every minor of CVT, where its sources carry accepted tags, writes the converted lanes and the result tag and
sets the flags of executing lanes; `retag` moves the bits and sets the tag t, and raises ILLOP 0x0D, where a lane executes, for t of 7
or above 15. The functions those lanes use round once: a binary format by R166, an integer by R167, a narrow format by R168,
each from the number that its source stands for (R155, R159, R160). -/
def Obligations.ConversionResults : Prop :=
  (∀ r ∈ cvtMinors, ∀ (o : Ops) (s : State) (g : Group) (cl : Clause) (t : State), Clear s 9 r.2.1 o g cl t →
    let c := s.ctx 9 r.2.1 o g cl
    c.tagsPass (r.2.2.1 c) → Runs (r.1 o) s c (c.putVF t (r.2.2.2.2 c) (r.2.2.2.1 c))) ∧
  (∀ (o : Ops) (s : State) (g : Group) (cl : Clause) (t : State), Clear s 9 9 o g cl t →
    let c := s.ctx 9 9 o g cl
    (c.fb ≤ 15 ∧ c.fb ≠ 7 → Runs (.retag o) s c (c.putV t 0 c.opA (BitVec.ofNat 4 c.fb))) ∧
    (c.fb = 7 ∨ 15 < c.fb → c.anyLane = true → exec (.retag o) s = .next (t.raise g.id (c.trapAt .illop 0x0D)))) ∧
  (∀ f ∈ [fmtF32, fmtF16, fmtBF16], ∀ (mode : W64) (rm : Rm),
    (∀ v, Rounds f mode rm (numV v) (f.put mode rm v)) ∧
    ∀ a, numV (f.decode a) = numOf f a ∧ numV (f.inF mode a) = inOf f mode a) ∧
  (∀ v n sgn rm, 1 ≤ n → ToInt n sgn rm (numV v) (fToInt v n sgn rm)) ∧
  (∀ w : BitVec 16, let f := NFmt.ofWord w
    f = nfWord w ∧ (1 ≤ f.width → f.width ≤ 8 → ∀ (mode : W64) (rm : Rm),
      (∀ code, numV (let d := f.decode (mode.getLsbD 9) code; .fin d.1 d.2.1 d.2.2) = narrowOf f (mode.getLsbD 9) code) ∧
      ∀ sat v scale, Encodes f (mode.getLsbD 9) rm sat scale (numV v) (encodeVal f mode rm sat v scale)))

/-- R172, R175: `bamax` writes the largest magnitude of the executing lanes of each block of 32 (the canonical NaN if one is
a NaN), `scaleof` the smallest scale code under which that magnitude encodes; `pack4` gathers slot 0 of n lanes into a
register, `unpack4` spreads the slots; a width of 16 raises ILLOP 0x0D in `bamax` where a lane
executes. That both cut a slot to the w bits of its code (R159 says that the bits above are not stored) is the model's
choice (log entry 32, DEDUCED). -/
def Obligations.BlockScaleResults : Prop :=
  (∀ (o : Ops) (s : State) (g : Group) (cl : Clause) (t : State), Clear s 10 2 o g cl t →
    let c := s.ctx 10 2 o g cl
    c.tagsPass (c.needA [2]) →
    (32 ≤ c.w → ∃ m : Nat → Nat,
      (∀ b, m b = if b < c.w / 32 then amaxCode ((blockLanes c b).map fun i => fmtF32.inF c.mode (c.opA i).toNat) else 0) ∧
      Runs (.bamax o) s c (c.onceDo t (c.putS t (BitVec.ofNat 64 (m 0 + m 1 * 2 ^ 32))))) ∧
    (c.w < 32 → c.anyLane = true → exec (.bamax o) s = .next (t.raise g.id (c.trapAt .illop 0x0D)))) ∧
  (∀ (o : Ops) (s : State) (g : Group) (cl : Clause) (t : State), Clear s 10 3 o g cl t →
    let c := s.ctx 10 3 o g cl
    let k (b : Nat) : Nat := scaleCode (g.nfmt c.fb) (fmtF32.decode (c.sA.toNat / 2 ^ (32 * b) % 2 ^ 32))
    Runs (.scaleof o) s c (c.onceDo t (c.putS t (BitVec.ofNat 64 (k 0 + k 1 * 2 ^ 8))))) ∧
  (∀ (o : Ops) (s : State) (g : Group) (cl : Clause) (t : State), Clear s 10 4 o g cl t →
    let c := s.ctx 10 4 o g cl
    let n := 32 / c.nfA.slot
    c.tagsPass (c.needA nfTags) →
    Runs (.pack4 o) s c (c.putV t 0 (fun i =>
      if i < c.w / n then
        packSlots c.nfA.slot ((List.range n).map fun j => (c.opA (n * i + j)).toNat % 2 ^ c.nfA.slot % 2 ^ c.nfA.width)
      else 0) (c.tagA 0))) ∧
  (∀ (o : Ops) (s : State) (g : Group) (cl : Clause) (t : State), Clear s 10 5 o g cl t →
    let c := s.ctx 10 5 o g cl
    let n := 32 / c.nfA.slot
    c.tagsPass (c.needA nfTags) →
    Runs (.unpack4 o) s c (c.putV t 0 (fun i =>
      BitVec.ofNat 32 ((c.opA (i / n)).toNat / 2 ^ (c.nfA.slot * (i % n)) % 2 ^ c.nfA.slot % 2 ^ c.nfA.width)) (c.tagA 0)))

/-- R173, R174: `qnt` encodes the executing lanes of each block under the scale byte of s(B), tags D 8 + C, and writes the
scale bytes back (0xFF for a block gone bad) where a block has an executing lane; `dqnt` multiplies each code by its
scale and rounds to F32, the canonical NaN for a scale of 0xFF. That the lanes of a block are taken in ascending order, which decides
the flags set before its scale becomes NaN, is the model's choice (log entry 59, DESIGN CHOICE). -/
def Obligations.BlockQuantisationResults : Prop :=
  (∀ (o : Ops) (s : State) (g : Group) (cl : Clause) (t : State), Clear s 10 0 o g cl t →
    let c := s.ctx 10 0 o g cl
    let x (i : Nat) : FVal := fmtF32.inF c.mode (c.opA i).toNat
    let q (b : Nat) : List (Nat × Nat) × Nat × W64 :=
      quantBlock (g.nfmt c.fc) c.mode c.rm (c.sB.toNat / 2 ^ (8 * b) % 2 ^ 8) ((blockLanes c b).map fun i => (i, x i))
    c.tagsPass (c.needA [2]) → 32 ≤ c.w →
    ∃ sb : W64,
      (∀ k, k < 64 → sb.getLsbD k =
        if k / 8 < 2 ∧ blockLanes c (k / 8) ≠ [] then (q (k / 8)).2.1.testBit (k % 8) else c.sB.getLsbD k) ∧
      Runs (.qnt o) s c ((c.onceDo (c.putV t 0 (fun i => BitVec.ofNat 32 (aget (q (i / 32)).1 i 0)) (BitVec.ofNat 4 (8 + c.fc)))
        ((c.putV t 0 (fun i => BitVec.ofNat 32 (aget (q (i / 32)).1 i 0)) (BitVec.ofNat 4 (8 + c.fc))).onGroup g.id
          fun h => h.setSval (g.sref c.fb) sb)).onGroup g.id fun h => h.orFlags ((q 0).2.2 ||| (q 1).2.2))) ∧
  (∀ (o : Ops) (s : State) (g : Group) (cl : Clause) (t : State), Clear s 10 1 o g cl t →
    let c := s.ctx 10 1 o g cl
    c.tagsPass (c.needA nfTags) → 32 ≤ c.w →
    Runs (.dqnt o) s c (c.putVF t (fun i =>
      let k : Nat := c.sB.toNat / 2 ^ (8 * (i / 32)) % 2 ^ 8
      if k = 255 then (0x7FC00000#32, 0)
      else
        let v := c.nfA.decode (modeNfsub c.mode) ((c.opA i).toNat % 2 ^ c.nfA.slot)
        toF32 c (.fin v.1 v.2.1 (v.2.2 + ((k : Int) - 127)))) tF32))

namespace Sys2Proof.Stated
open Sys2Proof.Machine

/-! ## Lane exchange, predicate logic, moves (06 R143 to R149) -/

/-- Nothing but the shared checks stands before the effect: tags, the relaxation gate, and the family's operand check. -/
def Passes (t : State) (c : Ctx) (tags : List TagCheck) (bad : Prop) : Prop :=
  c.tagsPass tags ∧ t.rlxRefuses c = none ∧ ¬ bad

/-- Signed sum of the executing lanes' A. -/
def sumA (c : Ctx) : Int := (c.lanes.map fun i => (c.opA i).toInt).sum

/-- Vector forms of XL and MV: constructor, major, minor, tags, what is out of range, result tag, lane. -/
noncomputable def laneVec : List (Mk × Nat × Nat × (Ctx → List TagCheck) × (Ctx → Prop) × (Ctx → BitVec 4) × (Ctx → Nat → W32)) :=
  let lo (x : W32) : Nat := x.toNat % 2 ^ 16
  let hi (x : W32) : Nat := x.toNat / 2 ^ 16
  let two (l h : Nat) : W32 := BitVec.ofNat 32 (l + h * 2 ^ 16)
  [(.perm, 11, 0, fun c => c.needBw [0, 1], fun _ => False, fun c => c.tagA 0, fun c i => c.opA ((c.opBw i).toNat % c.w)),
   (.slideup, 11, 1, fun c => c.needBw [c.tagA 0], fun c => c.w ≤ c.fc, fun c => c.tagA 0,
     fun c i => if c.fc ≤ i then c.opA (i - c.fc) else c.opBw (c.w - c.fc + i)),
   (.slidedn, 11, 2, fun c => c.needBw [c.tagA 0], fun c => c.w ≤ c.fc, fun c => c.tagA 0,
     fun c i => if i + c.fc < c.w then c.opA (i + c.fc) else c.opBw (i + c.fc - c.w)),
   (.slideh, 11, 3, fun c => c.needA [0, 5, 3, 4] ++ c.needBw [c.tagA 0], fun _ => False, fun c => c.tagA 0,
     fun c i => two (hi (if i = 0 then c.opBw (c.w - 1) else c.opA (i - 1))) (lo (c.opA i))),
   (.slidehd, 11, 4, fun c => c.needA [0, 5, 3, 4] ++ c.needBw [c.tagA 0], fun _ => False, fun c => c.tagA 0,
     fun c i => two (hi (c.opA i)) (lo (if i + 1 < c.w then c.opA (i + 1) else c.opBw 0))),
   (.pmovXl, 11, 5, fun _ => [], fun _ => False, fun _ => tI32,
     fun c i => if (c.g.pval (c.g.pref c.fa)).getLsbD i then 1 else 0),
   (.lscanadd, 11, 14, fun c => c.needA [0, 1], fun _ => False, fun _ => tI32,
     fun c i => BitVec.ofInt 32 ((c.lanes.filter fun j => j ≤ i).map fun j => (c.opA j).toInt).sum),
   (.laneid, 11, 16, fun _ => [], fun _ => False, fun _ => tI32, fun _ i => BitVec.ofNat 32 i),
   (.s2v, 11, 18, fun _ => [], fun _ => False, fun _ => tRAW, fun c _ => BitVec.ofNat 32 c.sA.toNat),
   (.mov, 12, 0, fun _ => [], fun _ => False, fun c => c.tagA 0, fun c i => c.opA i),
   (.movi, 12, 1, fun _ => [], fun _ => False, fun c => c.e.xmod, fun c _ => BitVec.ofNat 32 c.lit.toNat)]

/-- Scalar forms of XL, PR and MV, which act once: constructor, major, minor, tags, what is out of range, result. -/
noncomputable def laneScal : List (Mk × Nat × Nat × (Ctx → List TagCheck) × (Ctx → Prop) × (Ctx → W64 → Prop)) :=
  [(.ballot, 11, 8, fun c => c.needA [0, 1], fun _ => False,
     fun c v => ∀ i, i < 64 → (v.getLsbD i = true ↔ i ∈ c.lanes ∧ c.opA i ≠ 0)),
   (.bits2, 11, 9, fun c => c.needA [0, 1], fun c => 1 < c.fb ∨ (c.fb = 1 ∧ c.w < 64),
     fun c v => ∀ m, m < 32 → v.toNat / 2 ^ (2 * m) % 4 = if 32 * c.fb + m ∈ c.lanes then (c.opA (32 * c.fb + m)).toNat % 4 else 0),
   (.lredadd, 11, 10, fun c => c.needA [0, 1], fun _ => False, fun c v => v = BitVec.ofInt 64 (sumA c)),
   (.lredmax, 11, 12, fun c => c.needA [0, 1], fun _ => False,
     fun c v => ∃ i ∈ c.lanes, v = (c.opA i).signExtend 64 ∧ ∀ j ∈ c.lanes, (c.opA j).toInt ≤ (c.opA i).toInt),
   (.lredmin, 11, 13, fun c => c.needA [0, 1], fun _ => False,
     fun c v => ∃ i ∈ c.lanes, v = (c.opA i).signExtend 64 ∧ ∀ j ∈ c.lanes, (c.opA i).toInt ≤ (c.opA j).toInt),
   (.v2s, 11, 17, fun _ => [], fun c => c.w ≤ c.fb, fun c v => v = (c.opA c.fb).signExtend 64),
   (.firstlane, 11, 19, fun _ => [], fun _ => False, fun c v => v.toNat ∈ c.lanes ∧ ∀ j ∈ c.lanes, v.toNat ≤ j),
   (.movs, 12, 2, fun _ => [], fun _ => False, fun c v => v = c.sA),
   (.movsi, 12, 3, fun _ => [], fun _ => False, fun c v => v = c.lit),
   (.tagrd, 12, 8, fun _ => [], fun _ => False, fun c v => v.toNat = (c.tagA 0).toNat),
   (.ptov, 13, 5, fun _ => [], fun _ => False, fun c v => ∀ i, i < 64 → (v.getLsbD i = true ↔ i < c.w ∧ c.pA.getLsbD i = true)),
   (.pcnt, 13, 6, fun _ => [], fun _ => False, fun c v => v.toNat = (c.lanes.filter fun i => c.pA.getLsbD i).length)]

/-- Sum of two F32 codes: `Canon(Round(x + y, F32, MODE.RM), F32)`, with its flags. -/
def sumF32 (c : Ctx) (x y : Nat) : Nat × W64 :=
  fmtF32.result c.mode (modeRm c.mode) (fAddV (modeRm c.mode) (fmtF32.decode x) (fmtF32.decode y))

/-- A value as it is written: `Canon(Round(x, F32, MODE.RM), F32)`. -/
def writtenF32 (c : Ctx) (x : Nat) : Nat × W64 := fmtF32.put c.mode (modeRm c.mode) (fmtF32.decode x)

/-- Lane `i` of A read through `InF`. -/
def laneF32 (c : Ctx) (i : Nat) : Nat := fmtF32.code (fmtF32.inF c.mode (c.opA i).toNat)

/-- Node `j` of level `k` of the tree of R148, with the flags of the additions below it: the leaves are the lanes, a lane that
does not execute is absent; nodes 2j and 2j + 1 combine into node j of the next level. -/
def treeNode (c : Ctx) : Nat → Nat → Option Nat × W64
  | 0, j => (if j < c.w ∧ c.act.getLsbD j = true then some (laneF32 c j) else none, 0)
  | k + 1, j =>
    let x := treeNode c k (2 * j)
    let y := treeNode c k (2 * j + 1)
    match x.1, y.1 with
    | some a, some b => (some (sumF32 c a b).1, x.2 ||| y.2 ||| (sumF32 c a b).2)
    | some a, none => (some a, x.2 ||| y.2)
    | none, b => (b, x.2 ||| y.2)

/-- The fold of `lscanfadd` over the lanes listed, after the sum `acc` of those before: each lane's code, and the flags. -/
def scanSums (c : Ctx) : Option Nat → List Nat → List (Nat × Nat) × W64
  | _, [] => ([], 0)
  | acc, i :: l =>
    let p := match acc with | none => writtenF32 c (laneF32 c i) | some a => sumF32 c a (laneF32 c i)
    let r := scanSums c (some p.1) l
    ((i, p.1) :: r.1, p.2 ||| r.2)

/-- Forms that write predicate D in the executing lanes: constructor, major, minor, the bit of lane i. -/
noncomputable def lanePred : List (Mk × Nat × Nat × (Ctx → Nat → Prop)) :=
  [(.vany, 11, 6, fun c _ => ∃ j ∈ c.lanes, c.opA j ≠ 0), (.vall, 11, 7, fun c _ => ∀ j ∈ c.lanes, c.opA j ≠ 0),
   (.pand, 13, 0, fun c i => c.pA.getLsbD i = true ∧ c.pB.getLsbD i = true),
   (.por, 13, 1, fun c i => c.pA.getLsbD i = true ∨ c.pB.getLsbD i = true),
   (.pxor, 13, 2, fun c i => ¬ (c.pA.getLsbD i = true ↔ c.pB.getLsbD i = true)),
   (.pnot, 13, 3, fun c i => c.pA.getLsbD i = false), (.pmovPr, 13, 4, fun c i => c.pA.getLsbD i = true),
   (.pall, 13, 7, fun c _ => ∀ j ∈ c.lanes, c.pA.getLsbD j = true)]

end Sys2Proof.Stated

open Sys2Proof Sys2Proof.Machine Sys2Proof.Stated

/-- R143, R147 to R149: the vector forms of lane exchange and moves write each executing lane from the lanes that the table
names, active or not, and set D's tag, and an amount of W or more in a slide raises ILLOP 0x0D where a lane executes; the scalar forms of lane
exchange, predicate logic and moves write one value into s(D) where a lane executes, and nothing where none does. -/
def Obligations.LaneExchangeResults : Prop :=
  (∀ r ∈ laneVec, ∀ (o : Ops) (s : State) (g : Group) (cl : Clause) (t : State), Clear s r.2.1 r.2.2.1 o g cl t →
     let c := s.ctx r.2.1 r.2.2.1 o g cl
     (Passes t c (r.2.2.2.1 c) (r.2.2.2.2.1 c) →
       Runs (r.1 o) s c (c.putV t 0 (r.2.2.2.2.2.2 c) (r.2.2.2.2.2.1 c))) ∧
     (c.tagsPass (r.2.2.2.1 c) → t.rlxRefuses c = none → r.2.2.2.2.1 c → c.anyLane = true →
       exec (r.1 o) s = .next (t.raise g.id (c.trapAt .illop 0x0D)))) ∧
  (∀ r ∈ laneScal, ∀ (o : Ops) (s : State) (g : Group) (cl : Clause) (t : State), Clear s r.2.1 r.2.2.1 o g cl t →
     let c := s.ctx r.2.1 r.2.2.1 o g cl
     Passes t c (r.2.2.2.1 c) (r.2.2.2.2.1 c) →
     (c.anyLane = true → ∃ v : W64, r.2.2.2.2.2 c v ∧ Runs (r.1 o) s c (c.putS t v)) ∧
     (c.anyLane = false → Runs (r.1 o) s c t))

/-- R147 to R149: the predicate forms write the table's bit into predicate D of the executing lanes; `lredfadd` adds the executing
lanes' F32 values along the tree of six levels, in MODE's rounding, into s(D) (with no lane it does nothing), and
`lscanfadd` in ascending lane order into D, and both set the flags of their additions. -/
def Obligations.LanePredicatesAndSums : Prop :=
  (∀ r ∈ lanePred, ∀ (o : Ops) (s : State) (g : Group) (cl : Clause) (t : State), Clear s r.2.1 r.2.2.1 o g cl t →
     let c := s.ctx r.2.1 r.2.2.1 o g cl
     Passes t c [] False →
     ∃ p : Mask, (∀ i ∈ c.lanes, (p.getLsbD i = true ↔ r.2.2.2 c i)) ∧ Runs (r.1 o) s c (c.putP t c.fd p)) ∧
  ((∀ (o : Ops) (s : State) (g : Group) (cl : Clause) (t : State), Clear s 11 11 o g cl t →
     let c := s.ctx 11 11 o g cl
     Passes t c (c.needA [2]) False →
     let root := treeNode c 6 0
     (c.anyLane = false → Runs (.lredfadd o) s c t) ∧
     (∀ x, root.1 = some x →
       Runs (.lredfadd o) s c (c.onceDo t (c.putSF t (BitVec.ofNat 64 (writtenF32 c x).1, root.2 ||| (writtenF32 c x).2))))) ∧
   (∀ (o : Ops) (s : State) (g : Group) (cl : Clause) (t : State), Clear s 11 15 o g cl t →
     let c := s.ctx 11 15 o g cl
     Passes t c (c.needA [2]) False →
     let r := scanSums c none c.lanes
     Runs (.lscanfadd o) s c ((c.putV t 0 (fun i => BitVec.ofNat 32 (((r.1.find? fun p => p.1 == i).map fun p => p.2).getD 0)) tF32).onGroup
       g.id fun h => h.orFlags r.2)))

/-- R144: `movx` reads, lane by lane, the window register that A of that lane numbers, `movxw` writes A into the register
that D of that lane numbers; an index of 64 or more in an executing lane raises ILLOP 0x0D. `rdlpc` writes the program
counter of every lane, all ones in exited lanes. -/
def Obligations.IndexedMoves : Prop :=
  (∀ (o : Ops) (s : State) (g : Group) (cl : Clause) (t : State), Clear s 12 4 o g cl t →
    let c := s.ctx 12 4 o g cl
    let reg (i : Nat) : Slot := g.slot (g.wref false (c.opA i).toNat)
    c.tagsPass (c.needA [0, 1]) → t.rlxRefuses c = none →
    ((∀ i ∈ c.lanes, (c.opA i).toNat < 64 ∧ blockNonResident g (c.opA i).toNat 1 = false) →
      Runs (.movx o) s c (c.putV t 0 (fun i => (reg i).data.getD i 0) (commonTag (c.lanes.map fun i => (reg i).tag)))) ∧
    (c.anyLane = true → (∃ i ∈ c.lanes, 64 ≤ (c.opA i).toNat) →
      exec (.movx o) s = .next (t.raise g.id (c.trapAt .illop 0x0D)))) ∧
  (∀ (o : Ops) (s : State) (g : Group) (cl : Clause) (t : State), Clear s 12 5 o g cl t →
    let c := s.ctx 12 5 o g cl
    let idx (i : Nat) : Nat := (c.opDk 0 i).toNat
    let regs := (c.lanes.map idx).eraseDups
    c.tagsPass (c.needD [0, 1]) → t.rlxRefuses c = none →
    ((∀ i ∈ c.lanes, idx i < 64 ∧ blockNonResident g (idx i) 1 = false) →
      t.destBusy g (regs.map (g.wref false)) = false →
      Runs (.movxw o) s c (t.onGroup g.id fun h => regs.foldl (fun h j =>
        h.writeLanes (g.wref false j) (maskOf (c.lanes.filter fun i => idx i == j)) c.opA (c.tagA 0)) h)) ∧
    (c.anyLane = true → (∃ i ∈ c.lanes, 64 ≤ idx i) → exec (.movxw o) s = .next (t.raise g.id (c.trapAt .illop 0x0D)))) ∧
  (∀ (o : Ops) (s : State) (g : Group) (cl : Clause) (t : State), Clear s 12 12 o g cl t →
    let c := s.ctx 12 12 o g cl
    Runs (.rdlpc o) s c (t.onGroup g.id fun h => h.writeLanes (c.dRef 0) (fullMask h.width)
      (fun i => if h.flow.exited.getLsbD i then 0xFFFFFFFF else h.flow.lpc.getD i 0) tRAW))

namespace Sys2Proof.Stated
open Sys2Proof.Machine

/-! ## CSRs (06 R128, R145, R146; 07 R164; 16 R285; 21 R359; 23 R402) -/

/-- The user CSRs that hold what the context holds, with their values. -/
def userCsrs : List (Nat × (State → Group → W64)) :=
  [(0x000, fun _ g => g.csrs.mode), (0x020, fun _ g => g.csrs.spillbase), (0x021, fun _ g => g.winstat),
   (0x030, fun _ g => g.csrs.trapvec), (0x031, fun _ g => g.csrs.trapcause), (0x032, fun _ g => g.csrs.trappc),
   (0x033, fun _ g => g.csrs.trapinfo), (0x041, fun _ g => g.csrs.deadline), (0x100, fun s _ => s.caps)]

/-- The identity CSRs of a tile group: SIG, DETCTL, TILEID (the physical tile `p` it stands on, R339), LPLACE, ROLE, TEAM, GANG,
LAUNCHID. -/
def idCsrs : List (Nat × (Nat → Group → Team → Work → Gang → W64)) :=
  [(0x002, fun _ _ _ w _ => w.sig), (0x003, fun _ _ t w _ => detctl w t),
   (0x010, fun p _ _ _ _ => BitVec.ofNat 64 (p / 104 * 2 ^ 8 + p % 104)), (0x011, fun _ _ t _ _ => w64 t.ltile),
   (0x012, fun _ g _ _ _ => w64 (16 * g.role + g.index)), (0x013, fun _ _ t _ _ => w64 t.l),
   (0x014, fun _ _ _ _ k => w64 k.k), (0x015, fun _ _ _ w _ => w64 w.num)]

/-- An address a CSR may hold: bits 63:52 and 1:0 zero. -/
def addrOk (v : W64) : Prop := v.toNat < 2 ^ 52 ∧ v.toNat % 4 = 0

/-- Trap level or a stoker core. -/
def highLevel (g : Group) : Prop := g.flow.tl = true ∨ g.core.isSome = true

/-- The writes of `csrwr` that change one CSR of the context: number, what is accepted, the change. -/
def csrWrites : List (Nat × (Group → W64 → Prop) × (W64 → Csrs → Csrs)) :=
  [(0x000, fun _ v => v.toNat < 2 ^ 10 ∧ v.toNat % 8 < 5 ∧ v.toNat / 64 % 4 < 2, fun v c => { c with mode := v }),
   (0x030, fun _ v => addrOk v, fun v c => { c with trapvec := v }),
   (0x031, fun g _ => highLevel g, fun v c => { c with trapcause := v &&& 0xFFFCFF }),
   (0x033, fun g _ => highLevel g, fun v c => { c with trapinfo := v })]

end Sys2Proof.Stated

open Sys2Proof Sys2Proof.Machine Sys2Proof.Stated

/-- R145, R146, R285, R339, R402: `csrrd` of a user CSR writes its value into s(D), once; of an identity CSR, the value of the
group's team, gang and launch; FLAGS is read once every variable-latency instruction has completed (R164), and makes the
group wait before; a number of 0x200 or more raises ILLOP 0x0B. -/
def Obligations.CsrReads : Prop :=
  (∀ r ∈ userCsrs, ∀ (o : Ops) (s : State) (g : Group) (cl : Clause) (t : State), Clear s 12 9 o g cl t →
    let c := s.ctx 12 9 o g cl
    csrNumA c.o = r.1 → Runs (.csrrd o) s c (c.onceDo t (c.putS t (r.2 t g)))) ∧
  (∀ r ∈ idCsrs, ∀ (o : Ops) (s : State) (g : Group) (cl : Clause) (t : State) (p : Nat) (tm : Team) (w : Work) (k : Gang),
    Clear s 12 9 o g cl t →
    let c := s.ctx 12 9 o g cl
    g.core = none → csrNumA c.o = r.1 → t.groupTile g = some p → t.teamOf g = some tm → t.workOf g = some w → t.gangOf g = some k →
    Runs (.csrrd o) s c (c.onceDo t (c.putS t (r.2 p g tm w k)))) ∧
  (∀ (o : Ops) (s : State) (g : Group) (cl : Clause) (t : State), Clear s 12 9 o g cl t →
    let c := s.ctx 12 9 o g cl
    (t.flagsReady g = true → Runs (.flagsRead o) s c (c.onceDo t (c.putS t g.csrs.flags))) ∧
    (t.flagsReady g = false → c.anyLane = true →
      Stalls (.flagsRead o) s t c .order) ∧
    (0x200 ≤ csrNumA c.o → exec (.csrrd o) s = .next (t.raise g.id (c.trapAt .illop 0x0B))))

/-- R146, R162, R359: `csrwr` replaces the CSR where its value and the level are accepted, once, and changes nothing else;
TRAPCAUSE takes its writable bits; a value or level that is not accepted raises ILLOP 0x0D or 0x0B. -/
def Obligations.CsrWrites : Prop :=
  (∀ r ∈ csrWrites, ∀ (o : Ops) (s : State) (g : Group) (cl : Clause) (t : State), Clear s 12 10 o g cl t →
    let c := s.ctx 12 10 o g cl
    csrNumD c.o = r.1 → r.2.1 g c.sA →
    Runs (.csrwr o) s c (c.onceDo t (t.onGroup g.id fun h => { h with csrs := r.2.2 c.sA h.csrs }))) ∧
  (∀ (o : Ops) (s : State) (g : Group) (cl : Clause) (t : State), Clear s 12 10 o g cl t →
    let c := s.ctx 12 10 o g cl
    let trap (r : Nat) : Host.Outcome State Fault Refusal := .next (t.raise g.id (c.trapAt .illop (w64 r)))
    (csrNumD c.o = 0x000 → ¬ (c.sA.toNat < 2 ^ 10 ∧ c.sA.toNat % 8 < 5 ∧ c.sA.toNat / 64 % 4 < 2) →
      c.anyLane = true → exec (.csrwr o) s = trap 0x0D) ∧
    (csrNumD c.o = 0x030 → ¬ addrOk c.sA → c.anyLane = true → exec (.csrwr o) s = trap 0x0D) ∧
    (csrNumD c.o = 0x031 ∨ csrNumD c.o = 0x033 → ¬ highLevel g → exec (.csrwr o) s = trap 0x0B) ∧
    (csrNumD c.o = 0x041 ∨ csrNumD c.o = 0x100 ∨ csrNumD c.o = 0x002 ∨ csrNumD c.o = 0x013 → exec (.csrwr o) s = trap 0x0B) ∧
    (0x200 ≤ csrNumD c.o → exec (.csrwr o) s = trap 0x0B))

/-- R128, R136, R164, R362: writes of FLAGS (once earlier variable-latency instructions have completed), of SPILLBASE (every
resident register becomes dirty), of TRAPPC (the frame notes it) and of WINSTAT (LO alone; registers newly covered hold
free values). -/
def Obligations.CsrWritesWithRules : Prop :=
  ∀ (o : Ops) (s : State) (g : Group) (cl : Clause) (t : State), Clear s 12 10 o g cl t →
    let c := s.ctx 12 10 o g cl
    (c.sA.toNat < 2 ^ 10 → t.flagsReady g = true →
      Runs (.flagsWrite o) s c (c.onceDo t (t.onGroup g.id fun h => { h with csrs := { h.csrs with flags := c.sA } }))) ∧
    (addrOk c.sA → Runs (.spillbaseWrite o) s c (c.onceDo t (t.onGroup g.id fun h =>
      { h.dirtySlots (h.slotsOf h.flow.lo (h.flow.wb + 64)) with csrs := { h.csrs with spillbase := c.sA } }))) ∧
    (highLevel g → addrOk c.sA → Runs (.trappcWrite o) s c (c.onceDo t (t.onGroup g.id fun h =>
      { h with csrs := { h.csrs with trappc := c.sA }, frame := h.frame.map fun f => { f with pcWritten := true } }))) ∧
    (highLevel g → c.sA.toNat / 2 ^ 44 ≤ g.flow.wb + 60 → g.flow.wb + 64 ≤ g.budget + c.sA.toNat / 2 ^ 44 →
      Runs (.winstatWrite o) s c (c.onceDo t
        ((t.onGroup g.id fun h => { h with flow := { h.flow with lo := c.sA.toNat / 2 ^ 44 } }).coverSlots g.id
          (g.slotsOf (c.sA.toNat / 2 ^ 44) g.flow.lo))))

namespace Sys2Proof.Stated
open Sys2Proof.Machine

/-! ## Privileged instructions of a stoker core (21 R377 to R379; 23 R404) -/

/-- Privileged CSRs as `csrrdp` reads them. -/
def privCsrs : List (Nat × (State → Group → CoreRegs → W64)) :=
  [(0x200, fun _ g _ => g.asid.zeroExtend 64), (0x201, fun _ g _ => g.vmid.zeroExtend 64), (0x204, fun _ _ k => k.vmtbase),
   (0x210, fun s g _ => (s.die (s.dieOf g)).turnPeriod), (0x220, fun s _ k => s.powerRead k 0x220),
   (0x221, fun s _ k => s.powerRead k 0x221), (0x222, fun s _ k => s.powerRead k 0x222),
   (0x223, fun s _ k => s.powerRead k 0x223), (0x230, fun s _ _ => s.placeEntryAt s.selPlace),
   (0x250, fun _ _ k => k.fring.word), (0x251, fun _ _ k => k.hring.word),
   (0x260, fun s g _ => w64 ((s.die (s.dieOf g)).ctxBase + (s.die (s.dieOf g)).ctxSize)),
   (0x270, fun s g _ => let d := s.die (s.dieOf g); w64 (d.collBase + (if d.collEn then 8 else 0) + d.ways)),
   (0x271, fun s g _ => (s.die (s.dieOf g)).cq.word), (0x272, fun s _ _ => s.ckpt.word)]

/-- A change of a cluster through the selector of a value, and of the core's selector. -/
def clusterWrite (t : State) (g : Group) (v : W64) (f : Cluster → Cluster) (sel : Nat → CoreRegs → CoreRegs) : State :=
  (t.setCluster (fld v 53 48) (f (t.cluster (fld v 53 48)))).onCore g (sel (fld v 53 48))

/-- The selector names a cluster of the part. -/
def selOk (t : State) (v : W64) : Prop := fld v 53 53 < t.ndies ∧ fld v 52 48 < 12

/-- Writes of privileged CSRs with rows of their own: constructor, numbers, what is accepted, the effect of value `v`. -/
noncomputable def privWrites : List (Mk × (State → Group → Nat → W64 → Prop) × (State → Group → Nat → W64 → State)) :=
  [(.turnPeriodWrite, fun _ g n v => n = 0x210 ∧ g.vmid = 0 ∧ 16 ≤ fld v 4 0 ∧ fld v 4 0 ≤ 26 ∧ fld v 23 16 ≤ 8,
     fun t g _ v =>
       let n := t.dieOf g
       let d := t.die n
       t.setDie n { d with hyst := fld v 31 24, maxPairs := fld v 23 16,
                           nextExp := if fld v 4 0 = d.exp then none
                             else some (fld v 4 0, (t.time / 2 ^ fld v 4 0 + 1) * 2 ^ fld v 4 0) }),
   (.swallowWrite, fun t g n v => n = 0x220 ∧ g.vmid = 0 ∧ selOk t v ∧ 4 ≤ ((List.range 16).filter fun i => v.getLsbD i).length,
     fun t g _ v => clusterWrite t g v (fun k => { k with nextPattern := some (v.extractLsb' 0 16) }) fun n k => { k with selSwallow := n }),
   (.droopthWrite, fun t g n v => n = 0x221 ∧ g.vmid = 0 ∧ selOk t v,
     fun t g _ v => clusterWrite t g v (fun k => k.reconf fun k => { k with level := fld v 9 0 }) fun n k => { k with selDroop := n }),
   (.dampcfgWrite, fun t g n v => n = 0x222 ∧ g.vmid = 0 ∧ selOk t v ∧ 1 ≤ fld v 7 4 ∧ fld v 7 4 ≤ 4,
     fun t g _ v => clusterWrite t g v (fun k => k.reconf fun k =>
       { k with part := fld v 23 20, en := v.getLsbD 16, halfN := fld v 15 8, strLen := fld v 7 4, strN := fld v 3 0 })
       fun n k => { k with selDamp := n }),
   (.slewbudgetWrite, fun _ g n _ => n = 0x223 ∧ g.vmid = 0,
     fun t g _ v => (t.setPartn (fld v 51 48) { t.partn (fld v 51 48) with rise := fld v 15 0 }).onCore g fun k => { k with selSlew := fld v 51 48 }),
   (.placetabSelect, fun _ _ n v => n = 0x230 ∧ v.toNat < 2 ^ 12 ∧ 2 ^ 10 ≤ v.toNat,
     fun t _ _ v => { t with selPlace := v.toNat }),
   (.healthWrite, fun _ _ n _ => n = 0x240,
     fun t _ _ v => { t with health := { t.health with cecnt := fld v 63 32, uecnt := fld v 31 24 } }),
   (.ringbaseWrite,
     fun _ g n v => (n = 0x250 ∨ n = 0x251 ∧ g.vmid = 0) ∧ fld v 63 48 = 0 ∧ fld v 11 6 = 0 ∧ v.getLsbD 4 = false ∧ 6 ≤ fld v 3 0 ∧ fld v 3 0 ≤ 12,
     fun t g n v => t.onCore g fun k =>
       let r : Ring := { base := fld v 47 12 * 2 ^ 12, en := v.getLsbD 5, log2n := fld v 3 0 }
       if n = 0x251 then { k with hring := r } else { k with fring := r }),
   (.ctxpoolWrite, fun _ _ n v => n = 0x260 ∧ fld v 63 48 = 0,
     fun t g _ v => t.setDie (t.dieOf g) { t.die (t.dieOf g) with ctxBase := fld v 47 12 * 2 ^ 12, ctxSize := fld v 11 0 }),
   (.collcfgWrite,
     fun t g n v => n = 0x270 ∧ g.vmid = 0 ∧ fld v 63 48 = 0 ∧ fld v 11 4 = 0 ∧ fld v 2 0 ≤ 4
       ∧ (fld v 2 0 = (t.die (t.dieOf g)).ways ∨ (t.die (t.dieOf g)).chunks = []),
     fun t g _ v =>
       let u := t.setDie (t.dieOf g) { t.die (t.dieOf g) with collBase := fld v 47 12 * 2 ^ 12, collEn := v.getLsbD 3, ways := fld v 2 0 }
       u.shrinkSlices u.sram)]

/-- Writes that `csrwrp` makes of CSRs without a row of their own. -/
def plainWrites : List (Nat × (State → Group → W64 → Prop) × (State → Group → W64 → State)) :=
  [(0x200, fun _ _ v => v.toNat < 2 ^ 14, fun t g v => t.onGroup g.id fun h => { h with asid := v.extractLsb' 0 14 }),
   (0x201, fun _ g v => g.vmid = 0 ∧ v.toNat < 2 ^ 8, fun t g v => t.onGroup g.id fun h => { h with vmid := v.extractLsb' 0 8 }),
   (0x204, fun _ g v => g.vmid = 0 ∧ v.toNat < 2 ^ 48 ∧ v.toNat % 2 ^ 12 = 0,
     fun t g v => { t.onCore g (fun k => { k with vmtbase := v, tables := true }) with vmtbase := some v.toNat }),
   (0x271, fun _ g v => g.vmid = 0 ∧ fld v 63 48 = 0 ∧ fld v 11 6 = 0 ∧ v.getLsbD 4 = false ∧ 6 ≤ fld v 3 0 ∧ fld v 3 0 ≤ 12,
     fun t g v => t.setDie (t.dieOf g) { t.die (t.dieOf g) with
       cq := { base := fld v 47 12 * 2 ^ 12, en := v.getLsbD 5, log2n := fld v 3 0 } })]

/-- The effect of a write through `csrwrp`: its value and level accepted, the change made once. -/
def PrivWrites (i : Instr) (o : Ops) (ok : State → Group → Nat → W64 → Prop) (eff : State → Group → Nat → W64 → State) : Prop :=
  ∀ (s : State) (g : Group) (cl : Clause) (t : State), Clear s 34 1 o g cl t →
    let c := s.ctx 34 1 o g cl
    t.rlxRefuses c = none → ok t g (csrNumD c.o) c.sAl →
    Runs i s c (c.onceDo t (eff t g (csrNumD c.o) c.sAl))

/-- No two gangs, teams, works or groups carry one number. -/
def oneOfEach (s : State) : Prop :=
  (s.gangs.map fun q => q.id).Nodup ∧ (s.teams.map fun t => t.id).Nodup ∧ (s.works.map fun w => w.id).Nodup ∧
    (s.groups.map fun g => g.id).Nodup

/-- The groups of a gang's teams. -/
def groupsIn (s : State) (q : Gang) : List Nat := (q.teams.filterMap s.team?).flatMap fun t => t.grps

/-- The entry is one that the handler of `g` found in the operand log (R365). -/
def foundBy (g : Group) (e : LogEntry) : Prop := e.grp = g.id ∧ e.tlevel = false

end Sys2Proof.Stated

open Sys2Proof Sys2Proof.Machine Sys2Proof.Stated

/-- R377, R378, R404: `csrrdp` writes a privileged CSR of its core, die or module into s(D), QUOTA and QUSED from the agent
entry or, before VMTBASE is written, from the core; reading HEALTH clears TMAX and HOT in the same step (R403). That a core then
holds a QUOTA and a QUSED of its own, of which R52 says nothing, is the model's choice (log entry 9, DEDUCED). -/
def Obligations.PrivilegedReads : Prop :=
  (∀ r ∈ privCsrs, ∀ (o : Ops) (s : State) (g : Group) (k : CoreRegs) (cl : Clause) (t : State), Clear s 34 0 o g cl t →
    let c := s.ctx 34 0 o g cl
    g.core = some k → t.rlxRefuses c = none → csrNumA c.o = r.1 →
    Runs (.csrrdp o) s c (c.onceDo t (c.putS t (r.2 t g k)))) ∧
  (∀ (o : Ops) (s : State) (g : Group) (k : CoreRegs) (cl : Clause) (t u : State) (pa : Nat), Clear s 34 0 o g cl t →
    let c := s.ctx 34 0 o g cl
    g.core = some k → t.rlxRefuses c = none →
    (csrNumA c.o = 0x202 → t.agentEntry g false = (u, .own) → Runs (.csrrdp o) s c (c.onceDo t (c.putS u k.quota))) ∧
    (csrNumA c.o = 0x203 → t.agentEntry g false = (u, .own) → Runs (.csrrdp o) s c (c.onceDo t (c.putS u k.qused))) ∧
    (csrNumA c.o = 0x202 → t.agentEntry g false = (u, .at' pa) → u.badRead (pa + 8) 8 = false →
      Runs (.csrrdp o) s c (c.onceDo t (c.putS u (u.homeW64 (pa + 8))))) ∧
    (csrNumA c.o = 0x203 → t.agentEntry g false = (u, .at' pa) → u.badRead (pa + 16) 8 = false →
      Runs (.csrrdp o) s c (c.onceDo t (c.putS u (u.homeW64 (pa + 16)))))) ∧
  (∀ (o : Ops) (s : State) (g : Group) (cl : Clause) (t : State), Clear s 34 0 o g cl t →
    let c := s.ctx 34 0 o g cl
    t.rlxRefuses c = none →
    Runs (.healthRead o) s c (c.onceDo t { c.putS t t.health.word with health := { t.health with tmax := 0, hot := false } }))

/-- R338, R343 to R346, R367, R374, R381, R403, R404: a write of a privileged CSR that is accepted makes the change its rule
gives, once, and changes nothing else; `csrwrp` with the same number does the same. That a write of VMTBASE sets one value that
every master of the module then walks by is the model's choice (log entry 9, DEDUCED). -/
def Obligations.PrivilegedWrites : Prop :=
  (∀ r ∈ privWrites, ∀ o : Ops, PrivWrites (r.1 o) o r.2.1 r.2.2) ∧
  (∀ r ∈ privWrites, ∀ o : Ops, PrivWrites (.csrwrp o) o r.2.1 r.2.2) ∧
  (∀ r ∈ plainWrites, ∀ o : Ops, PrivWrites (.csrwrp o) o (fun t g n v => n = r.1 ∧ r.2.1 t g v) fun t g _ v => r.2.2 t g v)

/-- R52, R63: QUOTA_CSR_WRITE stores QUOTA or QUSED in the agent entry as one 8-byte store, or in the core before VMTBASE is
written. That the core then holds them, of which R52 says nothing, is the model's choice (log entry 9, DEDUCED). -/
def Obligations.QuotaWritesAgentEntry : Prop :=
  ∀ (o : Ops) (s : State) (g : Group) (cl : Clause) (t u : State), Clear s 34 1 o g cl t →
    let c := s.ctx 34 1 o g cl
    t.rlxRefuses c = none → csrNumD c.o = 0x202 ∨ csrNumD c.o = 0x203 →
    (∀ pa, t.agentEntry g true = (u, .at' pa) →
      Runs (.quotaCsrWrite o) s c (c.onceDo t (u.homeWrite (pa + if csrNumD c.o = 0x202 then 8 else 16) (natBytes 8 c.sAl.toNat) 0))) ∧
    (t.agentEntry g true = (u, .own) → Runs (.quotaCsrWrite o) s c (c.onceDo t (u.onCore g fun k =>
      if csrNumD c.o = 0x202 then { k with quota := c.sAl } else { k with qused := c.sAl })))

/-- R48, R58, R369, R378: `wfi` goes on where a ring has records or the doorbell has rung, and else holds the core; one that reads a ring
header with an uncorrectable error halts the core; `halt` stops it after the
instruction; `tlbharv` writes every gather back; `tlbinv` waits for accesses with a covered translation, writes back the gathers of every agent it covers and then drops
the covered entries and the walk caches. That a doorbell is remembered until a `wfi`, that `tlbinv` of one page writes back the
gathers of its whole agent, and that it drops every walk cache, is the model's choice (log entry 17, DESIGN CHOICE), and so is that the error is
found as `wfi` reads the header (log entry 54). -/
def Obligations.SystemControl : Prop :=
  (∀ (o : Ops) (s : State) (g : Group) (k : CoreRegs) (cl : Clause) (t : State), Clear s 34 3 o g cl t →
    let c := s.ctx 34 3 o g cl
    g.core = some k → t.rlxRefuses c = none → c.anyLane = true →
    (∀ pa, t.servedBad k = some pa → exec (.wfi o) s = .next (t.haltCore g)) ∧
    (t.servedBad k = none → t.ringWork k = true ∨ k.doorbell = true → Runs (.wfi o) s c (t.onCore g fun r => { r with doorbell := false })) ∧
    (t.servedBad k = none → t.ringWork k = false → k.doorbell = false →
      exec (.wfi o) s = .next (t.onGroup g.id fun h => { h with hold := .wfi, stall := none }))) ∧
  (∀ (o : Ops) (s : State) (g : Group) (cl : Clause) (t : State), Clear s 34 8 o g cl t →
    let c := s.ctx 34 8 o g cl
    t.rlxRefuses c = none → c.anyLane = true →
    exec (.halt o) s = .next (t.onGroup g.id fun h => { h.advance c.words true with hold := .halted })) ∧
  (∀ (o : Ops) (s : State) (g : Group) (cl : Clause) (t : State), Clear s 34 5 o g cl t →
    let c := s.ctx 34 5 o g cl
    t.rlxRefuses c = none →
    Runs (.tlbharv o) s c (c.onceDo t (t.dieNums.foldl (fun s d => s.flushGathers d fun _ => true) t))) ∧
  (∀ (o : Ops) (s : State) (g : Group) (cl : Clause) (t : State), Clear s 34 4 o g cl t →
    let c := s.ctx 34 4 o g cl
    let v : Cover := { kind := fld c.sB 63 62, asid := fld c.sB 13 0, vmid := fld c.sB 21 14, page := c.sA.toNat / 2 ^ 14 }
    t.rlxRefuses c = none → fld c.sB 61 22 = 0 →
    (t.usesOld v = false → Runs (.tlbinv o) s c (c.onceDo t
      ((t.dieNums.foldl (fun s d => s.flushGathers d fun x =>
        v.agent x.asid x.vmid || x.others.any fun a => v.agent a.1 a.2) t).dropTlbs v))) ∧
    (t.usesOld v = true → c.anyLane = true →
      Stalls (.tlbinv o) s t c .resource))

/-- R378: `placewr` replaces a place entry (a tile entry swaps with the one that names the same tile, R376), `ctxsave` of a
gang that is saved answers 0 and holds it, of none 1, without room 2, of one that stops already 3, and 2 where the gang for which it waited runs again;
of a gang that has stopped for a turn it takes effect after the exchange (R333), and of one that is still stopping for it it answers 3:
where the two part is the model's choice (log entry 17, DESIGN CHOICE); `ctxload` of a held gang answers 0 and lets it be restored at the head of its tenant's work, else 1. -/
def Obligations.PlacesAndContexts : Prop :=
  (∀ (o : Ops) (s : State) (g : Group) (cl : Clause) (t : State), Clear s 34 9 o g cl t →
    let c := s.ctx 34 9 o g cl
    let sel := fld c.sA 11 0
    let i := sel % 1024
    let v := c.sBl
    t.rlxRefuses c = none → g.vmid = 0 → c.sA.toNat < 2 ^ 12 →
    (sel / 1024 = 1 → i < 96 * t.ndies → fld v 62 9 = 0 → v.getLsbD 63 = true → fld v 7 0 < 104 → fld v 8 8 < t.ndies →
      t.tileHeld i = false → (∀ j, t.behind (104 * fld v 8 8 + fld v 7 0) = some j → t.tileHeld j = false) →
      t.inExchange (t.physTile i) = false → t.inExchange (104 * fld v 8 8 + fld v 7 0) = false →
      Runs (.placewr o) s c (c.onceDo t (t.swapTile i v))) ∧
    (sel / 1024 = 2 → i < 12 * t.ndies → fld v 62 0 = 0 →
      Runs (.placewr o) s c (c.onceDo t { t with pclusters := aset t.pclusters i v })) ∧
    (sel / 1024 = 3 → fld v 25 9 = 0 → (v.getLsbD 62 = true → fld v 7 3 = 0) →
      (t.ndies = 2 ∨ v.getLsbD 63 = false ∨ v.getLsbD 62 = true ∨ v.getLsbD 8 = false) →
      Runs (.placewr o) s c (c.onceDo t { t with pbanks := aset t.pbanks i v }))) ∧
  (∀ (o : Ops) (s : State) (g : Group) (k : CoreRegs) (cl : Clause) (t : State), Clear s 34 6 o g cl t →
    let c := s.ctx 34 6 o g cl
    let answer (u : State) (v : W64) : State := (c.putS u v).onCore g fun r => { r with saving := none }
    g.core = some k → t.rlxRefuses c = none → c.anyLane = true →
    (∀ (id : Nat) (q : Gang) (held : Bool), k.saving = some id → t.gang? id = some q → q.state = .saved held →
      Runs (.ctxsave o) s c (answer (t.setGang { q with state := .saved true }) 0)) ∧
    (∀ (id : Nat) (q : Gang), k.saving = some id → t.gang? id = some q → q.state = .running →
      Runs (.ctxsave o) s c (answer t 2)) ∧
    (k.saving = none → t.gangNamed g c.sA = none → Runs (.ctxsave o) s c (answer t 1)) ∧
    (∀ (q : Gang) (turn : Bool), k.saving = none → t.gangNamed g c.sA = some q → q.state = .stopping turn →
      let exchanged := turn = true ∧ t.gangQuiet q = true ∧ q.preempt = false
      (¬ exchanged → Runs (.ctxsave o) s c (answer t 3)) ∧
      (exchanged → t.poolFits q = false → Runs (.ctxsave o) s c (answer t 2)) ∧
      (exchanged → t.poolFits q = true →
        exec (.ctxsave o) s = .next ((t.setGang { q with preempt := true, stopAt := t.time }).onCore g fun r => { r with saving := some q.id }))) ∧
    (∀ q : Gang, k.saving = none → t.gangNamed g c.sA = some q → q.state = .running →
      (t.poolFits q = false → Runs (.ctxsave o) s c (answer t 2)) ∧
      (t.poolFits q = true → exec (.ctxsave o) s = .next ((t.requestStop q false).onCore g fun r => { r with saving := some q.id })))) ∧
  (∀ (o : Ops) (s : State) (g : Group) (cl : Clause) (t : State), Clear s 34 7 o g cl t →
    let c := s.ctx 34 7 o g cl
    t.rlxRefuses c = none →
    (∀ q : Gang, t.gangNamed g c.sA = some q → q.state = .saved true →
      Runs (.ctxload o) s c (c.onceDo t
        (c.putS ({ t with nextId := t.nextId + 1 }.setGang { q with state := .saved false, back := t.nextId }) 0))) ∧
    (∀ q : Gang, t.gangNamed g c.sA = some q → q.state ≠ .saved true → Runs (.ctxload o) s c (c.onceDo t (c.putS t 1))) ∧
    (t.gangNamed g c.sA = none → Runs (.ctxload o) s c (c.onceDo t (c.putS t 1))))

/-- R302, R366, R367, R378: `fring` 0 sets CONS of a ring to a value between CONS and PROD and answers PROD; 1 resumes, 2 kills, 3
delivers QUOTA to the master that a token names, answering 1, or 0 with no effect where no token has the number; QUOTA for
a token that may not be answered so raises ILLOP 0x0D.
A kill ends the launch or job of the master with KILLED: its gangs retire, with their groups and instructions in flight; a
deterministic launch of which a gang is killed aborts (R321), and that gang alone retires; a retirement step ends with nothing
written. QUOTA ends the wait: an instruction of the log leaves its fault behind and its group traps at its next clause boundary
with REPLAY, one that waits at itself traps at once, a copy is held and its group traps at its next clause boundary (R64).
That QUOTA is taken for the token of a tile group's copy (R64), whose master R49 tells from the tile group, is the model's
choice between R64 and R378 (log entry 29, DEDUCED). -/
def Obligations.FaultRingOperations : Prop :=
  (∀ (o : Ops) (s : State) (g : Group) (k : CoreRegs) (cl : Clause) (t : State), Clear s 34 10 o g cl t →
    let c := s.ctx 34 10 o g cl
    let r := if c.sA.getLsbD 63 then k.hring else k.fring
    let n := fld c.sA 62 0
    g.core = some k → t.rlxRefuses c = none →
    (c.fb = 0 → t.badRead r.base 16 = false → t.cons r ≤ n → n ≤ t.prod r →
      Runs (.fringCons o) s c (c.onceDo t (c.putS (t.homeWrite (r.base + 8) (natBytes 8 n) 0) (w64 (t.prod r))))) ∧
    (t.token? c.sA.toNat = none → ∀ mk ∈ ([.fringResume, .fringKill, .fringQuota] : List Mk),
      Runs (mk o) s c (c.onceDo t (c.putS t 0))) ∧
    (∀ u : Token, t.token? c.sA.toNat = some u →
      Runs (.fringResume o) s c (c.onceDo t (c.putS (t.clearToken u.num) 1)) ∧
      Runs (.fringKill o) s c (c.onceDo t (c.putS (t.killToken u) 1)) ∧
      (u.quotaOk = true → Runs (.fringQuota o) s c (c.onceDo t (c.putS (t.quotaToken u) 1))) ∧
      (u.quotaOk = false → c.anyLane = true → exec (.fringQuota o) s = .next (t.raise g.id (c.trapAt .illop 0x0D))))) ∧
  -- a kill
  ((∀ (s : State) (u : Token) (w : Work), s.waiterWork u.who = some w → oneOfEach s →
     let t := s.killToken u
     let gone (q : Gang) : Prop := (∀ x ∈ t.gangs, x.id = q.id → x.state = .retired) ∧
       ∀ id ∈ groupsIn s q, (∀ e ∈ t.log, e.grp ≠ id) ∧
         ∀ h, t.group? id = some h → h.retired = true ∧ h.frozen = none ∧ h.pend = none ∧ h.clause = none
     ((∀ n, u.who ≠ .work n) → (w.det ≠ 1 ∨ s.waiterGang u.who = none) →
       (∃ v, t.work? w.id = some v ∧ v.state = .killed ∧ v.token = none) ∧
       ∀ q ∈ s.gangs, q.work = w.id → q.state ≠ .retired → gone q) ∧
     (∀ q, w.det = 1 → s.waiterGang u.who = some q → q.state ≠ .retired →
       (∃ v, t.work? w.id = some v ∧ v.abort = true ∧ v.visiting = false ∧ v.state = w.state) ∧ gone q ∧
       ∀ x ∈ s.gangs, x.id ≠ q.id → x ∈ t.gangs) ∧
     (∀ n, u.who = .work n → w.state = .submitted ∨ w.state = .ready →
       ∃ v, t.work? w.id = some v ∧ v.state = .killed ∧ v.token = none) ∧
     (∀ n, u.who = .work n → w.state ≠ .submitted → w.state ≠ .ready →
       t.work? w.id = some { w with token := none, words := w.words.set (if w.job then 6 else 15) 0 }))) ∧
  -- QUOTA delivered
  (∀ (s : State) (u : Token), ∃ size < 3,
     let info : W64 := BitVec.ofNat 64 (u.va / 2 ^ 14 % 2 ^ 38 * 2 ^ 14 + size)
     let v : State := { s with fresh := s.fresh + 1, tokens := s.tokens.filter fun x => x.num ≠ u.num }
     (∀ (id : Nat) (g : Group) (cl : Clause), u.who = .group id → s.group? id = some g → g.clause = some cl → g.hold ≠ .trapEntry →
       s.quotaToken u = (v.onGroup id fun h => { h with stall := none }).raise id
         { cause := .quota, info := info, pc := cl.next, pos := cl.pos, seta := cl.seta, setb := cl.setb, lanes := cl.lanes
           clause := some cl }) ∧
     (∀ (grp id : Nat) (e : LogEntry) (g : Group), u.who = .entry grp id → s.entry? id = some e → s.group? e.grp = some g →
       (g.flow.tl = false ∨ e.tlevel = false) →
       s.quotaToken u = (v.setEntry { e with state := .quota }).onGroup e.grp fun h => { h with due := h.due ++
         [{ cause := .quota, info := info, pc := e.pc, pos := e.clause.pos, seta := e.clause.seta, setb := e.clause.setb
            lanes := e.clause.lanes, replay := some e.id }] }) ∧
     (∀ (id : Nat) (k : Copy) (g : Group), u.who = .copy id → s.copy? id = some k → s.group? k.grp = some g → g.gone = false →
       s.quotaToken u = (v.setCopy { k with token := none, held := true }).onGroup k.grp fun h =>
         { h with due := h.due ++ [{ cause := .quota, info := info + 4, pc := 0, boundary := true }] }))

/-- R362: `eret` at trap level gives back the program counters and frame levels that the entry saved, clears TL and the
frame, re-issues the trapping instruction where TRAPPC was not written, and else sends the lanes that trapped to TRAPPC,
whose header is checked first (R37, R137). What the handler found in the log then stands, in its own order, behind all that
the log holds (R365), and nothing else of the log changes. -/
def Obligations.TrapReturn : Prop :=
  ∀ (o : Ops) (s : State) (g : Group) (cl : Clause) (t : State) (f : Frame), Clear s 34 2 o g cl t → g.frame = some f →
    let c := s.ctx 34 2 o g cl
    c.anyLane = true → f.trap.replay = none → f.trap.cause ≠ .quota →
    (f.pcWritten = false → exec (.eret o) s = .next ((t.behindHandler g.id).onGroup g.id fun h => h.leaveHandler f)) ∧
    (f.pcWritten = true → (f.trap.lanes &&& ~~~g.flow.exited) ≠ 0 → g.sameHi g.csrs.trappc = true →
      exec (.eret o) s = .next ((t.behindHandler g.id).onGroup g.id fun h => h.leaveHandler f)) ∧
    (f.pcWritten = true → (f.trap.lanes &&& ~~~g.flow.exited) ≠ 0 → g.sameHi g.csrs.trappc = false →
      exec (.eret o) s = .next (t.raise g.id (c.trapAt .illop 0x0D))) ∧
    (let b := t.behindHandler g.id
     (t.log.map fun e => e.id).Nodup → (∀ e ∈ t.log, e.turn < t.nextId) →
     { b with log := t.log, nextId := t.nextId } = t ∧ b.log.map (fun e => e.id) = t.log.map (fun e => e.id) ∧
     (∀ e ∈ t.log, ¬ foundBy g e → e ∈ b.log) ∧
     (∀ e ∈ t.log, foundBy g e → ∃ n, t.nextId ≤ n ∧ { e with again := n } ∈ b.log ∧
       (∀ x ∈ t.log, ¬ foundBy g x → x.turn < ({ e with again := n } : LogEntry).turn) ∧
       ∀ f ∈ t.log, ∀ m, foundBy g f → { f with again := m } ∈ b.log → e.turn < f.turn → n < m)) ∧
    (let h := g.leaveHandler f
     h.flow.tl = false ∧ h.frame = none ∧ h.flow.fl = f.fl ∧ h.regs = g.regs ∧ h.csrs = g.csrs ∧
     (f.pcWritten = false → h.flow.lpc = f.lpc) ∧
     (f.pcWritten = false → f.trap.boundary = false → h.clause = f.trap.clause) ∧
     (f.pcWritten = true → ∀ i, i < g.width → h.flow.lpc.getD i 0 =
       if f.trap.lanes.getLsbD i = true ∧ g.flow.exited.getLsbD i = false then lpcOf g.csrs.trappc else f.lpc.getD i 0))

namespace Sys2Proof.Stated
open Sys2Proof.Machine

/-! ## Control flow and loops (06 R137 to R141, R150 to R153) -/

/-- Lanes are sent to one address at the end of the clause. -/
def sendTo (t : State) (g : Group) (lanes : List Nat) (a : W64) (f : Group → Flow) : State :=
  t.onGroup g.id fun h => { h with
    flow := f h
    clause := h.clause.map fun k => { k with targets := lanes.map fun i => (i, a) } }

/-- The address that the word offset of `br`, `jmp`, `call` names, exact: the address of the instruction plus four times
the signed offset. -/
def branchTo (c : Ctx) (a : W64) : Prop :=
  (a.toNat : Int) = c.cl.next.toNat + 4 * (match c.o.lit with | some l => l.toInt | none => (BitVec.ofNat 18 c.imm18).toInt)

/-- A transfer that may go: a lane executes, the relaxation gate is open, and the target has the group's CODEHI; its header
was checked before (step 6 of R43, part of `Clear`). -/
def MayGo (c : Ctx) (t : State) (g : Group) (a : W64) : Prop :=
  t.rlxRefuses c = none ∧ c.anyLane = true ∧ g.sameHi a = true

end Sys2Proof.Stated

open Sys2Proof Sys2Proof.Machine Sys2Proof.Stated

/-- R26, R37, R137, R150, R151: `br` sends the executing lanes to its target, `jmp` the whole lane set, `call` and `calli`
push a link and raise the frame level of the lanes that go, `ret` sends them to the link of the top frame and lowers it;
the lanes go at the end of the clause, the target's header having been checked. -/
def Obligations.TransfersSendLanes : Prop :=
  (∀ (o : Ops) (s : State) (g : Group) (cl : Clause) (t : State) (a : W64), Clear s 16 0 o g cl t →
    let c := s.ctx 16 0 o g cl
    c.cl.next.toNat % 4 = 0 → branchTo c a → MayGo c t g a →
    Runs (.br o) s c (sendTo t g c.lanes a Group.flow)) ∧
  (∀ (o : Ops) (s : State) (g : Group) (cl : Clause) (t : State) (a : W64), Clear s 16 1 o g cl t →
    let c := s.ctx 16 1 o g cl
    c.cl.next.toNat % 4 = 0 → branchTo c a → MayGo c t g a →
    Runs (.jmp o) s c (sendTo t g ((List.range g.width).filter fun i => (cl.lanes &&& ~~~g.flow.exited).getLsbD i) a Group.flow)) ∧
  (∀ (mk : Mk) (m : Nat), (mk, m) ∈ ([(.call, 2), (.calli, 3)] : List (Mk × Nat)) →
    ∀ (o : Ops) (s : State) (g : Group) (cl : Clause) (t : State) (a : W64), Clear s 16 m o g cl t →
    let c := s.ctx 16 m o g cl
    (m = 2 → c.cl.next.toNat % 4 = 0 ∧ branchTo c a) → (m = 3 → a = c.sA &&& ~~~3#64 ∧ c.sA.toNat < 2 ^ 52) →
    MayGo c t g a → g.flow.tl = false → g.flow.links.length < 16 →
    Runs (mk o) s c (sendTo t g c.lanes a fun h => { h.flow with
      links := { ret := c.cl.next + w64 (4 * c.words), step := 0 } :: h.flow.links
      fl := (List.range h.width).map fun i => if c.act.getLsbD i then h.flow.links.length + 1 else h.flow.fl.getD i 0 })) ∧
  (∀ (o : Ops) (s : State) (g : Group) (cl : Clause) (t : State) (e : LinkEntry) (l : List LinkEntry), Clear s 16 4 o g cl t →
    let c := s.ctx 16 4 o g cl
    MayGo c t g e.ret → g.flow.tl = false → g.flow.links = e :: l →
    Runs (.ret o) s c (sendTo t g c.lanes e.ret fun h => { h.flow with
      fl := (List.range h.width).map fun i => if c.act.getLsbD i then h.flow.links.length - 1 else h.flow.fl.getD i 0 }))

/-- R131, R137, R151: `call`, `calli`, `ret` and `enter` raise ILLOP 0x0D at trap level, a 17th link WOVF with TRAPINFO 2^60,
a `ret` without a frame ILLOP 0x0D, a target of another CODEHI ILLOP 0x0D. The last is checked before
the 17th link. -/
def Obligations.TransfersRefused : Prop :=
  (∀ (mk : Mk) (m : Nat), (mk, m) ∈ ([(.call, 2), (.calli, 3), (.ret, 4), (.enter, 5)] : List (Mk × Nat)) →
    ∀ (o : Ops) (s : State) (g : Group) (cl : Clause) (t : State), Clear s 16 m o g cl t →
    let c := s.ctx 16 m o g cl
    t.rlxRefuses c = none → c.anyLane = true → g.flow.tl = true →
    exec (mk o) s = .next (t.raise g.id (c.trapAt .illop 0x0D))) ∧
  (∀ (mk : Mk) (m : Nat), (mk, m) ∈ ([(.call, 2), (.calli, 3)] : List (Mk × Nat)) →
    ∀ (o : Ops) (s : State) (g : Group) (cl : Clause) (t : State) (a : W64), Clear s 16 m o g cl t →
    let c := s.ctx 16 m o g cl
    (m = 2 → c.cl.next.toNat % 4 = 0 ∧ branchTo c a) → (m = 3 → a = c.sA &&& ~~~3#64 ∧ c.sA.toNat < 2 ^ 52) →
    MayGo c t g a → g.flow.tl = false → 16 ≤ g.flow.links.length →
    exec (mk o) s = .next (t.raise g.id (c.trapAt .wovf (w64 (2 ^ 60))))) ∧
  (∀ (o : Ops) (s : State) (g : Group) (cl : Clause) (t : State), Clear s 16 4 o g cl t →
    let c := s.ctx 16 4 o g cl
    t.rlxRefuses c = none → g.flow.tl = false → c.anyLane = true → g.flow.links = [] →
    exec (.ret o) s = .next (t.raise g.id (c.trapAt .illop 0x0D))) ∧
  (∀ (mk : Mk) (m : Nat), (mk, m) ∈ ([(.br, 0), (.jmp, 1), (.call, 2), (.calli, 3), (.ret, 4)] : List (Mk × Nat)) →
    ∀ (o : Ops) (s : State) (g : Group) (cl : Clause) (t : State) (a : W64), Clear s 16 m o g cl t →
    let c := s.ctx 16 m o g cl
    (m < 3 → c.cl.next.toNat % 4 = 0 ∧ branchTo c a) → (m = 3 → a = c.sA &&& ~~~3#64) →
    (m = 4 → ∃ (e : LinkEntry) (l : List LinkEntry), g.flow.links = e :: l ∧ e.ret = a) → (2 ≤ m → g.flow.tl = false) →
    t.rlxRefuses c = none → c.anyLane = true → g.sameHi a = false →
    exec (mk o) s = .next (t.raise g.id (c.trapAt .illop 0x0D)))

/-- R151: `enter` adds its step to the top frame, moves the window base up by it, and zeroes the registers that come in, tag
RAW; a step that is no multiple of 4, that takes the frame above 60, or without a frame raises ILLOP 0x0D, and one past the
budget WOVF. -/
def Obligations.EnterMovesWindow : Prop :=
  (∀ (o : Ops) (s : State) (g : Group) (cl : Clause) (t : State) (e : LinkEntry) (l : List LinkEntry), Clear s 16 5 o g cl t →
    let c := s.ctx 16 5 o g cl
    let k := c.fb
    t.rlxRefuses c = none → g.flow.tl = false → c.anyLane = true → g.flow.links = e :: l →
    (k % 4 = 0 → e.step + k ≤ 60 → g.flow.wb + k + 64 ≤ g.budget + g.flow.lo →
      exec (.enter o) s = .next (c.done (t.onGroup g.id fun h =>
        let h' := h.zeroSlots (h.slotsOf (h.flow.wb + 64) (h.flow.wb + 64 + k))
        { h' with flow := { h'.flow with
            wb := h.flow.wb + k
            links := match h.flow.links with | e :: l => { e with step := e.step + k } :: l | [] => [] } }))) ∧
    (k % 4 ≠ 0 ∨ 60 < e.step + k → exec (.enter o) s = .next (t.raise g.id (c.trapAt .illop 0x0D))) ∧
    (k % 4 = 0 → e.step + k ≤ 60 → g.budget + g.flow.lo < g.flow.wb + k + 64 →
      exec (.enter o) s = .next (t.raise g.id (c.trapAt .wovf (w64 ((g.flow.wb + k + 64 - g.flow.lo - g.budget) % 1024)))))) ∧
  (∀ (o : Ops) (s : State) (g : Group) (cl : Clause) (t : State), Clear s 16 5 o g cl t →
    let c := s.ctx 16 5 o g cl
    t.rlxRefuses c = none → g.flow.tl = false → c.anyLane = true → g.flow.links = [] →
    exec (.enter o) s = .next (t.raise g.id (c.trapAt .illop 0x0D)))

/-- R150: `exit` marks the executing lanes exited, `yield` gives the next issue slot away, `nop` does nothing, `sys` records
the request of service n, and `trap n` raises SWTRAP with TRAPINFO n at the next clause. That `sys` records its request and
the group goes on at once is the model's choice (log entry 58, DESIGN CHOICE). -/
def Obligations.ExitYieldNopSysTrap : Prop :=
  (∀ (o : Ops) (s : State) (g : Group) (cl : Clause) (t : State), Clear s 16 6 o g cl t →
    let c := s.ctx 16 6 o g cl
    t.rlxRefuses c = none →
    Runs (.exit o) s c ((t.onGroup g.id fun h => { h with flow := { h.flow with exited := h.flow.exited ||| c.act } }).bteamCheck g.team)) ∧
  (∀ (o : Ops) (s : State) (g : Group) (cl : Clause) (t : State), Clear s 16 7 o g cl t →
    let c := s.ctx 16 7 o g cl
    t.rlxRefuses c = none → Runs (.yield o) s c (c.onceDo t (t.onGroup g.id fun h => { h with yielded := true }))) ∧
  (∀ (o : Ops) (s : State) (g : Group) (cl : Clause) (t : State), Clear s 16 8 o g cl t →
    let c := s.ctx 16 8 o g cl
    t.rlxRefuses c = none → exec (.nop o) s = .next (t.onGroup g.id fun h => h.advance c.words true)) ∧
  (∀ (o : Ops) (s : State) (g : Group) (cl : Clause) (t : State), Clear s 16 10 o g cl t →
    let c := s.ctx 16 10 o g cl
    t.rlxRefuses c = none → Runs (.sys o) s c (c.onceDo t { t with services := t.services ++ [(g.id, c.imm18)] })) ∧
  (∀ (o : Ops) (s : State) (g : Group) (cl : Clause) (t : State), Clear s 16 9 o g cl t →
    let c := s.ctx 16 9 o g cl
    t.rlxRefuses c = none → c.anyLane = true → g.flow.tl = false →
    exec (.trap o) s = .next ((t.onGroup g.id fun h => h.advance c.words true).raise g.id
      { c.trapAt .swtrap (BitVec.ofNat 64 c.imm18) with clause := none, boundary := true }))

/-- R140, R144, R152: `loop` pushes an entry with the addresses of its body and its end header and its count, `lbrk`, `lcnt`
and `lpop` end, read and pop entries; `movlpc` sends each executing lane to the program counter that A of that lane holds,
at the end of the clause, and traps where one of those addresses holds no header; that this check comes behind the operand's
tag is the model's choice (log entry 55). -/
def Obligations.LoopsAndLaneMoves : Prop :=
  ((∀ (o : Ops) (s : State) (g : Group) (cl : Clause) (t u : State) (start : W64), Clear s 17 0 o g cl t →
     let c := s.ctx 17 0 o g cl
     let e : W64 := c.cl.next + w64 (4 * (c.fd * 64 + c.fb))
     t.rlxRefuses c = none → g.flow.tl = false → c.anyLane = true →
     t.skipInstrs g (cl.cnt - cl.pos - 1) (c.cl.next + w64 (4 * c.words)) = (u, .ok start) →
     (g.flow.loops.length < 4 → start.toNat ≤ e.toNat →
       Runs (.loop o) s c (u.onGroup g.id fun h => { h with flow := { h.flow with
         loops := { start := start, endh := e, n := if c.sAl = 0 then 1 else c.sAl, fl := h.flow.links.length } :: h.flow.loops } })) ∧
     (4 ≤ g.flow.loops.length → exec (.loop o) s = .next (t.raise g.id (c.trapAt .illop 0x0D)))) ∧
   (∀ (o : Ops) (s : State) (g : Group) (cl : Clause) (t : State), Clear s 17 1 o g cl t →
     let c := s.ctx 17 1 o g cl
     t.rlxRefuses c = none → g.flow.tl = false → c.anyLane = true →
     (∀ (e : LoopEntry) (l : List LoopEntry), g.flow.loops = e :: l → e.fl = g.flow.links.length →
       Runs (.lbrk o) s c (t.onGroup g.id fun h => { h with flow := { h.flow with loops := l } })) ∧
     (g.flow.loops = [] → exec (.lbrk o) s = .next (t.raise g.id (c.trapAt .illop 0x0D)))) ∧
   (∀ (o : Ops) (s : State) (g : Group) (cl : Clause) (t : State), Clear s 17 2 o g cl t →
     let c := s.ctx 17 2 o g cl
     t.rlxRefuses c = none → g.flow.tl = false → c.anyLane = true →
     (∀ e : LoopEntry, g.flow.loops[c.fa]? = some e → Runs (.lcnt o) s c (c.putS t e.n)) ∧
     (g.flow.loops.length ≤ c.fa → exec (.lcnt o) s = .next (t.raise g.id (c.trapAt .illop 0x0D)))) ∧
   (∀ (o : Ops) (s : State) (g : Group) (cl : Clause) (t : State), Clear s 17 3 o g cl t →
     let c := s.ctx 17 3 o g cl
     t.rlxRefuses c = none → g.flow.tl = false → c.anyLane = true →
     (c.fd ≤ g.flow.loops.length → c.fd < 4 →
       (∀ e ∈ g.flow.loops.take (g.flow.loops.length - c.fd), e.fl = g.flow.links.length) →
       Runs (.lpop o) s c (t.onGroup g.id fun h => { h with flow := { h.flow with
         loops := g.flow.loops.drop (g.flow.loops.length - c.fd) } })) ∧
     (g.flow.loops.length < c.fd ∨ 4 ≤ c.fd → exec (.lpop o) s = .next (t.raise g.id (c.trapAt .illop 0x0D))))) ∧
  (∀ (o : Ops) (s : State) (g : Group) (cl : Clause) (t : State), Clear s 12 11 o g cl t →
     let c := s.ctx 12 11 o g cl
     let pcAt (i : Nat) : W64 := (g.codehi ++ (c.opA i &&& 0xFFFFFFFC#32)).zeroExtend 64
     c.tagsPass (c.needA [0, 1]) → t.rlxRefuses c = none →
     (∀ u : State, t.checkHeaders g (c.lanes.map pcAt).eraseDups = (u, none) →
       Runs (.movlpc o) s c (u.onGroup g.id fun h => { h with
         clause := h.clause.map fun k => { k with targets := c.lanes.map fun i => (i, pcAt i) } })) ∧
     (∀ (u : State) (k : Cause) (x : W64), t.checkHeaders g (c.lanes.map pcAt).eraseDups = (u, some (.trap k x)) →
       exec (.movlpc o) s = .next (u.raise g.id (c.trapAt k x))))
namespace Sys2Proof.Stated
open Sys2Proof.Machine

/-! ## Loads, stores, atomics, ordering (04 R76 to R92; 05 R97 to R103) -/

/-- Little-endian bytes of a number. -/
def leBytes (n v : Nat) : List Byte := (List.range n).map fun k => BitVec.ofNat 8 (v / 256 ^ k)

/-- The accesses of `n` bytes (R76, R79): one for each executing lane at s(A) + signed B + literal, or one at s(A) + literal
for the group. -/
def accesses (c : Ctx) (scal : Bool) (n : Nat) : List Access :=
  if scal then (if c.anyLane then [{ lane := 64, va := c.sA + c.lit, n := n }] else [])
  else c.lanes.map fun i => { lane := i, va := c.sA + (c.opBw i).signExtend 64 + c.lit, n := n }

/-- The value that a store of `n` bytes takes from D and the registers after it, or from s(D) (R83). -/
def storedNat (c : Ctx) (scal : Bool) (n i : Nat) : Nat :=
  if scal then c.sD.toNat
  else (c.opDk 0 i).toNat + (if 8 ≤ n then (c.opDk 1 i).toNat * 2 ^ 32 else 0)
    + (if n = 16 then (c.opDk 2 i).toNat * 2 ^ 64 + (c.opDk 3 i).toNat * 2 ^ 96 else 0)

/-- Address tags of a vector form. -/
def addrTags (c : Ctx) (scal : Bool) : List TagCheck := if scal then [] else c.needBw [0, 1]

/-- Register `k` of D after a load of `n` bytes of value `v` (R80, R81). -/
def loadedReg (n : Nat) (signed : Bool) (v k : Nat) : W32 :=
  if n < 4 then
    (if signed ∧ 2 ^ (8 * n - 1) ≤ v % 2 ^ (8 * n) then BitVec.ofInt 32 (v % 2 ^ (8 * n) - 2 ^ (8 * n) : Int)
     else BitVec.ofNat 32 (v % 2 ^ (8 * n)))
  else BitVec.ofNat 32 (v / 2 ^ (32 * k))

/-- No line of an access is that of an instruction that waits on a fault. -/
def noWaiter (t : State) (c : Ctx) (accs : List Access) : Prop :=
  let touches (e : LogEntry) : Bool := e.accs.any fun a => accs.any fun b => a.sharesLine b
  (∀ e ∈ t.waitersOf c.g, touches e = false) ∧ c.quotaDue ((t.quotaEntries c.g).any touches) = none

/-- The newest store that covers byte `x` in the store path of a tile (R72). -/
def ownByte (s : State) (tile x : Nat) : Option Byte :=
  (s.tile tile).path.reverse.findSome? fun e =>
    match e.op with
    | .store d => if e.pa ≤ x ∧ x < e.pa + d.length then d[x - e.pa]? else none
    | _ => none

/-- The byte at `x` that a load of a group takes: a core's from home; on a tile the newest store of the tile's own path, else the
tile cache's copy of the line where the load may be served there (a tile-wide scope, ATTR 0, device memory), else the byte at
home (R71, R72, R257). -/
def loadByte (s : State) (g : Group) (tile : Nat) (cached : Bool) (x : Nat) : Byte :=
  if g.core.isSome = true then s.home x
  else match ownByte s tile x, (s.tile tile).cline? (x / 128) with
    | some b, _ => b
    | none, some l => if cached = true ∧ s.isMemory (x / 128 * 128) = true then l.data.getD (x % 128) 0 else s.home x
    | none, none => s.home x

/-- A byte that an access of an entry takes: of a line that the entry has read for another lane what was read then (R78), of a line
that is read now, as part of `ps`, the byte of `loadByte`. -/
def takenByte (s : State) (g : Group) (e : LogEntry) (ps : List Piece) (dev : Bool) (x : Nat) : Byte :=
  let scope := match e.op with | .load _ _ _ scope _ => scope | _ => 0
  match (if dev = true then none else e.reads.find? fun r => r.1 == x / 128) with
  | some r => r.2.getD (x % 128) 0
  | none => loadByte s g e.tile (s.tileWide g scope && ps.any fun p => decide (p.pa / 128 = x / 128) && p.attr == 0) x

/-- The little-endian value of the parts of an access (R80). -/
def takenValue (s : State) (g : Group) (e : LogEntry) (ps : List Piece) (dev : Bool) (qs : List Piece) : Nat :=
  bytesNat (qs.flatMap fun q => (List.range q.n).map fun k => takenByte s g e ps dev (q.pa + k))

/-- A load whose access `a`, at the parts `ps`, may bind: it runs, is translated and not bound, no earlier atomic of its group on
the bytes is on its way (R258), no line of it has an uncorrectable error; parts lie in one line each, those of `a` in
different sets of the tile cache, and slices, tile caches and the entry hold whole lines. -/
def mayBind (s : State) (e : LogEntry) (g : Group) (a : Access) (ps : List Piece) : Prop :=
  s.entry? e.id = some e ∧ s.group? e.grp = some g ∧ e.state = .running ∧ a ∈ e.accs ∧ (e.accs.map fun b => b.lane).Nodup ∧
    a.place = .phys ps ∧ e.isBound a.lane = false ∧ (∀ b ∈ e.accs, s.atomicInFlight e b = false) ∧
    (∀ p ∈ ps, s.badRead (p.pa / 128 * 128) 128 = false) ∧
    (∀ b ∈ e.accs, ∀ qs, b.place = .phys qs → ∀ q ∈ qs, q.pa % 128 + q.n ≤ 128) ∧ (ps.map fun p => p.pa / 128 % 128).Nodup ∧
    s.memWf = true ∧ s.linesAgree = true ∧ (∀ l ∈ (s.tile e.tile).cache, l.data.length = 128) ∧ (∀ r ∈ e.reads, r.2.length = 128) ∧
    (a.isDev = true → ps.length = 1)

/-- LDG: constructor, minor, bytes, signed, acquire, scalar. -/
noncomputable def ldgRows : List (Mk × Nat × Nat × Bool × Bool × Bool) :=
  [(.ld8s, 0, 1, true, false, false), (.ld8z, 1, 1, false, false, false), (.ld16s, 2, 2, true, false, false),
   (.ld16z, 3, 2, false, false, false), (.ld32, 4, 4, false, false, false), (.ld64, 5, 8, false, false, false),
   (.ld128, 6, 16, false, false, false), (.lds32, 7, 4, false, false, true), (.lds64, 8, 8, false, false, true),
   (.ldacq32, 9, 4, false, true, false), (.ldacqs64, 10, 8, false, true, true)]

/-- STG: constructor, minor, bytes, scalar, release. -/
noncomputable def stgRows : List (Mk × Nat × Nat × Bool × Bool) :=
  [(.st8, 0, 1, false, false), (.st16, 1, 2, false, false), (.st32, 2, 4, false, false), (.st64, 3, 8, false, false),
   (.st128, 4, 16, false, false), (.sts32, 5, 4, true, false), (.sts64, 6, 8, true, false), (.strel32, 7, 4, false, true),
   (.strels64, 8, 8, true, true)]

/-- The new word of an atomic (R86). -/
def atomicWord (m : Nat) (old v e : W32) : W32 :=
  match m with
  | 0 => BitVec.ofInt 32 (old.toInt + v.toInt)
  | 1 => BitVec.ofInt 32 (min old.toInt v.toInt)
  | 2 => BitVec.ofInt 32 (max old.toInt v.toInt)
  | 3 => BitVec.ofNat 32 (min old.toNat v.toNat)
  | 4 => BitVec.ofNat 32 (max old.toNat v.toNat)
  | 5 => old &&& v
  | 6 => old ||| v
  | 7 => old ^^^ v
  | 8 => v
  | 9 => if old = e then v else old
  | 10 => BitVec.ofNat 32 (eAdd fmtF32 0 .rne old.toNat v.toNat 0).1
  | 11 =>
    if (fmtF32.decode old.toNat).isNan ∨ (fmtF32.decode v.toNat).isNan then 0x7FC00000
    else BitVec.ofNat 32 (max (old.toNat % 2 ^ 31) (v.toNat % 2 ^ 31))
  | _ => 0

/-- AT and ATS: vector and scalar constructor, minor, operation, tags of the operand, tag of the old value, whether the scalar
form sign-extends. -/
noncomputable def atomicRows : List (Mk × Mk × Nat × AOp × (Ctx → List TagCheck) × (Ctx → BitVec 4) × Bool) :=
  let int (c : Ctx) : List TagCheck := c.needC [0, 1]
  let f32 (c : Ctx) : List TagCheck := c.needC [2]
  [(.aadd, .aaddS, 0, .add, int, fun _ => tI32, true), (.amin, .aminS, 1, .smin, int, fun _ => tI32, true),
   (.amax, .amaxS, 2, .smax, int, fun _ => tI32, true), (.anmin, .anminS, 3, .umin, int, fun _ => tI32, false),
   (.anmax, .anmaxS, 4, .umax, int, fun _ => tI32, false), (.aand, .aandS, 5, .and, fun _ => [], fun _ => tRAW, false),
   (.aor, .aorS, 6, .or, fun _ => [], fun _ => tRAW, false), (.axor, .axorS, 7, .xor, fun _ => [], fun _ => tRAW, false),
   (.aexch, .aexchS, 8, .exch, fun _ => [], fun c => c.tagC 0, false), (.acas, .acasS, 9, .cas, fun _ => [], fun c => c.tagC 0, false),
   (.afadd, .afaddS, 10, .fadd, f32, fun _ => tF32, false), (.afamax, .afamaxS, 11, .famax, f32, fun _ => tF32, false),
   (.afamaxrst, .afamaxrstS, 12, .famaxrst, fun _ => [], fun _ => tF32, false),
   (.aadd64, .aadd64S, 13, .add64, fun c => c.needC [0, 1] ++ c.needCk 1 [0, 1], fun _ => tRAW, false)]

/-- Operand and expected value of a lane: C and D, the pair C, C + 1 of `aadd64`, or s(B) and s(D). -/
def atomicArgs (c : Ctx) (m : Nat) (scal : Bool) (i : Nat) : W64 × W64 :=
  if scal then (c.sB, c.sD)
  else if m = 13 then (c.opCk 1 i ++ c.opCk 0 i, 0)
  else ((c.opC i).setWidth 64, (c.opDk 0 i).setWidth 64)

/-- An atomic that may go: its addresses are aligned and outside the aperture, its ranges are the team's own. -/
def atomicGoes (t : State) (c : Ctx) (accs : List Access) (n : Nat) : Prop :=
  (∀ a ∈ accs, a.va.toNat % n = 0 ∧ inAperture c.g a.va = false) ∧ t.embreqOf c.g 0 accs = none ∧ t.acquirePending c.g = false

/-- LL loads, stores, atomics: constructor, minor, bytes, signed. -/
noncomputable def ldlRows : List (Mk × Nat × Nat × Bool) :=
  [(.ldl8s, 0, 1, true), (.ldl8z, 1, 1, false), (.ldl16s, 2, 2, true), (.ldl16z, 3, 2, false), (.ldl32, 4, 4, false),
   (.ldl64, 5, 8, false), (.ldl128, 6, 16, false)]
noncomputable def stlRows : List (Mk × Nat × Nat) := [(.stl8, 7, 1), (.stl16, 8, 2), (.stl32, 9, 4), (.stl64, 10, 8), (.stl128, 11, 16)]
/-- With the minor of the AT operation that gives the new word. -/
noncomputable def llAtomicRows : List (Mk × Nat × Nat × (Ctx → List TagCheck) × (Ctx → BitVec 4)) :=
  [(.laadd, 12, 0, fun c => c.needC [0, 1], fun _ => tI32), (.lamin, 13, 1, fun c => c.needC [0, 1], fun _ => tI32),
   (.lamax, 14, 2, fun c => c.needC [0, 1], fun _ => tI32), (.laexch, 15, 8, fun _ => [], fun c => c.tagC 0),
   (.lacas, 16, 9, fun _ => [], fun c => c.tagC 0)]

/-- All of LL: constructor, minor, bytes, tags of the operands beside A. -/
noncomputable def llRows : List (Mk × Nat × Nat × (Ctx → List TagCheck)) :=
  ldlRows.map (fun r => (r.1, r.2.1, r.2.2.1, fun _ => [])) ++ stlRows.map (fun r => (r.1, r.2.1, r.2.2, fun _ => []))
    ++ llAtomicRows.map fun r => (r.1, r.2.1, 4, r.2.2.2.1)

/-- The local address of lane `i` is valid, aligned, and stands at offset `p.2` of team `p.1`'s window (R97, R98, R100). -/
def atWindow (t : State) (c : Ctx) (n i : Nat) (p : Nat × Nat) : Prop :=
  let la : Int := (c.opA i).toNat + c.sB.toInt + c.lit.toInt
  0 ≤ la ∧ la < 2 ^ 32 ∧ la % n = 0 ∧ t.localAddr c.g la.toNat n = some p

end Sys2Proof.Stated

open Sys2Proof Sys2Proof.Machine Sys2Proof.Stated

/-- R76, R79, R80 to R82, R364: a load of LDG whose address tags pass, with no bad aperture address, no acquire before it
unbound and nothing it would pass, takes an entry of the operand log with its accesses, raises its completion flag and
moves on; in a body its accesses are recorded; those through the aperture are made and the others translated at once. As an
access binds (R71, R72, R78, R257), its lines are read: it and every lane that then has all its lines take their bytes
from the newest covering store of the tile's own path, else from the tile cache where the load may be served there, else
from home, a line once for all lanes, a device line for its own lane only; no other lane binds. -/
def Obligations.LoadsEnterLog : Prop :=
  (∀ r ∈ ldgRows, ∀ (o : Ops) (s : State) (g : Group) (cl : Clause) (t u : State) (f : Option AFail), Clear s 18 r.2.1 o g cl t →
    let c := s.ctx 18 r.2.1 o g cl
    let accs := accesses c r.2.2.2.2.2 r.2.2.1
    Passes t c (addrTags c r.2.2.2.2.2) (∃ a ∈ accs, t.apertureBad g a = true) →
    t.acquirePending g = false → noWaiter t c accs → (∀ a ∈ accs, t.apertureScored g true a = false) →
    let l := c.logIssue t
      (if c.anyLane then .load r.2.2.1 r.2.2.2.1 r.2.2.2.2.1 c.e.scope.toNat c.e.hint.toNat else .nothing)
      fun e => { e with scalar := r.2.2.2.2.2, tag := c.e.xmod, accs := accs }
    let v := c.record l.1 false accs fun _ => []
    ∀ e : LogEntry, v.entry? l.2 = some e → (v.issueLocals g e).resolveEntry l.2 = (u, f) → f ≠ some .reg → Runs (r.1 o) s c u) ∧
  (∀ (s : State) (e : LogEntry) (g : Group) (a : Access) (ps : List Piece) (n scope hint : Nat) (signed acq : Bool),
    e.op = .load n signed acq scope hint → mayBind s e g a ps →
    ∃ u f, s.bindOne e.id a.lane = .ok u ∧ u.entry? e.id = some f ∧
      ∀ i v, (i, v) ∈ f.bound ↔ (i, v) ∈ e.bound ∨ ∃ b ∈ e.accs, ∃ qs, b.lane = i ∧ e.isBound i = false ∧ b.place = .phys qs ∧
        (b.isDev = true → b = a) ∧
        (∀ q ∈ qs, (∃ p ∈ ps, (a.isDev = true → b = a) ∧ p.pa / 128 = q.pa / 128) ∨
          (b.isDev = false ∧ ∃ r ∈ e.reads, r.1 = q.pa / 128)) ∧
        v = takenValue s g e ps b.isDev qs)

/-- R78, R83, R84, R235: a store of STG whose checks pass writes, lane by lane in ascending order, the bytes of D (or s(D)),
little-endian, at the places its addresses translate to: of a tile into its store path, of a stoker core at home; in a
body it is recorded only. That a stoker core's store is performed at home as it issues is the model's choice (log entry 22,
DESIGN CHOICE). -/
def Obligations.StoresEnterPath : Prop :=
  ∀ r ∈ stgRows, ∀ (o : Ops) (s : State) (g : Group) (cl : Clause) (t u v : State) (placed : List Access), Clear s 19 r.2.1 o g cl t →
    let c := s.ctx 19 r.2.1 o g cl
    let accs := accesses c r.2.2.2.1 r.2.2.1
    let data := fun i => leBytes r.2.2.1 (storedNat c r.2.2.2.1 r.2.2.1 i)
    let body := t.inRegion g = .body
    Passes t c (addrTags c r.2.2.2.1) ((∃ a ∈ accs, t.apertureBad g a = true)
      ∨ (¬ body ∧ (t.embreqOf g 0 accs ≠ none ∨ t.apertureBarbusy g accs ≠ none))) →
    t.acquirePending g = false →
    (r.2.2.2.2 = true → ¬ body → c.anyLane = true →
      t.accessesMade g = true ∧
      (t.tileWide g c.e.scope.toNat = true ∨ (∃ a ∈ accs, inAperture g a.va = true) → t.released g c.e.scope.toNat = true) ∧
      (t.tileWide g c.e.scope.toNat = false → t.otherClear g = true ∧ t.atomicsHome g = true)) →
    (¬ body → ∀ a ∈ accs, t.apertureScored g false a = false) →
    t.placeAll g .write accs = (u, .ok placed) →
    (body → Runs (r.1 o) s c (c.record u true placed data)) ∧
    (¬ body → u.bindBefore g u.nextId placed = .ok v →
      let e := g.storeEntry c.e.hint.toNat (r.2.2.2.2 && !v.tileWide g c.e.scope.toNat) none v.nextId
      Runs (r.1 o) s c (placed.foldl (fun w a => w.storePlace g e a.place (data a.lane)) { v with nextId := v.nextId + 1 }))

/-- R85 to R87: an atomic whose checks pass takes an entry of the log with its operands (return form), or goes into the store
path (no-return form), lane by lane in ascending order. That a stoker core, which has no store path, performs a no-return atomic
at home as it issues is the model's choice (log entry 22, DESIGN CHOICE). -/
def Obligations.AtomicsIssue : Prop :=
  ∀ r ∈ atomicRows, ∀ (scal : Bool) (o : Ops) (s : State) (g : Group) (cl : Clause) (t u v : State),
    let maj := if scal then 21 else 20
    let i := if scal then r.2.1 o else r.1 o
    let n := if r.2.2.1 = 13 then 8 else 4
    Clear s maj r.2.2.1 o g cl t →
    let c := s.ctx maj r.2.2.1 o g cl
    let accs := accesses c scal n
    Passes t c (addrTags c scal ++ if scal then [] else r.2.2.2.2.1 c) False → atomicGoes t c accs n →
    (∀ f : Option AFail, c.xm = 0 →
      let l := c.logIssue t (if c.anyLane then .atomic r.2.2.2.1 (scal && r.2.2.2.2.2.2) c.e.hint.toNat else .nothing) fun e => { e with
        scalar := scal, tag := if scal then tRAW else r.2.2.2.2.2.1 c, accs := accs
        opnds := accs.map fun a => (a.lane, atomicArgs c r.2.2.1 scal a.lane) }
      ∀ e : LogEntry, l.1.entry? l.2 = some e → (l.1.issueLocals g e).resolveEntry l.2 = (u, f) → f ≠ some .reg → Runs i s c u) ∧
    (∀ placed : List Access, c.xm = 1 → t.placeAll g .atomic accs = (u, .ok placed) → u.coreAtomicBad g placed = none →
      u.bindBefore g u.nextId placed = .ok v →
      Runs i s c (placed.foldl (fun w a =>
        let x := atomicArgs c r.2.2.1 scal a.lane
        w.issueAtomic g c.e.hint.toNat r.2.2.2.1 x.1 x.2 none a) v))

/-- R86, R87: an atomic that may go (no older entry of its line, no release before it) reads its word at home, writes the new
word of the table there, leaves the store path, drops its tile's copy of the line, and returns the old word. -/
def Obligations.AtomicsPerformAtHome : Prop :=
  ∀ r ∈ atomicRows, ∀ (s : State) (tile n : Nat) (e : PathEntry) (v x : W64) (ret : Option (Nat × Nat)),
    (s.tile tile).path.find? (fun p => p.id == n) = some e → e.op = .atomic r.2.2.2.1 v x ret →
    s.pathsReady n = true → s.badRead e.pa (if r.2.2.1 = 13 then 8 else 4) = false →
    let old := bytesNat (s.homeRead e.pa (if r.2.2.1 = 13 then 8 else 4))
    let new := if r.2.2.1 = 13 then leBytes 8 (old + v.toNat)
      else leBytes 4 (atomicWord r.2.2.1 (BitVec.ofNat 32 old) (v.setWidth 32) (x.setWidth 32)).toNat
    let u := (s.homeWrite e.pa new e.hint).offPath n
    exec (.homeAtomicPerform tile n) s =
      .next ((u.setTile tile ((u.tile tile).dropLine (e.pa / 128))).giveOld ret (BitVec.ofNat 64 old))

/-- R90 to R92: a fence waits for the accesses of its kind (release: every earlier access is performed at its scope;
acquire: every earlier load has bound; sc: the store path is clear), then an acquire sees every store that stands in the store
paths of its tiles (R266; a later release of the group covers them: the model's choice, log entry 22) and drops the tile cache
unless its scope is tile-wide; `pf` fetches the lines of the lanes, `cwb` writes lines back, `cinv` drops them in its reach, both once
the group's own stores to them are at home (the model's choice, log entry 48). -/
def Obligations.OrderingAndCaches : Prop :=
  (∀ r ∈ ([(.fenceSc, true, true, true), (.fenceAcq, false, true, false), (.fenceRel, true, false, false),
      (.fenceAcqrel, true, true, false)] : List (Mk × Bool × Bool × Bool)),
    ∀ (o : Ops) (s : State) (g : Group) (cl : Clause) (t : State), Clear s 22 0 o g cl t →
    let c := s.ctx 22 0 o g cl
    t.rlxRefuses c = none →
    ((r.2.1 = true → t.released g c.e.scope.toNat = true) → (r.2.2.1 = true → t.loadsBound g = true) →
      (r.2.2.2 = true → t.pathClear g = true) →
      Runs (r.1 o) s c (c.onceDo t (match t.groupTile g with
        | some tile =>
          if r.2.2.1 = true then
            let u := t.seePaths g
            if u.tileWide g c.e.scope.toNat = true then u else u.dropCache tile
          else t
        | none => t))) ∧
    (c.anyLane = true → (r.2.1 = true ∧ t.released g c.e.scope.toNat = false) ∨ (r.2.2.1 = true ∧ t.loadsBound g = false)
        ∨ (r.2.2.2 = true ∧ t.pathClear g = false) →
      Stalls (r.1 o) s t c .order)) ∧
  (∀ (o : Ops) (s : State) (g : Group) (cl : Clause) (t : State), Clear s 22 1 o g cl t →
    let c := s.ctx 22 1 o g cl
    Passes t c (c.needBw [0, 1]) False →
    Runs (.pf o) s c (c.lanes.foldl (fun u i => prefetch c u (c.sA + (c.opBw i).signExtend 64 + c.lit)) t)) ∧
  (∀ (m : Nat) (mk : Mk), (mk, m) ∈ ([(.cwb, 2), (.cinv, 3)] : List (Mk × Nat)) →
    ∀ (o : Ops) (s : State) (g : Group) (cl : Clause) (t u : State) (lines : List Nat), Clear s 22 m o g cl t →
    let c := s.ctx 22 m o g cl
    let vas := c.lanes.map fun i => c.sA + (c.opBw i).signExtend 64 + c.lit
    Passes t c (c.needBw [0, 1]) (∃ va ∈ vas, inAperture g va = true) → t.linesOf g vas = (u, .ok lines) →
    (u.linesHome g lines = true → Runs (mk o) s c (lines.foldl (fun w l =>
      if m = 2 then w.writeBack l else w.invalidate (w.reach g c.e.scope.toNat) (4 ≤ c.e.scope.toNat) l) u)) ∧
    (u.linesHome g lines = false → Stalls (mk o) s t c .order))

/-- R97 to R103, R114, R235: a local load whose lanes have valid, aligned local addresses, clear of copies on the way,
writes each executing lane's registers from its window's bytes and sets the tag of XMOD; a local store writes its bytes
in ascending lane order, in a body it is recorded only; a local atomic acts lane by lane in ascending order and writes each
lane's old word; in each of them an executing lane without such an address raises ILLOP 0x0D. -/
def Obligations.LocalAccesses : Prop :=
  (∀ r ∈ ldlRows, ∀ (o : Ops) (s : State) (g : Group) (cl : Clause) (t : State) (place : Nat → Nat × Nat), Clear s 23 r.2.1 o g cl t →
    let c := s.ctx 23 r.2.1 o g cl
    Passes t c (c.needA [0, 1]) False → t.acquirePending g = false →
    (∀ i ∈ c.lanes, atWindow t c r.2.2.1 i (place i) ∧ t.scoreHit (place i).1 (place i).2 r.2.2.1 true = false) →
    Runs (r.1 o) s c ((List.range (if r.2.2.1 = 16 then 4 else if r.2.2.1 = 8 then 2 else 1)).foldl (fun w k =>
      c.putV w k (fun i => loadedReg r.2.2.1 r.2.2.2 (if i ∈ c.lanes then bytesNat (t.windowRead (place i).1 (place i).2 r.2.2.1) else 0) k) c.e.xmod)
      (c.llRecord t r.2.2.1 false fun _ => []))) ∧
  (∀ r ∈ stlRows, ∀ (o : Ops) (s : State) (g : Group) (cl : Clause) (t : State) (place : Nat → Nat × Nat), Clear s 23 r.2.1 o g cl t →
    let c := s.ctx 23 r.2.1 o g cl
    let data := fun i => leBytes r.2.2 (storedNat c false r.2.2 i)
    Passes t c (c.needA [0, 1]) False → t.acquirePending g = false →
    (∀ i ∈ c.lanes, atWindow t c r.2.2 i (place i)) →
    (t.inRegion g = .body → Runs (r.1 o) s c (c.llRecord t r.2.2 true data)) ∧
    (t.inRegion g ≠ .body → (∀ i ∈ c.lanes, t.barrierHit (place i).1 (place i).2 r.2.2 = none ∧
        t.scoreHit (place i).1 (place i).2 r.2.2 false = false) →
      Runs (r.1 o) s c (c.lanes.foldl (fun w i => w.windowWrite (place i).1 (place i).2 (data i)) t))) ∧
  (∀ r ∈ llAtomicRows, ∀ (o : Ops) (s : State) (g : Group) (cl : Clause) (t : State) (place : Nat → Nat × Nat), Clear s 23 r.2.1 o g cl t →
    let c := s.ctx 23 r.2.1 o g cl
    let word (w : State) (i : Nat) : W32 := BitVec.ofNat 32 (bytesNat (w.windowRead (place i).1 (place i).2 4))
    let act (w : State) (i : Nat) : State :=
      w.windowWrite (place i).1 (place i).2 (leBytes 4 (atomicWord r.2.2.1 (word w i) (c.opC i) (c.opDk 0 i)).toNat)
    Passes t c (c.needA [0, 1] ++ r.2.2.2.1 c) False → t.acquirePending g = false →
    (∀ i ∈ c.lanes, atWindow t c 4 i (place i) ∧ t.barrierHit (place i).1 (place i).2 4 = none ∧
      t.scoreHit (place i).1 (place i).2 4 false = false) →
    Runs (r.1 o) s c (c.putV (c.lanes.foldl act t) 0
      (fun i => if i ∈ c.lanes then word ((c.lanes.takeWhile (· < i)).foldl act t) i else 0) (r.2.2.2.2 c))) ∧
  (∀ r ∈ llRows, ∀ (o : Ops) (s : State) (g : Group) (cl : Clause) (t : State) (i : Nat), Clear s 23 r.2.1 o g cl t →
    let c := s.ctx 23 r.2.1 o g cl
    c.tagsPass (c.needA [0, 1] ++ r.2.2.2 c) → t.rlxRefuses c = none → i ∈ c.lanes → (∀ p, ¬ atWindow t c r.2.2.1 i p) →
    exec (r.1 o) s = .next (t.raise g.id (c.trapAt .illop 0x0D)))

namespace Sys2Proof.Stated
open Sys2Proof.Machine

/-! ## Copies and barriers (05 R104 to R124) -/

/-- `v` is a valid local address of `n` aligned bytes, at offset `p.2` of team `p.1`'s window. -/
def localAt (t : State) (g : Group) (n v : Nat) (p : Nat × Nat) : Prop := v % n = 0 ∧ t.localAddr g v n = some p

/-- A side of a copy lane: a local address, or an aligned global one (R105). -/
def sideAt (t : State) (c : Ctx) (n : Nat) (loc : Prop) (v : W32) (x : Side) : Prop :=
  (loc → ∃ p, localAt t c.g n v.toNat p ∧ x = .loc p.1 p.2) ∧
  (¬ loc → (c.sB + v.signExtend 64 + c.lit).toNat % n = 0 ∧ x = .glob (c.sB + v.signExtend 64 + c.lit))

/-- The barrier object that the low 32 bits of a scalar name (R119). -/
def barrierNamed (t : State) (g : Group) (v : W64) (p : Nat × Nat) : Prop := localAt t g 16 (v.toNat % 2 ^ 32) p

/-- A window's byte range in a local side. -/
def windowOf : Side → List (Nat × Nat)
  | .loc t o => [(t, o)]
  | .glob _ => []

end Sys2Proof.Stated

open Sys2Proof Sys2Proof.Machine Sys2Proof.Stated

/-- R104 to R106, R109, R113: a copy whose lanes name valid, aligned sides enters the copy engine with one lane for each
executing lane, its barrier, its scope and hint, and one interval of the range scoreboard for each local side of each
tile; a remote one names the resident teams of the launch at PLACE as its receivers, and with none it does nothing; without
room in a scoreboard it waits. That a remote copy takes no write interval for any receiver, one on the issuer's own tile
included, is the model's choice (log entry 18, DEDUCED): R113 names the arrival at another tile only. -/
def Obligations.CopiesEnterEngine : Prop :=
  ∀ (mk : Mk) (m n : Nat), (mk, m, n) ∈ ([(.cp4, 0, 4), (.cp8, 1, 8), (.cp16, 2, 16)] : List (Mk × Nat × Nat)) →
    ∀ (o : Ops) (s : State) (g : Group) (cl : Clause) (t : State) (src dst : Nat → Side) (bar : Option (Nat × Nat)), Clear s 24 m o g cl t →
    let c := s.ctx 24 m o g cl
    let remote : Bool := c.e.place.toNat / 1024 ≠ 0
    let recvs := if remote then c.receivers t else []
    let lanes : List CopyLane := c.lanes.map fun i => { lane := i, src := src i, dst := dst i, recvs := recvs }
    let scores := t.intervals t.nextId n false (lanes.flatMap fun l => windowOf l.src)
      ++ if remote then [] else t.intervals t.nextId n true (lanes.flatMap fun l => windowOf l.dst)
    Passes t c (c.needA [0, 1] ++ c.needD [0, 1]) (remote = true ∧ c.xm ≠ 2) → c.anyLane = true →
    (∀ i ∈ c.lanes, sideAt t c n (c.xm ≠ 0) (c.opA i) (src i) ∧ sideAt t c n (c.xm ≠ 1) (c.opDk 0 i) (dst i) ∧
      (remote = true → (c.opDk 0 i).toNat < 2 ^ 20)) →
    (c.fc = 0 → bar = none) →
    (c.fc ≠ 0 → ∃ p, bar = some p ∧ barrierNamed t g c.sC p ∧ (remote = true → c.sC.toNat % 2 ^ 32 < 2 ^ 20)) →
    (c.xm = 1 → t.copyEmbreq g n (c.lanes.map fun i => c.sB + (c.opDk 0 i).signExtend 64 + c.lit) = none) →
    (t.scoreRoom scores = true → (remote = true → recvs ≠ []) →
      Runs (mk o) s c (({ t with nextId := t.nextId + 1 } : State).enterCopy
        { id := t.nextId, grp := g.id, team := g.team, asid := g.asid.toNat, vmid := g.vmid.toNat
          dir := if c.xm = 0 then .g2l else if c.xm = 1 then .l2g else .l2l
          n := n, scope := c.e.scope.toNat, hint := c.e.hint.toNat, remote := remote
          bar := if remote then none else bar, recvBar := if remote then bar.map (fun b => b.2) else none
          lanes := lanes } scores)) ∧
    (t.scoreRoom scores = true → remote = true → recvs = [] → Runs (mk o) s c t) ∧
    (t.scoreRoom scores = false → Stalls (mk o) s t c .resource)

/-- R110 to R112, R122: `cpmc` enters a multicast of 16 bytes a lane to its receivers and its sender barrier takes the
acknowledgements they owe (STRAY where that barrier is not valid, on which R110 and R118 are silent: the model's choice, log
entry 18, DEDUCED); `cpseal` closes the group's open batch, writes its number into s(D) and counts on, or is held
while 16 batches are unfinished; `cpwait` goes on, is held, or answers its NBP bit. -/
def Obligations.MulticastsAndBatches : Prop :=
  (∀ (o : Ops) (s : State) (g : Group) (cl : Clause) (t : State) (src dst : Nat → Nat × Nat) (snd rcv : Nat × Nat), Clear s 24 5 o g cl t →
     let c := s.ctx 24 5 o g cl
     let recvs := c.receivers t
     let lanes : List CopyLane := c.lanes.map fun i =>
       { lane := i, src := .loc (src i).1 (src i).2, dst := .loc (dst i).1 (dst i).2, recvs := recvs }
     let scores := t.intervals t.nextId 16 false (c.lanes.map src)
     Passes t c (c.needA [0, 1] ++ c.needD [0, 1]) (c.e.place.toNat / 1024 = 0 ∨ c.fc = 0) →
     (∀ i ∈ c.lanes, localAt t g 16 (c.opA i).toNat (src i) ∧
       ∃ v : Nat, (v : Int) = (c.opDk 0 i).toNat + c.lit.toInt ∧ v < 2 ^ 20 ∧ localAt t g 16 v (dst i)) →
     barrierNamed t g c.sB snd → barrierNamed t g c.sC rcv → c.sC.toNat % 2 ^ 32 < 2 ^ 20 →
     (c.anyLane = false ∨ recvs = [] → Runs (.cpmc o) s c t) ∧
     (c.anyLane = true → recvs ≠ [] → t.scoreRoom scores = true →
       let u := ({ t with nextId := t.nextId + 1 } : State).enterCopy
         { id := t.nextId, grp := g.id, team := g.team, asid := g.asid.toNat, vmid := g.vmid.toNat, dir := .l2l, n := 16
           scope := 0, hint := 0, mc := true, bar := some snd, recvBar := some rcv.2, lanes := lanes } scores
       let b := u.bar snd.1 snd.2
       (u.barValid snd.1 snd.2 = true → Runs (.cpmc o) s c ((u.setBar snd.1 snd.2
         { b with bytes := b.bytes + 16 * lanes.length * recvs.length, acks := b.acks + recvs.length }).barTest snd.1 snd.2)) ∧
       (u.barValid snd.1 snd.2 = false → Runs (.cpmc o) s c (u.setStray snd.1 snd.2)))) ∧
  ((∀ (o : Ops) (s : State) (g : Group) (cl : Clause) (t : State), Clear s 24 3 o g cl t →
     let c := s.ctx 24 3 o g cl
     t.rlxRefuses c = none →
     ((t.unfinished g.id).length < 16 → Runs (.cpseal o) s c (c.onceDo t
       ((c.putS { t with copies := t.copies.map fun k =>
           if k.grp = g.id ∧ k.batch = none then { k with batch := some g.nextBatch } else k } (BitVec.ofNat 64 g.nextBatch)).onGroup
         g.id fun h => { h with nextBatch := (g.nextBatch + 1) % 2 ^ 16 }))) ∧
     (16 ≤ (t.unfinished g.id).length → c.anyLane = true →
       exec (.cpseal o) s = .next (t.onGroup g.id fun h => { h with hold := .batches 15 (some (g.sref c.fd)) c.words, stall := none }))) ∧
   (∀ (o : Ops) (s : State) (g : Group) (cl : Clause) (t : State), Clear s 24 4 o g cl t →
     let c := s.ctx 24 4 o g cl
     let done := (t.unfinished g.id).length ≤ c.sAl.toNat ∨ 16 ≤ c.sAl.toNat
     t.rlxRefuses c = none →
     (c.e.nb = true → (done → Runs (.cpwait o) s c (c.onceDo t (c.putP t c.e.nbp.toNat c.act))) ∧
       (¬ done → Runs (.cpwait o) s c (c.onceDo t (c.putP t c.e.nbp.toNat 0)))) ∧
     (c.e.nb = false → (done → Runs (.cpwait o) s c t) ∧
       (¬ done → c.anyLane = true →
         exec (.cpwait o) s = .next (t.onGroup g.id fun h => { h with hold := .batches c.sAl.toNat none c.words, stall := none })))))

/-- R115, R118 to R124: `binit` makes a valid object of phase 0 that expects N arrivals; `barrive`, once the group's earlier
accesses are performed at GANG scope, counts an arrival; `bexpect` adds bytes; each is followed by the test of R118. `btest`
and `bwait` write whether the phase has moved on from s(B), and a true one acquires; `bwait` of the phase in progress is
held. `binval` clears V and W and releases waiters with false; `back` sends the acknowledgements the object's table holds. -/
def Obligations.BarrierObjects : Prop :=
  (∀ (o : Ops) (s : State) (g : Group) (cl : Clause) (t : State) (p : Nat × Nat), Clear s 25 0 o g cl t →
    let c := s.ctx 25 0 o g cl
    let n := c.sBl.toNat
    t.rlxRefuses c = none → barrierNamed t g c.sA p → 0 < n → n < 65536 → t.copyNames p.1 p.2 = false →
    (t.barValid p.1 p.2 = true → (t.bar p.1 p.2).waiters = false ∧ (t.bar p.1 p.2).bytes = 0 ∧ (t.bar p.1 p.2).acks = 0) →
    (t.barValid p.1 p.2 = false → ∀ tm, t.team? p.1 = some tm → (t.tile (t.teamTile tm)).bars.length < 128) →
    Runs (.binit o) s c (c.onceDo t ((t.setBarriers p.1 ((t.barriersOf p.1).filter (· ≠ p.2) ++ [p.2])).setBarWords p.1 p.2
      (BitVec.ofNat 64 (n * 2 ^ 32 + 1), 0)))) ∧
  (∀ (o : Ops) (s : State) (g : Group) (cl : Clause) (t : State) (p : Nat × Nat), Clear s 25 1 o g cl t →
    let c := s.ctx 25 1 o g cl
    let b := t.bar p.1 p.2
    t.rlxRefuses c = none → barrierNamed t g c.sA p → t.barValid p.1 p.2 = true → b.arrived < b.expect →
    (t.released g 2 = true →
      Runs (.barrive o) s c (c.onceDo t ((t.setBar p.1 p.2 { b with arrived := b.arrived + 1 }).barTest p.1 p.2))) ∧
    (t.released g 2 = false → c.anyLane = true →
      Stalls (.barrive o) s t c .order)) ∧
  (∀ (o : Ops) (s : State) (g : Group) (cl : Clause) (t : State) (p : Nat × Nat), Clear s 25 2 o g cl t →
    let c := s.ctx 25 2 o g cl
    let b := t.bar p.1 p.2
    let n := c.sBl.toNat
    t.rlxRefuses c = none → barrierNamed t g c.sA p → t.barValid p.1 p.2 = true → 0 < n → n < 2 ^ 31 → b.bytes + n < 2 ^ 31 →
    Runs (.bexpect o) s c (c.onceDo t ((t.setBar p.1 p.2 { b with bytes := b.bytes + n }).barTest p.1 p.2))) ∧
  (∀ (mk : Mk) (m : Nat), (mk, m) ∈ ([(.bwait, 3), (.btest, 4)] : List (Mk × Nat)) →
    ∀ (o : Ops) (s : State) (g : Group) (cl : Clause) (t : State) (p : Nat × Nat), Clear s 25 m o g cl t →
    let c := s.ctx 25 m o g cl
    let b := t.bar p.1 p.2
    t.rlxRefuses c = none → barrierNamed t g c.sA p →
    (t.barValid p.1 p.2 = false → Runs (mk o) s c (c.onceDo t (c.putP t c.fd 0))) ∧
    (t.barValid p.1 p.2 = true → b.phase ≠ c.sB.toNat % 2 ^ 16 →
      Runs (mk o) s c (c.onceDo t ((c.putP t c.fd c.act).acquireAt g 2))) ∧
    (t.barValid p.1 p.2 = true → b.phase = c.sB.toNat % 2 ^ 16 → c.anyLane = true →
      (m = 4 → Runs (mk o) s c (c.putP t c.fd 0)) ∧
      (m = 3 → exec (mk o) s = .next ((t.setBar p.1 p.2 { b with waiters := true }).onGroup g.id fun h =>
        { h with hold := .bwait p.1 p.2 (g.pref c.fd) c.act c.words, stall := none })))) ∧
  (∀ (o : Ops) (s : State) (g : Group) (cl : Clause) (t : State) (p : Nat × Nat), Clear s 25 5 o g cl t →
    let c := s.ctx 25 5 o g cl
    let w := t.barWords p.1 p.2
    t.rlxRefuses c = none → barrierNamed t g c.sA p → t.barValid p.1 p.2 = true →
    let u := t.setBarWords p.1 p.2 (w.1 &&& 0xFFFFFFFFFFFFFFFA#64, w.2)
    Runs (.binval o) s c (c.onceDo t
      ((u.setBarriers p.1 ((u.barriersOf p.1).filter (· ≠ p.2))).releaseWaiters p.1 p.2 false))) ∧
  (∀ (o : Ops) (s : State) (g : Group) (cl : Clause) (t : State) (p : Nat × Nat) (tm : Team), Clear s 25 7 o g cl t →
    let c := s.ctx 25 7 o g cl
    let tile := t.tile (t.teamTile tm)
    let mine (e : AckEntry) : Bool := e.recvTeam = p.1 ∧ e.recvOff = p.2
    t.rlxRefuses c = none → barrierNamed t g c.sA p → t.barValid p.1 p.2 = true → t.team? p.1 = some tm →
    Runs (.back o) s c (c.onceDo t { t.setTile (t.teamTile tm) { tile with acks := tile.acks.filter fun e => !mine e } with
      acks := t.acks ++ (tile.acks.filter mine).map fun e => { team := e.sendTeam, off := e.sendOff, count := e.count } }))

/-- R116, R119, R126: a BA instruction whose scalar names no barrier raises ILLOP 0x0D; `barrive`, `bexpect`, `binval` and
`back` of an object that is not valid raise BARBUSY with reason 2, an arrival beyond the expected count with reason 5.
R123, R124: `bteam`, once the group's earlier accesses are performed at TEAM scope, counts the group as arrived at its
team's barrier and holds it; with the last group of the team that has not exited, all go on. -/
def Obligations.BarrierErrorsAndTeamBarrier : Prop :=
  ((∀ (mk : Mk) (m : Nat), (mk, m) ∈ ([(.binit, 0), (.barrive, 1), (.bexpect, 2), (.bwait, 3), (.btest, 4), (.binval, 5),
       (.back, 7)] : List (Mk × Nat)) →
     ∀ (o : Ops) (s : State) (g : Group) (cl : Clause) (t : State), Clear s 25 m o g cl t →
     let c := s.ctx 25 m o g cl
     t.rlxRefuses c = none → c.anyLane = true → (∀ p, ¬ barrierNamed t g c.sA p) →
     exec (mk o) s = .next (t.raise g.id (c.trapAt .illop 0x0D))) ∧
   (∀ (mk : Mk) (m : Nat), (mk, m) ∈ ([(.barrive, 1), (.bexpect, 2), (.binval, 5), (.back, 7)] : List (Mk × Nat)) →
     ∀ (o : Ops) (s : State) (g : Group) (cl : Clause) (t : State) (p : Nat × Nat), Clear s 25 m o g cl t →
     let c := s.ctx 25 m o g cl
     t.rlxRefuses c = none → c.anyLane = true → barrierNamed t g c.sA p → (m = 2 → 0 < c.sBl.toNat ∧ c.sBl.toNat < 2 ^ 31) →
     t.barValid p.1 p.2 = false →
     exec (mk o) s = .next (t.raise g.id (c.trapAt .barbusy
       (BitVec.ofNat 64 (p.2 + 2 * 2 ^ 20 + c.sA.toNat / 2 ^ 20 % 4 * 2 ^ 24))))) ∧
   (∀ (o : Ops) (s : State) (g : Group) (cl : Clause) (t : State) (p : Nat × Nat), Clear s 25 1 o g cl t →
     let c := s.ctx 25 1 o g cl
     t.rlxRefuses c = none → c.anyLane = true → barrierNamed t g c.sA p → t.barValid p.1 p.2 = true →
     (t.bar p.1 p.2).expect ≤ (t.bar p.1 p.2).arrived →
     exec (.barrive o) s = .next (t.raise g.id (c.trapAt .barbusy
       (BitVec.ofNat 64 (p.2 + 5 * 2 ^ 20 + c.sA.toNat / 2 ^ 20 % 4 * 2 ^ 24)))))) ∧
  (∀ (o : Ops) (s : State) (g : Group) (cl : Clause) (t : State) (tm : Team), Clear s 25 6 o g cl t →
     let c := s.ctx 25 6 o g cl
     t.rlxRefuses c = none → t.teamOf g = some tm → c.anyLane = true →
     (t.released g 1 = true →
       exec (.bteam o) s = .next (((t.setTeam { tm with arrived := tm.arrived.filter (· ≠ g.id) ++ [g.id] }).onGroup g.id fun h =>
         { h with hold := .bteam c.words, stall := none }).bteamCheck tm.id)) ∧
     (t.released g 1 = false →
       Stalls (.bteam o) s t c .order))
namespace Sys2Proof.Stated
open Sys2Proof.Machine

/-! ## The matrix unit and the loop buffer (10 R195 to R224; 06 R144) -/

/-- Bits `hi` to `lo` of a word. -/
def fieldOf (v : W64) (hi lo : Nat) : Nat := v.toNat / 2 ^ lo % 2 ^ (hi + 1 - lo)

/-- A control word that `movp` accepts (R196). -/
def ctlValid (g : Group) (v : W64) : Prop :=
  let f := fieldOf v 23 20
  let rb := fieldOf v 7 0
  let ew := elemWidth g f
  v.toNat < 2 ^ 24 ∧ fieldOf v 18 18 = 0 ∧ fieldOf v 11 8 = 0 ∧ (f = 3 ∨ f = 4 ∨ f = 6 ∨ 8 ≤ f) ∧ 1 ≤ rb ∧ rb ≤ 128 ∧
    rb * 8 % ew = 0 ∧ rb * 8 / ew % 32 = 0

/-- A panel whose writes by a group the matrix unit sees from now on (R212). -/
def fencedFor (g : Group) (p : Panel) : Panel :=
  if g.id ∈ p.unfenced then { p with unfenced := p.unfenced.filter (· ≠ g.id), seen := p.ctl } else p

/-- A panel that a group has written and not fenced (R212). -/
def soiled (p : Panel) (g : Group) : Panel :=
  { p with unfenced := if g.id ∈ p.unfenced then p.unfenced else p.unfenced ++ [g.id] }

/-- The part, row and offset of `pput` and `pget` are in range (R217). -/
def partValid (c : Ctx) (p : Panel) : Prop :=
  c.fc < 2 ∧ p.ctl ≠ 0 ∧ c.sB.toNat < 2 ^ 14 ∧ fieldOf c.sB 7 6 = 0 ∧ fieldOf c.sB 5 0 < (geoOf c.g p.ctl).rows ∧
    (c.fc = 1 → fieldOf c.sB 13 8 ≤ 1)

/-- Bytes of a row of a part; the byte of the part at which lane `i` begins, and how many it moves. -/
def partRow (c : Ctx) (p : Panel) : Nat := if c.fc = 0 then (geoOf c.g p.ctl).rbytes else (geoOf c.g p.ctl).bpr
def partAt (c : Ctx) (p : Panel) (i : Nat) : Nat := fieldOf c.sB 5 0 * partRow c p + 4 * (fieldOf c.sB 13 8 + i)
def partLen (c : Ctx) (p : Panel) (i : Nat) : Nat := min 4 (partRow c p - 4 * (fieldOf c.sB 13 8 + i))

/-- The rows of a panel in memory, and its strip (R216). -/
def panelAccesses (c : Ctx) (p : Panel) : List Access :=
  let q := geoOf c.g p.ctl
  let ea := (c.sA + c.lit).toNat
  ((List.range q.rows).map fun r => { lane := 1000 + r, va := BitVec.ofNat 64 (ea + r * fieldOf c.sB 31 0), n := q.rbytes })
    ++ if q.scaled then [{ lane := 1064, va := BitVec.ofNat 64 (ea + fieldOf c.sB 63 32), n := q.rows * q.bpr }] else []

/-- The addresses of `pld` and `pst` are aligned, and those in the aperture are the team's (R216). -/
def panelAddrValid (t : State) (c : Ctx) (p : Panel) : Prop :=
  p.ctl ≠ 0 ∧ fieldOf (c.sA + c.lit) 3 0 = 0 ∧ fieldOf c.sB 3 0 = 0 ∧
    ((c.sA + c.lit).toNat + fieldOf c.sB 63 32) % 8 = 0 ∧
    ∀ a ∈ panelAccesses c p, t.rowBad c.g a = false

/-- The entry of an MX instruction that no lane executes. -/
def idleEntry (c : Ctx) (t : State) (tag : BitVec 4) : State := (c.logIssue t .nothing fun e => { e with tag := tag }).1

/-- Bytes that a row of 64 elements takes in a format of `cstore` (R220). -/
def drainRow (fmt : Nat) : Nat := if fmt = 0 then 256 else if fmt = 1 then 128 else 1024

end Sys2Proof.Stated

open Sys2Proof Sys2Proof.Machine Sys2Proof.Stated

/-- R144, R196, R212, R213, R216, R217: `movp` gives a panel its control word, `pzero` clears its bytes and sets its scales to
1, `pput` writes a register's bytes into a row or the strip, each held while an `mma` of the group reads the panel;
`movpr` and `pget` read; `pfence` ends the group's unfenced writes once its `pld` have completed; `pld` and `pst` enter the
log with an access for each row and for the strip. -/
def Obligations.PanelInstructions : Prop :=
  (∀ (o : Ops) (s : State) (g : Group) (cl : Clause) (t : State), Clear s 12 6 o g cl t →
    let c := s.ctx 12 6 o g cl
    t.rlxRefuses c = none →
    (ctlValid g c.sAl → t.panelRead g c.fd = false →
      Runs (.movp o) s c (c.onceDo t (t.setPanel g c.fd (soiled { t.panelOf g c.fd with ctl := c.sAl } g)))) ∧
    (¬ ctlValid g c.sAl → c.anyLane = true → exec (.movp o) s = .next (t.raise g.id (c.trapAt .illop 0x0D))) ∧
    (ctlValid g c.sAl → t.panelRead g c.fd = true → c.anyLane = true →
      Stalls (.movp o) s t c .matrix)) ∧
  (∀ (o : Ops) (s : State) (g : Group) (cl : Clause) (t : State), Clear s 12 7 o g cl t →
    let c := s.ctx 12 7 o g cl
    t.rlxRefuses c = none → Runs (.movpr o) s c (c.onceDo t (c.putS t (t.panelOf g c.fa).ctl))) ∧
  (∀ (o : Ops) (s : State) (g : Group) (cl : Clause) (t u : State) (f : Option AFail), Clear s 26 0 o g cl t →
    let c := s.ctx 26 0 o g cl
    let p := t.panelOf g c.fd
    t.rlxRefuses c = none →
    (c.anyLane = false → Runs (.pld o) s c (idleEntry c t tRAW)) ∧
    (c.anyLane = true → panelAddrValid t c p → t.acquirePending g = false → noWaiter t c (panelAccesses c p) →
      t.panelRead g c.fd = false → (∀ a ∈ panelAccesses c p, t.apertureScored g true a = false) →
      let l := c.logIssue (t.setPanel g c.fd (soiled p g)) (.pld c.fd) fun e => { e with accs := panelAccesses c p }
      ∀ e : LogEntry, l.1.entry? l.2 = some e → (l.1.issueLocals g e).resolveEntry l.2 = (u, f) → f ≠ some .reg → Runs (.pld o) s c u)) ∧
  (∀ (o : Ops) (s : State) (g : Group) (cl : Clause) (t u : State) (f : Option AFail), Clear s 26 1 o g cl t →
    let c := s.ctx 26 1 o g cl
    let p := t.panelOf g c.fd
    let accs := panelAccesses c p
    t.rlxRefuses c = none →
    (c.anyLane = false → Runs (.pst o) s c (idleEntry c t tRAW)) ∧
    (c.anyLane = true → panelAddrValid t c p → t.embreqOf g 0 accs = none → t.apertureBarbusy g accs = none →
      t.acquirePending g = false → (∀ a ∈ accs, t.apertureScored g false a = false) → t.panelInFlight g c.fd = false →
      let l := c.logIssue t .pst fun e => { e with
        accs := accs
        bound := accs.map fun a => (a.lane, bytesNat (if a.lane = 1064 then memRead p.strip 0 a.n
          else memRead p.bytes ((a.lane - 1000) * a.n) a.n)) }
      ∀ e : LogEntry, l.1.entry? l.2 = some e → (l.1.issueLocals g e).resolveEntry l.2 = (u, f) → f ≠ some .reg → Runs (.pst o) s c u)) ∧
  (∀ (o : Ops) (s : State) (g : Group) (cl : Clause) (t : State), Clear s 26 2 o g cl t →
    let c := s.ctx 26 2 o g cl
    t.rlxRefuses c = none → t.panelRead g c.fd = false →
    Runs (.pzero o) s c (c.onceDo t (t.setPanel g c.fd (soiled { t.panelOf g c.fd with
      bytes := [], strip := memWrite [] 0 (List.replicate 512 0x7F) } g)))) ∧
  (∀ (o : Ops) (s : State) (g : Group) (cl : Clause) (t : State) (tm : Team), Clear s 26 3 o g cl t →
    let c := s.ctx 26 3 o g cl
    t.rlxRefuses c = none → t.teamOf g = some tm →
    ((∀ e ∈ t.log, e.grp = g.id → ∀ n, e.op ≠ .pld n) →
      Runs (.pfence o) s c (c.onceDo t (t.setTeam { tm with panels := tm.panels.map (fencedFor g) }))) ∧
    (c.anyLane = true → (∃ e ∈ t.log, e.grp = g.id ∧ e.state ≠ .suspended ∧ (g.flow.tl = false ∨ e.tlevel = true) ∧
        ∃ n, e.op = .pld n) →
      Stalls (.pfence o) s t c .matrix)) ∧
  (∀ (o : Ops) (s : State) (g : Group) (cl : Clause) (t : State), Clear s 26 11 o g cl t →
    let c := s.ctx 26 11 o g cl
    let p := t.panelOf g c.fd
    let put (m : Mem) (i : Nat) : Mem := memWrite m (partAt c p i) (leBytes (partLen c p i) (c.opA i).toNat)
    partValid c p →
    Passes t c (c.needA (if c.fc = 0 then [BitVec.ofNat 4 (geoOf g p.ctl).fmt] else [0, 1])) (t.panelRead g c.fd = true) →
    Runs (.pput o) s c (c.onceDo t (t.setPanel g c.fd (soiled
      (if c.fc = 0 then { p with bytes := c.lanes.foldl put p.bytes } else { p with strip := c.lanes.foldl put p.strip }) g)))) ∧
  (∀ (o : Ops) (s : State) (g : Group) (cl : Clause) (t : State), Clear s 26 12 o g cl t →
    let c := s.ctx 26 12 o g cl
    let p := t.panelOf g c.fa
    partValid c p → Passes t c [] (t.panelInFlight g c.fa = true) →
    Runs (.pget o) s c (c.putV t 0 (fun i =>
      if partLen c p i = 0 then c.opDk 0 i
      else BitVec.ofNat 32 (bytesNat (memRead (if c.fc = 0 then p.bytes else p.strip) (partAt c p i) (partLen c p i))))
      (if c.fc = 0 then BitVec.ofNat 4 (geoOf g p.ctl).fmt else tRAW)))

/-- R38, R209, R211, R218 to R221: `mma` and `mmat`, issued by the whole group on panels of one class and one K, and `cdrain`
and `cstore`, enter the log; `czero` and `canch` empty an accumulator, which the group then owns, with the anchor kept or
set; `cstat` reads the status word; a group that is not whole raises ILLCONV 1, one of which no lane executes too, one that does not
own the accumulator in a deterministic launch ILLCONV 2. The model's choice: the checks of `mma` are made whichever lanes execute (log
entry 14, DEDUCED), and ILLCONV 1 comes before 2 (log entry 26, DESIGN CHOICE). `seq` opens its body; its checks are made whether a lane
executes or not (R224). -/
def Obligations.AccumulatorInstructions : Prop :=
  (∀ (mk : Mk) (m : Nat), (mk, m) ∈ ([(.mma, 4), (.mmat, 5)] : List (Mk × Nat)) →
    ∀ (o : Ops) (s : State) (g : Group) (cl : Clause) (t : State), Clear s 26 m o g cl t →
    let c := s.ctx 26 m o g cl
    let a := geoOf g (t.panelOf g c.fa).ctl
    let b := geoOf g (t.panelOf g c.fb).ctl
    let owned := ∀ w, t.workOf g = some w → w.det = 1 → (t.accOf g c.fd).owner = g.id
    let whole := c.act = fullMask g.width &&& ~~~g.flow.exited
    (t.rlxRefuses c = none → (t.panelOf g c.fa).ctl ≠ 0 → (t.panelOf g c.fb).ctl ≠ 0 →
      ((a.fmt = 3 ∨ a.fmt = 4) ↔ (b.fmt = 3 ∨ b.fmt = 4)) →
      (whole → owned → a.k = b.k → Runs (mk o) s c (c.logIssue t (.mma c.fd c.fa c.fb (m == 5) 0) id).1) ∧
      (¬ whole → exec (mk o) s = .next (t.raise g.id (c.trapAt .illconv 1))) ∧
      (whole → ¬ owned → exec (mk o) s = .next (t.raise g.id (c.trapAt .illconv 2))))) ∧
  (∀ (mk : Mk) (m : Nat), (mk, m) ∈ ([(.czero, 6), (.canch, 7)] : List (Mk × Nat)) →
    ∀ (o : Ops) (s : State) (g : Group) (cl : Clause) (t : State), Clear s 26 m o g cl t →
    let c := s.ctx 26 m o g cl
    let u := t.cancelMma g c.fd
    t.rlxRefuses c = none → (m = 7 → -1024 ≤ c.sAl.toInt ∧ c.sAl.toInt ≤ 1023) → t.accBusy g c.fd = false →
    Runs (mk o) s c (c.onceDo t (u.setAcc g c.fd
      { owner := g.id, anch := if m = 6 then (u.accOf g c.fd).anch else c.sAl.toInt }))) ∧
  (∀ (o : Ops) (s : State) (g : Group) (cl : Clause) (t : State), Clear s 26 10 o g cl t →
    let c := s.ctx 26 10 o g cl
    t.rlxRefuses c = none → t.accBusy g c.fa = false →
    Runs (.cstat o) s c (c.onceDo t (c.putS t ((t.accOf g c.fa).status (t.accNamed g c.fa))))) ∧
  (∀ (o : Ops) (s : State) (g : Group) (cl : Clause) (t : State), Clear s 26 8 o g cl t →
    let c := s.ctx 26 8 o g cl
    t.rlxRefuses c = none → c.sB.toNat < 2 ^ 14 → fieldOf c.sB 7 6 = 0 → (∀ i ∈ c.lanes, fieldOf c.sB 13 8 + i ≤ 63) →
    Runs (.cdrain o) s c (c.logIssue t
      (if c.anyLane then .cdrain c.fa (fieldOf c.sB 5 0) (fieldOf c.sB 13 8) else .nothing) fun e => { e with tag := tF32 }).1) ∧
  (∀ (o : Ops) (s : State) (g : Group) (cl : Clause) (t u : State) (f : Option AFail), Clear s 26 9 o g cl t →
    let c := s.ctx 26 9 o g cl
    let accs : List Access := (List.range 64).map fun r =>
      { lane := 1000 + r, va := c.sB + c.lit + BitVec.ofNat 64 r * c.sC, n := drainRow c.fd }
    t.rlxRefuses c = none →
    (c.anyLane = false → Runs (.cstore o) s c (idleEntry c t tRAW)) ∧
    (c.anyLane = true → c.fd ≤ 2 → fieldOf (c.sB + c.lit) 3 0 = 0 → fieldOf c.sC 3 0 = 0 → drainRow c.fd ≤ c.sC.toNat →
      (∀ a ∈ accs, t.rowBad g a = false ∧ t.apertureScored g false a = false) → t.embreqOf g 0 accs = none →
      t.apertureBarbusy g accs = none → t.acquirePending g = false →
      let l := c.logIssue t (.cstore c.fd c.fa) fun e => { e with accs := accs }
      ∀ e : LogEntry, l.1.entry? l.2 = some e → (l.1.issueLocals g e).resolveEntry l.2 = (u, f) → f ≠ some .reg → Runs (.cstore o) s c u)) ∧
  (∀ (o : Ops) (s : State) (g : Group) (cl : Clause) (t u : State) (past : W64), Clear s 27 0 o g cl t →
    let c := s.ctx 27 0 o g cl
    let n := c.fd
    let body : W64 := cl.next + w64 (4 * c.words)
    t.rlxRefuses c = none → 1 ≤ n → n ≤ 8 → cl.pos + 1 + n ≤ cl.cnt → c.lit.toNat < 2 ^ (8 * n) →
    t.seqBody g (max c.sA.toNat 1) c.lit n 0 body = (u, .ok (past, false)) → c.anyLane = true →
    Runs (.seq o) s c (u.onGroup g.id fun h => { h with clause := h.clause.map fun k => { k with
      seq := some { n := n, passes := max c.sA.toNat 1, pass := 0, ctl := c.lit, stride := c.sB, body := body, bodyPos := cl.pos + 1 } } })) ∧
  (∀ (o : Ops) (s : State) (g : Group) (cl : Clause) (t : State), Clear s 27 0 o g cl t →
    let c := s.ctx 27 0 o g cl
    t.rlxRefuses c = none → c.fd = 0 ∨ 8 < c.fd ∨ cl.cnt < cl.pos + 1 + c.fd ∨ 2 ^ (8 * c.fd) ≤ c.lit.toNat →
    exec (.seq o) s = .next (t.raise g.id (c.trapAt .illop 0x0D)))

/-- R228 to R232, R241, R243, R245 to R247: `rlxopen` makes its group arrive at its team's region (registering it where none
is gathering), `rlxpass` and `rlxclose` make theirs arrive at the pass end and at the commit, and each is held there;
`rlxstat` reads the status word (state, code, P, passes) or the residual word, `rlxres` the δ of each lane's step, `rlxabort`
marks the open region aborted. `rlxopen`, `rlxpass` and `rlxclose` of a group that is not whole or that are predicated raise
ILLCONV 3, and where their region refuses them RLXOP, whether a lane executes or not (R241, R252). -/
def Obligations.RelaxationInstructions : Prop :=
  (∀ (o : Ops) (s : State) (g : Group) (cl : Clause) (t : State) (tm : Team), Clear s 28 0 o g cl t →
    let c := s.ctx 28 0 o g cl
    let p := c.params
    let reg := if tm.region.state = .gather then tm.region else p
    Passes t c (if p.guess = 0 ∨ p.guess = 2 then c.needBlock c.fd p.d else []) (c.openBad t = true) → c.wholeUnpredicated = true →
    t.teamOf g = some tm → t.destBusy g ((List.range p.d).map fun k => g.wref false (c.fd + k)) = false →
    exec (.rlxopen o) s = .next ((t.setTeam { tm with
        prior := if tm.region.state = .gather then tm.prior else tm.region
        region := { reg with arrived := reg.arrived.filter (· ≠ g.id) ++ [g.id] } }).onGroup g.id fun h =>
          { h with hold := .rlxopen c.words, stall := none })) ∧
  (∀ (o : Ops) (s : State) (g : Group) (cl : Clause) (t : State) (tm : Team) (p : PassStart), Clear s 28 1 o g cl t →
    let c := s.ctx 28 1 o g cl
    let r := tm.region
    t.teamOf g = some tm → t.openRegion g = some r → g.flow.tl = false → r.startOf g = some p →
    Passes t c (c.needBlock (r.x + r.d) (2 * r.d)) False → c.wholeUnpredicated = true → cl.pos + 1 = cl.cnt →
    p.links.length = g.flow.links.length → p.wb = g.flow.wb → p.loops.length = g.flow.loops.length →
    t.destBusy g ((List.range r.d).map fun k => g.wref false (r.x + k)) = false →
    exec (.rlxpass o) s = .next ((t.setRegion tm.id { r with
      arrived := r.arrived.filter (· ≠ g.id) ++ [g.id] }).onGroup g.id fun h => { h with hold := .rlxpass c.words, stall := none })) ∧
  (∀ (o : Ops) (s : State) (g : Group) (cl : Clause) (t : State) (tm : Team), Clear s 28 2 o g cl t →
    let c := s.ctx 28 2 o g cl
    t.teamOf g = some tm → t.settledRegion g = true → t.rlxRefuses c = none → c.wholeUnpredicated = true →
    exec (.rlxclose o) s = .next ((t.setRegion tm.id { tm.region with
      arrived := tm.region.arrived.filter (· ≠ g.id) ++ [g.id] }).onGroup g.id fun h => { h with hold := .rlxclose c.words, stall := none })) ∧
  (∀ (o : Ops) (s : State) (g : Group) (cl : Clause) (t : State) (tm : Team), Clear s 28 3 o g cl t →
    let c := s.ctx 28 3 o g cl
    let r := tm.region
    let st : Nat := match r.state with | .none => 0 | .gather => 1 | .open => 1 | .settled => 2 | .closed => 3
    t.rlxRefuses c = none → t.teamOf g = some tm →
    (c.fb = 0 → Runs (.rlxstat o) s c (c.onceDo t (c.putS t (BitVec.ofNat 64
      (r.code % 8 + (if r.tol then 8 else 0) + 16 * st + 2 ^ 16 * (r.p % 2 ^ 11) + 2 ^ 32 * (r.passes % 2 ^ 12)))))) ∧
    (c.fb = 1 → Runs (.rlxstat o) s c (c.onceDo t (c.putS t (r.rbest ++ r.r)))) ∧
    (1 < c.fb → c.anyLane = true → exec (.rlxstat o) s = .next (t.raise g.id (c.trapAt .illop 0x0D)))) ∧
  (∀ (o : Ops) (s : State) (g : Group) (cl : Clause) (t : State) (r : Region), Clear s 28 4 o g cl t →
    let c := s.ctx 28 4 o g cl
    t.rlxRefuses c = none → t.regionOf g = some r → c.fb ≤ 7 → c.fb < r.d →
    Runs (.rlxres o) s c (c.putV t 0 (fun i =>
      let k := 1 + g.width * r.grps.idxOf g.id + i
      if k ≤ 1 ∨ k ≤ r.p ∨ r.t < k then 0 else (r.delta.getD (k - 1) []).getD c.fb 0) tF32)) ∧
  (∀ (o : Ops) (s : State) (g : Group) (cl : Clause) (t : State), Clear s 28 5 o g cl t →
    let c := s.ctx 28 5 o g cl
    t.rlxRefuses c = none →
    (∀ r, t.openRegion g = some r → Runs (.rlxabort o) s c (c.onceDo t (t.setRegion g.team { r with aborted := true }))) ∧
    (t.openRegion g = none → c.anyLane = true → exec (.rlxabort o) s = .next (t.raise g.id (c.trapAt .illop 0x0D)))) ∧
  (∀ (mk : Mk) (m : Nat), (mk, m) ∈ ([(.rlxopen, 0), (.rlxpass, 1), (.rlxclose, 2)] : List (Mk × Nat)) →
    ∀ (o : Ops) (s : State) (g : Group) (cl : Clause) (t : State), Clear s 28 m o g cl t →
    let c := s.ctx 28 m o g cl
    c.tagsPass (if m = 0 ∧ (c.params.guess = 0 ∨ c.params.guess = 2) then c.needBlock c.fd c.params.d
      else if m = 1 ∧ g.flow.tl = false then (match t.openRegion g with | some r => c.needBlock (r.x + r.d) (2 * r.d) | none => [])
      else []) →
    (∀ p, t.rlxRefuses c = some p → exec (mk o) s = .next (t.raise g.id (c.trapAt p.1 p.2))) ∧
    (t.rlxRefuses c = none → c.wholeUnpredicated = false → exec (mk o) s = .next (t.raise g.id (c.trapAt .illconv 3))))

namespace Sys2Proof.Stated
open Sys2Proof.Machine

/-! ## Queues, jobs, collectives, time (17 R312 to R322; 20 R351 to R356; 22 R391 to R393) -/

/-- A block of memory read by an instruction as a load of its group: the waits of a load pass, its address translates, no error
stands in it, and its bytes are `bs` (R312, R392). -/
def blockRead (t : State) (c : Ctx) (va : W64) (n : Nat) (u : State) (bs : List Byte) : Prop :=
  t.acquirePending c.g = false ∧ noWaiter t c [{ lane := 64, va := va, n := n }] ∧
  ∃ (v : State) (ps : List Piece), t.resolve (t.agent c.g) va n .read (t.workId c.g) = (v, .ok ps) ∧
    let tile := (v.groupTile c.g).getD 0
    let wide := v.tileWide c.g 0
    v.badPiece c.g tile wide va (fun _ => true) ps = none ∧ v.readPieces c.g tile wide 0 ps = (u, bs)

/-- Die and queue that PLACE names (R315, R336). -/
def placedQueue (t : State) (c : Ctx) : Nat × Nat :=
  let e := t.pbankEntry (c.e.place.toNat % 1024)
  (fieldOf e 8 8, fieldOf e 7 0)

/-- Words of the collective table (R382), as offsets: of counters, of a peer, of a queue pair and its peer. -/
def counterWords (ns : List Nat) : List Nat := ns.map fun n => 0x800 + 8 * n
def peerWords (p : Nat) : List Nat := if p = 0 then [] else [0x1000 + 16 * p]
def pairWords (s : State) (die n : Nat) : List Nat := [32 * n, 32 * n + 8] ++ peerWords (s.qpInfo die n).peer

/-- No uncorrectable error stands in these words of a die's table (R48). -/
def tableGood (s : State) (die : Nat) (offs : List Nat) : Prop := ∀ o ∈ offs, s.badRead ((s.die die).collBase + o) 8 = false

/-- The RDONE counter of an entry where it is this module's: the die that holds it, and its number (R383). -/
def rdoneOf (s : State) (die qp : Nat) (ws : List W64) : Nat × List Nat :=
  ((s.qpInfo die qp).ddie, if (s.qpInfo die qp).peer = 0 ∧ (word ws 6).getLsbD 24 = true then [fieldOf (word ws 6) 23 16] else [])

/-- The entry of an instruction of the log that no lane executes. -/
def idleLog (c : Ctx) (t : State) : State := (c.logIssue t .nothing fun e => e).1

/-- What a submission takes from its group (R307, R312): agent, submitter's tenant and priority, trap vector, parent. -/
def submitted (c : Ctx) (t : State) : Work :=
  { id := t.nextId, asid := c.g.asid.toNat, vmid := c.g.vmid.toNat, privileged := c.g.core.isSome
    subAsid := c.g.asid.toNat, subVmid := c.g.vmid.toNat
    subTenant := match t.workOf c.g with | some w => w.tenant | none => 0
    subPrio := match t.workOf c.g with | some w => w.prio | none => 0
    trapvec := c.g.csrs.trapvec
    parent := match t.workOf c.g with | some w => if w.job then some w.id else none | none => none }

end Sys2Proof.Stated

open Sys2Proof Sys2Proof.Machine Sys2Proof.Stated

/-- R315 to R317, R280: `qpush` appends the executing lanes' 64-bit values, whole and in lane order, where the queue has room,
and serves the pops that wait; `qpop` waits in the log for as many entries as lanes, or with NB takes what is there;
`mbsend`, once the group's accesses are performed at DEVICE scope, hands 64 bytes to its die's outbound buffer; `mbrecv`
waits for a message or with NB takes one, an acquire of DEVICE scope; `mbpeek` counts them. The model's choice: that `qpop` with NB
takes entries ahead of pops that wait (log entry 23, DEDUCED), the moment of the acquire of `mbrecv` (log entry 22), and the class
of a core's message, 3 (log entry 60). -/
def Obligations.QueuesAndMailboxes : Prop :=
  (∀ (o : Ops) (s : State) (g : Group) (cl : Clause) (t : State), Clear s 29 0 o g cl t →
    let c := s.ctx 29 0 o g cl
    let q := placedQueue t c
    let l := t.queue q.1 q.2
    t.rlxRefuses c = none →
    (l.length + c.lanes.length ≤ 256 → Runs (.qpush o) s c
      ((t.setQueue q.1 q.2 (l ++ c.lanes.map fun i => c.opAk 1 i ++ c.opAk 0 i)).servePops q.1 q.2 256)) ∧
    (256 < l.length + c.lanes.length →
      Stalls (.qpush o) s t c .resource)) ∧
  (∀ (o : Ops) (s : State) (g : Group) (cl : Clause) (t : State), Clear s 29 1 o g cl t →
    let c := s.ctx 29 1 o g cl
    let q := placedQueue t c
    let l := t.queue q.1 q.2
    let got := c.lanes.zip (l.map BitVec.toNat)
    t.rlxRefuses c = none →
    (c.anyLane = false → Runs (.qpop o) s c (idleLog c t)) ∧
    (c.anyLane = true → c.e.nb = false →
      Runs (.qpop o) s c ((c.logIssue t (.qpop q.1 q.2 false) fun e => e).1.servePops q.1 q.2 256)) ∧
    (c.anyLane = true → c.e.nb = true → l = [] →
      Runs (.qpop o) s c (c.logIssue t .nothing fun e => { e with dests := e.nbp.toList }).1) ∧
    (c.anyLane = true → c.e.nb = true → l ≠ [] → Runs (.qpop o) s c
      (c.logIssue (t.setQueue q.1 q.2 (l.drop got.length)) (.qpop q.1 q.2 true) fun e => { e with bound := got }).1)) ∧
  (∀ (o : Ops) (s : State) (g : Group) (cl : Clause) (t : State), Clear s 29 2 o g cl t →
    let c := s.ctx 29 2 o g cl
    let e := t.pbankEntry (c.e.place.toNat % 1024)
    let d := t.die (t.dieOf g)
    tableGood t (t.dieOf g) (peerWords (fieldOf e 47 40)) → t.peerAbsent (t.dieOf g) (fieldOf e 47 40) = none → t.rlxRefuses c = none →
    (t.released g 4 = false → c.anyLane = true →
      Stalls (.mbsend o) s t c .order) ∧
    (t.released g 4 = true → d.outbound.length < 64 →
     Runs (.mbsend o) s c (c.onceDo t (({ t with nextId := t.nextId + 1 } : State).setDie (t.dieOf g) { d with outbound := d.outbound ++
      [{ grp := some g.id, seq := t.nextId, born := t.time, module := fieldOf e 47 40, agent := fieldOf e 39 26, box := fieldOf e 2 0
         data := (List.range 16).flatMap fun i => leBytes 4 (c.opA i).toNat
         cls := match t.workOf g with | some w => w.prio | none => 3 }] })))) ∧
  (∀ (o : Ops) (s : State) (g : Group) (cl : Clause) (t : State), Clear s 29 3 o g cl t →
    let c := s.ctx 29 3 o g cl
    let a := g.asid.toNat
    t.rlxRefuses c = none →
    (7 < c.fa → c.anyLane = true → exec (.mbrecv o) s = .next (t.raise g.id (c.trapAt .illop 0x0D))) ∧
    (c.anyLane = false → Runs (.mbrecv o) s c (idleLog c t)) ∧
    (c.fa ≤ 7 → c.anyLane = true → c.e.nb = false →
      Runs (.mbrecv o) s c ((c.logIssue t (.mbrecv c.fa false) fun e => e).1.serveMail a c.fa 16)) ∧
    (∀ m l, c.fa ≤ 7 → c.anyLane = true → c.e.nb = true → t.mailbox a c.fa = m :: l → Runs (.mbrecv o) s c
      ((c.logIssue (t.setMailbox a c.fa l) (.mbrecv c.fa true) fun e => { e with bound := [(64, bytesNat m)] }).1.acquireAt g 4)) ∧
    (c.fa ≤ 7 → c.anyLane = true → c.e.nb = true → t.mailbox a c.fa = [] →
      Runs (.mbrecv o) s c (c.logIssue t .nothing fun e => { e with dests := e.nbp.toList }).1)) ∧
  (∀ (o : Ops) (s : State) (g : Group) (cl : Clause) (t : State), Clear s 29 4 o g cl t →
    let c := s.ctx 29 4 o g cl
    t.rlxRefuses c = none → c.fa ≤ 7 →
    Runs (.mbpeek o) s c (c.onceDo t (c.putS t (BitVec.ofNat 64 (t.mailbox g.asid.toNat c.fa).length))))

/-- R307, R312 to R314: `jobenq` reads a card of 64 bytes and `launch` a block of 256 and each submits it to a die's table with
its parent, its submitter's tenant and priority, and returns its handle; `dinit` and `ddec` (a release of DEVICE scope) send a
counter step; `dread` and `jobstat` enter the log, the latter ABSENT of a die that the part has not. The number of a job, and in the
handle of a launch that waits on a counter, is a free value (log entries 6 and 52); that a launch without one takes its LAUNCHID
here is the model's choice (log entry 23, DEDUCED), and so is that a core's `dinit` and `ddec` act at home at once (log entry 22), and that `jobstat` is ABSENT whether or not a
lane executes (log entry 13, DEDUCED).
R320 to R322: in a deterministic launch `embwait` writes true where its team holds the ember, false where the launch has
aborted, and else is held, or with NB goes on, and raises ILLOP 0x0D after the team's `embskip`; `embpass` ends the visit of the team that holds it once the team's accesses
are performed, `embskip` takes its team off the round; outside a deterministic launch each raises ILLOP 0x0D. -/
def Obligations.JobsLaunchesEmber : Prop :=
  ((∀ (o : Ops) (s : State) (g : Group) (cl : Clause) (t u : State) (bs : List Byte), Clear s 30 0 o g cl t →
     let c := s.ctx 30 0 o g cl
     let sel := fieldOf c.sB 1 0
     t.rlxRefuses c = none → c.anyLane = true → c.sB.toNat < 4 → sel < 3 → (sel = 2 → t.ndies = 2) →
     fieldOf (c.sA + c.lit) 5 0 = 0 → blockRead t c (c.sA + c.lit) 64 u bs →
     let w : Work := { submitted c u with job := true, words := bytesW64s 8 bs }
     let v : State := { u with nextId := u.nextId + 1 }
     let die := if sel = 0 then v.jobDie 0 w else sel - 1
     v.tableRoom die = true →
     ∃ num : Nat, num < 2 ^ 32 ∧
       Runs (.jobenq o) s c (c.putS (({ v with
           fresh := v.fresh + 1
           works := v.works ++ [{ w with die := die, num := num, rem := fieldOf (word w.words 3) 31 0 }] } : State).addOut w.parent true)
         (BitVec.ofNat 64 (num + die * 2 ^ 32)))) ∧
   (∀ (o : Ops) (s : State) (g : Group) (cl : Clause) (t u : State) (bs : List Byte), Clear s 30 1 o g cl t →
     let c := s.ctx 30 1 o g cl
     let die := t.dieOf g
     t.rlxRefuses c = none → c.anyLane = true → fieldOf (c.sA + c.lit) 7 0 = 0 → t.tableRoom die = true → die < 2 →
     blockRead t c (c.sA + c.lit) 256 u bs →
     let w : Work := { submitted c u with words := bytesW64s 32 bs, addr := c.sA + c.lit, die := die }
     let n := u.launchid.toNat
     (w.depctr = 0 → Runs (.launch o) s c (c.putS (({ u with
         nextId := u.nextId + 1, works := u.works ++ [{ w with num := n, named := true, handle := n }]
         launchid := u.launchid + 1 } : State).addOut w.parent true) (BitVec.ofNat 64 (n + die * 2 ^ 32 + 2 ^ 63)))) ∧
     (w.depctr ≠ 0 → ∃ n : Nat, n < 2 ^ 32 ∧ Runs (.launch o) s c (c.putS (({ u with
         nextId := u.nextId + 1, fresh := u.fresh + 1, works := u.works ++ [{ w with handle := n }] } : State).addOut w.parent true)
       (BitVec.ofNat 64 (n + die * 2 ^ 32 + 2 ^ 63))))) ∧
   (∀ (mk : Mk) (m : Nat), (mk, m) ∈ ([(.dinit, 2), (.ddec, 3)] : List (Mk × Nat)) →
     ∀ (o : Ops) (s : State) (g : Group) (cl : Clause) (t u v : State) (p : Piece) (l : List Piece), Clear s 30 m o g cl t →
     let c := s.ctx 30 m o g cl
     t.rlxRefuses c = none → c.anyLane = true → fieldOf c.sA 2 0 = 0 → (m = 2 → c.sB.toNat < 2 ^ 32) →
     (m = 3 → t.accessesMade g = true ∧ t.otherClear g = true) →
     t.resolve (t.agent g) c.sA 8 .atomic (t.workId g) = (u, .ok (p :: l)) →
     u.bindBefore g u.nextId [{ lane := 64, va := c.sA, n := 8, place := .phys (p :: l) }] = .ok v →
     (g.core.isSome = true → v.badRead p.pa 8 = false →
       Runs (mk o) s c (if m = 2 then v.counterInit p.pa c.sB.toNat 0 else v.counterDec p.pa 0)) ∧
     (g.core.isSome = false → ∀ tile, v.groupTile g = some tile →
       Runs (mk o) s c (v.pathStore tile { id := 0, grp := g.id, pa := p.pa, va := c.sA, rel := decide (m = 3)
                                           op := .counter (if m = 2 then some (BitVec.ofNat 32 c.sB.toNat) else none) }))) ∧
   (∀ (o : Ops) (s : State) (g : Group) (cl : Clause) (t u : State) (f : Option AFail), Clear s 30 4 o g cl t →
     let c := s.ctx 30 4 o g cl
     t.rlxRefuses c = none →
     (c.anyLane = false → Runs (.dread o) s c (idleLog c t)) ∧
     (c.anyLane = true → fieldOf c.sA 2 0 = 0 →
       let l := c.logIssue t .dread fun e => { e with accs := [{ lane := 64, va := c.sA, n := 8 }] }
       ∀ e : LogEntry, l.1.entry? l.2 = some e → (l.1.issueLocals g e).resolveEntry l.2 = (u, f) → f ≠ some .reg → Runs (.dread o) s c u)) ∧
   (∀ (o : Ops) (s : State) (g : Group) (cl : Clause) (t : State), Clear s 30 5 o g cl t →
     let c := s.ctx 30 5 o g cl
     (t.ndies = 1 → fieldOf c.sA 47 40 = 0 → fieldOf c.sA 32 32 = 1 →
       exec (.jobstat o) s = .next (t.raise g.id (c.trapAt .absent (1 + 4 * 16)))) ∧
     (t.rlxRefuses c = none → tableGood t (t.dieOf g) (peerWords (fieldOf c.sA 47 40)) → c.handleAbsent t = none → Runs (.jobstat o) s c (c.logIssue t (if c.anyLane then .jobstat c.sA else .nothing) fun e => e).1))) ∧
  ((∀ (o : Ops) (s : State) (g : Group) (cl : Clause) (t : State) (w : Work) (tm : Team), Clear s 31 0 o g cl t →
     let c := s.ctx 31 0 o g cl
     let withNb (u : State) (v : Mask) : State := if c.e.nb = true then c.putP u c.e.nbp.toNat v else u
     t.rlxRefuses c = none → c.anyLane = true → t.workOf g = some w → t.teamOf g = some tm → w.det = 1 →
     let holds := w.abort = false ∧ w.visiting = true ∧ w.holder = tm.l
     (holds → tm.skip = false → Runs (.embwait o) s c (withNb ((c.putP t c.fd c.act).acquireAt g 4) c.act)) ∧
     (w.abort = true → Runs (.embwait o) s c (withNb (c.putP t c.fd 0) c.act)) ∧
     (w.abort = false → tm.skip = true → exec (.embwait o) s = .next (t.raise g.id (c.trapAt .illop 0x0D))) ∧
     (w.abort = false → tm.skip = false → ¬ holds → c.e.nb = true → Runs (.embwait o) s c (c.putP t c.e.nbp.toNat 0)) ∧
     (w.abort = false → tm.skip = false → ¬ holds → c.e.nb = false →
       exec (.embwait o) s = .next (t.onGroup g.id fun h => { h with hold := .embwait (g.pref c.fd) c.act c.words, stall := none }))) ∧
   (∀ (o : Ops) (s : State) (g : Group) (cl : Clause) (t : State) (w : Work) (tm : Team), Clear s 31 1 o g cl t →
     let c := s.ctx 31 1 o g cl
     t.rlxRefuses c = none → c.anyLane = true → t.workOf g = some w → t.teamOf g = some tm → w.det = 1 →
     let holds := w.abort = false ∧ w.visiting = true ∧ w.holder = tm.l
     (holds → t.teamReleased tm = true →
       Runs (.embpass o) s c ((t.setWork { w with visiting := false, holder := w.holder + 1 }).setTeam { tm with visits := tm.visits + 1 })) ∧
     (¬ holds → exec (.embpass o) s = .next (t.raise g.id (c.trapAt .illop 0x0D)))) ∧
   (∀ (o : Ops) (s : State) (g : Group) (cl : Clause) (t : State) (w : Work) (tm : Team), Clear s 31 2 o g cl t →
     let c := s.ctx 31 2 o g cl
     t.rlxRefuses c = none → c.anyLane = true → t.workOf g = some w → t.teamOf g = some tm → w.det = 1 →
     (w.abort = true → Runs (.embskip o) s c t) ∧
     (w.abort = false → t.teamReleased tm = true →
       let w' := { w with skipped := if tm.l ∈ w.skipped then w.skipped else w.skipped ++ [tm.l] }
       let held := w.visiting = true ∧ w.holder = tm.l
       (held → Runs (.embskip o) s c ((t.setWork { w' with visiting := false, holder := w.holder + 1 }).setTeam
         { tm with skip := true, visits := tm.visits + 1 })) ∧
       (¬ held → Runs (.embskip o) s c ((t.setWork w').setTeam { tm with skip := true })))) ∧
   (∀ (mk : Mk) (m : Nat), (mk, m) ∈ ([(.embwait, 0), (.embpass, 1), (.embskip, 2)] : List (Mk × Nat)) →
     ∀ (o : Ops) (s : State) (g : Group) (cl : Clause) (t : State), Clear s 31 m o g cl t →
     let c := s.ctx 31 m o g cl
     t.rlxRefuses c = none → c.anyLane = true → t.emberOf g = none →
     exec (mk o) s = .next (t.raise g.id (c.trapAt .illop 0x0D))))

/-- R391 to R393: an entry of 64 bytes is posted to a queue pair of the issuer, a counter of it takes an addition, is read, or
takes an arm (threshold 0 removes it), a sort is handed to the token-sort unit; those that publish are releases of DEVICE
scope. No uncorrectable error stands in the words of the collective table that they use (R48; the freeze there: log entry 54).
R351 to R355: `time` reads the count of master clocks, `cyc` a tile group's count of local clocks, `dampst` its damper's
word (HALFN counted as still to come during a stretch, the tail clock, the clip at 255: the model's choice, log entry 28); `dline` arms the deadline at TIME + A (0 disarms it; 2^62 or more raises ILLOP 0x0D); `dchk` writes whether an armed
deadline lies ahead. -/
def Obligations.CollectivesAndTime : Prop :=
  ((∀ (o : Ops) (s : State) (g : Group) (cl : Clause) (t u : State) (bs : List Byte), Clear s 32 0 o g cl t →
     let c := s.ctx 32 0 o g cl
     let die := t.dieOf g
     t.rlxRefuses c = none → c.anyLane = true → tableGood t die (pairWords t die c.fd) → t.qpAbsent die c.fd g.asid.toNat = none → fieldOf (c.sA + c.lit) 5 0 = 0 →
     t.released g 4 = true → blockRead t c (c.sA + c.lit) 64 u bs →
     let ws := bytesW64s 8 bs
     let r := rdoneOf u die c.fd ws
     tableGood u die (counterWords (qCounters ws)) → tableGood u r.1 (counterWords r.2) →
     u.countersAbsent die g.asid.toNat (qCounters ws) = none → u.countersAbsent r.1 g.asid.toNat r.2 = none → qRefused ws (u.qpInfo die c.fd).peer = false →
     (u.qpList die c.fd).length < 256 →
     Runs (.qppost o) s c (u.qpPush die c.fd ws g.asid.toNat g.vmid.toNat none)) ∧
   (∀ (o : Ops) (s : State) (g : Group) (cl : Clause) (t : State), Clear s 32 1 o g cl t →
     let c := s.ctx 32 1 o g cl
     let n := c.fd + 64 * c.fb
     t.rlxRefuses c = none → c.fb ≤ 3 → tableGood t (t.dieOf g) (counterWords [n]) →
     t.hcAbsent (t.dieOf g) n g.asid.toNat = none → t.released g 4 = true →
     Runs (.hcadd o) s c (c.onceDo t (t.hcAdd (t.dieOf g) n c.sAl))) ∧
   (∀ (o : Ops) (s : State) (g : Group) (cl : Clause) (t : State), Clear s 32 2 o g cl t →
     let c := s.ctx 32 2 o g cl
     let n := c.fa + 64 * c.fb
     t.rlxRefuses c = none → c.fb ≤ 3 → tableGood t (t.dieOf g) (counterWords [n]) → t.hcAbsent (t.dieOf g) n g.asid.toNat = none →
     Runs (.hcrd o) s c (c.logIssue t (if c.anyLane then .hcrd (256 * t.dieOf g + n) else .nothing) fun e => e).1) ∧
   (∀ (o : Ops) (s : State) (g : Group) (cl : Clause) (t : State), Clear s 32 3 o g cl t →
     let c := s.ctx 32 3 o g cl
     let n := c.fd + 64 * c.fb
     let die := t.dieOf g
     let d := t.die die
     t.rlxRefuses c = none → c.fb ≤ 3 → tableGood t die (counterWords [n]) → t.hcAbsent die n g.asid.toNat = none →
     (c.lit = 0 → Runs (.hcarm o) s c (c.onceDo t (t.setDie die { d with arms := d.arms.filter fun p => p.1 != n }))) ∧
     (c.lit ≠ 0 → fieldOf c.sA 2 0 = 0 → (∀ p ∈ d.arms, p.1 ≠ n) →
       Runs (.hcarm o) s c (c.onceDo t ((t.setDie die { d with arms := d.arms ++
         [(n, { thr := c.lit, addr := c.sA, asid := g.asid.toNat, vmid := g.vmid.toNat })] }).armTest die n)))) ∧
   (∀ (o : Ops) (s : State) (g : Group) (cl : Clause) (t u : State) (bs : List Byte), Clear s 32 4 o g cl t →
     let c := s.ctx 32 4 o g cl
     let die := t.dieOf g
     t.rlxRefuses c = none → c.anyLane = true → t.hasTsort = true → fieldOf (c.sA + c.lit) 5 0 = 0 →
     t.released g 4 = true → blockRead t c (c.sA + c.lit) 64 u bs →
     let ws := bytesW64s 8 bs
     let ctr := if (word ws 6).getLsbD 8 = true then [fieldOf (word ws 6) 7 0] else []
     tableGood u die (counterWords ctr) → u.countersAbsent die g.asid.toNat ctr = none → tRefused ws = false →
     Runs (.toksort o) s c (u.setDie die { u.die die with
       sorts := (u.die die).sorts ++ [{ words := ws, asid := g.asid.toNat, vmid := g.vmid.toNat }] }))) ∧
  ((∀ (o : Ops) (s : State) (g : Group) (cl : Clause) (t : State), Clear s 33 0 o g cl t →
     let c := s.ctx 33 0 o g cl
     t.rlxRefuses c = none → Runs (.time o) s c (c.onceDo t (c.putS t (BitVec.ofNat 64 t.time)))) ∧
   (∀ (o : Ops) (s : State) (g : Group) (cl : Clause) (t : State), Clear s 33 1 o g cl t →
     let c := s.ctx 33 1 o g cl
     t.rlxRefuses c = none → g.core = none → Runs (.cyc o) s c (c.onceDo t (c.putS t g.cyc))) ∧
   (∀ (o : Ops) (s : State) (g : Group) (cl : Clause) (t : State), Clear s 33 2 o g cl t →
     let c := s.ctx 33 2 o g cl
     t.rlxRefuses c = none →
     (c.sAl.toNat < 2 ^ 62 → Runs (.dline o) s c (c.onceDo t (t.onGroup g.id fun h => { h with csrs := { h.csrs with
       deadline := if c.sAl = 0 then 0 else BitVec.ofNat 64 (2 ^ 63 + t.time + c.sAl.toNat) } }))) ∧
     (2 ^ 62 ≤ c.sAl.toNat → c.anyLane = true → exec (.dline o) s = .next (t.raise g.id (c.trapAt .illop 0x0D)))) ∧
   (∀ (o : Ops) (s : State) (g : Group) (cl : Clause) (t : State), Clear s 33 3 o g cl t →
     let c := s.ctx 33 3 o g cl
     t.rlxRefuses c = none →
     Runs (.dchk o) s c (c.putP t c.fd
       (if 2 ^ 63 ≤ g.csrs.deadline.toNat ∧ t.time < g.csrs.deadline.toNat % 2 ^ 63 then c.act else 0))) ∧
   (∀ (o : Ops) (s : State) (g : Group) (cl : Clause) (t : State) (n : Nat), Clear s 33 4 o g cl t →
     let c := s.ctx 33 4 o g cl
     let k := t.cluster n
     t.rlxRefuses c = none → t.clusterNum g = some n →
     Runs (.dampst o) s c (c.onceDo t (c.putS t (BitVec.ofNat 64 (k.events.toNat * 2 ^ 32
       + (match k.state with | .idle => 0 | .stretch => 1 | .half => 2) * 2 ^ 16
       + min 255 ((if k.state = .stretch then k.halfN else k.halfRem) + if k.tail then 1 else 0) * 2 ^ 8 + min 255 k.strRem))))))
namespace Sys2Proof.Stated
open Sys2Proof.Machine

/-! ## Steps without words -/

/-- The copy may move, and this lane of it is still to be moved, also where a stop is asked or a fault suspends the copy. -/
def laneDue (s : State) (k : Copy) (l : CopyLane) : Prop :=
  s.copy? k.id = some k ∧ s.copyMoves k = true ∧ k.lanes.find? (fun m => m.lane == l.lane) = some l ∧ s.laneGoes k l = true

/-- A handler that runs did not find the entry in the log: what it found completes after its `eret` (R164). -/
def notHeld (g : Group) (e : LogEntry) : Prop := g.flow.tl = false ∨ e.tlevel = true

/-- An instruction of the log that may complete in the lanes asked for: its group stands on its tile, it runs, and its
translation is done. -/
def maySettle (s : State) (e : LogEntry) (g : Group) : Prop :=
  s.entry? e.id = some e ∧ s.group? e.grp = some g ∧ s.residentGroup g = true ∧ e.state = .running ∧ e.untranslated = false ∧
    notHeld g e ∧ e.flag < g.cf.length

/-- What every completion leaves (R38): the entry is out of the log, its flags are set, its completion flag counts one less. -/
def settled (e : LogEntry) (g : Group) (t : State) (h : Group) : Prop :=
  t.group? e.grp = some h ∧ t.entry? e.id = none ∧ h.csrs.flags = g.csrs.flags ||| e.fl ∧
    h.cf.getD e.flag 0 = g.cf.getD e.flag 0 - 1

/-- The window registers `ds` of the entry exist and differ. -/
def windowDests (g : Group) (ds : List Nat) : Prop :=
  ds.Nodup ∧ ∀ d ∈ ds, d < g.regs.slots.length ∧ (g.slot (.slot d)).data.length = 64

/-- Registers `ds` of the lanes `l` hold the parts of the lanes' values of `n` bytes, zero- or sign-extended, the other lanes what
they held; their tag is the entry's (R80, R81, R87). -/
def lanesTake (e : LogEntry) (n : Nat) (signed : Bool) (v : Nat → Nat) (l : List Nat) (ds : List Nat) (g h : Group) : Prop :=
  ∀ k d, ds[k]? = some d → (h.slot (.slot d)).tag = e.tag ∧ ∀ i, i < 64 → (h.slot (.slot d)).data.getD i 0 =
    if i ∈ l then loadedReg n signed (v i) k else (g.slot (.slot d)).data.getD i 0

/-- Every lane of the entry has its value, is asked for and is not yet written. -/
def lanesReady (e : LogEntry) (v : Nat → Nat) (l : List Nat) (lanes : Nat) : Prop :=
  l.Nodup ∧ e.accs.map (fun a => a.lane) = l ∧ e.written = 0 ∧ e.bound = l.map (fun i => (i, v i)) ∧
    ∀ i ∈ l, i < 64 ∧ lanes.testBit i = true

/-- An engine's access that translates. -/
def engineOk (s : State) (ag : Agent) (va n : Nat) (k : Kind) (who : Waiter) (u : State) (ps : List Piece) : Prop :=
  s.engine ag va n k who = (u, .ok ps)

/-- The counter in eight bits of a word that an enable bit allows (R383). -/
def counterIn (w : W64) (lo en : Nat) : List Nat := if w.getLsbD en = true then [fieldOf w (lo + 7) lo] else []

/-- No uncorrectable error stands in the header of a command queue, nor in the entry at its head. -/
def headGood (s : State) (die : Nat) : Prop := s.badRead (s.die die).cq.base 16 = false ∧ s.badRead (s.cqAt die) 32 = false

/-- The ASID to which a queue of the storage port is bound as its transfer is made (R49). -/
def boundAs (s : State) (q : PortQueue) (asid : Nat) : Prop :=
  q.bind = some asid ∨ (q.bind = none ∧ s.portQueues.find? (fun p => p.1 == q.queue) = some (q.queue, asid))

/-- Two units of tiles, as blocks, hold the same groups' registers; see R330. -/
def tilesOfPair (p : TurnPair) : List (Nat × Nat) := (List.range p.size).map fun i => (p.hot + i, p.cool + i)

/-! ### Pairs of turn units (18 R329, R330) -/

/-- Tile `t` is one of the block; a gang stands on the block; every gang on it lies wholly within it. -/
def within (b : Block) (t : Nat) : Prop := b.first ≤ t ∧ t < b.first + b.size
def standsOn (s : State) (b : Block) (k : Gang) : Prop := k ∈ s.gangs ∧ k.resident = true ∧ ∃ t ∈ s.gangTiles k, within b t
def turnUnit (s : State) (b : Block) : Prop := ∀ k, standsOn s b k → ∀ t ∈ s.gangTiles k, within b t

/-- The aligned block of `n` tiles around tile `t` of its die. -/
def aligned (t n : Nat) : Block := { first := t / 104 * 104 + t % 104 / n * n, size := n }

/-- `b` is the smallest unit of an occupied tile of the die (R329). -/
def smallestOf (s : State) (die : Nat) (b : Block) : Prop :=
  ∃ t n, t / 104 = die ∧ n ∈ [1, 2, 4, 8] ∧ b = aligned t n ∧ turnUnit s b ∧ (∀ m ∈ [1, 2, 4, 8], m < n → ¬ turnUnit s (aligned t m)) ∧
    ∃ k, standsOn s { first := t, size := 1 } k

/-- A unit's temperature: the highest reading of its tiles (R329). -/
def heat (s : State) (b : Block) : Nat := ((List.range b.size).map fun i => (s.tile (b.first + i)).temp).foldl max 0

/-- Two blocks share a tile; a block is in one of the pairs. -/
def meet (b c : Block) : Prop := b.first < c.first + c.size ∧ c.first < b.first + b.size
def inPair (ps : List TurnPair) (b : Block) : Prop :=
  ∃ p ∈ ps, meet b { first := p.hot, size := p.size } ∨ meet b { first := p.cool, size := p.size }

/-- Lines 4 to 7 of R330: `c` is a candidate for `h`, of the pairs `ps` so far. Every gang on it runs: none is being pre-empted, nor
placed or retired. A free one has no spare and no failed tile (R329). Its files hold the allocations of the other's groups, and
its groups fit the other's. -/
def candidate (s : State) (ps : List TurnPair) (h c : Block) : Prop :=
  c.size = h.size ∧ c.first % 104 % c.size = 0 ∧ c.first / 104 = h.first / 104 ∧ c.first % 104 + c.size ≤ 104 ∧ ¬ meet c h ∧
    turnUnit s c ∧ ¬ inPair ps c ∧ (∀ k, standsOn s c k → k.state = .running) ∧
    ((∃ k, standsOn s c k) ∨ ∀ i, i < c.size → (s.behind (c.first + i)).isSome = true ∧ (s.tile (c.first + i)).failed = false) ∧
    ∀ i j, i < h.size → j < c.size → (∀ n ∈ s.heldFiles (h.first + i), n ≤ (s.tile (c.first + j)).rows) ∧
      ∀ n ∈ s.heldFiles (c.first + j), n ≤ (s.tile (h.first + i)).rows

/-- Line 8: the candidate with the lowest temperature; ties by lowest tile. -/
def coolestOf (s : State) (ps : List TurnPair) (h c : Block) : Prop :=
  candidate s ps h c ∧ ∀ x, candidate s ps h x → heat s c < heat s x ∨ (heat s c = heat s x ∧ c.first ≤ x.first)

/-- Lines 3 to 9 of R330: the pairs `ps` of the die after the units of `hot`. -/
noncomputable def pairing (s : State) (die : Nat) : List TurnPair → List Block → List TurnPair
  | ps, [] => ps
  | ps, h :: hot =>
    open Classical in
    if (s.die die).maxPairs ≤ ps.length ∨ inPair ps h ∨ ¬ (∀ k, standsOn s h k → k.state = .running) then pairing s die ps hot
    else if w : ∃ c, coolestOf s ps h c ∧ (s.die die).hyst + heat s c ≤ heat s h then
      pairing s die (ps ++ [{ hot := h.first, cool := (Classical.choose w).first, size := h.size, since := s.time }]) hot
    else pairing s die ps hot

end Sys2Proof.Stated

open Sys2Proof Sys2Proof.Machine Sys2Proof.Stated

/-- R38, R48, R55, R58, R68, R70, R80, R86, R367: what the steps of memory do where they are due: a master clock, an
instruction of the log completing (a load binds, by R71 and R72, and writes its registers, zero- or sign-extended), a store performed at its home
slice, a cache line dropped, a walk filling the TLBs, a gather written back, a record posted to its ring, errors counted.
R106 to R111, R116, R122, R297: a lane of a copy is read from a window or from memory, then written to a window (bytes of
valid barrier objects dropped) or home; a remote lane is delivered to a receiver in its window, with the delivery at its
barrier; an acknowledgement arrives at its sender barrier; the banks serve the oldest copy that may move.
A copy that meets a fault is suspended, and goes on up to a line boundary (R108); the sender of a remote copy or of `cpmc` takes the
returns of its deliveries at its own barrier and for its batch (R110, R111).
What each instruction of the log writes as it completes; one that a handler found in the log completes after its `eret` (R164): a load and a returning atomic every lane's value, a drain its elements,
`qpop` its entries and `mbrecv` its message with NBP, `dread`, `jobstat` and `hcrd` one word; with their tag and flags (R38).
The model's choice: a lane moves in two transfers, the acknowledgement goes with a receiver's first lane, and what is bound for a
team that has retired is dropped (log entry 18); walks by one VMTBASE (log entry 9); the bank step (log entry 11). -/
def Obligations.StepsOfMemoryAndCopies : Prop :=
  ((∀ s : State, (s.aelmel.clockStopped = true → exec .issueArbitration s = .next s) ∧
     (s.aelmel.clockStopped = false → exec .issueArbitration s = .next (masterClock s))) ∧
   (∀ (s : State) (e : LogEntry) (g : Group) (a : Access) (v n : Nat) (signed acq : Bool) (scope hint d lanes : Nat),
     s.log = [e] → s.group? e.grp = some g → s.residentGroup g = true → e.state = .running → e.untranslated = false → notHeld g e →
     e.op = .load n signed acq scope hint → e.accs = [a] → a.lane = 64 → e.bound = [(64, v)] → e.dests = [.sreg d] →
     lanes.testBit 64 = true →
     exec (.vlComplete e.id lanes) s = .next ((s.onGroup e.grp fun h => h.setSval (.sreg d)
       (if signed then sextN (8 * n) v else BitVec.ofNat 64 v)).finishEntry e)) ∧
   (∀ (s : State) (e : LogEntry) (g : Group) (a : Access) (ps : List Piece) (n lanes scope hint : Nat) (signed acq : Bool),
     maySettle s e g → s.log = [e] → e.op = .load n signed acq scope hint → n ∈ [1, 2, 4, 8, 16] → e.accs = [a] → mayBind s e g a ps →
     e.written = 0 → lanes.testBit a.lane = true →
     let v := takenValue s g e ps a.isDev ps
     (∀ d, a.lane = 64 → e.dests = [.sreg d] → d < g.regs.sregs.length → e.bound = [] →
       ∃ t h, exec (.vlComplete e.id lanes) s = .next t ∧ settled e g t h ∧
         h.sval (.sreg d) = if signed = true then sextN (8 * n) v else BitVec.ofNat 64 v) ∧
     (∀ ds, a.lane < 64 → e.dests = ds.map Dest.slot → windowDests g ds → e.bound = [] →
       ∃ t h, exec (.vlComplete e.id lanes) s = .next t ∧ settled e g t h ∧ lanesTake e n signed (fun _ => v) [a.lane] ds g h)) ∧
   (∀ (s : State) (e : LogEntry) (g : Group) (n lanes : Nat) (signed acq : Bool) (scope hint : Nat) (v : Nat → Nat) (l ds : List Nat),
     maySettle s e g → s.log = [e] → e.op = .load n signed acq scope hint → n ∈ [1, 2, 4, 8, 16] → e.dests = ds.map Dest.slot → windowDests g ds →
     l ≠ [] → lanesReady e v l lanes →
     ∃ t h, exec (.vlComplete e.id lanes) s = .next t ∧ settled e g t h ∧ lanesTake e n signed v l ds g h) ∧
   (∀ (s : State) (e : LogEntry) (g : Group) (op : AOp) (lanes hint : Nat) (sext : Bool), maySettle s e g → e.op = .atomic op sext hint →
     let n := if op = .add64 then 8 else 4
     (∀ (v : Nat → Nat) (l ds : List Nat), e.dests = ds.map Dest.slot → windowDests g ds → lanesReady e v l lanes →
       ∃ t h, exec (.vlComplete e.id lanes) s = .next t ∧ settled e g t h ∧ lanesTake e n false v l ds g h) ∧
     (∀ v d, e.bound = [(64, v)] → e.dests = [.sreg d] → d < g.regs.sregs.length →
       ∃ t h, exec (.vlComplete e.id lanes) s = .next t ∧ settled e g t h ∧
         h.sval (.sreg d) = if sext = true then sextN (8 * n) v else BitVec.ofNat 64 v)) ∧
   (∀ (s : State) (e : LogEntry) (g : Group) (lanes acc row base d : Nat) (v : Nat → Nat) (l : List Nat), maySettle s e g →
     e.op = .cdrain acc row base → e.dests = [.slot d] → windowDests g [d] → l ≠ [] → l.Nodup → e.bound = l.map (fun i => (i, v i)) →
     ∃ t h, exec (.vlComplete e.id lanes) s = .next t ∧ settled e g t h ∧ lanesTake e 4 false v l [d] g h) ∧
   (∀ (s : State) (e : LogEntry) (g : Group) (lanes die q p : Nat) (nb : Bool) (v : Nat → Nat) (l ds : List Nat), maySettle s e g →
     e.op = .qpop die q nb → e.dests = ds.map Dest.slot ++ e.nbp.toList → (∀ x, e.nbp = some x → x = .preg p) → windowDests g ds →
     l ≠ [] → l.Nodup → e.bound = l.map (fun i => (i, v i)) →
     ∃ t h, exec (.vlComplete e.id lanes) s = .next t ∧ settled e g t h ∧ lanesTake e 8 false v l ds g h ∧
       (e.nbp ≠ none → p < 7 → p < g.regs.pregs.length →
         ∀ i, i < 64 → e.lanes.getLsbD i = true → ((h.pval (.preg p)).getLsbD i = true ↔ i ∈ l))) ∧
   (∀ (s : State) (e : LogEntry) (g : Group) (lanes box p v : Nat) (nb : Bool) (ds : List Nat), maySettle s e g →
     e.op = .mbrecv box nb → e.dests = ds.map Dest.slot ++ e.nbp.toList → (∀ x, e.nbp = some x → x = .preg p) → windowDests g ds →
     e.bound = [(64, v)] →
     ∃ t h, exec (.vlComplete e.id lanes) s = .next t ∧ settled e g t h ∧
       lanesTake e 4 false (fun i => v / 2 ^ (32 * i) % 2 ^ 32) (List.range 16) ds g h ∧
       (e.nbp ≠ none → p < 7 → p < g.regs.pregs.length →
         ∀ i, i < 64 → e.lanes.getLsbD i = true → (h.pval (.preg p)).getLsbD i = true)) ∧
   (∀ (s : State) (e : LogEntry) (g : Group) (lanes d : Nat) (x : W64), maySettle s e g → e.dests = [.sreg d] → d < g.regs.sregs.length →
     (∃ (a : Access) (p : Piece) (ps : List Piece), e.op = .dread ∧ e.accs = [a] ∧ a.place = .phys (p :: ps) ∧ s.wordInPath e p.pa = false ∧
         s.badRead p.pa 8 = false ∧ x = s.homeW64 p.pa)
       ∨ (∃ (n : Nat), e.op = .hcrd n ∧ x = s.hc (n / 256) (n % 256))
       ∨ (∃ (h : W64) (w : Work), e.op = .jobstat h ∧ fieldOf h 62 33 = 0 ∧ w ∈ s.works ∧ w.die = fieldOf h 32 32 ∧ w.job = !h.getLsbD 63 ∧
         (s.tableOn (fieldOf h 32 32)).filter (fun u => u.job == w.job && u.handleNum == fieldOf h 31 0) = [w] ∧
         (w.job = true ∨ w.named = true ∨ w.cq = none) ∧ w.handleNum = fieldOf h 31 0 ∧
         x = BitVec.ofNat 64 ((if w.state = .rejected then w.reason * 2 ^ 40 else 0) + w.stateCode * 2 ^ 32
           + if w.job = true then w.out % 2 ^ 32 else 0))
       ∨ (∃ (h : W64), e.op = .jobstat h ∧ fieldOf h 47 40 = 0 ∧ x = BitVec.ofNat 64 (255 * 2 ^ 32) ∧
         ∀ w ∈ s.tableOn (fieldOf h 32 32), w.job = h.getLsbD 63 ∨ w.handleNum ≠ fieldOf h 31 0) →
     ∃ t h, exec (.vlComplete e.id lanes) s = .next t ∧ settled e g t h ∧ h.sval (.sreg d) = x) ∧
   (∀ (s : State) (e : LogEntry) (g : Group) (lanes : Nat), s.entry? e.id = some e → s.group? e.grp = some g →
     s.residentGroup g = true → e.state = .running → e.untranslated = false → notHeld g e → e.op = .nothing →
     exec (.vlComplete e.id lanes) s = .next ((match e.nbp with
       | some d => s.onGroup e.grp fun h => h.setPval d e.lanes 0
       | none => s).finishEntry e)) ∧
   (∀ (s : State) (e : LogEntry) (g : Group) (lanes : Nat), s.entry? e.id = some e → s.group? e.grp = some g → g.running ≠ 0 →
     ¬ notHeld g e → exec (.vlComplete e.id lanes) s = .next s ∧ exec (.drainPerform e.id) s = .next s) ∧
   (∀ (s : State) (tile n : Nat) (e : PathEntry) (bs : List Byte), (s.tile tile).path.find? (fun p => p.id == n) = some e →
     e.op = .store bs →
     (s.pathsReady n = true → exec (.storePerformHome tile n) s = .next ((s.homeWrite e.pa bs e.hint e.inst).offPath n)) ∧
     (s.pathsReady n = false → exec (.storePerformHome tile n) s = .next s)) ∧
   (∀ (s : State) (tile line : Nat), exec (.tileCacheLineDrop tile line) s = .next (s.setTile tile
     { s.tile tile with cache := (s.tile tile).cache.filter fun l => l.line != line })) ∧
   (∀ (s u : State) (tile va asid vmid vmt kind : Nat) (r : TRes) (e : TlbEntry), tile < 1000 → va < 2 ^ 52 →
     let ag : Agent := { master := .tile tile, asid := asid, vmid := vmid }
     s.walkWanted (.tile tile) va asid vmid = true → (∀ x, s.tlbFind ag va = some x → x.serves (kindOfNum kind) = false) →
     s.vmtbase = some vmt →
     s.walk vmt ag va 1 (kindOfNum kind) = (u, r, some e) →
     exec (.translationWalk tile va asid vmid kind) s = .next (u.tlbFill (.tile tile) e)) ∧
   (∀ (s : State) (die n : Nat) (g : Gather), (s.die die).gathers[n]? = some g → s.badRead g.desc 8 = false →
     exec (.dirtyGatherWriteback die n) s = .next ((s.setDie die { s.die die with gathers := (s.die die).gathers.eraseIdx n }).homeWrite
       g.desc (leBytes 8 (s.homeW64 g.desc ||| (1#64 <<< 54)).toNat) 0)) ∧
   (∀ (s : State) (die : Nat) (f : FaultRec) (l m : List FaultRec), (s.die die).buffer = l ++ f :: m →
     (∀ x ∈ l, s.ringTakes (s.ringOf x) = false) → s.ringTakes (s.ringOf f) = true →
     exec (.faultRecordPost die) s = .next ((s.setDie die { s.die die with buffer := l ++ m }).ringPut (s.ringOf f) f)) ∧
   (∀ (s : State) (addr : Nat), addr < 2 ^ 48 → s.sline? (addr / 128) = none → (∀ b ∈ s.badBursts, b.burst ≠ addr / 64) →
     exec (.uncorrectableError addr) s = .next { s with
       health := { s.health with uecnt := min 255 (s.health.uecnt + 1) }, badBursts := s.badBursts ++ [{ burst := addr / 64 }] }) ∧
   (∀ (s : State) (addr : Nat) (l : SLine), addr < 2 ^ 48 → s.sline? (addr / 128) = some l →
     exec (.uncorrectableError addr) s = .next { s with
       health := { s.health with uecnt := min 255 (s.health.uecnt + 1) }
       badSlices := s.badSlices ++ [{ burst := addr / 64, cause := 0x22 }] }) ∧
   (∀ s : State, exec .correctedError s = .next { s with health := { s.health with cecnt := min 0xFFFFFFFF (s.health.cecnt + 1) } })) ∧
  ((∀ (s : State) (k : Copy) (l : CopyLane) (t off : Nat), laneDue s k l → l.data = none → l.src = .loc t off →
     exec (.copyTransfer k.id l.lane) s = .next (s.laneRead k l (s.windowRead t off k.n))) ∧
   (∀ (s u v : State) (k : Copy) (l : CopyLane) (va : W64) (ps : List Piece) (bs : List Byte) (g : Group),
     laneDue s k l → l.data = none → l.src = .glob va → s.resolve (s.copyAgent k) va k.n .read (s.copyWork k) = (u, .ok ps) →
     u.group? k.grp = some g → u.badPiece g (u.copyHome k) (u.tileWide g k.scope) va (fun _ => true) ps = none → u.ownAtomic k ps = false →
     u.enginePieces (u.copyHome k) (u.tileWide g k.scope) k.hint ps = (v, bs) →
     exec (.copyTransfer k.id l.lane) s = .next (v.laneRead k l bs)) ∧
   (∀ (s : State) (k : Copy) (l : CopyLane) (bs : List Byte) (t off : Nat), laneDue s k l → l.data = some bs → k.remote = false →
     k.mc = false → s.lowerFirst k l none = false → l.dst = .loc t off →
     exec (.copyTransfer k.id l.lane) s = .next (((s.copyInto t off bs).laneDone k.id l.lane).copyDeliver k)) ∧
   (∀ (s : State) (k : Copy) (l : CopyLane) (bs : List Byte) (ps : List Piece) (va : W64), laneDue s k l → l.data = some bs →
     k.remote = false → k.mc = false → s.lowerFirst k l none = false → l.dst = .glob va → ∀ u : State,
     s.resolve (s.copyAgent k) va k.n .write (s.copyWork k) = (u, .ok ps) → u.ownOnWay k ps = false →
     let v := (ps.foldl (fun (a : State × List Byte) p =>
       (a.1.homeWrite p.pa (a.2.take p.n) k.hint k.id, a.2.drop p.n)) (u, bs)).1
     let w := ps.foldl (fun s p => s.setTile (u.copyHome k) ((s.tile (u.copyHome k)).dropLine (p.pa / 128))) v
     exec (.copyTransfer k.id l.lane) s = .next ((w.laneDone k.id l.lane).copyDeliver k)) ∧
   (∀ (s : State) (k : Copy) (l : CopyLane) (rest : List CopyLane) (tile t off : Nat),
     s.copies.find? (fun k => s.copyTile k == tile && s.copyMoves k) = some k → k.lanes = l :: rest → laneDue s k l →
     l.data = none → l.src = .loc t off → exec (.bankArbitration tile) s = .next (s.laneRead k l (s.windowRead t off k.n))) ∧
   (∀ (s : State) (k : Copy) (l : CopyLane) (bs : List Byte) (recv off x : Nat) (tm : Team), laneDue s k l → k.remote = true →
     k.mc = false → l.data = some bs → l.dst = .loc x off → s.team? recv = some tm → recv ∈ l.recvs →
     s.lowerFirst k l (some recv) = false → tm.retired = false → s.moving tm = false ∨ k.begun l recv = true →
     let u := (s.copyInto recv off bs).recvDone k l recv false
     exec (.remoteDelivery k.id l.lane recv) s = .next (match k.recvBar with | some b => u.deliver recv b k.n | none => u)) ∧
   (∀ (s : State) (k : Copy) (l : CopyLane) (bs : List Byte) (recv off x ro : Nat) (snd : Nat × Nat) (tm : Team)
       (tab : List AckEntry), laneDue s k l →
     k.mc = true → k.bar = some snd → k.recvBar = some ro → l.data = some bs → l.dst = .loc x off → s.team? recv = some tm →
     recv ∈ l.recvs → s.lowerFirst k l (some recv) = false → tm.retired = false → s.moving tm = false ∨ k.begun l recv = true →
     recv ∉ k.acked →
     addAck (s.ackTable tm) recv ro snd.1 snd.2 = some tab →
     exec (.remoteDelivery k.id l.lane recv) s = .next ((((s.setAckTable tm tab).copyInto recv off bs).recvDone k l recv true).deliver
       recv ro k.n)) ∧
   (∀ (s : State) (k : Copy) (l : CopyLane) (bs : List Byte), laneDue s k l → k.remote = true ∨ k.mc = true → l.data = some bs →
     let u := s.setCopy { k with lanes := k.lanes.map fun m => if m.lane = l.lane then { m with back := 0 } else m }
     let v := if l.recvs = [] then u.laneDone k.id l.lane else u
     (k.mc = false ∨ l.back = 0 → exec (.copyTransfer k.id l.lane) s = .next v) ∧
     (∀ snd, k.mc = true → l.back ≠ 0 → k.bar = some snd →
       exec (.copyTransfer k.id l.lane) s = .next (v.deliver snd.1 snd.2 (k.n * l.back)))) ∧
   (∀ (s u v : State) (k : Copy) (l : CopyLane) (va : W64) (r : FaultRec) (n : Nat), laneDue s k l →
     (l.data = none ∧ l.src = .glob va ∧ s.resolve (s.copyAgent k) va k.n .read (s.copyWork k) = (u, .fault r)) ∨
       (∃ bs, l.data = some bs ∧ l.dst = .glob va ∧ k.remote = false ∧ k.mc = false ∧ s.lowerFirst k l none = false ∧
         s.resolve (s.copyAgent k) va k.n .write (s.copyWork k) = (u, .fault r)) →
     (k.token = none → k.held = false → u.postFault r (.copy k.id) = some (n, v) →
       exec (.copyTransfer k.id l.lane) s = .next (v.setCopy { k with token := some n, stuck := [l.lane] })) ∧
     (k.token ≠ none ∨ k.held = true →
       exec (.copyTransfer k.id l.lane) s = .next (u.setCopy { k with stuck := k.stuck ++ [l.lane] }))) ∧
   (∀ (s : State) (k : Copy) (l : CopyLane), s.copy? k.id = some k → l ∈ k.lanes → (k.lanes.map fun m => m.lane).Nodup →
     k.token ≠ none ∨ k.held = true →
     l.lane ∈ k.stuck ∨ (l.data = none ∧ some l.lineNo ≠ k.line ∧ k.halfSent l = false ∧ ∀ m ∈ k.lanes, m.data = none) →
     exec (.copyTransfer k.id l.lane) s = .next s) ∧
   (∀ (s : State) (k : Copy) (l : CopyLane) (bs : List Byte) (recv off x : Nat), laneDue s k l → k.remote = true ∨ k.mc = true →
     l.data = some bs → l.dst = .loc x off →
     recv ∈ l.recvs → (s.team? recv = none ∨
       ∃ tm, s.team? recv = some tm ∧ tm.retired = true ∧ s.lowerFirst k l (some recv) = false) →
     exec (.remoteDelivery k.id l.lane recv) s = .next (s.dropDelivery k l recv)) ∧
   (∀ (s : State) (n : Nat) (a : AckMsg) (tm : Team), s.acks[n]? = some a → s.team? a.team = some tm → tm.retired = false →
     s.moving tm = false →
     exec (.ackArrival n) s = .next (({ s with acks := s.acks.eraseIdx n } : State).acknowledge a.team a.off a.count)))

/-- R206, R209, R214, R220, R232, R235 to R239, R243, R248: a step of `mma` feeds the elements of its subtile, or, where an
element's range is exhausted, suspends the instruction with ACCRANGE and leaves the accumulator as it was; a drain reads
its elements; the joins of `rlxopen`, `rlxpass` and `rlxclose` act once all their groups have arrived: a region opens, or its groups trap; a
pass ends the region, or the next one begins at every group's pass start; the stores committed are performed one after another,
and after the last the region is closed; a pass that is overdue is abandoned, and its groups stand at their pass starts. The
model's choice: the shape of a step on a panel that is not fenced (log entry 53), and which free values it takes (log entry 6). -/
def Obligations.StepsOfMatrixAndKiln : Prop :=
  (∀ (s : State) (e : LogEntry) (g : Group) (n pa pb i : Nat) (tr : Bool), s.entry? e.id = some e → s.group? e.grp = some g →
    e.op = .mma n pa pb tr i → e.state = .running → s.stepsOn g e = true → s.accOlder e n = false →
    let a := (s.panelOf g pa).shown
    let b := (s.panelOf g pb).shown
    let fs := stepFeed g e.mode a b (s.accOf g n) tr s.fresh i
    let steps := stepCount (stepShape (geoOf g a.ctl) (geoOf g b.ctl))
    let e' := { e with op := .mma n pa pb tr (i + 1), fl := e.fl ||| fedFlags fs }
    let v := (if a.unfenced = [] ∧ b.unfenced = [] then s else { s with fresh := s.fresh + 4096 } : State).stepActivity g
    let u := (v.setAcc g n ((s.accOf g n).fed fs)).setEntry e'
    ((∀ f ∈ fs, f.2.undo = false) →
      (i + 1 < steps → exec (.macroOpStep e.id) s = .next u) ∧
      (steps ≤ i + 1 → exec (.macroOpStep e.id) s = .next (u.finishEntry { e' with dests := [] }))) ∧
    (∀ k, (∃ f ∈ fs, f.2.undo = true ∧ f.1 = k) → (∀ f ∈ fs, f.2.undo = true → k ≤ f.1) →
      exec (.macroOpStep e.id) s = .next (v.suspend e 1 n k i))) ∧
  (∀ (s : State) (e : LogEntry) (g : Group) (n row base : Nat), s.entry? e.id = some e → s.group? e.grp = some g →
    e.op = .cdrain n row base → e.state = .running → e.untranslated = false → notHeld g e → e.bound = [] → s.gangRuns g = true →
    s.accOlder e n = false → e.accs = [] →
    let acc := s.accOf g n
    let ks := (lanesOf 64 e.lanes).map fun i => 64 * row + base + i
    (∀ k ∈ ks, (acc.elem k).overflows = false) →
    let vs := (lanesOf 64 e.lanes).map fun i => (i, ((acc.drained ks).elem (64 * row + base + i)).deliver fmtF32 e.mode (acc.drained ks).anch)
    exec (.drainPerform e.id) s = .next ((s.setAcc g n (acc.drained ks)).setEntry { e with
      bound := vs.map fun p => (p.1, p.2.1), fl := vs.foldl (fun m p => m ||| p.2.2) 0 })) ∧
  (∀ (s : State) (e : LogEntry) (g : Group) (n : Nat), s.entry? e.id = some e → s.group? e.grp = some g →
    ((∃ row base, e.op = .cdrain n row base) ∧ e.bound = [] ∨ (∃ fmt, e.op = .cstore fmt n) ∧ e.written = 0) →
    e.state = .running → e.untranslated = false → notHeld g e → s.gangRuns g = true → s.accOlder e n = false → s.locScored e.accs = false →
    let acc := s.accOf g n
    let ks := (drainElems e).map fun p => p.2
    (modeAccr e.mode = 1 ∨ (∀ k ∈ ks, (acc.elem k).overflows = false) → exec (.drainPerform e.id) s =
      .next ((s.setAcc g n (acc.drained ks)).drainDeliver e g (acc.drained ks)
        (if ks.any fun k => (acc.elem k).overflows then flAOVF else 0))) ∧
    (∀ k ∈ ks, modeAccr e.mode ≠ 1 → (acc.elem k).overflows = true → (∀ j ∈ ks, (acc.elem j).overflows = true → k ≤ j) →
      exec (.drainPerform e.id) s = .next (s.suspend e 2 n k 0))) ∧
  (∀ (s : State) (tm : Team), s.team? tm.id = some tm → tm.region.state = .gather → tm.region.g ≤ (s.joined tm.region.arrived).length →
    let r : Region := { tm.region with grps := (byGroupId ((s.joined tm.region.arrived).map fun p => p.1)).map fun g => g.id, arrived := [] }
    (s.exitedSteps r ≠ [] → exec (.rlxopenJoin tm.id) s = .next (r.grps.foldl (fun s id => s.raiseHeld id (.illconv, 3)) (s.setTeam { tm with region := tm.prior }))) ∧
    (s.exitedSteps r = [] →
      let u := (s.joined tm.region.arrived).foldl
        (fun s p => s.onGroup p.1.id fun g => ({ g with hold := .none }).advance p.2 true) s
      let r' : Region := { r with
        state := .open, u := s.firstU r
        starts := (s.joined tm.region.arrived).filterMap fun p => (u.group? p.1.id).map fun g => passStart g (p.1.afterHeld p.2) }
      exec (.rlxopenJoin tm.id) s = .next ((u.setRegion tm.id r').writeX r' (s.firstU r)))) ∧
  (∀ (s : State) (tm : Team) (r' : Region), s.team? tm.id = some tm → tm.region.state = .open → s.allArrived tm.region = true →
    let r := tm.region
    let steps := (List.range r.t).map fun k => k + 1
    let ex := s.exitedSteps r
    let y := steps.map (s.blockOf r 1)
    let a := steps.map (s.blockOf r 2)
    (∀ (code n : Nat) (inputs : List (List W32)), passResult r y a (leastOr (r.t + 1) ex) (r.aborted || !ex.isEmpty) = (r', .exit code n inputs) →
      let z : Region := { r' with
        state := .settled, code := code, p := n, tol := decide (code = 1), u := inputs
        commit := if code ≤ 1 then r.t else n, arrived := [] }
      exec (.kilnPassEnd tm.id) s = .next ((s.joined r.arrived).foldl
        (fun s p => s.onGroup p.1.id fun g => ({ g with hold := .none }).advance p.2 false) ((s.setRegion tm.id z).writeX z inputs))) ∧
    (∀ u : List (List W32), passResult r y a (leastOr (r.t + 1) ex) (r.aborted || !ex.isEmpty) = (r', .again u) →
      let q := s.renewStarts { r'.resetPass with u := u }
      exec (.kilnPassEnd tm.id) s = .next ((s.joined r.arrived).foldl (fun s p =>
        let stop := s.stopRequested p.1
        (if stop = true then s.seePaths p.1 else s).onGroup p.1.id fun g =>
          { g.standAt (match q.startOf g with | some x => x.body | none => 0) with
              hold := if stop = true then .stopped else .none }) ((s.setRegion tm.id q).writeX q u)))) ∧
  (∀ (s : State) (tm : Team), s.team? tm.id = some tm → s.passOverdue tm.region = true → s.passQuiet tm.region = true →
    (∀ g ∈ s.regionGroups tm.region, g.gone = false ∧ ∃ p, tm.region.startOf g = some p) →
    let back (g h : Group) : Group := match tm.region.startOf g with | some p => h.atPassStart p | none => h
    let v := (s.regionGroups tm.region).foldl (fun s g => (s.seePaths g).onGroup g.id (back g)) s
    exec (.kilnPassAbandon tm.id) s = .next ((v.setRegion tm.id tm.region.resetPass).writeX tm.region tm.region.u)) ∧
  (∀ (s : State) (tm : Team) (g : Group) (l : List Group), s.team? tm.id = some tm → tm.region.state = .settled →
    s.allArrived tm.region = true → s.regionGroups tm.region = g :: l → g.stall = none → g.frozen = none →
    let r := tm.region
    let refused := (s.commitEmbreq g r).orElse fun _ => s.commitBarbusy r
    (∀ p, r.next = 0 → refused = some p → exec (.rlxcloseJoin tm.id) s = .next
      (r.arrived.foldl (fun s id => s.raiseHeld id p) (s.setRegion tm.id { r with arrived := [] }))) ∧
    ((r.next = 0 → refused = none) → r.committed[r.next]? = none →
      exec (.rlxcloseJoin tm.id) s = .next (s.closeRegion tm.id r)) ∧
    (∀ k x, r.next = 0 → refused = none → r.committed[0]? = some (k, x) → s.commitMay r = false →
      exec (.rlxcloseJoin tm.id) s = .next s) ∧
    (∀ k x, (r.next = 0 → refused = none ∧ s.commitMay r = true) → r.committed[r.next]? = some (k, x) →
      let v : State := if r.inst = 0 then { s with nextId := s.nextId + 1 } else s
      let q : Region := { r with inst := if r.inst = 0 then s.nextId else r.inst }
      (∀ w, v.commitOne q g k x = .done w →
        exec (.rlxcloseJoin tm.id) s = .next (w.setRegion tm.id { q with next := r.next + 1 })) ∧
      (∀ w, v.commitOne q g k x = .wait w → exec (.rlxcloseJoin tm.id) s = .next w)))

/-- R289, R291 to R294, R299 to R311, R316, R320, R331, R375: what the steps of work do where they are due: a launch or job
that is ready is checked, and rejected with the first reason or runs; one without a counter becomes ready; gangs and chunks are
placed where the tenant rules allow it; a tenant is credited; a gang stops, is saved, is restored; groups, teams and launches
retire; a child's completion counts at its parent; the ember moves on; a message reaches its mailbox. The model's choice (log entry
23, DEDUCED): the low three bits of DEPCTR are ignored, a work without a counter is ready as it is submitted, and a launch takes
its number as it becomes ready. -/
def Obligations.StepsOfWork : Prop :=
  (∀ (s : State) (w : Work), s.work? w.id = some w → w.job = false → w.state = .ready → w.reported = false → w.token = none →
    w.depctr = 0 →
    let u : State := if w.named = true then s else { s with launchid := s.launchid + 1 }
    let v : Work := if w.named = true then w else
      { w with num := s.launchid.toNat, named := true, handle := if w.cq.isSome then s.launchid.toNat else w.handle }
    (∀ r, firstReason (u.launchChecks v) = some r → exec (.launchReady w.id) s = .next (u.setWork { v with state := .rejected, reason := r })) ∧
    (firstReason (u.launchChecks v) = none → exec (.launchReady w.id) s = .next (u.setWork { v with
      state := .running, c := u.tileCount, sig := BitVec.ofNat 64 (bytesNat (shake256 (u.sigBytes v) 8)) }))) ∧
  (∀ (s u : State) (w : Work) (ps : List Piece), s.work? w.id = some w → w.job = false → w.state = .ready → w.reported = false →
    w.token = none → w.depctr ≠ 0 →
    engineOk s { master := .command w.die, asid := w.subAsid, vmid := w.subVmid } w.addr.toNat 256 .read (.work w.id) u ps →
    exec (.launchReady w.id) s = .next (u.startLaunch ({ w with words := bytesW64s 32 (u.readAll ps) } : Work).owned)) ∧
  (∀ (s : State) (w : Work), s.work? w.id = some w → w.job = true → w.state = .ready →
    (∀ r, firstReason w.jobChecks = some r → exec (.jobReady w.id) s = .next (s.setWork { w with state := .rejected, reason := r })) ∧
    (firstReason w.jobChecks = none → exec (.jobReady w.id) s = .next (s.setWork { w with state := .running }))) ∧
  (∀ (s : State) (w : Work), s.work? w.id = some w → w.state = .submitted → w.module = 0 → w.token = none → w.words ≠ [] →
    w.owned.depctr = 0 → exec (.depctrRegister w.id) s = .next ((s.setWork w.owned).makeReady w.id)) ∧
  (∀ (s u : State) (w : Work) (ps : List Piece), s.work? w.id = some w → w.state = .submitted → w.module = 0 → w.token = none →
    w.words = [] → engineOk s { master := .command w.die, asid := w.subAsid, vmid := w.subVmid } w.addr.toNat 256 .read (.work w.id) u ps →
    let v := ({ w with words := bytesW64s 32 (u.readAll ps) } : Work).owned
    v.depctr = 0 → exec (.depctrRegister w.id) s = .next ((u.setWork v).makeReady w.id)) ∧
  (∀ (s u : State) (w : Work) (ps : List Piece), s.work? w.id = some w → w.state = .submitted → w.module = 0 → w.token = none →
    w.words ≠ [] → w.owned.depctr ≠ 0 →
    engineOk (s.setWork w.owned) { master := .command w.die, asid := w.owned.asid, vmid := w.owned.vmid }
      (w.owned.depctr.toNat / 8 * 8) 8 .read (.work w.id) u ps →
    ((u.homeW64 (startOf ps)).toNat % 2 ^ 32 = 0 → exec (.depctrRegister w.id) s = .next (u.makeReady w.id)) ∧
    ((u.homeW64 (startOf ps)).toNat % 2 ^ 32 ≠ 0 → (u.die w.die).watch.length < 4096 →
      exec (.depctrRegister w.id) s = .next ((u.setDie w.die { u.die w.die with
        watch := (u.die w.die).watch ++ [{ pa := startOf ps, work := w.id }] }).setWork { w.owned with state := .waiting })) ∧
    ((u.homeW64 (startOf ps)).toNat % 2 ^ 32 ≠ 0 → 4096 ≤ (u.die w.die).watch.length →
      exec (.depctrRegister w.id) s = .next u)) ∧
  (∀ (s : State) (w : Work) (lt : Nat) (fs : List Fit), s.work? w.id = some w → w.job = false → w.hasNext = true →
    s.allowed (.next w.id) = true → s.spotOf w w.nextGang = some (lt, fs) → exec (.gangPlace w.id) s = .next (s.placeGang w lt fs)) ∧
  (∀ (s : State) (w : Work) (lt : Nat) (f : Fit), s.work? w.id = some w → w.job = true → w.hasNext = true →
    s.allowed (.next w.id) = true → s.jobSpot w = some (lt, f) → exec (.jobDeal w.id) s = .next (s.deal w lt f)) ∧
  (∀ (s : State) (die cls n : Nat), ((s.die die).ringOrder cls).find? (fun n => (s.die die).weight n != 0 &&
      (((s.die die).deficit n cls).credited || (s.oldest die n cls).isSome)) = some n →
    let x := (s.die die).deficit n cls
    let next (d : Die) : Die := { d with cursors := aset d.cursors x.cls ((x.tenant + 1) % 256) }
    (x.credited = false → exec (.tenantServe die cls) s = .next (s.setDie die ((s.die die).setDeficit
      { x with deficit := x.deficit + (s.die die).weight n * 4096, credited := true }))) ∧
    (x.credited = true → s.oldest die n cls = none → exec (.tenantServe die cls) s = .next (s.setDie die
      (next ((s.die die).setDeficit { x with deficit := min x.deficit 0, credited := false })))) ∧
    (x.credited = true → (s.oldest die n cls).isSome = true → x.deficit ≤ 0 → exec (.tenantServe die cls) s = .next (s.setDie die
      (next ((s.die die).setDeficit { x with credited := false })))) ∧
    (x.credited = true → (s.oldest die n cls).isSome = true → 0 < x.deficit → exec (.tenantServe die cls) s = .next s)) ∧
  (∀ (s : State) (die : Nat) (tm : Team) (w : Work) (k : Gang), s.teams = [tm] → tm.retired = false →
    s.physTile tm.ltile / 104 = die → (s.cluster (clusterOf (s.physTile tm.ltile))).last = s.time → s.gang? tm.gang = some k →
    k.resident = true → s.work? tm.work = some w →
    let x := (s.die die).deficit w.tenant w.prio
    exec (.deficitCharge die) s = .next (s.setDie die ((s.die die).setDeficit
      { x with deficit := max (-(2 ^ 47)) (x.deficit - if tm.pair then 2 else 1) }))) ∧
  (∀ (s : State) (die : Nat) (k : Gang), s.class0Waits die = true → s.preempting die = false →
    [3, 2, 1].findSome? (fun c => latest (s.victims die c)) = some k →
    (k.state = .running → exec (.class0Preempt die) s = .next (s.requestStop k false)) ∧
    (k.state = .stopping true → exec (.class0Preempt die) s = .next (s.setGang { k with preempt := true, stopAt := s.time }))) ∧
  (∀ (s : State) (k : Gang), s.gang? k.id = some k → k.state = .stopping false →
    let u := s.stopHeld k
    (u.gangQuiet k = false → exec (.gangStop k.id) s = .next u) ∧
    (∀ v, u.gangQuiet k = true → u.spillIdle k = true → u.poolFits k = true →
      u.saveGroups ((u.gangGroups k).map fun g => g.id) = .done v → exec (.gangStop k.id) s = .next
        (let t := ((v.gangGroups k).foldl State.seePaths v).unlog ((v.gangGroups k).map fun g => g.id)
         let t := (k.teams.filterMap t.team?).foldl (fun (s : State) t => s.packTeam (t.takeArea (v.gangDie k))) t
         let t := (t.gangGroups k).foldl (fun (s : State) g => s.onGroup g.id Group.cleanSaved) t
         ({ t with nextId := t.nextId + 1 } : State).setGang
           { k with state := .saved (t.saver k.id), stood := v.gangTiles k, back := t.nextId })) ∧
    (u.gangQuiet k = true → u.spillIdle k = true → u.poolFits k = false →
      exec (.gangStop k.id) s = .next ((u.setGang { k with state := .running }).releaseStops k))) ∧
  (∀ (s t : State) (k : Gang) (w : Work) (spot : Nat × List (Fit × List Nat)), s.gang? k.id = some k → s.work? k.work = some w →
    k.state = .saved false → s.spillIdle k = true → s.allowed (.saved k.id) = true → s.restoreSpot w k = some spot →
    (∀ x ∈ s.tiles, ∀ e ∈ x.2.path, ∀ g ∈ s.gangGroups k, e.covered g.id = false) →
    let u := s.replaceGang k spot.1 spot.2
    u.loadGroups ((u.gangGroups k).map fun g => g.id) = .done t →
    exec (.contextRestore k.id) s = .next ((t.releaseStops k).wakeEntries k)) ∧
  (∀ (s : State) (g : Group), s.group? g.id = some g → g.core = none → g.retired = false → fullMask g.width &&& ~~~g.flow.exited = 0 →
    g.pend = none → g.frozen = none → (∀ n ∈ g.cf, n = 0) →
    exec (.groupRetire g.id) s = .next ((s.onGroup g.id fun h => { h with
      retired := true, clause := none, stall := none, due := [], hold := .none }).retryCopies g.id)) ∧
  (∀ (s : State) (tm : Team) (k : Gang), s.team? tm.id = some tm → s.gang? tm.gang = some k → k.resident = true → tm.retired = false →
    (∀ g ∈ tm.grps.filterMap s.group?, g.retired = true) → s.copiesAt tm = false →
    ∀ w, (s.releaseTeam tm).work? tm.work = some w →
    exec (.teamRetire tm.id) s = .next (((s.releaseTeam tm).setWork
      (if w.job = true then { w with out := w.out - 1 } else if w.det = 1 then w.teamGone tm else w)).gangCheck tm.gang)) ∧
  (∀ (mk : Nat → Instr) (job : Bool), (mk, job) ∈ ([(.launchRetire, false), (.jobComplete, true)] : List ((Nat → Instr) × Bool)) →
    ∀ (s : State) (w : Work), s.work? w.id = some w → w.job = job → w.token = none → s.workBusy w = false → w.reported = false →
    (w.state = .rejected ∨ w.state = .killed ∨ (job = true ∧ w.state = .dealt) ∨
      (job = false ∧ w.state = .running ∧ w.teamsN ≤ w.nextGang * w.gangt ∧ s.gangsOf w.id = [])) →
    (job = true → w.module = 0 ∧ w.out = 0) →
    let u := s.dieNums.foldl (fun s d => s.flushGathers d fun g => g.works.contains w.id) s
    let ended (u : State) : State := if w.parent = none then u.removeWork w else (u.setWork { w with reported := true }).cqDone w.cq
    (w.done = 0 → exec (mk w.id) s = .next (ended u)) ∧
    (∀ (v : State) (ps : List Piece), w.done ≠ 0 → w.done.toNat % 16 = 0 → w.done.toNat < 2 ^ 52 →
      engineOk u w.agent w.done.toNat 16 .atomic (.work w.id) v ps →
      exec (mk w.id) s = .next (ended ((v.homeWrite (startOf ps + 8) (leBytes 8 w.doneWord.toNat) 0).counterDec (startOf ps) 0)))) ∧
  (∀ (s : State) (w : Work), s.work? w.id = some w → w.reported = true ∨ w.module ≠ 0 →
    exec (.childCompletion w.id) s = .next ((s.addOut w.parent false).removeWork w)) ∧
  (∀ (s : State) (w : Work), s.work? w.id = some w → w.det = 1 → w.abort = false → w.visiting = false → w.state = .running →
    let placed (l : Nat) : Prop := ∃ t ∈ s.teams, t.work = w.id ∧ t.l = l ∧ t.retired = false
    let goes (v : Work) (l : Nat) : Prop :=
      (placed l → exec (.emberAdvance w.id) s = .next ((s.setWork { v with holder := l, visiting := true }).freeEmbwait w.id (some l))) ∧
      (¬ placed l → exec (.emberAdvance w.id) s = .next (s.setWork { v with holder := l }))
    (∀ l, w.nextVisit w.holder = some l → goes w l) ∧
    (∀ l, w.nextVisit w.holder = none → w.nextVisit 0 = some l → goes { w with round := w.round + 1 } l) ∧
    (w.nextVisit w.holder = none → w.nextVisit 0 = none → exec (.emberAdvance w.id) s = .next s)) ∧
  (∀ (s : State) (die n : Nat) (m : Msg), (s.die die).outbound[n]? = some m →
    (∀ d ∈ s.dieNums, ∀ k ∈ (s.die d).outbound, k.grp = m.grp → k.seq < m.seq → k.sameBox m = false) →
    let u := s.setDie die { s.die die with outbound := (s.die die).outbound.eraseIdx n }
    (m.module ≠ 0 → exec (.mailboxDelivery die n) s = .next { u with sends := u.sends ++ [.message m.module m] }) ∧
    (m.module = 0 → (u.mailbox m.agent m.box).length < 16 → exec (.mailboxDelivery die n) s = .next
      ((u.setMailbox m.agent m.box (u.mailbox m.agent m.box ++ [m.data])).serveMail m.agent m.box 16)) ∧
    (m.module = 0 → 16 ≤ (u.mailbox m.agent m.box).length → exec (.mailboxDelivery die n) s = .next s))

/-- R328 to R334, R344 to R349, R352, R376, R403, R405: a turn pairs the die's units, hottest first, each with the coolest unit of
its size that may take its place, as the loop of R330 does; a pair that has waited 49,152 clocks is
given up, one at rest is exchanged; a written pattern takes effect at a multiple of 16; a droop outside a stretch starts
an episode, which goes on to its halved window and to IDLE; temperatures set TMAX, HOT, and stop the clock; a tile with fewer
rows is emptied, a failed one replaced by a spare once it is empty, or lost where there is none. The model's choice (DESIGN CHOICE):
a window with STRN = 0, TMAX cut to whole degrees, and the lowest spare, taken once the tile is empty (log entry 28); no turn
during a checkpoint (log entry 19). -/
def Obligations.StepsOfRotationAndPower : Prop :=
  (∀ (s : State) (die : Nat), s.time % 2 ^ (s.die die).exp = 0 → s.ckpt.busy = false →
    exec (.turnStart die) s = .next (s.pairAll die (s.hotOrder (s.occupied die)))) ∧
  (∀ (s : State) (die : Nat) (hot : List Block), s.time % 2 ^ (s.die die).exp = 0 → s.ckpt.busy = false →
    (s.gangs.map fun k => k.id).Nodup → hot.Nodup → (∀ b, b ∈ hot ↔ smallestOf s die b) →
    hot.Pairwise (fun x y => heat s y < heat s x ∨ (heat s y = heat s x ∧ x.first < y.first)) →
    ∃ t, exec (.turnStart die) s = .next t ∧ (t.die die).pairs = pairing s die (s.die die).pairs hot) ∧
  (∀ (s : State) (die n : Nat) (p : TurnPair), (s.die die).pairs[n]? = some p → p.since + 49152 ≤ s.time → s.pairQuiet p = false →
    exec (.turnAbandon die n) s = .next (s.endPair die n p)) ∧
  (∀ (s : State) (die n : Nat) (p : TurnPair), (s.die die).pairs[n]? = some p → s.pairQuiet p = true →
    (s.pairGangs p).any s.gangFaults = false →
    let ids := ((s.pairGangs p).flatMap s.gangGroups).map fun g => g.id
    exec (.turnExchangeEnd die n) s = .next ((((tilesOfPair p).foldl (fun s q => (s.swapContents q.1 q.2).swapEntries q.1 q.2) s).relog ids).endPair
      die n p)) ∧
  (∀ (s : State) (k : Nat), (s.time + 1) % 16 = 0 → (∀ p, (s.cluster k).nextPattern = some p →
    exec (.swallowPatternApply k) s = .next (s.setCluster k { s.cluster k with pattern := p, nextPattern := none }))) ∧
  (∀ (s : State) (n : Nat), let k := s.cluster n
    let d := k.before.getD k.damp
    k.clocks ≠ 0 → k.lowAt ≠ some k.clocks → d.level ≠ 0 → d.en = true → k.state ≠ .stretch →
    exec (.droopDetect n) s = .next (s.setCluster n { k with
      lowAt := some k.clocks, events := k.events + 1, lead := true, tail := k.state == .half && k.halfRem != 0
      strRem := d.strN, halfRem := if d.strN = 0 then d.halfN else 0
      state := if d.strN ≠ 0 then .stretch else if d.halfN ≠ 0 then .half else .idle })) ∧
  (∀ (s : State) (n : Nat), let k := s.cluster n
    let d := k.before.getD k.damp
    k.state = .stretch → k.lead = false → k.strRem = 0 → exec (.stretchEnd n) s = .next (s.setCluster n { k with
      state := if d.halfN = 0 then .idle else .half, halfRem := d.halfN, odd := false, lowAt := some k.clocks })) ∧
  (∀ (s : State) (n : Nat), let k := s.cluster n
    let d := k.before.getD k.damp
    k.clocks ≠ 0 → k.lowAt ≠ some k.clocks → d.level ≠ 0 → d.en = true → k.state = .stretch →
    exec (.droopDetect n) s = .next (s.setCluster n { k with
      lowAt := some k.clocks, strRem := max k.strRem (if k.lead = true then d.strN else d.strN + 1) })) ∧
  (∀ (s : State) (n : Nat), let k := s.cluster n
    k.state = .half → k.lead = false → k.halfRem = 0 → exec (.halfEnd n) s = .next (s.setCluster n { k with
      state := .idle, odd := false, lowAt := some k.clocks })) ∧
  (∀ (s : State) (g : Group) (cl : Clause), s.group? g.id = some g → g.clause = some cl → g.flow.tl = false → g.frozen = none →
    s.gangRuns g = true → ((∃ d l w, g.hold = .embwait d l w) ∨ ∃ a b w, g.hold = .batches a b w) → s.deadlineDue g = true →
    exec (.deadlineExpiry g.id) s = .next ((s.onGroup g.id fun h => { h with
        hold := .none, csrs := { h.csrs with deadline := h.csrs.deadline &&& 0x7FFFFFFFFFFFFFFF#64 } }).raise g.id
      { cause := .deadline, info := BitVec.ofNat 64 (g.csrs.deadline.toNat % 2 ^ 63), pc := cl.next, pos := cl.pos, seta := cl.seta
        setb := cl.setb, lanes := cl.lanes, clause := some cl })) ∧
  (∀ (s : State) (tile temp : Nat), let old := (s.tile tile).temp
    exec (.tileTemperatureRise tile temp) s = .next { s.setTile tile { s.tile tile with temp := temp } with
      health := { s.health with tmax := min 255 (max s.health.tmax (temp / 4)) }
      agenda := s.agenda ++ (if old ≤ 400 ∧ 400 < temp then [.tileHot tile] else [])
        ++ (if old ≤ 440 ∧ 440 < temp then [.overTemperatureStop tile] else []) }) ∧
  (∀ (s : State) (tile : Nat), 400 < (s.tile tile).temp → exec (.tileHot tile) s = .next { s with
    health := { s.health with hot := true, tmax := min 255 (max s.health.tmax ((s.tile tile).temp / 4)) } }) ∧
  (∀ (s : State) (tile : Nat), 440 < (s.tile tile).temp → exec (.overTemperatureStop tile) s = .next { s with
    aelmel := { s.aelmel with state := .recovery, reason := 5, clockStopped := true }, agenda := [], issueq := [] }) ∧
  (∀ (s : State) (tile rows : Nat), tile < 104 * s.ndies → rows ≠ 0 → rows < 1024 → rows < (s.tile tile).rows →
    exec (.tileFailure tile rows) s = .next ((s.setTile tile { s.tile tile with rows := rows }).stopTile tile)) ∧
  (∀ (s : State) (tile lt : Nat), tile < 104 * s.ndies →
    let u := s.setTile tile { s.tile tile with failed := true }
    u.behind tile = some lt →
    (∀ sp l, u.sparesOf (tile / 104) = sp :: l → u.inExchange tile = false →
      (u.gangsAt tile = [] → exec (.tileFailure tile 0) s = .next (u.swapTile lt (tileWord sp))) ∧
      (u.gangsAt tile ≠ [] → exec (.tileFailure tile 0) s = .next (u.stopTile tile))) ∧
    (u.sparesOf (tile / 104) = [] → exec (.tileFailure tile 0) s = .next (u.loseTile lt tile)))

/-- R277, R381 to R390, R394 to R401: the collective engine starts, captures, writes and acknowledges queue-pair entries, takes
contributions and sweeps chunks, sorts, and takes up the command queue; the checkpoint stops, copies and goes on; the host
reads and writes; Aelmel verifies, boots, recovers and attests; module reset; cores wake, halt and restart.
The model's choice: module reset keeps memory and drops the slices (log entry 20); the host is told nothing of an error in what it
reads (54), and where BAR2 and the management interface stand (25); a core that restarts goes on where it stands (17); the storage
port works in VM 0, writes past the slices, and takes its queue's binding with a transfer (45, 31); a counter that its agent may
not use at the moment is left (23); a checkpoint stops at a line with an error, and a core in `wfi` halts for a ring whose header has
one (54). -/
def Obligations.StepsOfEnginesAndHost : Prop :=
  (∀ (s : State) (die qp : Nat) (e : QpEntry) (l : List QpEntry), (s.die die).collEn = true → s.ckpt.busy = false → s.transfers = [] →
    s.qpList die qp = e :: l → (∀ f ∈ e :: l, f.token = none) → e.started = false → (bit (word e.words 4) 8 = true → e.armed = true) →
    exec (.qpEntryStart die qp) s = .next (s.onQp die qp e.id fun f => { f with started := true })) ∧
  (∀ (s u : State) (die qp n : Nat) (e : QpEntry) (ps : List Piece), (s.qpList die qp)[n]? = some e → e.started = true →
    e.localDone = false → e.token = none → qOp e.words < 2 → s.ckpt.busy = false →
    let q := s.qpInfo die qp
    let ldone := counterIn (word e.words 6) 0 8
    tableGood s die (pairWords s die qp) → tableGood s die (counterWords ldone) →
    engineOk s { master := .coll die, asid := e.asid, vmid := e.vmid } (qSrc e.words) (qLen e.words) .read (.qp die qp e.id) u ps →
    let v := (u.onQp die qp e.id fun f => { f with localDone := true, peer := q.peer }).bump die e.asid ldone
    (q.peer = 0 → exec (.qpLocalComplete die qp n) s = .next { v with transfers := v.transfers ++
      [{ words := e.words, data := u.readAll ps, ddie := q.ddie, asid := e.asid, rasid := q.rasid, vmid := q.vmid
         src := some (die, qp, e.id) }] }) ∧
    (q.peer ≠ 0 → exec (.qpLocalComplete die qp n) s =
      .next { v with sends := v.sends ++ [.transfer q.peer e.words (u.readAll ps) (die, qp, e.id)] })) ∧
  (∀ (s u : State) (die n : Nat) (t : Transfer) (ps : List Piece), s.transferAt die 0 n = some t → t.token = none →
    s.ckpt.busy = false →
    let rdone := counterIn (word t.words 6) 16 24
    tableGood s die (counterWords rdone) →
    engineOk s { master := .coll die, asid := t.rasid, vmid := t.vmid } (qDst t.words) (qLen t.words) .write (.coll die) u ps →
    exec (.qpRemoteWrite die n) s = .next ((((u.writeAll ps t.data).bump die t.asid rdone).dropTransfer t).ackSource t.src)) ∧
  (∀ (s : State) (die qp n : Nat) (e : QpEntry), (s.qpList die qp)[n]? = some e →
    e.written = true ∨ (e.localDone = true ∧ e.peer ≠ 0) →
    exec (.qpAck die qp n) s = .next ((s.setQp die qp ((s.qpList die qp).filter fun f => f.id != e.id)).cqDone e.cq)) ∧
  (∀ (s : State) (die n : Nat) (t : Transfer), s.transferAt die 1 n = some t → s.ckpt.busy = false →
    (t.rasid, qChunk t.words) ∉ (s.die die).badKeys →
    let u := s.dropTransfer t
    ((s.die die).chunks = [] → 0 < (s.die die).ways → qNrank t.words * qLen t.words ≤ (s.die die).ways * 2 ^ 23 →
      let keys := (s.die die).badKeys.filter fun k => k.1 ≠ t.rasid
      exec (.wredContribution die n) s = .next ((u.setDie die { u.die die with badKeys := keys }).setDie die { u.die die with
        badKeys := keys, chunks := [{ rasid := t.rasid, vmid := t.vmid, chunk := qChunk t.words, nrank := qNrank t.words
                                      len := qLen t.words, parts := [t.contrib] }] })) ∧
    (∀ k, (s.die die).chunks = [k] → k.rasid = t.rasid → k.chunk = qChunk t.words → k.mismatch t = false →
      exec (.wredContribution die n) s = .next (u.setDie die { u.die die with chunks := [{ k with parts := k.parts ++ [t.contrib] }] }))) ∧
  (∀ (s u : State) (die n : Nat) (k : Chunk) (p last : Contrib) (l : List Contrib) (ps : List Piece),
    (s.die die).chunks[n]? = some k → k.parts = p :: l → k.nrank ≤ k.parts.length → k.token = none → s.ckpt.busy = false →
    let byRank := (List.range k.nrank).filterMap fun r => k.parts.find? fun p => p.rank == r
    byRank.getLast? = some last →
    let rdone := counterIn (word last.words 6) 16 24
    tableGood s die (counterWords rdone) →
    engineOk s { master := .coll die, asid := k.rasid, vmid := k.vmid } (qDst p.words) k.len .write (.coll die) u ps →
    let v := (u.writeAll ps (foldChunk (qFmt p.words) (qMax p.words) k.len (byRank.map fun c => c.data))).bump die last.asid rdone
    exec (.wredSweep die n) s = .next (k.parts.foldl (fun s c => s.ackSource c.src)
      (v.setDie die { v.die die with chunks := (v.die die).chunks.eraseIdx n }))) ∧
  (∀ (s u : State) (die n : Nat) (w : SortWork), (s.die die).sorts[n]? = some w → w.token = none → s.ckpt.busy = false →
    let ctr := counterIn (word w.words 6) 0 8
    tableGood s die (counterWords ctr) →
    s.sortRun { master := .coll die, asid := w.asid, vmid := w.vmid } w.words (.coll die) = (u, .ok []) →
    exec (.toksortComplete die n) s = .next ((u.setDie die { u.die die with sorts := (u.die die).sorts.eraseIdx n }).bump die w.asid ctr)) ∧
  (∀ (s u v : State) (die qp n : Nat) (e : QpEntry) (ps : List Piece), (s.qpList die qp)[n]? = some e → e.started = true →
    e.token = none → qOp e.words = 2 → s.ckpt.busy = false →
    let ag : Agent := { master := .coll die, asid := e.asid, vmid := e.vmid }
    engineOk s ag (qSrc e.words) 64 .read (.qp die qp e.id) u ps →
    let ws := bytesW64s 8 (u.readAll ps)
    let here := counterIn (word ws 6) 0 8 ++ counterIn (word e.words 6) 0 8
    let rdone := counterIn (word e.words 6) 16 24
    let ddie := (u.qpInfo die qp).ddie
    tRefused ws = false → tableGood u die (pairWords u die qp) → tableGood u die (counterWords here) →
    tableGood u ddie (counterWords rdone) → u.sortRun ag ws (.qp die qp e.id) = (v, .ok []) →
    exec (.routeEntry die qp n) s = .next (((v.bump die e.asid here).bump ddie e.asid rdone).qpComplete die qp e)) ∧
  (∀ (s : State) (die n : Nat) (ws : List W64), s.cqHead die = some (n, ws) → headGood s die → fieldOf (word ws 0) 7 0 = 0 →
    fieldOf (word ws 1) 7 0 = 0 → s.tableRoom die = true →
    let u := ({ s with nextId := s.nextId + 1 } : State).cqAdvance die
    exec (.cqLaunch die) s = .next { u.setDie die { u.die die with cqRuns := (u.die die).cqRuns ++ [{ n := n, kind := 0 }] } with
      works := u.works ++ [{ id := s.nextId, addr := word ws 1, die := die, privileged := true, cq := some (die, n) }] }) ∧
  (∀ (s u : State) (die n : Nat) (ws : List W64) (ps : List Piece), s.cqHead die = some (n, ws) → headGood s die → fieldOf (word ws 0) 7 0 = 1 →
    let qp := fieldOf (word ws 0) 23 16
    let q := s.qpInfo die qp
    tableGood s die (pairWords s die qp) → qp < 64 → fieldOf (word ws 1) 5 0 = 0 → s.qpAbsent die qp q.owner = none → (s.qpList die qp).length < 256 →
    engineOk s { master := .command die, asid := 0, vmid := 0 } (word ws 1).toNat 64 .read (.command die) u ps →
    let es := bytesW64s 8 (u.readAll ps)
    let r := rdoneOf u die qp es
    tableGood u die (counterWords (qCounters es)) → tableGood u r.1 (counterWords r.2) →
    qRefused es q.peer = false → u.countersAbsent die q.owner (qCounters es) = none → u.countersAbsent r.1 q.owner r.2 = none →
    let v := (u.cqAdvance die).qpPush die qp es q.owner q.vmid (some (die, n))
    exec (.cqPost die) s = .next (v.setDie die { v.die die with cqRuns := (v.die die).cqRuns ++ [{ n := n, kind := 1 }] })) ∧
  (∀ (s : State) (die n : Nat) (ws : List W64), s.cqHead die = some (n, ws) → headGood s die → fieldOf (word ws 0) 7 0 = 2 →
    let h := fieldOf (word ws 0) 23 16
    tableGood s die (counterWords [h]) → s.hcUnknown die h = false → word ws 2 ≤ s.hc die h →
    exec (.cqWait die) s = .next ((s.setDie die { s.die die with cqWait := none }).cqAdvance die)) ∧
  (∀ (s : State) (die n : Nat) (ws : List W64), s.cqHead die = some (n, ws) → headGood s die → fieldOf (word ws 0) 7 0 = 3 →
    tableGood s die (counterWords [fieldOf (word ws 0) 23 16]) → s.hcUnknown die (fieldOf (word ws 0) 23 16) = false →
    exec (.cqAdd die) s = .next ((s.cqAdvance die).hcAdd die (fieldOf (word ws 0) 23 16) (word ws 2))) ∧
  (∀ s : State, s.ckpt.busy = true → s.ckpt.started = false →
    exec .ckptGo s = .next { s.stopAll with ckpt := { s.ckpt with started := true } }) ∧
  (∀ s : State, s.ckpt.busy = true → s.ckpt.started = true → (∀ k ∈ s.gangs, s.gangHeld k = true) →
    let u := s.writeBackAll
    let ends (limit : Nat) (err : Bool) : Prop := exec (.ckptComplete true) s = .next ({ u with
      fresh := u.fresh + 1, sends := u.sends ++ [.checkpoint u.ckpt.peer u.ckpt.links.toNat (({ u with fresh := u.fresh + 1 } : State).poolImage limit)]
      ckpt := { u.ckpt with busy := false, started := false, err := err } } : State).goOn
    ((∀ b ∈ u.badBursts, u.memEnd ≤ b.burst / 2 * 128) → ends u.memEnd u.ckpt.err) ∧
    (∀ b ∈ u.badBursts, b.burst / 2 * 128 < u.memEnd → (∀ c ∈ u.badBursts, b.burst ≤ c.burst) → ends (b.burst / 2 * 128) true)) ∧
  (∀ s : State, exec .ckptErrClear s = .next { s with ckpt := { s.ckpt with err := false } }) ∧
  (∀ (s : State) (a : Nat) (bs : List Byte), isRegSpace a = false → a < 2 ^ 48 → s.aelmel.state = .run → s.hostRange a bs.length = true →
    exec (.hostWrite a bs) s = .next (s.homeWriteAll a bs 0)) ∧
  (∀ (s : State) (die : Nat) (bs : List Byte), s.aelmel.state = .run → die < s.ndies →
    exec (.hostWrite (2 ^ 48 + 8 * die) bs) s = .next (s.setDie die { s.die die with rung := true })) ∧
  (∀ (s : State) (n : Nat), s.aelmel.state ≠ .reset →
    (n ≤ 57 → exec (.hostRead (2 ^ 49) n) s = .next { s with notes := s.notes ++
      [.readReturned (2 ^ 49) ((List.range n).map Config.identityKey)] }) ∧
    (n ≤ Config.identityCertBytes → exec (.hostRead (2 ^ 49 + 64) n) s = .next { s with notes := s.notes ++
      [.readReturned (2 ^ 49 + 64) ((List.range n).map Config.identityCert)] })) ∧
  (∀ (s : State) (a n : Nat), isRegSpace a = false → a < 2 ^ 48 → s.aelmel.state = .run → s.hostRange a n = true →
    exec (.hostRead a n) s = .next { s with notes := s.notes ++ [.readReturned a (s.homeRead a n)] }) ∧
  (∀ s : State, ∃ t, exec .moduleReset s = .next t ∧ t.aelmel.state = .reset ∧ t.time = 0 ∧ t.groups = (State.resetOf s.part).groups ∧ t.mem = s.mem ∧
    t.sram = [] ∧ t.log = [] ∧ t.teams = [] ∧ t.part = s.part) ∧
  (∀ s : State, (s.aelmel.state = .reset → s.aelmel.flashOk = true →
      exec .aelmelVerify s = .next { s with aelmel := { s.aelmel with state := .verify, fromBuf := false, verified := false } }) ∧
    (s.aelmel.state = .reset → s.aelmel.flashOk = false →
      exec .aelmelVerify s = .next { s with aelmel := { s.aelmel with state := .recovery, reason := 4 } }) ∧
    (s.aelmel.state = .verify → s.aelmel.verified = false → ∀ r, s.aelmel.refuses s.aelmel.image = some r →
      exec .aelmelVerify s = .next { s with aelmel := { s.aelmel with state := .recovery, reason := r } })) ∧
  (∀ s : State, s.aelmel.state = .verify → s.aelmel.verified = true → ∃ t, exec .aelmelBoot s = .next t ∧ t.aelmel.state = .run ∧ t.time = 0 ∧
    t.mem = memWrite s.mem 0 (memRead s.aelmel.image 0x200 (imageLen s.aelmel.image)) ∧
    ∀ n, n < s.ncores → startedCore (imageEntry s.aelmel.image) n ∈ t.groups) ∧
  (∀ s : State, s.aelmel.state = .recovery → s.aelmel.reason ≠ 5 →
    exec .aelcmdVerifyBoot s = .next { s with aelmel := { s.aelmel with state := .verify, reason := 0, fromBuf := true, verified := false } }) ∧
  (∀ s : State, s.aelmel.state = .run → exec .aelcmdAttest s = .next { s with aelmel := { s.aelmel with
    recbuf := memWrite s.aelmel.recbuf 0 (s.reportBody ++ (List.range 114).map (Config.identitySign s.reportBody)) } } ∧
    s.reportBody.length = 128) ∧
  (∀ (s : State) (off : Nat) (bs : List Byte), s.aelmel.state = .recovery → off + bs.length ≤ 2 ^ 26 + 512 →
    exec (.recbufWrite off bs) s = .next { s with aelmel := { s.aelmel with recbuf := memWrite s.aelmel.recbuf off bs } }) ∧
  (∀ (s : State) (g : Group) (k : CoreRegs), s.coreGroup k.num = some g → g.core = some k →
    (g.hold = .wfi → s.servedBad k ≠ none → exec (.wfiWake k.num) s = .next (s.haltCore g)) ∧
    (g.hold = .wfi → s.servedBad k = none → s.ringWork k = true → exec (.wfiWake k.num) s = .next (s.onGroup g.id fun h => { h with hold := .none })) ∧
    (g.hold = .halted → k.num < s.ncores →
      exec (.stokerCoreRestart k.num) s = .next (s.onGroup g.id fun h => { h with hold := .none, stall := none, pend := none })) ∧
    (g.hold ≠ .halted → k.num < s.ncores → exec (.stokerHaltOnFault k.num) s = .next { s.onGroup g.id fun h => { h with hold := .halted } with notes := s.notes ++ [.coreHalted k.num] })) ∧
  (∀ (s u : State) (q : PortQueue) (asid va : Nat) (bs : List Byte) (ps : List Piece), s.hasStorage = true →
    s.portWaits q.queue = false → bs ≠ [] → s.ckpt.busy = false → boundAs s q asid →
    let ag : Agent := { master := .storPort, asid := asid, vmid := 0 }
    let v : State := match q.bind with | some a => { s with portQueues := aset s.portQueues q.queue a } | none => s
    (v.resolve ag (BitVec.ofNat 64 va) bs.length .write none = (u, .ok ps) →
      exec (.storagePortTransfer q va true bs) s = .next (u.stackWrite ps bs)) ∧
    (v.resolve ag (BitVec.ofNat 64 va) bs.length .read none = (u, .ok ps) →
      (∀ p ∈ ps, isRegSpace p.pa = false ∧ ∀ b ∈ u.badBursts, burstIn p.pa p.n b.burst = false) →
      exec (.storagePortTransfer q va false bs) s =
        .next { u with sends := u.sends ++ [.storage asid va (ps.flatMap fun p => memRead u.mem p.pa p.n)] }))

namespace Sys2Proof.Stated
open Sys2Proof.Machine

/-! ## The machine as a whole -/

/-- The schedule has been asked for this step. -/
def asked (s : State) : State := { s with sched := if s.chosen = true then s.sched else s.sched + 1, chosen := false }

/-- A context's turn: it is taken from the queue of the clock. -/
def turnOf (s : State) (id : Nat) (rest : List Nat) : State := { asked s with issueq := rest, cur := id }

/-- Cause codes of R358. -/
def trapCode : Cause → Nat
  | .illop => 1 | .fmtx => 2 | .wovf => 3 | .wunf => 4 | .illconv => 5 | .accrange => 6 | .rlxop => 7 | .embreq => 8
  | .barbusy => 9 | .deadline => 10 | .quota => 11 | .absent => 12 | .swtrap => 13

/-- TRAPCAUSE (R359): CAUSE, POS, SETA, SETB, HELD, REPLAY. -/
def causeOf (t : PendTrap) : W64 :=
  BitVec.ofNat 64 (trapCode t.cause + 2 ^ 10 * t.pos + 2 ^ 14 * t.seta + 2 ^ 18 * t.setb + (if t.held then 2 ^ 22 else 0)
    + (if t.replay.isSome then 2 ^ 23 else 0))

/-- A group as R361 steps 2 to 4 leave it. -/
def inHandler (h : Group) (t : PendTrap) : Group :=
  { h with
      csrs := { h.csrs with trapcause := causeOf t, trappc := t.pc, trapinfo := t.info }
      frame := some { lpc := h.flow.lpc, fl := h.flow.fl, trap := t }
      flow := { h.flow with
        tl := true
        lpc := (List.range h.width).map fun i =>
          if h.flow.exited.getLsbD i then h.flow.lpc.getD i 0 else h.csrs.trapvec.extractLsb' 0 32 &&& 0xFFFFFFFC#32
        fl := List.replicate h.width h.flow.links.length }
      clause := none, pend := none, stall := none, hold := .none }

/-- The context still runs at its level, with no trap, freeze, hold or stall. -/
def goesOn (g : Group) (u : State) (h : Group) : Prop :=
  u.group? g.id = some h ∧ h.pend = none ∧ h.flow.tl = g.flow.tl ∧ h.hold = .none ∧ h.frozen = none ∧ h.stall = none

/-- The instructions that touch nothing but registers: IV, IS, ICV, ICS, PK, FV, FS, FCV, CVT, NQ, XL, PR, and the moves
between registers. -/
def registerOnly (maj min : Nat) : Prop :=
  (1 ≤ maj ∧ maj ≤ 11) ∨ maj = 13 ∨ (maj = 12 ∧ min ∈ [0, 1, 2, 3, 4, 8, 12])

/-- The sticky flags that such an instruction may set (R163): DZ and SAT of the integer families, NV, DZ, OF, UF, NX of the
float families, those and SAT and NSAT of conversions. -/
def flagsOf (maj : Nat) : W64 :=
  if maj = 1 ∨ maj = 2 then 0x22#64 else if maj = 5 then 0x20#64 else if maj = 6 ∨ maj = 7 ∨ maj = 11 then 0x1F#64
  else if maj = 9 ∨ maj = 10 then 0x23F#64 else 0#64

/-- Bytes at `pa` of a write. -/
def written (s : State) (pa : Nat) (bs : List Byte) (a : Nat) : Byte := if pa ≤ a ∧ a < pa + bs.length then bs.getD (a - pa) 0 else s.home a

end Sys2Proof.Stated

open Sys2Proof Sys2Proof.Machine Sys2Proof.Stated

/-- R13, R22 to R35, R40: for every well-formed instruction, with every operand, and for every clause header, the decoder reads
from the words that the encoder writes, whatever follows them, that instruction and its length. -/
def Obligations.DecodeInvertsEncode : Prop :=
  ∀ (i : Instr) (rest : List W32), i.isEvent = false → i.wellFormed = true →
    decode (encode i ++ rest) = .ok (i, (encode i).length)

/-- R13, R24, R27, R31, R35, R40, R45: words written out from the encoding tables decode to the instructions they stand for, and
a reserved major, a reserved minor and a header word with a length are refused by name. -/
def Obligations.DecodedWords : Prop :=
  decode [0x0F0000FC#32] = .ok (.clauseBoundary { cnt := 0, setb := 15, seta := 0, wait := 0 }, 1) ∧
  decode [0x1030044B#32, 0x27000000#32, 0x00404000#32, 0x00000040#32, 0x00000000#32] =
    .ok (.ld32 { fs := false, b := 3, a := 0, d := 4
                 ext := some { xmod := 2, pinv := false, pred := 7, c := 0, pb := 0, pa := 0, zero := 0, hint := 2, abs := false
                               nbp := 0, nb := false, scope := 4, place := 0 }
                 lit := some 0x40 }, 5) ∧
  decode [0x1030044A#32, 0x00000040#32, 0x00000000#32] =
    .ok (.ld32 { fs := false, b := 3, a := 0, d := 4, ext := none, lit := some 0x40 }, 3) ∧
  decode [0x00208304#32] = .ok (.iadd { fs := false, b := 2, a := 2, d := 3, ext := none, lit := none }, 1) ∧
  decode [0x00000000#32] = .error .reservedMajor ∧
  decode [0x7C000004#32] = .error .reservedMinor ∧
  decode [0x0F0000FD#32] = .error .badHeader ∧
  decode [0x00208305#32] = .error .truncated

/-- R36, R43, R45, R295: a step takes the head of the agenda, else the event that the free schedule picks (the model's choice,
log entry 5), else the turn of the next context chosen to issue. Where the bytes at its program counter decode to an instruction, the step of a stoker core is that instruction's meaning, and of a
tile group it is that with the group's quarters and lanes counted; one that cannot issue takes a later age, and one that a taken
quarter keeps from it has lost the clock's arbitration; at a clause boundary it is the header's. A fetch reads
four bytes, little-endian, at the translation of the address: those of the home slice as it stands, which is the model's choice
(log entry 34, DESIGN CHOICE). -/
def Obligations.StepRunsDecodedInstruction : Prop :=
  (∀ (s : State) (i : Instr) (l : List Instr), s.agenda = i :: l → step s = exec i { s with agenda := l }) ∧
  (∀ s : State, s.agenda = [] →
    (s.issueq = [] → s.aelmel.state = .run → step s = exec (s.picked.getD .issueArbitration) (asked s)) ∧
    (∀ i : Instr, s.picked = some i → step s = exec i (asked s))) ∧
  (∀ (s u : State) (id : Nat) (rest : List Nat) (g : Group) (cl : Clause) (ws : List W32) (i : Instr) (n : Nat),
    s.agenda = [] → s.picked = none → s.issueq = id :: rest →
    let v := turnOf s id rest
    v.group? id = some g → v.mayIssue g = true → g.clause = some cl → v.stopsInSeq g cl = false →
    v.fetchInstr g cl.next = (u, .ok ws) → decode ws = .ok (i, n) →
    let k := u.lanesFor g cl ws
    let muted := ∃ p, u.groupTile g = some p ∧ clusterOf p ∈ u.muted
    (g.core.isSome = true → step s = exec i u) ∧
    (g.core = none → ¬ muted → u.quartersTaken g = false → u.slewHolds g k = false →
      (∀ t, exec i u = .next t → t.hasIssued g.id = true → step s = .next ((t.spend g k).ageLater g)) ∧
      (∀ t, exec i u = .next t → t.hasIssued g.id = false → step s = .next (t.ageLater g)) ∧
      (∀ f, exec i u = .fault f → step s = .fault f)) ∧
    (∀ t, g.core = none → muted ∨ u.quartersTaken g = true ∨ u.slewHolds g k = true → exec i u = .next t →
      (t.unready g.id = true → step s = .next (t.ageLater g)) ∧
      (t.unready g.id = false → muted → step s = .next u) ∧
      (t.unready g.id = false → ¬ muted → u.quartersTaken g = true →
        step s = .next (u.onGroup g.id fun h => { h with lost := h.lost + 1 })) ∧
      (t.unready g.id = false → ¬ muted → u.quartersTaken g = false → step s = .next u))) ∧
  (∀ (s u : State) (id : Nat) (rest : List Nat) (g h : Group) (addr : W64) (set : Mask) (w : W32), s.agenda = [] →
    s.picked = none → s.issueq = id :: rest →
    let v := turnOf s id rest
    v.group? id = some g → v.mayIssue g = true → g.clause = none → g.boundary = (h, some (addr, set)) →
    v.stopsHere h = false → v.boundaryDue h = none → v.fetchWord h addr = (u, .ok w) → headerBad w = none →
    step s = afterHeader id (exec (.clauseBoundary (decodeHeader w)) u)) ∧
  (∀ (s u : State) (g : Group) (a : W64) (pa attr : Nat), s.translate (s.agent g) a 4 .fetch none = (u, .ok pa attr) →
    regUnknown pa 4 = false → u.badRead pa 4 = false →
    s.fetchWord g a = (u, .ok (u.home (pa + 3) ++ u.home (pa + 2) ++ u.home (pa + 1) ++ u.home pa)))

/-- R65, R309, R328, R344 to R347, R351, R367, R374, R380, R381, R397, R399, R401, R403: what reset leaves, of the values that
the spec gives: TIME 0, Aelmel in RESET, the cores not started and with no limit, every collective counter 0, the die's,
cluster's and partition's registers, HEALTH. That there are sixteen cores, and 8 spares of die 1, holds because
`State.reset` is a JCF-9420-A, and that the cores stand halted is how they are not started: both are the model's choice (log
entries 7 and 15). -/
def Obligations.ResetValues : Prop :=
  let s := State.reset
  s.time = 0 ∧ s.aelmel.stat = 0 ∧ s.launchid = 0 ∧ s.ckpt = {} ∧ s.groups.length = 16 ∧
  (∀ g ∈ s.groups, g.hold = .halted ∧ g.asid = 0 ∧ g.vmid = 0 ∧ g.flow.tl = false ∧ g.csrs.flags = 0 ∧ g.csrs.trapcause = 0 ∧
    g.csrs.trappc = 0 ∧ g.csrs.trapinfo = 0 ∧ g.csrs.deadline = 0 ∧
    ∃ k : CoreRegs, g.core = some k ∧ k.vmtbase = 0 ∧ k.quota = BitVec.allOnes 64 ∧ k.qused = 0 ∧
      k.fring = { base := 0, en := false, log2n := 6 } ∧ k.hring = { base := 0, en := false, log2n := 6 }) ∧
  (∀ d, (s.die d).hyst = 8 ∧ (s.die d).maxPairs = 4 ∧ (s.die d).exp = 21 ∧ (s.die d).ctxBase = 0 ∧ (s.die d).ctxSize = 0 ∧
    (s.die d).collBase = 0 ∧ (s.die d).collEn = false ∧ (s.die d).ways = 0 ∧ ∀ n, s.hc d n = 0) ∧
  (∀ n, (s.cluster n).pattern = 0xFFFF ∧ (s.cluster n).level = 300 ∧ (s.cluster n).part = 0 ∧ (s.cluster n).en = true ∧
    (s.cluster n).halfN = 64 ∧ (s.cluster n).strLen = 2 ∧ (s.cluster n).strN = 6 ∧ (s.cluster n).events = 0) ∧
  (∀ n, (s.partn n).rise = 0xFFFF) ∧
  s.health = { cecnt := 0, uecnt := 0, spare0 := 8, spare1 := 8, tmax := 0, hot := false, replace := false }

/-- Device memory, the flash and RECBUF are in their canonical form after reset, and the home slices agree with memory. -/
def Obligations.ResetMemoryIsCanonical : Prop := State.reset.memWf = true ∧ State.reset.linesAgree = true

/-- From every state whose memories are in canonical form, a step leaves them so. -/
def Obligations.StepKeepsMemoryCanonical : Prop := ∀ s t : State, s.memWf = true → step s = .next t → t.memWf = true

/-- R68, R69, R72, R257, R272: a store performed at home changes the bytes it covers and no other byte of memory, whatever lines
the slices fill or evict for it; a tile's store leaves every byte at home as it is until it is performed, a stoker core's
and the host's are performed at once (of a core: the model's choice, log entry 22, DESIGN CHOICE). Where the slices agree with memory they go on to do so. -/
def Obligations.StoresChangeTheirBytes : Prop :=
  (∀ (s : State) (pa hint : Nat) (bs : List Byte), s.memWf = true → s.linesAgree = true → pa % 128 + bs.length ≤ 128 →
    isRegSpace pa = false →
    let u := s.homeWrite pa bs hint
    (∀ a, u.home a = written s pa bs a) ∧ u.linesAgree = true ∧ u.memWf = true ∧ u.groups = s.groups ∧ u.tiles = s.tiles) ∧
  (∀ (s t : State) (tile n : Nat) (e : PathEntry) (bs : List Byte), s.memWf = true → s.linesAgree = true →
    (s.tile tile).path.find? (fun p => p.id == n) = some e → e.op = .store bs → e.log = none → isRegSpace e.pa = false → e.pa % 128 + bs.length ≤ 128 →
    s.pathsReady n = true → exec (.storePerformHome tile n) s = .next t →
    (∀ a, t.home a = written s e.pa bs a) ∧ t.linesAgree = true ∧ t.groups = s.groups) ∧
  (∀ (s t : State) (pa : Nat) (bs : List Byte), s.memWf = true → s.linesAgree = true → isRegSpace pa = false → pa < 2 ^ 48 →
    s.aelmel.state = .run → s.hostRange pa bs.length = true → exec (.hostWrite pa bs) s = .next t →
    (∀ a, t.home a = written s pa bs a) ∧ t.linesAgree = true ∧ t.groups = s.groups ∧ t.tiles = s.tiles) ∧
  (∀ (s : State) (g : Group) (e : PathEntry) (p : Place) (bs : List Byte), s.memWf = true → s.linesAgree = true →
    let u := s.storePlace g e p bs
    (g.core = none → ∀ a, u.home a = s.home a) ∧
    (∀ q : Piece, g.core.isSome = true → p = .phys [q] → q.n = bs.length → isRegSpace q.pa = false → q.pa % 128 + bs.length ≤ 128 →
      (∀ a, u.home a = written s q.pa bs a) ∧ u.tiles = s.tiles ∧ u.groups = s.groups))

/-- R36, R137, R138, R141: at a clause boundary the least program counter of the live lanes is the issue address and the lanes
that stand there the lane set; the clause opens once every flag of WAIT is clear (at trap level, of the handler's own
instructions, R365). The position and address go on by one
instruction; after the last, exited lanes read all ones, each lane of the set stands at its target or at the header that
follows, the others stay; the top loop entry that ends there counts down and sends its lanes back, or is popped. -/
def Obligations.ClausesOpenAndEnd : Prop :=
  (∀ (s : State) (g h : Group) (w : Header) (addr : W64) (set : Mask), s.group? s.cur = some g → s.mayIssue g = true →
    g.clause = none → g.boundary = (h, some (addr, set)) →
    let u := s.setGroup h
    u.stopsHere h = false → u.boundaryDue h = none → headerBad (encodeHeader w) = none →
    let up : Prop := if h.flow.tl = true then ∃ e ∈ u.log, e.grp = h.id ∧ e.tlevel = true ∧ w.wait.getLsbD e.flag = true
      else ∃ k, k < 12 ∧ w.wait.getLsbD k = true ∧ h.cf.getD k 0 ≠ 0
    (¬ up →
      exec (.clauseBoundary w) s = .next (u.onGroup g.id fun k => { k with
        stall := none
        clause := some { header := addr, next := addr + 4, cnt := w.cnt.toNat + 1, seta := w.seta.toNat, setb := w.setb.toNat
                         lanes := set } })) ∧
    (up →
      exec (.clauseBoundary w) s = .next (u.onGroup g.id fun k => { k with stall := some (.flags w.wait) }))) ∧
  (∀ (g h : Group) (addr : W64) (set : Mask), g.boundary = (h, some (addr, set)) → ∃ pc : W32,
    addr = (h.codehi ++ pc).zeroExtend 64 ∧ (∃ i ∈ h.live, h.flow.lpc.getD i 0 = pc) ∧
    (∀ i ∈ h.live, pc ≤ h.flow.lpc.getD i 0) ∧
    ∀ i, i < 64 → (set.getLsbD i = true ↔ i ∈ h.live ∧ h.flow.lpc.getD i 0 = pc)) ∧
  (∀ (g : Group) (cl : Clause) (n : Nat), g.clause = some cl → cl.seq = none →
    let next := cl.next + BitVec.ofNat 64 (4 * n)
    let fall := next.extractLsb' 0 32 &&& 0xFFFFFFFC#32
    let target (i : Nat) : W32 := ((cl.targets.find? fun p => p.1 == i).map fun p => p.2.extractLsb' 0 32 &&& 0xFFFFFFFC#32).getD fall
    (cl.pos + 1 ≠ cl.cnt →
      g.advance n true = { g with stall := none, lost := 0, clause := some { cl with next := next, pos := cl.pos + 1 } }) ∧
    (cl.pos + 1 = cl.cnt →
      let h := g.advance n true
      h.clause = none ∧
      (∀ i, i < g.width → g.flow.exited.getLsbD i = true → h.flow.lpc.getD i 0 = 0xFFFFFFFF#32) ∧
      (∀ i, i < g.width → g.flow.exited.getLsbD i = false → cl.lanes.getLsbD i = false →
        h.flow.lpc.getD i 0 = g.flow.lpc.getD i 0) ∧
      ((g.flow.tl = true ∨ ∀ e l, g.flow.loops = e :: l → e.fl ≠ g.flow.links.length ∨ e.endh ≠ cl.header) →
        h.flow.loops = g.flow.loops ∧ ∀ i, i < g.width → g.flow.exited.getLsbD i = false → cl.lanes.getLsbD i = true →
          h.flow.lpc.getD i 0 = target i) ∧
      (∀ e l, g.flow.tl = false → g.flow.loops = e :: l → e.fl = g.flow.links.length → e.endh = cl.header → 1 < e.n.toNat →
        (∃ i, i < g.width ∧ g.flow.exited.getLsbD i = false ∧ cl.lanes.getLsbD i = true ∧ target i = fall ∧
          g.flow.fl.getD i 0 = g.flow.links.length) →
        h.flow.loops = { e with n := e.n - 1 } :: l ∧ ∀ i, i < g.width → g.flow.exited.getLsbD i = false →
          cl.lanes.getLsbD i = true → target i = fall → g.flow.fl.getD i 0 = g.flow.links.length →
          h.flow.lpc.getD i 0 = e.start.extractLsb' 0 32 &&& 0xFFFFFFFC#32) ∧
      (∀ e, g.flow.tl = false → g.flow.loops = [e] → e.fl = g.flow.links.length → e.endh = cl.header → e.n = 1 →
        (∃ i, i < g.width ∧ g.flow.exited.getLsbD i = false ∧ cl.lanes.getLsbD i = true ∧ target i = fall ∧
          g.flow.fl.getD i 0 = g.flow.links.length) →
        h.flow.loops = [] ∧ ∀ i, i < g.width → g.flow.exited.getLsbD i = false → cl.lanes.getLsbD i = true →
          h.flow.lpc.getD i 0 = target i)))

/-- R359, R361, R363: a local trap waits for the group's earlier variable-latency instructions, then writes TRAPCAUSE, TRAPPC and
TRAPINFO, saves program counters and frame levels, sets TL, and puts every lane that has not exited at VEC. With VEC 0 it is
a freeze with cause 0x24, raised at trap level one with cause 0x23; either halts a stoker core. Where the fault buffer has no room
the group stalls and the freeze is owed (R368). That an instruction which a delivered QUOTA holds up is not waited for is the
model's choice (log entry 56, DEDUCED). -/
def Obligations.TrapEntry : Prop :=
  (∀ (s u : State) (g : Group) (t : PendTrap) (w : W32), s.group? g.id = some g → g.pend = some t → g.hold = .trapEntry →
    g.frozen = none → g.stall = none → s.gangRuns g = true →
    (∀ k : CoreRegs, s.earlierDone g = true → g.csrs.trapvec = 0 → g.core = some k → exec (.localTrapEntry g.id) s = .next
      { s.onGroup g.id fun k => { k with
          csrs := { k.csrs with trapcause := causeOf t, trappc := t.pc, trapinfo := t.info }, pend := none, hold := .halted } with
        notes := s.notes ++ [.coreHalted k.num] }) ∧
    (s.earlierDone g = true → g.csrs.trapvec ≠ 0 → g.sameHi g.csrs.trapvec = true → s.fetchWord g g.csrs.trapvec = (u, .ok w) →
      headerBad w = none → exec (.localTrapEntry g.id) s = .next (u.onGroup g.id fun h => inHandler h t)) ∧
    (s.earlierDone g = false → exec (.localTrapEntry g.id) s = .next s)) ∧
  (∀ (s : State) (g : Group) (t : PendTrap), s.group? g.id = some g → g.flow.tl = false →
    let h : Group := { g with pend := some t, hold := .trapEntry, stall := none }
    let v := s.onGroup g.id fun k => { k with pend := some t, hold := .trapEntry, stall := none }
    ((∃ e ∈ s.log, e.grp = g.id ∧ e.state = .running ∧ s.heldByQuota e = false) → s.raise g.id t = v) ∧
    ((∀ e ∈ s.log, e.grp = g.id → e.state = .running → s.heldByQuota e = true) →
      (∀ u w, g.csrs.trapvec ≠ 0 → g.sameHi g.csrs.trapvec = true → v.fetchWord h g.csrs.trapvec = (u, .ok w) → headerBad w = none →
        s.raise g.id t = u.onGroup g.id fun k => inHandler k t) ∧
      (∀ k : CoreRegs, g.core = some k → g.csrs.trapvec = 0 → s.raise g.id t =
        { v.onGroup g.id fun k => { k with
            csrs := { k.csrs with trapcause := causeOf t, trappc := t.pc, trapinfo := t.info }, pend := none, hold := .halted } with
          notes := s.notes ++ [.coreHalted k.num] }) ∧
      (g.core = none → (g.csrs.trapvec = 0 ∨ g.sameHi g.csrs.trapvec = false) →
        let x := v.onGroup g.id fun k => { k with
          csrs := { k.csrs with trapcause := causeOf t, trappc := t.pc, trapinfo := t.info }, pend := none, hold := .none }
        ∀ n u, x.postFault (mkFault (x.agent h) t.pc.toNat 0 0x24 0 0) (.group g.id) = some (n, u) →
          s.raise g.id t = u.onGroup g.id fun k => { k with frozen := some { cause := 0x24, token := n }, owed := none }))) ∧
  (∀ (s : State) (g : Group) (t : PendTrap), s.group? g.id = some g → g.flow.tl = true →
    (∀ k : CoreRegs, g.core = some k → s.raise g.id t =
      { s.onGroup g.id fun h => { h with hold := .halted } with notes := s.notes ++ [.coreHalted k.num] }) ∧
    (g.core = none → ∀ n u, s.postFault (mkFault (s.agent g) t.pc.toNat 0 0x23 0 0) (.group g.id) = some (n, u) →
      s.raise g.id t = u.onGroup g.id fun h => { h with frozen := some { cause := 0x23, token := n }, owed := none }) ∧
    (g.core = none → s.postFault (mkFault (s.agent g) t.pc.toNat 0 0x23 0 0) (.group g.id) = none →
      s.raise g.id t = s.onGroup g.id fun h => { h with
        stall := some .resource, owed := some { cause := 0x23, va := t.pc.toNat, ipa := 0 } }))

/-- R32, R38, R39, R42, R43, R364: of every instruction, before its family's own checks: a field that the checks of steps 3 to 5
refuse raises that trap at the instruction; SY below privileged level, `eret` at user level and ABS at user level raise
ILLOP 0x0B; a destination still to be written and a full operand log stall it; a context that may not issue does nothing. -/
def Obligations.ChecksComeFirst : Prop :=
  ∀ (i : Instr) (o : Ops) (maj min : Nat) (s t : State) (g : Group) (cl : Clause), i.ops = some o → i.majMin = some (maj, min) →
    s.group? s.cur = some g → g.clause = some cl →
    let c := s.ctx maj min o g cl
    (s.mayIssue g = false → exec i s = .next s) ∧
    (∀ p, s.mayIssue g = true → decodeChecks (s.matrixOf g) c = some p → exec i s = .next (s.raise g.id (c.trapAt p.1 p.2))) ∧
    (s.mayIssue g = true → decodeChecks (s.matrixOf g) c = none → s.headerChecks c = (t, none) →
      (maj = 0x22 ∧ g.core = none ∧ (min ≠ 2 ∨ g.flow.tl = false)) ∨ (c.e.abs = true ∧ g.core = none ∧ g.flow.tl = false) →
      exec i s = .next (t.raise g.id (c.trapAt .illop 0x0B))) ∧
    (s.mayIssue g = true → decodeChecks (s.matrixOf g) c = none → s.headerChecks c = (t, none) → privilegeChecks c = none →
      placeChecks t c = none → residencyChecks c = none → t.quotaHeld c = none → t.waitersOf g = [] →
      (t.destBusy g c.dests = true → exec i s = .next (t.onGroup g.id fun h => { h with stall := some .dest })) ∧
      (t.destBusy g c.dests = false → isVl c.f c.o = true → (g.cf.getD (if c.o.fs then cl.setb else cl.seta) 0) ≠ 63 →
        256 ≤ (t.log.filter fun e => e.tile == t.logOf g).length →
        exec i s = .next (t.onGroup g.id fun h => { h with stall := some .logFull })))

/-- R26, R36, R39, R133, R134, R163: an instruction of the register families that goes on changes its destinations, sets flags of
its family and clears none, moves on in its clause, and leaves everything else as it was: other registers and predicates,
the special registers, stacks and completion flags, every other context, and all of memory. -/
def Obligations.RegisterFrame : Prop :=
  ∀ (i : Instr) (o : Ops) (maj min : Nat) (s t u : State) (g h : Group) (cl : Clause), i.ops = some o → i.majMin = some (maj, min) →
    registerOnly maj min → Clear s maj min o g cl t → exec i s = .next u → goesOn g u h →
    let c := s.ctx maj min o g cl
    ({ u with groups := [] } : State) = { t with groups := [] } ∧
    (∀ a, u.home a = t.home a) ∧
    (cl.pos + 1 < cl.cnt → t = s) ∧
    (∀ k, k ≠ g.id → u.group? k = t.group? k) ∧
    ∃ k : Group, t.group? g.id = some k ∧
      (∀ d, d ∉ c.dests → h.slot d = k.slot d ∧ h.sval d = k.sval d ∧ h.pval d = k.pval d) ∧
      h.csrs.flags &&& ~~~(flagsOf maj) = k.csrs.flags &&& ~~~(flagsOf maj) ∧ h.csrs.flags &&& k.csrs.flags = k.csrs.flags ∧
      h = { k with
        regs := h.regs, csrs := { k.csrs with flags := h.csrs.flags }
        flow := { k.flow with lpc := h.flow.lpc, loops := h.flow.loops }
        clause := h.clause, stall := none, lost := 0 }

/-- R50: an address with a bit set above bit 51 is a permission violation for every master and every access, and no translation
is attempted: nothing changes. -/
def Obligations.HighAddressBitsViolatePermission : Prop :=
  ∀ (s : State) (ag : Agent) (va : W64) (n : Nat) (k : Kind) (work : Option Nat), 2 ^ 52 ≤ va.toNat →
    s.translate ag va n k work = (s, .perm)

/-- Every event of memory, copies, the matrix unit, the kiln and the distribution of work takes effect where it is due, and the
machine goes on: what each of them leaves in the fields that its rule names (R38, R48, R55, R58, R68, R70, R106, R109, R110, R122,
R206 to R220, R232 to R248, R289 to R311, R316, R320, R361, R367, R375). The model's choice: walks by one VMTBASE (log entry 9), the
bank step (log entry 11), a copy's lane in two transfers and the acknowledgement of `cpmc` with a receiver's first lane (log entry 18), a
work without DEPCTR ready as it is submitted and a launch named as it becomes ready (log entry 23), the shape of a step on a panel that is not fenced (log entry 53). -/
def Obligations.EventsTakeEffect : Prop :=
  -- memory
  ((∀ s : State, s.aelmel.clockStopped = false → exec .issueArbitration s = .next (masterClock s)) ∧
   (∀ (s : State) (e : LogEntry) (g : Group) (lanes : Nat), s.entry? e.id = some e → s.group? e.grp = some g →
     s.residentGroup g = true → e.state = .running → e.untranslated = false → notHeld g e →
     exec (.vlComplete e.id lanes) s = .next (s.completeEntry g e lanes)) ∧
   (∀ (s : State) (tile n : Nat) (e : PathEntry) (bs : List Byte), (s.tile tile).path.find? (fun p => p.id == n) = some e →
     e.op = .store bs → s.pathsReady n = true →
     ∃ t, exec (.storePerformHome tile n) s = .next t ∧ ∀ p ∈ (t.tile tile).path, p.id ≠ n) ∧
   (∀ (s : State) (tile line : Nat), ∃ t, exec (.tileCacheLineDrop tile line) s = .next t ∧
     ∀ l ∈ (t.tile tile).cache, l.line ≠ line) ∧
   (∀ (s u : State) (tile va asid vmid vmt kind : Nat) (r : TRes) (e : TlbEntry), tile < 1000 → va < 2 ^ 52 →
     let ag : Agent := { master := .tile tile, asid := asid, vmid := vmid }
     s.walkWanted (.tile tile) va asid vmid = true → s.tlbFind ag va = none → s.vmtbase = some vmt →
     s.walk vmt ag va 1 (kindOfNum kind) = (u, r, some e) →
     exec (.translationWalk tile va asid vmid kind) s = .next (u.tlbFill (.tile tile) e)) ∧
   (∀ (s : State) (die n : Nat) (g : Gather), (s.die die).gathers[n]? = some g → s.badRead g.desc 8 = false → ∃ t,
     exec (.dirtyGatherWriteback die n) s = .next t ∧ (t.die die).gathers = (s.die die).gathers.eraseIdx n) ∧
   (∀ (s : State) (die : Nat) (f : FaultRec) (l : List FaultRec), (s.die die).buffer = f :: l → s.ringTakes (s.ringOf f) = true →
     ∃ t, exec (.faultRecordPost die) s = .next t ∧ (t.die die).buffer = l) ∧
   (∀ (s : State) (addr : Nat), ∃ t, exec (.uncorrectableError addr) s = .next t ∧
     t.health.uecnt = min 255 (s.health.uecnt + 1)) ∧
   (∀ s : State, ∃ t, exec .correctedError s = .next t ∧ t.health.cecnt = min 0xFFFFFFFF (s.health.cecnt + 1))) ∧
  -- traps
  (∀ (s u : State) (g : Group) (t : PendTrap) (w : W32), s.group? g.id = some g → g.pend = some t → g.hold = .trapEntry →
    g.frozen = none → g.stall = none → s.gangRuns g = true → s.earlierDone g = true → g.csrs.trapvec ≠ 0 →
    g.sameHi g.csrs.trapvec = true → s.fetchWord g g.csrs.trapvec = (u, .ok w) → headerBad w = none → u.group? g.id = some g →
    ∃ v h, exec (.localTrapEntry g.id) s = .next v ∧ v.group? g.id = some h ∧ h.flow.tl = true ∧ h.pend = none ∧ h.hold = .none ∧
      h.csrs.trapcause = causeOf t ∧ h.csrs.trappc = t.pc ∧ h.csrs.trapinfo = t.info) ∧
  -- copies
  ((∀ (s : State) (k : Copy) (l : CopyLane) (rest : List CopyLane) (tile t off : Nat),
     s.copies.find? (fun k => s.copyTile k == tile && s.copyMoves k) = some k → s.copy? k.id = some k → k.lanes = l :: rest →
     s.laneGoes k l = true → l.data = none → l.src = .loc t off → ∃ u k', exec (.bankArbitration tile) s = .next u ∧
       u.copy? k.id = some k' ∧ ∃ m ∈ k'.lanes, m.lane = l.lane ∧ m.data = some (s.windowRead t off k.n)) ∧
   (∀ (s : State) (k : Copy) (l : CopyLane) (t off : Nat), s.copy? k.id = some k → s.copyMoves k = true → s.laneGoes k l = true →
     k.lanes.find? (fun m => m.lane == l.lane) = some l → l.data = none → l.src = .loc t off →
     ∃ u k', exec (.copyTransfer k.id l.lane) s = .next u ∧
       u.copy? k.id = some k' ∧ ∃ m ∈ k'.lanes, m.lane = l.lane ∧ m.data = some (s.windowRead t off k.n)) ∧
   (∀ (s : State) (k : Copy) (l : CopyLane) (bs : List Byte) (recv off x : Nat) (tm : Team), s.copy? k.id = some k →
     s.copyMoves k = true → k.remote = true → k.mc = false → k.lanes.find? (fun m => m.lane == l.lane) = some l →
     l.data = some bs → l.dst = .loc x off → s.team? recv = some tm → recv ∈ l.recvs → s.lowerFirst k l (some recv) = false →
     tm.retired = false → s.moving tm = false ∨ k.begun l recv = true →
     ∃ u, exec (.remoteDelivery k.id l.lane recv) s = .next u ∧
       ∀ k', u.copy? k.id = some k' → ∀ m ∈ k'.lanes, m.lane = l.lane → recv ∉ m.recvs) ∧
   (∀ (s : State) (k : Copy) (l : CopyLane) (bs : List Byte), laneDue s k l → l.data = some bs → k.remote = false → k.mc = false →
     s.lowerFirst k l none = false →
     let gone (u : State) : Prop := ∀ k', u.copy? k.id = some k' → ∀ m ∈ k'.lanes, m.lane ≠ l.lane
     (∀ t off, l.dst = .loc t off → ∃ u, exec (.copyTransfer k.id l.lane) s = .next u ∧ gone u) ∧
     (∀ (va : W64) (v : State) (ps : List Piece), l.dst = .glob va →
       s.resolve (s.copyAgent k) va k.n .write (s.copyWork k) = (v, .ok ps) → v.ownOnWay k ps = false →
       ∃ u, exec (.copyTransfer k.id l.lane) s = .next u ∧ gone u)) ∧
   (∀ (s : State) (k : Copy) (l : CopyLane) (bs : List Byte) (recv off x ro : Nat) (snd : Nat × Nat) (tm : Team)
       (tab : List AckEntry), s.copy? k.id = some k → s.copyMoves k = true → k.mc = true → k.bar = some snd →
     k.recvBar = some ro → k.lanes.find? (fun m => m.lane == l.lane) = some l → l.data = some bs → l.dst = .loc x off →
     s.team? recv = some tm → recv ∈ l.recvs → s.lowerFirst k l (some recv) = false → tm.retired = false →
     s.moving tm = false ∨ k.begun l recv = true →
     recv ∈ k.acked ∨ addAck (s.ackTable tm) recv ro snd.1 snd.2 = some tab →
     ∃ u, exec (.remoteDelivery k.id l.lane recv) s = .next u ∧
       ∀ k', u.copy? k.id = some k' → recv ∈ k'.acked ∧ ∀ m ∈ k'.lanes, m.lane = l.lane → recv ∉ m.recvs) ∧
   (∀ (s : State) (k : Copy) (l : CopyLane) (bs : List Byte), laneDue s k l → l.data = some bs → k.remote = true ∨ k.mc = true →
     l.recvs = [] → ∃ u, exec (.copyTransfer k.id l.lane) s = .next u ∧ ∀ k', u.copy? k.id = some k' → ∀ m ∈ k'.lanes, m.lane ≠ l.lane) ∧
   (∀ (s : State) (n : Nat) (a : AckMsg) (tm : Team), s.acks[n]? = some a → s.team? a.team = some tm → tm.retired = false →
     s.moving tm = false → ∃ t, exec (.ackArrival n) s = .next t ∧ t.acks = s.acks.eraseIdx n)) ∧
  -- matrix and kiln
  ((∀ (s : State) (e : LogEntry) (g : Group) (n pa pb i : Nat) (tr : Bool), s.entry? e.id = some e → s.group? e.grp = some g →
     e.op = .mma n pa pb tr i → e.state = .running → s.stepsOn g e = true → s.accOlder e n = false →
     let a := (s.panelOf g pa).shown
     let b := (s.panelOf g pb).shown
     (∀ f ∈ stepFeed g e.mode a b (s.accOf g n) tr s.fresh i, f.2.undo = false) →
     i + 1 < stepCount (stepShape (geoOf g a.ctl) (geoOf g b.ctl)) →
     ∃ t e', exec (.macroOpStep e.id) s = .next t ∧ t.entry? e.id = some e' ∧ e'.op = .mma n pa pb tr (i + 1)) ∧
   (∀ (s : State) (e : LogEntry) (g : Group) (n row base : Nat), s.entry? e.id = some e → s.group? e.grp = some g →
     ((e.op = .cdrain n row base ∧ e.bound = []) ∨ ∃ fmt, e.op = .cstore fmt n ∧ e.written = 0) → e.state = .running →
     e.untranslated = false → notHeld g e → s.gangRuns g = true → s.accOlder e n = false → s.locScored e.accs = false →
     let spills := ∃ p ∈ drainElems e, ((s.accOf g n).elem p.2).overflows = true
     (modeAccr e.mode = 1 ∨ ¬ spills → ∃ t e', exec (.drainPerform e.id) s = .next t ∧ t.entry? e.id = some e' ∧
       (e.op = .cdrain n row base → e'.bound.map Prod.fst = lanesOf 64 e.lanes) ∧ (e.op ≠ .cdrain n row base → e'.written = 1)) ∧
     (modeAccr e.mode ≠ 1 → spills → ∃ t e', exec (.drainPerform e.id) s = .next t ∧ t.entry? e.id = some e' ∧
       e'.state = .suspended ∧ t.accOf g n = s.accOf g n)) ∧
   (∀ (s : State) (tm : Team), s.team? tm.id = some tm → tm.region.state = .gather →
     tm.region.g ≤ (s.joined tm.region.arrived).length →
     s.exitedSteps { tm.region with grps := (byGroupId ((s.joined tm.region.arrived).map fun p => p.1)).map fun g => g.id, arrived := [] } = [] →
     ∃ t x, exec (.rlxopenJoin tm.id) s = .next t ∧ t.team? tm.id = some x ∧ x.region.state = .open) ∧
   (∀ (s : State) (tm : Team), s.team? tm.id = some tm → tm.region.state = .open → s.allArrived tm.region = true →
     ∃ t x, exec (.kilnPassEnd tm.id) s = .next t ∧ t.team? tm.id = some x ∧ x.region.passes = tm.region.passes + 1 ∧
       (x.region.state = .settled ∨ x.region.state = .open)) ∧
   (∀ (s : State) (tm : Team), s.team? tm.id = some tm → s.passOverdue tm.region = true → s.passQuiet tm.region = true →
     ∃ t x, exec (.kilnPassAbandon tm.id) s = .next t ∧ t.team? tm.id = some x ∧ x.region.entries = [] ∧ x.region.passClocks = 0) ∧
   (∀ (s : State) (tm : Team) (g : Group) (l : List Group), s.team? tm.id = some tm → tm.region.state = .settled →
     s.allArrived tm.region = true → s.regionGroups tm.region = g :: l → g.stall = none → g.frozen = none →
     tm.region.next ≠ 0 → tm.region.committed.length ≤ tm.region.next →
     ∃ t x, exec (.rlxcloseJoin tm.id) s = .next t ∧ t.team? tm.id = some x ∧ x.region.state = .closed)) ∧
  -- works
  ((∀ (s : State) (w : Work), s.work? w.id = some w → w.job = false → w.state = .ready → w.reported = false → w.token = none →
     w.depctr = 0 → ∃ t v, exec (.launchReady w.id) s = .next t ∧ t.work? w.id = some v ∧
       (v.state = .running ∨ v.state = .rejected) ∧ v.named = true) ∧
   (∀ (s : State) (w : Work), s.work? w.id = some w → w.job = true → w.state = .ready →
     ∃ t v, exec (.jobReady w.id) s = .next t ∧ t.work? w.id = some v ∧ (v.state = .running ∨ v.state = .rejected)) ∧
   (∀ (s : State) (w : Work), s.work? w.id = some w → w.state = .submitted → w.module = 0 → w.token = none → w.words ≠ [] →
     w.owned.depctr = 0 → ∃ t v, exec (.depctrRegister w.id) s = .next t ∧ t.work? w.id = some v ∧ v.state = .ready) ∧
   (∀ (s : State) (w : Work) (lt : Nat) (fs : List Fit), s.work? w.id = some w → w.job = false → w.hasNext = true →
     s.allowed (.next w.id) = true → s.spotOf w w.nextGang = some (lt, fs) →
     ∃ t v, exec (.gangPlace w.id) s = .next t ∧ t.gangs.length = s.gangs.length + 1 ∧ t.work? w.id = some v ∧
       v.nextGang = w.nextGang + 1) ∧
   (∀ (s : State) (w : Work) (lt : Nat) (f : Fit), s.work? w.id = some w → w.job = true → w.hasNext = true →
     s.allowed (.next w.id) = true → s.jobSpot w = some (lt, f) →
     ∃ t v, exec (.jobDeal w.id) s = .next t ∧ t.gangs.length = s.gangs.length + 1 ∧ t.work? w.id = some v ∧
       v.ordinal = w.ordinal + 1 ∧ v.out = w.out + 1) ∧
   (∀ (s : State) (die cls n : Nat), s.turnOf die cls = some n → ((s.die die).deficit n cls).credited = false →
     ∃ t, exec (.tenantServe die cls) s = .next t ∧ ((t.die die).deficit n cls).credited = true ∧
       ((t.die die).deficit n cls).deficit = ((s.die die).deficit n cls).deficit + (s.die die).weight n * 4096) ∧
   (∀ (s : State) (die : Nat) (tm : Team) (w : Work) (k : Gang), s.teams = [tm] → tm.retired = false →
     s.physTile tm.ltile / 104 = die → (s.cluster (clusterOf (s.physTile tm.ltile))).last = s.time → s.gang? tm.gang = some k →
     k.resident = true → s.work? tm.work = some w →
     ∃ t, exec (.deficitCharge die) s = .next t ∧ ((t.die die).deficit w.tenant w.prio).deficit =
       max (-(2 ^ 47)) (((s.die die).deficit w.tenant w.prio).deficit - if tm.pair = true then 2 else 1)) ∧
   (∀ (s : State) (die : Nat) (k : Gang), s.class0Waits die = true → s.preempting die = false →
     [3, 2, 1].findSome? (fun c => latest (s.victims die c)) = some k →
     exec (.class0Preempt die) s = .next (if k.state = .running then s.requestStop k false else s.setGang { k with preempt := true, stopAt := s.time })) ∧
   (∀ (s : State) (k : Gang), s.gang? k.id = some k → k.state = .stopping false → (s.stopHeld k).gangQuiet k = true →
     (s.stopHeld k).spillIdle k = true → (s.stopHeld k).poolFits k = true →
     ∀ v, (s.stopHeld k).saveGroups (((s.stopHeld k).gangGroups k).map fun g => g.id) = .done v → v.gang? k.id = some k →
     ∃ t k' b, exec (.gangStop k.id) s = .next t ∧ t.gang? k.id = some k' ∧ k'.state = .saved b) ∧
   (∀ (s t : State) (k : Gang) (w : Work) (spot : Nat × List (Fit × List Nat)), s.gang? k.id = some k → s.work? k.work = some w →
     k.state = .saved false → s.spillIdle k = true → s.allowed (.saved k.id) = true → s.restoreSpot w k = some spot →
     (∀ x ∈ s.tiles, ∀ e ∈ x.2.path, ∀ g ∈ s.gangGroups k, e.covered g.id = false) →
     let u := s.replaceGang k spot.1 spot.2
     u.loadGroups ((u.gangGroups k).map fun g => g.id) = .done t →
     exec (.contextRestore k.id) s = .next ((t.releaseStops k).wakeEntries k)) ∧
   (∀ (s : State) (g : Group), s.group? g.id = some g → g.core = none → g.retired = false →
     fullMask g.width &&& ~~~g.flow.exited = 0 → g.pend = none → g.frozen = none → (∀ n ∈ g.cf, n = 0) →
     ∃ t h, exec (.groupRetire g.id) s = .next t ∧ t.group? g.id = some h ∧ h.retired = true ∧ h.regs = g.regs) ∧
   (∀ (s : State) (tm : Team) (k : Gang), s.team? tm.id = some tm → s.gang? tm.gang = some k → k.resident = true →
     tm.retired = false → (∀ g ∈ tm.grps.filterMap s.group?, g.retired = true) → s.copiesAt tm = false →
     ∃ t x, exec (.teamRetire tm.id) s = .next t ∧ t.team? tm.id = some x ∧ x.retired = true) ∧
   (∀ (mk : Nat → Instr) (job : Bool), (mk, job) ∈ ([(.launchRetire, false), (.jobComplete, true)] : List ((Nat → Instr) × Bool)) →
     ∀ (s : State) (w : Work), s.work? w.id = some w → w.job = job → w.token = none → s.workBusy w = false → w.reported = false →
     (w.state = .rejected ∨ w.state = .killed ∨ (job = true ∧ w.state = .dealt) ∨
       (job = false ∧ w.state = .running ∧ w.teamsN ≤ w.nextGang * w.gangt ∧ s.gangsOf w.id = [])) →
     (job = true → w.module = 0 ∧ w.out = 0) →
     let u := s.dieNums.foldl (fun s d => s.flushGathers d fun g => g.works.contains w.id) s
     (w.done = 0 ∨ (w.done.toNat % 16 = 0 ∧ w.done.toNat < 2 ^ 52 ∧
       ∃ v ps, engineOk u w.agent w.done.toNat 16 .atomic (.work w.id) v ps)) →
     (w.parent = none → ∃ t, exec (mk w.id) s = .next t ∧ t.work? w.id = none) ∧
     (w.parent ≠ none → ∃ t v, exec (mk w.id) s = .next t ∧ t.work? w.id = some v ∧ v.reported = true)) ∧
   (∀ (s : State) (w : Work), s.work? w.id = some w → w.reported = true ∨ w.module ≠ 0 →
     ∃ t, exec (.childCompletion w.id) s = .next t ∧ t.work? w.id = none) ∧
   (∀ (s : State) (w : Work) (l : Nat), s.work? w.id = some w → w.det = 1 → w.abort = false → w.visiting = false →
     w.state = .running → w.nextVisit w.holder = some l → (∃ t ∈ s.teams, t.work = w.id ∧ t.l = l ∧ t.retired = false) →
     ∃ t v, exec (.emberAdvance w.id) s = .next t ∧ t.work? w.id = some v ∧ v.holder = l ∧ v.visiting = true) ∧
   (∀ (s : State) (die n : Nat) (m : Msg), (s.die die).outbound[n]? = some m → s.mailBehind m = false →
     m.module ≠ 0 ∨ (s.mailbox m.agent m.box).length < 16 →
     ∃ t, exec (.mailboxDelivery die n) s = .next t ∧ (t.die die).outbound = (s.die die).outbound.eraseIdx n))
end

