-- ==== Sys2Proof/Laws/Issue.lean ====
section
/-! SUPPORT. What issuing can do, said once: an instruction that is clear to act runs its family's body; the bodies
that families share, each with its effect where its own checks pass. -/
namespace Sys2Proof.Machine

/-- The shared checks of a clear instruction answer nothing but the state after the header check. -/
theorem Clear.preIssue {s t : State} {maj min : Nat} {o : Ops} {g : Group} {cl : Clause}
    (h : Clear s maj min o g cl t) : s.preIssue (s.ctx maj min o g cl) = (t, none) := by
  have h1 : s.matrixOf (s.ctx maj min o g cl).g = s.matrixOf g := rfl
  simp [State.preIssue, h1, h.fields, h.follows, h.privilege, h.place, h.resident, h.quota, h.free]

/-- A body that raises no FMTX is not tried a second time (R39). -/
theorem attempt_eq {c : Ctx} {s : State} {body : Ctx → State → Res} (h : ∀ v, body c s ≠ .trap .fmtx v) :
    c.attempt s body = body c s := by
  unfold Ctx.attempt
  split
  · rename_i v hv; exact absurd hv (h v)
  · rfl

/-- Where no incomplete instruction is to set a tag that the group reads, the body runs once. -/
theorem attempt_unraced {c : Ctx} {s : State} (body : Ctx → State → Res) (h : s.racedTags c.g = none) :
    c.attempt s body = body c s := by
  unfold Ctx.attempt
  split
  · rename_i v hv; rw [h, hv]
  · rfl

/-- An instruction that is clear to act does what its family's body does, attempted, where that does not stall. -/
theorem issue_of_clear {s t : State} {maj min : Nat} {o : Ops} {g : Group} {cl : Clause}
    (h : Clear s maj min o g cl t) (body : Ctx → State → Res)
    (hs : ∀ w, (s.ctx maj min o g cl).attempt t body ≠ .stall w) :
    issue maj min o body s = (s.ctx maj min o g cl).settle t ((s.ctx maj min o g cl).attempt t body) := by
  simp only [issue, h.turn, h.open', h.ready, h.preIssue, Bool.not_true, Bool.false_eq_true, if_false]

/-- One whose body stalls stalls, unless a delivered QUOTA alone holds it, which is then taken in front of it (R365, R366). -/
theorem issue_stall {s t : State} {maj min : Nat} {o : Ops} {g : Group} {cl : Clause} {w : Stall}
    (h : Clear s maj min o g cl t) {body : Ctx → State → Res} (hw : (s.ctx maj min o g cl).attempt t body = .stall w) :
    issue maj min o body s = match t.quotaHolds (s.ctx maj min o g cl) body with
      | some q => .next (t.takeQuota (s.ctx maj min o g cl) q)
      | none => (s.ctx maj min o g cl).settle t (.stall w) := by
  simp only [issue, h.turn, h.open', h.ready, h.preIssue, Bool.not_true, Bool.false_eq_true, if_false, hw] <;> rfl

/-- Where no QUOTA was delivered, a stall is a stall. -/
theorem quotaHolds_none {s : State} {c : Ctx} {body : Ctx → State → Res} (h : s.quotaEntries c.g = []) :
    s.quotaHolds c body = none := by
  simp [State.quotaHolds, h]

/-- An instruction that is clear to act, raises no FMTX and does not stall does what its family's body does. -/
theorem issue_body {s t : State} {maj min : Nat} {o : Ops} {g : Group} {cl : Clause} (h : Clear s maj min o g cl t)
    {body : Ctx → State → Res} (hb : ∀ v, body (s.ctx maj min o g cl) t ≠ .trap .fmtx v)
    (hs : ∀ w, body (s.ctx maj min o g cl) t ≠ .stall w) :
    issue maj min o body s = (s.ctx maj min o g cl).settle t (body (s.ctx maj min o g cl) t) := by
  have e := attempt_eq hb
  rw [issue_of_clear h body (by rw [e]; exact hs), e]

/-- The outcome of a body that makes its effect. -/
theorem settle_ok (c : Ctx) (s t : State) : c.settle s (.ok t) = .next (c.done t) := rfl

/-- Where the shared checks refuse, issuing ends as they say. -/
theorem issue_refused {s t : State} {maj min : Nat} {o : Ops} {g : Group} {cl : Clause} {r : Res}
    (hg : s.group? s.cur = some g) (hc : g.clause = some cl) (hr : s.mayIssue g = true)
    (hp : s.preIssue (s.ctx maj min o g cl) = (t, some r)) (body : Ctx → State → Res) :
    issue maj min o body s = (s.ctx maj min o g cl).settle t r := by
  simp [issue, hg, hc, hr, hp]

/-- Tag checks that pass leave the rest. -/
theorem tagged_pass {c : Ctx} {l : List TagCheck} {r : Res} (h : c.tagsPass l) : tagged c l r = r := by
  unfold tagged
  by_cases ha : c.anyLane = true
  · simp [ha, h ha]
  · simp [ha]

/-- A vector operation whose tags pass writes its lanes, its tag and its flags. -/
theorem vecOp_pass {tags : Ctx → List TagCheck} {tag : Ctx → BitVec 4} {f : Ctx → Nat → W32 × W64} {c : Ctx} {s : State}
    (h : c.tagsPass (tags c)) : vecOp tags tag f c s = .ok (c.putVF s (f c) (tag c)) := tagged_pass h

/-- What acts once. -/
theorem once_ok (c : Ctx) (s t : State) : c.once s (.ok t) = .ok (c.onceDo s t) := by
  unfold Ctx.once Ctx.onceDo; split <;> rfl

/-- A scalar operation writes its register and its flags, once. -/
theorem scalOp_eq (f : Ctx → W64 × W64) (c : Ctx) (s : State) :
    scalOp f c s = .ok (c.onceDo s (c.putSF s (f c))) := once_ok c s _

/-- The gate of R233 and R242 is open outside a body and the settled state. -/
theorem rlxGate_pass {c : Ctx} {s : State} {r : Res} (h : s.rlxRefuses c = none) : rlxGate c s r = r := by
  unfold rlxGate
  by_cases ha : c.anyLane = true <;> simp [ha, h]

/-- Operand checks that pass leave the effect. -/
theorem guarded_pass {c : Ctx} {l : List (Bool × (Cause × W64))} {r : Res} (h : c.anyLane = true → firstFail l = none) :
    c.guarded l r = r := by
  unfold Ctx.guarded
  by_cases ha : c.anyLane = true
  · simp [ha, h ha]
  · simp [ha]

/-- A list of checks that passes still passes when some of its checks are left out. -/
theorem firstFail_filter {q : Bool × (Cause × W64) → Bool} {l : List (Bool × (Cause × W64))} (h : firstFail l = none) :
    firstFail (l.filter q) = none := by
  induction l with
  | nil => rfl
  | cons p t ih =>
    obtain ⟨b, r⟩ := p
    cases b <;> simp_all [firstFail, List.filter_cons]
    split <;> simp_all [firstFail]

/-- An SY instruction whose checks pass, those of presence whichever lanes execute, does what it does once. -/
theorem sy_pass {c : Ctx} {s : State} {l : List (Bool × (Cause × W64))} {r : Res} (hr : s.rlxRefuses c = none)
    (hp : firstFail (l.filter fun p => p.2.1 == .absent) = none) (hf : c.anyLane = true → firstFail l = none) :
    sy c s l r = c.once s r := by
  rw [sy, guarded_pass fun h => firstFail_filter (hf h), rlxGate_pass hr]
  unfold Ctx.once
  split
  · rw [present, hp]; exact guarded_pass hf
  · rw [present, hp]

/-- Operand checks that refuse. -/
theorem guarded_fail {c : Ctx} {l : List (Bool × (Cause × W64))} {r : Res} {p : Cause × W64} (ha : c.anyLane = true)
    (h : firstFail l = some p) : c.guarded l r = .ofPair p := by
  simp [Ctx.guarded, ha, h]

/-- Presence checks that pass leave the rest. -/
theorem present_pass {l : List (Bool × (Cause × W64))} {r : Res} (h : firstFail l = none) : present l r = r := by
  simp [present, h]

/-- Where no lane executes, no check of steps 9 and 10 stands before the effect (R30, R43). -/
theorem checked_idle {c : Ctx} {s : State} {tags : List TagCheck} {rest : List (Bool × (Cause × W64))} {r : Res}
    (h : c.anyLane = false) : checked c s tags rest r = r := by
  simp [checked, tagged, rlxGate, Ctx.guarded, h]

/-- The checks of a family in their common order, all passed. -/
theorem checked_pass {c : Ctx} {s : State} {tags : List TagCheck} {rest : List (Bool × (Cause × W64))} {r : Res}
    (ht : c.tagsPass tags) (hr : s.rlxRefuses c = none) (hf : c.anyLane = true → firstFail rest = none) : checked c s tags rest r = r := by
  rw [checked, tagged_pass ht, rlxGate_pass hr, guarded_pass hf]

/-- The context numbered `id` after a change of it. -/
theorem group?_onGroup {s : State} {id : Nat} {f : Group → Group} (hf : ∀ g, (f g).id = g.id) :
    (s.onGroup id f).group? id = (s.group? id).map f := by
  simp only [State.group?, State.onGroup, List.find?_map]
  have : (fun g : Group => g.id == id) ∘ (fun h : Group => if h.id == id then f h else h) = fun g => g.id == id := by
    funext g
    simp only [Function.comp]
    split
    · rw [hf]
    · rfl
  rw [this]
  cases hh : s.groups.find? fun g => g.id == id with
  | none => rfl
  | some g =>
    have := List.find?_some hh
    simp only [Option.map_some]
    rw [if_pos this]

/-- Another context is as it was. -/
theorem group?_onGroup_ne {s : State} {id k : Nat} {f : Group → Group} (hf : ∀ g, (f g).id = g.id) (hk : k ≠ id) :
    (s.onGroup id f).group? k = s.group? k := by
  simp only [State.group?, State.onGroup, List.find?_map]
  have : (fun g : Group => g.id == k) ∘ (fun h : Group => if h.id == id then f h else h) = fun g => g.id == k := by
    funext g
    simp only [Function.comp]
    split
    · rw [hf]
    · rfl
  rw [this]
  cases hh : s.groups.find? fun g => g.id == k with
  | none => rfl
  | some g =>
    have h1 := List.find?_some hh
    simp only [Option.map_some, Option.some.injEq]
    rw [if_neg]
    simp only [beq_iff_eq] at h1 ⊢
    omega

/-- Two changes of one context in a row are one. -/
theorem onGroup_onGroup {s : State} {id : Nat} {f h : Group → Group} (hf : ∀ g, (f g).id = g.id) :
    (s.onGroup id f).onGroup id h = s.onGroup id fun g => h (f g) := by
  simp only [State.onGroup, List.map_map]
  congr 1
  apply List.map_congr_left
  intro g _
  simp only [Function.comp]
  by_cases hid : (g.id == id) = true
  · simp [hid, hf]
  · simp [hid]

end Sys2Proof.Machine
end

