-- ==== Sys2Proof/Laws/Log.lean ====
section
/-! SUPPORT. What the shared operations on the operand log and on the store path do: the bytes that a path lays over a line (04 R72),
and the places that a handler's `eret` gives to what it found (21 R365). -/
namespace Sys2Proof.Machine

/-- The byte at `x` of a store of the path. -/
def PathEntry.byteAt (e : PathEntry) (x : Nat) : Option Byte :=
  match e.op with
  | .store d => if e.pa ≤ x ∧ x < e.pa + d.length then d[x - e.pa]? else none
  | _ => none

@[simp] theorem overlay_nil (pa : Nat) (bs : List Byte) : overlay [] pa bs = bs := rfl

theorem overlay_snoc (path : List PathEntry) (e : PathEntry) (pa : Nat) (bs : List Byte) :
    overlay (path ++ [e]) pa bs = overlay [e] pa (overlay path pa bs) := by
  simp [overlay, List.foldl_append]

/-- One store over a line: its own bytes, and the line's elsewhere. -/
theorem overlay_one (e : PathEntry) (pa i : Nat) (bs : List Byte) (h : i < bs.length) :
    (overlay [e] pa bs).length = bs.length ∧ (overlay [e] pa bs).getD i 0 = (e.byteAt (pa + i)).getD (bs.getD i 0) := by
  unfold overlay PathEntry.byteAt
  simp only [List.foldl_cons, List.foldl_nil]
  cases e.op with
  | store d =>
    refine ⟨by simp, ?_⟩
    simp only [List.getD_eq_getElem?_getD, List.getElem?_map, List.getElem?_range h, Option.map_some, Option.getD_some]
    by_cases hc : e.pa ≤ pa + i ∧ pa + i < e.pa + d.length
    · have hl : pa + i - e.pa < d.length := by omega
      simp [hc, hl]
    · simp only [if_neg hc, Option.getD_none, Bool.and_eq_true, decide_eq_true_eq]
  | atomic => exact ⟨rfl, rfl⟩
  | counter => exact ⟨rfl, rfl⟩

theorem overlay_length (path : List PathEntry) (pa : Nat) (bs : List Byte) : (overlay path pa bs).length = bs.length := by
  induction path using List.reverseRecOn with
  | nil => rfl
  | append_singleton path e ih =>
    rw [overlay_snoc, ← ih]
    unfold overlay
    simp only [List.foldl_cons, List.foldl_nil]
    split <;> simp

/-- A path over a line: the byte of the newest store that covers it, else the line's. -/
theorem overlay_getD (path : List PathEntry) (pa i : Nat) (bs : List Byte) (h : i < bs.length) :
    (overlay path pa bs).getD i 0 = ((path.reverse.findSome? fun e => e.byteAt (pa + i)).getD (bs.getD i 0)) := by
  induction path using List.reverseRecOn with
  | nil => rfl
  | append_singleton path e ih =>
    rw [overlay_snoc, (overlay_one e pa i _ (by rwa [overlay_length])).2, ih]
    simp only [List.reverse_append, List.reverse_cons, List.reverse_nil, List.nil_append, List.singleton_append,
      List.findSome?_cons]
    cases e.byteAt (pa + i) <;> rfl

/-- Places at the end of the order change the log and the next number alone. -/
theorem State.standLast_frame (l : List LogEntry) (s : State) :
    { s.standLast l with log := s.log, nextId := s.nextId } = s := by
  induction l generalizing s with
  | nil => rfl
  | cons f t ih =>
    have := ih ((s.takeId).2.setEntry { f with again := (s.takeId).1 })
    exact congrArg (fun u : State => { u with log := s.log, nextId := s.nextId }) this

/-- `eret` changes no more than that of the log. -/
theorem State.behindHandler_frame (s : State) (grp : Nat) :
    { s.behindHandler grp with log := s.log, nextId := s.nextId } = s := s.standLast_frame _

@[simp] theorem State.standLast_groups (l : List LogEntry) (s : State) : (s.standLast l).groups = s.groups := by
  have := congrArg State.groups (s.standLast_frame l)
  exact this

@[simp] theorem State.behindHandler_groups (s : State) (grp : Nat) : (s.behindHandler grp).groups = s.groups :=
  s.standLast_groups _

end Sys2Proof.Machine
end

