-- ==== Sys2Proof/Laws/Memory.lean ====
section
/-! SUPPORT. Memory as a canonical list: every operation on it keeps the form, a read gives what was written, and
nothing else changes. -/
namespace Sys2Proof.Machine

/-- A bound may be lowered. -/
theorem memAbove_mono {m : Mem} {a b : Nat} (h : a ≤ b) (w : memAbove b m = true) : memAbove a m = true := by
  cases m with
  | nil => rfl
  | cons p t =>
    simp only [memAbove, Bool.and_eq_true, decide_eq_true_eq] at w ⊢
    exact ⟨⟨by omega, w.1.2⟩, w.2⟩

/-- Writing one byte keeps the form above a bound that is not above the address. -/
theorem memSet_above {m : Mem} {lo a : Nat} {b : Byte} (ha : lo ≤ a) (w : memAbove lo m = true) :
    memAbove lo (memSet m a b) = true := by
  induction m generalizing lo with
  | nil => unfold memSet; split_ifs with hb <;> simp_all [memAbove]
  | cons p t ih =>
    obtain ⟨k, v⟩ := p
    simp only [memAbove, Bool.and_eq_true, decide_eq_true_eq, bne_iff_ne] at w
    obtain ⟨⟨hk, hv⟩, ht⟩ := w
    unfold memSet
    split_ifs with h1 hb h2 hb
    · simp [memAbove, hk, ht]; exact hv
    · simp [memAbove, ha, ht]; exact ⟨hb, by omega, hv⟩
    · exact memAbove_mono (by omega) ht
    · subst h2; simp [memAbove, ha, ht]; exact hb
    · simp only [memAbove, Bool.and_eq_true, decide_eq_true_eq, bne_iff_ne]
      exact ⟨⟨hk, hv⟩, ih (by omega) ht⟩

/-- Writing one byte keeps the canonical form. -/
theorem memSet_wf {m : Mem} {a : Nat} {b : Byte} (w : m.wf = true) : (memSet m a b).wf = true :=
  memSet_above (Nat.zero_le a) w

/-- Writing bytes keeps the canonical form. -/
theorem memWrite_wf {m : Mem} {a : Nat} {bs : List Byte} (w : m.wf = true) : (memWrite m a bs).wf = true := by
  induction bs generalizing m a with
  | nil => exact w
  | cons b t ih => exact ih (memSet_wf w)

/-- Below its bound a memory lists nothing. -/
theorem memGet_below {m : Mem} {lo a : Nat} (w : memAbove lo m = true) (h : a < lo) : memGet m a = 0 := by
  induction m generalizing lo with
  | nil => rfl
  | cons p t ih =>
    obtain ⟨k, v⟩ := p
    simp only [memAbove, Bool.and_eq_true, decide_eq_true_eq] at w
    have hk : ¬ k = a := by omega
    simpa [memGet, hk] using ih w.2 (by omega)

/-- A read after a write of one byte. -/
theorem memGet_memSet {m : Mem} {lo a b : Nat} {v : Byte} (w : memAbove lo m = true) :
    memGet (memSet m a v) b = if b = a then v else memGet m b := by
  induction m generalizing lo with
  | nil =>
    unfold memSet
    split_ifs with hv h h
    · exact hv ▸ rfl
    · rfl
    · simp [memGet, h]
    · have h' : ¬ a = b := fun e => h e.symm
      simp [memGet, h']
  | cons p t ih =>
    obtain ⟨k, u⟩ := p
    simp only [memAbove, Bool.and_eq_true, decide_eq_true_eq] at w
    obtain ⟨⟨_, _⟩, ht⟩ := w
    have hs : ∀ h : ¬ b = a, ¬ a = b := fun h e => h e.symm
    unfold memSet
    split_ifs with h1 hv h h h2 hv h h h
    · have hk : ¬ k = b := by omega
      rw [hv, memGet, if_neg hk, memGet_below ht (by omega)]
    · rfl
    · rw [memGet, if_pos h.symm]
    · rw [memGet, if_neg (hs h)]
    · rw [hv, memGet_below ht (by omega)]
    · rw [memGet, if_neg (by omega)]
    · rw [memGet, if_pos h.symm]
    · rw [memGet, if_neg (hs h), memGet, if_neg (by omega)]
    · rw [memGet, if_neg (by omega), ih ht, if_pos h]
    · by_cases hk : k = b
      · rw [memGet, if_pos hk, memGet, if_pos hk]
      · rw [memGet, if_neg hk, ih ht, if_neg h, memGet, if_neg hk]

/-- A write of bytes leaves every other byte as it was, and gives its own bytes back. -/
theorem memGet_memWrite {m : Mem} {a b : Nat} {bs : List Byte} (w : m.wf = true) :
    memGet (memWrite m a bs) b = if a ≤ b ∧ b < a + bs.length then bs.getD (b - a) 0 else memGet m b := by
  induction bs generalizing m a with
  | nil => rw [memWrite, if_neg (by simp)]
  | cons v t ih =>
    rw [memWrite, ih (memSet_wf w), memGet_memSet (lo := 0) w]
    by_cases h : b = a
    · subst h; simp
    · by_cases h1 : a + 1 ≤ b ∧ b < a + 1 + t.length
      · have h2 : a ≤ b ∧ b < a + (v :: t).length := by simp; omega
        have h3 : b - a = b - (a + 1) + 1 := by omega
        rw [if_pos h1, if_pos h2, h3, List.getD_cons_succ]
      · have h2 : ¬ (a ≤ b ∧ b < a + (v :: t).length) := by simp; omega
        rw [if_neg h1, if_neg h2, if_neg h]

/-- Two canonical memories that read alike are the same list. -/
theorem memAbove_ext {m n : Mem} {lo : Nat} (hm : memAbove lo m = true) (hn : memAbove lo n = true)
    (h : ∀ a, memGet m a = memGet n a) : m = n := by
  induction m generalizing lo n with
  | nil =>
    cases n with
    | nil => rfl
    | cons q u =>
      obtain ⟨k, v⟩ := q
      simp only [memAbove, Bool.and_eq_true, bne_iff_ne] at hn
      exact absurd (h k).symm (by simpa [memGet] using hn.1.2)
  | cons p t ih =>
    obtain ⟨k, v⟩ := p
    simp only [memAbove, Bool.and_eq_true, bne_iff_ne, decide_eq_true_eq] at hm
    cases n with
    | nil => exact absurd (h k) (by simpa [memGet] using hm.1.2)
    | cons q u =>
      obtain ⟨l, x⟩ := q
      simp only [memAbove, Bool.and_eq_true, bne_iff_ne, decide_eq_true_eq] at hn
      have hkl : k = l := by
        by_contra hne
        rcases Nat.lt_or_gt_of_ne hne with hlt | hgt
        · have := h k
          rw [memGet, if_pos rfl, memGet, if_neg (by omega), memGet_below hn.2 (by omega)] at this
          exact hm.1.2 this
        · have := (h l).symm
          rw [memGet, if_pos rfl, memGet, if_neg (by omega), memGet_below hm.2 (by omega)] at this
          exact hn.1.2 this
      subst hkl
      have hv : v = x := by simpa [memGet] using h k
      subst hv
      congr 1
      refine ih hm.2 hn.2 fun a => ?_
      by_cases hak : k = a
      · subst hak; rw [memGet_below hm.2 (by omega), memGet_below hn.2 (by omega)]
      · simpa [memGet, hak] using h a

/-! ## The operations of the module on device memory -/

/-- The form after a change of device memory alone. -/
theorem State.memWf_of {s t : State} (w : s.memWf = true) (ha : t.aelmel = s.aelmel)
    (hm : s.mem.wf = true → t.mem.wf = true) : t.memWf = true := by
  simp only [State.memWf, Bool.and_eq_true, ha] at w ⊢
  exact ⟨⟨hm w.1.1, w.1.2⟩, w.2⟩

/-- Capping the marks of a set leaves memory. -/
@[simp] theorem State.capLast_mem (s : State) (line : Nat) : (s.capLast line).mem = s.mem := by
  unfold State.capLast; dsimp only; split
  · rfl
  · split <;> rfl

@[simp] theorem State.capLast_aelmel (s : State) (line : Nat) : (s.capLast line).aelmel = s.aelmel := by
  unfold State.capLast; dsimp only; split
  · rfl
  · split <;> rfl

/-- Moving a line into its stack changes nothing of Aelmel. -/
@[simp] theorem State.intoStack_aelmel (s : State) (l : SLine) : (s.intoStack l).aelmel = s.aelmel := by
  unfold State.intoStack; split <;> rfl

/-- Moving a line into its stack keeps the form. -/
theorem State.intoStack_memWf {s : State} (l : SLine) (w : s.memWf = true) : (s.intoStack l).memWf = true := by
  unfold State.intoStack
  split
  · exact State.memWf_of w rfl fun h => memWrite_wf h
  · exact w

/-- Taking a line out of its slice keeps the form. -/
theorem State.evict_memWf {s : State} (line : Nat) (w : s.memWf = true) : (s.evict line).memWf = true := by
  unfold State.evict
  split
  · exact w
  · exact State.memWf_of (State.intoStack_memWf _ w) rfl fun h => h

/-- Bringing a line to the front of its slice keeps the form. -/
theorem State.touch_memWf {s : State} (line hint : Nat) (w : s.memWf = true) : (s.touch line hint).memWf = true := by
  unfold State.touch
  split
  · exact w
  · split
    · exact State.memWf_of w (by simp) fun h => by simpa using h
    · split
      · exact w
      · dsimp only
        have key : ∀ u : State, u.memWf = true → (if u.sways line = 0 then u else
            ({ u with
                sram := { line := line, data := memRead u.mem (line * 128) 128, mark := markFill hint } :: u.sram
                badSlices := u.badSlices ++ u.badBursts.filter fun b => b.burst / 2 == line } : State).capLast
              line).memWf = true := by
          intro u hu
          split
          · exact hu
          · exact State.memWf_of hu (by simp) fun h => by simpa using h
        split
        · exact key _ w
        · split
          · exact key _ (State.evict_memWf _ w)
          · exact key _ w

/-- The form holds of a state whose memory and flash are those of one that has it, and whose RECBUF has the form. -/
theorem State.memWf_recbuf {s t : State} (w : s.memWf = true) (m : t.mem = s.mem) (f : t.aelmel.flash = s.aelmel.flash)
    (r : t.aelmel.recbuf.wf = true) : t.memWf = true := by
  simp only [State.memWf, Bool.and_eq_true] at w ⊢
  exact ⟨⟨m ▸ w.1.1, f ▸ w.1.2⟩, r⟩

/-- A state with the form has it in RECBUF. -/
theorem State.memWf_buf {s : State} (w : s.memWf = true) : s.aelmel.recbuf.wf = true := by
  simp only [State.memWf, Bool.and_eq_true] at w
  exact w.2

/-- A command to Aelmel keeps the form. -/
theorem aelcmdVerifyBoot_memWf {s : State} (w : s.memWf = true) : (aelcmdVerifyBoot s).memWf = true := by
  unfold aelcmdVerifyBoot
  dsimp only
  split
  · exact State.memWf_recbuf w rfl rfl (State.memWf_buf w)
  · exact w

/-- A report keeps the form. -/
theorem aelcmdAttest_memWf {s : State} (w : s.memWf = true) : (aelcmdAttest s).memWf = true := by
  unfold aelcmdAttest
  generalize s.report = r
  dsimp only
  split
  · exact State.memWf_recbuf w rfl rfl (memWrite_wf (State.memWf_buf w))
  · exact State.memWf_recbuf w rfl rfl (memWrite_wf (State.memWf_buf w))
  · exact w

/-- A write to RECBUF keeps the form. -/
theorem recbufWrite_memWf {s : State} (off : Nat) (bs : List Byte) (w : s.memWf = true) : (recbufWrite s off bs).memWf = true := by
  unfold recbufWrite
  dsimp only
  split
  · exact State.memWf_recbuf w rfl rfl (memWrite_wf (State.memWf_buf w))
  · exact w

/-- A write to a register keeps the form. -/
theorem State.regWrite_memWf {s : State} (off : Nat) (bs : List Byte) (w : s.memWf = true) : (s.regWrite off bs).memWf = true := by
  unfold State.regWrite
  split_ifs
  · split
    · split_ifs
      · exact aelcmdVerifyBoot_memWf w
      · exact aelcmdAttest_memWf w
      · exact w
    · exact w
  · exact State.memWf_recbuf w rfl rfl (State.memWf_buf w)
  · exact recbufWrite_memWf _ _ w
  · exact w

/-- Performing a store within one line keeps the form. -/
theorem State.homeWrite_memWf {s : State} (pa : Nat) (bs : List Byte) (hint inst : Nat) (w : s.memWf = true) :
    (s.homeWrite pa bs hint inst).memWf = true := by
  unfold State.homeWrite
  split_ifs
  · exact State.regWrite_memWf _ _ w
  dsimp only
  have h1 := State.touch_memWf (s := { s with badBursts := s.badBursts.filterMap (BadBurst.rewrite inst pa bs.length) })
    (pa / 128) hint w
  split
  · exact State.memWf_of h1 rfl fun h => h
  · exact State.memWf_of h1 rfl fun h => memWrite_wf h

/-- Storing bytes at any address keeps the form. -/
theorem State.homeWriteAll_memWf {s : State} (pa : Nat) (bs : List Byte) (hint : Nat) (w : s.memWf = true) :
    (s.homeWriteAll pa bs hint).memWf = true := by
  unfold State.homeWriteAll
  generalize pieces (bs.length / 128 + 2) pa bs.length = l
  induction l generalizing s with
  | nil => exact w
  | cons p t ih => exact ih (State.homeWrite_memWf _ _ _ _ w)

end Sys2Proof.Machine
end

