-- ==== Sys2Proof/Laws/State.lean ====
section
/-! SUPPORT. One small lemma for each field and each update of the state and of a context: what the update leaves as
it is, and what it replaces. -/
namespace Sys2Proof.Machine

/-! ## Updates of the state -/

@[simp] theorem State.onGroup_part (s : State) (id : Nat) (f : Group → Group) : (s.onGroup id f).part = s.part := rfl
@[simp] theorem State.onGroup_time (s : State) (id : Nat) (f : Group → Group) : (s.onGroup id f).time = s.time := rfl
@[simp] theorem State.onGroup_lt0 (s : State) (id : Nat) (f : Group → Group) : (s.onGroup id f).lt0 = s.lt0 := rfl
@[simp] theorem State.onGroup_lt1 (s : State) (id : Nat) (f : Group → Group) : (s.onGroup id f).lt1 = s.lt1 := rfl
@[simp] theorem State.onGroup_aelmel (s : State) (id : Nat) (f : Group → Group) : (s.onGroup id f).aelmel = s.aelmel := rfl
@[simp] theorem State.onGroup_health (s : State) (id : Nat) (f : Group → Group) : (s.onGroup id f).health = s.health := rfl
@[simp] theorem State.onGroup_ckpt (s : State) (id : Nat) (f : Group → Group) : (s.onGroup id f).ckpt = s.ckpt := rfl
@[simp] theorem State.onGroup_launchid (s : State) (id : Nat) (f : Group → Group) : (s.onGroup id f).launchid = s.launchid := rfl
@[simp] theorem State.onGroup_notes (s : State) (id : Nat) (f : Group → Group) : (s.onGroup id f).notes = s.notes := rfl
@[simp] theorem State.onGroup_sends (s : State) (id : Nat) (f : Group → Group) : (s.onGroup id f).sends = s.sends := rfl
@[simp] theorem State.onGroup_services (s : State) (id : Nat) (f : Group → Group) : (s.onGroup id f).services = s.services := rfl
@[simp] theorem State.onGroup_mem (s : State) (id : Nat) (f : Group → Group) : (s.onGroup id f).mem = s.mem := rfl
@[simp] theorem State.onGroup_sram (s : State) (id : Nat) (f : Group → Group) : (s.onGroup id f).sram = s.sram := rfl
@[simp] theorem State.onGroup_badBursts (s : State) (id : Nat) (f : Group → Group) : (s.onGroup id f).badBursts = s.badBursts := rfl
@[simp] theorem State.onGroup_badSlices (s : State) (id : Nat) (f : Group → Group) : (s.onGroup id f).badSlices = s.badSlices := rfl
@[simp] theorem State.onGroup_vmtbase (s : State) (id : Nat) (f : Group → Group) : (s.onGroup id f).vmtbase = s.vmtbase := rfl
@[simp] theorem State.onGroup_dies (s : State) (id : Nat) (f : Group → Group) : (s.onGroup id f).dies = s.dies := rfl
@[simp] theorem State.onGroup_tiles (s : State) (id : Nat) (f : Group → Group) : (s.onGroup id f).tiles = s.tiles := rfl
@[simp] theorem State.onGroup_clusters (s : State) (id : Nat) (f : Group → Group) : (s.onGroup id f).clusters = s.clusters := rfl
@[simp] theorem State.onGroup_partns (s : State) (id : Nat) (f : Group → Group) : (s.onGroup id f).partns = s.partns := rfl
@[simp] theorem State.onGroup_tlbs (s : State) (id : Nat) (f : Group → Group) : (s.onGroup id f).tlbs = s.tlbs := rfl
@[simp] theorem State.onGroup_ptiles (s : State) (id : Nat) (f : Group → Group) : (s.onGroup id f).ptiles = s.ptiles := rfl
@[simp] theorem State.onGroup_pclusters (s : State) (id : Nat) (f : Group → Group) : (s.onGroup id f).pclusters = s.pclusters := rfl
@[simp] theorem State.onGroup_pbanks (s : State) (id : Nat) (f : Group → Group) : (s.onGroup id f).pbanks = s.pbanks := rfl
@[simp] theorem State.onGroup_selPlace (s : State) (id : Nat) (f : Group → Group) : (s.onGroup id f).selPlace = s.selPlace := rfl
@[simp] theorem State.onGroup_teams (s : State) (id : Nat) (f : Group → Group) : (s.onGroup id f).teams = s.teams := rfl
@[simp] theorem State.onGroup_gangs (s : State) (id : Nat) (f : Group → Group) : (s.onGroup id f).gangs = s.gangs := rfl
@[simp] theorem State.onGroup_works (s : State) (id : Nat) (f : Group → Group) : (s.onGroup id f).works = s.works := rfl
@[simp] theorem State.onGroup_log (s : State) (id : Nat) (f : Group → Group) : (s.onGroup id f).log = s.log := rfl
@[simp] theorem State.onGroup_copies (s : State) (id : Nat) (f : Group → Group) : (s.onGroup id f).copies = s.copies := rfl
@[simp] theorem State.onGroup_acks (s : State) (id : Nat) (f : Group → Group) : (s.onGroup id f).acks = s.acks := rfl
@[simp] theorem State.onGroup_transfers (s : State) (id : Nat) (f : Group → Group) : (s.onGroup id f).transfers = s.transfers := rfl
@[simp] theorem State.onGroup_tokens (s : State) (id : Nat) (f : Group → Group) : (s.onGroup id f).tokens = s.tokens := rfl
@[simp] theorem State.onGroup_mail (s : State) (id : Nat) (f : Group → Group) : (s.onGroup id f).mail = s.mail := rfl
@[simp] theorem State.onGroup_portQueues (s : State) (id : Nat) (f : Group → Group) : (s.onGroup id f).portQueues = s.portQueues := rfl
@[simp] theorem State.onGroup_agenda (s : State) (id : Nat) (f : Group → Group) : (s.onGroup id f).agenda = s.agenda := rfl
@[simp] theorem State.onGroup_issueq (s : State) (id : Nat) (f : Group → Group) : (s.onGroup id f).issueq = s.issueq := rfl
@[simp] theorem State.onGroup_chosen (s : State) (id : Nat) (f : Group → Group) : (s.onGroup id f).chosen = s.chosen := rfl
@[simp] theorem State.onGroup_cur (s : State) (id : Nat) (f : Group → Group) : (s.onGroup id f).cur = s.cur := rfl
@[simp] theorem State.onGroup_used (s : State) (id : Nat) (f : Group → Group) : (s.onGroup id f).used = s.used := rfl
@[simp] theorem State.onGroup_muted (s : State) (id : Nat) (f : Group → Group) : (s.onGroup id f).muted = s.muted := rfl
@[simp] theorem State.onGroup_sched (s : State) (id : Nat) (f : Group → Group) : (s.onGroup id f).sched = s.sched := rfl
@[simp] theorem State.onGroup_fresh (s : State) (id : Nat) (f : Group → Group) : (s.onGroup id f).fresh = s.fresh := rfl
@[simp] theorem State.onGroup_nextId (s : State) (id : Nat) (f : Group → Group) : (s.onGroup id f).nextId = s.nextId := rfl

@[simp] theorem State.setGroup_part (s : State) (g : Group) : (s.setGroup g).part = s.part := rfl
@[simp] theorem State.setGroup_time (s : State) (g : Group) : (s.setGroup g).time = s.time := rfl
@[simp] theorem State.setGroup_lt0 (s : State) (g : Group) : (s.setGroup g).lt0 = s.lt0 := rfl
@[simp] theorem State.setGroup_lt1 (s : State) (g : Group) : (s.setGroup g).lt1 = s.lt1 := rfl
@[simp] theorem State.setGroup_aelmel (s : State) (g : Group) : (s.setGroup g).aelmel = s.aelmel := rfl
@[simp] theorem State.setGroup_health (s : State) (g : Group) : (s.setGroup g).health = s.health := rfl
@[simp] theorem State.setGroup_ckpt (s : State) (g : Group) : (s.setGroup g).ckpt = s.ckpt := rfl
@[simp] theorem State.setGroup_launchid (s : State) (g : Group) : (s.setGroup g).launchid = s.launchid := rfl
@[simp] theorem State.setGroup_notes (s : State) (g : Group) : (s.setGroup g).notes = s.notes := rfl
@[simp] theorem State.setGroup_sends (s : State) (g : Group) : (s.setGroup g).sends = s.sends := rfl
@[simp] theorem State.setGroup_services (s : State) (g : Group) : (s.setGroup g).services = s.services := rfl
@[simp] theorem State.setGroup_mem (s : State) (g : Group) : (s.setGroup g).mem = s.mem := rfl
@[simp] theorem State.setGroup_sram (s : State) (g : Group) : (s.setGroup g).sram = s.sram := rfl
@[simp] theorem State.setGroup_badBursts (s : State) (g : Group) : (s.setGroup g).badBursts = s.badBursts := rfl
@[simp] theorem State.setGroup_badSlices (s : State) (g : Group) : (s.setGroup g).badSlices = s.badSlices := rfl
@[simp] theorem State.setGroup_vmtbase (s : State) (g : Group) : (s.setGroup g).vmtbase = s.vmtbase := rfl
@[simp] theorem State.setGroup_dies (s : State) (g : Group) : (s.setGroup g).dies = s.dies := rfl
@[simp] theorem State.setGroup_tiles (s : State) (g : Group) : (s.setGroup g).tiles = s.tiles := rfl
@[simp] theorem State.setGroup_clusters (s : State) (g : Group) : (s.setGroup g).clusters = s.clusters := rfl
@[simp] theorem State.setGroup_partns (s : State) (g : Group) : (s.setGroup g).partns = s.partns := rfl
@[simp] theorem State.setGroup_tlbs (s : State) (g : Group) : (s.setGroup g).tlbs = s.tlbs := rfl
@[simp] theorem State.setGroup_ptiles (s : State) (g : Group) : (s.setGroup g).ptiles = s.ptiles := rfl
@[simp] theorem State.setGroup_pclusters (s : State) (g : Group) : (s.setGroup g).pclusters = s.pclusters := rfl
@[simp] theorem State.setGroup_pbanks (s : State) (g : Group) : (s.setGroup g).pbanks = s.pbanks := rfl
@[simp] theorem State.setGroup_selPlace (s : State) (g : Group) : (s.setGroup g).selPlace = s.selPlace := rfl
@[simp] theorem State.setGroup_teams (s : State) (g : Group) : (s.setGroup g).teams = s.teams := rfl
@[simp] theorem State.setGroup_gangs (s : State) (g : Group) : (s.setGroup g).gangs = s.gangs := rfl
@[simp] theorem State.setGroup_works (s : State) (g : Group) : (s.setGroup g).works = s.works := rfl
@[simp] theorem State.setGroup_log (s : State) (g : Group) : (s.setGroup g).log = s.log := rfl
@[simp] theorem State.setGroup_copies (s : State) (g : Group) : (s.setGroup g).copies = s.copies := rfl
@[simp] theorem State.setGroup_acks (s : State) (g : Group) : (s.setGroup g).acks = s.acks := rfl
@[simp] theorem State.setGroup_transfers (s : State) (g : Group) : (s.setGroup g).transfers = s.transfers := rfl
@[simp] theorem State.setGroup_tokens (s : State) (g : Group) : (s.setGroup g).tokens = s.tokens := rfl
@[simp] theorem State.setGroup_mail (s : State) (g : Group) : (s.setGroup g).mail = s.mail := rfl
@[simp] theorem State.setGroup_portQueues (s : State) (g : Group) : (s.setGroup g).portQueues = s.portQueues := rfl
@[simp] theorem State.setGroup_agenda (s : State) (g : Group) : (s.setGroup g).agenda = s.agenda := rfl
@[simp] theorem State.setGroup_issueq (s : State) (g : Group) : (s.setGroup g).issueq = s.issueq := rfl
@[simp] theorem State.setGroup_chosen (s : State) (g : Group) : (s.setGroup g).chosen = s.chosen := rfl
@[simp] theorem State.setGroup_cur (s : State) (g : Group) : (s.setGroup g).cur = s.cur := rfl
@[simp] theorem State.setGroup_used (s : State) (g : Group) : (s.setGroup g).used = s.used := rfl
@[simp] theorem State.setGroup_muted (s : State) (g : Group) : (s.setGroup g).muted = s.muted := rfl
@[simp] theorem State.setGroup_sched (s : State) (g : Group) : (s.setGroup g).sched = s.sched := rfl
@[simp] theorem State.setGroup_fresh (s : State) (g : Group) : (s.setGroup g).fresh = s.fresh := rfl
@[simp] theorem State.setGroup_nextId (s : State) (g : Group) : (s.setGroup g).nextId = s.nextId := rfl

@[simp] theorem State.setTeam_part (s : State) (t : Team) : (s.setTeam t).part = s.part := rfl
@[simp] theorem State.setTeam_time (s : State) (t : Team) : (s.setTeam t).time = s.time := rfl
@[simp] theorem State.setTeam_lt0 (s : State) (t : Team) : (s.setTeam t).lt0 = s.lt0 := rfl
@[simp] theorem State.setTeam_lt1 (s : State) (t : Team) : (s.setTeam t).lt1 = s.lt1 := rfl
@[simp] theorem State.setTeam_aelmel (s : State) (t : Team) : (s.setTeam t).aelmel = s.aelmel := rfl
@[simp] theorem State.setTeam_health (s : State) (t : Team) : (s.setTeam t).health = s.health := rfl
@[simp] theorem State.setTeam_ckpt (s : State) (t : Team) : (s.setTeam t).ckpt = s.ckpt := rfl
@[simp] theorem State.setTeam_launchid (s : State) (t : Team) : (s.setTeam t).launchid = s.launchid := rfl
@[simp] theorem State.setTeam_notes (s : State) (t : Team) : (s.setTeam t).notes = s.notes := rfl
@[simp] theorem State.setTeam_sends (s : State) (t : Team) : (s.setTeam t).sends = s.sends := rfl
@[simp] theorem State.setTeam_services (s : State) (t : Team) : (s.setTeam t).services = s.services := rfl
@[simp] theorem State.setTeam_mem (s : State) (t : Team) : (s.setTeam t).mem = s.mem := rfl
@[simp] theorem State.setTeam_sram (s : State) (t : Team) : (s.setTeam t).sram = s.sram := rfl
@[simp] theorem State.setTeam_badBursts (s : State) (t : Team) : (s.setTeam t).badBursts = s.badBursts := rfl
@[simp] theorem State.setTeam_badSlices (s : State) (t : Team) : (s.setTeam t).badSlices = s.badSlices := rfl
@[simp] theorem State.setTeam_vmtbase (s : State) (t : Team) : (s.setTeam t).vmtbase = s.vmtbase := rfl
@[simp] theorem State.setTeam_dies (s : State) (t : Team) : (s.setTeam t).dies = s.dies := rfl
@[simp] theorem State.setTeam_tiles (s : State) (t : Team) : (s.setTeam t).tiles = s.tiles := rfl
@[simp] theorem State.setTeam_clusters (s : State) (t : Team) : (s.setTeam t).clusters = s.clusters := rfl
@[simp] theorem State.setTeam_partns (s : State) (t : Team) : (s.setTeam t).partns = s.partns := rfl
@[simp] theorem State.setTeam_tlbs (s : State) (t : Team) : (s.setTeam t).tlbs = s.tlbs := rfl
@[simp] theorem State.setTeam_ptiles (s : State) (t : Team) : (s.setTeam t).ptiles = s.ptiles := rfl
@[simp] theorem State.setTeam_pclusters (s : State) (t : Team) : (s.setTeam t).pclusters = s.pclusters := rfl
@[simp] theorem State.setTeam_pbanks (s : State) (t : Team) : (s.setTeam t).pbanks = s.pbanks := rfl
@[simp] theorem State.setTeam_selPlace (s : State) (t : Team) : (s.setTeam t).selPlace = s.selPlace := rfl
@[simp] theorem State.setTeam_groups (s : State) (t : Team) : (s.setTeam t).groups = s.groups := rfl
@[simp] theorem State.setTeam_gangs (s : State) (t : Team) : (s.setTeam t).gangs = s.gangs := rfl
@[simp] theorem State.setTeam_works (s : State) (t : Team) : (s.setTeam t).works = s.works := rfl
@[simp] theorem State.setTeam_log (s : State) (t : Team) : (s.setTeam t).log = s.log := rfl
@[simp] theorem State.setTeam_copies (s : State) (t : Team) : (s.setTeam t).copies = s.copies := rfl
@[simp] theorem State.setTeam_acks (s : State) (t : Team) : (s.setTeam t).acks = s.acks := rfl
@[simp] theorem State.setTeam_transfers (s : State) (t : Team) : (s.setTeam t).transfers = s.transfers := rfl
@[simp] theorem State.setTeam_tokens (s : State) (t : Team) : (s.setTeam t).tokens = s.tokens := rfl
@[simp] theorem State.setTeam_mail (s : State) (t : Team) : (s.setTeam t).mail = s.mail := rfl
@[simp] theorem State.setTeam_portQueues (s : State) (t : Team) : (s.setTeam t).portQueues = s.portQueues := rfl
@[simp] theorem State.setTeam_agenda (s : State) (t : Team) : (s.setTeam t).agenda = s.agenda := rfl
@[simp] theorem State.setTeam_issueq (s : State) (t : Team) : (s.setTeam t).issueq = s.issueq := rfl
@[simp] theorem State.setTeam_chosen (s : State) (t : Team) : (s.setTeam t).chosen = s.chosen := rfl
@[simp] theorem State.setTeam_cur (s : State) (t : Team) : (s.setTeam t).cur = s.cur := rfl
@[simp] theorem State.setTeam_used (s : State) (t : Team) : (s.setTeam t).used = s.used := rfl
@[simp] theorem State.setTeam_muted (s : State) (t : Team) : (s.setTeam t).muted = s.muted := rfl
@[simp] theorem State.setTeam_sched (s : State) (t : Team) : (s.setTeam t).sched = s.sched := rfl
@[simp] theorem State.setTeam_fresh (s : State) (t : Team) : (s.setTeam t).fresh = s.fresh := rfl
@[simp] theorem State.setTeam_nextId (s : State) (t : Team) : (s.setTeam t).nextId = s.nextId := rfl

@[simp] theorem State.setGang_part (s : State) (g : Gang) : (s.setGang g).part = s.part := rfl
@[simp] theorem State.setGang_time (s : State) (g : Gang) : (s.setGang g).time = s.time := rfl
@[simp] theorem State.setGang_lt0 (s : State) (g : Gang) : (s.setGang g).lt0 = s.lt0 := rfl
@[simp] theorem State.setGang_lt1 (s : State) (g : Gang) : (s.setGang g).lt1 = s.lt1 := rfl
@[simp] theorem State.setGang_aelmel (s : State) (g : Gang) : (s.setGang g).aelmel = s.aelmel := rfl
@[simp] theorem State.setGang_health (s : State) (g : Gang) : (s.setGang g).health = s.health := rfl
@[simp] theorem State.setGang_ckpt (s : State) (g : Gang) : (s.setGang g).ckpt = s.ckpt := rfl
@[simp] theorem State.setGang_launchid (s : State) (g : Gang) : (s.setGang g).launchid = s.launchid := rfl
@[simp] theorem State.setGang_notes (s : State) (g : Gang) : (s.setGang g).notes = s.notes := rfl
@[simp] theorem State.setGang_sends (s : State) (g : Gang) : (s.setGang g).sends = s.sends := rfl
@[simp] theorem State.setGang_services (s : State) (g : Gang) : (s.setGang g).services = s.services := rfl
@[simp] theorem State.setGang_mem (s : State) (g : Gang) : (s.setGang g).mem = s.mem := rfl
@[simp] theorem State.setGang_sram (s : State) (g : Gang) : (s.setGang g).sram = s.sram := rfl
@[simp] theorem State.setGang_badBursts (s : State) (g : Gang) : (s.setGang g).badBursts = s.badBursts := rfl
@[simp] theorem State.setGang_badSlices (s : State) (g : Gang) : (s.setGang g).badSlices = s.badSlices := rfl
@[simp] theorem State.setGang_vmtbase (s : State) (g : Gang) : (s.setGang g).vmtbase = s.vmtbase := rfl
@[simp] theorem State.setGang_dies (s : State) (g : Gang) : (s.setGang g).dies = s.dies := rfl
@[simp] theorem State.setGang_tiles (s : State) (g : Gang) : (s.setGang g).tiles = s.tiles := rfl
@[simp] theorem State.setGang_clusters (s : State) (g : Gang) : (s.setGang g).clusters = s.clusters := rfl
@[simp] theorem State.setGang_partns (s : State) (g : Gang) : (s.setGang g).partns = s.partns := rfl
@[simp] theorem State.setGang_tlbs (s : State) (g : Gang) : (s.setGang g).tlbs = s.tlbs := rfl
@[simp] theorem State.setGang_ptiles (s : State) (g : Gang) : (s.setGang g).ptiles = s.ptiles := rfl
@[simp] theorem State.setGang_pclusters (s : State) (g : Gang) : (s.setGang g).pclusters = s.pclusters := rfl
@[simp] theorem State.setGang_pbanks (s : State) (g : Gang) : (s.setGang g).pbanks = s.pbanks := rfl
@[simp] theorem State.setGang_selPlace (s : State) (g : Gang) : (s.setGang g).selPlace = s.selPlace := rfl
@[simp] theorem State.setGang_groups (s : State) (g : Gang) : (s.setGang g).groups = s.groups := rfl
@[simp] theorem State.setGang_teams (s : State) (g : Gang) : (s.setGang g).teams = s.teams := rfl
@[simp] theorem State.setGang_works (s : State) (g : Gang) : (s.setGang g).works = s.works := rfl
@[simp] theorem State.setGang_log (s : State) (g : Gang) : (s.setGang g).log = s.log := rfl
@[simp] theorem State.setGang_copies (s : State) (g : Gang) : (s.setGang g).copies = s.copies := rfl
@[simp] theorem State.setGang_acks (s : State) (g : Gang) : (s.setGang g).acks = s.acks := rfl
@[simp] theorem State.setGang_transfers (s : State) (g : Gang) : (s.setGang g).transfers = s.transfers := rfl
@[simp] theorem State.setGang_tokens (s : State) (g : Gang) : (s.setGang g).tokens = s.tokens := rfl
@[simp] theorem State.setGang_mail (s : State) (g : Gang) : (s.setGang g).mail = s.mail := rfl
@[simp] theorem State.setGang_portQueues (s : State) (g : Gang) : (s.setGang g).portQueues = s.portQueues := rfl
@[simp] theorem State.setGang_agenda (s : State) (g : Gang) : (s.setGang g).agenda = s.agenda := rfl
@[simp] theorem State.setGang_issueq (s : State) (g : Gang) : (s.setGang g).issueq = s.issueq := rfl
@[simp] theorem State.setGang_chosen (s : State) (g : Gang) : (s.setGang g).chosen = s.chosen := rfl
@[simp] theorem State.setGang_cur (s : State) (g : Gang) : (s.setGang g).cur = s.cur := rfl
@[simp] theorem State.setGang_used (s : State) (g : Gang) : (s.setGang g).used = s.used := rfl
@[simp] theorem State.setGang_muted (s : State) (g : Gang) : (s.setGang g).muted = s.muted := rfl
@[simp] theorem State.setGang_sched (s : State) (g : Gang) : (s.setGang g).sched = s.sched := rfl
@[simp] theorem State.setGang_fresh (s : State) (g : Gang) : (s.setGang g).fresh = s.fresh := rfl
@[simp] theorem State.setGang_nextId (s : State) (g : Gang) : (s.setGang g).nextId = s.nextId := rfl

@[simp] theorem State.setWork_part (s : State) (w : Work) : (s.setWork w).part = s.part := rfl
@[simp] theorem State.setWork_time (s : State) (w : Work) : (s.setWork w).time = s.time := rfl
@[simp] theorem State.setWork_lt0 (s : State) (w : Work) : (s.setWork w).lt0 = s.lt0 := rfl
@[simp] theorem State.setWork_lt1 (s : State) (w : Work) : (s.setWork w).lt1 = s.lt1 := rfl
@[simp] theorem State.setWork_aelmel (s : State) (w : Work) : (s.setWork w).aelmel = s.aelmel := rfl
@[simp] theorem State.setWork_health (s : State) (w : Work) : (s.setWork w).health = s.health := rfl
@[simp] theorem State.setWork_ckpt (s : State) (w : Work) : (s.setWork w).ckpt = s.ckpt := rfl
@[simp] theorem State.setWork_launchid (s : State) (w : Work) : (s.setWork w).launchid = s.launchid := rfl
@[simp] theorem State.setWork_notes (s : State) (w : Work) : (s.setWork w).notes = s.notes := rfl
@[simp] theorem State.setWork_sends (s : State) (w : Work) : (s.setWork w).sends = s.sends := rfl
@[simp] theorem State.setWork_services (s : State) (w : Work) : (s.setWork w).services = s.services := rfl
@[simp] theorem State.setWork_mem (s : State) (w : Work) : (s.setWork w).mem = s.mem := rfl
@[simp] theorem State.setWork_sram (s : State) (w : Work) : (s.setWork w).sram = s.sram := rfl
@[simp] theorem State.setWork_badBursts (s : State) (w : Work) : (s.setWork w).badBursts = s.badBursts := rfl
@[simp] theorem State.setWork_badSlices (s : State) (w : Work) : (s.setWork w).badSlices = s.badSlices := rfl
@[simp] theorem State.setWork_vmtbase (s : State) (w : Work) : (s.setWork w).vmtbase = s.vmtbase := rfl
@[simp] theorem State.setWork_dies (s : State) (w : Work) : (s.setWork w).dies = s.dies := rfl
@[simp] theorem State.setWork_tiles (s : State) (w : Work) : (s.setWork w).tiles = s.tiles := rfl
@[simp] theorem State.setWork_clusters (s : State) (w : Work) : (s.setWork w).clusters = s.clusters := rfl
@[simp] theorem State.setWork_partns (s : State) (w : Work) : (s.setWork w).partns = s.partns := rfl
@[simp] theorem State.setWork_tlbs (s : State) (w : Work) : (s.setWork w).tlbs = s.tlbs := rfl
@[simp] theorem State.setWork_ptiles (s : State) (w : Work) : (s.setWork w).ptiles = s.ptiles := rfl
@[simp] theorem State.setWork_pclusters (s : State) (w : Work) : (s.setWork w).pclusters = s.pclusters := rfl
@[simp] theorem State.setWork_pbanks (s : State) (w : Work) : (s.setWork w).pbanks = s.pbanks := rfl
@[simp] theorem State.setWork_selPlace (s : State) (w : Work) : (s.setWork w).selPlace = s.selPlace := rfl
@[simp] theorem State.setWork_groups (s : State) (w : Work) : (s.setWork w).groups = s.groups := rfl
@[simp] theorem State.setWork_teams (s : State) (w : Work) : (s.setWork w).teams = s.teams := rfl
@[simp] theorem State.setWork_gangs (s : State) (w : Work) : (s.setWork w).gangs = s.gangs := rfl
@[simp] theorem State.setWork_log (s : State) (w : Work) : (s.setWork w).log = s.log := rfl
@[simp] theorem State.setWork_copies (s : State) (w : Work) : (s.setWork w).copies = s.copies := rfl
@[simp] theorem State.setWork_acks (s : State) (w : Work) : (s.setWork w).acks = s.acks := rfl
@[simp] theorem State.setWork_transfers (s : State) (w : Work) : (s.setWork w).transfers = s.transfers := rfl
@[simp] theorem State.setWork_tokens (s : State) (w : Work) : (s.setWork w).tokens = s.tokens := rfl
@[simp] theorem State.setWork_mail (s : State) (w : Work) : (s.setWork w).mail = s.mail := rfl
@[simp] theorem State.setWork_portQueues (s : State) (w : Work) : (s.setWork w).portQueues = s.portQueues := rfl
@[simp] theorem State.setWork_agenda (s : State) (w : Work) : (s.setWork w).agenda = s.agenda := rfl
@[simp] theorem State.setWork_issueq (s : State) (w : Work) : (s.setWork w).issueq = s.issueq := rfl
@[simp] theorem State.setWork_chosen (s : State) (w : Work) : (s.setWork w).chosen = s.chosen := rfl
@[simp] theorem State.setWork_cur (s : State) (w : Work) : (s.setWork w).cur = s.cur := rfl
@[simp] theorem State.setWork_used (s : State) (w : Work) : (s.setWork w).used = s.used := rfl
@[simp] theorem State.setWork_muted (s : State) (w : Work) : (s.setWork w).muted = s.muted := rfl
@[simp] theorem State.setWork_sched (s : State) (w : Work) : (s.setWork w).sched = s.sched := rfl
@[simp] theorem State.setWork_fresh (s : State) (w : Work) : (s.setWork w).fresh = s.fresh := rfl
@[simp] theorem State.setWork_nextId (s : State) (w : Work) : (s.setWork w).nextId = s.nextId := rfl

@[simp] theorem State.setTile_part (s : State) (n : Nat) (x : Tile) : (s.setTile n x).part = s.part := rfl
@[simp] theorem State.setTile_time (s : State) (n : Nat) (x : Tile) : (s.setTile n x).time = s.time := rfl
@[simp] theorem State.setTile_lt0 (s : State) (n : Nat) (x : Tile) : (s.setTile n x).lt0 = s.lt0 := rfl
@[simp] theorem State.setTile_lt1 (s : State) (n : Nat) (x : Tile) : (s.setTile n x).lt1 = s.lt1 := rfl
@[simp] theorem State.setTile_aelmel (s : State) (n : Nat) (x : Tile) : (s.setTile n x).aelmel = s.aelmel := rfl
@[simp] theorem State.setTile_health (s : State) (n : Nat) (x : Tile) : (s.setTile n x).health = s.health := rfl
@[simp] theorem State.setTile_ckpt (s : State) (n : Nat) (x : Tile) : (s.setTile n x).ckpt = s.ckpt := rfl
@[simp] theorem State.setTile_launchid (s : State) (n : Nat) (x : Tile) : (s.setTile n x).launchid = s.launchid := rfl
@[simp] theorem State.setTile_notes (s : State) (n : Nat) (x : Tile) : (s.setTile n x).notes = s.notes := rfl
@[simp] theorem State.setTile_sends (s : State) (n : Nat) (x : Tile) : (s.setTile n x).sends = s.sends := rfl
@[simp] theorem State.setTile_services (s : State) (n : Nat) (x : Tile) : (s.setTile n x).services = s.services := rfl
@[simp] theorem State.setTile_mem (s : State) (n : Nat) (x : Tile) : (s.setTile n x).mem = s.mem := rfl
@[simp] theorem State.setTile_sram (s : State) (n : Nat) (x : Tile) : (s.setTile n x).sram = s.sram := rfl
@[simp] theorem State.setTile_badBursts (s : State) (n : Nat) (x : Tile) : (s.setTile n x).badBursts = s.badBursts := rfl
@[simp] theorem State.setTile_badSlices (s : State) (n : Nat) (x : Tile) : (s.setTile n x).badSlices = s.badSlices := rfl
@[simp] theorem State.setTile_vmtbase (s : State) (n : Nat) (x : Tile) : (s.setTile n x).vmtbase = s.vmtbase := rfl
@[simp] theorem State.setTile_dies (s : State) (n : Nat) (x : Tile) : (s.setTile n x).dies = s.dies := rfl
@[simp] theorem State.setTile_clusters (s : State) (n : Nat) (x : Tile) : (s.setTile n x).clusters = s.clusters := rfl
@[simp] theorem State.setTile_partns (s : State) (n : Nat) (x : Tile) : (s.setTile n x).partns = s.partns := rfl
@[simp] theorem State.setTile_tlbs (s : State) (n : Nat) (x : Tile) : (s.setTile n x).tlbs = s.tlbs := rfl
@[simp] theorem State.setTile_ptiles (s : State) (n : Nat) (x : Tile) : (s.setTile n x).ptiles = s.ptiles := rfl
@[simp] theorem State.setTile_pclusters (s : State) (n : Nat) (x : Tile) : (s.setTile n x).pclusters = s.pclusters := rfl
@[simp] theorem State.setTile_pbanks (s : State) (n : Nat) (x : Tile) : (s.setTile n x).pbanks = s.pbanks := rfl
@[simp] theorem State.setTile_selPlace (s : State) (n : Nat) (x : Tile) : (s.setTile n x).selPlace = s.selPlace := rfl
@[simp] theorem State.setTile_groups (s : State) (n : Nat) (x : Tile) : (s.setTile n x).groups = s.groups := rfl
@[simp] theorem State.setTile_teams (s : State) (n : Nat) (x : Tile) : (s.setTile n x).teams = s.teams := rfl
@[simp] theorem State.setTile_gangs (s : State) (n : Nat) (x : Tile) : (s.setTile n x).gangs = s.gangs := rfl
@[simp] theorem State.setTile_works (s : State) (n : Nat) (x : Tile) : (s.setTile n x).works = s.works := rfl
@[simp] theorem State.setTile_log (s : State) (n : Nat) (x : Tile) : (s.setTile n x).log = s.log := rfl
@[simp] theorem State.setTile_copies (s : State) (n : Nat) (x : Tile) : (s.setTile n x).copies = s.copies := rfl
@[simp] theorem State.setTile_acks (s : State) (n : Nat) (x : Tile) : (s.setTile n x).acks = s.acks := rfl
@[simp] theorem State.setTile_transfers (s : State) (n : Nat) (x : Tile) : (s.setTile n x).transfers = s.transfers := rfl
@[simp] theorem State.setTile_tokens (s : State) (n : Nat) (x : Tile) : (s.setTile n x).tokens = s.tokens := rfl
@[simp] theorem State.setTile_mail (s : State) (n : Nat) (x : Tile) : (s.setTile n x).mail = s.mail := rfl
@[simp] theorem State.setTile_portQueues (s : State) (n : Nat) (x : Tile) : (s.setTile n x).portQueues = s.portQueues := rfl
@[simp] theorem State.setTile_agenda (s : State) (n : Nat) (x : Tile) : (s.setTile n x).agenda = s.agenda := rfl
@[simp] theorem State.setTile_issueq (s : State) (n : Nat) (x : Tile) : (s.setTile n x).issueq = s.issueq := rfl
@[simp] theorem State.setTile_chosen (s : State) (n : Nat) (x : Tile) : (s.setTile n x).chosen = s.chosen := rfl
@[simp] theorem State.setTile_cur (s : State) (n : Nat) (x : Tile) : (s.setTile n x).cur = s.cur := rfl
@[simp] theorem State.setTile_used (s : State) (n : Nat) (x : Tile) : (s.setTile n x).used = s.used := rfl
@[simp] theorem State.setTile_muted (s : State) (n : Nat) (x : Tile) : (s.setTile n x).muted = s.muted := rfl
@[simp] theorem State.setTile_sched (s : State) (n : Nat) (x : Tile) : (s.setTile n x).sched = s.sched := rfl
@[simp] theorem State.setTile_fresh (s : State) (n : Nat) (x : Tile) : (s.setTile n x).fresh = s.fresh := rfl
@[simp] theorem State.setTile_nextId (s : State) (n : Nat) (x : Tile) : (s.setTile n x).nextId = s.nextId := rfl

@[simp] theorem State.setDie_part (s : State) (n : Nat) (x : Die) : (s.setDie n x).part = s.part := rfl
@[simp] theorem State.setDie_time (s : State) (n : Nat) (x : Die) : (s.setDie n x).time = s.time := rfl
@[simp] theorem State.setDie_lt0 (s : State) (n : Nat) (x : Die) : (s.setDie n x).lt0 = s.lt0 := rfl
@[simp] theorem State.setDie_lt1 (s : State) (n : Nat) (x : Die) : (s.setDie n x).lt1 = s.lt1 := rfl
@[simp] theorem State.setDie_aelmel (s : State) (n : Nat) (x : Die) : (s.setDie n x).aelmel = s.aelmel := rfl
@[simp] theorem State.setDie_health (s : State) (n : Nat) (x : Die) : (s.setDie n x).health = s.health := rfl
@[simp] theorem State.setDie_ckpt (s : State) (n : Nat) (x : Die) : (s.setDie n x).ckpt = s.ckpt := rfl
@[simp] theorem State.setDie_launchid (s : State) (n : Nat) (x : Die) : (s.setDie n x).launchid = s.launchid := rfl
@[simp] theorem State.setDie_notes (s : State) (n : Nat) (x : Die) : (s.setDie n x).notes = s.notes := rfl
@[simp] theorem State.setDie_sends (s : State) (n : Nat) (x : Die) : (s.setDie n x).sends = s.sends := rfl
@[simp] theorem State.setDie_services (s : State) (n : Nat) (x : Die) : (s.setDie n x).services = s.services := rfl
@[simp] theorem State.setDie_mem (s : State) (n : Nat) (x : Die) : (s.setDie n x).mem = s.mem := rfl
@[simp] theorem State.setDie_sram (s : State) (n : Nat) (x : Die) : (s.setDie n x).sram = s.sram := rfl
@[simp] theorem State.setDie_badBursts (s : State) (n : Nat) (x : Die) : (s.setDie n x).badBursts = s.badBursts := rfl
@[simp] theorem State.setDie_badSlices (s : State) (n : Nat) (x : Die) : (s.setDie n x).badSlices = s.badSlices := rfl
@[simp] theorem State.setDie_vmtbase (s : State) (n : Nat) (x : Die) : (s.setDie n x).vmtbase = s.vmtbase := rfl
@[simp] theorem State.setDie_tiles (s : State) (n : Nat) (x : Die) : (s.setDie n x).tiles = s.tiles := rfl
@[simp] theorem State.setDie_clusters (s : State) (n : Nat) (x : Die) : (s.setDie n x).clusters = s.clusters := rfl
@[simp] theorem State.setDie_partns (s : State) (n : Nat) (x : Die) : (s.setDie n x).partns = s.partns := rfl
@[simp] theorem State.setDie_tlbs (s : State) (n : Nat) (x : Die) : (s.setDie n x).tlbs = s.tlbs := rfl
@[simp] theorem State.setDie_ptiles (s : State) (n : Nat) (x : Die) : (s.setDie n x).ptiles = s.ptiles := rfl
@[simp] theorem State.setDie_pclusters (s : State) (n : Nat) (x : Die) : (s.setDie n x).pclusters = s.pclusters := rfl
@[simp] theorem State.setDie_pbanks (s : State) (n : Nat) (x : Die) : (s.setDie n x).pbanks = s.pbanks := rfl
@[simp] theorem State.setDie_selPlace (s : State) (n : Nat) (x : Die) : (s.setDie n x).selPlace = s.selPlace := rfl
@[simp] theorem State.setDie_groups (s : State) (n : Nat) (x : Die) : (s.setDie n x).groups = s.groups := rfl
@[simp] theorem State.setDie_teams (s : State) (n : Nat) (x : Die) : (s.setDie n x).teams = s.teams := rfl
@[simp] theorem State.setDie_gangs (s : State) (n : Nat) (x : Die) : (s.setDie n x).gangs = s.gangs := rfl
@[simp] theorem State.setDie_works (s : State) (n : Nat) (x : Die) : (s.setDie n x).works = s.works := rfl
@[simp] theorem State.setDie_log (s : State) (n : Nat) (x : Die) : (s.setDie n x).log = s.log := rfl
@[simp] theorem State.setDie_copies (s : State) (n : Nat) (x : Die) : (s.setDie n x).copies = s.copies := rfl
@[simp] theorem State.setDie_acks (s : State) (n : Nat) (x : Die) : (s.setDie n x).acks = s.acks := rfl
@[simp] theorem State.setDie_transfers (s : State) (n : Nat) (x : Die) : (s.setDie n x).transfers = s.transfers := rfl
@[simp] theorem State.setDie_tokens (s : State) (n : Nat) (x : Die) : (s.setDie n x).tokens = s.tokens := rfl
@[simp] theorem State.setDie_mail (s : State) (n : Nat) (x : Die) : (s.setDie n x).mail = s.mail := rfl
@[simp] theorem State.setDie_portQueues (s : State) (n : Nat) (x : Die) : (s.setDie n x).portQueues = s.portQueues := rfl
@[simp] theorem State.setDie_agenda (s : State) (n : Nat) (x : Die) : (s.setDie n x).agenda = s.agenda := rfl
@[simp] theorem State.setDie_issueq (s : State) (n : Nat) (x : Die) : (s.setDie n x).issueq = s.issueq := rfl
@[simp] theorem State.setDie_chosen (s : State) (n : Nat) (x : Die) : (s.setDie n x).chosen = s.chosen := rfl
@[simp] theorem State.setDie_cur (s : State) (n : Nat) (x : Die) : (s.setDie n x).cur = s.cur := rfl
@[simp] theorem State.setDie_used (s : State) (n : Nat) (x : Die) : (s.setDie n x).used = s.used := rfl
@[simp] theorem State.setDie_muted (s : State) (n : Nat) (x : Die) : (s.setDie n x).muted = s.muted := rfl
@[simp] theorem State.setDie_sched (s : State) (n : Nat) (x : Die) : (s.setDie n x).sched = s.sched := rfl
@[simp] theorem State.setDie_fresh (s : State) (n : Nat) (x : Die) : (s.setDie n x).fresh = s.fresh := rfl
@[simp] theorem State.setDie_nextId (s : State) (n : Nat) (x : Die) : (s.setDie n x).nextId = s.nextId := rfl

@[simp] theorem State.setCluster_part (s : State) (n : Nat) (x : Cluster) : (s.setCluster n x).part = s.part := rfl
@[simp] theorem State.setCluster_time (s : State) (n : Nat) (x : Cluster) : (s.setCluster n x).time = s.time := rfl
@[simp] theorem State.setCluster_lt0 (s : State) (n : Nat) (x : Cluster) : (s.setCluster n x).lt0 = s.lt0 := rfl
@[simp] theorem State.setCluster_lt1 (s : State) (n : Nat) (x : Cluster) : (s.setCluster n x).lt1 = s.lt1 := rfl
@[simp] theorem State.setCluster_aelmel (s : State) (n : Nat) (x : Cluster) : (s.setCluster n x).aelmel = s.aelmel := rfl
@[simp] theorem State.setCluster_health (s : State) (n : Nat) (x : Cluster) : (s.setCluster n x).health = s.health := rfl
@[simp] theorem State.setCluster_ckpt (s : State) (n : Nat) (x : Cluster) : (s.setCluster n x).ckpt = s.ckpt := rfl
@[simp] theorem State.setCluster_launchid (s : State) (n : Nat) (x : Cluster) : (s.setCluster n x).launchid = s.launchid := rfl
@[simp] theorem State.setCluster_notes (s : State) (n : Nat) (x : Cluster) : (s.setCluster n x).notes = s.notes := rfl
@[simp] theorem State.setCluster_sends (s : State) (n : Nat) (x : Cluster) : (s.setCluster n x).sends = s.sends := rfl
@[simp] theorem State.setCluster_services (s : State) (n : Nat) (x : Cluster) : (s.setCluster n x).services = s.services := rfl
@[simp] theorem State.setCluster_mem (s : State) (n : Nat) (x : Cluster) : (s.setCluster n x).mem = s.mem := rfl
@[simp] theorem State.setCluster_sram (s : State) (n : Nat) (x : Cluster) : (s.setCluster n x).sram = s.sram := rfl
@[simp] theorem State.setCluster_badBursts (s : State) (n : Nat) (x : Cluster) : (s.setCluster n x).badBursts = s.badBursts := rfl
@[simp] theorem State.setCluster_badSlices (s : State) (n : Nat) (x : Cluster) : (s.setCluster n x).badSlices = s.badSlices := rfl
@[simp] theorem State.setCluster_vmtbase (s : State) (n : Nat) (x : Cluster) : (s.setCluster n x).vmtbase = s.vmtbase := rfl
@[simp] theorem State.setCluster_dies (s : State) (n : Nat) (x : Cluster) : (s.setCluster n x).dies = s.dies := rfl
@[simp] theorem State.setCluster_tiles (s : State) (n : Nat) (x : Cluster) : (s.setCluster n x).tiles = s.tiles := rfl
@[simp] theorem State.setCluster_partns (s : State) (n : Nat) (x : Cluster) : (s.setCluster n x).partns = s.partns := rfl
@[simp] theorem State.setCluster_tlbs (s : State) (n : Nat) (x : Cluster) : (s.setCluster n x).tlbs = s.tlbs := rfl
@[simp] theorem State.setCluster_ptiles (s : State) (n : Nat) (x : Cluster) : (s.setCluster n x).ptiles = s.ptiles := rfl
@[simp] theorem State.setCluster_pclusters (s : State) (n : Nat) (x : Cluster) : (s.setCluster n x).pclusters = s.pclusters := rfl
@[simp] theorem State.setCluster_pbanks (s : State) (n : Nat) (x : Cluster) : (s.setCluster n x).pbanks = s.pbanks := rfl
@[simp] theorem State.setCluster_selPlace (s : State) (n : Nat) (x : Cluster) : (s.setCluster n x).selPlace = s.selPlace := rfl
@[simp] theorem State.setCluster_groups (s : State) (n : Nat) (x : Cluster) : (s.setCluster n x).groups = s.groups := rfl
@[simp] theorem State.setCluster_teams (s : State) (n : Nat) (x : Cluster) : (s.setCluster n x).teams = s.teams := rfl
@[simp] theorem State.setCluster_gangs (s : State) (n : Nat) (x : Cluster) : (s.setCluster n x).gangs = s.gangs := rfl
@[simp] theorem State.setCluster_works (s : State) (n : Nat) (x : Cluster) : (s.setCluster n x).works = s.works := rfl
@[simp] theorem State.setCluster_log (s : State) (n : Nat) (x : Cluster) : (s.setCluster n x).log = s.log := rfl
@[simp] theorem State.setCluster_copies (s : State) (n : Nat) (x : Cluster) : (s.setCluster n x).copies = s.copies := rfl
@[simp] theorem State.setCluster_acks (s : State) (n : Nat) (x : Cluster) : (s.setCluster n x).acks = s.acks := rfl
@[simp] theorem State.setCluster_transfers (s : State) (n : Nat) (x : Cluster) : (s.setCluster n x).transfers = s.transfers := rfl
@[simp] theorem State.setCluster_tokens (s : State) (n : Nat) (x : Cluster) : (s.setCluster n x).tokens = s.tokens := rfl
@[simp] theorem State.setCluster_mail (s : State) (n : Nat) (x : Cluster) : (s.setCluster n x).mail = s.mail := rfl
@[simp] theorem State.setCluster_portQueues (s : State) (n : Nat) (x : Cluster) : (s.setCluster n x).portQueues = s.portQueues := rfl
@[simp] theorem State.setCluster_agenda (s : State) (n : Nat) (x : Cluster) : (s.setCluster n x).agenda = s.agenda := rfl
@[simp] theorem State.setCluster_issueq (s : State) (n : Nat) (x : Cluster) : (s.setCluster n x).issueq = s.issueq := rfl
@[simp] theorem State.setCluster_chosen (s : State) (n : Nat) (x : Cluster) : (s.setCluster n x).chosen = s.chosen := rfl
@[simp] theorem State.setCluster_cur (s : State) (n : Nat) (x : Cluster) : (s.setCluster n x).cur = s.cur := rfl
@[simp] theorem State.setCluster_used (s : State) (n : Nat) (x : Cluster) : (s.setCluster n x).used = s.used := rfl
@[simp] theorem State.setCluster_muted (s : State) (n : Nat) (x : Cluster) : (s.setCluster n x).muted = s.muted := rfl
@[simp] theorem State.setCluster_sched (s : State) (n : Nat) (x : Cluster) : (s.setCluster n x).sched = s.sched := rfl
@[simp] theorem State.setCluster_fresh (s : State) (n : Nat) (x : Cluster) : (s.setCluster n x).fresh = s.fresh := rfl
@[simp] theorem State.setCluster_nextId (s : State) (n : Nat) (x : Cluster) : (s.setCluster n x).nextId = s.nextId := rfl

@[simp] theorem State.setPartn_part (s : State) (n : Nat) (x : Partn) : (s.setPartn n x).part = s.part := rfl
@[simp] theorem State.setPartn_time (s : State) (n : Nat) (x : Partn) : (s.setPartn n x).time = s.time := rfl
@[simp] theorem State.setPartn_lt0 (s : State) (n : Nat) (x : Partn) : (s.setPartn n x).lt0 = s.lt0 := rfl
@[simp] theorem State.setPartn_lt1 (s : State) (n : Nat) (x : Partn) : (s.setPartn n x).lt1 = s.lt1 := rfl
@[simp] theorem State.setPartn_aelmel (s : State) (n : Nat) (x : Partn) : (s.setPartn n x).aelmel = s.aelmel := rfl
@[simp] theorem State.setPartn_health (s : State) (n : Nat) (x : Partn) : (s.setPartn n x).health = s.health := rfl
@[simp] theorem State.setPartn_ckpt (s : State) (n : Nat) (x : Partn) : (s.setPartn n x).ckpt = s.ckpt := rfl
@[simp] theorem State.setPartn_launchid (s : State) (n : Nat) (x : Partn) : (s.setPartn n x).launchid = s.launchid := rfl
@[simp] theorem State.setPartn_notes (s : State) (n : Nat) (x : Partn) : (s.setPartn n x).notes = s.notes := rfl
@[simp] theorem State.setPartn_sends (s : State) (n : Nat) (x : Partn) : (s.setPartn n x).sends = s.sends := rfl
@[simp] theorem State.setPartn_services (s : State) (n : Nat) (x : Partn) : (s.setPartn n x).services = s.services := rfl
@[simp] theorem State.setPartn_mem (s : State) (n : Nat) (x : Partn) : (s.setPartn n x).mem = s.mem := rfl
@[simp] theorem State.setPartn_sram (s : State) (n : Nat) (x : Partn) : (s.setPartn n x).sram = s.sram := rfl
@[simp] theorem State.setPartn_badBursts (s : State) (n : Nat) (x : Partn) : (s.setPartn n x).badBursts = s.badBursts := rfl
@[simp] theorem State.setPartn_badSlices (s : State) (n : Nat) (x : Partn) : (s.setPartn n x).badSlices = s.badSlices := rfl
@[simp] theorem State.setPartn_vmtbase (s : State) (n : Nat) (x : Partn) : (s.setPartn n x).vmtbase = s.vmtbase := rfl
@[simp] theorem State.setPartn_dies (s : State) (n : Nat) (x : Partn) : (s.setPartn n x).dies = s.dies := rfl
@[simp] theorem State.setPartn_tiles (s : State) (n : Nat) (x : Partn) : (s.setPartn n x).tiles = s.tiles := rfl
@[simp] theorem State.setPartn_clusters (s : State) (n : Nat) (x : Partn) : (s.setPartn n x).clusters = s.clusters := rfl
@[simp] theorem State.setPartn_tlbs (s : State) (n : Nat) (x : Partn) : (s.setPartn n x).tlbs = s.tlbs := rfl
@[simp] theorem State.setPartn_ptiles (s : State) (n : Nat) (x : Partn) : (s.setPartn n x).ptiles = s.ptiles := rfl
@[simp] theorem State.setPartn_pclusters (s : State) (n : Nat) (x : Partn) : (s.setPartn n x).pclusters = s.pclusters := rfl
@[simp] theorem State.setPartn_pbanks (s : State) (n : Nat) (x : Partn) : (s.setPartn n x).pbanks = s.pbanks := rfl
@[simp] theorem State.setPartn_selPlace (s : State) (n : Nat) (x : Partn) : (s.setPartn n x).selPlace = s.selPlace := rfl
@[simp] theorem State.setPartn_groups (s : State) (n : Nat) (x : Partn) : (s.setPartn n x).groups = s.groups := rfl
@[simp] theorem State.setPartn_teams (s : State) (n : Nat) (x : Partn) : (s.setPartn n x).teams = s.teams := rfl
@[simp] theorem State.setPartn_gangs (s : State) (n : Nat) (x : Partn) : (s.setPartn n x).gangs = s.gangs := rfl
@[simp] theorem State.setPartn_works (s : State) (n : Nat) (x : Partn) : (s.setPartn n x).works = s.works := rfl
@[simp] theorem State.setPartn_log (s : State) (n : Nat) (x : Partn) : (s.setPartn n x).log = s.log := rfl
@[simp] theorem State.setPartn_copies (s : State) (n : Nat) (x : Partn) : (s.setPartn n x).copies = s.copies := rfl
@[simp] theorem State.setPartn_acks (s : State) (n : Nat) (x : Partn) : (s.setPartn n x).acks = s.acks := rfl
@[simp] theorem State.setPartn_transfers (s : State) (n : Nat) (x : Partn) : (s.setPartn n x).transfers = s.transfers := rfl
@[simp] theorem State.setPartn_tokens (s : State) (n : Nat) (x : Partn) : (s.setPartn n x).tokens = s.tokens := rfl
@[simp] theorem State.setPartn_mail (s : State) (n : Nat) (x : Partn) : (s.setPartn n x).mail = s.mail := rfl
@[simp] theorem State.setPartn_portQueues (s : State) (n : Nat) (x : Partn) : (s.setPartn n x).portQueues = s.portQueues := rfl
@[simp] theorem State.setPartn_agenda (s : State) (n : Nat) (x : Partn) : (s.setPartn n x).agenda = s.agenda := rfl
@[simp] theorem State.setPartn_issueq (s : State) (n : Nat) (x : Partn) : (s.setPartn n x).issueq = s.issueq := rfl
@[simp] theorem State.setPartn_chosen (s : State) (n : Nat) (x : Partn) : (s.setPartn n x).chosen = s.chosen := rfl
@[simp] theorem State.setPartn_cur (s : State) (n : Nat) (x : Partn) : (s.setPartn n x).cur = s.cur := rfl
@[simp] theorem State.setPartn_used (s : State) (n : Nat) (x : Partn) : (s.setPartn n x).used = s.used := rfl
@[simp] theorem State.setPartn_muted (s : State) (n : Nat) (x : Partn) : (s.setPartn n x).muted = s.muted := rfl
@[simp] theorem State.setPartn_sched (s : State) (n : Nat) (x : Partn) : (s.setPartn n x).sched = s.sched := rfl
@[simp] theorem State.setPartn_fresh (s : State) (n : Nat) (x : Partn) : (s.setPartn n x).fresh = s.fresh := rfl
@[simp] theorem State.setPartn_nextId (s : State) (n : Nat) (x : Partn) : (s.setPartn n x).nextId = s.nextId := rfl

@[simp] theorem State.setEntry_part (s : State) (e : LogEntry) : (s.setEntry e).part = s.part := rfl
@[simp] theorem State.setEntry_time (s : State) (e : LogEntry) : (s.setEntry e).time = s.time := rfl
@[simp] theorem State.setEntry_lt0 (s : State) (e : LogEntry) : (s.setEntry e).lt0 = s.lt0 := rfl
@[simp] theorem State.setEntry_lt1 (s : State) (e : LogEntry) : (s.setEntry e).lt1 = s.lt1 := rfl
@[simp] theorem State.setEntry_aelmel (s : State) (e : LogEntry) : (s.setEntry e).aelmel = s.aelmel := rfl
@[simp] theorem State.setEntry_health (s : State) (e : LogEntry) : (s.setEntry e).health = s.health := rfl
@[simp] theorem State.setEntry_ckpt (s : State) (e : LogEntry) : (s.setEntry e).ckpt = s.ckpt := rfl
@[simp] theorem State.setEntry_launchid (s : State) (e : LogEntry) : (s.setEntry e).launchid = s.launchid := rfl
@[simp] theorem State.setEntry_notes (s : State) (e : LogEntry) : (s.setEntry e).notes = s.notes := rfl
@[simp] theorem State.setEntry_sends (s : State) (e : LogEntry) : (s.setEntry e).sends = s.sends := rfl
@[simp] theorem State.setEntry_services (s : State) (e : LogEntry) : (s.setEntry e).services = s.services := rfl
@[simp] theorem State.setEntry_mem (s : State) (e : LogEntry) : (s.setEntry e).mem = s.mem := rfl
@[simp] theorem State.setEntry_sram (s : State) (e : LogEntry) : (s.setEntry e).sram = s.sram := rfl
@[simp] theorem State.setEntry_badBursts (s : State) (e : LogEntry) : (s.setEntry e).badBursts = s.badBursts := rfl
@[simp] theorem State.setEntry_badSlices (s : State) (e : LogEntry) : (s.setEntry e).badSlices = s.badSlices := rfl
@[simp] theorem State.setEntry_vmtbase (s : State) (e : LogEntry) : (s.setEntry e).vmtbase = s.vmtbase := rfl
@[simp] theorem State.setEntry_dies (s : State) (e : LogEntry) : (s.setEntry e).dies = s.dies := rfl
@[simp] theorem State.setEntry_tiles (s : State) (e : LogEntry) : (s.setEntry e).tiles = s.tiles := rfl
@[simp] theorem State.setEntry_clusters (s : State) (e : LogEntry) : (s.setEntry e).clusters = s.clusters := rfl
@[simp] theorem State.setEntry_partns (s : State) (e : LogEntry) : (s.setEntry e).partns = s.partns := rfl
@[simp] theorem State.setEntry_tlbs (s : State) (e : LogEntry) : (s.setEntry e).tlbs = s.tlbs := rfl
@[simp] theorem State.setEntry_ptiles (s : State) (e : LogEntry) : (s.setEntry e).ptiles = s.ptiles := rfl
@[simp] theorem State.setEntry_pclusters (s : State) (e : LogEntry) : (s.setEntry e).pclusters = s.pclusters := rfl
@[simp] theorem State.setEntry_pbanks (s : State) (e : LogEntry) : (s.setEntry e).pbanks = s.pbanks := rfl
@[simp] theorem State.setEntry_selPlace (s : State) (e : LogEntry) : (s.setEntry e).selPlace = s.selPlace := rfl
@[simp] theorem State.setEntry_groups (s : State) (e : LogEntry) : (s.setEntry e).groups = s.groups := rfl
@[simp] theorem State.setEntry_teams (s : State) (e : LogEntry) : (s.setEntry e).teams = s.teams := rfl
@[simp] theorem State.setEntry_gangs (s : State) (e : LogEntry) : (s.setEntry e).gangs = s.gangs := rfl
@[simp] theorem State.setEntry_works (s : State) (e : LogEntry) : (s.setEntry e).works = s.works := rfl
@[simp] theorem State.setEntry_copies (s : State) (e : LogEntry) : (s.setEntry e).copies = s.copies := rfl
@[simp] theorem State.setEntry_acks (s : State) (e : LogEntry) : (s.setEntry e).acks = s.acks := rfl
@[simp] theorem State.setEntry_transfers (s : State) (e : LogEntry) : (s.setEntry e).transfers = s.transfers := rfl
@[simp] theorem State.setEntry_tokens (s : State) (e : LogEntry) : (s.setEntry e).tokens = s.tokens := rfl
@[simp] theorem State.setEntry_mail (s : State) (e : LogEntry) : (s.setEntry e).mail = s.mail := rfl
@[simp] theorem State.setEntry_portQueues (s : State) (e : LogEntry) : (s.setEntry e).portQueues = s.portQueues := rfl
@[simp] theorem State.setEntry_agenda (s : State) (e : LogEntry) : (s.setEntry e).agenda = s.agenda := rfl
@[simp] theorem State.setEntry_issueq (s : State) (e : LogEntry) : (s.setEntry e).issueq = s.issueq := rfl
@[simp] theorem State.setEntry_chosen (s : State) (e : LogEntry) : (s.setEntry e).chosen = s.chosen := rfl
@[simp] theorem State.setEntry_cur (s : State) (e : LogEntry) : (s.setEntry e).cur = s.cur := rfl
@[simp] theorem State.setEntry_used (s : State) (e : LogEntry) : (s.setEntry e).used = s.used := rfl
@[simp] theorem State.setEntry_muted (s : State) (e : LogEntry) : (s.setEntry e).muted = s.muted := rfl
@[simp] theorem State.setEntry_sched (s : State) (e : LogEntry) : (s.setEntry e).sched = s.sched := rfl
@[simp] theorem State.setEntry_fresh (s : State) (e : LogEntry) : (s.setEntry e).fresh = s.fresh := rfl
@[simp] theorem State.setEntry_nextId (s : State) (e : LogEntry) : (s.setEntry e).nextId = s.nextId := rfl

@[simp] theorem State.dropEntry_part (s : State) (id : Nat) : (s.dropEntry id).part = s.part := rfl
@[simp] theorem State.dropEntry_time (s : State) (id : Nat) : (s.dropEntry id).time = s.time := rfl
@[simp] theorem State.dropEntry_lt0 (s : State) (id : Nat) : (s.dropEntry id).lt0 = s.lt0 := rfl
@[simp] theorem State.dropEntry_lt1 (s : State) (id : Nat) : (s.dropEntry id).lt1 = s.lt1 := rfl
@[simp] theorem State.dropEntry_aelmel (s : State) (id : Nat) : (s.dropEntry id).aelmel = s.aelmel := rfl
@[simp] theorem State.dropEntry_health (s : State) (id : Nat) : (s.dropEntry id).health = s.health := rfl
@[simp] theorem State.dropEntry_ckpt (s : State) (id : Nat) : (s.dropEntry id).ckpt = s.ckpt := rfl
@[simp] theorem State.dropEntry_launchid (s : State) (id : Nat) : (s.dropEntry id).launchid = s.launchid := rfl
@[simp] theorem State.dropEntry_notes (s : State) (id : Nat) : (s.dropEntry id).notes = s.notes := rfl
@[simp] theorem State.dropEntry_sends (s : State) (id : Nat) : (s.dropEntry id).sends = s.sends := rfl
@[simp] theorem State.dropEntry_services (s : State) (id : Nat) : (s.dropEntry id).services = s.services := rfl
@[simp] theorem State.dropEntry_mem (s : State) (id : Nat) : (s.dropEntry id).mem = s.mem := rfl
@[simp] theorem State.dropEntry_sram (s : State) (id : Nat) : (s.dropEntry id).sram = s.sram := rfl
@[simp] theorem State.dropEntry_badBursts (s : State) (id : Nat) : (s.dropEntry id).badBursts = s.badBursts := rfl
@[simp] theorem State.dropEntry_badSlices (s : State) (id : Nat) : (s.dropEntry id).badSlices = s.badSlices := rfl
@[simp] theorem State.dropEntry_vmtbase (s : State) (id : Nat) : (s.dropEntry id).vmtbase = s.vmtbase := rfl
@[simp] theorem State.dropEntry_dies (s : State) (id : Nat) : (s.dropEntry id).dies = s.dies := rfl
@[simp] theorem State.dropEntry_tiles (s : State) (id : Nat) : (s.dropEntry id).tiles = s.tiles := rfl
@[simp] theorem State.dropEntry_clusters (s : State) (id : Nat) : (s.dropEntry id).clusters = s.clusters := rfl
@[simp] theorem State.dropEntry_partns (s : State) (id : Nat) : (s.dropEntry id).partns = s.partns := rfl
@[simp] theorem State.dropEntry_tlbs (s : State) (id : Nat) : (s.dropEntry id).tlbs = s.tlbs := rfl
@[simp] theorem State.dropEntry_ptiles (s : State) (id : Nat) : (s.dropEntry id).ptiles = s.ptiles := rfl
@[simp] theorem State.dropEntry_pclusters (s : State) (id : Nat) : (s.dropEntry id).pclusters = s.pclusters := rfl
@[simp] theorem State.dropEntry_pbanks (s : State) (id : Nat) : (s.dropEntry id).pbanks = s.pbanks := rfl
@[simp] theorem State.dropEntry_selPlace (s : State) (id : Nat) : (s.dropEntry id).selPlace = s.selPlace := rfl
@[simp] theorem State.dropEntry_groups (s : State) (id : Nat) : (s.dropEntry id).groups = s.groups := rfl
@[simp] theorem State.dropEntry_teams (s : State) (id : Nat) : (s.dropEntry id).teams = s.teams := rfl
@[simp] theorem State.dropEntry_gangs (s : State) (id : Nat) : (s.dropEntry id).gangs = s.gangs := rfl
@[simp] theorem State.dropEntry_works (s : State) (id : Nat) : (s.dropEntry id).works = s.works := rfl
@[simp] theorem State.dropEntry_copies (s : State) (id : Nat) : (s.dropEntry id).copies = s.copies := rfl
@[simp] theorem State.dropEntry_acks (s : State) (id : Nat) : (s.dropEntry id).acks = s.acks := rfl
@[simp] theorem State.dropEntry_transfers (s : State) (id : Nat) : (s.dropEntry id).transfers = s.transfers := rfl
@[simp] theorem State.dropEntry_tokens (s : State) (id : Nat) : (s.dropEntry id).tokens = s.tokens := rfl
@[simp] theorem State.dropEntry_mail (s : State) (id : Nat) : (s.dropEntry id).mail = s.mail := rfl
@[simp] theorem State.dropEntry_portQueues (s : State) (id : Nat) : (s.dropEntry id).portQueues = s.portQueues := rfl
@[simp] theorem State.dropEntry_agenda (s : State) (id : Nat) : (s.dropEntry id).agenda = s.agenda := rfl
@[simp] theorem State.dropEntry_issueq (s : State) (id : Nat) : (s.dropEntry id).issueq = s.issueq := rfl
@[simp] theorem State.dropEntry_chosen (s : State) (id : Nat) : (s.dropEntry id).chosen = s.chosen := rfl
@[simp] theorem State.dropEntry_cur (s : State) (id : Nat) : (s.dropEntry id).cur = s.cur := rfl
@[simp] theorem State.dropEntry_used (s : State) (id : Nat) : (s.dropEntry id).used = s.used := rfl
@[simp] theorem State.dropEntry_muted (s : State) (id : Nat) : (s.dropEntry id).muted = s.muted := rfl
@[simp] theorem State.dropEntry_sched (s : State) (id : Nat) : (s.dropEntry id).sched = s.sched := rfl
@[simp] theorem State.dropEntry_fresh (s : State) (id : Nat) : (s.dropEntry id).fresh = s.fresh := rfl
@[simp] theorem State.dropEntry_nextId (s : State) (id : Nat) : (s.dropEntry id).nextId = s.nextId := rfl

@[simp] theorem State.setCopy_part (s : State) (c : Copy) : (s.setCopy c).part = s.part := rfl
@[simp] theorem State.setCopy_time (s : State) (c : Copy) : (s.setCopy c).time = s.time := rfl
@[simp] theorem State.setCopy_lt0 (s : State) (c : Copy) : (s.setCopy c).lt0 = s.lt0 := rfl
@[simp] theorem State.setCopy_lt1 (s : State) (c : Copy) : (s.setCopy c).lt1 = s.lt1 := rfl
@[simp] theorem State.setCopy_aelmel (s : State) (c : Copy) : (s.setCopy c).aelmel = s.aelmel := rfl
@[simp] theorem State.setCopy_health (s : State) (c : Copy) : (s.setCopy c).health = s.health := rfl
@[simp] theorem State.setCopy_ckpt (s : State) (c : Copy) : (s.setCopy c).ckpt = s.ckpt := rfl
@[simp] theorem State.setCopy_launchid (s : State) (c : Copy) : (s.setCopy c).launchid = s.launchid := rfl
@[simp] theorem State.setCopy_notes (s : State) (c : Copy) : (s.setCopy c).notes = s.notes := rfl
@[simp] theorem State.setCopy_sends (s : State) (c : Copy) : (s.setCopy c).sends = s.sends := rfl
@[simp] theorem State.setCopy_services (s : State) (c : Copy) : (s.setCopy c).services = s.services := rfl
@[simp] theorem State.setCopy_mem (s : State) (c : Copy) : (s.setCopy c).mem = s.mem := rfl
@[simp] theorem State.setCopy_sram (s : State) (c : Copy) : (s.setCopy c).sram = s.sram := rfl
@[simp] theorem State.setCopy_badBursts (s : State) (c : Copy) : (s.setCopy c).badBursts = s.badBursts := rfl
@[simp] theorem State.setCopy_badSlices (s : State) (c : Copy) : (s.setCopy c).badSlices = s.badSlices := rfl
@[simp] theorem State.setCopy_vmtbase (s : State) (c : Copy) : (s.setCopy c).vmtbase = s.vmtbase := rfl
@[simp] theorem State.setCopy_dies (s : State) (c : Copy) : (s.setCopy c).dies = s.dies := rfl
@[simp] theorem State.setCopy_tiles (s : State) (c : Copy) : (s.setCopy c).tiles = s.tiles := rfl
@[simp] theorem State.setCopy_clusters (s : State) (c : Copy) : (s.setCopy c).clusters = s.clusters := rfl
@[simp] theorem State.setCopy_partns (s : State) (c : Copy) : (s.setCopy c).partns = s.partns := rfl
@[simp] theorem State.setCopy_tlbs (s : State) (c : Copy) : (s.setCopy c).tlbs = s.tlbs := rfl
@[simp] theorem State.setCopy_ptiles (s : State) (c : Copy) : (s.setCopy c).ptiles = s.ptiles := rfl
@[simp] theorem State.setCopy_pclusters (s : State) (c : Copy) : (s.setCopy c).pclusters = s.pclusters := rfl
@[simp] theorem State.setCopy_pbanks (s : State) (c : Copy) : (s.setCopy c).pbanks = s.pbanks := rfl
@[simp] theorem State.setCopy_selPlace (s : State) (c : Copy) : (s.setCopy c).selPlace = s.selPlace := rfl
@[simp] theorem State.setCopy_groups (s : State) (c : Copy) : (s.setCopy c).groups = s.groups := rfl
@[simp] theorem State.setCopy_teams (s : State) (c : Copy) : (s.setCopy c).teams = s.teams := rfl
@[simp] theorem State.setCopy_gangs (s : State) (c : Copy) : (s.setCopy c).gangs = s.gangs := rfl
@[simp] theorem State.setCopy_works (s : State) (c : Copy) : (s.setCopy c).works = s.works := rfl
@[simp] theorem State.setCopy_log (s : State) (c : Copy) : (s.setCopy c).log = s.log := rfl
@[simp] theorem State.setCopy_acks (s : State) (c : Copy) : (s.setCopy c).acks = s.acks := rfl
@[simp] theorem State.setCopy_transfers (s : State) (c : Copy) : (s.setCopy c).transfers = s.transfers := rfl
@[simp] theorem State.setCopy_tokens (s : State) (c : Copy) : (s.setCopy c).tokens = s.tokens := rfl
@[simp] theorem State.setCopy_mail (s : State) (c : Copy) : (s.setCopy c).mail = s.mail := rfl
@[simp] theorem State.setCopy_portQueues (s : State) (c : Copy) : (s.setCopy c).portQueues = s.portQueues := rfl
@[simp] theorem State.setCopy_agenda (s : State) (c : Copy) : (s.setCopy c).agenda = s.agenda := rfl
@[simp] theorem State.setCopy_issueq (s : State) (c : Copy) : (s.setCopy c).issueq = s.issueq := rfl
@[simp] theorem State.setCopy_chosen (s : State) (c : Copy) : (s.setCopy c).chosen = s.chosen := rfl
@[simp] theorem State.setCopy_cur (s : State) (c : Copy) : (s.setCopy c).cur = s.cur := rfl
@[simp] theorem State.setCopy_used (s : State) (c : Copy) : (s.setCopy c).used = s.used := rfl
@[simp] theorem State.setCopy_muted (s : State) (c : Copy) : (s.setCopy c).muted = s.muted := rfl
@[simp] theorem State.setCopy_sched (s : State) (c : Copy) : (s.setCopy c).sched = s.sched := rfl
@[simp] theorem State.setCopy_fresh (s : State) (c : Copy) : (s.setCopy c).fresh = s.fresh := rfl
@[simp] theorem State.setCopy_nextId (s : State) (c : Copy) : (s.setCopy c).nextId = s.nextId := rfl

/-! ## Updates of a context -/

@[simp] theorem Group.setSlot_id (g : Group) (d : Dest) (v : Slot) : (g.setSlot d v).id = g.id := by cases d <;> rfl
@[simp] theorem Group.setSlot_core (g : Group) (d : Dest) (v : Slot) : (g.setSlot d v).core = g.core := by cases d <;> rfl
@[simp] theorem Group.setSlot_team (g : Group) (d : Dest) (v : Slot) : (g.setSlot d v).team = g.team := by cases d <;> rfl
@[simp] theorem Group.setSlot_role (g : Group) (d : Dest) (v : Slot) : (g.setSlot d v).role = g.role := by cases d <;> rfl
@[simp] theorem Group.setSlot_index (g : Group) (d : Dest) (v : Slot) : (g.setSlot d v).index = g.index := by cases d <;> rfl
@[simp] theorem Group.setSlot_seqr (g : Group) (d : Dest) (v : Slot) : (g.setSlot d v).seqr = g.seqr := by cases d <;> rfl
@[simp] theorem Group.setSlot_quarter (g : Group) (d : Dest) (v : Slot) : (g.setSlot d v).quarter = g.quarter := by cases d <;> rfl
@[simp] theorem Group.setSlot_width (g : Group) (d : Dest) (v : Slot) : (g.setSlot d v).width = g.width := by cases d <;> rfl
@[simp] theorem Group.setSlot_budget (g : Group) (d : Dest) (v : Slot) : (g.setSlot d v).budget = g.budget := by cases d <;> rfl
@[simp] theorem Group.setSlot_codehi (g : Group) (d : Dest) (v : Slot) : (g.setSlot d v).codehi = g.codehi := by cases d <;> rfl
@[simp] theorem Group.setSlot_asid (g : Group) (d : Dest) (v : Slot) : (g.setSlot d v).asid = g.asid := by cases d <;> rfl
@[simp] theorem Group.setSlot_vmid (g : Group) (d : Dest) (v : Slot) : (g.setSlot d v).vmid = g.vmid := by cases d <;> rfl
@[simp] theorem Group.setSlot_flow (g : Group) (d : Dest) (v : Slot) : (g.setSlot d v).flow = g.flow := by cases d <;> rfl
@[simp] theorem Group.setSlot_csrs (g : Group) (d : Dest) (v : Slot) : (g.setSlot d v).csrs = g.csrs := by cases d <;> rfl
@[simp] theorem Group.setSlot_cf (g : Group) (d : Dest) (v : Slot) : (g.setSlot d v).cf = g.cf := by cases d <;> rfl
@[simp] theorem Group.setSlot_clause (g : Group) (d : Dest) (v : Slot) : (g.setSlot d v).clause = g.clause := by cases d <;> rfl
@[simp] theorem Group.setSlot_frame (g : Group) (d : Dest) (v : Slot) : (g.setSlot d v).frame = g.frame := by cases d <;> rfl
@[simp] theorem Group.setSlot_pend (g : Group) (d : Dest) (v : Slot) : (g.setSlot d v).pend = g.pend := by cases d <;> rfl
@[simp] theorem Group.setSlot_due (g : Group) (d : Dest) (v : Slot) : (g.setSlot d v).due = g.due := by cases d <;> rfl
@[simp] theorem Group.setSlot_hold (g : Group) (d : Dest) (v : Slot) : (g.setSlot d v).hold = g.hold := by cases d <;> rfl
@[simp] theorem Group.setSlot_stall (g : Group) (d : Dest) (v : Slot) : (g.setSlot d v).stall = g.stall := by cases d <;> rfl
@[simp] theorem Group.setSlot_frozen (g : Group) (d : Dest) (v : Slot) : (g.setSlot d v).frozen = g.frozen := by cases d <;> rfl
@[simp] theorem Group.setSlot_owed (g : Group) (d : Dest) (v : Slot) : (g.setSlot d v).owed = g.owed := by cases d <;> rfl
@[simp] theorem Group.setSlot_retired (g : Group) (d : Dest) (v : Slot) : (g.setSlot d v).retired = g.retired := by cases d <;> rfl
@[simp] theorem Group.setSlot_nextBatch (g : Group) (d : Dest) (v : Slot) : (g.setSlot d v).nextBatch = g.nextBatch := by cases d <;> rfl
@[simp] theorem Group.setSlot_cyc (g : Group) (d : Dest) (v : Slot) : (g.setSlot d v).cyc = g.cyc := by cases d <;> rfl
@[simp] theorem Group.setSlot_age (g : Group) (d : Dest) (v : Slot) : (g.setSlot d v).age = g.age := by cases d <;> rfl
@[simp] theorem Group.setSlot_order (g : Group) (d : Dest) (v : Slot) : (g.setSlot d v).order = g.order := by cases d <;> rfl
@[simp] theorem Group.setSlot_lost (g : Group) (d : Dest) (v : Slot) : (g.setSlot d v).lost = g.lost := by cases d <;> rfl
@[simp] theorem Group.setSlot_yielded (g : Group) (d : Dest) (v : Slot) : (g.setSlot d v).yielded = g.yielded := by cases d <;> rfl

@[simp] theorem Group.setSval_id (g : Group) (d : Dest) (v : W64) : (g.setSval d v).id = g.id := by cases d <;> rfl
@[simp] theorem Group.setSval_core (g : Group) (d : Dest) (v : W64) : (g.setSval d v).core = g.core := by cases d <;> rfl
@[simp] theorem Group.setSval_team (g : Group) (d : Dest) (v : W64) : (g.setSval d v).team = g.team := by cases d <;> rfl
@[simp] theorem Group.setSval_role (g : Group) (d : Dest) (v : W64) : (g.setSval d v).role = g.role := by cases d <;> rfl
@[simp] theorem Group.setSval_index (g : Group) (d : Dest) (v : W64) : (g.setSval d v).index = g.index := by cases d <;> rfl
@[simp] theorem Group.setSval_seqr (g : Group) (d : Dest) (v : W64) : (g.setSval d v).seqr = g.seqr := by cases d <;> rfl
@[simp] theorem Group.setSval_quarter (g : Group) (d : Dest) (v : W64) : (g.setSval d v).quarter = g.quarter := by cases d <;> rfl
@[simp] theorem Group.setSval_width (g : Group) (d : Dest) (v : W64) : (g.setSval d v).width = g.width := by cases d <;> rfl
@[simp] theorem Group.setSval_budget (g : Group) (d : Dest) (v : W64) : (g.setSval d v).budget = g.budget := by cases d <;> rfl
@[simp] theorem Group.setSval_codehi (g : Group) (d : Dest) (v : W64) : (g.setSval d v).codehi = g.codehi := by cases d <;> rfl
@[simp] theorem Group.setSval_asid (g : Group) (d : Dest) (v : W64) : (g.setSval d v).asid = g.asid := by cases d <;> rfl
@[simp] theorem Group.setSval_vmid (g : Group) (d : Dest) (v : W64) : (g.setSval d v).vmid = g.vmid := by cases d <;> rfl
@[simp] theorem Group.setSval_flow (g : Group) (d : Dest) (v : W64) : (g.setSval d v).flow = g.flow := by cases d <;> rfl
@[simp] theorem Group.setSval_csrs (g : Group) (d : Dest) (v : W64) : (g.setSval d v).csrs = g.csrs := by cases d <;> rfl
@[simp] theorem Group.setSval_cf (g : Group) (d : Dest) (v : W64) : (g.setSval d v).cf = g.cf := by cases d <;> rfl
@[simp] theorem Group.setSval_clause (g : Group) (d : Dest) (v : W64) : (g.setSval d v).clause = g.clause := by cases d <;> rfl
@[simp] theorem Group.setSval_frame (g : Group) (d : Dest) (v : W64) : (g.setSval d v).frame = g.frame := by cases d <;> rfl
@[simp] theorem Group.setSval_pend (g : Group) (d : Dest) (v : W64) : (g.setSval d v).pend = g.pend := by cases d <;> rfl
@[simp] theorem Group.setSval_due (g : Group) (d : Dest) (v : W64) : (g.setSval d v).due = g.due := by cases d <;> rfl
@[simp] theorem Group.setSval_hold (g : Group) (d : Dest) (v : W64) : (g.setSval d v).hold = g.hold := by cases d <;> rfl
@[simp] theorem Group.setSval_stall (g : Group) (d : Dest) (v : W64) : (g.setSval d v).stall = g.stall := by cases d <;> rfl
@[simp] theorem Group.setSval_frozen (g : Group) (d : Dest) (v : W64) : (g.setSval d v).frozen = g.frozen := by cases d <;> rfl
@[simp] theorem Group.setSval_owed (g : Group) (d : Dest) (v : W64) : (g.setSval d v).owed = g.owed := by cases d <;> rfl
@[simp] theorem Group.setSval_retired (g : Group) (d : Dest) (v : W64) : (g.setSval d v).retired = g.retired := by cases d <;> rfl
@[simp] theorem Group.setSval_nextBatch (g : Group) (d : Dest) (v : W64) : (g.setSval d v).nextBatch = g.nextBatch := by cases d <;> rfl
@[simp] theorem Group.setSval_cyc (g : Group) (d : Dest) (v : W64) : (g.setSval d v).cyc = g.cyc := by cases d <;> rfl
@[simp] theorem Group.setSval_age (g : Group) (d : Dest) (v : W64) : (g.setSval d v).age = g.age := by cases d <;> rfl
@[simp] theorem Group.setSval_order (g : Group) (d : Dest) (v : W64) : (g.setSval d v).order = g.order := by cases d <;> rfl
@[simp] theorem Group.setSval_lost (g : Group) (d : Dest) (v : W64) : (g.setSval d v).lost = g.lost := by cases d <;> rfl
@[simp] theorem Group.setSval_yielded (g : Group) (d : Dest) (v : W64) : (g.setSval d v).yielded = g.yielded := by cases d <;> rfl

@[simp] theorem Group.setPval_id (g : Group) (d : Dest) (l v : Mask) : (g.setPval d l v).id = g.id := by cases d <;> rfl
@[simp] theorem Group.setPval_core (g : Group) (d : Dest) (l v : Mask) : (g.setPval d l v).core = g.core := by cases d <;> rfl
@[simp] theorem Group.setPval_team (g : Group) (d : Dest) (l v : Mask) : (g.setPval d l v).team = g.team := by cases d <;> rfl
@[simp] theorem Group.setPval_role (g : Group) (d : Dest) (l v : Mask) : (g.setPval d l v).role = g.role := by cases d <;> rfl
@[simp] theorem Group.setPval_index (g : Group) (d : Dest) (l v : Mask) : (g.setPval d l v).index = g.index := by cases d <;> rfl
@[simp] theorem Group.setPval_seqr (g : Group) (d : Dest) (l v : Mask) : (g.setPval d l v).seqr = g.seqr := by cases d <;> rfl
@[simp] theorem Group.setPval_quarter (g : Group) (d : Dest) (l v : Mask) : (g.setPval d l v).quarter = g.quarter := by cases d <;> rfl
@[simp] theorem Group.setPval_width (g : Group) (d : Dest) (l v : Mask) : (g.setPval d l v).width = g.width := by cases d <;> rfl
@[simp] theorem Group.setPval_budget (g : Group) (d : Dest) (l v : Mask) : (g.setPval d l v).budget = g.budget := by cases d <;> rfl
@[simp] theorem Group.setPval_codehi (g : Group) (d : Dest) (l v : Mask) : (g.setPval d l v).codehi = g.codehi := by cases d <;> rfl
@[simp] theorem Group.setPval_asid (g : Group) (d : Dest) (l v : Mask) : (g.setPval d l v).asid = g.asid := by cases d <;> rfl
@[simp] theorem Group.setPval_vmid (g : Group) (d : Dest) (l v : Mask) : (g.setPval d l v).vmid = g.vmid := by cases d <;> rfl
@[simp] theorem Group.setPval_flow (g : Group) (d : Dest) (l v : Mask) : (g.setPval d l v).flow = g.flow := by cases d <;> rfl
@[simp] theorem Group.setPval_csrs (g : Group) (d : Dest) (l v : Mask) : (g.setPval d l v).csrs = g.csrs := by cases d <;> rfl
@[simp] theorem Group.setPval_cf (g : Group) (d : Dest) (l v : Mask) : (g.setPval d l v).cf = g.cf := by cases d <;> rfl
@[simp] theorem Group.setPval_clause (g : Group) (d : Dest) (l v : Mask) : (g.setPval d l v).clause = g.clause := by cases d <;> rfl
@[simp] theorem Group.setPval_frame (g : Group) (d : Dest) (l v : Mask) : (g.setPval d l v).frame = g.frame := by cases d <;> rfl
@[simp] theorem Group.setPval_pend (g : Group) (d : Dest) (l v : Mask) : (g.setPval d l v).pend = g.pend := by cases d <;> rfl
@[simp] theorem Group.setPval_due (g : Group) (d : Dest) (l v : Mask) : (g.setPval d l v).due = g.due := by cases d <;> rfl
@[simp] theorem Group.setPval_hold (g : Group) (d : Dest) (l v : Mask) : (g.setPval d l v).hold = g.hold := by cases d <;> rfl
@[simp] theorem Group.setPval_stall (g : Group) (d : Dest) (l v : Mask) : (g.setPval d l v).stall = g.stall := by cases d <;> rfl
@[simp] theorem Group.setPval_frozen (g : Group) (d : Dest) (l v : Mask) : (g.setPval d l v).frozen = g.frozen := by cases d <;> rfl
@[simp] theorem Group.setPval_owed (g : Group) (d : Dest) (l v : Mask) : (g.setPval d l v).owed = g.owed := by cases d <;> rfl
@[simp] theorem Group.setPval_retired (g : Group) (d : Dest) (l v : Mask) : (g.setPval d l v).retired = g.retired := by cases d <;> rfl
@[simp] theorem Group.setPval_nextBatch (g : Group) (d : Dest) (l v : Mask) : (g.setPval d l v).nextBatch = g.nextBatch := by cases d <;> rfl
@[simp] theorem Group.setPval_cyc (g : Group) (d : Dest) (l v : Mask) : (g.setPval d l v).cyc = g.cyc := by cases d <;> rfl
@[simp] theorem Group.setPval_age (g : Group) (d : Dest) (l v : Mask) : (g.setPval d l v).age = g.age := by cases d <;> rfl
@[simp] theorem Group.setPval_order (g : Group) (d : Dest) (l v : Mask) : (g.setPval d l v).order = g.order := by cases d <;> rfl
@[simp] theorem Group.setPval_lost (g : Group) (d : Dest) (l v : Mask) : (g.setPval d l v).lost = g.lost := by cases d <;> rfl
@[simp] theorem Group.setPval_yielded (g : Group) (d : Dest) (l v : Mask) : (g.setPval d l v).yielded = g.yielded := by cases d <;> rfl

@[simp] theorem Group.writeLanes_id (g : Group) (d : Dest) (l : Mask) (v : Nat → W32) (tag : BitVec 4) : (g.writeLanes d l v tag).id = g.id := by simp [Group.writeLanes]
@[simp] theorem Group.writeLanes_core (g : Group) (d : Dest) (l : Mask) (v : Nat → W32) (tag : BitVec 4) : (g.writeLanes d l v tag).core = g.core := by simp [Group.writeLanes]
@[simp] theorem Group.writeLanes_team (g : Group) (d : Dest) (l : Mask) (v : Nat → W32) (tag : BitVec 4) : (g.writeLanes d l v tag).team = g.team := by simp [Group.writeLanes]
@[simp] theorem Group.writeLanes_role (g : Group) (d : Dest) (l : Mask) (v : Nat → W32) (tag : BitVec 4) : (g.writeLanes d l v tag).role = g.role := by simp [Group.writeLanes]
@[simp] theorem Group.writeLanes_index (g : Group) (d : Dest) (l : Mask) (v : Nat → W32) (tag : BitVec 4) : (g.writeLanes d l v tag).index = g.index := by simp [Group.writeLanes]
@[simp] theorem Group.writeLanes_seqr (g : Group) (d : Dest) (l : Mask) (v : Nat → W32) (tag : BitVec 4) : (g.writeLanes d l v tag).seqr = g.seqr := by simp [Group.writeLanes]
@[simp] theorem Group.writeLanes_quarter (g : Group) (d : Dest) (l : Mask) (v : Nat → W32) (tag : BitVec 4) : (g.writeLanes d l v tag).quarter = g.quarter := by simp [Group.writeLanes]
@[simp] theorem Group.writeLanes_width (g : Group) (d : Dest) (l : Mask) (v : Nat → W32) (tag : BitVec 4) : (g.writeLanes d l v tag).width = g.width := by simp [Group.writeLanes]
@[simp] theorem Group.writeLanes_budget (g : Group) (d : Dest) (l : Mask) (v : Nat → W32) (tag : BitVec 4) : (g.writeLanes d l v tag).budget = g.budget := by simp [Group.writeLanes]
@[simp] theorem Group.writeLanes_codehi (g : Group) (d : Dest) (l : Mask) (v : Nat → W32) (tag : BitVec 4) : (g.writeLanes d l v tag).codehi = g.codehi := by simp [Group.writeLanes]
@[simp] theorem Group.writeLanes_asid (g : Group) (d : Dest) (l : Mask) (v : Nat → W32) (tag : BitVec 4) : (g.writeLanes d l v tag).asid = g.asid := by simp [Group.writeLanes]
@[simp] theorem Group.writeLanes_vmid (g : Group) (d : Dest) (l : Mask) (v : Nat → W32) (tag : BitVec 4) : (g.writeLanes d l v tag).vmid = g.vmid := by simp [Group.writeLanes]
@[simp] theorem Group.writeLanes_flow (g : Group) (d : Dest) (l : Mask) (v : Nat → W32) (tag : BitVec 4) : (g.writeLanes d l v tag).flow = g.flow := by simp [Group.writeLanes]
@[simp] theorem Group.writeLanes_csrs (g : Group) (d : Dest) (l : Mask) (v : Nat → W32) (tag : BitVec 4) : (g.writeLanes d l v tag).csrs = g.csrs := by simp [Group.writeLanes]
@[simp] theorem Group.writeLanes_cf (g : Group) (d : Dest) (l : Mask) (v : Nat → W32) (tag : BitVec 4) : (g.writeLanes d l v tag).cf = g.cf := by simp [Group.writeLanes]
@[simp] theorem Group.writeLanes_clause (g : Group) (d : Dest) (l : Mask) (v : Nat → W32) (tag : BitVec 4) : (g.writeLanes d l v tag).clause = g.clause := by simp [Group.writeLanes]
@[simp] theorem Group.writeLanes_frame (g : Group) (d : Dest) (l : Mask) (v : Nat → W32) (tag : BitVec 4) : (g.writeLanes d l v tag).frame = g.frame := by simp [Group.writeLanes]
@[simp] theorem Group.writeLanes_pend (g : Group) (d : Dest) (l : Mask) (v : Nat → W32) (tag : BitVec 4) : (g.writeLanes d l v tag).pend = g.pend := by simp [Group.writeLanes]
@[simp] theorem Group.writeLanes_due (g : Group) (d : Dest) (l : Mask) (v : Nat → W32) (tag : BitVec 4) : (g.writeLanes d l v tag).due = g.due := by simp [Group.writeLanes]
@[simp] theorem Group.writeLanes_hold (g : Group) (d : Dest) (l : Mask) (v : Nat → W32) (tag : BitVec 4) : (g.writeLanes d l v tag).hold = g.hold := by simp [Group.writeLanes]
@[simp] theorem Group.writeLanes_stall (g : Group) (d : Dest) (l : Mask) (v : Nat → W32) (tag : BitVec 4) : (g.writeLanes d l v tag).stall = g.stall := by simp [Group.writeLanes]
@[simp] theorem Group.writeLanes_frozen (g : Group) (d : Dest) (l : Mask) (v : Nat → W32) (tag : BitVec 4) : (g.writeLanes d l v tag).frozen = g.frozen := by simp [Group.writeLanes]
@[simp] theorem Group.writeLanes_owed (g : Group) (d : Dest) (l : Mask) (v : Nat → W32) (tag : BitVec 4) : (g.writeLanes d l v tag).owed = g.owed := by simp [Group.writeLanes]
@[simp] theorem Group.writeLanes_retired (g : Group) (d : Dest) (l : Mask) (v : Nat → W32) (tag : BitVec 4) : (g.writeLanes d l v tag).retired = g.retired := by simp [Group.writeLanes]
@[simp] theorem Group.writeLanes_nextBatch (g : Group) (d : Dest) (l : Mask) (v : Nat → W32) (tag : BitVec 4) : (g.writeLanes d l v tag).nextBatch = g.nextBatch := by simp [Group.writeLanes]
@[simp] theorem Group.writeLanes_cyc (g : Group) (d : Dest) (l : Mask) (v : Nat → W32) (tag : BitVec 4) : (g.writeLanes d l v tag).cyc = g.cyc := by simp [Group.writeLanes]
@[simp] theorem Group.writeLanes_age (g : Group) (d : Dest) (l : Mask) (v : Nat → W32) (tag : BitVec 4) : (g.writeLanes d l v tag).age = g.age := by simp [Group.writeLanes]
@[simp] theorem Group.writeLanes_order (g : Group) (d : Dest) (l : Mask) (v : Nat → W32) (tag : BitVec 4) : (g.writeLanes d l v tag).order = g.order := by simp [Group.writeLanes]
@[simp] theorem Group.writeLanes_lost (g : Group) (d : Dest) (l : Mask) (v : Nat → W32) (tag : BitVec 4) : (g.writeLanes d l v tag).lost = g.lost := by simp [Group.writeLanes]
@[simp] theorem Group.writeLanes_yielded (g : Group) (d : Dest) (l : Mask) (v : Nat → W32) (tag : BitVec 4) : (g.writeLanes d l v tag).yielded = g.yielded := by simp [Group.writeLanes]

@[simp] theorem Group.orFlags_id (g : Group) (v : W64) : (g.orFlags v).id = g.id := rfl
@[simp] theorem Group.orFlags_core (g : Group) (v : W64) : (g.orFlags v).core = g.core := rfl
@[simp] theorem Group.orFlags_team (g : Group) (v : W64) : (g.orFlags v).team = g.team := rfl
@[simp] theorem Group.orFlags_role (g : Group) (v : W64) : (g.orFlags v).role = g.role := rfl
@[simp] theorem Group.orFlags_index (g : Group) (v : W64) : (g.orFlags v).index = g.index := rfl
@[simp] theorem Group.orFlags_seqr (g : Group) (v : W64) : (g.orFlags v).seqr = g.seqr := rfl
@[simp] theorem Group.orFlags_quarter (g : Group) (v : W64) : (g.orFlags v).quarter = g.quarter := rfl
@[simp] theorem Group.orFlags_width (g : Group) (v : W64) : (g.orFlags v).width = g.width := rfl
@[simp] theorem Group.orFlags_budget (g : Group) (v : W64) : (g.orFlags v).budget = g.budget := rfl
@[simp] theorem Group.orFlags_codehi (g : Group) (v : W64) : (g.orFlags v).codehi = g.codehi := rfl
@[simp] theorem Group.orFlags_asid (g : Group) (v : W64) : (g.orFlags v).asid = g.asid := rfl
@[simp] theorem Group.orFlags_vmid (g : Group) (v : W64) : (g.orFlags v).vmid = g.vmid := rfl
@[simp] theorem Group.orFlags_regs (g : Group) (v : W64) : (g.orFlags v).regs = g.regs := rfl
@[simp] theorem Group.orFlags_flow (g : Group) (v : W64) : (g.orFlags v).flow = g.flow := rfl
@[simp] theorem Group.orFlags_cf (g : Group) (v : W64) : (g.orFlags v).cf = g.cf := rfl
@[simp] theorem Group.orFlags_clause (g : Group) (v : W64) : (g.orFlags v).clause = g.clause := rfl
@[simp] theorem Group.orFlags_frame (g : Group) (v : W64) : (g.orFlags v).frame = g.frame := rfl
@[simp] theorem Group.orFlags_pend (g : Group) (v : W64) : (g.orFlags v).pend = g.pend := rfl
@[simp] theorem Group.orFlags_due (g : Group) (v : W64) : (g.orFlags v).due = g.due := rfl
@[simp] theorem Group.orFlags_hold (g : Group) (v : W64) : (g.orFlags v).hold = g.hold := rfl
@[simp] theorem Group.orFlags_stall (g : Group) (v : W64) : (g.orFlags v).stall = g.stall := rfl
@[simp] theorem Group.orFlags_frozen (g : Group) (v : W64) : (g.orFlags v).frozen = g.frozen := rfl
@[simp] theorem Group.orFlags_owed (g : Group) (v : W64) : (g.orFlags v).owed = g.owed := rfl
@[simp] theorem Group.orFlags_retired (g : Group) (v : W64) : (g.orFlags v).retired = g.retired := rfl
@[simp] theorem Group.orFlags_nextBatch (g : Group) (v : W64) : (g.orFlags v).nextBatch = g.nextBatch := rfl
@[simp] theorem Group.orFlags_cyc (g : Group) (v : W64) : (g.orFlags v).cyc = g.cyc := rfl
@[simp] theorem Group.orFlags_age (g : Group) (v : W64) : (g.orFlags v).age = g.age := rfl
@[simp] theorem Group.orFlags_order (g : Group) (v : W64) : (g.orFlags v).order = g.order := rfl
@[simp] theorem Group.orFlags_lost (g : Group) (v : W64) : (g.orFlags v).lost = g.lost := rfl
@[simp] theorem Group.orFlags_yielded (g : Group) (v : W64) : (g.orFlags v).yielded = g.yielded := rfl

@[simp] theorem Group.writeTrap_id (g : Group) (t : PendTrap) : (g.writeTrap t).id = g.id := by unfold Group.writeTrap; rfl
@[simp] theorem Group.writeTrap_core (g : Group) (t : PendTrap) : (g.writeTrap t).core = g.core := by unfold Group.writeTrap; rfl
@[simp] theorem Group.writeTrap_team (g : Group) (t : PendTrap) : (g.writeTrap t).team = g.team := by unfold Group.writeTrap; rfl
@[simp] theorem Group.writeTrap_role (g : Group) (t : PendTrap) : (g.writeTrap t).role = g.role := by unfold Group.writeTrap; rfl
@[simp] theorem Group.writeTrap_index (g : Group) (t : PendTrap) : (g.writeTrap t).index = g.index := by unfold Group.writeTrap; rfl
@[simp] theorem Group.writeTrap_seqr (g : Group) (t : PendTrap) : (g.writeTrap t).seqr = g.seqr := by unfold Group.writeTrap; rfl
@[simp] theorem Group.writeTrap_quarter (g : Group) (t : PendTrap) : (g.writeTrap t).quarter = g.quarter := by unfold Group.writeTrap; rfl
@[simp] theorem Group.writeTrap_width (g : Group) (t : PendTrap) : (g.writeTrap t).width = g.width := by unfold Group.writeTrap; rfl
@[simp] theorem Group.writeTrap_budget (g : Group) (t : PendTrap) : (g.writeTrap t).budget = g.budget := by unfold Group.writeTrap; rfl
@[simp] theorem Group.writeTrap_codehi (g : Group) (t : PendTrap) : (g.writeTrap t).codehi = g.codehi := by unfold Group.writeTrap; rfl
@[simp] theorem Group.writeTrap_asid (g : Group) (t : PendTrap) : (g.writeTrap t).asid = g.asid := by unfold Group.writeTrap; rfl
@[simp] theorem Group.writeTrap_vmid (g : Group) (t : PendTrap) : (g.writeTrap t).vmid = g.vmid := by unfold Group.writeTrap; rfl
@[simp] theorem Group.writeTrap_regs (g : Group) (t : PendTrap) : (g.writeTrap t).regs = g.regs := by unfold Group.writeTrap; rfl
@[simp] theorem Group.writeTrap_flow (g : Group) (t : PendTrap) : (g.writeTrap t).flow = g.flow := by unfold Group.writeTrap; rfl
@[simp] theorem Group.writeTrap_cf (g : Group) (t : PendTrap) : (g.writeTrap t).cf = g.cf := by unfold Group.writeTrap; rfl
@[simp] theorem Group.writeTrap_clause (g : Group) (t : PendTrap) : (g.writeTrap t).clause = g.clause := by unfold Group.writeTrap; rfl
@[simp] theorem Group.writeTrap_frame (g : Group) (t : PendTrap) : (g.writeTrap t).frame = g.frame := by unfold Group.writeTrap; rfl
@[simp] theorem Group.writeTrap_pend (g : Group) (t : PendTrap) : (g.writeTrap t).pend = g.pend := by unfold Group.writeTrap; rfl
@[simp] theorem Group.writeTrap_due (g : Group) (t : PendTrap) : (g.writeTrap t).due = g.due := by unfold Group.writeTrap; rfl
@[simp] theorem Group.writeTrap_hold (g : Group) (t : PendTrap) : (g.writeTrap t).hold = g.hold := by unfold Group.writeTrap; rfl
@[simp] theorem Group.writeTrap_stall (g : Group) (t : PendTrap) : (g.writeTrap t).stall = g.stall := by unfold Group.writeTrap; rfl
@[simp] theorem Group.writeTrap_frozen (g : Group) (t : PendTrap) : (g.writeTrap t).frozen = g.frozen := by unfold Group.writeTrap; rfl
@[simp] theorem Group.writeTrap_owed (g : Group) (t : PendTrap) : (g.writeTrap t).owed = g.owed := by unfold Group.writeTrap; rfl
@[simp] theorem Group.writeTrap_retired (g : Group) (t : PendTrap) : (g.writeTrap t).retired = g.retired := by unfold Group.writeTrap; rfl
@[simp] theorem Group.writeTrap_nextBatch (g : Group) (t : PendTrap) : (g.writeTrap t).nextBatch = g.nextBatch := by unfold Group.writeTrap; rfl
@[simp] theorem Group.writeTrap_cyc (g : Group) (t : PendTrap) : (g.writeTrap t).cyc = g.cyc := by unfold Group.writeTrap; rfl
@[simp] theorem Group.writeTrap_age (g : Group) (t : PendTrap) : (g.writeTrap t).age = g.age := by unfold Group.writeTrap; rfl
@[simp] theorem Group.writeTrap_order (g : Group) (t : PendTrap) : (g.writeTrap t).order = g.order := by unfold Group.writeTrap; rfl
@[simp] theorem Group.writeTrap_lost (g : Group) (t : PendTrap) : (g.writeTrap t).lost = g.lost := by unfold Group.writeTrap; rfl
@[simp] theorem Group.writeTrap_yielded (g : Group) (t : PendTrap) : (g.writeTrap t).yielded = g.yielded := by unfold Group.writeTrap; rfl

@[simp] theorem Group.framePop_id (g : Group) : (g.framePop).id = g.id := by unfold Group.framePop; split <;> rfl
@[simp] theorem Group.framePop_core (g : Group) : (g.framePop).core = g.core := by unfold Group.framePop; split <;> rfl
@[simp] theorem Group.framePop_team (g : Group) : (g.framePop).team = g.team := by unfold Group.framePop; split <;> rfl
@[simp] theorem Group.framePop_role (g : Group) : (g.framePop).role = g.role := by unfold Group.framePop; split <;> rfl
@[simp] theorem Group.framePop_index (g : Group) : (g.framePop).index = g.index := by unfold Group.framePop; split <;> rfl
@[simp] theorem Group.framePop_seqr (g : Group) : (g.framePop).seqr = g.seqr := by unfold Group.framePop; split <;> rfl
@[simp] theorem Group.framePop_quarter (g : Group) : (g.framePop).quarter = g.quarter := by unfold Group.framePop; split <;> rfl
@[simp] theorem Group.framePop_width (g : Group) : (g.framePop).width = g.width := by unfold Group.framePop; split <;> rfl
@[simp] theorem Group.framePop_budget (g : Group) : (g.framePop).budget = g.budget := by unfold Group.framePop; split <;> rfl
@[simp] theorem Group.framePop_codehi (g : Group) : (g.framePop).codehi = g.codehi := by unfold Group.framePop; split <;> rfl
@[simp] theorem Group.framePop_asid (g : Group) : (g.framePop).asid = g.asid := by unfold Group.framePop; split <;> rfl
@[simp] theorem Group.framePop_vmid (g : Group) : (g.framePop).vmid = g.vmid := by unfold Group.framePop; split <;> rfl
@[simp] theorem Group.framePop_regs (g : Group) : (g.framePop).regs = g.regs := by unfold Group.framePop; split <;> rfl
@[simp] theorem Group.framePop_csrs (g : Group) : (g.framePop).csrs = g.csrs := by unfold Group.framePop; split <;> rfl
@[simp] theorem Group.framePop_cf (g : Group) : (g.framePop).cf = g.cf := by unfold Group.framePop; split <;> rfl
@[simp] theorem Group.framePop_clause (g : Group) : (g.framePop).clause = g.clause := by unfold Group.framePop; split <;> rfl
@[simp] theorem Group.framePop_frame (g : Group) : (g.framePop).frame = g.frame := by unfold Group.framePop; split <;> rfl
@[simp] theorem Group.framePop_pend (g : Group) : (g.framePop).pend = g.pend := by unfold Group.framePop; split <;> rfl
@[simp] theorem Group.framePop_due (g : Group) : (g.framePop).due = g.due := by unfold Group.framePop; split <;> rfl
@[simp] theorem Group.framePop_hold (g : Group) : (g.framePop).hold = g.hold := by unfold Group.framePop; split <;> rfl
@[simp] theorem Group.framePop_stall (g : Group) : (g.framePop).stall = g.stall := by unfold Group.framePop; split <;> rfl
@[simp] theorem Group.framePop_frozen (g : Group) : (g.framePop).frozen = g.frozen := by unfold Group.framePop; split <;> rfl
@[simp] theorem Group.framePop_owed (g : Group) : (g.framePop).owed = g.owed := by unfold Group.framePop; split <;> rfl
@[simp] theorem Group.framePop_retired (g : Group) : (g.framePop).retired = g.retired := by unfold Group.framePop; split <;> rfl
@[simp] theorem Group.framePop_nextBatch (g : Group) : (g.framePop).nextBatch = g.nextBatch := by unfold Group.framePop; split <;> rfl
@[simp] theorem Group.framePop_cyc (g : Group) : (g.framePop).cyc = g.cyc := by unfold Group.framePop; split <;> rfl
@[simp] theorem Group.framePop_age (g : Group) : (g.framePop).age = g.age := by unfold Group.framePop; split <;> rfl
@[simp] theorem Group.framePop_order (g : Group) : (g.framePop).order = g.order := by unfold Group.framePop; split <;> rfl
@[simp] theorem Group.framePop_lost (g : Group) : (g.framePop).lost = g.lost := by unfold Group.framePop; split <;> rfl
@[simp] theorem Group.framePop_yielded (g : Group) : (g.framePop).yielded = g.yielded := by unfold Group.framePop; split <;> rfl

end Sys2Proof.Machine
end

