-- ==== Sys2Proof/Tests/Slice0.lean ====
section
/-! SUPPORT. Tests: words from the encoding tables, ill-formed terms, witnesses of the statements' hypotheses, and single
steps whose results come from the spec's tables and examples. -/
namespace Sys2Proof.Tests
open Sys2Proof.Machine Sys2Proof.Stated

set_option maxRecDepth 100000
set_option Elab.async false

/-! ## Small states -/

/-- The context in turn, and its clause. -/
def groupIn (s : State) : Group := (s.group? s.cur).getD (coreAtReset 0)
def clauseIn (g : Group) : Clause := g.clause.getD { header := 0, next := 0, cnt := 0, seta := 0, setb := 0, lanes := 0 }

/-- The instruction is clear to act (Safety.lean), and `P` holds of its context, its clause and the state after the header
check: the hypotheses of a statement, met by one state and one choice of fields. -/
def meets (s : State) (maj min : Nat) (o : Ops) (P : Group → Clause → Ctx → State → Bool) : Bool :=
  let g := groupIn s
  let cl := clauseIn g
  let c := s.ctx maj min o g cl
  let t := (s.headerChecks c).1
  decide (s.group? s.cur = some g) && decide (g.clause = some cl) && s.mayIssue g && (decodeChecks (s.matrixOf g) c).isNone
    && (s.headerChecks c).2.isNone && (privilegeChecks c).isNone && (placeChecks t c).isNone && (residencyChecks c).isNone
    && (t.quotaHeld c).isNone && (t.stallOf c).isNone && P g cl c t

/-- What `meets` says. -/
theorem meets_clear {s : State} {maj min : Nat} {o : Ops} {P : Group → Clause → Ctx → State → Bool}
    (h : meets s maj min o P = true) : ∃ g cl t, Clear s maj min o g cl t ∧ P g cl (s.ctx maj min o g cl) t = true := by
  simp only [meets, Bool.and_eq_true, decide_eq_true_eq, Option.isNone_iff_eq_none] at h
  obtain ⟨⟨⟨⟨⟨⟨⟨⟨⟨⟨h1, h2⟩, h3⟩, h4⟩, h5⟩, h6⟩, h7⟩, h8⟩, h9⟩, h10⟩, h11⟩ := h
  exact ⟨_, _, _, ⟨h1, h2, h3, h4, Prod.ext rfl h5, h6, h7, h8, h9, h10⟩, h11⟩

/-- `Ctx.tagsPass` as a Bool. -/
def tagsOk (c : Ctx) (l : List TagCheck) : Bool := !c.anyLane || (tagFail l).isNone

/-- What `tagsOk` says. -/
theorem tagsOk_iff {c : Ctx} {l : List TagCheck} : tagsOk c l = true ↔ c.tagsPass l := by
  simp [tagsOk, Ctx.tagsPass, imp_iff_not_or]

/-- Nothing in a region stands in the way. -/
def free (t : State) (c : Ctx) : Bool := (t.rlxRefuses c).isNone

/-- No further hypothesis. -/
def any : Group → Clause → Ctx → State → Bool := fun _ _ _ _ => true

/-- The clause of two instructions at 0x1000, before its first. -/
def clause : Clause := { header := 0x1000, next := 0x1004, cnt := 2, seta := 0, setb := 1, lanes := 0xFFFF }

/-- A context of `w` lanes in that clause: window registers of value `v` and tag `tag`, scalars of value `x`. -/
def grpOf (w : Nat) (v : W32) (tag : BitVec 4) (x : W64) : Group :=
  { coreAtReset 0 with
      width := w
      hold := .none
      flow := { lpc := List.replicate w 0x1000, fl := List.replicate w 0 }
      regs := { (coreAtReset 0).regs with
        slots := List.replicate 64 { data := List.replicate w v, tag := tag }, sregs := List.replicate 32 { val := x } }
      clause := some clause }

/-- A module with one context, a stoker core. -/
def core (v : W32) (tag : BitVec 4) (x : W64) : State := { groups := [grpOf 16 v tag x] }

/-- A team of a launch on tile 0, with a window of 4,096 bytes, eight panels and two accumulators. -/
def team : Team :=
  { id := 1, work := 2, gang := 3, l := 0, pos := 0, ltile := 0, grps := [0], bytes := 4096, placed := 4096
    panels := List.replicate 8 {}, accs := List.replicate 2 {} }
def gang : Gang := { id := 3, work := 2, k := 0, teams := [1], ltile := 0, ntiles := 1 }
def work : Work := { id := 2, words := List.replicate 32 0, state := .running, seqNo := 1 }

/-- A group of `w` lanes of that team. -/
def tgrp (w : Nat) (v : W32) (tag : BitVec 4) (x : W64) : Group := { grpOf w v tag x with core := none, team := 1 }

/-- A module with one context, that group. -/
def tile (w : Nat) (v : W32) (tag : BitVec 4) (x : W64) : State :=
  { groups := [tgrp w v tag x], teams := [team], gangs := [gang], works := [work] }

/-- Fields D, A, B of a base word; with extended words for C and XMOD; with a literal. -/
def f3 (d a b : BitVec 6) : Ops := { fs := false, b := b, a := a, d := d, ext := none, lit := none }
def ext (c : BitVec 6) (xmod : BitVec 4) : Ext :=
  { xmod := xmod, pinv := false, pred := 7, c := c, pb := 0, pa := 0, zero := 0, hint := 0, abs := false, nbp := 0
    nb := false, scope := 0, place := 0 }
def f4 (d a b c : BitVec 6) : Ops := { f3 d a b with ext := some (ext c 0) }
def fl (d a b : BitVec 6) (l : W64) : Ops := { f3 d a b with lit := some l }

/-- A CSR number in A and B, or in D and B. -/
def rdCsr (n : Nat) : Ops := f3 3 (BitVec.ofNat 6 (n / 64)) (BitVec.ofNat 6 n)
def wrCsr (n : Nat) : Ops := f3 (BitVec.ofNat 6 (n / 64)) 1 (BitVec.ofNat 6 n)

/-- An entry of the operand log of context 0 that is still to complete. -/
def entry : LogEntry := { id := 9, tile := 0, grp := 0, pc := 0x1004, clause := clause, flag := 0, op := .dread, lanes := 0xFFFF, mode := 0 }

/-- A header word in memory. -/
def header : List Byte := [0xFC, 0, 0, 0x01]

/-! ## Witnesses of the statements' hypotheses -/

theorem witness_IntegerResults : ivMinors.all (fun r =>
    let o := if readsC r.2.2 then f4 3 1 2 4 else f3 3 1 (if readsB r.2.2 then 2 else 0)
    meets (core 5 1 9) 1 r.2.2 o (fun _ _ c _ => tagsOk c (ivTags r.2.2 c)) && meets (core 5 1 9) 2 r.2.2 o any) = true := by
  decide +kernel

theorem witness_SelectsAndIntegerCompares :
    (meets (core 5 1 9) 1 26 (f3 3 1 2) any && meets (core 5 1 9) 2 26 (f3 3 1 2) (fun _ cl c _ => cl.lanes.getLsbD 0 && decide (0 < c.w))
      && icMinors.all fun r =>
        meets (core 5 1 9) 3 r.2.2 (f3 3 1 2) (fun _ _ c _ => tagsOk c (c.needA [0, 1] ++ c.needB [0, 1]))
        && meets (core 5 1 9) 4 r.2.2 (f3 3 1 2) any) = true := by
  decide +kernel

theorem witness_PackedIntegerResults :
    ((pkMinors.all fun r =>
        let o := if r.2 = 7 ∨ r.2 = 8 ∨ r.2 = 14 then f4 3 1 2 4 else f3 3 1 (if r.2 = 11 then 0 else 2)
        meets (core 5 0 9) 5 r.2 o fun _ _ c _ => tagsOk c (pkTags r.2 c))
      && meets (core 5 5 9) 5 15 (f3 3 1 1) (fun _ _ c _ => tagsOk c (c.needA [0, 5]) && c.fb == 1)
      && meets (core 5 5 9) 5 15 (f3 3 1 2) (fun _ _ c _ => tagsOk c (c.needA [0, 5]) && c.fb == 2)) = true := by
  decide +kernel

theorem witness_FloatVectorResults :
    ((fMinors.all fun r =>
        let o := if r.2.2.2.2 = 3 then f4 3 1 2 4 else f3 3 1 (if r.2.2.2.2 = 2 then 2 else 0)
        meets (core 5 3 9) 6 r.2.2.1 o fun _ _ c _ => tagsOk c (fTags r.2.2.2.2 c))
      && meets (core 5 2 9) 6 22 (f3 3 1 0) fun _ _ c _ => tagsOk c (c.needA [2, 3, 4])) = true := by
  decide +kernel

theorem witness_FloatScalarsAndCompares :
    (((fMinors ++ [(Instr.fclass, Instr.fclassS, 22, eClass, 1)]).all fun r =>
        meets (core 5 2 9) 7 r.2.2.1 (if r.2.2.2.2 = 3 then f4 3 1 2 4 else f3 3 1 (if r.2.2.2.2 = 2 then 2 else 0)) any)
      && fcMinors.all fun r => meets (core 5 2 9) 8 r.2.1 (f3 3 1 2) fun _ _ c _ => tagsOk c (c.needA [2] ++ c.needB [2])) = true := by
  decide +kernel

theorem witness_ConversionResults :
    ((cvtMinors.all fun r => [0, 1, 2, 3, 4, 5, 8].any fun tag => [f3 3 1 0, f3 3 1 2].any fun o =>
        meets (core 5 tag 9) 9 r.2.1 o fun _ _ c _ => tagsOk c (r.2.2.1 c))
      && meets (core 5 1 9) 9 9 (f3 3 1 15) (fun _ _ c _ => c.fb == 15) && meets (core 5 1 9) 9 9 (f3 3 1 7) (fun _ _ c _ => c.fb == 7)
      && meets (core 5 1 9) 9 9 (f3 3 1 16) (fun _ _ c _ => c.fb == 16)) = true := by
  decide +kernel

theorem witness_BlockScaleResults :
    (meets (tile 32 5 2 9) 10 2 (f3 3 1 0) (fun _ _ c _ => tagsOk c (c.needA [2]) && c.w == 32)
      && meets (core 5 2 9) 10 2 (f3 3 1 0) (fun _ _ c _ => tagsOk c (c.needA [2]) && c.w == 16)
      && meets (core 5 2 9) 10 3 (f3 3 1 0) any
      && meets (core 5 8 9) 10 4 (f3 3 1 0) (fun _ _ c _ => tagsOk c (c.needA nfTags))
      && meets (core 5 8 9) 10 5 (f3 3 1 0) (fun _ _ c _ => tagsOk c (c.needA nfTags))) = true := by
  decide +kernel

theorem witness_BlockQuantisationResults :
    (meets (tile 32 5 2 9) 10 0 (f4 3 1 2 1) (fun _ _ c _ => tagsOk c (c.needA [2]) && c.w == 32)
      && meets (tile 32 5 8 9) 10 1 (f3 3 1 2) (fun _ _ c _ => tagsOk c (c.needA nfTags) && c.w == 32)) = true := by
  decide +kernel

/-- The operand check of a table row, as far as a small state decides it. -/
def passes (t : State) (c : Ctx) (tags : List TagCheck) : Bool := tagsOk c tags && free t c

theorem witness_LaneExchangeResults :
    ((laneVec.all fun r => [0, 1, 3].any fun tag => [f3 3 1 0, f3 3 1 2, f4 3 1 2 1, f3 3 0 0, fl 3 0 0 7].any fun o =>
        meets (core 5 tag 9) r.2.1 r.2.2.1 o fun _ _ c t => passes t c (r.2.2.2.1 c))
      && meets (core 5 1 9) 11 1 (f4 3 1 2 15) (fun _ _ c t => passes t c (c.needBw [c.tagA 0]) && decide (c.fc < c.w))
      && meets (core 5 1 9) 11 1 (f4 3 1 2 16) (fun _ _ c t => passes t c (c.needBw [c.tagA 0]) && decide (c.w ≤ c.fc))
      && (laneScal.all fun r => [f3 3 1 0, f3 3 1 2, f4 3 1 2 1, fl 3 0 0 7, f3 3 0 0].any fun o =>
        meets (core 5 1 9) r.2.1 r.2.2.1 o fun _ _ c t => passes t c (r.2.2.2.1 c) && c.anyLane)
      && meets (core 5 1 9) 11 9 (f3 3 1 0) (fun _ _ c t => passes t c (c.needA [0, 1]) && c.fb == 0)
      && meets (core 5 1 9) 11 17 (f3 3 1 15) (fun _ _ c _ => decide (c.fb < c.w))
      && meets { core 5 1 9 with groups := [{ grpOf 16 5 1 9 with flow := { (grpOf 16 5 1 9).flow with exited := 0xFFFF } }] } 12 2 (f3 3 1 0)
        (fun _ _ c t => passes t c [] && !c.anyLane)) = true := by
  decide +kernel

theorem witness_LanePredicatesAndSums :
    ((lanePred.all fun r => [f3 3 1 0, f3 3 1 2].any fun o => meets (core 5 1 9) r.2.1 r.2.2.1 o fun _ _ c t => passes t c [])
      && meets (core 5 2 9) 11 11 (f3 3 1 0) (fun _ _ c t => passes t c (c.needA [2]))
      && meets (core 5 2 9) 11 15 (f3 3 1 0) (fun _ _ c t => passes t c (c.needA [2]))) = true := by
  decide +kernel

theorem witness_IndexedMoves :
    (meets (core 63 1 9) 12 4 (f3 3 1 0) (fun g _ c t => passes t c (c.needA [0, 1])
        && c.lanes.all fun i => decide ((c.opA i).toNat < 64) && !blockNonResident g (c.opA i).toNat 1)
      && meets (core 64 1 9) 12 4 (f3 3 1 0) (fun _ _ c t => passes t c (c.needA [0, 1]) && c.anyLane
        && c.lanes.any fun i => decide (64 ≤ (c.opA i).toNat))
      && meets (core 63 1 9) 12 5 (f3 3 1 0) (fun g _ c t => passes t c (c.needD [0, 1])
        && (c.lanes.all fun i => decide ((c.opDk 0 i).toNat < 64) && !blockNonResident g (c.opDk 0 i).toNat 1)
        && !t.destBusy g (((c.lanes.map fun i => (c.opDk 0 i).toNat).eraseDups).map (g.wref false)))
      && meets (core 64 1 9) 12 5 (f3 3 1 0) (fun _ _ c t => passes t c (c.needD [0, 1])
        && c.lanes.any fun i => decide (64 ≤ (c.opDk 0 i).toNat))
      && meets (core 5 1 9) 12 12 (f3 3 0 0) any) = true := by
  decide +kernel

theorem witness_CsrReads :
    ((userCsrs.all fun r => meets (core 5 1 9) 12 9 (rdCsr r.1) fun _ _ c _ => csrNumA c.o == r.1)
      && (idCsrs.all fun r => meets (tile 16 5 1 9) 12 9 (rdCsr r.1) fun g _ c t =>
        csrNumA c.o == r.1 && g.core.isNone && (t.groupTile g).isSome && decide (t.teamOf g = some team) && decide (t.workOf g = some work) && decide (t.gangOf g = some gang))
      && meets (core 5 1 9) 12 9 (rdCsr 1) (fun g _ _ t => t.flagsReady g)
      && meets { core 5 1 9 with log := [entry] } 12 9 (rdCsr 1) (fun g _ c t => !t.flagsReady g && c.anyLane)
      && meets (core 5 1 9) 12 9 (rdCsr 0x200) (fun _ _ c _ => csrNumA c.o == 0x200)) = true := by
  decide +kernel

theorem witness_CsrWrites :
    (meets (core 5 1 4) 12 10 (wrCsr 0) (fun _ _ c _ => csrNumD c.o == 0 && c.sA == 4)
      && meets (core 5 1 5) 12 10 (wrCsr 0) (fun _ _ c _ => csrNumD c.o == 0 && c.sA.toNat % 8 == 5)
      && meets (core 5 1 0x2000) 12 10 (wrCsr 0x30) (fun _ _ c _ => csrNumD c.o == 0x30 && c.sA.toNat % 4 == 0)
      && meets (core 5 1 0x2002) 12 10 (wrCsr 0x30) (fun _ _ c _ => csrNumD c.o == 0x30 && c.sA.toNat % 4 == 2)
      && meets (core 5 1 9) 12 10 (wrCsr 0x31) (fun g _ c _ => csrNumD c.o == 0x31 && g.core.isSome)
      && meets (core 5 1 9) 12 10 (wrCsr 0x33) (fun g _ c _ => csrNumD c.o == 0x33 && g.core.isSome)
      && ([0x31, 0x33].all fun n => meets (tile 16 5 1 9) 12 10 (wrCsr n) fun g _ c _ => csrNumD c.o == n && !g.core.isSome && !g.flow.tl)
      && ([0x41, 0x100, 2, 0x13].all fun n => meets (core 5 1 9) 12 10 (wrCsr n) fun _ _ c _ => csrNumD c.o == n)
      && meets (core 5 1 9) 12 10 (wrCsr 0x200) (fun _ _ c _ => csrNumD c.o == 0x200)) = true := by
  decide +kernel

theorem witness_CsrWritesWithRules :
    (meets (core 5 1 0x3FF) 12 10 (wrCsr 1) (fun g _ c t => decide (c.sA.toNat < 2 ^ 10) && t.flagsReady g)
      && meets (core 5 1 0x2000) 12 10 (wrCsr 0x20) (fun g _ c _ => g.core.isSome && decide (c.sA.toNat < 2 ^ 52) && c.sA.toNat % 4 == 0)
      && meets (core 5 1 0) 12 10 (wrCsr 0x21) (fun g _ c _ => g.core.isSome && decide (c.sA.toNat / 2 ^ 44 ≤ g.flow.wb + 60)
        && decide (g.flow.wb + 64 ≤ g.budget + c.sA.toNat / 2 ^ 44))) = true := by
  decide +kernel

/-- A core whose VMTBASE is written: tables at 0x10000. -/
def mapped (x : W64) : State :=
  { groups := [{ grpOf 16 5 1 x with core := some { num := 0, vmtbase := 0x10000, tables := true } }], vmtbase := some 0x10000
    mem := memWrite [] 0x10000 (natBytes 8 1 ++ natBytes 8 0x20000) }

theorem witness_PrivilegedReads :
    ((privCsrs.all fun r => meets (core 5 1 9) 34 0 (rdCsr r.1) fun g _ c t => g.core.isSome && free t c && csrNumA c.o == r.1)
      && ([0x202, 0x203].all fun n => meets (core 5 1 9) 34 0 (rdCsr n) fun g _ c t =>
        free t c && csrNumA c.o == n && decide ((t.agentEntry g false).2 = .own))
      && ([0x202, 0x203].all fun n => meets (mapped 9) 34 0 (rdCsr n) fun g _ c t =>
        free t c && csrNumA c.o == n && decide ((t.agentEntry g false).2 = .at' 0x20000)
        && !(t.agentEntry g false).1.badRead 0x20008 8 && !(t.agentEntry g false).1.badRead 0x20010 8)
      && meets (core 5 1 9) 34 0 (rdCsr 0x240) (fun _ _ c t => free t c)) = true := by
  decide +kernel

/-- A value that each write of `privWrites` accepts, with its CSR number. -/
def accepted : List (Nat × W64) :=
  [(0x210, 0x08041000 + 16), (0x220, 0x000F), (0x221, 300), (0x222, 0x14026), (0x223, 0x10), (0x230, 0x400),
   (0x240, 0), (0x251, 6), (0x260, 1), (0x270, 8)]

theorem witness_PrivilegedWrites :
    ((accepted.all fun p => meets (core 5 1 p.2) 34 1 (wrCsr p.1) fun _ _ c t => free t c && csrNumD c.o == p.1 && c.sAl == p.2)
      && ([(0x200, 0x3FFF), (0x201, 0xFF), (0x204, 0x10000), (0x271, 6)].all fun (p : Nat × W64) =>
        meets (core 5 1 p.2) 34 1 (wrCsr p.1) fun _ _ c t => free t c && csrNumD c.o == p.1 && c.sAl == p.2)) = true := by
  decide +kernel

theorem witness_PrivilegedWrites_accepted : ∀ k, k < 10 → ∀ r n v, privWrites[k]? = some r → accepted[k]? = some (n, v) →
    r.2.1 (core 5 1 v) (grpOf 16 5 1 v) n v := by
  intro k hk r n v hr ha
  interval_cases k <;> simp only [privWrites, accepted, List.getElem?_cons_zero,
    List.getElem?_cons_succ, Option.some.injEq, Prod.mk.injEq] at hr ha <;> obtain ⟨rfl, rfl⟩ := ha <;> subst hr <;>
    simp only [selOk] <;> decide

theorem witness_QuotaWritesAgentEntry :
    (([0x202, 0x203].all fun n => meets (core 5 1 9) 34 1 (wrCsr n) fun g _ c t =>
        free t c && csrNumD c.o == n && decide ((t.agentEntry g true).2 = .own))
      && ([0x202, 0x203].all fun n => meets (mapped 9) 34 1 (wrCsr n) fun g _ c t =>
        free t c && csrNumD c.o == n && decide ((t.agentEntry g true).2 = .at' 0x20000))) = true := by
  decide +kernel

/-- Change the one context of a module. -/
def with1 (s : State) (f : Group → Group) : State := { s with groups := s.groups.map f }

/-- Change a core's registers. -/
def coreWith (x : W64) (f : CoreRegs → CoreRegs) : State := with1 (core 5 1 x) fun g => { g with core := g.core.map f }

/-- The context at the last instruction of its clause, with headers at 0x1008 and 0x2000. -/
def atEnd (s : State) (f : Group → Group) : State :=
  { with1 s fun g => f { g with clause := some { clause with cnt := 1 } } with mem := memWrite (memWrite [] 0x1008 header) 0x2000 header }

/-- With flow of control changed. -/
def flow (f : Flow → Flow) (g : Group) : Group := { g with flow := f g.flow }

/-- The registers of a ring at 0x8000, and one record in it. -/
def ring : Ring := { base := 0x8000, en := true, log2n := 6 }
def ringMem : Mem := memWrite [] 0x8000 (natBytes 8 1)

/-- A token on which context 7 waits. -/
def token (cause : Nat) : Token := { num := 9, who := .group 7, cause := cause, asid := 0 }

theorem witness_SystemControl :
    (meets { coreWith 9 (fun k => { k with fring := ring }) with mem := ringMem } 34 3 (f3 0 0 0) (fun g _ c t =>
        free t c && c.anyLane && (match g.core with | some k => t.ringWork k | none => false))
      && meets (core 5 1 9) 34 3 (f3 0 0 0) (fun g _ c t =>
        free t c && c.anyLane && (match g.core with | some k => !t.ringWork k && !k.doorbell | none => false))
      && meets (core 5 1 9) 34 8 (f3 0 0 0) (fun _ _ c t => free t c && c.anyLane)
      && meets (core 5 1 9) 34 5 (f3 0 0 0) (fun _ _ c t => free t c)
      && meets (core 5 1 9) 34 4 (f3 0 1 2) (fun _ _ c t => free t c && fld c.sB 61 22 == 0
        && !t.usesOld { kind := fld c.sB 63 62, asid := fld c.sB 13 0, vmid := fld c.sB 21 14, page := c.sA.toNat / 2 ^ 14 })
      && meets { core 5 1 0 with tiles := [(0, { path := [{ id := 1, grp := 0, pa := 0, op := .store [1] }] })] } 34 4 (f3 0 1 2)
        (fun _ _ c t => free t c && fld c.sB 61 22 == 0 && c.anyLane
          && t.usesOld { kind := fld c.sB 63 62, asid := fld c.sB 13 0, vmid := fld c.sB 21 14, page := c.sA.toNat / 2 ^ 14 })) = true := by
  decide +kernel

/-- A core beside a gang in a state. -/
def withGang (x : W64) (st : GState) (pool : Nat) (saving : Option Nat) : State :=
  { coreWith x (fun k => { k with saving := saving }) with
      gangs := [{ gang with state := st }], works := [{ work with named := true }], teams := [team], dies := [(0, { ctxSize := pool })] }

theorem witness_PlacesAndContexts :
    (meets (core 5 1 0x400) 34 9 (fl 0 1 0 (2 ^ 63 + 100)) (fun g _ c t =>
        let v := c.sBl
        free t c && g.vmid == 0 && decide (c.sA.toNat < 2 ^ 12) && fld c.sA 11 0 / 1024 == 1 && fld v 62 9 == 0 && v.getLsbD 63
          && decide (fld v 7 0 < 104) && decide (fld v 8 8 < t.ndies) && !t.tileHeld 0
          && (t.behind (104 * fld v 8 8 + fld v 7 0)).isNone && !t.inExchange (t.physTile 0)
          && !t.inExchange (104 * fld v 8 8 + fld v 7 0))
      && meets (core 5 1 0x800) 34 9 (fl 0 1 0 0) (fun g _ c t => free t c && g.vmid == 0 && fld c.sA 11 0 / 1024 == 2 && fld c.sBl 62 0 == 0)
      && meets (core 5 1 0xC00) 34 9 (fl 0 1 0 7) (fun g _ c t => free t c && g.vmid == 0 && fld c.sA 11 0 / 1024 == 3 && fld c.sBl 25 9 == 0
        && (t.ndies == 2 || !c.sBl.getLsbD 63))
      && meets (withGang 0 (.saved false) 1 (some 3)) 34 6 (f3 3 1 0) (fun _ _ c t =>
        free t c && c.anyLane && (match t.gang? 3 with | some q => q.state == .saved false | none => false))
      && meets (core 5 1 0) 34 6 (f3 3 1 0) (fun g _ c t => free t c && c.anyLane && (t.gangNamed g c.sA).isNone)
      && ([(false, 1, false), (true, 1, true), (true, 0, true)].all fun (p : Bool × Nat × Bool) =>
        meets { withGang 0 (.stopping p.1) p.2.1 none with teams := [{ team with grps := [] }] } 34 6 (f3 3 1 0) fun g _ c t => free t c && c.anyLane && (match t.gangNamed g c.sA with
          | some q => q.state == .stopping p.1 && (p.1 && t.gangQuiet q && !q.preempt) == p.2.2 && t.poolFits q == (p.2.1 == 1)
          | none => false))
      && meets (withGang 0 .running 1 (some 3)) 34 6 (f3 3 1 0) (fun _ _ c t =>
        free t c && c.anyLane && (match t.gang? 3 with | some q => q.state == .running | none => false))
      && meets (withGang 0 .running 0 none) 34 6 (f3 3 1 0) (fun g _ c t =>
        free t c && c.anyLane && (match t.gangNamed g c.sA with | some q => q.state == .running && !t.poolFits q | none => false))
      && meets (withGang 0 .running 1 none) 34 6 (f3 3 1 0) (fun g _ c t =>
        free t c && c.anyLane && (match t.gangNamed g c.sA with | some q => q.state == .running && t.poolFits q | none => false))
      && meets (withGang 0 (.saved true) 1 none) 34 7 (f3 3 1 0) (fun g _ c t =>
        free t c && (match t.gangNamed g c.sA with | some q => q.state == .saved true | none => false))
      && meets (core 5 1 0) 34 7 (f3 3 1 0) (fun g _ c t => free t c && (t.gangNamed g c.sA).isNone)) = true := by
  decide +kernel

theorem witness_FaultRingOperations :
    (meets { coreWith 1 (fun k => { k with fring := ring }) with mem := ringMem } 34 10 (f3 3 1 0) (fun _ _ c t =>
        free t c && c.fb == 0 && decide (t.cons ring ≤ fld c.sA 62 0) && decide (fld c.sA 62 0 ≤ t.prod ring))
      && ([1, 2, 3].all fun b => meets (core 5 1 9) 34 10 (f3 3 1 b) fun _ _ c t => free t c && (t.token? c.sA.toNat).isNone)
      && ([1, 2, 3].all fun b => meets { core 5 1 9 with tokens := [token 1] } 34 10 (f3 3 1 b) fun _ _ c t =>
        free t c && (match t.token? c.sA.toNat with | some u => u.quotaOk | none => false))
      && meets { core 5 1 9 with tokens := [token 0x21] } 34 10 (f3 3 1 3) (fun _ _ c t =>
        free t c && c.anyLane && (match t.token? c.sA.toNat with | some u => !u.quotaOk | none => false))) = true := by
  decide +kernel

/-- A group that waits on token 9, in a launch. -/
def waiting (w : Work) : State := { tile 16 5 1 9 with works := [w], tokens := [{ token 1 with who := .group 0 }] }

theorem witness_FaultRingOperations_kill : oneOfEach (waiting work) ∧ oneOfEach (waiting { work with words := [0x20] ++ List.replicate 31 0 }) ∧
    (([work, { work with words := [0x20] ++ List.replicate 31 0 }].all fun w => let s := waiting w
        s.waiterWork (.group 0) == some w && s.waiterGang (.group 0) == some gang && gang.state != .retired && gang.work == w.id
          && (w.det == 1) == (w != work))
      && ([WState.submitted, .ready, .running].all fun st => let w : Work := { work with state := st, token := some 9 }
          (waiting w).waiterWork (.work 2) == some w)) = true := by
  unfold oneOfEach waiting; decide +kernel

theorem witness_FaultRingOperations_quota :
    ((let s := waiting work; let g := groupIn s
      s.group? 0 == some g && g.clause.isSome && g.hold != .trapEntry && !g.flow.tl && !g.gone)
      && (let s : State := { tile 16 5 1 9 with log := [entry] }; s.entry? 9 == some entry && !(groupIn s).flow.tl)) = true := by
  decide +kernel

/-- A core in its handler. -/
def inTrap (pc : W64) (written : Bool) : State :=
  atEnd (core 5 1 0) fun g => { flow (fun f => { f with tl := true }) g with
    csrs := { g.csrs with trappc := pc }
    frame := some { lpc := List.replicate 16 0x2000, fl := List.replicate 16 0, pcWritten := written
                    trap := { cause := .illop, info := 1, pc := 0x2004, lanes := 0xFFFF } } }

theorem witness_TrapReturn :
    (meets (inTrap 0x2000 false) 34 2 (f3 0 0 0) (fun g _ c _ => c.anyLane && (match g.frame with | some f => !f.pcWritten | none => false))
      && meets (inTrap 0x2000 true) 34 2 (f3 0 0 0) (fun g _ c t => c.anyLane && g.sameHi g.csrs.trappc
        && (t.checkHeader g g.csrs.trappc).2.isNone
        && (match g.frame with | some f => f.pcWritten && (f.trap.lanes &&& ~~~g.flow.exited) != 0 | none => false))
      && meets (inTrap 0x100002000 true) 34 2 (f3 0 0 0) (fun g _ c _ => c.anyLane && !g.sameHi g.csrs.trappc
        && (match g.frame with | some f => f.pcWritten && (f.trap.lanes &&& ~~~g.flow.exited) != 0 | none => false))) = true := by
  decide +kernel

/-- `MayGo` as a Bool, the state after the check left out. -/
def mayGo (c : Ctx) (t : State) (g : Group) (a : W64) : Bool := free t c && c.anyLane && g.sameHi a && (t.checkHeader g a).2.isNone

/-- A link to 0x2000. -/
def link : LinkEntry := { ret := 0x2000, step := 0 }

theorem witness_TransfersSendLanes :
    (([0, 1].all fun m => meets (atEnd (core 5 1 0) id) 16 m (fl 0 0 0 0x3FF) fun g _ c t =>
        c.cl.next == 0x1004 && decide ((0x2000 : Int) = c.cl.next.toNat + 4 * 0x3FF) && mayGo c t g 0x2000)
      && meets (atEnd (core 5 1 0) id) 16 2 (fl 0 0 0 0x3FF) (fun g _ c t => mayGo c t g 0x2000 && !g.flow.tl && g.flow.links.isEmpty)
      && meets (atEnd (core 5 1 0x2000) id) 16 3 (f3 0 1 0) (fun g _ c t => mayGo c t g (c.sA &&& ~~~3#64) && !g.flow.tl)
      && meets (atEnd (core 5 1 0x2000) (flow fun f => { f with links := List.replicate 15 link })) 16 3 (f3 0 1 0) (fun g _ c t =>
        mayGo c t g (c.sA &&& ~~~3#64) && !g.flow.tl && g.flow.links.length == 15)
      && meets (atEnd (core 5 1 0) (flow fun f => { f with links := [link] })) 16 4 (f3 0 0 0) (fun g _ c t =>
        mayGo c t g link.ret && !g.flow.tl && g.flow.links == [link])) = true := by
  decide +kernel

theorem witness_TransfersRefused :
    (([(2, fl 0 0 0 0x3FF), (3, f3 0 1 0), (4, f3 0 0 0)].all fun (p : Nat × Ops) =>
        meets (atEnd (core 5 1 0x2000) (flow fun f => { f with tl := true })) 16 p.1 p.2 fun g _ c t => free t c && g.flow.tl)
      && meets (with1 (core 5 1 0) (flow fun f => { f with tl := true })) 16 5 (f3 0 0 4) (fun g _ c t => free t c && g.flow.tl)
      && meets (atEnd (core 5 1 0x2000) (flow fun f => { f with links := List.replicate 16 link })) 16 3 (f3 0 1 0) (fun g _ c t =>
        mayGo c t g (c.sA &&& ~~~3#64) && !g.flow.tl && g.flow.links.length == 16)
      && meets (atEnd (core 5 1 0) (flow fun f => { f with links := List.replicate 16 link })) 16 2 (fl 0 0 0 0x3FF) (fun g _ c t =>
        mayGo c t g 0x2000 && !g.flow.tl && g.flow.links.length == 16)
      && meets (atEnd (core 5 1 0) id) 16 4 (f3 0 0 0) (fun g _ c t => free t c && !g.flow.tl && c.anyLane && g.flow.links.isEmpty)
      && ([0, 1, 2].all fun m => meets (atEnd (core 5 1 0) id) 16 m (fl 0 0 0 0x40000000) fun g _ c t =>
        free t c && c.anyLane && !g.flow.tl && !g.sameHi 0x100001004)
      && meets (atEnd (core 5 1 0x100002000) id) 16 3 (f3 0 1 0) (fun g _ c t => free t c && c.anyLane && !g.flow.tl && !g.sameHi (c.sA &&& ~~~3#64))
      && meets (atEnd (core 5 1 0) (flow fun f => { f with links := [{ link with ret := 0x100002000 }] })) 16 4 (f3 0 0 0) (fun g _ c t =>
        free t c && c.anyLane && !g.flow.tl && !g.sameHi 0x100002000)) = true := by
  decide +kernel

/-- A core with one frame of a step, and a budget. -/
def framed (step budget : Nat) : State :=
  with1 (core 5 1 0) fun g => { flow (fun f => { f with links := [{ link with step := step }] }) g with budget := budget }

theorem witness_EnterMovesWindow :
    (meets (core 5 1 0) 16 5 (f3 0 0 4) (fun g _ c t => free t c && !g.flow.tl && c.anyLane && g.flow.links.isEmpty)
      && meets (framed 56 68) 16 5 (f3 0 0 4) (fun g _ c t => free t c && !g.flow.tl && c.anyLane && c.fb == 4
        && decide (g.flow.wb + c.fb + 64 ≤ g.budget + g.flow.lo))
      && meets (framed 0 68) 16 5 (f3 0 0 5) (fun g _ c t => free t c && !g.flow.tl && c.anyLane && c.fb % 4 == 1)
      && meets (framed 60 68) 16 5 (f3 0 0 4) (fun g _ c t => free t c && !g.flow.tl && c.anyLane && c.fb == 4)
      && meets (framed 56 67) 16 5 (f3 0 0 4) (fun g _ c t => free t c && !g.flow.tl && c.anyLane && c.fb == 4
        && decide (g.budget + g.flow.lo < g.flow.wb + c.fb + 64))) = true := by
  decide +kernel

theorem witness_ExitYieldNopSysTrap :
    (meets (atEnd (core 5 1 0) id) 16 6 (f3 0 0 0) (fun _ _ c t => free t c) && meets (core 5 1 0) 16 7 (f3 0 0 0) (fun _ _ c t => free t c)
      && meets (core 5 1 0) 16 8 (f3 0 0 0) (fun _ _ c t => free t c) && meets (atEnd (core 5 1 0) id) 16 10 (f3 7 0 0) (fun _ _ c t => free t c)
      && meets (atEnd (core 5 1 0) id) 16 9 (f3 7 0 0) (fun g _ c t => free t c && c.anyLane && !g.flow.tl)) = true := by
  decide +kernel

/-- A loop entry of the outermost frame. -/
def lentry : LoopEntry := { start := 0x1000, endh := 0x1000, n := 3, fl := 0 }

/-- A core with loops. -/
def looped (n : Nat) : State :=
  { with1 (core 5 1 3) (flow fun f => { f with loops := List.replicate n lentry }) with mem := memWrite [] 0x1008 ([0x04, 0, 0, 0] ++ header) }

theorem witness_LoopsAndLaneMoves :
    (meets (looped 3) 17 0 (f3 0 1 8) (fun g cl c t => free t c && !g.flow.tl && c.anyLane && g.flow.loops.length == 3
        && (match (t.skipInstrs g (cl.cnt - cl.pos - 1) (c.cl.next + w64 (4 * c.words))).2 with
          | .ok a => decide (a.toNat ≤ (c.cl.next + w64 (4 * (c.fd * 64 + c.fb))).toNat) | .error _ => false))
      && meets (looped 4) 17 0 (f3 0 1 8) (fun g cl c t => free t c && !g.flow.tl && c.anyLane && g.flow.loops.length == 4
        && (match (t.skipInstrs g (cl.cnt - cl.pos - 1) (c.cl.next + w64 (4 * c.words))).2 with | .ok _ => true | .error _ => false))
      && meets (looped 1) 17 1 (f3 0 0 0) (fun g _ c t => free t c && !g.flow.tl && c.anyLane && g.flow.loops == [lentry])
      && meets (looped 0) 17 1 (f3 0 0 0) (fun g _ c t => free t c && !g.flow.tl && c.anyLane && g.flow.loops.isEmpty)
      && meets (looped 1) 17 2 (f3 3 0 0) (fun g _ c t => free t c && !g.flow.tl && c.anyLane && c.fa == 0 && g.flow.loops == [lentry])
      && meets (looped 1) 17 2 (f3 3 1 0) (fun g _ c t => free t c && !g.flow.tl && c.anyLane && c.fa == g.flow.loops.length)
      && meets (looped 2) 17 3 (f3 2 0 0) (fun g _ c t => free t c && !g.flow.tl && c.anyLane && c.fd == g.flow.loops.length)
      && meets (looped 1) 17 3 (f3 2 0 0) (fun g _ c t => free t c && !g.flow.tl && c.anyLane && decide (g.flow.loops.length < c.fd))
      && meets (atEnd (core 0x2000 1 0) id) 12 11 (f3 0 1 0) (fun g _ c t => tagsOk c (c.needA [0, 1]) && free t c
        && (t.checkHeaders g (c.lanes.map fun i => ((g.codehi ++ (c.opA i &&& 0xFFFFFFFC#32)).zeroExtend 64 : W64)).eraseDups).2.isNone)
      && meets (atEnd (core 0x8000 1 0) id) 12 11 (f3 0 1 0) (fun g _ c t => tagsOk c (c.needA [0, 1]) && free t c
        && (match (t.checkHeaders g (c.lanes.map fun i => ((g.codehi ++ (c.opA i &&& 0xFFFFFFFC#32)).zeroExtend 64 : W64)).eraseDups).2 with
          | some (.trap _ _) => true | _ => false))) = true := by
  decide +kernel

/-! ## Memory, local stores, copies and barriers -/

/-- An identity translation of everything, readable and writable. -/
def identityTlb : TlbEntry := { vmid := 0, asid := 0, size := 2, va := 0, pa := 0, rd := true, wr := true, rd2 := true, wr2 := true, p := false, attr := 0, desc := 0, dirty := true }

/-- A tile whose translation is the identity. -/
def mem (s : State) : State := { s with vmtbase := some 0x10000, tlbs := [(.tile 0, [identityTlb])] }

/-- The team in a region's body, one step for each lane of its one group. -/
def inBody (s : State) (st : RState) : State :=
  { s with teams := s.teams.map fun t => { t with region := { state := st, t := 16, g := 1, d := 1, grps := [0], cap := 4, plim := 9, p := 1 } } }

/-- The accesses fail in no way; `P` of the state after. -/
def placed (x : State × Except AFail (List Access)) (P : State → List Access → Bool) : Bool :=
  match x with | (u, .ok l) => P u l | _ => false

/-- The values bind. -/
def bound (x : BRes) : Bool := match x with | .ok _ => true | _ => false

/-- No line of a waiting instruction is touched. -/
def alone (t : State) (c : Ctx) : Bool := (t.waitersOf c.g).isEmpty && (t.quotaEntries c.g).isEmpty && (c.quotaDue false).isNone

theorem witness_LoadsEnterLog :
    (ldgRows.all fun r => meets (core 0 1 0x10000) 18 r.2.1 (f3 3 1 0) fun g _ c t =>
      let accs := accesses c r.2.2.2.2.2 r.2.2.1
      passes t c (addrTags c r.2.2.2.2.2) && accs.all (fun a => !t.apertureBad g a && !t.apertureScored g true a)
        && !t.acquirePending g && alone t c
        && (let l := c.logIssue t (.load r.2.2.1 r.2.2.2.1 r.2.2.2.2.1 c.e.scope.toNat c.e.hint.toNat) fun e =>
              { e with scalar := r.2.2.2.2.2, tag := c.e.xmod, accs := accs }
            let v := c.record l.1 false accs fun _ => []
            match v.entry? l.2 with | some e => ((v.issueLocals g e).resolveEntry l.2).2 != some .reg | none => false)) = true := by
  decide +kernel

theorem witness_StoresEnterPath :
    ((stgRows.all fun r => meets (core 0 1 0x10000) 19 r.2.1 (f3 3 1 0) fun g _ c t =>
      let accs := accesses c r.2.2.2.1 r.2.2.1
      passes t c (addrTags c r.2.2.2.1) && t.inRegion g != .body && (t.embreqOf g 0 accs).isNone && (t.apertureBarbusy g accs).isNone
        && !t.acquirePending g && t.accessesMade g && t.otherClear g && t.atomicsHome g && t.released g c.e.scope.toNat
        && accs.all (fun a => !t.apertureBad g a && !t.apertureScored g false a)
        && placed (t.placeAll g .write accs) fun u l => bound (u.bindBefore g u.nextId l))
     && (stgRows.all fun r => meets (inBody (mem (tile 16 0 1 0x10000)) .open) 19 r.2.1 (f3 3 1 0) fun g _ c t =>
      let accs := accesses c r.2.2.2.1 r.2.2.1
      (r.2.2.2.1 || r.2.2.2.2) || passes t c (addrTags c r.2.2.2.1) && t.inRegion g == .body
        && !t.acquirePending g && accs.all (fun a => !t.apertureBad g a) && placed (t.placeAll g .write accs) fun _ _ => true)) = true := by
  decide +kernel

/-- Fields of an atomic with XMOD. -/
def fx (d a b c : BitVec 6) (x : BitVec 4) : Ops := { f3 d a b with ext := some (ext c x) }

/-- A core with v10 zero. -/
def atomicCore (tag : BitVec 4) : State :=
  with1 (core 0 tag 0x10000) fun g => { g with regs := { g.regs with slots := lset g.regs.slots 10 { data := List.replicate 16 0, tag := 1 } } }

theorem witness_AtomicsIssue :
    (atomicRows.all fun r => [false, true].all fun scal => [(0 : BitVec 4), 1].all fun xm => [1, 2].any fun tag => [0, 5].any fun fc =>
      meets (atomicCore tag) (if scal then 21 else 20) r.2.2.1
        (fx (if xm = 0 then 3 else 0) 1 (if !scal then 10 else if r.2.2.1 = 12 then 0 else 4) fc xm) fun g _ c t =>
          let n := if r.2.2.1 = 13 then 8 else 4
          let accs := accesses c scal n
          passes t c (addrTags c scal ++ if scal then [] else r.2.2.2.2.1 c) && accs.all (fun a => a.va.toNat % n == 0 && !inAperture g a.va)
            && (t.embreqOf g 0 accs).isNone && !t.acquirePending g && c.xm == xm.toNat
            && (if xm = 0 then
                let l := c.logIssue t (.atomic r.2.2.2.1 (scal && r.2.2.2.2.2.2) c.e.hint.toNat) fun e => { e with
                  scalar := scal, tag := if scal then tRAW else r.2.2.2.2.2.1 c, accs := accs
                  opnds := accs.map fun a => (a.lane, atomicArgs c r.2.2.1 scal a.lane) }
                match l.1.entry? l.2 with | some e => ((l.1.issueLocals g e).resolveEntry l.2).2 != some .reg | none => false
              else placed (t.placeAll g .atomic accs) fun u l => (u.coreAtomicBad g l).isNone && bound (u.bindBefore g u.nextId l))) = true := by
  decide +kernel

/-- A store path of one atomic. -/
def path1 (op : PathOp) : State := { core 0 1 0 with tiles := [(0, { path := [{ id := 7, grp := 0, pa := 0x10000, op := op }] })] }

theorem witness_AtomicsPerformAtHome :
    (atomicRows.all fun r =>
      let s := path1 (.atomic r.2.2.2.1 3 4 none)
      ((s.tile 0).path.find? fun p => p.id == 7) == some { id := 7, grp := 0, pa := 0x10000, op := .atomic r.2.2.2.1 3 4 none }
        && pathReady (s.tile 0).path 7 && !s.badRead 0x10000 (if r.2.2.1 = 13 then 8 else 4)) = true := by
  decide +kernel

theorem witness_OrderingAndCaches :
    (([(true, true, true), (false, true, false), (true, false, false), (true, true, false)].all fun (r : Bool × Bool × Bool) =>
        meets (tile 16 5 1 9) 22 0 (f3 0 0 0) (fun g _ c t => free t c && t.released g c.e.scope.toNat && t.loadsBound g
          && t.pathClear g && (r.1 || r.2.1 || r.2.2)))
      && meets (tile 16 5 1 9) 22 0 { f3 0 0 0 with ext := some { ext 0 0 with scope := 3 } } (fun g _ c t =>
        free t c && t.released g c.e.scope.toNat && t.loadsBound g && !t.tileWide g c.e.scope.toNat)
      && meets { tile 16 5 1 9 with log := [{ entry with op := .load 4 false false 0 0, accs := [{ lane := 0, va := 0, n := 4, place := .phys [{ pa := 0, n := 4, attr := 0 }] }] }] } 22 0
        (f3 0 0 0) (fun g _ c t => free t c && c.anyLane && !t.released g c.e.scope.toNat && !t.loadsBound g)
      && meets (core 0 1 0x10000) 22 1 (f3 0 1 2) (fun _ _ c t => passes t c (c.needBw [0, 1]))
      && ([2, 3].all fun m => meets (core 0 1 0x10000) 22 m (f3 0 1 2) fun g _ c t =>
        let vas := c.lanes.map fun i => c.sA + (c.opBw i).signExtend 64 + c.lit
        passes t c (c.needBw [0, 1]) && vas.all (fun va => !inAperture g va) && (match t.linesOf g vas with | (u, .ok l) => u.linesHome g l | _ => false))) = true := by
  decide +kernel

/-- Offset of lane `i`'s local address. -/
def localOff (c : Ctx) (i : Nat) : Nat := ((c.opA i).toNat + c.sB.toInt + c.lit.toInt : Int).toNat

/-- Every lane's local address is valid. -/
def windowed (t : State) (c : Ctx) (n : Nat) : Bool :=
  c.lanes.all fun i => decide (0 ≤ ((c.opA i).toNat + c.sB.toInt + c.lit.toInt : Int)) && localOff c i % n == 0
    && t.localAddr c.g (localOff c i) n == some (1, localOff c i)

/-- Nothing stands in the way of a local access. -/
def windowClear (t : State) (c : Ctx) (n : Nat) : Bool :=
  c.lanes.all fun i => t.barrierHit 1 (localOff c i) n == none && !t.scoreHit 1 (localOff c i) n false && !t.scoreHit 1 (localOff c i) n true

theorem witness_LocalAccesses :
    ((ldlRows.all fun r => meets (tile 16 64 1 32) 23 r.2.1 (f3 8 1 2) fun g _ c t =>
        passes t c (c.needA [0, 1]) && !t.acquirePending g && windowed t c r.2.2.1 && windowClear t c r.2.2.1)
      && (stlRows.all fun r => meets (tile 16 64 1 32) 23 r.2.1 (f3 8 1 2) fun g _ c t =>
        passes t c (c.needA [0, 1]) && !t.acquirePending g && windowed t c r.2.2 && windowClear t c r.2.2 && t.inRegion g != .body)
      && (stlRows.all fun r => meets (inBody (tile 16 64 1 32) .open) 23 r.2.1 (f3 8 1 2) fun g _ c t =>
        passes t c (c.needA [0, 1]) && !t.acquirePending g && windowed t c r.2.2 && t.inRegion g == .body)
      && (llAtomicRows.all fun r => meets (tile 16 64 1 32) 23 r.2.1 (f4 8 1 2 4) fun g _ c t =>
        passes t c (c.needA [0, 1] ++ r.2.2.2.1 c) && !t.acquirePending g && windowed t c 4 && windowClear t c 4)
      && meets (tile 16 0 1 0xFFC) 23 11 (f3 8 1 2) (fun _ _ c t => passes t c (c.needA [0, 1]) && windowed t c 4)
      && ((ldlRows.map fun (r : Mk × Nat × Nat × Bool) => (r.2.1, r.2.2.1)) ++ stlRows.map fun (r : Mk × Nat × Nat) => (r.2.1, r.2.2)).all (fun (p : Nat × Nat) =>
        meets (tile 16 0 1 0x1000) 23 p.1 (f3 8 1 2) fun _ _ c t => passes t c (c.needA [0, 1]) && c.anyLane && (t.localAddr c.g (localOff c 0) p.2).isNone)
      && (llAtomicRows.all fun r => meets (tile 16 0 1 0x1000) 23 r.2.1 (f4 8 1 2 4) fun _ _ c t =>
        passes t c (c.needA [0, 1] ++ r.2.2.2.1 c) && c.anyLane && (t.localAddr c.g (localOff c 0) 4).isNone)) = true := by
  decide +kernel

/-- s2 of value `x`. -/
def s2 (x : W64) (s : State) : State := with1 s fun g => { g with regs := { g.regs with sregs := lset g.regs.sregs 2 { val := x } } }

/-- Fields with C, XMOD and PLACE. -/
def fp (d a b c : BitVec 6) (x : BitVec 4) (place : BitVec 12) : Ops := { f3 d a b with ext := some { ext c x with place := place } }

/-- A group at offset 16 and 32 of its window, and a second team of its launch. -/
def one : State := tile 16 16 1 0x20
def two : State := { one with teams := [team, { team with id := 2, pos := 1, l := 1, base := 4096, grps := [] }] }

/-- Physical tile 0. -/
def onTile (s : State) (t : Tile) : State := { s with tiles := [(0, t)] }

/-- The hypotheses of a copy but for its room. -/
def copies (t : State) (c : Ctx) (n : Nat) : Bool :=
  let glob (v : W32) : Bool := (c.sB + v.signExtend 64 + c.lit).toNat % n == 0
  let loc (v : W32) : Bool := v.toNat % n == 0 && (t.localAddr c.g v.toNat n).isSome && decide (v.toNat < 2 ^ 20)
  passes t c (c.needA [0, 1] ++ c.needD [0, 1]) && c.anyLane
    && c.lanes.all (fun i => (if c.xm = 0 then glob (c.opA i) else loc (c.opA i)) && (if c.xm = 1 then glob (c.opDk 0 i) else loc (c.opDk 0 i)))
    && (t.copyEmbreq c.g n (c.lanes.map fun i => c.sB + (c.opDk 0 i).signExtend 64 + c.lit)).isNone

/-- The object that a scalar names. -/
def named (t : State) (g : Group) (v : W64) : Bool :=
  v.toNat % 2 ^ 32 % 16 == 0 && (t.localAddr g (v.toNat % 2 ^ 32) 16).isSome && decide (v.toNat % 2 ^ 32 < 2 ^ 20)

/-- The intervals of a copy from and to offset 16 of team 1. -/
def room (t : State) (c : Ctx) (n : Nat) : Bool :=
  t.scoreRoom ((if c.xm = 0 then [] else t.intervals t.nextId n false (c.lanes.map fun _ => (1, 16)))
    ++ if c.xm = 1 ∨ c.e.place.toNat / 1024 ≠ 0 then [] else t.intervals t.nextId n true (c.lanes.map fun _ => (1, 16)))

theorem witness_CopiesEnterEngine :
    (([(0, 4), (1, 8), (2, 16)].all fun (p : Nat × Nat) =>
        ([0, 1, 2].all fun x => [0, 2].all fun fc => meets one 24 p.1 (fp 4 5 (if x = 2 then 0 else 1) fc x 0) fun g _ c t =>
          copies t c p.2 && room t c p.2 && c.fc == fc.toNat && c.xm == x.toNat && named t g c.sC)
        && ([0, 2].all fun fc => meets two 24 p.1 (fp 4 5 0 fc 2 0x400) fun g _ c t =>
          copies t c p.2 && room t c p.2 && c.receivers t == [2] && named t g c.sC && c.fc == fc.toNat)
        && meets one 24 p.1 (fp 4 5 0 0 2 0x400) (fun _ _ c t => copies t c p.2 && room t c p.2 && c.receivers t == [])
        && meets (onTile one { scores := List.replicate 64 { copy := 1, lo := 8192, hi := 8195, write := true } }) 24 p.1 (fp 4 5 1 0 0 0)
          (fun _ _ c t => copies t c p.2 && !room t c p.2))) = true := by
  decide +kernel

/-- The object at offset 0x20 of team 1, with its first word. -/
def bar1 (w : W64) (s : State) : State := (s.setBarriers 1 [0x20]).setBarWords 1 0x20 (w, 0)

/-- Sixteen batches unfinished. -/
def sealed16 : List Copy := (List.range 16).map fun k =>
  { id := k, grp := 0, team := 1, asid := 0, vmid := 0, dir := .g2l, n := 4, scope := 0, hint := 0, batch := some k, lanes := [] }

/-- Fields of a non-blocking form, its predicate p3. -/
def fnb (d a b : BitVec 6) (place : BitVec 12) : Ops := { f3 d a b with ext := some { ext 0 0 with place := place, nb := true, nbp := 3 } }

theorem witness_MulticastsAndBatches :
    (([(two, [2]), (bar1 0x100000001 two, [2]), (one, [])].all fun (p : State × List Nat) => meets p.1 24 5 (fp 4 5 1 2 0 0x400) fun g _ c t =>
        passes t c (c.needA [0, 1] ++ c.needD [0, 1]) && named t g c.sB && named t g c.sC && c.receivers t == p.2
          && t.scoreRoom (t.intervals t.nextId 16 false (c.lanes.map fun _ => (1, 16)))
          && c.lanes.all fun i => (c.opA i).toNat == 16 && (c.opDk 0 i).toNat + c.lit.toInt == 16 && t.localAddr g 16 16 == some (1, 16))
      && meets (onTile two { bars := [0x20] }) 24 5 (fp 4 5 1 2 0 0x400) (fun _ _ _ t => t.barValid 1 0x20)
      && meets two 24 5 (fp 4 5 1 2 0 0x400) (fun _ _ _ t => !t.barValid 1 0x20)
      && meets one 24 3 (f3 3 0 0) (fun g _ c t => free t c && decide ((t.unfinished g.id).length < 16))
      && meets { one with copies := sealed16 } 24 3 (f3 3 0 0) (fun g _ c t => free t c && c.anyLane && decide (16 ≤ (t.unfinished g.id).length))
      && ([(one, 0x20), ({ one with copies := sealed16 }, 15)].all fun (p : State × W64) =>
        [false, true].all fun nb => meets p.1 24 4 { fl 0 0 0 p.2 with ext := some { ext 0 0 with nb := nb, nbp := if nb then 3 else 0 } } fun g _ c t =>
          free t c && c.anyLane && c.e.nb == nb
            && (decide ((t.unfinished g.id).length ≤ c.sAl.toNat) || decide (16 ≤ c.sAl.toNat)) == (p.2 == 0x20))) = true := by
  decide +kernel

/-- Fields of a barrier instruction on s1 (0x20), with s2. -/
def bo (d : BitVec 6) : Ops := f3 d 1 2

theorem witness_BarrierObjects :
    (meets one 25 0 (fl 0 1 0 65535) (fun g _ c t => free t c && named t g c.sA && c.sBl == 65535 && !t.copyNames 1 0x20 && !t.barValid 1 0x20
        && decide ((t.tile 0).bars.length < 128))
      && meets (bar1 0x100000001 one) 25 0 (fl 0 1 0 1) (fun g _ c t => free t c && named t g c.sA && c.sBl == 1 && !t.copyNames 1 0x20
        && t.barValid 1 0x20 && !(t.bar 1 0x20).waiters && (t.bar 1 0x20).bytes == 0 && (t.bar 1 0x20).acks == 0)
      && meets (bar1 0x100000001 one) 25 1 (f3 0 1 0) (fun g _ c t => free t c && named t g c.sA && t.barValid 1 0x20
        && decide ((t.bar 1 0x20).arrived < (t.bar 1 0x20).expect) && t.released g 2)
      && meets { bar1 0x100000001 one with log := [{ entry with op := .load 4 false false 0 0, accs := [{ lane := 0, va := 0, n := 4, place := .phys [{ pa := 0, n := 4, attr := 0 }] }] }] }
        25 1 (f3 0 1 0) (fun g _ c t => free t c && named t g c.sA && t.barValid 1 0x20
          && decide ((t.bar 1 0x20).arrived < (t.bar 1 0x20).expect) && c.anyLane && !t.released g 2)
      && meets (bar1 0x100000001 one) 25 2 (fl 0 1 0 0x7FFFFFFF) (fun g _ c t => free t c && named t g c.sA && t.barValid 1 0x20
        && c.sBl == 0x7FFFFFFF && decide ((t.bar 1 0x20).bytes + c.sBl.toNat < 2 ^ 31))
      && ([3, 4].all fun m =>
        meets one 25 m (bo 3) (fun g _ c t => free t c && named t g c.sA && !t.barValid 1 0x20)
        && meets (bar1 0x100000001 one) 25 m (bo 3) (fun g _ c t => free t c && named t g c.sA && t.barValid 1 0x20
          && (t.bar 1 0x20).phase != c.sB.toNat % 2 ^ 16)
        && meets (s2 0 (bar1 0x100000001 one)) 25 m (bo 3) (fun g _ c t => free t c && named t g c.sA && t.barValid 1 0x20 && c.anyLane
          && (t.bar 1 0x20).phase == c.sB.toNat % 2 ^ 16))
      && ([5, 7].all fun m => meets (bar1 0x100000001 one) 25 m (f3 0 1 0) fun g _ c t => free t c && named t g c.sA && t.barValid 1 0x20
        && decide (t.team? 1 = some team))) = true := by
  decide +kernel

theorem witness_BarrierErrorsAndTeamBarrier :
    (([(0, f3 0 1 2), (1, f3 0 1 0), (2, f3 0 1 2), (3, f3 3 1 2), (4, f3 3 1 2), (5, f3 0 1 0), (7, f3 0 1 0)].all fun (p : Nat × Ops) =>
        meets (tile 16 16 1 0x1000) 25 p.1 p.2 fun g _ c t => free t c && c.anyLane && (t.localAddr g (c.sA.toNat % 2 ^ 32) 16).isNone)
      && ([1, 2, 5, 7].all fun m => meets one 25 m (f3 0 1 (if m = 2 then 2 else 0)) fun g _ c t =>
        free t c && c.anyLane && named t g c.sA && !t.barValid 1 0x20 && (m != 2 || (decide (0 < c.sBl.toNat) && decide (c.sBl.toNat < 2 ^ 31))))
      && meets (bar1 1 one) 25 1 (f3 0 1 0) (fun g _ c t => free t c && c.anyLane && named t g c.sA && t.barValid 1 0x20
        && decide ((t.bar 1 0x20).expect ≤ (t.bar 1 0x20).arrived))
      && meets one 25 6 (f3 0 0 0) (fun g _ c t => free t c && c.anyLane && decide (t.teamOf g = some team) && t.released g 1)
      && meets { one with log := [{ entry with op := .load 4 false false 0 0, accs := [{ lane := 0, va := 0, n := 4, place := .phys [{ pa := 0, n := 4, attr := 0 }] }] }] }
        25 6 (f3 0 0 0) (fun g _ c t => free t c && c.anyLane && decide (t.teamOf g = some team) && !t.released g 1)) = true := by
  decide +kernel

/-! ## Matrix unit, kiln, work, collectives, time -/

/-- A group of a team whose panels have a control word. -/
def pteam (s : State) (ctl : W64) (unf : List Nat) : State :=
  { s with teams := [{ team with panels := List.replicate 8 { ctl := ctl, unfenced := unf } }] }

/-- One row of 64 bytes, F16; the same with scales in format F8. -/
def ctl16 : W64 := 0x300040
def ctl8s : W64 := 0x680040

/-- An incomplete `mma` on panels 1 and 2. -/
def mmaEntry : LogEntry := { entry with op := .mma 0 1 2 false 0 }

/-- The accesses of `pld` and `pst` may go. -/
def panelGoes (t : State) (c : Ctx) (p : Panel) : Bool :=
  let accs := panelAccesses c p
  p.ctl != 0 && fieldOf (c.sA + c.lit) 3 0 == 0 && fieldOf c.sB 3 0 == 0 && ((c.sA + c.lit).toNat + fieldOf c.sB 63 32) % 8 == 0
    && accs.all (fun a => !t.rowBad c.g a && !t.apertureScored c.g true a && !t.apertureScored c.g false a)
    && !t.acquirePending c.g && alone t c && !t.panelRead c.g c.fd && !t.panelInFlight c.g c.fd
    && (t.embreqOf c.g 0 accs).isNone && (t.apertureBarbusy c.g accs).isNone

/-- The entry of the log, with its accesses through the aperture made, resolves without an error of a register. -/
def resolves (g : Group) (l : State × Nat) : Bool :=
  match l.1.entry? l.2 with | some e => ((l.1.issueLocals g e).resolveEntry l.2).2 != some .reg | none => false

theorem witness_PanelInstructions :
    (meets (tile 16 5 1 9) 12 6 (fl 1 0 0 ctl8s) (fun g _ c t => free t c && ctlOk g c.sAl && !t.panelRead g c.fd)
      && meets (tile 16 5 1 9) 12 6 (fl 1 0 0 0x300041) (fun g _ c t => free t c && !ctlOk g c.sAl)
      && meets { tile 16 5 1 9 with log := [mmaEntry] } 12 6 (fl 1 0 0 ctl16) (fun g _ c t => free t c && ctlOk g c.sAl && t.panelRead g c.fd && c.anyLane)
      && meets (tile 16 5 1 9) 12 7 (f3 3 1 0) (fun _ _ c t => free t c)
      && ([ctl16, ctl8s].all fun w => meets (pteam (mem (tile 16 5 1 0x10000)) w []) 26 0 (f3 1 2 3) fun g _ c t =>
        let p := t.panelOf g c.fd
        free t c && c.anyLane && panelGoes t c p
          && resolves g (c.logIssue (t.setPanel g c.fd (soiled p g)) (.pld c.fd) fun e => { e with accs := panelAccesses c p }))
      && ([ctl16, ctl8s].all fun w => meets (pteam (mem (tile 16 5 1 0x10000)) w []) 26 1 (f3 1 2 3) fun g _ c t =>
        let p := t.panelOf g c.fd
        let accs := panelAccesses c p
        free t c && c.anyLane && panelGoes t c p
          && resolves g (c.logIssue t .pst fun e => { e with
                  accs := accs
                  bound := accs.map fun a => (a.lane, bytesNat (if a.lane = 1064 then memRead p.strip 0 a.n
                    else memRead p.bytes ((a.lane - 1000) * a.n) a.n)) }))
      && ([0, 1].all fun m => meets (with1 (tile 16 5 1 9) (flow fun f => { f with exited := 0xFFFF })) 26 m (f3 1 2 3) fun _ _ c t =>
        free t c && !c.anyLane)
      && meets (tile 16 5 1 9) 26 2 (f3 1 0 0) (fun g _ c t => free t c && !t.panelRead g c.fd)
      && meets (pteam (tile 16 5 1 9) ctl16 [0]) 26 3 (f3 0 0 0) (fun g _ c t => free t c && (t.teamOf g).isSome && t.log.isEmpty)
      && meets { pteam (tile 16 5 1 9) ctl16 [0] with log := [{ entry with op := .pld 0 }] } 26 3 (f3 0 0 0) (fun g _ c t =>
        free t c && (t.teamOf g).isSome && c.anyLane && t.log.any fun e => e.grp == g.id && e.state == .running && e.op == .pld 0)) = true := by
  decide +kernel

/-- `partValid` as a Bool. -/
def partOk (c : Ctx) (p : Panel) : Bool :=
  decide (c.fc < 2) && p.ctl != 0 && decide (c.sB.toNat < 2 ^ 14) && fieldOf c.sB 7 6 == 0
    && decide (fieldOf c.sB 5 0 < (geoOf c.g p.ctl).rows) && (c.fc != 1 || decide (fieldOf c.sB 13 8 ≤ 1))

theorem witness_PanelInstructions_parts :
    (meets (pteam (tile 16 5 3 0) ctl16 []) 26 11 (f4 1 2 3 0) (fun g _ c t => let p := t.panelOf g c.fd
        partOk c p && passes t c (c.needA [BitVec.ofNat 4 (geoOf g p.ctl).fmt]) && !t.panelRead g c.fd && c.fc == 0)
      && meets (pteam (tile 16 5 1 0x100) ctl8s []) 26 11 (f4 1 2 3 1) (fun g _ c t => let p := t.panelOf g c.fd
        partOk c p && passes t c (c.needA [0, 1]) && !t.panelRead g c.fd && c.fc == 1)
      && ([0, 1].all fun fc => meets (pteam (tile 16 5 1 0x100) ctl8s []) 26 12 (f4 3 2 3 fc) fun g _ c t =>
        partOk c (t.panelOf g c.fa) && passes t c [] && !t.panelInFlight g c.fa && c.fc == fc.toNat)) = true := by
  decide +kernel

/-- In a deterministic launch. -/
def det (s : State) (w : Work) : State := { s with works := [{ w with words := [0x20] ++ List.replicate 31 0 }] }

theorem witness_AccumulatorInstructions :
    (([4, 5].all fun m =>
        [(pteam (tile 16 5 1 9) ctl16 [], true), (with1 (pteam (tile 16 5 1 9) ctl16 []) (flow fun f => { f with exited := 0xFFFF }), false)].all
          fun (p : State × Bool) => meets p.1 26 m (f3 1 2 3) fun g _ c t =>
            let a := geoOf g (t.panelOf g c.fa).ctl
            let b := geoOf g (t.panelOf g c.fb).ctl
            free t c && (t.panelOf g c.fa).ctl != 0 && a.k == b.k && a.fmt == b.fmt && c.anyLane == p.2
              && c.act == (fullMask g.width &&& ~~~g.flow.exited) && (match t.workOf g with | some w => w.det != 1 | none => false))
      && ([4, 5].all fun m => meets (with1 (pteam (tile 16 5 1 9) ctl16 []) fun g => { g with clause := g.clause.map fun k => { k with lanes := 1 } })
          26 m (f3 1 2 3) fun g _ c t =>
            free t c && (t.panelOf g c.fa).ctl != 0 && c.anyLane && c.act != (fullMask g.width &&& ~~~g.flow.exited))
      && ([4, 5].all fun m => meets (det { pteam (tile 16 5 1 9) ctl16 [] with
            teams := [{ team with panels := List.replicate 8 { ctl := ctl16 }, accs := List.replicate 2 { owner := 8 } }] } work) 26 m (f3 1 2 3)
          fun g _ c t => free t c && (t.panelOf g c.fa).ctl != 0 && c.anyLane && c.act == (fullMask g.width &&& ~~~g.flow.exited)
            && (match t.workOf g with | some w => w.det == 1 && (t.accOf g c.fd).owner != g.id | none => false))
      && meets (tile 16 5 1 9) 26 6 (f3 1 0 0) (fun g _ c t => free t c && !t.accBusy g c.fd)
      && ([BitVec.ofInt 64 (-1024), 1023].all fun x => meets (tile 16 5 1 9) 26 7 (fl 1 0 0 x) fun g _ c t => free t c
        && decide (-1024 ≤ c.sAl.toInt) && decide (c.sAl.toInt ≤ 1023) && !t.accBusy g c.fd)
      && meets (tile 16 5 1 9) 26 10 (f3 3 1 0) (fun g _ c t => free t c && !t.accBusy g c.fa)
      && meets (tile 16 5 1 0x2F3F) 26 8 (f3 3 1 2) (fun _ _ c t => free t c && decide (c.sB.toNat < 2 ^ 14) && fieldOf c.sB 7 6 == 0
        && c.lanes.all fun i => decide (fieldOf c.sB 13 8 + i ≤ 63))
      && ([0, 1, 2].all fun fmt => meets (mem (tile 16 5 1 0x10000)) 26 9 (f4 fmt 1 2 3) fun g _ c t =>
        let accs : List Access := (List.range 64).map fun r =>
          { lane := 1000 + r, va := c.sB + c.lit + BitVec.ofNat 64 r * c.sC, n := drainRow c.fd }
        free t c && c.anyLane && c.fd == fmt.toNat && fieldOf (c.sB + c.lit) 3 0 == 0 && fieldOf c.sC 3 0 == 0 && decide (drainRow c.fd ≤ c.sC.toNat)
          && accs.all (fun a => !t.rowBad g a && !t.apertureScored g false a) && (t.embreqOf g 0 accs).isNone
          && (t.apertureBarbusy g accs).isNone && !t.acquirePending g
          && resolves g (c.logIssue t (.cstore c.fd c.fa) fun e => { e with accs := accs }))
      && meets (with1 (tile 16 5 1 9) (flow fun f => { f with exited := 0xFFFF })) 26 9 (f4 0 1 2 3) (fun _ _ c t => free t c && !c.anyLane)
      && ([fl 0 1 2 0, fl 9 1 2 0, fl 2 1 2 0, fl 1 1 2 0x100].all fun o => meets (tile 16 5 1 3) 27 0 o fun _ cl c t => free t c
        && (c.fd == 0 || decide (8 < c.fd) || decide (cl.cnt < cl.pos + 1 + c.fd) || decide (2 ^ (8 * c.fd) ≤ c.lit.toNat)))
      && meets { with1 (mem (tile 16 5 1 3)) fun g => { g with clause := g.clause.map fun k => { k with cnt := 3 } } with
            mem := memWrite [] 0x1010 ((encode (.mma (f3 1 2 3))).flatMap wordBytes) } 27 0 (fl 1 1 2 0)
        (fun g cl c t => free t c && c.fd == 1 && decide (cl.pos + 1 + 1 ≤ cl.cnt) && c.lit == 0 && c.anyLane && c.words == 3
          && (match (t.seqBody g (max c.sA.toNat 1) c.lit 1 0 (cl.next + w64 (4 * c.words))).2 with | .ok (_, b) => !b | _ => false))) = true := by
  decide +kernel

/-- A team's region. -/
def regioned (s : State) (r : Region) : State := { s with teams := s.teams.map fun t => { t with region := r } }

/-- The parameters of 16 steps of one F32 word, one group, one pass, the state given by the guess of the literal. -/
def params : Region := { state := .gather, t := 16, g := 1, d := 1, guess := 1, plim := 1, cap := 1, x := 3 }

/-- The last instruction of its clause, and headers at 0x1000, 0x1008 and from 0x1010 to 0x1018. -/
def lastOne (s : State) : State :=
  { with1 (mem s) fun g => { g with clause := g.clause.map fun k => { k with cnt := 1 } } with
      mem := memWrite (memWrite (memWrite [] 0x1000 header) 0x1008 header) 0x1010 (header ++ header ++ header) }

/-- The pass start of group 0, its body at 0x1000. -/
def start0 : PassStart := { grp := 0, mode := 0, flags := 0, links := [], loops := [], wb := 0, body := 0x1000 }

/-- Fields of an instruction that p0, which no lane passes, predicates. -/
def off (m : Nat) : Ops := { (if m = 0 then fl 3 1 2 0x140010 else f3 0 0 0) with ext := some { ext 0 0 with pred := 0 } }

/-- All lanes exited. -/
def gone (s : State) : State := with1 s (flow fun f => { f with exited := 0xFFFF })

theorem witness_RelaxationInstructions :
    (([lastOne (tile 16 5 2 0), lastOne (regioned (tile 16 5 2 0) params)].all fun s => meets s 28 0 (fl 3 1 2 0x140010) fun g _ c t =>
        let p := c.params
        passes t c (if p.guess = 0 ∨ p.guess = 2 then c.needBlock c.fd p.d else []) && !c.openBad t && c.wholeUnpredicated && (t.teamOf g).isSome)
      && meets (lastOne (regioned (tile 16 5 2 0) { params with state := .open, grps := [0], starts := [start0] })) 28 1 (f3 0 0 0) (fun g cl c t =>
        (match t.openRegion g with
          | some r => passes t c (c.needBlock (r.x + r.d) (2 * r.d)) && (match r.startOf g with
            | some p => p.links.length == g.flow.links.length && p.wb == g.flow.wb && p.loops.length == g.flow.loops.length
                && (t.checkHeader g p.body).2.isNone && ((t.checkHeader g p.body).1.teamOf g).isSome
            | none => false)
          | none => false) && !g.flow.tl && c.wholeUnpredicated && cl.pos + 1 == cl.cnt)
      && meets (regioned (tile 16 5 2 0) { params with state := .settled, grps := [0] }) 28 2 (f3 0 0 0) (fun g _ c t =>
        (t.teamOf g).isSome && t.settledRegion g && free t c && c.wholeUnpredicated)
      && ([0, 1, 2].all fun fb => meets (tile 16 5 2 0) 28 3 (f3 3 0 fb) fun g _ c t => free t c && (t.teamOf g).isSome && c.fb == fb.toNat)
      && meets (regioned (tile 16 5 2 0) { params with state := .settled, d := 8, grps := [0] }) 28 4 (f3 3 0 7) (fun g _ c t =>
        free t c && (match t.regionOf g with | some r => decide (c.fb < r.d) && c.fb == 7 | none => false))
      && meets (regioned (tile 16 5 2 0) { params with state := .open, grps := [0] }) 28 5 (f3 0 0 0) (fun g _ c t =>
        free t c && (t.openRegion g).isSome)
      && meets (tile 16 5 2 0) 28 5 (f3 0 0 0) (fun g _ c t => free t c && (t.openRegion g).isNone && c.anyLane)
      && ([0, 2].all fun m => meets (inBody (tile 16 5 2 0) .open) 28 m (off m) fun _ _ c t => (t.rlxRefuses c).isSome && !c.anyLane && tagsOk c [])
      && meets (regioned (tile 16 5 2 0) { params with state := .settled, grps := [0] }) 28 1 (off 1) (fun _ _ c t => (t.rlxRefuses c).isSome)
      && ([0, 1].all fun m => meets (lastOne (tile 16 5 2 0)) 28 m (off m) fun _ _ c t => free t c && !c.wholeUnpredicated && !c.anyLane)
      && meets (regioned (tile 16 5 2 0) { params with state := .settled, grps := [0] }) 28 2 (off 2) (fun _ _ c t =>
        free t c && !c.wholeUnpredicated)) = true := by
  decide +kernel

/-- Fields with a place. -/
def fpl (d a b : BitVec 6) (place : BitVec 12) : Ops := { f3 d a b with ext := some { ext 0 0 with place := place } }

/-- A module with a queue of `n` entries, at its die and number 0. -/
def queued (s : State) (n : Nat) : State := { s with dies := [(0, { queues := [(0, List.replicate n 7)] })] }

/-- A place entry of the queues and mailboxes that is valid. -/
def placeB (s : State) : State := { s with pbanks := [(0, 0x8000000000000000)] }

theorem witness_QueuesAndMailboxes :
    (([240, 241].all fun (n : Nat) => meets (placeB (queued (core 5 1 9) n)) 29 0 (fpl 0 4 0 0xC00) fun _ _ c t =>
        free t c && placedQueue t c == (0, 0) && ((t.queue 0 0).length + c.lanes.length == n + 16))
      && meets (placeB (queued (core 5 1 9) 3)) 29 1 (fpl 4 0 0 0xC00) (fun _ _ c t => free t c && c.anyLane && !c.e.nb)
      && ([0, 3].all fun (n : Nat) => meets (placeB (queued (core 5 1 9) n)) 29 1 (fnb 4 0 0 0xC00) fun _ _ c t =>
        free t c && c.anyLane && c.e.nb && placedQueue t c == (0, 0) && (t.queue 0 0).length == n)
      && meets (placeB (gone (core 5 1 9))) 29 1 (fpl 4 0 0 0xC00) (fun _ _ c t => free t c && !c.anyLane)
      && meets { core 5 1 9 with pbanks := [(0, 0xC000000000000000)] } 29 2 (fpl 0 4 0 0xC00) (fun g _ c t => free t c && t.released g 4
        && decide ((t.die (t.dieOf g)).outbound.length < 64) && (t.peerAbsent (t.dieOf g) (fieldOf (t.pbankEntry 0) 47 40)).isNone)
      && meets { core 5 1 9 with pbanks := [(0, 0xC000000000000000)], log := [{ entry with op := .load 4 false false 0 0, accs := [{ lane := 0, va := 0, n := 4, place := .phys [{ pa := 0, n := 4 }] }] }] } 29 2
        (fpl 0 4 0 0xC00) (fun g _ c t => free t c && c.anyLane && !t.released g 4
          && (t.peerAbsent (t.dieOf g) (fieldOf (t.pbankEntry 0) 47 40)).isNone)
      && meets (core 5 1 9) 29 3 (f3 4 8 0) (fun _ _ c t => free t c && c.fa == 8)
      && meets (core 5 1 9) 29 3 (f3 4 7 0) (fun _ _ c t => free t c && c.anyLane && !c.e.nb && c.fa == 7)
      && meets (gone (core 5 1 9)) 29 3 (f3 4 7 0) (fun _ _ c t => free t c && !c.anyLane && c.fa == 7)
      && meets { core 5 1 9 with mail := [(7, [List.replicate 64 1])] } 29 3 (fnb 4 7 0 0) (fun g _ c t => free t c && c.anyLane && c.e.nb
        && c.fa == 7 && t.mailbox g.asid.toNat 7 == [List.replicate 64 1])
      && meets (core 5 1 9) 29 4 (f3 3 7 0) (fun _ _ c t => free t c && c.fa == 7)) = true := by
  decide +kernel

/-- A block of `n` bytes at s1 + literal reads as a load. -/
def blockReads (t : State) (c : Ctx) (n : Nat) (P : State → List Byte → Bool) : Bool :=
  let va := c.sA + c.lit
  !t.acquirePending c.g && alone t c && (match t.resolve (t.agent c.g) va n .read (t.workId c.g) with
    | (v, .ok ps) =>
      let tile := (v.groupTile c.g).getD 0
      let wide := v.tileWide c.g 0
      let r := v.readPieces c.g tile wide 0 ps
      (v.badPiece c.g tile wide va (fun _ => true) ps).isNone && P r.1 r.2
    | _ => false)

/-- Counters: an access of one word resolves and binds. -/
def counted (t : State) (c : Ctx) : Bool :=
  match t.resolve (t.agent c.g) c.sA 8 .atomic (t.workId c.g) with
  | (u, .ok ps) => !ps.isEmpty && bound (u.bindBefore c.g u.nextId [{ lane := 64, va := c.sA, n := 8, place := .phys ps }])
      && (c.g.core.isSome || (u.groupTile c.g).isSome)
  | _ => false

/-- A team that holds the ember, in a deterministic launch. -/
def ember (s : State) : State := det s { work with visiting := true, holder := 0 }

theorem witness_JobsLaunchesEmber :
    (([0, 1].all fun sel => meets (s2 sel (core 5 1 0x10000)) 30 0 (f3 3 1 2) fun _ _ c t =>
        free t c && c.anyLane && fieldOf c.sB 1 0 == sel.toNat && decide (c.sB.toNat < 4) && fieldOf (c.sA + c.lit) 5 0 == 0
          && blockReads t c 64 fun u bs =>
            let w : Work := { submitted c u with job := true, words := bytesW64s 8 bs }
            let v : State := { u with nextId := u.nextId + 1 }
            v.tableRoom (if sel = 0 then v.jobDie 0 w else sel.toNat - 1))
      && meets (s2 2 (core 5 1 0x10000)) 30 0 (f3 3 1 2) (fun _ _ c t => free t c && fieldOf c.sB 1 0 == 2 && t.ndies == 2)
      && meets (core 5 1 0x10000) 30 1 (f3 3 1 0) (fun g _ c t => free t c && c.anyLane && fieldOf (c.sA + c.lit) 7 0 == 0
        && t.tableRoom (t.dieOf g) && decide (t.dieOf g < 2)
        && blockReads t c 256 fun _ bs => ({ words := bytesW64s 32 bs, id := 0 } : Work).depctr == 0)
      && meets { core 5 1 0x10000 with mem := memWrite [] 0x10000 (List.replicate 256 8) } 30 1 (f3 3 1 0) (fun g _ c t =>
        free t c && c.anyLane && fieldOf (c.sA + c.lit) 7 0 == 0 && t.tableRoom (t.dieOf g) && decide (t.dieOf g < 2)
        && blockReads t c 256 fun _ bs => ({ words := bytesW64s 32 bs, id := 0 } : Work).depctr != 0)
      && ([(2, s2 0xFFFFFFFF (core 5 1 0x10000)), (2, s2 0xFFFFFFFF (mem (tile 16 5 1 0x10000))), (3, core 5 1 0x10000), (3, mem (tile 16 5 1 0x10000))].all
        fun (p : Nat × State) => meets p.2 30 p.1 (f3 0 1 (if p.1 = 2 then 2 else 0)) fun g _ c t =>
          free t c && c.anyLane && fieldOf c.sA 2 0 == 0 && (p.1 != 2 || c.sB == 0xFFFFFFFF) && t.accessesMade g && t.otherClear g
            && counted t c)
      && meets (core 5 1 0x10000) 30 4 (f3 3 1 0) (fun g _ c t => free t c && c.anyLane && fieldOf c.sA 2 0 == 0
        && resolves g (c.logIssue t .dread fun e => { e with accs := [{ lane := 64, va := c.sA, n := 8 }] }))
      && meets (gone (core 5 1 0x10000)) 30 4 (f3 3 1 0) (fun _ _ c t => free t c && !c.anyLane)
      && meets (core 5 1 0x10000) 30 5 (f3 3 1 0) (fun _ _ c t => free t c && c.anyLane && (c.handleAbsent t).isNone)
      && meets { core 5 1 0x100000000 with part := .jcf9410A } 30 5 (f3 3 1 0) (fun _ _ c t => c.anyLane && t.ndies == 1
        && fieldOf c.sA 47 40 == 0 && fieldOf c.sA 32 32 == 1)
      && decide ((core 5 1 9).badBursts.isEmpty)) = true := by
  decide +kernel

theorem witness_JobsLaunchesEmber_ember :
    (meets (ember (tile 16 5 1 9)) 31 0 (f3 3 0 0) (fun g _ c t => free t c && c.anyLane && (match t.emberOf g with
        | some (w, tm) => !w.abort && w.visiting && w.holder == tm.l && !tm.skip | none => false))
      && meets (det (tile 16 5 1 9) { work with abort := true }) 31 0 (f3 3 0 0) (fun g _ c t => free t c && c.anyLane && (match t.emberOf g with
        | some (w, tm) => w.abort && !tm.skip | none => false))
      && ([false, true].all fun nb => meets (det (tile 16 5 1 9) work) 31 0 (if nb then fnb 3 0 0 0 else f3 3 0 0) fun g _ c t =>
        free t c && c.anyLane && c.e.nb == nb && (match t.emberOf g with | some (w, tm) => !w.abort && !w.visiting && !tm.skip | none => false))
      && ([1, 2].all fun m => meets (ember (tile 16 5 1 9)) 31 m (f3 0 0 0) fun g _ c t => free t c && c.anyLane && (match t.emberOf g with
        | some (w, tm) => !w.abort && w.visiting && w.holder == tm.l && t.teamReleased tm | none => false))
      && meets (det (tile 16 5 1 9) work) 31 1 (f3 0 0 0) (fun g _ c t => free t c && c.anyLane && (match t.emberOf g with
        | some (w, _) => !w.visiting | none => false))
      && meets (det (tile 16 5 1 9) { work with abort := true }) 31 2 (f3 0 0 0) (fun g _ c t => free t c && c.anyLane && (match t.emberOf g with
        | some (w, _) => w.abort | none => false))
      && meets (det (tile 16 5 1 9) work) 31 2 (f3 0 0 0) (fun g _ c t => free t c && c.anyLane && (match t.emberOf g with
        | some (w, tm) => !w.abort && !w.visiting && t.teamReleased tm | none => false))
      && ([0, 1, 2].all fun m => meets (tile 16 5 1 9) 31 m (f3 (if m = 0 then 3 else 0) 0 0) fun g _ c t =>
        free t c && c.anyLane && (t.emberOf g).isNone)) = true := by
  decide +kernel

/-- COLLBASE at 0x20000 with queue pair 0 and counter 255 of agent 0 valid. -/
def coll (s : State) : State :=
  { s with dies := [(0, { collBase := 0x20000, collEn := true })]
           mem := memWrite (memWrite [] 0x20000 (natBytes 8 0x8000)) (0x20000 + 0x800 + 8 * 255) (natBytes 8 0x8000000000000000) }

/-- With a block at 0x10000. -/
def block (ws : List Nat) (s : State) : State := { s with mem := memWrite s.mem 0x10000 (ws.flatMap (natBytes 8)) }

theorem witness_CollectivesAndTime :
    (meets (block [0x1000000, 0, 0, 128, 0, 0, 0, 0] (coll (core 5 1 0x10000))) 32 0 (f3 0 1 0) (fun g _ c t =>
        let die := t.dieOf g
        free t c && c.anyLane && (t.qpAbsent die c.fd g.asid.toNat).isNone && fieldOf (c.sA + c.lit) 5 0 == 0 && t.released g 4
          && blockReads t c 64 fun u bs => let ws := bytesW64s 8 bs
            (u.countersAbsent die g.asid.toNat (qCounters ws)).isNone && !qRefused ws (u.qpInfo die c.fd).peer && decide ((u.qpList die c.fd).length < 256))
      && ([(1, f3 63 1 3), (2, f3 3 63 3)].all fun (p : Nat × Ops) => meets (coll (core 5 1 0x10000)) 32 p.1 p.2 fun g _ c t =>
        free t c && c.fb == 3 && (t.hcAbsent (t.dieOf g) 255 g.asid.toNat).isNone && t.released g 4
          && (if p.1 = 1 then c.fd else c.fa) + 64 * c.fb == 255)
      && ([0, 7].all fun x => meets (coll (core 5 1 0x10000)) 32 3 (fl 63 1 3 x) fun g _ c t =>
        free t c && c.fb == 3 && (t.hcAbsent (t.dieOf g) (c.fd + 64 * c.fb) g.asid.toNat).isNone && c.lit == x && fieldOf c.sA 2 0 == 0
          && (t.die (t.dieOf g)).arms.isEmpty)
      && meets (block [0x40000, 0x50000, 0x60000, 0x70000, 0x1000000001, 1, 0, 0] (coll (core 5 1 0x10000))) 32 4 (f3 0 1 0) (fun g _ c t =>
        let die := t.dieOf g
        free t c && c.anyLane && t.hasTsort && fieldOf (c.sA + c.lit) 5 0 == 0 && t.released g 4
          && blockReads t c 64 fun u bs => let ws := bytesW64s 8 bs
            (u.countersAbsent die g.asid.toNat (if bit (word ws 6) 8 then [fieldOf (word ws 6) 7 0] else [])).isNone && !tRefused ws)
      && meets (core 5 1 9) 33 0 (f3 3 0 0) (fun _ _ c t => free t c) && meets (tile 16 5 1 9) 33 1 (f3 3 0 0) (fun g _ c t => free t c && g.core.isNone)
      && ([0, 2 ^ 62 - 1].all fun x => meets (tile 16 5 1 9) 33 2 (fl 0 0 0 x) fun _ _ c t => free t c && c.sAl == x && decide (c.sAl.toNat < 2 ^ 62))
      && meets (tile 16 5 1 9) 33 2 (fl 0 0 0 (2 ^ 62)) (fun _ _ c t => free t c && c.anyLane && decide (2 ^ 62 ≤ c.sAl.toNat))
      && meets (tile 16 5 1 9) 33 3 (f3 3 0 0) (fun _ _ c t => free t c)
      && meets (tile 16 5 1 9) 33 4 (f3 3 0 0) (fun g _ c t => free t c && (t.clusterNum g).isSome)) = true := by
  decide +kernel

/-! ## Steps without words -/

/-- An identity translation for other masters. -/
def served (m : Master) (s : State) : State := { s with vmtbase := some 0x10000, tlbs := [(m, [identityTlb])] }

/-- The access of an engine translates. -/
def moves (s : State) (ag : Agent) (va n : Nat) (k : Kind) (who : Waiter) (P : State → List Piece → Bool) : Bool :=
  match s.engine ag va n k who with | (u, .ok ps) => P u ps | _ => false

/-- A scalar load at home 0x10000 that has bound. -/
def scalarLoad : LogEntry :=
  { entry with op := .load 4 true false 0 0, dests := [.sreg 3], bound := [(64, 0x80000000)]
               accs := [{ lane := 64, va := 0x10000, n := 4, place := .phys [{ pa := 0x10000, n := 4 }] }] }

/-- An entry with a load that is not translated, of agent 0 at 0x4000. -/
def toWalk : LogEntry := { entry with op := .load 4 true false 0 0, accs := [{ lane := 64, va := 0x4000, n := 4 }] }

/-- A record for core 0's ring. -/
def record : FaultRec := { va := 0, ipa := 0, asid := 0, vmid := 0, cause := 1, walk := 0, master := 1, token := 5, bytes := 4, hyper := false }

/-- The tables of agent 0 at VMTBASE 0x10000: a table of agents, a root, a level 0, and a level 1 whose leaf maps 64 GiB to itself. -/
def tables : Mem :=
  memWrite (memWrite (memWrite (memWrite (memWrite [] 0x10000 (natBytes 8 1)) 0x10008 (natBytes 8 0x20000)) 0x20000 (natBytes 8 0x30001))
    0x30000 (natBytes 8 0x40003)) 0x40000 (natBytes 8 0xD)

theorem witness_StepsOfMemoryAndCopies_memory :
    (!State.reset.aelmel.clockStopped && ({ State.reset with aelmel := { clockStopped := true } } : State).aelmel.clockStopped
      && (let s : State := { core 5 1 9 with log := [scalarLoad] }
          (s.group? 0).isSome && s.residentGroup (groupIn s) && !scalarLoad.untranslated && (2 ^ 64).testBit 64)
      && (let s : State := { core 5 1 9 with log := [{ entry with op := .nothing }] }
          (s.entry? 9).isSome && (s.group? 0).isSome && s.residentGroup (groupIn s))
      && (let p : PathEntry := { id := 7, grp := 0, pa := 0x10000, op := .store [1] }
          let s := path1 (.store [1])
          decide ((s.tile 0).path.find? (fun e => e.id == 7) = some p) && pathReady (s.tile 0).path 7)
      && (let p : PathEntry := { id := 7, grp := 0, pa := 0x10000, op := .store [1] }
          let s := onTile one { path := [{ p with id := 6 }, p] }
          decide ((s.tile 0).path.find? (fun e => e.id == 7) = some p) && !pathReady (s.tile 0).path 7)
      && (let s : State := { tile 16 5 1 9 with log := [toWalk], vmtbase := some 0x10000, mem := tables }
          let ag : Agent := { master := .tile 0, asid := 0, vmid := 0 }
          s.walkWanted (.tile 0) 0x4000 0 0 && (s.tlbFind ag 0x4000).isNone
            && (match s.walk 0x10000 ag 0x4000 1 (kindOfNum 0) with | (_, _, some _) => true | _ => false))
      && (let s : State := { core 5 1 9 with dies := [(0, { gathers := [{ desc := 0x20000, time := 0, asid := 0, vmid := 0 }] })] }
          (s.die 0).gathers[0]?.isSome)
      && (let s : State := { coreWith 9 (fun k => { k with fring := ring }) with dies := [(0, { buffer := [record] })] }
          decide ((s.die 0).buffer = [record]) && s.ringTakes (s.ringOf record))
      && (let r : FaultRec := { record with asid := 9 }
          let s : State := { coreWith 9 (fun k => { k with fring := ring }) with dies := [(0, { buffer := [{ r with cause := 0x10, hyper := true }, record] })] }
          decide ((s.die 0).buffer = [{ r with cause := 0x10, hyper := true }] ++ record :: [])
            && !s.ringTakes (s.ringOf { r with cause := 0x10, hyper := true }) && s.ringTakes (s.ringOf record))
      && ((core 5 1 9).sline? (0x10000 / 128)).isNone && (core 5 1 9).badBursts.isEmpty
      && ({ core 5 1 9 with sram := [{ line := 0x10000 / 128, data := List.replicate 128 0, modified := false }] }
            : State).sline? (0x10000 / 128) != none) = true := by
  decide +kernel

/-- Copies of one lane of 16 bytes. -/
def cl1 (src dst : Side) (data : Option (List Byte)) (recvs : List Nat) : CopyLane := { lane := 0, src := src, dst := dst, data := data, recvs := recvs }
def cp1 (l : CopyLane) : Copy := { id := 8, grp := 0, team := 1, asid := 0, vmid := 0, dir := .l2l, n := 16, scope := 0, hint := 0, lanes := [l] }

/-- In the copy engine of tile 0. -/
def copying (s : State) (k : Copy) : State := { served (.copyEngine 0) s with copies := [k] }

/-- `laneDue` as a Bool. -/
def due (s : State) (k : Copy) (l : CopyLane) : Bool :=
  decide (s.copy? k.id = some k) && s.copyMoves k && decide (k.lanes.find? (fun m => m.lane == l.lane) = some l) && s.laneGoes k l && !s.copyStops k

theorem witness_StepsOfMemoryAndCopies_copies :
    ((let l := cl1 (.loc 1 16) (.loc 1 32) none []
      let s := copying one (cp1 l)
      due s (cp1 l) l && decide (s.copies.find? (fun k => s.copyTile k == 0 && s.copyMoves k) = some (cp1 l)))
      && (let l := cl1 (.glob 0x10000) (.loc 1 32) none []
          let k := cp1 l
          let s := copying one k
          due s k l && (match s.resolve (s.copyAgent k) 0x10000 k.n .read (s.copyWork k) with
            | (u, .ok ps) => (match u.group? k.grp with
              | some g => (u.badPiece g (u.copyHome k) (u.tileWide g k.scope) 0x10000 (fun _ => true) ps).isNone && !u.ownAtomic k ps
              | none => false)
            | _ => false))
      && (let l := cl1 (.loc 1 16) (.loc 1 32) (some (List.replicate 16 1)) []
          due (copying one (cp1 l)) (cp1 l) l && !(copying one (cp1 l)).lowerFirst (cp1 l) l none)
      && (let l := cl1 (.loc 1 16) (.glob 0x10000) (some (List.replicate 16 1)) []
          let k := cp1 l
          let s := copying one k
          due s k l && !s.lowerFirst k l none && (match s.resolve (s.copyAgent k) 0x10000 k.n .write (s.copyWork k) with | (_, .ok _) => true | _ => false))
      && (let l := cl1 (.loc 1 16) (.loc 1 32) (some (List.replicate 16 1)) [2]
          let k : Copy := { cp1 l with remote := true, recvBar := some 0x20 }
          due (copying one k) k l && ((copying one k).team? 2).isNone)
      && (let l := cl1 (.loc 1 16) (.loc 1 32) (some (List.replicate 16 1)) [2]
          let k : Copy := { cp1 l with remote := true, recvBar := some 0x20 }
          let s := copying two k
          due s k l && (s.team? 2).isSome && !s.lowerFirst k l (some 2) && (match s.team? 2 with | some tm => !tm.retired && !s.moving tm | none => false))
      && (let l := cl1 (.loc 1 16) (.loc 1 32) (some (List.replicate 16 1)) [2]
          let k : Copy := { cp1 l with mc := true, bar := some (1, 0x20), recvBar := some 0x20 }
          let s := copying two k
          due s k l && !s.lowerFirst k l (some 2) && (match s.team? 2 with
            | some tm => !tm.retired && !s.moving tm && (addAck (s.ackTable tm) 2 0x20 1 0x20).isSome | none => false))
      && (let s : State := { one with acks := [{ team := 1, off := 0x20, count := 1 }] }
          s.acks[0]?.isSome && (match s.team? 1 with | some tm => !tm.retired && !s.moving tm | none => false))) = true := by
  decide +kernel

/-- An `mma` on panels 1 and 2 of a control word and accumulator 0, about to take its first step. -/
def mmaState (ctl : W64) (acc : Acc) : State :=
  { tile 16 5 1 9 with
      teams := [{ team with panels := List.replicate 8 { ctl := ctl, bytes := memWrite [] 0 (List.replicate 128 0x3C) }, accs := [acc, {}] }]
      log := [mmaEntry] }

/-- The state may take the step, of `n` in all; whether no element is undone. -/
def mmaStep (s : State) (n : Nat) (fits : Bool) : Bool :=
  let g := groupIn s
  (s.entry? 9).isSome && s.stepsOn g mmaEntry && !s.accOlder mmaEntry 0 && decide ((s.panelOf g 1).shown = s.panelOf g 1) && decide ((s.panelOf g 2).shown = s.panelOf g 2)
    && stepCount (stepShape (geoOf g (s.panelOf g 1).ctl) (geoOf g (s.panelOf g 2).ctl)) == n
    && ((stepFeed g 0 (s.panelOf g 1) (s.panelOf g 2) (s.accOf g 0) false s.fresh 0).all fun f => !f.2.undo) == fits

/-- An accumulator whose element 0 has no room left. -/
def fullAcc : Acc :=
  { elems := [(0, { a := accTop, ash0 := some (2 ^ 94), ash1 := some (2 ^ 94), pos := List.replicate 4 (2 ^ 94) })] }

theorem witness_StepsOfMatrixAndKiln_matrix :
    (mmaStep (mmaState ctl16 {}) 1 true && mmaStep (mmaState 0x300080 {}) 2 true && mmaStep (mmaState ctl16 fullAcc) 1 false
      && (let e : LogEntry := { entry with op := .cdrain 0 0 0 }
          let s : State := { tile 16 5 1 9 with log := [e] }
          let g := groupIn s
          (s.entry? 9).isSome && s.gangRuns g && !s.accOlder e 0
            && ((lanesOf 64 e.lanes).all fun i => !((s.accOf g 0).elem i).overflows))
      && ([({} : Acc), fullAcc].all fun acc =>
          let e : LogEntry := { entry with op := .cstore 0 0, mode := 0 }
          let s : State := { tile 16 5 1 9 with teams := [{ team with accs := [acc, {}] }], log := [e] }
          let g := groupIn s
          (s.entry? 9).isSome && !e.untranslated && e.written == 0 && s.gangRuns g && !s.accOlder e 0 && modeAccr e.mode == 0)
      && (fullAcc.elem 0).overflows) = true := by
  decide +kernel

/-- The region's groups held at a join. -/
def heldAt (h : Hold) (ex : Mask) (s : State) : State := with1 s fun g => flow (fun f => { f with exited := ex }) { g with hold := h }

theorem witness_StepsOfMatrixAndKiln_kiln :
    (([(0 : Mask), 1].all fun ex =>
        let s := heldAt (.rlxopen 3) ex (regioned (tile 16 5 2 0) { params with arrived := [0] })
        match s.team? 1 with
        | some tm => tm.region.state == .gather && decide (tm.region.g ≤ (s.joined tm.region.arrived).length)
            && (let r : Region := { tm.region with grps := (byGroupId ((s.joined tm.region.arrived).map fun p => p.1)).map fun g => g.id, arrived := [] }
                (s.exitedSteps r).isEmpty == (ex == 0))
        | none => false)
      && (let s := heldAt (.rlxclose 1) 0 (regioned (mem (tile 16 5 2 0)) { params with state := .settled, grps := [0], arrived := [0], starts := [start0] })
          match s.team? 1 with
          | some tm => s.allArrived tm.region && (match s.regionGroups tm.region with
            | g :: _ => g.stall.isNone && g.frozen.isNone && (s.commitEmbreq g tm.region).isNone && (s.commitBarbusy tm.region).isNone
                && tm.region.next == 0 && tm.region.committed.isEmpty
            | [] => false)
          | none => false)
      && ([(0, 0), (1, 7)].all fun (p : Nat × Nat) =>
          let e : REntry := { store := true, loc := false, addr := 0x10000, lg := 2, data := [1, 2, 3, 4], place := .phys [{ pa := 0x10000, n := 4 }] }
          let r : Region := { params with state := .settled, grps := [0], arrived := [0], starts := [start0], commit := 1, entries := [(1, [e, e])]
                                          next := p.1, inst := p.2 }
          let s := heldAt (.rlxclose 1) 0 (regioned (mem (tile 16 5 2 0)) r)
          match s.regionGroups r with
          | g :: _ => s.allArrived r && (s.commitEmbreq g r).isNone && (s.commitBarbusy r).isNone && s.commitMay r
              && (match r.committed[r.next]? with
                | some (k, x) => (match s.commitOne { r with inst := if r.inst = 0 then s.nextId else r.inst } g k x with | .done _ => true | _ => false)
                | none => false)
          | [] => false)
      && (let s : State := { regioned (tile 16 5 2 0) { params with state := .open, grps := [0], starts := [start0], stopClocks := 32768 } with gangs := [{ gang with state := .stopping false }] }
          match s.team? 1 with
          | some tm => s.passOverdue tm.region && s.passQuiet tm.region && (s.regionGroups tm.region).all fun g => !g.gone && (tm.region.startOf g).isSome
          | none => false)) = true := by
  decide +kernel

/-- The end of a pass: an exit, or another pass. -/
def passEnds (s : State) (again : Bool) : Bool :=
  match s.team? 1 with
  | some tm =>
    let r := tm.region
    let steps := (List.range r.t).map fun k => k + 1
    let ex := s.exitedSteps r
    r.state == .open && s.allArrived r && (match passResult r (steps.map (s.blockOf r 1)) (steps.map (s.blockOf r 2)) (leastOr (r.t + 1) ex) (r.aborted || !ex.isEmpty) with
      | (_, .exit _ _ _) => !again
      | (_, .again _) => again)
  | none => false

theorem witness_StepsOfMatrixAndKiln_passes :
    (passEnds (heldAt (.rlxpass 1) 0 (regioned (tile 16 5 2 0)
          { params with state := .open, grps := [0], arrived := [0], starts := [start0], u := List.replicate 16 [0], aborted := true })) false
      && passEnds (heldAt (.rlxpass 1) 0 (regioned (tile 16 0x3F800000 2 0)
          { params with state := .open, grps := [0], arrived := [0], starts := [start0], u := List.replicate 16 [0], plim := 9 })) true) = true := by
  decide +kernel

/-- A launch of one team of one group of 16 lanes, and a job of one record. -/
def launchWords : List W64 := [0, 0x100010001, 4096, 0, 0x0007000700070007, 0x0007000700070007, 0x1000, 0xF01] ++ List.replicate 24 0
def jobWords : List W64 := [0x1000, 0x3C0, 0, 0x800000001, 0, 0, 0, 0x1000]

/-- A module with that work. -/
def working (w : Work) : State := { core 5 1 9 with works := [w], dies := [(0, { deficits := [{ tenant := 0, cls := 0, deficit := 9, credited := true }] })] }
def launch1 (st : WState) : Work := { work with words := launchWords, state := st, privileged := true, named := true }
def job1 (st : WState) : Work := { work with words := jobWords, state := st, privileged := true, job := true, rem := 1 }

theorem witness_StepsOfWork_works :
    ((firstReason ((working (launch1 .ready)).launchChecks (launch1 .ready))).isNone
      && (firstReason ((working (launch1 .ready)).launchChecks { launch1 .ready with words := List.replicate 32 0 })).isSome
      && (firstReason (job1 .ready).jobChecks).isNone && (firstReason { job1 .ready with words := List.replicate 8 0 }.jobChecks).isSome
      && [launch1 .ready, { launch1 .ready with named := false }].all (fun w => !w.reported && w.token.isNone && w.depctr == 0 && !w.job)
      && (let w : Work := { launch1 .ready with words := (List.range 32).map fun k => if k = 14 then 0x10000 else 0 }
          let s := served (.command 0) (working w)
          w.depctr != 0 && moves s w.submitter w.addr.toNat 256 .read (.work 2) fun _ _ => true)
      && ((working (job1 .submitted)).work? 2).isSome && (job1 .submitted).owned.depctr == 0 && (job1 .submitted).token.isNone
      && (let w : Work := { launch1 .submitted with words := [] }
          let s := served (.command 0) (working w)
          moves s w.submitter w.addr.toNat 256 .read (.work 2) fun u ps => ({ w with words := bytesW64s 32 (u.readAll ps) } : Work).owned.depctr == 0)
      && ([(0, 0), (5, 0), (5, 4096)].all fun (p : Nat × Nat) =>
          let w : Work := { launch1 .submitted with words := (List.range 32).map fun k => if k = 14 then 0x10000 else 0 }
          let s : State := { served (.command 0) (working w) with mem := memWrite [] 0x10000 (natBytes 8 p.1), dies := [(0, { watch := List.replicate p.2 { pa := 0, work := 0 } })] }
          w.owned.depctr != 0 && moves (s.setWork w.owned) w.owned.agent (w.owned.depctr.toNat / 8 * 8) 8 .read (.work 2) fun u ps =>
            (u.homeW64 (startOf ps)).toNat % 2 ^ 32 == p.1 && (u.die 0).watch.length == p.2)
      && (let s := working (launch1 .running)
          (launch1 .running).hasNext && s.allowed (.next 2) && (s.spotOf (launch1 .running) 0).isSome)
      && (let s := working { job1 .running with subPrio := 0 }
          (job1 .running).hasNext && s.allowed (.next 2) && (s.jobSpot (job1 .running)).isSome)
      && (let s : State := { working (launch1 .running) with dies := [] }
          s.turnOf 0 0 == some 0 && !((s.die 0).deficit 0 0).credited)
      && ([(launch1 .running, 9), (launch1 .running, 0), (launch1 .waiting, 9)].all fun (p : Work × Int) =>
          let s : State := { working p.1 with dies := [(0, { deficits := [{ tenant := 0, cls := 0, deficit := p.2, credited := true }] })] }
          s.turnOf 0 0 == some 0 && ((s.die 0).deficit 0 0).credited && (s.oldest 0 0 0).isNone == (p.1.state == .waiting)
            && ((s.die 0).deficit 0 0).deficit == p.2)
      && (let s := tile 16 5 1 9
          s.physTile 0 / 104 == 0 && (s.cluster (clusterOf (s.physTile 0))).last == s.time && (match s.gang? 3 with | some k => k.resident | none => false)
            && (s.work? 2).isSome)) = true := by
  decide +kernel

/-- A waiting launch of class 0 that fits nowhere, beside a running gang of class 3. -/
def crowded : State :=
  { tile 16 5 1 9 with
      works := [{ launch1 .running with id := 4, words := [2] ++ [0x100010001, 786432] ++ launchWords.drop 3 }, { work with words := [0x300] ++ List.replicate 31 0 }]
      tiles := (List.range 208).map fun k => (k, { failed := true }), dies := [(0, { ctxSize := 2 ^ 30 })] }

/-- A group at rest, of a gang that is asked to stop. -/
def stopping (pool : Nat) : State :=
  { with1 (tile 16 5 1 9) fun g => { g with hold := .stopped, clause := none } with
      gangs := [{ gang with state := .stopping false }], dies := [(0, { ctxSize := pool })] }

/-- All of a team's groups have retired. -/
def retiring : State := with1 (tile 16 5 1 9) fun g => { g with retired := true }

/-- The registers of gang 3, which has stopped, are saved. -/
def saves (s : State) : Bool :=
  match s.gang? 3 with
  | some k =>
    let u := s.stopHeld k
    u.gangQuiet k && u.spillIdle k && u.poolFits k
      && match u.saveGroups ((u.gangGroups k).map fun (g : Machine.Group) => g.id) with | .done v => decide (v.gang? 3 = some k) | _ => false
  | none => false

/-- Those of gang 3, which is saved, are restored. -/
def restores (s : State) : Bool :=
  match s.gang? 3, s.work? 2 with
  | some k, some w => s.spillIdle k && s.allowed (.saved 3) && match s.restoreSpot w k with
    | some spot =>
      let u := s.replaceGang k spot.1 spot.2
      (match u.loadGroups ((u.gangGroups k).map fun (g : Machine.Group) => g.id) with | .done _ => true | _ => false)
    | none => false
  | _, _ => false

/-- Gang 3 is asked to stop, and `P` holds of it and of the state that holds its copies back. -/
def stopsWith (s : State) (P : Gang → State → Bool) : Bool :=
  match s.gang? 3 with | some k => P k (s.stopHeld k) | none => false

theorem witness_StepsOfWork_crowded :
    (crowded.class0Waits 0 && !crowded.preempting 0
      && ([3, 2, 1].findSome? fun c => latest (crowded.victims 0 c)).isSome) = true := by
  decide +kernel

theorem witness_StepsOfWork_stopping :
    (stopsWith (with1 (stopping 0) fun g => { g with hold := .none, clause := some clause }) (fun k u =>
        k.state == GState.stopping false && !u.gangQuiet k)
      && stopsWith (stopping 0) fun k u => u.gangQuiet k && u.spillIdle k && !u.poolFits k) = true := by
  decide +kernel

theorem witness_StepsOfWork_save : saves (mem (stopping (2 ^ 30))) = true := by decide +kernel

/-- Gang 3, saved, of a launch whose turn it is; one register of its group is resident. -/
def savedGang : State :=
  { with1 (mem (stopping (2 ^ 30))) (flow fun f => { f with lo := 63 }) with
      gangs := [{ gang with state := .saved false }], works := [launch1 .running]
      dies := [(0, { deficits := [{ tenant := 0, cls := 0, deficit := 9, credited := true }] })] }

theorem witness_StepsOfWork_restore : restores savedGang = true := by decide +kernel

theorem witness_StepsOfWork_retire :
    ((let g := groupIn (gone (tile 16 5 1 9))
      g.core.isNone && !g.retired && (fullMask g.width &&& ~~~g.flow.exited) == 0 && g.pend.isNone && g.frozen.isNone && g.cf.all (· == 0))
      && (match retiring.team? 1 with
        | some tm => (tm.grps.filterMap retiring.group?).all (fun g => g.retired) && !retiring.copiesAt tm && ((retiring.releaseTeam tm).work? 2).isSome
        | none => false)) = true := by
  decide +kernel

theorem witness_StepsOfWork_ends :
    (([launch1 .rejected, job1 .rejected, job1 .dealt, { launch1 .running with nextGang := 1 }].all fun w =>
        w.module == 0 && w.out == 0 && w.token.isNone && !(working w).workBusy w && w.parent.isNone && w.done == 0 && !w.reported
          && (w.state != .running || (w.teamsN == 1 && ((working w).gangsOf 2).isEmpty)))
      && (let w : Work := { launch1 .rejected with words := (List.range 32).map fun k => if k = 15 then 0x10000 else 0 }
          w.done == 0x10000 && moves (served (.command 0) (working w)) w.agent 0x10000 16 .atomic (.work 2) fun _ _ => true)
      && ((working { launch1 .rejected with reported := true }).work? 2).isSome
      && (let w : Work := { launch1 .running with words := [0x20] ++ launchWords.drop 1 }
          { w with gone := [0] }.nextVisit 0 == none && { w with holder := 1 }.nextVisit 1 == none && w.nextVisit 0 == some 0)
      && (let w : Work := { launch1 .running with words := [0x20] ++ launchWords.drop 1 }
          w.det == 1 && w.nextVisit 0 == some 0 && team.work == 2 && team.l == 0 && !team.retired)
      && ([15, 16].all fun (n : Nat) =>
          let m : Msg := { module := 0, agent := 0, box := 3, data := List.replicate 64 1 }
          let s : State := { core 5 1 9 with dies := [(0, { outbound := [m] })], mail := [(3, List.replicate n [])] }
          decide ((s.die 0).outbound[0]? = some m) && (s.mailbox 0 3).length == n && !s.mailBehind m)
      && (let m : Msg := { module := 4, agent := 0, box := 3, data := List.replicate 64 1 }
          let s : State := { core 5 1 9 with dies := [(0, { outbound := [m] })] }
          decide ((s.die 0).outbound[0]? = some m) && !s.mailBehind m)) = true := by
  decide +kernel

/-- A pair of single tiles. -/
def pair0 : TurnPair := { hot := 0, cool := 1, size := 1, since := 0 }

theorem witness_StepsOfRotationAndPower :
    (State.reset.time % 2 ^ (State.reset.die 0).exp == 0 && !State.reset.ckpt.busy
      && (let s : State := { with1 (tile 16 5 1 9) (fun g => { g with hold := .embwait .bankP 0xFFFF 1 }) with
              time := 49152, dies := [(0, { pairs := [pair0] })], gangs := [{ gang with state := .stopping true }] }
          pair0.since + 49152 == s.time && !s.pairQuiet pair0)
      && (let s : State := { stopping 0 with dies := [(0, { pairs := [pair0] })], gangs := [{ gang with state := .stopping true }] }
          s.pairQuiet pair0 && !(s.pairGangs pair0).any s.gangFaults)
      && (let s : State := { core 5 1 9 with time := 15, clusters := [(0, { nextPattern := some 0x5555 })] }
          (s.time + 1) % 16 == 0 && (s.cluster 0).nextPattern == some 0x5555)
      && (let k : Cluster := { clocks := 7 }
          k.clocks != 0 && k.lowAt != some k.clocks && (k.before.getD k.damp).level != 0 && (k.before.getD k.damp).en && k.state != .stretch && ({ k with state := .stretch } : Cluster).state == .stretch)
      && (let g := groupIn (with1 (tile 16 5 1 9) fun g => { g with hold := .embwait .bankP 0xFFFF 1, csrs := { g.csrs with deadline := 2 ^ 63 } })
          let s := with1 (tile 16 5 1 9) fun _ => g
          g.clause.isSome && !g.flow.tl && g.frozen.isNone && s.gangRuns g && g.hold == .embwait .bankP 0xFFFF 1 && s.deadlineDue g)
      && (let s := onTile (core 5 1 9) { temp := 441 }
          decide (400 < (s.tile 0).temp) && decide (440 < (s.tile 0).temp))
      && 103 < 104 * State.reset.ndies && (State.reset.tile 103).rows == 1024
      && (let u := State.reset.setTile 0 { State.reset.tile 0 with failed := true }
          (u.behind 0).isSome && !(u.sparesOf 0).isEmpty && !u.inExchange 0 && (u.gangsAt 0).isEmpty)
      && (let u := (tile 16 5 1 9).setTile 0 { failed := true }
          (u.behind 0).isSome && !(u.sparesOf 0).isEmpty && !u.inExchange 0 && !(u.gangsAt 0).isEmpty)
      && (let s : State := { core 5 1 9 with tiles := (List.range 104).map fun k => (k, { failed := true }) }
          let u := s.setTile 0 { s.tile 0 with failed := true }
          (u.behind 0).isSome && (u.sparesOf 0).isEmpty)) = true := by
  decide +kernel

/-- Entries of a queue pair: a write of 128 bytes from 0x10000 to 0x11000. -/
def qent (ws : List W64) (st ld wr : Bool) : QpEntry := { id := 6, words := ws, asid := 0, vmid := 0, started := st, localDone := ld, written := wr }
def qwords (op : Nat) : List W64 := [w64 (op + (if op = 1 then 2 ^ 24 else 0)), 0x10000, 0x11000, 128, 0, 0, 0, 0]

/-- The collective engine of die 0 with one entry. -/
def engine (e : QpEntry) : State :=
  { served (.coll 0) (coll (core 5 1 9)) with dies := [(0, { collBase := 0x20000, collEn := true, ways := 1, qps := [(0, [e])] })] }

/-- Agent of the engine. -/
def collAgent : Agent := { master := .coll 0, asid := 0, vmid := 0 }

/-- A sort descriptor of one record of 16 bytes. -/
def sortWords : List W64 := [0x40000, 0x50000, 0x60000, 0x70000, 0x1000000001, 1, 0, 0]

theorem witness_StepsOfEnginesAndHost_engine :
    ((let e := qent (qwords 0) false false false
      let s := engine e
      (s.die 0).collEn && !s.ckpt.busy && s.transfers.isEmpty && decide (s.qpList 0 0 = [e]) && e.token.isNone && !bit (word e.words 4) 8)
      && (let e := qent (qwords 0) true false false
          let s := engine e
          decide ((s.qpList 0 0)[0]? = some e) && qOp e.words == 0
            && moves s collAgent (qSrc e.words) (qLen e.words) .read (.qp 0 0 6) fun u _ => (u.qpInfo 0 0).peer == 0)
      && (let t : Transfer := { words := qwords 0, data := List.replicate 128 1, ddie := 0, asid := 0, rasid := 0, vmid := 0 }
          let s : State := { engine (qent (qwords 0) true true false) with transfers := [t] }
          decide (s.transferAt 0 0 0 = some t) && moves s collAgent (qDst t.words) (qLen t.words) .write (.coll 0) fun _ _ => true)
      && decide (((engine (qent (qwords 0) true true true)).qpList 0 0)[0]? = some (qent (qwords 0) true true true))
      && (let e := qent (qwords 0) true true false
          let s : State := { engine e with mem := memWrite [] 0x20000 (natBytes 8 0x3008000) }
          decide ((s.qpList 0 0)[0]? = some e) && (s.qpInfo 0 0).peer != 0)
      && (let t : Transfer := { words := qwords 1, data := List.replicate 128 1, ddie := 0, asid := 0, rasid := 0, vmid := 0 }
          let s : State := { engine (qent (qwords 0) true true false) with transfers := [t] }
          decide (s.transferAt 0 1 0 = some t) && (s.die 0).badKeys.isEmpty && (s.die 0).chunks.isEmpty
            && decide (qNrank t.words * qLen t.words ≤ (s.die 0).ways * 2 ^ 23))
      && (let p : Contrib := { rank := 0, data := List.replicate 128 1, words := qwords 1, asid := 0 }
          let k : Chunk := { rasid := 0, vmid := 0, chunk := 0, nrank := 1, len := 128, parts := [p] }
          let s : State := { served (.coll 0) (core 5 1 9) with dies := [(0, { chunks := [k] })] }
          decide ((s.die 0).chunks[0]? = some k) && moves s collAgent (qDst p.words) k.len .write (.coll 0) fun _ _ => true)
      && (let w : SortWork := { words := sortWords, asid := 0, vmid := 0 }
          let s : State := { served (.coll 0) (core 5 1 9) with dies := [(0, { sorts := [w] })] }
          decide ((s.die 0).sorts[0]? = some w) && (match s.sortRun collAgent w.words (.coll 0) with | (_, .ok []) => true | _ => false))
      && (let e := qent (qwords 2) true false false
          let s := { engine e with mem := memWrite (engine e).mem 0x10000 (sortWords.flatMap fun w => natBytes 8 w.toNat) }
          decide ((s.qpList 0 0)[0]? = some e) && qOp e.words == 2
            && moves s collAgent (qSrc e.words) 64 .read (.qp 0 0 6) fun u ps =>
              let ws := bytesW64s 8 (u.readAll ps)
              !tRefused ws && (match u.sortRun collAgent ws (.qp 0 0 6) with | (_, .ok []) => true | _ => false))) = true := by
  decide +kernel

/-- A command queue at 0x80000 with one entry. -/
def command (ws : List Nat) : State :=
  { served (.command 0) (coll (core 5 1 9)) with
      dies := [(0, { collBase := 0x20000, collEn := true, cq := { base := 0x80000, en := true, log2n := 6 } })]
      mem := memWrite (memWrite (memWrite (coll (core 5 1 9)).mem 0x80000 (natBytes 8 1)) 0x80040 (ws.flatMap (natBytes 8)))
        0x10000 ([0x1000000, 0x10000, 0x11000, 128, 0, 0, 0, 0].flatMap (natBytes 8)) }

/-- The head entry. -/
def head (s : State) (P : Nat → List W64 → Bool) : Bool := match s.cqHead 0 with | some (n, ws) => P n ws | none => false

theorem witness_StepsOfEnginesAndHost_commands :
    (!(command [0, 0x10000, 0, 0]).badRead ((command [0, 0x10000, 0, 0]).cqAt 0) 32 && head (command [0, 0x10000, 0, 0]) (fun _ ws => fieldOf (word ws 0) 7 0 == 0 && fieldOf (word ws 1) 7 0 == 0 && (command []).tableRoom 0)
      && (let s := command [1, 0x10000, 0, 0]
          head s fun _ ws => fieldOf (word ws 0) 7 0 == 1 && fieldOf (word ws 0) 23 16 == 0 && fieldOf (word ws 1) 5 0 == 0
            && (s.qpAbsent 0 0 (s.qpInfo 0 0).owner).isNone && moves s { master := .command 0, asid := 0, vmid := 0 } (word ws 1).toNat 64 .read (.command 0)
              fun u ps => let es := bytesW64s 8 (u.readAll ps)
                !qRefused es (s.qpInfo 0 0).peer && (u.countersAbsent 0 (s.qpInfo 0 0).owner (qCounters es)).isNone)
      && (let s := command [0xFF0002, 0, 0, 0]
          head s fun _ ws => fieldOf (word ws 0) 7 0 == 2 && !s.hcUnknown 0 255 && decide (word ws 2 ≤ s.hc 0 255))
      && (let s := command [0xFF0003, 0, 7, 0]
          head s fun _ ws => fieldOf (word ws 0) 7 0 == 3 && !s.hcUnknown 0 255)) = true := by
  decide +kernel

/-- Aelmel in a state. -/
def aelmel (a : Aelmel) : State := { core 5 1 9 with aelmel := a }

theorem witness_StepsOfEnginesAndHost_host :
    ((let s : State := { core 5 1 9 with ckpt := { busy := true, started := true } }
      s.gangs.all s.gangHeld)
      && !isRegSpace 0x10000 && (aelmel { state := .run }).hostRange 0x10000 4 && (aelmel {}).aelmel.flashOk
      && ((aelmel { state := .verify }).aelmel.refuses (aelmel { state := .verify }).aelmel.image).isSome
      && 2 ^ 26 + 508 + [1, 2, 3, 4].length ≤ 2 ^ 26 + 512
      && (let s : State := { with1 (coreWith 9 fun k => { k with fring := ring }) (fun g => { g with hold := .wfi }) with mem := ringMem }
          match s.coreGroup 0 with
          | some g => (match g.core with | some k => s.ringWork k && g.hold == .wfi && decide (k.num < s.ncores) | none => false) | none => false)
      && (match (with1 (core 5 1 9) fun g => { g with hold := .halted }).coreGroup 0 with | some g => g.hold == .halted | none => false)
      && (let s := served .storPort (core 5 1 9)
          s.hasStorage && !s.portWaits 0 && !s.ckpt.busy && (match s.resolve { master := .storPort, asid := 0, vmid := 0 } (w64 0x10000) 4 .write none with
            | (_, .ok _) => true | _ => false))
      && (let s := served .storPort (core 5 1 9)
          match s.resolve { master := .storPort, asid := 0, vmid := 0 } (w64 0x10000) 4 .read none with
            | (u, .ok ps) => u.badBursts.isEmpty && ps.all (fun p => !isRegSpace p.pa) | _ => false)) = true := by
  decide +kernel

/-! ## The machine as a whole -/

/-- An outcome that is a next state with a property. -/
def nextIs (x : Host.Outcome State Fault Refusal) (P : State → Bool) : Bool := match x with | .next t => P t | _ => false

theorem witness_DecodeInvertsEncode :
    ((Instr.iadd (f3 3 1 2)).isEvent || !(Instr.iadd (f3 3 1 2)).wellFormed) = false := by
  decide +kernel

/-- A core at an integer add, and a group of a tile; the schedule has chosen for this step. -/
def atAdd (s : State) : State := { s with issueq := [0], chosen := true, mem := memWrite [] 0x1004 ((encode (.iadd (f3 3 1 2))).flatMap wordBytes) }

/-- A context before its first clause. -/
def fresh1 (s : State) : State := { with1 s (fun g => { g with clause := none }) with issueq := [0], chosen := true, mem := memWrite [] 0x1000 header }

theorem witness_StepRunsDecodedInstruction :
    ((match ({ core 5 1 9 with agenda := [.issueArbitration] } : State).agenda with | _ :: _ => true | [] => false)
      && (let s : State := { core 5 1 9 with aelmel := { state := .run } }
          s.agenda.isEmpty && s.issueq.isEmpty && s.aelmel.state == .run)
      && ([atAdd (core 5 1 9), atAdd (mem (tile 16 5 1 9))].all fun s =>
        let v := turnOf s 0 []
        match v.group? 0 with
        | some g => v.mayIssue g && (match g.clause with
          | some cl => !v.stopsInSeq g cl && (match v.fetchInstr g cl.next with
            | (u, .ok ws) => decide (decode ws = .ok (.iadd (f3 3 1 2), 1)) && !u.slewHolds g (u.lanesFor g cl ws)
                && !u.quartersTaken g && nextIs (exec (.iadd (f3 3 1 2)) u) fun t => t.hasIssued 0
            | _ => false)
          | none => false)
        | none => false)
      && (let s := fresh1 (core 5 1 9)
          let v := turnOf s 0 []
          match v.group? 0 with
          | some g => v.mayIssue g && g.clause.isNone && (match g.boundary with
            | (h, some (addr, _)) => !v.stopsHere h && (v.boundaryDue h).isNone && (match v.fetchWord h addr with
              | (_, .ok w) => (headerBad w).isNone | _ => false)
            | _ => false)
          | none => false)
      && (let s := atAdd (core 5 1 9)
          match s.translate (s.agent (groupIn s)) 0x1004 4 .fetch none with
          | (u, .ok pa _) => !regUnknown pa 4 && !u.badRead pa 4 | _ => false)) = true := by
  decide +kernel

theorem witness_StepKeepsMemoryCanonical : (let s : State := { State.reset with agenda := [.ckptErrClear] }
      s.memWf && nextIs (step s) fun _ => true) = true := by
  decide +kernel

theorem witness_StoresChangeTheirBytes :
    ((core 5 1 9).memWf && (core 5 1 9).linesAgree && decide (0x1007C % 128 + 4 ≤ 128) && !isRegSpace 0x10000
      && (let s := path1 (.store [1])
          s.memWf && s.linesAgree && pathReady (s.tile 0).path 7 && nextIs (exec (.storePerformHome 0 7) s) fun _ => true)
      && (let s := aelmel { state := .run }
          s.memWf && s.linesAgree && s.hostRange 0x10000 [1, 2].length && nextIs (exec (.hostWrite 0x10000 [1, 2]) s) fun _ => true)
      && (groupIn (tile 16 5 1 9)).core.isNone && (groupIn (core 5 1 9)).core.isSome) = true := by
  decide +kernel

/-- The end of a clause in one loop that begins at 0x2000. -/
def loopEnd (n : W64) : Group :=
  flow (fun f => { f with loops := [{ start := 0x2000, endh := 0x1000, n := n, fl := 0 }], exited := 2 })
    { grpOf 16 5 1 9 with clause := some { clause with cnt := 1, lanes := 0xFF } }

/-- A context before a clause, at user or at trap level, with `n` instructions under flag 11. -/
def boundaryAt (tl : Bool) (n : Nat) : State :=
  { with1 (fresh1 (core 5 1 9)) (fun g => flow (fun f => { f with tl := tl }) { g with cf := List.replicate 12 n }) with
      log := List.replicate n { entry with flag := 11, tlevel := true } }

theorem witness_ClausesOpenAndEnd :
    (([(false, 0), (false, 1), (true, 0), (true, 1)].all fun (p : Bool × Nat) =>
        let s := boundaryAt p.1 p.2
        let g := groupIn s
        let w : Header := { cnt := 15, setb := 15, seta := 0, wait := 0x800 }
        s.mayIssue g && g.clause.isNone && (match g.boundary with
          | (h, some _) => !(s.setGroup h).stopsHere h && ((s.setGroup h).boundaryDue h).isNone && (headerBad (encodeHeader w)).isNone
              && w.wait.getLsbD 11 && h.cf.getD 11 0 == p.2 && h.flow.tl == p.1 && ((List.range 11).all fun k => !w.wait.getLsbD k)
              && (s.setGroup h).log.any (fun e => e.grp == 0 && e.tlevel && e.flag == 11) == (p.2 == 1)
          | _ => false))
      && (let g := grpOf 16 5 1 9
          (match g.clause with | some cl => cl.seq.isNone && cl.pos + 1 != cl.cnt | none => false) && g.flow.loops.isEmpty)
      && ([2, 1].all fun n => let g := loopEnd n
          match g.clause, g.flow.loops with
          | some cl, [e] => cl.pos + 1 == cl.cnt && !g.flow.tl && e.fl == g.flow.links.length && e.endh == cl.header && e.n == n
              && !g.flow.exited.getLsbD 0 && cl.lanes.getLsbD 0 && !cl.lanes.getLsbD 9 && g.flow.exited.getLsbD 1 && g.flow.fl.getD 0 0 == 0
          | _, _ => false)) = true := by
  decide +kernel

/-- A trap of ILLOP, and a group in which it waits. -/
def trap0 : PendTrap := { cause := .illop, info := 13, pc := 0x1004 }
def trapping (vec : W64) (tl : Bool) (s : State) : State :=
  { with1 s fun g => flow (fun f => { f with tl := tl }) { g with csrs := { g.csrs with trapvec := vec }, pend := some trap0, hold := .trapEntry } with
      mem := memWrite [] 0x2000 header }

/-- A trap vector that is fetched and is a header. -/
def vectored (s : State) (g : Group) : Bool :=
  g.csrs.trapvec != 0 && g.sameHi g.csrs.trapvec && (match s.fetchWord g g.csrs.trapvec with | (_, .ok w) => (headerBad w).isNone | _ => false)

theorem witness_TrapEntry :
    ((let s := trapping 0x2000 false (core 5 1 9)
      let g := groupIn s
      s.gangRuns g && g.frozen.isNone && g.stall.isNone && s.earlierDone g && vectored s g)
      && (let s : State := { trapping 0x2000 false (core 5 1 9) with log := [entry] }
          let g := groupIn s
          s.gangRuns g && !s.earlierDone g && s.log.any fun e => e.grp == 0 && e.state == .running)
      && (let s : State := { with1 (core 5 1 9) (fun g => { g with csrs := { g.csrs with trapvec := 0x2000 } }) with mem := memWrite [] 0x2000 header }
          let g := groupIn s
          let v := s.onGroup g.id fun k => { k with pend := some trap0, hold := .trapEntry, stall := none }
          !g.flow.tl && s.log.isEmpty && vectored v { g with pend := some trap0, hold := .trapEntry, stall := none })
      && (let g := groupIn (core 5 1 9); !g.flow.tl && g.core.isSome && g.csrs.trapvec == 0)
      && (let g := groupIn (trapping 0 true (core 5 1 9)); g.flow.tl && g.core.isSome)
      && (let s := trapping 0 true (tile 16 5 1 9)
          let g := groupIn s
          g.flow.tl && g.core.isNone && (s.postFault (mkFault (s.agent g) 0x1004 0 0x23 0 0) (.group 0)).isSome)
      && (let s := trapping 0 false (core 5 1 9)
          let g := groupIn s
          s.gangRuns g && g.frozen.isNone && g.stall.isNone && s.earlierDone g && g.csrs.trapvec == 0 && g.core.isSome)
      && ([(0 : W64), 0x100002000].all fun vec =>
          let s := with1 (tile 16 5 1 9) fun g => { g with csrs := { g.csrs with trapvec := vec } }
          let g := groupIn s
          let x := s.onGroup g.id fun k => { k with
            csrs := { k.csrs with trapcause := causeOf trap0, trappc := trap0.pc, trapinfo := trap0.info }, pend := none, hold := .none }
          !g.flow.tl && g.core.isNone && s.log.isEmpty && (g.csrs.trapvec == 0 || !g.sameHi g.csrs.trapvec)
            && (x.postFault (mkFault (x.agent { g with pend := some trap0, hold := .trapEntry, stall := none }) 0x1004 0 0x24 0 0) (.group g.id)).isSome)) = true := by
  decide +kernel

/-- The checks of one instruction in the context in turn. -/
def checksOf (s : State) (i : Instr) (P : Group → Ctx → State → Bool) : Bool :=
  match i.ops, i.majMin, s.group? s.cur with
  | some o, some (maj, min), some g => (match g.clause with
    | some cl => let c := s.ctx maj min o g cl; P g c (s.headerChecks c).1
    | none => false)
  | _, _, _ => false

theorem witness_ChecksComeFirst :
    (checksOf (with1 (core 5 1 9) fun g => { g with hold := .halted }) (.iadd (f3 3 1 2))
        (fun g _ _ => !(with1 (core 5 1 9) fun g => { g with hold := .halted }).mayIssue g)
      && checksOf (core 5 1 9) (.exit (f3 1 0 0)) (fun g c _ => (core 5 1 9).mayIssue g && (decodeChecks ((core 5 1 9).matrixOf g) c).isSome)
      && (let s := tile 16 5 1 9
          checksOf s (.wfi (f3 0 0 0)) fun g c _ => s.mayIssue g && (decodeChecks (s.matrixOf g) c).isNone && (s.headerChecks c).2.isNone
            && c.maj == 0x22 && g.core.isNone)
      && (let s := tile 16 5 1 9
          checksOf s (.iadd { f3 3 1 2 with ext := some { ext 0 0 with abs := true } }) fun g c _ => s.mayIssue g
            && (decodeChecks (s.matrixOf g) c).isNone && (s.headerChecks c).2.isNone && c.e.abs && g.core.isNone && !g.flow.tl)
      && (let busy : LogEntry := { entry with dests := [.slot 3] }
          [{ core 5 1 9 with log := [busy] }, { core 5 1 9 with log := List.replicate 256 { busy with grp := 1, tile := 0 } }].all fun (s : State) =>
          checksOf s (.ld32 (f3 3 1 2)) fun g c t => s.mayIssue g && (decodeChecks (s.matrixOf g) c).isNone && (s.headerChecks c).2.isNone
            && (privilegeChecks c).isNone && (placeChecks t c).isNone && (residencyChecks c).isNone && (t.quotaHeld c).isNone
            && (t.waitersOf g).isEmpty && t.destBusy g c.dests == (s.log.length == 1) && isVl c.f c.o)
      && (let s : State := { tile 16 5 1 9 with log := List.replicate 256 { entry with grp := 1 } }
          checksOf s (.ld32 (f3 3 1 2)) fun g c t => !t.destBusy g c.dests && g.cf.getD c.cl.seta 0 != 63
            && decide (256 ≤ (t.log.filter fun e => e.tile == t.logOf g).length))) = true := by
  decide +kernel

theorem witness_RegisterFrame :
    (meets (core 5 1 9) 1 0 (f3 3 1 2) (fun g _ _ _ =>
        (Instr.iadd (f3 3 1 2)).majMin == some (1, 0) && nextIs (exec (.iadd (f3 3 1 2)) (core 5 1 9)) fun u => match u.group? g.id with
          | some h => h.pend.isNone && h.flow.tl == g.flow.tl && h.hold == .none && h.frozen.isNone && h.stall.isNone | none => false)) = true := by
  decide +kernel

theorem witness_HighAddressBitsViolatePermission : 2 ^ 52 ≤ (BitVec.ofNat 64 (2 ^ 52)).toNat := by decide

/-- The clauses of `EventsTakeEffect` whose hypotheses are not those of a clause of `StepsOfMemoryAndCopies`,
`StepsOfMatrixAndKiln` or `StepsOfWork`; the witnesses of those three meet the others. -/
theorem witness_EventsTakeEffect :
    ((let s := trapping 0x2000 false (core 5 1 9)
      let g := groupIn s
      s.earlierDone g && vectored s g && (match s.fetchWord g g.csrs.trapvec with | (u, _) => decide (u.group? g.id = some g)))
      && (let e : LogEntry := { entry with op := .cdrain 0 0 0, mode := 0x40 }
          let s : State := { tile 16 5 1 9 with log := [e] }
          let g := groupIn s
          (s.entry? 9).isSome && !e.untranslated && s.gangRuns g && !s.accOlder e 0 && modeAccr e.mode == 1)
      && (let r : Region := { params with state := .settled, grps := [0], arrived := [0], starts := [start0], next := 1 }
          let s := heldAt (.rlxclose 1) 0 (regioned (mem (tile 16 5 2 0)) r)
          match s.regionGroups r with
          | g :: _ => s.allArrived r && g.stall.isNone && g.frozen.isNone && decide (r.committed.length ≤ r.next)
          | [] => false)
      && (match retiring.gang? 3 with | some k => k.resident | none => false)
      && (let w : Work := { launch1 .submitted with words := launchWords }
          (working w).work? 2 == some w && w.module == 0 && w.token.isNone && !w.words.isEmpty && w.owned.depctr == 0)) = true := by
  decide +kernel

/-! ## Instructions of the log that complete -/

/-- A group of 64 lanes with one instruction in the log, its home 0x10000. -/
def settling (e : LogEntry) : State := { tile 64 5 1 9 with log := [e], works := [work, job1 .running |> fun w => { w with id := 4, num := 6 }] }

/-- The values of lanes 0 and 3, and their accesses of `n` bytes. -/
def twoLanes : List (Nat × Nat) := [(0, 0x123456789), (3, 0xFFFFFFFFFFFFFF81)]
def twoAccs (n : Nat) : List Access := [0, 3].map fun i => { lane := i, va := 0x10000, n := n, place := .phys [{ pa := 0x10000, n := n }] }

/-- An entry of context 0 that is to complete into `ds`. -/
def into (op : LogOp) (ds : List Dest) : LogEntry := { entry with op := op, dests := ds, tag := 1, lanes := 9 }

/-- `maySettle` as a Bool. -/
def mayEnd (e : LogEntry) : Bool :=
  let s := settling e
  decide (s.entry? e.id = some e) && decide ((s.group? e.grp).isSome) && s.residentGroup (groupIn s) && e.state == .running && !e.untranslated
    && decide (e.flag < (groupIn s).cf.length)

/-- `windowDests` as a Bool. -/
def windowed64 (g : Group) (ds : List Nat) : Bool :=
  decide ds.Nodup && ds.all fun d => decide (d < g.regs.slots.length) && (g.slot (.slot d)).data.length == 64

theorem witness_StepsOfMemoryAndCopies_completions :
    (([(1, [4]), (2, [4]), (4, [4]), (8, [4, 5]), (16, [4, 5, 6, 7])].all fun (p : Nat × List Nat) => [true, false].all fun sg =>
        let e := { into (.load p.1 sg false 0 0) (p.2.map Dest.slot) with accs := twoAccs p.1, bound := twoLanes }
        mayEnd e && windowed64 (groupIn (settling e)) p.2 && e.accs.map (fun a => a.lane) == [0, 3] && e.written == 0
          && [0, 3].all fun i => (9 : Nat).testBit i)
      && ([(AOp.add, [4]), (.add64, [4, 5])].all fun (p : AOp × List Nat) =>
        let e := { into (.atomic p.1 false 0) (p.2.map Dest.slot) with accs := twoAccs p.1.size, bound := twoLanes }
        mayEnd e && windowed64 (groupIn (settling e)) p.2 && e.accs.map (fun a => a.lane) == [0, 3])
      && ([true, false].all fun sx => let e := { into (.atomic .add sx 0) [.sreg 3] with bound := [(64, 0x80000001)] }
          mayEnd e && decide (3 < (groupIn (settling e)).regs.sregs.length))
      && (let e := { into (.cdrain 0 0 0) [.slot 4] with bound := twoLanes }; mayEnd e && windowed64 (groupIn (settling e)) [4])
      && ([none, some (Dest.preg 3)].all fun nb =>
          let e := { into (.qpop 0 0 nb.isSome) ([4, 5].map Dest.slot ++ nb.toList) with nbp := nb, bound := twoLanes }
          let e' := { into (.mbrecv 7 nb.isSome) ([4].map Dest.slot ++ nb.toList) with nbp := nb, bound := [(64, 2 ^ 511 + 2 ^ 33 + 5)] }
          mayEnd e && mayEnd e' && windowed64 (groupIn (settling e)) [4, 5] && windowed64 (groupIn (settling e')) [4]
            && decide (3 < (groupIn (settling e)).regs.pregs.length) && e.lanes.getLsbD 3)
      && (let e := { into .dread [.sreg 3] with accs := [{ lane := 64, va := 0x10000, n := 8, place := .phys [{ pa := 0x10000, n := 8 }] }] }
          mayEnd e && !(settling e).wordInPath e 0x10000 && !(settling e).badRead 0x10000 8)
      && mayEnd (into (.hcrd 255) [.sreg 3])
      && (let h : W64 := 6
          let e := into (.jobstat h) [.sreg 3]
          mayEnd e && fieldOf h 62 33 == 0 && (match ((settling e).tableOn 0).filter fun u => u.job == true && u.handleNum == 6 with
            | [w] => w.id == 4 && w.die == 0 && w.job == !h.getLsbD 63 | _ => false))
      && (let e := into (.jobstat 77) [.sreg 3]
          mayEnd e && ((settling e).tableOn 0).all fun w => w.job == false || w.handleNum != 77)) = true := by
  decide +kernel

/-! ## Clauses of the other steps -/

theorem witness_copies_on_their_way :
    ((let l := cl1 (.loc 1 16) (.glob 0x10000) (some (List.replicate 16 1)) []
      let k := cp1 l
      let s := copying one k
      match s.resolve (s.copyAgent k) 0x10000 k.n .write (s.copyWork k) with | (u, .ok ps) => !u.ownOnWay k ps | _ => false)
      && (let l := cl1 (.loc 1 16) (.loc 1 32) (some (List.replicate 16 1)) [2]
          let k : Copy := { cp1 l with mc := true, bar := some (1, 0x20), recvBar := some 0x20 }
          due (copying one k) k l && l.recvs.contains 2 && ((copying one k).team? 2).isNone && !(copying one k).lowerFirst k l (some 2)
            && k.acked.isEmpty && ({ k with acked := [2] } : Copy).acked.contains 2)
      && (let s : State := { core 5 1 9 with dies := [(0, { gathers := [{ desc := 0x20000, time := 0, asid := 0, vmid := 0 }] })] }
          !s.badRead 0x20000 8)) = true := by
  decide +kernel

/-- A region whose store of step 1 is to be committed. -/
def committing (next : Nat) : Region :=
  { params with
      state := .settled, grps := [0], arrived := [0], starts := [start0], commit := 1, next := next
      entries := [(1, [{ store := true, loc := false, addr := 0x10000, lg := 2, data := [1, 2, 3, 4], place := .phys [{ pa := 0x10000, n := 4 }] }])] }

/-- The region at its commit, in a state. -/
def commitAt (next : Nat) (f : State → State) : State := f (heldAt (.rlxclose 1) 0 (regioned (mem (tile 16 5 2 0)) (committing next)))

/-- A load of group 0 that has not been performed. -/
def unbound : LogEntry :=
  { entry with op := .load 4 false false 0 0, accs := [{ lane := 0, va := 0x10000, n := 4, place := .phys [{ pa := 0x10000, n := 4, attr := 0 }] }] }

theorem witness_commits_that_wait :
    ((let s := commitAt 0 fun s => { s with log := [unbound] }
      s.allArrived (committing 0) && !s.commitMay (committing 0) && decide ((committing 0).committed[0]? ≠ none))
      && (let s := commitAt 0 fun s => { s with works := [{ work with words := [0x20] ++ List.replicate 15 0 ++ [0x10000, 0x100] ++ List.replicate 14 0 }] }
          match s.regionGroups (committing 0) with | g :: _ => (s.commitEmbreq g (committing 0)).isSome | [] => false)
      && (let r : Region := { committing 0 with entries := [(1, [{ store := true, loc := true, addr := 16, lg := 2, data := [1, 2, 3, 4], place := .loc 1 16 }])], inst := 7 }
          let s : State := heldAt (.rlxclose 1) 0 (regioned (onTile (tile 16 5 2 0) { scores := [{ copy := 1, lo := 16, hi := 31, write := false }] }) r)
          match s.regionGroups r, r.committed[r.next]? with
          | g :: _, some (k, x) => s.commitMay r && (match s.commitOne r g k x with | .wait _ => true | _ => false)
          | _, _ => false)) = true := by
  decide +kernel

theorem witness_works_that_end :
    ((let s : State := { crowded with gangs := [{ gang with state := .stopping true }] }
      s.class0Waits 0 && !s.preempting 0 && ([3, 2, 1].findSome? fun c => latest (s.victims 0 c)).isSome)
      && (let w : Work := { launch1 .killed with parent := some 9, words := (List.range 32).map fun k => if k = 15 then 0x10000 else 0 }
          w.module == 0 && w.out == 0 && w.token.isNone && !(working w).workBusy w && !w.reported && w.done.toNat % 16 == 0
            && moves (served (.command 0) (working w)) w.agent 0x10000 16 .atomic (.work 2) fun _ _ => true)
      && (let w : Work := { launch1 .running with module := 4 }; ((working w).work? 2).isSome && w.module != 0)) = true := by
  decide +kernel

/-- A unit of one tile with one gang, and nothing else. -/
def oneUnit : State := tile 16 5 1 9

theorem witness_units : ∀ b, b ∈ [({ first := 0, size := 1 } : Block)] ↔ smallestOf oneUnit 0 b := by
  have tiles : oneUnit.gangTiles gang = [0] := by decide +kernel
  have stands (c : Block) (k : Gang) : standsOn oneUnit c k ↔ k = gang ∧ within c 0 := by
    constructor
    · rintro ⟨h, -, t, ht, hw⟩
      obtain rfl : k = gang := List.mem_singleton.mp h
      rw [tiles] at ht; obtain rfl := List.mem_singleton.mp ht; exact ⟨rfl, hw⟩
    · rintro ⟨rfl, h⟩; exact ⟨List.mem_singleton.mpr rfl, by decide +kernel, 0, by simp [tiles], h⟩
  have unit0 : turnUnit oneUnit (aligned 0 1) := by
    intro k hk t ht
    obtain ⟨rfl, h⟩ := (stands _ _).mp hk
    rw [tiles] at ht; obtain rfl := List.mem_singleton.mp ht; exact h
  intro b
  constructor
  · intro h
    obtain rfl := List.mem_singleton.mp h
    refine ⟨0, 1, rfl, by simp, by simp [aligned], unit0, ?_, gang, ?_⟩
    · intro m hm hl; simp at hm; omega
    · exact (stands _ _).mpr ⟨rfl, by simp [within]⟩
  · rintro ⟨t, n, -, hn, rfl, -, hmin, k, hk⟩
    obtain ⟨-, h⟩ := (stands _ _).mp hk
    obtain rfl : t = 0 := by simp [within] at h; omega
    have : n = 1 := by
      by_contra hne
      exact hmin 1 (by simp) (by simp at hn; omega) unit0
    subst this; simp [aligned]

theorem witness_StepsOfRotationAndPower_pairs : (oneUnit.gangs.map fun k => k.id).Nodup ∧ [({ first := 0, size := 1 } : Block)].Nodup ∧
    [({ first := 0, size := 1 } : Block)].Pairwise (fun x y => heat oneUnit y < heat oneUnit x ∨ (heat oneUnit y = heat oneUnit x ∧ x.first < y.first)) ∧
    oneUnit.time % 2 ^ (oneUnit.die 0).exp = 0 ∧ oneUnit.ckpt.busy = false := by
  refine ⟨?_, ?_, ?_, ?_, ?_⟩ <;> decide +kernel

/-- The words that an engine may use stand without an error. -/
theorem witness_words_without_error : tableGood (engine (qent (qwords 0) true false false)) 0 (pairWords (engine (qent (qwords 0) true false false)) 0 0 ++ counterWords (List.range 256)) ∧
    headGood (command [0, 0x10000, 0, 0]) 0 ∧ boundAs (core 5 1 9) { queue := 0, bind := some 7 } 7 ∧
    boundAs { core 5 1 9 with portQueues := [(0, 7)] } { queue := 0 } 7 := by
  unfold tableGood headGood boundAs; decide +kernel

theorem witness_StepsOfEnginesAndHost_more :
    ((let e := { qent (qwords 0) true false false with peer := 3 }
      let s : State := { engine e with mem := memWrite (memWrite [] 0x20000 (natBytes 8 0x3008000)) (0x20000 + 0x1000 + 48) (natBytes 8 0x102) }
      (s.qpInfo 0 0).peer == 3 && moves { s with tlbs := [(.coll 0, [identityTlb])] } collAgent (qSrc e.words) (qLen e.words) .read (.qp 0 0 6) fun _ _ => true)
      && ({ qent (qwords 0) true true false with peer := 3 } : QpEntry).localDone
      && (let t : Transfer := { words := qwords 1, data := List.replicate 128 1, ddie := 0, asid := 0, rasid := 0, vmid := 0 }
          let k : Chunk := { rasid := 0, vmid := 0, chunk := 0, nrank := 1, len := 128, parts := [] }
          !k.mismatch t && k.rasid == t.rasid && k.chunk == qChunk t.words)
      && (let p : Contrib := { rank := 0, data := List.replicate 128 1, words := qwords 1, asid := 0 }
          (((List.range 1).filterMap fun r => [p].find? fun p => p.rank == r).getLast?) == some p)
      && (aelmel { state := .run }).reportBody.length == 128 && decide (0 < (core 5 1 9).ndies)) = true := by
  decide +kernel

/-- A group of tile 0 at an integer add, in a clock in which its cluster is muted, or its quarters have issued. -/
def kept (f : State → State) : State := f (atAdd (mem (tile 16 5 1 9)))

/-- The group's instruction is ready, or it is not, and `P` of the state at its issue. -/
noncomputable def atIssue (s : State) (ready : Bool) (P : State → Group → Bool) : Bool :=
  let v := turnOf s 0 []
  match v.group? 0 with
  | some g => v.mayIssue g && (match g.clause with
    | some cl => !v.stopsInSeq g cl && (match v.fetchInstr g cl.next with
      | (u, .ok ws) => decide (decode ws = .ok (.iadd (f3 3 1 2), 1)) && P u g
          && nextIs (exec (.iadd (f3 3 1 2)) u) fun t => t.unready 0 == !ready
      | _ => false)
    | none => false)
  | none => false

theorem witness_StepRunsDecodedInstruction_kept :
    ([true, false].all fun ready =>
      let busy (s : State) : State := if ready then s else { s with log := [{ entry with dests := [.slot 3] }] }
      let there (u : State) : Bool := match u.groupTile (groupIn u) with | some p => u.muted.contains (clusterOf p) | none => false
      let s := tile 16 5 1 9
      atIssue (busy (kept fun s => { s with muted := [clusterOf 0] })) ready (fun u _ => there u)
        && atIssue (busy (kept fun t => { t with used := s.quartersOf (groupIn s) })) ready (fun u g => !there u && u.quartersTaken g)
        && atIssue (busy (kept fun t => { t with used := [(1, 3)], partns := [(0, { rise := 8, now := 1 })] })) ready (fun u g =>
          !there u && !u.quartersTaken g && u.slewHolds g 16)) = true := by
  decide +kernel

theorem witness_TrapEntry_owed :
    ((let s : State := { tile 16 5 1 9 with log := [{ entry with state := .quota }, { entry with id := 10, op := .nothing }] }
      !s.heldByQuota { entry with id := 10, op := .nothing } && s.heldByQuota { entry with state := .quota })
      && (let s : State := { tile 16 5 1 9 with log := [{ entry with state := .quota, op := .cdrain 0 0 0 }, { entry with id := 10, op := .cstore 0 0 }] }
          s.heldByQuota { entry with id := 10, op := .cstore 0 0 })
      && (let s : State := { trapping 0 true (tile 16 5 1 9) with dies := [(0, { buffer := List.replicate 256 record })] }
          let g := groupIn s
          g.flow.tl && (s.postFault (mkFault (s.agent g) 0x1004 0 0x23 0 0) (.group 0)).isNone)) = true := by
  decide +kernel

theorem witness_EventsTakeEffect_drains :
    ([({ entry with op := .cdrain 0 0 0, mode := 0 } : LogEntry), { entry with op := .cstore 0 0, mode := 0 }].all fun e =>
      [({} : Acc), fullAcc].all fun acc =>
        let s : State := { tile 16 5 1 9 with teams := [{ team with accs := [acc, {}] }], log := [e] }
        let g := groupIn s
        (s.entry? 9).isSome && !e.untranslated && s.gangRuns g && !s.accOlder e 0 && !s.locScored e.accs && modeAccr e.mode != 1
          && ((drainElems e).any fun p => ((s.accOf g 0).elem p.2).overflows) == (acc != {})) = true := by
  decide +kernel

/-! ## Binding, rounding, and the cases of the copy engine, of `wfi` and of the ember -/

/-- `mayBind` as a Bool. -/
def mayBindB (s : State) (e : LogEntry) (g : Group) (a : Access) (ps : List Piece) : Bool :=
  decide (s.entry? e.id = some e) && decide (s.group? e.grp = some g) && decide (e.state = .running) && decide (a ∈ e.accs)
    && decide (e.accs.map fun b => b.lane).Nodup && decide (a.place = .phys ps) && !e.isBound a.lane
    && e.accs.all (fun b => !s.atomicInFlight e b) && ps.all (fun p => !s.badRead (p.pa / 128 * 128) 128)
    && e.accs.all (fun b => match b.place with | .phys qs => qs.all fun q => decide (q.pa % 128 + q.n ≤ 128) | _ => true)
    && decide (ps.map fun p => p.pa / 128 % 128).Nodup && s.memWf && s.linesAgree
    && (s.tile e.tile).cache.all (fun l => decide (l.data.length = 128)) && e.reads.all (fun r => decide (r.2.length = 128))
    && (!a.isDev || decide (ps.length = 1))

/-- What `mayBindB` says. -/
theorem mayBind_of {s : State} {e : LogEntry} {g : Group} {a : Access} {ps : List Piece} (h : mayBindB s e g a ps = true) :
    mayBind s e g a ps := by
  simp only [mayBindB, Bool.and_eq_true, decide_eq_true_eq, Bool.not_eq_true', List.all_eq_true, Bool.or_eq_true] at h
  obtain ⟨⟨⟨⟨⟨⟨⟨⟨⟨⟨⟨⟨⟨⟨⟨h1, h2⟩, h3⟩, h4⟩, h5⟩, h6⟩, h7⟩, h8⟩, h9⟩, h10⟩, h11⟩, h12⟩, h13⟩, h14⟩, h15⟩, h16⟩ := h
  refine ⟨h1, h2, h3, h4, h5, h6, h7, h8, h9, fun b hb qs hq q hm => ?_, h11, h12, h13, h14, h15, fun hd => ?_⟩
  · have := h10 b hb
    simp only [hq, List.all_eq_true, decide_eq_true_eq] at this
    exact this q hm
  · rcases h16 with h | h
    · simp [hd] at h
    · exact h

/-- A load of 4 bytes for lane 3, in parts; its entry. -/
def part (pa n attr : Nat) : Piece := { pa := pa, n := n, attr := attr }
def laneLoad (scope : Nat) (ps : List Piece) : LogEntry :=
  { entry with op := .load 4 true false scope 0, dests := [.slot 3], accs := [{ lane := 3, va := 0x10010, n := 4, place := .phys ps }] }

/-- Memory holds 0x44332211 at 0x10010, the tile's cache 0x55 in all of that line, its path two stores to byte 0x10011. -/
def loadFrom (s : State) (e : LogEntry) : State :=
  { s with
      log := [e], mem := memWrite [] 0x10010 (natBytes 4 0x44332211)
      tiles := [(0, { cache := [{ line := 0x10000 / 128, data := List.replicate 128 0x55 }]
                      path := [{ id := 1, grp := 7, pa := 0x10011, op := .store [0xAA] }, { id := 2, grp := 0, pa := 0x10011, op := .store [0xBB] }] })] }

/-- The value that lane 3 binds. -/
def binds (s : State) (e : LogEntry) : Option Nat :=
  match s.bindOne e.id 3 with
  | .ok u => (u.entry? e.id).bind fun f => (f.bound.find? fun p => p.1 == 3).map fun p => p.2
  | _ => none

/-- R71, R72: the newest store of the path, then the tile cache at a tile-wide scope, else home; a stoker core reads home. -/
theorem test_load_sources :
    binds (loadFrom (tile 16 5 1 9) (laneLoad 0 [part 0x10010 4 0])) (laneLoad 0 [part 0x10010 4 0]) = some 0x5555BB55 ∧
      binds (loadFrom (tile 16 5 1 9) (laneLoad 3 [part 0x10010 4 0])) (laneLoad 3 [part 0x10010 4 0]) = some 0x4433BB11 ∧
      binds (loadFrom (core 5 1 9) (laneLoad 0 [part 0x10010 4 0])) (laneLoad 0 [part 0x10010 4 0]) = some 0x44332211 := by
  decide +kernel

theorem witness_LoadsBind :
    ([tile 16 5 1 9, core 5 1 9].all fun s => [0, 3].all fun scope =>
      [[part 0x10010 4 0], [part 0x10010 4 1], [part 0x10010 4 2], [part 0x1007E 2 0, part 0x10080 2 0]].all fun ps =>
        let e := laneLoad scope ps
        let t := loadFrom s e
        mayBindB t e (groupIn t) { lane := 3, va := 0x10010, n := 4, place := .phys ps } ps && !e.untranslated && t.residentGroup (groupIn t)
          && !(groupIn t).flow.tl && decide (0 < (groupIn t).cf.length)
          && ((groupIn t).slot (.slot 3)).data.length == 16) = true := by
  decide +kernel

/-- A load of one access that is still to bind: of lane 3, and of a scalar. -/
theorem witness_StepsOfMemoryAndCopies_binding :
    (let e (lane : Nat) (ds : List Dest) : LogEntry := { into (.load 4 true false 0 0) ds with
       accs := [{ lane := lane, va := 0x10010, n := 4, place := .phys [part 0x10010 4 0] }] }
     [e 3 [.slot 4], e 64 [.sreg 3]].all fun e => e.accs.all fun a =>
       mayEnd e && (settling e).log == [e] && mayBindB (settling e) e (groupIn (settling e)) a [part 0x10010 4 0]
         && windowed64 (groupIn (settling e)) [4] && decide (3 < (groupIn (settling e)).regs.sregs.length) && e.bound.isEmpty) = true := by
  decide +kernel

/-- The nf word 0x01A3 of R159: its largest value 7.5, and 1.0 its smallest normal. -/
theorem witness_ConversionResults_narrow :
    (NFmt.ofWord 0x01A3).width = 6 ∧ ((NFmt.ofWord 0x01A3).decode false 0x1F = (false, 15, -1)) ∧
      (encodeVal (NFmt.ofWord 0x01A3) 0 .rne true (.fin false 15 (-1)) 0 = (0x1F, false, 0)) ∧
      (encodeVal (NFmt.ofWord 0x01A3) 0 .rne true (.fin false 1 10) 0 = (0x1F, false, flNSAT ||| flNX)) := by
  decide +kernel

/-- R166: 1 + 2^-8 lies halfway between two BF16 codes. -/
theorem test_round_halfway :
    (fmtBF16.put 0 .rne (fmtF32.decode 0x3F808000)) = (0x3F80, flNX) ∧ (fmtBF16.put 0 .rna (fmtF32.decode 0x3F808000)) = (0x3F81, flNX) := by
  decide +kernel

/-- A handler that found entry 1 in the log, and issued entry 2. -/
theorem witness_TrapReturn_log :
    (let s : State := { inTrap 0x2000 false with log := [{ entry with id := 1 }, { entry with id := 2, tlevel := true }], nextId := 5 }
     meets s 34 2 (f3 0 0 0) fun g _ c t => c.anyLane && (match g.frame with | some f => !f.pcWritten && f.trap.replay.isNone | none => false)
      && decide (t.log.map fun e => e.id).Nodup && t.log.all (fun e => decide (e.turn < t.nextId))
      && t.log.any (fun e => e.grp == g.id && !e.tlevel) && t.log.any (fun e => e.tlevel)
      && ((t.behindHandler g.id).log.map fun e => e.turn) == [5, 2]) = true := by
  decide +kernel

theorem witness_entry_held :
    (let s : State := { inTrap 0x2000 false with log := [entry] }
     let g := groupIn s
     (s.entry? 9).isSome && g.running != 0 && g.flow.tl && !entry.tlevel) = true := by
  decide +kernel

theorem witness_StepsOfMemoryAndCopies_suspended :
    ((let l := cl1 (.glob 0x1000000000) (.loc 1 32) none []
      let k := cp1 l
      let s : State := { copying one k with tlbs := [], mem := tables }
      due s k l && k.token.isNone && !k.held && (match s.resolve (s.copyAgent k) 0x1000000000 k.n .read (s.copyWork k) with
        | (u, .fault r) => (u.postFault r (.copy k.id)).isSome | _ => false))
      && (let l := cl1 (.loc 1 16) (.glob 0x1000000000) (some (List.replicate 16 1)) []
          [{ cp1 l with token := some 4, line := some l.lineNo }].all fun k =>
            let s : State := { copying one k with tlbs := [], mem := tables }
            due s k l && !s.lowerFirst k l none && (match s.resolve (s.copyAgent k) 0x1000000000 k.n .write (s.copyWork k) with
              | (_, .fault _) => true | _ => false))
      && (let l := cl1 (.loc 1 16) (.glob 0x10000) none []
          let k := { cp1 l with token := some 4 }
          decide ((copying one k).copy? k.id = some k) && decide (some l.lineNo ≠ k.line) && !k.halfSent l)
      && ([{ cp1 (cl1 (.loc 1 16) (.loc 1 32) (some (List.replicate 16 1)) []) with remote := true },
           { cp1 { cl1 (.loc 1 16) (.loc 1 32) (some (List.replicate 16 1)) [] with back := 2 } with mc := true, bar := some (1, 0x20) }].all fun k =>
          match k.lanes with | l :: _ => due (copying two k) k l | [] => false)) = true := by
  decide +kernel

/-- An uncorrectable error in the header of core 0's ring. -/
def badRing (f : State → State) : State := { f (coreWith 9 fun k => { k with fring := ring }) with mem := ringMem, badBursts := [{ burst := ring.base / 64 }] }

theorem witness_bad_headers :
    (meets (badRing id) 34 3 (f3 0 0 0) (fun g _ c t => free t c && c.anyLane && (match g.core with | some k => (t.servedBad k).isSome | none => false))
      && (let s := badRing fun s => with1 s fun g => { g with hold := .wfi }
          match s.coreGroup 0 with
          | some g => (match g.core with | some k => (s.servedBad k).isSome && g.hold == .wfi | none => false) | none => false)
      && (let s : State := { core 5 1 9 with ckpt := { busy := true, started := true }, badBursts := [{ burst := 0x10000 / 64 }] }
          s.gangs.all s.gangHeld && s.badBursts.all fun b => decide (b.burst / 2 * 128 < s.memEnd))) = true := by
  decide +kernel

theorem witness_ember_after_skip :
    (meets { det (tile 16 5 1 9) work with teams := [{ team with skip := true }] } 31 0 (f3 3 0 0) fun g _ c t => free t c && c.anyLane && (match t.emberOf g with
        | some (w, tm) => !w.abort && tm.skip | none => false)) = true := by
  decide +kernel

/-- An `mma` whose predicate fails in every lane. -/
theorem witness_mma_without_lanes :
    (meets (pteam (tile 16 5 1 9) ctl16 []) 26 4 { f3 1 2 3 with ext := some { ext 0 0 with pred := 0 } } fun g _ c t =>
      free t c && !c.anyLane && (t.panelOf g c.fa).ctl != 0 && (t.panelOf g c.fb).ctl != 0
        && c.act != (fullMask g.width &&& ~~~g.flow.exited)) = true := by
  decide +kernel

/-! ## Words written out in the spec, or from its encoding tables, decode to the instructions they stand for -/

theorem test_decode_iv : decode [0b0_00101_000010_000001_000011_000001_01#32, 0x07140000#32, 0#32] = .ok (.imad (f4 3 1 2 5), 3) := by
  decide +kernel
theorem test_decode_is : decode [0b0_11101_000011_000010_000001_000010_00#32] = .ok (.idivS (f3 1 2 3), 1) := by decide +kernel
/-- R182: `icmplo p35`, with D = 35 that combines with a predicate by AND. -/
theorem test_decode_icv : decode [0x1851230C#32] = .ok (.icmplo (f3 35 4 5), 1) := by decide +kernel
theorem test_decode_ics : decode [0b0_00010_000111_000110_000001_000100_00#32] = .ok (.icmpltS (f3 1 6 7), 1) := by decide +kernel
/-- 09, lines 36 and 83. -/
theorem test_decode_pk : decode [0x1C808515#32, 0x07140000#32, 0#32] = .ok (.dot2 (f4 5 2 8 5), 3)
    ∧ decode [0x38010617#32, 0x07140000#32, 0#32, 15#32, 0#32] = .ok (.rshrn { f4 6 4 0 5 with lit := some 15 }, 5) := by decide +kernel
/-- 13, lines 25 and 28. -/
theorem test_decode_fv : decode [0x04454A18#32] = .ok (.fsub (f3 10 21 4), 1)
    ∧ decode [0x14458619#32, 0x07500000#32, 0#32] = .ok (.fnma (f4 6 22 4 20), 3) := by decide +kernel
/-- 08: `ffma` with tag F32, predicate p2 and a permutation of B. -/
theorem test_decode_fv_ext : decode [0x0C204819#32, 0x220C0400#32, 0#32] =
    .ok (.ffma { f3 8 1 2 with ext := some { ext 3 2 with pred := 2, pb := 2 } }, 3) := by decide +kernel
theorem test_decode_fs : decode [0b0_10001_000011_000010_000001_000111_00#32] = .ok (.fdivS (f3 1 2 3), 1) := by decide +kernel
theorem test_decode_fcv : decode [0b0_00110_000011_000010_000001_001000_00#32] = .ok (.fcmpun (f3 1 2 3), 1) := by decide +kernel
/-- 15, line 105. -/
theorem test_decode_cvt : decode [0x24228A24#32] = .ok (.retag (f3 10 10 2), 1) := by decide +kernel
/-- 07, the words of the worked block. -/
theorem test_decode_nq : decode [0x08008528#32] = .ok (.bamax (f3 5 2 0), 1) ∧ decode [0x0C014628#32] = .ok (.scaleof (f3 6 5 0), 1)
    ∧ decode [0x00608428#32] = .ok (.qnt (f3 4 2 6), 1) ∧ decode [0x10010528#32] = .ok (.pack4 (f3 5 4 0), 1)
    ∧ decode [0x04610728#32] = .ok (.dqnt (f3 7 4 6), 1) := by decide +kernel
/-- 09 line 37, 19 lines 44 and 62. -/
theorem test_decode_xl : decode [0x0C30822C#32] = .ok (.slideh (f3 2 2 3), 1) ∧ decode [0x00428B2C#32] = .ok (.perm (f3 11 10 4), 1)
    ∧ decode [0x2405882C#32] = .ok (.bits2 (f3 8 22 0), 1) := by decide +kernel
/-- 18: `csrrd s4, 0x010`; 09 line 16. -/
theorem test_decode_mv : decode [0x25000430#32] = .ok (.csrrd (f3 4 0 16), 1)
    ∧ decode [0x04000932#32, 0xE0006000#32, 0#32] = .ok (.movi (fl 9 0 0 0xE0006000), 3) := by decide +kernel
theorem test_decode_pr : decode [0b0_00001_000011_000010_000001_001101_00#32] = .ok (.por (f3 1 2 3), 1) := by decide +kernel
/-- 06, the example program; R40, the branch of −36 words. -/
theorem test_decode_cf : decode [0x01CFFF40#32] = .ok (.br (f3 63 63 28), 1) ∧ decode [0x0BB00040#32] = .ok (.call (f3 0 0 59), 1)
    ∧ decode [0x00700041#32, 0#32, 0#32] = .ok (.br { f3 0 0 7 with ext := some { ext 0 0 with pred := 0 } }, 3)
    ∧ decode [0x14800040#32] = .ok (.enter (f3 0 0 8), 1) ∧ decode [0x18000040#32] = .ok (.exit (f3 0 0 0), 1)
    ∧ decode [0x10000040#32] = .ok (.ret (f3 0 0 0), 1) ∧ decode [0x20000040#32] = .ok (.nop (f3 0 0 0), 1) := by decide +kernel
/-- 15, line 52. -/
theorem test_decode_lp : decode [0x00300046#32, 6#32, 0#32] = .ok (.loop (fl 0 0 3 6), 3) := by decide +kernel
/-- 09, line 32. -/
theorem test_decode_ldg : decode [0x1000834A#32, 0xFFFFFF80#32, 0xFFFFFFFF#32] = .ok (.ld32 (fl 3 2 0 0xFFFFFFFFFFFFFF80), 3) := by
  decide +kernel
/-- 13 line 29, 15 line 65. -/
theorem test_decode_stg : decode [0x0872854C#32] = .ok (.st32 (f3 5 10 7), 1)
    ∧ decode [0x20004B4F#32, 0x07000000#32, 0x2000#32, 0x280#32, 0#32] =
      .ok (.strels64 { f3 11 1 0 with ext := some { ext 0 0 with scope := 2 }, lit := some 0x280 }, 5) := by decide +kernel
/-- 04, the worked atomic in both forms. -/
theorem test_decode_at : decode [0x00108551#32, 0x07240000#32, 0#32] = .ok (.aadd (f4 5 2 1 9), 3)
    ∧ decode [0x00108051#32, 0x17240000#32, 0#32] = .ok (.aadd { f3 0 2 1 with ext := some (ext 9 1) }, 3) := by decide +kernel
theorem test_decode_ats : decode [0b0_01001_000011_000010_000001_010101_00#32] = .ok (.acasS (f3 1 2 3), 1) := by decide +kernel
/-- 14: `fence sc`. -/
theorem test_decode_mo : decode [0x00000058#32] = .ok (.fenceSc (f3 0 0 0), 1) := by decide +kernel
/-- 05: `stl64`; 19, line 98. -/
theorem test_decode_ll : decode [0x2830865C#32] = .ok (.stl64 (f3 6 2 3), 1)
    ∧ decode [0x10028B5E#32, 0x100#32, 0#32] = .ok (.ldl32 (fl 11 10 0 0x100), 3) := by decide +kernel
/-- 05: `cp16` with a barrier in s5. -/
theorem test_decode_cp : decode [0x08424861#32, 0x07140000#32, 0#32] = .ok (.cp16 (f4 8 9 4 5), 3) := by decide +kernel
/-- 05; 11, line 60. -/
theorem test_decode_ba : decode [0x0C718164#32] = .ok (.bwait (f3 1 6 7), 1) ∧ decode [0x04054064#32] = .ok (.barrive (f3 0 21 0), 1) := by
  decide +kernel
/-- 10, the table of words. -/
theorem test_decode_mx : decode [0x10200168#32] = .ok (.mma (f3 1 0 2), 1) ∧ decode [0x94200168#32] = .ok (.mmat { f3 1 0 2 with fs := true }, 1)
    ∧ decode [0x20304868#32] = .ok (.cdrain (f3 8 1 3), 1) ∧ decode [0x1C00006A#32, 12#32, 0#32] = .ok (.canch (fl 0 0 0 12), 3)
    ∧ decode [0x24404069#32, 0x07140000#32, 0#32] = .ok (.cstore (f4 0 1 4 5), 3)
    ∧ decode [0x2C608369#32, 0x07040000#32, 0#32] = .ok (.pput (f4 3 2 6 1), 3) := by decide +kernel
/-- 10: `seq 3, s4, s5, 0x0000_0000_0011_0080`. -/
theorem test_decode_sq : decode [0x0051036E#32, 0x00110080#32, 0#32] = .ok (.seq (fl 3 4 5 0x110080), 3) := by decide +kernel
/-- 12, line 17 and the table of words. -/
theorem test_decode_kn : decode [0x00308472#32, 0x00840004#32, 0#32] = .ok (.rlxopen (fl 4 2 3 0x840004), 3)
    ∧ decode [0x0C100670#32] = .ok (.rlxstat (f3 6 0 1), 1) ∧ decode [0x10000970#32] = .ok (.rlxres (f3 9 0 0), 1) := by decide +kernel
/-- 17, the tables of words of TK, QM and DT. -/
theorem test_decode_qm : decode [0x04000675#32, 0x07000000#32, 0x00050C05#32] =
    .ok (.qpop { f3 6 0 0 with ext := some { ext 0 0 with nbp := 2, nb := true, place := 0xC05 } }, 3)
    ∧ decode [0x0C00CA74#32] = .ok (.mbrecv (f3 10 3 0), 1) := by decide +kernel
theorem test_decode_tk : decode [0x00308478#32] = .ok (.jobenq (f3 4 2 3), 1) ∧ decode [0x08614078#32] = .ok (.dinit (f3 0 5 6), 1)
    ∧ decode [0x14010778#32] = .ok (.jobstat (f3 7 4 0), 1) := by decide +kernel
theorem test_decode_dt : decode [0x0400007C#32] = .ok (.embpass (f3 0 0 0), 1) ∧ decode [0x0800007C#32] = .ok (.embskip (f3 0 0 0), 1) := by
  decide +kernel
/-- 22: hc70 is D 6 with B 1. -/
theorem test_decode_cl : decode [0x0C11C682#32, 4#32, 0#32] = .ok (.hcarm (fl 6 7 1 4), 3) ∧ decode [0x08118580#32] = .ok (.hcrd (f3 5 6 1), 1) := by
  decide +kernel
/-- 20, the table of words. -/
theorem test_decode_tm : decode [0x08000086#32, 0x493E0#32, 0#32] = .ok (.dline (fl 0 0 0 300000), 3)
    ∧ decode [0x0C000184#32] = .ok (.dchk (f3 1 0 0), 1) ∧ decode [0x10000584#32] = .ok (.dampst (f3 5 0 0), 1) := by decide +kernel
/-- 21, the table of words. -/
theorem test_decode_sy : decode [0x01020488#32] = .ok (.csrrdp (f3 4 8 16), 1) ∧ decode [0x0500C988#32] = .ok (.ringbaseWrite (f3 9 3 16), 1)
    ∧ decode [0x10308088#32] = .ok (.tlbinv (f3 0 2 3), 1) ∧ decode [0x2811C188#32] = .ok (.fringResume (f3 1 7 1), 1) := by decide +kernel
/-- 09, the header of line 30. -/
theorem test_decode_header : decode [0x3F1000FC#32] = .ok (.clauseBoundary { cnt := 3, setb := 15, seta := 1, wait := 0 }, 1) := by decide +kernel

/-- The word as the opcode table numbers it, and where the fetch takes it. -/
theorem test_decodeTableWord : decodeTableWord 32 0x00208304 = some (.iadd (f3 3 2 2)) ∧ decodeTableWord 32 0x7C000004 = none := by decide +kernel

/-! ## Ill-formed terms -/

/-- A scope that is no scope of a load; a minor of another operand (the four fences are one minor). -/
theorem test_wf_selected : (Instr.fenceAcq (f3 0 0 0)).wellFormed = false := by decide +kernel
/-- A literal where the form has none; none where it is required; and above 32 bits where it replaces a lane's operand. -/
theorem test_wf_literal : (Instr.retag (fl 1 2 0 0)).wellFormed = false ∧ (Instr.movi (f3 1 0 0)).wellFormed = false
    ∧ (Instr.iadd (fl 1 2 0 (2 ^ 40))).wellFormed = false := by decide +kernel
/-- A field that the form does not use. -/
theorem test_wf_zero : (Instr.ret (f3 1 0 0)).wellFormed = false ∧ (Instr.aadd (fx 3 1 2 5 1)).wellFormed = false := by decide +kernel
/-- Numbers outside a class: a pair from v63, s32, p7 as a destination, panel 8, accumulator 4. -/
theorem test_wf_range : (Instr.ld64 (f3 63 1 2)).wellFormed = false ∧ (Instr.iaddS (f3 32 1 2)).wellFormed = false
    ∧ (Instr.pand (f3 7 1 2)).wellFormed = false ∧ (Instr.pzero (f3 8 0 0)).wellFormed = false ∧ (Instr.czero (f3 4 0 0)).wellFormed = false := by
  decide +kernel
/-- Extended fields that must be zero; PINV with p7; C where the form has none. -/
theorem test_wf_extended : (Instr.iadd { f3 1 2 3 with ext := some { ext 0 0 with zero := 1 } }).wellFormed = false
    ∧ (Instr.iadd { f3 1 2 3 with ext := some { ext 0 0 with pinv := true } }).wellFormed = false
    ∧ (Instr.iadd (f4 1 2 3 4)).wellFormed = false := by decide +kernel

/-! ## Single steps with the results of the spec's examples -/

/-- Window registers of the one context: number, first lanes' values, tag. -/
def vregs (l : List (Nat × List W32 × BitVec 4)) (s : State) : State :=
  with1 s fun g => { g with regs := { g.regs with slots := l.foldl (fun m p =>
    lset m p.1 { data := p.2.1 ++ List.replicate (g.width - p.2.1.length) 0, tag := p.2.2 }) g.regs.slots } }

/-- The first lanes of a window register, and its tag, after an instruction. -/
def after (i : Instr) (s : State) (P : Group → Bool) : Bool := nextIs (exec i s) fun t => match t.group? 0 with | some g => P g | none => false
def lanesOfV (g : Group) (n k : Nat) : List W32 := ((g.regs.slots.getD n {}).data).take k
def tagOfV (g : Group) (n : Nat) : BitVec 4 := (g.regs.slots.getD n {}).tag
def sOf (g : Group) (n : Nat) : W64 := (g.regs.sregs.getD n {}).val

/-- 08: the table of `dot2`. -/
theorem test_dot2_clamps :
    after (.dot2 (f4 6 1 2 3)) (vregs [(1, [0x75307530, 0x0003FFFE], 5), (2, [0x7FFF7FFF, 0x00070005], 5), (3, [0x3B9ACA00, 0x64], 1)] (core 0 1 0))
      (fun g => lanesOfV g 6 2 == [0x7FFFFFFF, 0x6F] && tagOfV g 6 == 1 && g.csrs.flags == 0x20) = true := by decide +kernel

/-- 08: the table of `rshrn` by 15. -/
theorem test_rshrn_narrows :
    after (.rshrn { f4 7 6 0 4 with lit := some 15 }) (vregs [(6, [0x7FFFFFFF, 0x6F], 1), (4, [0xC000, 0xFFFF4000], 1)] (core 0 1 0))
      (fun g => lanesOfV g 7 2 == [0x00027FFF, 0xFFFF0000] && tagOfV g 7 == 5 && g.csrs.flags == 0x20) = true := by decide +kernel

/-- 08: one rounding, towards zero, of (1 + 2^-23)^2 - 1. -/
theorem test_ffma_rounds_once :
    after (.ffma { f3 8 1 2 with ext := some { ext 3 2 with pb := 2 } })
      (vregs [(1, [0x3F800001], 2), (2, [0x3F800001], 2), (3, [0xBF800000], 2)] (core 0 2 0))
      (fun g => lanesOfV g 8 1 == [0x34800000] && g.csrs.flags == 0x10) = true := by decide +kernel

/-- 07: 1 + 2^-8 rounds to BF16 as a tie to even. -/
theorem test_tobf16x2_ties : after (.tobf16x2 (f3 5 1 0)) (vregs [(1, [0x3F808000], 2)] (core 0 2 0))
    (fun g => lanesOfV g 5 1 == [0x3F80] && tagOfV g 5 == 3 && g.csrs.flags == 0x10) = true := by decide +kernel

/-- 07: 2.5 converts to 2, minus infinity to the least integer with NV. -/
theorem test_toi32_corners : after (.toi32 (f3 5 1 0)) (vregs [(1, [0x40200000, 0xFF800000], 2)] (core 0 2 0))
    (fun g => lanesOfV g 5 2 == [2, 0x80000000] && g.csrs.flags == 0x11) = true := by decide +kernel

/-- 07: the worked block of a group of 32 lanes; nf0 is E2M3, s6 the scale 0x81. -/
def blockState (l : List (Nat × List W32 × BitVec 4)) : State :=
  with1 (vregs l (tile 32 0 2 0x81)) fun g => { g with csrs := { g.csrs with nf := [0x01A3] } }
def blockIn : Nat × List W32 × BitVec 4 := (2, [0x41F00000, 0x3FA66666, 0xC0A00000, 0x3E800000, 0xBE800000], 2)

theorem test_bamax : after (.bamax (f3 5 2 0)) (blockState [blockIn]) (fun g => sOf g 5 == 0x41F00000) = true := by decide +kernel
theorem test_scaleof : after (.scaleof (f3 6 5 0)) (with1 (blockState []) fun g => { g with regs := { g.regs with
    sregs := lset g.regs.sregs 5 { val := 0x41F00000 } } }) (fun g => sOf g 6 == 0x81) = true := by decide +kernel
theorem test_qnt : after (.qnt (f3 4 2 6)) (blockState [blockIn])
    (fun g => lanesOfV g 4 6 == [0x1F, 3, 0x2A, 0, 0x20, 0] && tagOfV g 4 == 8 && g.csrs.flags == 0x18) = true := by decide +kernel
theorem test_pack4 : after (.pack4 (f3 5 4 0)) (blockState [(4, [0x1F, 3, 0x2A, 0, 0x20], 8)])
    (fun g => lanesOfV g 5 3 == [0x002A031F, 0x20, 0] && tagOfV g 5 == 8) = true := by decide +kernel
theorem test_dqnt : after (.dqnt (f3 7 4 6)) (blockState [(4, [0x1F, 3, 0x2A, 0, 0x20], 8)])
    (fun g => lanesOfV g 7 6 == [0x41F00000, 0x3FC00000, 0xC0A00000, 0, 0x80000000, 0] && tagOfV g 7 == 2) = true := by decide +kernel

/-- R180, by hand: a sum wraps; a saturating sum clamps and sets SAT; a quotient by 0 and the one that overflows. -/
theorem test_iadd_wraps : after (.iadd (f3 3 1 2)) (vregs [(1, [0x7FFFFFFF], 1), (2, [1], 1)] (core 0 1 0))
    (fun g => lanesOfV g 3 1 == [0x80000000] && g.csrs.flags == 0) = true := by decide +kernel
theorem test_sadd_clamps : after (.sadd (f3 3 1 2)) (vregs [(1, [0x7FFFFFFF], 1), (2, [1], 1)] (core 0 1 0))
    (fun g => lanesOfV g 3 1 == [0x7FFFFFFF] && g.csrs.flags == 0x20) = true := by decide +kernel
theorem test_rotl_source_is_destination : after (.rotl (f3 3 3 2)) (vregs [(3, [0x80000001], 1), (2, [33], 1)] (core 0 1 0))
    (fun g => lanesOfV g 3 1 == [3]) = true := by decide +kernel

/-- R26, R40: the branch of −36 words at 0x2010 ends its clause with its lanes at 0x1F80. -/
theorem test_br_offset :
    after (.br (f3 63 63 28)) { with1 (core 0 1 0) (fun g => { g with clause := some { clause with next := 0x2010, header := 0x200C, cnt := 1 } }) with
      mem := memWrite [] 0x1F80 header } (fun g => g.flow.lpc.getD 0 0 == 0x1F80 && g.flow.lpc.getD 15 0 == 0x1F80 && g.clause.isNone) = true := by
  decide +kernel

/-- R139: a call pushes the header that follows its clause. -/
theorem test_call_pushes : after (.call (fl 0 0 0 0x3FF)) (atEnd (core 5 1 0) id)
    (fun g => g.flow.links == [{ ret := 0x1010, step := 0 }] && g.flow.lpc.getD 3 0 == 0x2000) = true := by decide +kernel

/-- R359, R361: an unused field of `exit` that is not zero: ILLOP, reason 3, at position 0 of its clause, and every lane at VEC. -/
theorem test_trap_entry :
    after (.exit (f3 1 0 0)) { with1 (core 5 1 0) (fun g => { g with csrs := { g.csrs with trapvec := 0x2000 } }) with mem := memWrite [] 0x2000 header }
      (fun g => g.flow.tl && g.csrs.trapcause == 0x40001 && g.csrs.trappc == 0x1004 && g.csrs.trapinfo == 3 && g.flow.lpc.getD 9 0 == 0x2000) = true := by
  decide +kernel

/-- R83: a store writes the low bytes, little-endian; the highest lane stands last where lanes store to one place. -/
theorem test_store_little_endian : nextIs (exec (.st16 (f3 3 1 2)) (vregs [(3, [0x11112222, 0x33334567], 1)] (with1 (core 0 1 0x10000) fun g =>
    { g with clause := g.clause.map fun k => { k with lanes := 3 } }))) (fun t => t.homeRead 0x10000 4 == [0x67, 0x45, 0, 0]) = true := by decide +kernel

/-- R86: an addition at home. -/
theorem test_atomic_at_home : nextIs (exec (.homeAtomicPerform 0 7) { path1 (.atomic .add 3 0 none) with mem := memWrite [] 0x10000 [0xFF, 0xFF] })
    (fun t => t.homeRead 0x10000 4 == [2, 0, 1, 0]) = true := by decide +kernel

/-- R81: a signed byte of the window is sign-extended. -/
theorem test_local_load_extends : after (.ldl8s (f3 8 1 2)) ((tile 16 0 1 0).windowWrite 1 0 [0x80])
    (fun g => lanesOfV g 8 1 == [0xFFFFFF80]) = true := by decide +kernel

/-- R118: the one arrival expected completes the phase. -/
theorem test_barrive_completes : nextIs (exec (.barrive (f3 0 1 0)) (bar1 0x100000001 one))
    (fun t => (t.bar 1 0x20).phase == 1 && (t.bar 1 0x20).arrived == 0 && (t.bar 1 0x20).expect == 1) = true := by decide +kernel

/-- R354, R352: `dline 300000` at TIME 0. -/
theorem test_dline : after (.dline (fl 0 0 0 300000)) (tile 16 5 1 9) (fun g => g.csrs.deadline == 0x80000000000493E0) = true := by decide +kernel

/-- 18: TILEID of a group on logical tile 5 that stands on physical tile 0x13. -/
theorem test_csrrd_tile : after (.csrrd (f3 4 0 16)) { tile 16 5 1 9 with teams := [{ team with ltile := 5 }], ptiles := [(5, 0x8000000000000013)] }
    (fun g => sOf g 4 == 0x13) = true := by decide +kernel

end Sys2Proof.Tests
end

section
/-! The words of the encoder, field by field, and the decoder on them (02 R13, R22 to R35, R40). -/
namespace Sys2Proof

/-! ### The fields of a word -/

/-- A bit field of a word as a number is the word's slice. -/
theorem bits_toNat (w : W32) (hi lo : Nat) : bits w.toNat hi lo = (w.extractLsb' lo (hi + 1 - lo)).toNat :=
  (BitVec.extractLsb'_toNat ..).symm

theorem Ops.len_lt (o : Ops) : o.len < 4 := by
  unfold Ops.len; split <;> split <;> decide

/-- Where each field stands in the first word (R24). The concatenation is taken apart width by width, so the sum in its
type has to stay as it is. -/
theorem encodeFirst_fields (maj min : Nat) (o : Ops) :
    (encodeFirst maj min o).getLsbD 31 = o.fs ∧
    (encodeFirst maj min o).extractLsb' 26 5 = BitVec.ofNat 5 min ∧
    (encodeFirst maj min o).extractLsb' 20 6 = o.b ∧
    (encodeFirst maj min o).extractLsb' 14 6 = o.a ∧
    (encodeFirst maj min o).extractLsb' 8 6 = o.d ∧
    (encodeFirst maj min o).extractLsb' 2 6 = BitVec.ofNat 6 maj ∧
    (encodeFirst maj min o).extractLsb' 0 2 = BitVec.ofNat 2 o.len := by
  simp (disch := decide) only [encodeFirst, BitVec.extractLsb'_append_eq_of_le,
    BitVec.extractLsb'_append_eq_of_add_le, BitVec.getLsbD_append, -Nat.reduceAdd]
  simp

theorem majOf_encodeFirst {maj : Nat} (min : Nat) (o : Ops) (h : maj < 64) : majOf (encodeFirst maj min o) = maj := by
  obtain ⟨-, -, -, -, -, hmaj, -⟩ := encodeFirst_fields maj min o
  rw [majOf, bits_toNat, hmaj, BitVec.toNat_ofNat, Nat.mod_eq_of_lt h]

theorem minOf_encodeFirst (maj : Nat) {min : Nat} (o : Ops) (h : min < 32) : minOf (encodeFirst maj min o) = min := by
  obtain ⟨-, hmin, -⟩ := encodeFirst_fields maj min o
  rw [minOf, bits_toNat, hmin, BitVec.toNat_ofNat, Nat.mod_eq_of_lt h]

theorem lenOf_encodeFirst (maj min : Nat) (o : Ops) : lenOf (encodeFirst maj min o) = o.len := by
  obtain ⟨-, -, -, -, -, -, hlen⟩ := encodeFirst_fields maj min o
  rw [lenOf, bits_toNat, hlen, BitVec.toNat_ofNat, Nat.mod_eq_of_lt o.len_lt]

theorem decodeExt_encodeExt (e : Ext) : decodeExt (encodeExt1 e) (encodeExt2 e) = e := by
  simp (disch := decide) only [decodeExt, encodeExt1, encodeExt2, BitVec.extractLsb'_append_eq_of_le,
    BitVec.extractLsb'_append_eq_of_add_le, BitVec.getLsbD_append, -Nat.reduceAdd]
  simp

/-- A literal is its two words (R13). -/
theorem literal_halves (l : BitVec 64) : l.extractLsb' 32 32 ++ l.extractLsb' 0 32 = l :=
  (BitVec.extractLsb'_append_extractLsb'_eq_extractLsb' (x := l) (start₁ := 0) (len₁ := 32) (len₂ := 32) rfl).trans
    BitVec.extractLsb'_eq_self

/-- The fields are read back whatever follows the words: LEN says which words are there (R22). -/
theorem decodeOps_encode (maj min : Nat) (o : Ops) (rest : List W32) :
    decodeOps (encodeFirst maj min o) (encodeRest o ++ rest) = some o := by
  obtain ⟨hfs, -, hb, ha, hd, -, -⟩ := encodeFirst_fields maj min o
  unfold decodeOps
  rw [lenOf_encodeFirst, hfs, hb, ha, hd]
  obtain ⟨fs, b, a, d, ext, lit⟩ := o
  cases ext <;> cases lit <;> simp [Ops.len, encodeRest, decodeExt_encodeExt, literal_halves]

theorem encodeRest_length (o : Ops) : (encodeRest o).length + 1 = o.words := by
  obtain ⟨fs, b, a, d, ext, lit⟩ := o
  cases ext <;> cases lit <;> rfl

/-! ### Clause headers (R35) -/

theorem decodeHeader_encodeHeader (h : Header) : decodeHeader (encodeHeader h) = h := by
  simp (disch := decide) only [decodeHeader, encodeHeader, BitVec.extractLsb'_append_eq_of_le,
    BitVec.extractLsb'_append_eq_of_add_le, -Nat.reduceAdd]
  simp

theorem majOf_encodeHeader (h : Header) : majOf (encodeHeader h) = 0x3F := by
  simp (disch := decide) only [majOf, bits_toNat, encodeHeader, BitVec.extractLsb'_append_eq_of_add_le]
  rfl

theorem lenOf_encodeHeader (h : Header) : lenOf (encodeHeader h) = 0 := by
  simp (disch := decide) only [lenOf, bits_toNat, encodeHeader, BitVec.extractLsb'_append_eq_of_add_le]
  rfl

theorem decode_encodeHeader (h : Header) (rest : List W32) :
    decode (encodeHeader h :: rest) = .ok (.clauseBoundary h, 1) := by
  simp [decode, majOf_encodeHeader, lenOf_encodeHeader, decodeHeader_encodeHeader]

/-! ### Opcodes that several constructors share

A fence kind, an operation of `fring` or a CSR number tells them apart. -/

@[simp] theorem Ops.xmodNat_eq_xm (o : Ops) : o.xmodNat = o.xm := rfl

/-- A CSR number to be read, by its two fields (R143, R377). -/
theorem csrNumA_eq {o : Ops} {n : Nat} (h : n < 4096) :
    csrNumA o = n ↔ o.a = BitVec.ofNat 6 (n / 64) ∧ o.b = BitVec.ofNat 6 (n % 64) := by
  unfold csrNumA; bv_omega

/-- A CSR number to be written, by its two fields. -/
theorem csrNumD_eq {o : Ops} {n : Nat} (h : n < 4096) :
    csrNumD o = n ↔ o.d = BitVec.ofNat 6 (n / 64) ∧ o.b = BitVec.ofNat 6 (n % 64) := by
  unfold csrNumD; bv_omega

theorem decodeMajMin_MV {o : Ops} {min : Nat} {i : Instr} (h : decodeMV o min = some i) :
    decodeMajMin 0x0c min o = .ok i := by
  simp only [decodeMajMin, h]

theorem decodeMajMin_MO {o : Ops} {min : Nat} {i : Instr} (h : decodeMO o min = some i) :
    decodeMajMin 0x16 min o = .ok i := by
  simp only [decodeMajMin, h]

theorem decodeMajMin_SY {o : Ops} {min : Nat} {i : Instr} (h : decodeSY o min = some i) :
    decodeMajMin 0x22 min o = .ok i := by
  simp only [decodeMajMin, h]

/-- A write of a user CSR that has no constructor of its own. -/
theorem decodeMV_csrwr {o : Ops} (h : (Instr.csrwr o).selected = true) : decodeMV o 10 = some (.csrwr o) := by
  simp only [decodeMV]
  split <;> simp_all [Instr.selected, csrNumD_eq]

/-- A write of a privileged CSR that has no constructor of its own. -/
theorem decodeSY_csrwrp {o : Ops} (h : (Instr.csrwrp o).selected = true) : decodeSY o 1 = some (.csrwrp o) := by
  simp only [decodeSY]
  split <;> simp_all [Instr.selected, csrNumD_eq]

/-! ### From an opcode back to its instruction -/

/-- What the decoder makes of the opcode and the fields of an instruction; `none` of a step without words. -/
noncomputable def Instr.reread (i : Instr) : Option (Except Reject Instr) :=
  i.ops.bind fun o => i.majMin.map fun m => decodeMajMin m.1 m.2 o

/-- The tables of the two opcodes and of the decoder agree (R40): by evaluation where a constructor has an opcode of its
own, by the field that selects it where it shares one. -/
theorem Instr.reread_eq {i : Instr} (hs : i.selected = true) : i.reread = i.ops.map fun _ => .ok i := by
  cases i
  case fenceSc o =>
    have h : o.xm ≠ 1 ∧ o.xm ≠ 2 ∧ o.xm ≠ 3 := by simpa [Instr.selected, and_assoc] using hs
    exact congrArg some (decodeMajMin_MO (by simp [decodeMO, h]))
  case fenceAcq o | fenceRel o | fenceAcqrel o =>
    simp only [Instr.selected, beq_iff_eq] at hs
    exact congrArg some (decodeMajMin_MO (by simp [decodeMO, hs]))
  case fringCons o =>
    have h : o.b.toNat ≠ 1 ∧ o.b.toNat ≠ 2 ∧ o.b.toNat ≠ 3 := by
      simp only [Instr.selected, Bool.and_eq_true, bne_iff_ne] at hs
      bv_omega
    exact congrArg some (decodeMajMin_SY (by simp [decodeSY, h]))
  case fringResume o | fringKill o | fringQuota o =>
    simp only [Instr.selected, beq_iff_eq] at hs
    exact congrArg some (decodeMajMin_SY (by simp [decodeSY, hs]))
  case flagsRead o =>
    have h : csrNumA o = 1 := by simpa [csrNumA_eq, Instr.selected] using hs
    exact congrArg some (decodeMajMin_MV (by simp [decodeMV, h]))
  case csrrd o =>
    have h : csrNumA o ≠ 1 := by simpa [csrNumA_eq, Instr.selected, imp_iff_not_or] using hs
    -- `h` rules out the number that has a constructor of its own
    exact congrArg some (decodeMajMin_MV (by simp [decodeMV]))
  case healthRead o =>
    have h : csrNumA o = 0x240 := by simpa [csrNumA_eq, Instr.selected] using hs
    exact congrArg some (decodeMajMin_SY (by simp [decodeSY, h]))
  case csrrdp o =>
    have h : csrNumA o ≠ 0x240 := by simpa [csrNumA_eq, Instr.selected, imp_iff_not_or] using hs
    -- `h` rules out the number that has a constructor of its own
    exact congrArg some (decodeMajMin_SY (by simp [decodeSY]))
  case winstatWrite o | flagsWrite o | spillbaseWrite o | trappcWrite o =>
    simp only [Instr.selected, Bool.and_eq_true, beq_iff_eq] at hs
    exact congrArg some (decodeMajMin_MV (by simp [decodeMV, csrNumD, hs]))
  case csrwr o => exact congrArg some (decodeMajMin_MV (decodeMV_csrwr hs))
  case turnPeriodWrite o | swallowWrite o | droopthWrite o | dampcfgWrite o | slewbudgetWrite o
      | placetabSelect o | healthWrite o | ctxpoolWrite o | collcfgWrite o =>
    simp only [Instr.selected, Bool.and_eq_true, beq_iff_eq] at hs
    exact congrArg some (decodeMajMin_SY (by simp [decodeSY, csrNumD, hs]))
  case quotaCsrWrite o | ringbaseWrite o =>
    simp only [Instr.selected, Bool.and_eq_true, Bool.or_eq_true, beq_iff_eq] at hs
    obtain ⟨hd, hb | hb⟩ := hs <;>
      exact congrArg some (decodeMajMin_SY (by simp [decodeSY, csrNumD, hd, hb]))
  case csrwrp o => exact congrArg some (decodeMajMin_SY (decodeSY_csrwrp hs))
  all_goals rfl

/-- The opcode fits its fields of the first word, is not the header's, and is reserved in neither part (R41). -/
noncomputable def opcodeKnown (m : Nat × Nat) : Bool :=
  decide (m.1 < 0x3F) && decide (m.2 < 32) && (decodeMajMin m.1 m.2 Machine.blankOps).isOk

theorem Instr.majMin_known (i : Instr) : i.majMin.all opcodeKnown = true := by
  cases i <;> rfl

/-- The decoder looks a known opcode up with blank fields first, which succeeds (R43 step 2). -/
theorem decodeMajMin_of_known {maj min : Nat} (hk : opcodeKnown (maj, min) = true) :
    maj < 0x3F ∧ min < 32 ∧ ∃ j, decodeMajMin maj min Machine.blankOps = .ok j := by
  simp only [opcodeKnown, Bool.and_eq_true, decide_eq_true_eq] at hk
  obtain ⟨⟨hmaj, hmin⟩, hok⟩ := hk
  refine ⟨hmaj, hmin, ?_⟩
  cases hd : decodeMajMin maj min Machine.blankOps with
  | ok j => exact ⟨j, rfl⟩
  | error r => simp [hd, Except.isOk, Except.toBool] at hok

theorem decode_encodeFirst {maj min : Nat} {o : Ops} {i : Instr} (hk : opcodeKnown (maj, min) = true)
    (h : decodeMajMin maj min o = .ok i) (rest : List W32) :
    decode (encodeFirst maj min o :: (encodeRest o ++ rest)) = .ok (i, o.words) := by
  obtain ⟨hmaj, hmin, j, hj⟩ := decodeMajMin_of_known hk
  have hblank : decodeMajMin maj min { fs := false, b := 0, a := 0, d := 0, ext := none, lit := none } = .ok j := hj
  rw [decode, majOf_encodeFirst min o (show maj < 64 by omega), minOf_encodeFirst maj o hmin, if_neg (by omega)]
  simp only [hblank, decodeOps_encode, h, lenOf_encodeFirst, Ops.words]

theorem encode_of_ops {i : Instr} {o : Ops} {maj min : Nat} (ho : i.ops = some o) (hm : i.majMin = some (maj, min)) :
    encode i = encodeFirst maj min o :: encodeRest o := by
  unfold encode
  split
  · cases ho
  · simp only [ho, hm]

/-- The decoder reads back an instruction that has words and carries the field its constructor stands for. -/
theorem decode_encode {i : Instr} {o : Ops} (ho : i.ops = some o) (hs : i.selected = true) (rest : List W32) :
    decode (encode i ++ rest) = .ok (i, (encode i).length) := by
  have hr := i.reread_eq hs
  simp only [Instr.reread, ho, Option.bind_some, Option.map_some, Option.map_eq_some_iff, Prod.exists] at hr
  obtain ⟨maj, min, hm, hd⟩ := hr
  have hk : opcodeKnown (maj, min) = true := by simpa [hm] using i.majMin_known
  rw [encode_of_ops ho hm, List.cons_append, decode_encodeFirst hk hd, List.length_cons, encodeRest_length]

theorem Instr.selected_of_wellFormed {i : Instr} {o : Ops} (ho : i.ops = some o) (hw : i.wellFormed = true) :
    i.selected = true := by
  simp only [Instr.wellFormed, ho, Bool.and_eq_true, and_assoc] at hw
  exact hw.1

/-- What is no event is a clause header or has the fields of an instruction. -/
theorem Instr.header_or_ops {i : Instr} (h : i.isEvent = false) :
    (∃ k, i = .clauseBoundary k) ∨ ∃ o, i.ops = some o := by
  unfold Instr.isEvent at h
  split at h
  · exact .inl ⟨_, rfl⟩
  · exact .inr (Option.isSome_iff_exists.mp (by simpa using h))

/-- Settles O48: a header by its one word, an instruction by its fields and by the agreement of the opcode tables. -/
theorem decodeInvertsEncode : Obligations.DecodeInvertsEncode := by
  intro i rest he hw
  rcases i.header_or_ops he with ⟨k, rfl⟩ | ⟨o, ho⟩
  · exact decode_encodeHeader k rest
  · exact decode_encode ho (i.selected_of_wellFormed ho hw) rest

/-- Settles O49: the decoder is run on each of the eight lists of words. -/
theorem decodedWords : Obligations.DecodedWords :=
  ⟨rfl, rfl, rfl, rfl, rfl, rfl, rfl, rfl⟩

end Sys2Proof
end

section
/-! What one step takes up (16 R295, R296, 02 R36, R43, R45), case by case. -/
namespace Sys2Proof.Machine
open Sys2Proof.Stated

/-! ### The four sources of a step -/

theorem step_agenda {s : State} {i : Instr} {l : List Instr} (h : s.agenda = i :: l) :
    step s = exec i { s with agenda := l } := by
  simp only [step, runStep, h]

theorem step_picked {s : State} {i : Instr} (ha : s.agenda = []) (hp : s.picked = some i) :
    step s = exec i (asked s) := by
  simp only [step, runStep, ha, hp, asked]

theorem step_clock {s : State} (ha : s.agenda = []) (hp : s.picked = none) (hq : s.issueq = [])
    (hr : s.aelmel.state = .run) : step s = exec .issueArbitration (asked s) := by
  simp only [step, runStep, ha, hp, asked, hq, runClock, hr]

theorem step_turn {s : State} {id : Nat} {rest : List Nat} (ha : s.agenda = []) (hp : s.picked = none)
    (hq : s.issueq = id :: rest) : step s = runContext exec id (asked s) := by
  simp only [step, runStep, ha, hp, asked, hq]

/-! ### The turn of a context -/

theorem turnOf_eq {s : State} {id : Nat} {rest : List Nat} (hq : s.issueq = id :: rest) :
    { asked s with issueq := (asked s).issueq.drop 1, cur := id } = turnOf s id rest := by
  simp only [turnOf, asked, hq, List.drop_one, List.tail_cons]

theorem runContext_boundary {s : State} {id : Nat} {rest : List Nat} {g : Group} (hq : s.issueq = id :: rest)
    (hg : (turnOf s id rest).group? id = some g) (hm : (turnOf s id rest).mayIssue g = true) (hc : g.clause = none) :
    runContext exec id (asked s) = afterHeader id (runBoundary exec g (turnOf s id rest)) := by
  simp only [runContext, turnOf_eq hq, hg, hm, hc, Bool.not_true, Bool.false_eq_true, if_false]

theorem runContext_clause {s : State} {id : Nat} {rest : List Nat} {g : Group} {cl : Clause}
    (hq : s.issueq = id :: rest) (hg : (turnOf s id rest).group? id = some g)
    (hm : (turnOf s id rest).mayIssue g = true) (hc : g.clause = some cl)
    (hs : (turnOf s id rest).stopsInSeq g cl = false) :
    runContext exec id (asked s) = runClause exec g cl (turnOf s id rest) := by
  simp only [runContext, turnOf_eq hq, hg, hm, hc, hs, Bool.not_true, Bool.false_eq_true, if_false]

theorem runClause_decoded {s u : State} {g : Group} {cl : Clause} {ws : List W32} {i : Instr} {n : Nat}
    (hf : s.fetchInstr g cl.next = (u, .ok ws)) (hd : decode ws = .ok (i, n)) :
    runClause exec g cl s = u.arbitrate g (u.lanesFor g cl ws) (exec i u) := by
  simp only [runClause, hf, hd]

theorem runBoundary_header {s u : State} {g h : Group} {addr : W64} {set : Mask} {w : W32}
    (hb : g.boundary = (h, some (addr, set))) (hs : s.stopsHere h = false) (hd : s.boundaryDue h = none)
    (hf : s.fetchWord h addr = (u, .ok w)) (hw : headerBad w = none) :
    runBoundary exec g s = exec (.clauseBoundary (decodeHeader w)) u := by
  simp only [runBoundary, hb, hs, hd, hf, hw, Option.isSome_none, Bool.or_self, Bool.false_eq_true, if_false]

/-- The turn of a context inside a clause: its instruction, arbitrated. -/
theorem step_in_clause {s u : State} {id : Nat} {rest : List Nat} {g : Group} {cl : Clause} {ws : List W32} {i : Instr}
    {n : Nat} (ha : s.agenda = []) (hp : s.picked = none) (hq : s.issueq = id :: rest)
    (hg : (turnOf s id rest).group? id = some g) (hm : (turnOf s id rest).mayIssue g = true) (hc : g.clause = some cl)
    (hs : (turnOf s id rest).stopsInSeq g cl = false) (hf : (turnOf s id rest).fetchInstr g cl.next = (u, .ok ws))
    (hd : decode ws = .ok (i, n)) : step s = u.arbitrate g (u.lanesFor g cl ws) (exec i u) := by
  rw [step_turn ha hp hq, runContext_clause hq hg hm hc hs, runClause_decoded hf hd]

/-! ### Arbitration (R295, R345, R349) -/

/-- The clock is muted in the cluster where the group stands (R349). -/
def State.mutes (s : State) (g : Group) : Bool :=
  match s.groupTile g with
  | some t => s.muted.contains (clusterOf t)
  | none => false

theorem State.mutes_iff (s : State) (g : Group) :
    s.mutes g = true ↔ ∃ p, s.groupTile g = some p ∧ clusterOf p ∈ s.muted := by
  unfold State.mutes
  cases s.groupTile g <;> simp

theorem passedOver_eq (s : State) (g : Group) (k : Nat) :
    s.passedOver g k =
      if s.mutes g then some s
      else if s.quartersTaken g then some (s.onGroup g.id fun h => { h with lost := h.lost + 1 })
      else if s.slewHolds g k then some s else none := rfl

/-- A stoker core is not arbitrated. -/
theorem arbitrate_core {s : State} {g : Group} (h : g.core.isSome = true) (k : Nat) (r : Out) :
    s.arbitrate g k r = r := by
  simp only [State.arbitrate, h, if_true]

/-- A tile group that nothing keeps from issuing. -/
theorem arbitrate_free {s : State} {g : Group} {k : Nat} (hc : g.core = none) (h : s.passedOver g k = none) (r : Out) :
    s.arbitrate g k r = match r with
      | .next t => .next (if t.hasIssued g.id then (t.spend g k).ageLater g else t.ageLater g)
      | r => r := by
  simp only [State.arbitrate, hc, h, Option.isSome_none, Bool.false_eq_true, if_false]
  cases r <;> rfl

/-- A tile group that a muted clock, a taken quarter or its partition's budget keeps from issuing. -/
theorem arbitrate_kept {s t : State} {g : Group} {k : Nat} (hc : g.core = none)
    (h : s.mutes g = true ∨ s.quartersTaken g = true ∨ s.slewHolds g k = true) :
    s.arbitrate g k (.next t) = .next (if t.unready g.id then t.ageLater g
      else if s.mutes g then s
      else if s.quartersTaken g then s.onGroup g.id fun h => { h with lost := h.lost + 1 }
      else s) := by
  have hp : s.passedOver g k = some (if s.mutes g then s
      else if s.quartersTaken g then s.onGroup g.id fun h => { h with lost := h.lost + 1 } else s) := by
    rw [passedOver_eq]
    split_ifs <;> simp_all
  simp only [State.arbitrate, hc, hp, Option.isSome_none, Bool.false_eq_true, if_false]

/-! ### A fetch (R13, R45) -/

theorem toNat_append_add {v w : Nat} (x : BitVec v) (y : BitVec w) : (x ++ y).toNat = x.toNat * 2 ^ w + y.toNat := by
  rw [BitVec.toNat_append, ← Nat.shiftLeft_add_eq_or_of_lt y.isLt, Nat.shiftLeft_eq]

/-- Four bytes as a word, little-endian. -/
theorem w32_bytesNat (b0 b1 b2 b3 : Byte) : w32 (bytesNat [b0, b1, b2, b3]) = b3 ++ b2 ++ b1 ++ b0 := by
  apply BitVec.eq_of_toNat_eq
  rw [toNat_append_add, toNat_append_add, toNat_append_add]
  simp only [w32, bytesNat, BitVec.toNat_ofNat]
  omega

theorem fetchWord_ok {s u : State} {g : Group} {a : W64} {pa attr : Nat}
    (ht : s.translate (s.agent g) a 4 .fetch none = (u, .ok pa attr)) (hr : regUnknown pa 4 = false)
    (hb : u.badRead pa 4 = false) :
    s.fetchWord g a = (u, .ok (u.home (pa + 3) ++ u.home (pa + 2) ++ u.home (pa + 1) ++ u.home pa)) := by
  have hw : u.homeRead pa 4 = [u.home pa, u.home (pa + 1), u.home (pa + 2), u.home (pa + 3)] := rfl
  simp only [State.fetchWord, ht, hr, hb, hw, w32_bytesNat, Bool.false_eq_true, if_false]

/-- Settles O50: each source of a step by its own lemma, and inside a clause by the three cases of arbitration. -/
theorem stepRunsDecodedInstruction : Obligations.StepRunsDecodedInstruction := by
  refine ⟨fun s i l h => step_agenda h, fun s ha => ⟨fun hq hr => ?_, fun i hp => step_picked ha hp⟩, ?_, ?_,
    fun s u g a pa attr ht hr hb => fetchWord_ok ht hr hb⟩
  · cases hp : s.picked with
    | none => exact step_clock ha hp hq hr
    | some i => exact step_picked ha hp
  · intro s u id rest g cl ws i n ha hp hq v hg hm hc hs hf hd k muted
    have hmute : u.mutes g = true ↔ muted := u.mutes_iff g
    rw [step_in_clause ha hp hq hg hm hc hs hf hd]
    refine ⟨fun hcore => arbitrate_core hcore _ _, fun hcore hnm hnq hns => ?_, fun t hcore hkept ht => ?_⟩
    · have hfree : u.passedOver g k = none := by simp [passedOver_eq, hmute, hnm, hnq, hns]
      rw [arbitrate_free hcore hfree]
      exact ⟨fun t ht hi => by simp [ht, hi], fun t ht hi => by simp [ht, hi], fun f hf => by simp [hf]⟩
    · rw [ht, arbitrate_kept hcore (by rwa [hmute])]
      refine ⟨fun hu => ?_, fun hu hmu => ?_, fun hu hnm hqt => ?_, fun hu _ hqt => ?_⟩
      · simp [hu]
      · simp [hu, hmute, hmu]
      · simp [hu, hmute, hnm, hqt]
      · simp [hu, hqt]
  · intro s u id rest g h addr set w ha hp hq v hg hm hc hb hs hd hf hw
    rw [step_turn ha hp hq, runContext_boundary hq hg hm hc, runBoundary_header hb hs hd hf hw]

end Sys2Proof.Machine
end

section
/-! Where the control transfers of 06 R150, R151 send their lanes. -/
namespace Sys2Proof.Machine
open Sys2Proof.Stated

/-! ### What issuing comes to, by the outcome of the body -/

section
variable {s t : State} {maj min : Nat} {o : Ops} {g : Group} {cl : Clause} {body : Ctx → State → Res}

/-- A body that makes its effect: the group moves on. -/
theorem issue_ok {u : State} (h : Clear s maj min o g cl t) (hb : body (s.ctx maj min o g cl) t = .ok u) :
    issue maj min o body s = .next ((s.ctx maj min o g cl).done u) := by
  rw [issue_body h (by simp [hb]) (by simp [hb]), hb, settle_ok]

/-- A body whose effect leaves the group where it is. -/
theorem issue_stay {u : State} (h : Clear s maj min o g cl t) (hb : body (s.ctx maj min o g cl) t = .stay u) :
    issue maj min o body s = .next u := by
  rw [issue_body h (by simp [hb]) (by simp [hb]), hb]
  rfl

/-- A body that refuses with a trap other than FMTX. -/
theorem issue_trap {k : Cause} {v : W64} (h : Clear s maj min o g cl t) (hk : k ≠ .fmtx)
    (hb : body (s.ctx maj min o g cl) t = .trap k v) :
    issue maj min o body s = .next (t.raise g.id ((s.ctx maj min o g cl).trapAt k v)) := by
  rw [issue_body h (by simp [hb, hk]) (by simp [hb]), hb]
  rfl

end

/-! ### Targets (R26, R137, R151) -/

/-- Clearing the two low bits of an aligned address changes nothing. -/
theorem and_not_three {a : W64} (h : a.toNat % 4 = 0) : a &&& ~~~3#64 = a := by
  apply BitVec.eq_of_getLsbD_eq
  intro i hi
  rw [BitVec.getLsbD_and, BitVec.getLsbD_not]
  match i with
  | 0 => have : a.toNat.testBit 0 = false := by simp only [Nat.testBit_zero, decide_eq_false_iff_not]; omega
         simp [BitVec.getLsbD, this]
  | 1 => have : a.toNat.testBit 1 = false := by simp only [Nat.testBit_succ, Nat.testBit_zero, decide_eq_false_iff_not]; omega
         simp [BitVec.getLsbD, this]
  | i + 2 => have : Nat.testBit 3 (i + 2) = false := by simp [Nat.testBit_succ]
             simp [BitVec.getLsbD, this, hi]

theorem toInt_sextN {n x : Nat} (h : n ≤ 64) : (sextN n x).toInt = (BitVec.ofNat n x).toInt :=
  BitVec.toInt_signExtend_of_le h

/-- The word offset, as the statements name it. -/
theorem Ctx.offset_toInt (c : Ctx) :
    c.offset.toInt = match c.o.lit with | some l => l.toInt | none => (BitVec.ofNat 18 c.imm18).toInt := by
  unfold Ctx.offset
  cases c.o.lit with
  | some l => rfl
  | none => exact toInt_sextN (by decide)

/-- The exact target of an offset from an aligned address, and its two low bits are clear. -/
theorem Ctx.target_of_branchTo {c : Ctx} {a : W64} (hn : c.cl.next.toNat % 4 = 0) (h : branchTo c a) :
    c.target = a ∧ a &&& ~~~3#64 = a := by
  have hz : (a.toNat : Int) = c.cl.next.toNat + 4 * c.offset.toInt := by rw [Ctx.offset_toInt]; exact h
  have ha : a &&& ~~~3#64 = a := and_not_three (by omega)
  have hlt := a.isLt
  refine ⟨?_, ha⟩
  unfold Ctx.target
  simp only [← hz]
  rw [if_pos (by simp; omega), w64, Int.toNat_natCast, BitVec.ofNat_toNat, BitVec.setWidth_eq, ha]

/-- An address of the group's CODEHI has no bit above 51. -/
theorem Group.sameHi_high {g : Group} {a : W64} (h : g.sameHi a = true) : fld a 63 52 = 0 := by
  simp only [Group.sameHi, Bool.and_eq_true, beq_iff_eq] at h
  exact h.1

theorem fld_high_of_lt {a : W64} (h : a.toNat < 2 ^ 52) : fld a 63 52 = 0 := by
  simp only [fld, bits]
  omega

/-! ### Sending lanes -/

/-- A transfer whose targets have the group's CODEHI, and whose other checks pass, leaves its targets in the clause. -/
theorem Ctx.goTo_ok {c : Ctx} {s : State} {ts : List (Nat × W64)} {more : List (Bool × (Cause × W64))} {f : Group → Group}
    (h : ∀ p ∈ ts, c.g.sameHi p.2 = true) (hm : firstFail more = none) :
    c.goTo s ts more f = .ok (c.upd s fun g => { f g with clause := (f g).clause.map fun k => { k with targets := ts } }) := by
  have hb : badHi c.g (ts.map fun p => p.2) = false := by simpa [badHi] using h
  exact guarded_pass fun _ => by simp [firstFail, hb, hm]

theorem Ctx.goTo_all {c : Ctx} {s : State} {l : List Nat} {a : W64} {more : List (Bool × (Cause × W64))} {f : Group → Flow}
    (h : c.g.sameHi a = true) (hm : firstFail more = none) :
    c.goTo s (toAll l a) more (fun g => { g with flow := f g }) = .ok (sendTo s c.g l a f) :=
  Ctx.goTo_ok (by simp [toAll, h]) hm

/-- `once`, where a lane executes. -/
theorem once_of_anyLane {c : Ctx} {s : State} {r : Res} (h : c.anyLane = true) : c.once s r = r := by
  simp [Ctx.once, h]

/-- `call` and `calli` at user level, below the 17th link. -/
theorem Ctx.callTo_ok {c : Ctx} {s : State} {a b : W64} (hgo : MayGo c s c.g a) (htl : c.g.flow.tl = false)
    (hl : c.g.flow.links.length < 16) (hb : fld b 63 52 = 0) (hab : b &&& ~~~3#64 = a) :
    c.callTo s b = .ok (sendTo s c.g c.lanes a fun h => { h.flow with
      links := { ret := c.after, step := 0 } :: h.flow.links
      fl := (List.range h.width).map fun i => if c.act.getLsbD i then h.flow.links.length + 1 else h.flow.fl.getD i 0 }) := by
  obtain ⟨hr, ha, hs⟩ := hgo
  have hw : firstFail [(decide (16 ≤ c.g.ldepth), ((.wovf, w64 (2 ^ 60)) : Cause × W64))] = none := by
    simp [firstFail, Group.ldepth, Nat.not_le.mpr hl]
  rw [Ctx.callTo, rlxGate_pass hr, guarded_pass (by simp [firstFail, htl]), once_of_anyLane ha,
    guarded_pass (by simp [firstFail, hb]), hab]
  exact Ctx.goTo_all hs hw

/-- `ret` at user level, from a frame. -/
theorem ret_ok {c : Ctx} {s : State} {e : LinkEntry} {l : List LinkEntry} (hgo : MayGo c s c.g e.ret)
    (htl : c.g.flow.tl = false) (hl : c.g.flow.links = e :: l) :
    ret c s = .ok (sendTo s c.g c.lanes e.ret fun h => { h.flow with
      fl := (List.range h.width).map fun i => if c.act.getLsbD i then h.flow.links.length - 1 else h.flow.fl.getD i 0 }) := by
  obtain ⟨hr, ha, hs⟩ := hgo
  rw [ret, rlxGate_pass hr, guarded_pass (by simp [firstFail, htl]), once_of_anyLane ha, hl]
  exact Ctx.goTo_all hs rfl

/-- Settles O22: every transfer is `goTo` behind checks that pass; the targets are exact since the clause stands at a
word boundary. -/
theorem transfersSendLanes : Obligations.TransfersSendLanes := by
  refine ⟨fun o s g cl t a hc => ?_, fun o s g cl t a hc => ?_, fun mk m hm o s g cl t a hc => ?_,
    fun o s g cl t e l hc => ?_⟩
  · intro c hn hb hgo
    obtain ⟨hr, ha, hs⟩ := hgo
    exact issue_ok hc (by
      rw [rlxGate_pass hr, once_of_anyLane ha, (Ctx.target_of_branchTo hn hb).1]
      exact Ctx.goTo_all (f := Group.flow) hs rfl)
  · intro c hn hb hgo
    obtain ⟨hr, ha, hs⟩ := hgo
    exact issue_ok hc (by
      rw [rlxGate_pass hr, once_of_anyLane ha, (Ctx.target_of_branchTo hn hb).1]
      exact Ctx.goTo_all (f := Group.flow) hs rfl)
  · intro c h2 h3 hgo htl hl
    simp only [List.mem_cons, Prod.mk.injEq, List.not_mem_nil, or_false] at hm
    rcases hm with ⟨rfl, rfl⟩ | ⟨rfl, rfl⟩
    · obtain ⟨ht, ha⟩ := Ctx.target_of_branchTo (h2 rfl).1 (h2 rfl).2
      have hcall := Ctx.callTo_ok hgo htl hl (Group.sameHi_high hgo.2.2) ha
      exact issue_ok hc (by rw [ht]; exact hcall)
    · obtain ⟨ha, hlt⟩ := h3 rfl
      exact issue_ok hc (Ctx.callTo_ok hgo htl hl (fld_high_of_lt hlt) ha.symm)
  · intro c hgo htl hl
    exact issue_ok hc (ret_ok hgo htl hl)

end Sys2Proof.Machine
end

section
/-! What `eret` restores, and where it leaves the entries that the handler found in the log (21 R362, R365). -/
namespace Sys2Proof.Machine
open Sys2Proof.Stated

/-! ### Program order -/

theorem byTurn_eq_insertionSort (l : List LogEntry) : byTurn l = l.insertionSort fun e f => e.turn ≤ f.turn := by
  have h : ∀ (e : LogEntry) (l : List LogEntry), insertByTurn e l = l.orderedInsert (fun e f => e.turn ≤ f.turn) e := by
    intro e l
    induction l with
    | nil => rfl
    | cons f t ih => simp only [insertByTurn, List.orderedInsert, ih]
  induction l with
  | nil => rfl
  | cons e t ih => rw [List.insertionSort_cons, ← ih, ← h]; rfl

theorem byTurn_perm (l : List LogEntry) : (byTurn l).Perm l := by
  rw [byTurn_eq_insertionSort]
  exact List.perm_insertionSort _ l

theorem byTurn_sorted (l : List LogEntry) : (byTurn l).Pairwise fun e f => e.turn ≤ f.turn := by
  have : Std.Total fun e f : LogEntry => e.turn ≤ f.turn := ⟨fun e f => Nat.le_total e.turn f.turn⟩
  have : IsTrans LogEntry fun e f => e.turn ≤ f.turn := ⟨fun _ _ _ => Nat.le_trans⟩
  rw [byTurn_eq_insertionSort]
  exact List.pairwise_insertionSort _ l

/-! ### The last places (R365) -/

/-- An entry after the entries of `l` have taken, in this order, the places from `n` on. -/
def standsLast (l : List LogEntry) (n : Nat) (e : LogEntry) : LogEntry :=
  if e ∈ l then { e with again := n + l.idxOf e } else e

theorem standsLast_id (l : List LogEntry) (n : Nat) (e : LogEntry) : (standsLast l n e).id = e.id := by
  unfold standsLast; split <;> rfl

/-- An entry after the entry `f` has taken the place `n`. -/
def takesPlace (f : LogEntry) (n : Nat) (e : LogEntry) : LogEntry := if e.id == f.id then { f with again := n } else e

theorem takesPlace_id (f : LogEntry) (n : Nat) (e : LogEntry) : (takesPlace f n e).id = e.id := by
  by_cases h : e.id = f.id <;> simp [takesPlace, h]

theorem takesPlace_ne {f e : LogEntry} (n : Nat) (h : e.id ≠ f.id) : takesPlace f n e = e := by
  simp [takesPlace, h]

theorem State.standLast_cons (f : LogEntry) (l : List LogEntry) (s : State) :
    s.standLast (f :: l) =
      State.standLast { s with nextId := s.nextId + 1, log := s.log.map (takesPlace f s.nextId) } l := rfl

/-- The log after entries of it have taken the last places, where each number stands once. -/
theorem State.standLast_log (l : List LogEntry) (s : State) (hs : (s.log.map fun e => e.id).Nodup) (hl : l.Nodup)
    (hsub : l ⊆ s.log) : (s.standLast l).log = s.log.map (standsLast l s.nextId) := by
  induction l generalizing s with
  | nil =>
    have : standsLast [] s.nextId = id := funext fun e => by simp [standsLast]
    rw [this, List.map_id]
    rfl
  | cons f l ih =>
    obtain ⟨hfl, hl'⟩ := List.nodup_cons.mp hl
    have hinj := List.inj_on_of_nodup_map hs
    have hf : f ∈ s.log := hsub List.mem_cons_self
    have hstay : ∀ e ∈ s.log, e ≠ f → takesPlace f s.nextId e = e := fun e he hne =>
      takesPlace_ne _ fun h => hne (hinj he hf h)
    have hids : ((s.log.map (takesPlace f s.nextId)).map fun e => e.id) = s.log.map fun e => e.id := by
      rw [List.map_map]
      exact List.map_congr_left fun e _ => takesPlace_id f s.nextId e
    have hsub' : l ⊆ s.log.map (takesPlace f s.nextId) := fun e he => by
      have hes : e ∈ s.log := hsub (List.mem_cons_of_mem f he)
      exact List.mem_map.mpr ⟨e, hes, hstay e hes fun h => hfl (h ▸ he)⟩
    rw [State.standLast_cons, ih _ (hids ▸ hs) hl' hsub', List.map_map]
    refine List.map_congr_left fun e he => ?_
    by_cases hef : e = f
    · subst hef
      have hnot : { e with again := s.nextId } ∉ l := fun h => by
        have := hinj (hsub (List.mem_cons_of_mem e h)) hf rfl
        exact hfl (this ▸ h)
      simp [takesPlace, standsLast, hnot]
    · simp only [Function.comp, hstay e he hef, standsLast, List.mem_cons, hef, false_or,
        List.idxOf_cons_ne _ (Ne.symm hef)]
      split
      · congr 1; omega
      · rfl

/-- The entries that the handler of `g` found, in program order. -/
def foundEntries (s : State) (grp : Nat) : List LogEntry := byTurn (s.log.filter fun e => e.grp == grp && !e.tlevel)

theorem mem_foundEntries {s : State} {g : Group} {e : LogEntry} :
    e ∈ foundEntries s g.id ↔ e ∈ s.log ∧ foundBy g e := by
  simp [foundEntries, (byTurn_perm _).mem_iff, foundBy]

theorem foundEntries_sorted {s : State} {id : Nat} : (foundEntries s id).Pairwise fun e f => e.turn ≤ f.turn :=
  byTurn_sorted _

section
variable {t : State} {g : Group} (hids : (t.log.map fun e => e.id).Nodup)
include hids

theorem foundEntries_nodup : (foundEntries t g.id).Nodup :=
  (byTurn_perm _).nodup_iff.mpr (hids.of_map _ |>.filter _)

theorem behindHandler_log :
    (t.behindHandler g.id).log = t.log.map (standsLast (foundEntries t g.id) t.nextId) :=
  t.standLast_log _ hids (foundEntries_nodup hids) fun _ he => (mem_foundEntries.mp he).1

theorem behindHandler_ids : ((t.behindHandler g.id).log.map fun e => e.id) = t.log.map fun e => e.id := by
  rw [behindHandler_log hids, List.map_map]
  exact List.map_congr_left fun e _ => standsLast_id _ _ e

/-- What the handler did not find stays as it is. -/
theorem behindHandler_kept {e : LogEntry} (he : e ∈ t.log) (hf : ¬ foundBy g e) : e ∈ (t.behindHandler g.id).log := by
  rw [behindHandler_log hids]
  have hst : standsLast (foundEntries t g.id) t.nextId e = e := by
    rw [standsLast, if_neg fun h => hf (mem_foundEntries.mp h).2]
  exact List.mem_map.mpr ⟨e, he, hst⟩

omit hids in
theorem standsLast_found {e : LogEntry} (he : e ∈ t.log) (hf : foundBy g e) :
    standsLast (foundEntries t g.id) t.nextId e = { e with again := t.nextId + (foundEntries t g.id).idxOf e } := by
  rw [standsLast, if_pos (mem_foundEntries.mpr ⟨he, hf⟩)]

/-- What it found stands at its place from the next number on, and nowhere else. -/
theorem behindHandler_found {e : LogEntry} {m : Nat} (he : e ∈ t.log) (hf : foundBy g e) :
    { e with again := m } ∈ (t.behindHandler g.id).log ↔ m = t.nextId + (foundEntries t g.id).idxOf e := by
  rw [behindHandler_log hids, List.mem_map]
  constructor
  · rintro ⟨x, hx, hxe⟩
    have hid : x.id = e.id := by rw [← standsLast_id (foundEntries t g.id) t.nextId x, hxe]
    have hxe' : x = e := List.inj_on_of_nodup_map hids hx he hid
    rw [hxe', standsLast_found he hf] at hxe
    exact (congrArg LogEntry.again hxe).symm
  · rintro rfl
    exact ⟨e, he, standsLast_found he hf⟩

end

/-- Among the found, an earlier turn is an earlier place. -/
theorem idxOf_found_lt {t : State} {g : Group} {e f : LogEntry} (he : e ∈ t.log) (hfe : foundBy g e)
    (h : e.turn < f.turn) : (foundEntries t g.id).idxOf e < (foundEntries t g.id).idxOf f := by
  by_contra hle
  have hel : (foundEntries t g.id).idxOf e < (foundEntries t g.id).length :=
    List.idxOf_lt_length_of_mem (mem_foundEntries.mpr ⟨he, hfe⟩)
  have hfl : (foundEntries t g.id).idxOf f < (foundEntries t g.id).length := by omega
  rcases Nat.lt_or_eq_of_le (Nat.not_lt.mp hle) with hlt | heq
  · have := List.pairwise_iff_getElem.mp foundEntries_sorted _ _ hfl hel hlt
    rw [List.getElem_idxOf, List.getElem_idxOf] at this
    omega
  · have h1 := List.getElem_idxOf hel
    have h2 := List.getElem_idxOf hfl
    have : e = f := by rw [← h1, ← h2]; simp only [heq]
    subst this
    omega

/-! ### The return (R362) -/

/-- Without a replay and without QUOTA, the return is the one of the log and of the group. -/
theorem State.returnFrom_plain {s : State} {g : Group} {f : Frame} (hr : f.trap.replay = none) (hq : f.trap.cause ≠ .quota) :
    s.returnFrom g f = (s.behindHandler g.id).onGroup g.id fun h => h.leaveHandler f := by
  simp [State.returnFrom, State.replayOf, hr, hq]

theorem Group.resumesAt_eq {g : Group} {f : Frame} (hf : g.frame = some f) :
    g.resumesAt = if f.pcWritten = true ∧ (f.trap.lanes &&& ~~~g.flow.exited) ≠ 0 then some g.csrs.trappc else none := by
  simp [Group.resumesAt, hf]

/-- `eret` that resumes at no written TRAPPC, or at one of the group's CODEHI. -/
theorem eret_returns {c : Ctx} {s : State} {f : Frame} (ha : c.anyLane = true) (hf : c.g.frame = some f)
    (h : ∀ pc, c.g.resumesAt = some pc → c.g.sameHi pc = true) : eret c s = .stay (s.returnFrom c.g f) := by
  rw [eret, once_of_anyLane ha, hf]
  cases hp : c.g.resumesAt with
  | none => rfl
  | some pc => simp [h pc hp]

theorem eret_refused {c : Ctx} {s : State} {f : Frame} {pc : W64} (ha : c.anyLane = true) (hf : c.g.frame = some f)
    (hp : c.g.resumesAt = some pc) (h : c.g.sameHi pc = false) : eret c s = .trap .illop 0x0D := by
  rw [eret, once_of_anyLane ha, hf]
  simp only [hp, h]
  rfl

/-- An element of a list by number, of a list given by its numbers. -/
theorem getD_map_range {α : Type} {w i : Nat} (f : Nat → α) (d : α) (h : i < w) : ((List.range w).map f).getD i d = f i := by
  simp [h]

/-- What the group is as it leaves its handler. -/
theorem Group.leaveHandler_facts (g : Group) (f : Frame) :
    (g.leaveHandler f).flow.tl = false ∧ (g.leaveHandler f).frame = none ∧ (g.leaveHandler f).flow.fl = f.fl ∧
    (g.leaveHandler f).regs = g.regs ∧ (g.leaveHandler f).csrs = g.csrs := by
  unfold Group.leaveHandler
  dsimp only
  split_ifs <;> exact ⟨rfl, rfl, rfl, rfl, rfl⟩

theorem Group.leaveHandler_lpc {g : Group} {f : Frame} (h : f.pcWritten = false) : (g.leaveHandler f).flow.lpc = f.lpc := by
  simp only [Group.leaveHandler, h, Bool.false_eq_true, if_false]
  split_ifs <;> rfl

theorem Group.leaveHandler_clause {g : Group} {f : Frame} (h : f.pcWritten = false) (hr : f.trap.replay = none)
    (hb : f.trap.boundary = false) : (g.leaveHandler f).clause = f.trap.clause := by
  simp [Group.leaveHandler, h, hr, hb]

theorem Group.leaveHandler_trappc {g : Group} {f : Frame} (h : f.pcWritten = true) {i : Nat} (hi : i < g.width) :
    (g.leaveHandler f).flow.lpc.getD i 0 =
      if f.trap.lanes.getLsbD i = true ∧ g.flow.exited.getLsbD i = false then lpcOf g.csrs.trappc else f.lpc.getD i 0 := by
  simp only [Group.leaveHandler, h, if_true]
  rw [getD_map_range _ _ hi]
  simp only [Bool.and_eq_true, Bool.not_eq_true']

/-- Settles O21: the three outcomes by where the group resumes, the log by the places that `standLast` gives. -/
theorem trapReturn : Obligations.TrapReturn := by
  intro o s g cl t f hc hf c ha hr hq
  have hres : c.g.resumesAt = _ := Group.resumesAt_eq hf
  have hret (h : ∀ pc, c.g.resumesAt = some pc → c.g.sameHi pc = true) :
      exec (.eret o) s = .next ((t.behindHandler g.id).onGroup g.id fun h => h.leaveHandler f) := by
    rw [← State.returnFrom_plain hr hq]
    exact issue_stay hc (eret_returns ha hf h)
  refine ⟨fun hw => hret fun pc hp => ?_, fun hw hl hs => hret fun pc hp => ?_, fun hw hl hs => ?_, ?_, ?_⟩
  · rw [hres, if_neg (by simp [hw])] at hp
    cases hp
  · rw [hres, if_pos ⟨hw, hl⟩] at hp
    cases hp
    exact hs
  · exact issue_trap hc (by decide) (eret_refused ha hf (hres.trans (if_pos ⟨hw, hl⟩)) hs)
  · intro b hids hturn
    refine ⟨t.behindHandler_frame g.id, behindHandler_ids hids, fun e he hfe => behindHandler_kept hids he hfe,
      fun e he hfe => ⟨_, Nat.le_add_right _ _, (behindHandler_found hids he hfe).mpr rfl, fun x hx _ => ?_,
        fun x hx m hfx hm hlt => ?_⟩⟩
    · exact Nat.lt_of_lt_of_le (hturn x hx) (Nat.le_trans (Nat.le_add_right _ _) (Nat.le_max_right _ _))
    · have := idxOf_found_lt he hfe hlt
      rw [(behindHandler_found hids hx hfx).mp hm]
      omega
  · obtain ⟨htl, hframe, hfl, hregs, hcsrs⟩ := g.leaveHandler_facts f
    exact ⟨htl, hframe, hfl, hregs, hcsrs, Group.leaveHandler_lpc, fun hw => Group.leaveHandler_clause hw hr,
      fun hw i hi => Group.leaveHandler_trappc hw hi⟩

end Sys2Proof.Machine
end

section
/-! The checks and stalls in front of every instruction's own (02 R42, R43, R38, R39, 21 R364, R365). -/
namespace Sys2Proof.Machine
open Sys2Proof.Stated

/-- Every instruction with operands issues with the numbers of its encoding, and some body. -/
theorem exec_issues {i : Instr} {o : Ops} {maj min : Nat} (ho : i.ops = some o) (hm : i.majMin = some (maj, min)) :
    ∃ body, ∀ s, exec i s = issue maj min o body s := by
  cases i with
  | sel _ => cases ho; cases hm; exact ⟨selV, fun _ => rfl⟩
  | rdlpc _ => cases ho; cases hm; exact ⟨rdlpc, fun _ => rfl⟩
  | _ => cases ho <;> cases hm <;> exact ⟨_, fun _ => rfl⟩

/-- A context that may not issue does nothing. -/
theorem issue_not_ready {s : State} {g : Group} {cl : Clause} (hg : s.group? s.cur = some g) (hc : g.clause = some cl)
    (hr : s.mayIssue g = false) (maj min : Nat) (o : Ops) (body : Ctx → State → Res) : issue maj min o body s = .next s := by
  simp [issue, hg, hc, hr]

/-! ### What the shared checks answer, by the first that refuses -/

section
variable {s t : State} {c : Ctx}

theorem preIssue_fields {p : Cause × W64} (h : decodeChecks (s.matrixOf c.g) c = some p) :
    s.preIssue c = (s, some (.ofPair p)) := by
  simp [State.preIssue, h]

theorem preIssue_privilege {p : Cause × W64} (hd : decodeChecks (s.matrixOf c.g) c = none) (hh : s.headerChecks c = (t, none))
    (h : privilegeChecks c = some p) : s.preIssue c = (t, some (.ofPair p)) := by
  simp [State.preIssue, hd, hh, h]

theorem preIssue_stall {w : Stall} (hd : decodeChecks (s.matrixOf c.g) c = none) (hh : s.headerChecks c = (t, none))
    (hp : privilegeChecks c = none) (hl : placeChecks t c = none) (hr : residencyChecks c = none) (hq : t.quotaHeld c = none)
    (h : t.stallOf c = some w) : s.preIssue c = (t, some (.stall w)) := by
  simp [State.preIssue, hd, hh, hp, hl, hr, hq, h]

/-- R42, R32: SY below privileged level, `eret` at user level and ABS at user level have one reason. -/
theorem privilegeChecks_refuse
    (h : (c.maj = 0x22 ∧ c.g.core = none ∧ (c.min ≠ 2 ∨ c.g.flow.tl = false)) ∨
      (c.e.abs = true ∧ c.g.core = none ∧ c.g.flow.tl = false)) : privilegeChecks c = some (illop 0x0B) := by
  rcases h with ⟨hm, hc, hn | ht⟩ | ⟨ha, hc, ht⟩
  · simp [privilegeChecks, firstFail, hm, hc, hn]
  · by_cases hn : c.min = 2 <;> simp [privilegeChecks, firstFail, hm, hc, hn, ht]
  · simp [privilegeChecks, firstFail, ha, hc, ht]

/-- A destination still to be written, of an instruction that is not held behind another. -/
theorem stallOf_dest (hw : s.waitersOf c.g = []) (h : s.destBusy c.g c.dests = true) : s.stallOf c = some .dest := by
  simp [State.stallOf, hw, h]

/-- A full operand log, where nothing else holds the instruction. -/
theorem stallOf_logFull (hw : s.waitersOf c.g = []) (hd : s.destBusy c.g c.dests = false) (hv : isVl c.f c.o = true)
    (hf : c.g.cf.getD (if c.o.fs then c.cl.setb else c.cl.seta) 0 ≠ 63)
    (hl : 256 ≤ (s.log.filter fun e => e.tile == s.logOf c.g).length) : s.stallOf c = some .logFull := by
  have hf' : (c.g.cf.getD (if c.o.fs then c.cl.setb else c.cl.seta) 0 == 63) = false := beq_eq_false_iff_ne.mpr hf
  simp only [State.stallOf, hw, hd, hv, hf', hl, List.isEmpty_nil, Bool.not_true, Bool.and_false, Bool.false_eq_true,
    if_false, Bool.true_and, decide_true, if_true]

end

/-- Settles O57: what the shared checks answer is what issuing does, whatever the instruction's body. -/
theorem checksComeFirst : Obligations.ChecksComeFirst := by
  intro i o maj min s t g cl ho hm hg hcl c
  obtain ⟨body, hexec⟩ := exec_issues ho hm
  have refused {u : State} {r : Res} (hr : s.mayIssue g = true) (hp : s.preIssue c = (u, some r)) :
      exec i s = c.settle u r := by
    rw [hexec, issue_refused hg hcl hr hp]
  refine ⟨fun hr => ?_, fun p hr hd => ?_, fun hr hd hh hx => ?_, fun hr hd hh hp hl hres hq hw => ⟨fun hb => ?_, ?_⟩⟩
  · rw [hexec, issue_not_ready hg hcl hr]
  · exact refused hr (preIssue_fields hd)
  · exact refused hr (preIssue_privilege hd hh (privilegeChecks_refuse hx))
  · exact refused hr (preIssue_stall hd hh hp hl hres hq (stallOf_dest hw hb))
  · intro hb hv hf hfull
    exact refused hr (preIssue_stall hd hh hp hl hres hq (stallOf_logFull hw hb hv hf hfull))

end Sys2Proof.Machine
end

section
/-! Where a clause opens, and where its lanes stand at its end (02 R36, 06 R137, R138, R141). -/
namespace Sys2Proof.Machine
open Sys2Proof.Stated

/-! ### The issue address and the lane set (R138) -/

/-- The mask of a list of lanes. -/
theorem maskOf_getLsbD (l : List Nat) {i : Nat} (h : i < 64) : (maskOf l).getLsbD i = true ↔ i ∈ l := by
  have key : ∀ m : Mask, (l.foldl (fun m i => m ||| (1#64 <<< i)) m).getLsbD i = true ↔ m.getLsbD i = true ∨ i ∈ l := by
    induction l with
    | nil => simp
    | cons j t ih =>
      intro m
      have hone : (1#64 <<< j).getLsbD i = true ↔ i = j := by
        simp only [BitVec.getLsbD_shiftLeft, BitVec.getLsbD_one, h, decide_true, Bool.true_and, Bool.and_eq_true,
          Bool.not_eq_true', decide_eq_false_iff_not, decide_eq_true_eq]
        omega
      rw [List.foldl_cons, ih, BitVec.getLsbD_or, Bool.or_eq_true, hone, List.mem_cons, or_assoc]
  rw [maskOf, key]
  simp

/-- The least program counter of a list of lanes is one of theirs, and above none. -/
theorem minPc_spec {g : Group} {l : List Nat} {pc : W32} (h : minPc g l = some pc) :
    (∃ i ∈ l, g.flow.lpc.getD i 0 = pc) ∧ ∀ i ∈ l, pc ≤ g.flow.lpc.getD i 0 := by
  induction l generalizing pc with
  | nil => cases h
  | cons i t ih =>
    simp only [minPc] at h
    cases hm : minPc g t with
    | none =>
      have ht : t = [] := by
        cases t with
        | nil => rfl
        | cons j u => simp only [minPc] at hm; split at hm <;> cases hm
      subst ht
      simp only [hm, Option.some.injEq] at h
      subst h
      exact ⟨⟨i, List.mem_cons_self, rfl⟩, fun j hj => by rw [List.mem_singleton.mp hj]; exact BitVec.le_refl _⟩
    | some q =>
      obtain ⟨⟨j, hj, hjq⟩, hle⟩ := ih hm
      simp only [hm, Option.some.injEq] at h
      split at h
      case isTrue hlt =>
        subst h
        have hqi : q < g.flow.lpc.getD i 0 := by rwa [← BitVec.ult_iff_lt]
        exact ⟨⟨j, List.mem_cons_of_mem i hj, hjq⟩, List.forall_mem_cons.mpr ⟨BitVec.le_of_lt hqi, hle⟩⟩
      case isFalse hge =>
        subst h
        have hiq : g.flow.lpc.getD i 0 ≤ q := by rwa [BitVec.ult_iff_lt, BitVec.not_lt] at hge
        exact ⟨⟨i, List.mem_cons_self, rfl⟩, List.forall_mem_cons.mpr ⟨BitVec.le_refl _, fun k hk => BitVec.le_trans hiq (hle k hk)⟩⟩

theorem minPc_loops (g : Group) (k : List LoopEntry) (l : List Nat) :
    minPc { g with flow := { g.flow with loops := k } } l = minPc g l := by
  induction l with
  | nil => rfl
  | cons i t ih => rw [minPc, minPc, ih]

theorem Group.mem_live {g : Group} {i : Nat} :
    i ∈ g.live ↔ i < g.width ∧ g.flow.exited.getLsbD i = false ∧ g.flow.fl.getD i 0 = g.ldepth := by
  simp [Group.live]

/-- A boundary that has lanes left: the group after `popFrames` and the loop pops, its least address, the lanes there. -/
theorem Group.boundary_some {g h : Group} {addr : W64} {set : Mask} (hb : g.boundary = (h, some (addr, set))) :
    ∃ pc l, minPc h h.live = some pc ∧ addr = h.pcOf pc ∧
      set = maskOf (h.live.filter fun i => h.flow.lpc.getD i 0 == pc) ∧
      h = { Group.popFrames 17 g with flow := { (Group.popFrames 17 g).flow with loops := l } } := by
  unfold Group.boundary at hb
  generalize Group.popFrames 17 g = p at hb ⊢
  dsimp only at hb
  split at hb
  · cases hb
  · rename_i pc hpc
    cases hb
    exact ⟨pc, _, (minPc_loops p _ _).trans hpc, rfl, rfl, rfl⟩

theorem boundary_spot {g h : Group} {addr : W64} {set : Mask} (hb : g.boundary = (h, some (addr, set))) : ∃ pc : W32,
    addr = (h.codehi ++ pc).zeroExtend 64 ∧ (∃ i ∈ h.live, h.flow.lpc.getD i 0 = pc) ∧
    (∀ i ∈ h.live, pc ≤ h.flow.lpc.getD i 0) ∧
    ∀ i, i < 64 → (set.getLsbD i = true ↔ i ∈ h.live ∧ h.flow.lpc.getD i 0 = pc) := by
  obtain ⟨pc, -, hmin, haddr, hset, -⟩ := Group.boundary_some hb
  obtain ⟨hex, hle⟩ := minPc_spec hmin
  exact ⟨pc, haddr, hex, hle, fun i hi => by rw [hset, maskOf_getLsbD _ hi, List.mem_filter, beq_iff_eq]⟩

/-! ### The clause opens (R36) -/

/-- A flag of a WAIT mask is up, as R36 and R365 say it. -/
theorem State.flagUp_iff (s : State) (g : Group) (wait : BitVec 12) : s.flagUp g wait = true ↔
    if g.flow.tl = true then ∃ e ∈ s.log, e.grp = g.id ∧ e.tlevel = true ∧ wait.getLsbD e.flag = true
    else ∃ k, k < 12 ∧ wait.getLsbD k = true ∧ g.cf.getD k 0 ≠ 0 := by
  unfold State.flagUp
  split_ifs with h
  · simp only [List.any_eq_true, Bool.and_eq_true, beq_iff_eq, and_assoc]
  · simp only [List.any_eq_true, List.mem_range, Bool.and_eq_true, bne_iff_ne]

/-- The clause of a header, opened at an address for a lane set. -/
def openedClause (w : Header) (addr : W64) (set : Mask) : Clause :=
  { header := addr, next := addr + 4, cnt := w.cnt.toNat + 1, seta := w.seta.toNat, setb := w.setb.toNat, lanes := set }

/-- At a boundary where no stop falls and no trap is due, a valid header waits for its flags or opens its clause. -/
theorem openClause_header {s : State} {g h : Group} {w : Header} {addr : W64} {set : Mask} (hg : s.group? s.cur = some g)
    (hr : s.mayIssue g = true) (hc : g.clause = none) (hb : g.boundary = (h, some (addr, set)))
    (hs : (s.setGroup h).stopsHere h = false) (hd : (s.setGroup h).boundaryDue h = none)
    (hw : headerBad (encodeHeader w) = none) :
    openClause w s = if (s.setGroup h).flagUp h w.wait = true
      then .next ((s.setGroup h).onGroup g.id fun k => { k with stall := some (.flags w.wait) })
      else .next ((s.setGroup h).onGroup g.id fun k => { k with stall := none, clause := some (openedClause w addr set) }) := by
  simp only [openClause, hg, hr, hc, hb, hs, hd, hw, Bool.not_true, Bool.false_eq_true, if_false]
  rfl

/-! ### The end of a clause (R36, R141) -/

/-- The lane is of the lane set, and has not exited. -/
def landsAt (g : Group) (cl : Clause) (i : Nat) : Bool := cl.lanes.getLsbD i && !g.flow.exited.getLsbD i

/-- Where a lane of the set stands: at its target, or at the header that follows. -/
def landing (cl : Clause) (next : W64) (i : Nat) : W32 :=
  ((cl.targets.find? fun p => p.1 == i).map fun p => lpcOf p.2).getD (lpcOf next)

/-- The group with every lane landed and no clause, before the loop action. -/
def Group.landed (g : Group) (cl : Clause) (next : W64) : Group :=
  { g with
      flow := { g.flow with lpc := (List.range g.width).map fun i =>
        if g.flow.exited.getLsbD i then 0xFFFFFFFF else if landsAt g cl i then landing cl next i else g.flow.lpc.getD i 0 }
      clause := none }

/-- The lanes of the top frame that go to the header that follows, on which R141 acts. -/
def Group.fallers (g : Group) (cl : Clause) (next : W64) : List Nat :=
  (List.range g.width).filter fun i => landsAt g cl i && landing cl next i == lpcOf next && g.flow.fl.getD i 0 == g.ldepth

theorem Group.endClause_eq (g : Group) (cl : Clause) (next : W64) :
    g.endClause cl next true = if g.flow.tl = true then g.landed cl next
      else loopEnd (g.landed cl next) cl.header (g.fallers cl next) g.flow.loops := by
  have ht : ∀ i, landing cl next i =
      match cl.targets.find? fun p => p.1 == i with | some p => lpcOf p.2 | none => lpcOf next := fun i => by
    unfold landing
    cases cl.targets.find? fun p => p.1 == i <;> rfl
  unfold Group.landed Group.fallers
  simp only [ht]
  cases h : g.flow.tl <;> simp only [Group.endClause, h, landsAt, Bool.not_true, Bool.not_false, Bool.and_true,
    Bool.and_false, Bool.false_eq_true, if_true, if_false] <;> rfl

theorem Group.mem_fallers {g : Group} {cl : Clause} {next : W64} {i : Nat} : i ∈ g.fallers cl next ↔
    i < g.width ∧ landsAt g cl i = true ∧ landing cl next i = lpcOf next ∧ g.flow.fl.getD i 0 = g.ldepth := by
  simp [Group.fallers, and_assoc]

section
variable {g : Group} {hd : W64} {f : List Nat} {e : LoopEntry} {l : List LoopEntry}

/-- The loop action leaves the clause. -/
theorem loopEnd_clause (l : List LoopEntry) : (loopEnd g hd f l).clause = g.clause := by
  induction l with
  | nil => rfl
  | cons e l ih =>
    unfold loopEnd
    dsimp only
    split_ifs
    · rfl
    · exact ih
    · rfl

/-- The loop action leaves every lane on which it does not act. -/
theorem loopEnd_lpc {i : Nat} (hi : i < g.width) (hf : i ∉ f) (l : List LoopEntry) :
    (loopEnd g hd f l).flow.lpc.getD i 0 = g.flow.lpc.getD i 0 := by
  induction l with
  | nil => rfl
  | cons e l ih =>
    unfold loopEnd
    dsimp only
    split_ifs
    · rfl
    · exact ih
    · rw [getD_map_range _ _ hi, if_neg (by simpa using hf)]

/-- Where the top entry does not end here, nothing is counted. -/
theorem loopEnd_other (h : ∀ e t, l = e :: t → e.fl ≠ g.ldepth ∨ e.endh ≠ hd) :
    loopEnd g hd f l = { g with flow := { g.flow with loops := l } } := by
  cases l with
  | nil => rfl
  | cons e t =>
    unfold loopEnd
    rw [if_pos]
    rcases h e t rfl with hfl | hend
    · simp [hfl]
    · simp [hend]

/-- An entry that ends here with passes left counts down, and its lanes go back to its start. -/
theorem loopEnd_again (hf : f ≠ []) (hl : e.fl = g.ldepth) (hh : e.endh = hd) (hn : 1 < e.n.toNat) :
    loopEnd g hd f (e :: l) = { g with flow := { g.flow with
      loops := { e with n := e.n - 1 } :: l
      lpc := (List.range g.width).map fun i => if f.contains i then lpcOf e.start else g.flow.lpc.getD i 0 } } := by
  have hn0 : ¬ e.n - 1 = 0 := by bv_omega
  unfold loopEnd
  rw [if_neg (by simp [hf, hl, hh]), if_neg hn0]

/-- An entry that ends here on its last pass is popped. -/
theorem loopEnd_pop (hf : f ≠ []) (hl : e.fl = g.ldepth) (hh : e.endh = hd) (hn : e.n = 1) :
    loopEnd g hd f (e :: l) = loopEnd g hd f l := by
  conv_lhs => unfold loopEnd
  rw [if_neg (by simp [hf, hl, hh]), if_pos (by simp [hn])]

end

section
variable {g : Group} {cl : Clause} {next : W64} {i : Nat}

theorem Group.landed_exited (hi : i < g.width) (hx : g.flow.exited.getLsbD i = true) :
    (g.landed cl next).flow.lpc.getD i 0 = 0xFFFFFFFF#32 := by
  simp only [Group.landed, getD_map_range _ _ hi, hx, if_true]
  rfl

theorem Group.landed_stays (hi : i < g.width) (hx : g.flow.exited.getLsbD i = false) (hl : cl.lanes.getLsbD i = false) :
    (g.landed cl next).flow.lpc.getD i 0 = g.flow.lpc.getD i 0 := by
  simp only [Group.landed, getD_map_range _ _ hi, landsAt, hx, hl, Bool.false_and, Bool.false_eq_true, if_false]

theorem Group.landed_lands (hi : i < g.width) (hx : g.flow.exited.getLsbD i = false) (hl : cl.lanes.getLsbD i = true) :
    (g.landed cl next).flow.lpc.getD i 0 = landing cl next i := by
  simp only [Group.landed, getD_map_range _ _ hi, landsAt, hx, hl, Bool.not_false, Bool.and_true, Bool.false_eq_true,
    if_false, if_true]

theorem Group.not_mem_fallers (h : g.flow.exited.getLsbD i = true ∨ cl.lanes.getLsbD i = false) : i ∉ g.fallers cl next := by
  intro hm
  obtain ⟨-, hl, -⟩ := Group.mem_fallers.mp hm
  rcases h with h | h <;> simp [landsAt, h] at hl

/-- Lanes on which R141 cannot act stand where they landed. -/
theorem Group.endClause_lpc (hi : i < g.width) (h : g.flow.exited.getLsbD i = true ∨ cl.lanes.getLsbD i = false) :
    (g.endClause cl next true).flow.lpc.getD i 0 = (g.landed cl next).flow.lpc.getD i 0 := by
  rw [Group.endClause_eq]
  split_ifs
  · rfl
  · exact loopEnd_lpc (g := g.landed cl next) hi (Group.not_mem_fallers h) _

theorem Group.endClause_clause : (g.endClause cl next true).clause = none := by
  rw [Group.endClause_eq]
  split_ifs
  · rfl
  · exact loopEnd_clause _

theorem Group.endClause_other (h : g.flow.tl = true ∨ ∀ e l, g.flow.loops = e :: l → e.fl ≠ g.ldepth ∨ e.endh ≠ cl.header) :
    g.endClause cl next true = g.landed cl next := by
  rw [Group.endClause_eq]
  split_ifs with ht
  · rfl
  · exact loopEnd_other (h.resolve_left ht)

/-- The group whose lanes `f` the top loop entry has sent back to its start. -/
def Group.sentBack (g : Group) (f : List Nat) (e : LoopEntry) (l : List LoopEntry) : Group :=
  { g with flow := { g.flow with
      loops := { e with n := e.n - 1 } :: l
      lpc := (List.range g.width).map fun i => if f.contains i then lpcOf e.start else g.flow.lpc.getD i 0 } }

theorem Group.sentBack_lpc {f : List Nat} {e : LoopEntry} {l : List LoopEntry} (hi : i < g.width) (hf : i ∈ f) :
    (g.sentBack f e l).flow.lpc.getD i 0 = lpcOf e.start := by
  simp only [Group.sentBack, getD_map_range _ _ hi, List.contains_iff_mem, hf, if_true]

/-- The top entry ends here with passes left. -/
theorem Group.endClause_again {e : LoopEntry} {l : List LoopEntry} (ht : g.flow.tl = false) (hl : g.flow.loops = e :: l)
    (hfl : e.fl = g.ldepth) (he : e.endh = cl.header) (hn : 1 < e.n.toNat) (hf : g.fallers cl next ≠ []) :
    g.endClause cl next true = (g.landed cl next).sentBack (g.fallers cl next) e l := by
  rw [Group.endClause_eq, if_neg (by simp [ht]), hl]
  exact loopEnd_again hf hfl he hn

/-- The only entry ends here on its last pass. -/
theorem Group.endClause_popped {e : LoopEntry} (ht : g.flow.tl = false) (hl : g.flow.loops = [e])
    (hfl : e.fl = g.ldepth) (he : e.endh = cl.header) (hn : e.n = 1) (hf : g.fallers cl next ≠ []) :
    g.endClause cl next true = { g.landed cl next with flow := { (g.landed cl next).flow with loops := [] } } := by
  rw [Group.endClause_eq, if_neg (by simp [ht]), hl, loopEnd_pop (g := g.landed cl next) hf hfl he hn]
  rfl

/-- A lane of the top frame goes to the header that follows. -/
theorem Group.fallers_ne_nil (h : ∃ i, i < g.width ∧ g.flow.exited.getLsbD i = false ∧ cl.lanes.getLsbD i = true ∧
    landing cl next i = lpcOf next ∧ g.flow.fl.getD i 0 = g.ldepth) : g.fallers cl next ≠ [] := by
  obtain ⟨i, hi, hx, hl, ht, hfl⟩ := h
  exact List.ne_nil_of_mem (Group.mem_fallers.mpr ⟨hi, by simp [landsAt, hx, hl], ht, hfl⟩)

end

/-- An instruction that is not the last of its clause. -/
theorem Group.advance_inside {g : Group} {cl : Clause} {n : Nat} (hc : g.clause = some cl) (hs : cl.seq = none)
    (hn : cl.pos + 1 ≠ cl.cnt) :
    g.advance n true = { g with
      stall := none, lost := 0, clause := some { cl with next := cl.next + w64 (4 * n), pos := cl.pos + 1 } } := by
  obtain ⟨header, next, pos, cnt, seta, setb, lanes, targets, seq⟩ := cl
  subst hs
  simp [Group.advance, hc, hn]

/-- The last one of its clause. -/
theorem Group.advance_last {g : Group} {cl : Clause} {n : Nat} (hc : g.clause = some cl) (hs : cl.seq = none)
    (hn : cl.pos + 1 = cl.cnt) :
    g.advance n true = ({ g with stall := none, lost := 0 } : Group).endClause
      { cl with next := cl.next + w64 (4 * n), pos := cl.pos + 1 } (cl.next + w64 (4 * n)) true := by
  obtain ⟨header, next, pos, cnt, seta, setb, lanes, targets, seq⟩ := cl
  subst hs
  simp [Group.advance, hc, hn]

/-- Settles O55: the boundary by `Group.boundary`, the opening by `openClause`, the end by where lanes land and what the
loop action does with the top entry. -/
theorem clausesOpenAndEnd : Obligations.ClausesOpenAndEnd := by
  refine ⟨?_, fun g h addr set hb => boundary_spot hb, ?_⟩
  · intro s g h w addr set hg hr hc hb u hs hd hw
    have hopen : exec (.clauseBoundary w) s = _ := openClause_header hg hr hc hb hs hd hw
    have hup := u.flagUp_iff h w.wait
    exact ⟨fun hn => hopen.trans (if_neg fun hf => hn (hup.mp hf)), fun hf => hopen.trans (if_pos (hup.mpr hf))⟩
  · intro g cl n hc hs next fall target
    refine ⟨fun hn => Group.advance_inside hc hs hn, fun hn => ?_⟩
    rw [Group.advance_last hc hs hn]
    intro h
    refine ⟨Group.endClause_clause, fun i hi hx => ?_, fun i hi hx hl => ?_, fun hno => ?_, ?_, ?_⟩
    · exact (Group.endClause_lpc (g := { g with stall := none, lost := 0 }) hi (.inl hx)).trans (Group.landed_exited hi hx)
    · exact (Group.endClause_lpc (g := { g with stall := none, lost := 0 }) hi (.inr hl)).trans (Group.landed_stays hi hx hl)
    · have hend : h = _ := Group.endClause_other hno
      rw [hend]
      exact ⟨rfl, fun i hi hx hl => Group.landed_lands hi hx hl⟩
    · intro e l htl hloops hfl hend hcount hsome
      have hagain : h = _ := Group.endClause_again htl hloops hfl hend hcount (Group.fallers_ne_nil hsome)
      rw [hagain]
      refine ⟨rfl, fun i hi hx hl ht hf => ?_⟩
      exact Group.sentBack_lpc hi (Group.mem_fallers.mpr ⟨hi, by simp [landsAt, hx, hl], ht, hf⟩)
    · intro e htl hloops hfl hend hcount hsome
      have hpop : h = _ := Group.endClause_popped htl hloops hfl hend hcount (Group.fallers_ne_nil hsome)
      rw [hpop]
      exact ⟨rfl, fun i hi hx hl => Group.landed_lands hi hx hl⟩

end Sys2Proof.Machine
end

section
/-! Two contexts that carry one number, and a `seq` in turn at the first of them (10 R224). -/
namespace Sys2Proof.Machine
open Sys2Proof.Stated

/-- A `seq` of one body instruction, one pass, whose literal stands behind its first word. -/
def seqOne : Ops := { fs := false, b := 2, a := 1, d := 1, ext := none, lit := some 0 }

/-- A clause of three instructions at 0x1000, before the first; and one of fifteen, before its sixth. -/
def clauseEarly : Clause := { header := 0x1000, next := 0x1004, pos := 0, cnt := 3, seta := 0, setb := 1, lanes := 0xFFFF }
def clauseLate : Clause := { clauseEarly with pos := 5, cnt := 15 }

/-- A running stoker core in a clause: 16 lanes at 0x1000. -/
def coreIn (cl : Clause) : Group :=
  { coreAtReset 0 with
      hold := .none, clause := some cl, flow := { lpc := List.replicate 16 0x1000, fl := List.replicate 16 0 } }

/-- Two contexts numbered 0, in different clauses; behind the `seq`, at 0x1010, a word of major 0x1A. -/
def twins : State := { groups := [coreIn clauseEarly, coreIn clauseLate], mem := memWrite [] 0x1010 [0x68, 0x81, 0x30, 0x10] }

/-- Position of the body's first instruction, of the `seq` that the last context runs. -/
def lastBodyPos : Out → Option Nat
  | .next s => s.groups.getLast?.bind fun g => g.clause.bind fun cl => cl.seq.map fun q => q.bodyPos
  | _ => none

/-- The `seq` is clear to act in the first context. -/
theorem twins_clear : Clear twins 27 0 seqOne (coreIn clauseEarly) clauseEarly twins where
  turn := by decide +kernel
  open' := rfl
  ready := by decide +kernel
  fields := by decide +kernel
  follows := by decide +kernel
  privilege := by decide +kernel
  place := by decide +kernel
  resident := by decide +kernel
  quota := by decide +kernel
  free := by decide +kernel

theorem twins_seqBody : twins.seqBody (coreIn clauseEarly) 1 0 1 0 0x1010 = (twins, .ok (0x1014, false)) := by
  rfl

/-- In the second context the body begins behind its own position, the sixth. -/
theorem twins_exec : lastBodyPos (exec (.seq seqOne) twins) = some 6 := by
  decide +kernel

/-- Refutes O38: its clause of `seq` gives every context that carries the number of the one in turn the position of the
one in turn, where the model counts from each one's own; with two contexts of one number the two part. -/
theorem not_accumulatorInstructions : ¬ Obligations.AccumulatorInstructions := by
  rintro ⟨-, -, -, -, -, hseq, -⟩
  have h := hseq seqOne twins (coreIn clauseEarly) clauseEarly twins twins 0x1014 twins_clear (by decide +kernel)
    (by decide) (by decide) (by decide) (by decide) twins_seqBody (by decide +kernel)
  have hpos := congrArg lastBodyPos h
  rw [twins_exec] at hpos
  exact absurd hpos (by decide +kernel)

end Sys2Proof.Machine
end

section
/-! What memory accesses leave as it was (03, 04): everything but memory, the home slices, their errors and Aelmel's
registers; and, where an address is translated, the caches of translations. -/
namespace Sys2Proof.Machine
open Sys2Proof.Stated

/-! ### Home slices and registers -/

/-- The state beside memory, the home slices, their errors and Aelmel's registers. -/
def State.beside (s : State) : State := { s with mem := [], sram := [], badBursts := [], badSlices := [], aelmel := {} }

/-- The state beside those, the dies and the caches of translations. -/
def State.besideWalks (s : State) : State := { s.beside with dies := [], tlbs := [] }

section
variable {s t : State}

theorem State.groups_of_besideWalks (h : s.besideWalks = t.besideWalks) : s.groups = t.groups := congrArg (·.groups) h

theorem State.besideWalks_of_beside (h : s.beside = t.beside) : s.besideWalks = t.besideWalks :=
  congrArg (fun u : State => { u with dies := [], tlbs := [] }) h

end

theorem State.capLast_beside (s : State) (line : Nat) : (s.capLast line).beside = s.beside := by
  unfold State.capLast
  dsimp only
  split
  · rfl
  · split <;> rfl

theorem State.intoStack_beside (s : State) (l : SLine) : (s.intoStack l).beside = s.beside := by
  unfold State.intoStack
  split <;> rfl

theorem State.evict_beside (s : State) (line : Nat) : (s.evict line).beside = s.beside := by
  unfold State.evict
  split
  · rfl
  · exact s.intoStack_beside _

theorem State.touch_beside (s : State) (line hint : Nat) : (s.touch line hint).beside = s.beside := by
  unfold State.touch
  split
  · rfl
  · split
    · exact State.capLast_beside _ _
    · split
      · rfl
      · have hroom : ∀ u : State, u.beside = s.beside → (if u.sways line = 0 then u else ({ u with
            sram := { line := line, data := memRead u.mem (line * 128) 128, mark := markFill hint } :: u.sram
            badSlices := u.badSlices ++ u.badBursts.filter fun b => b.burst / 2 == line } : State).capLast line).beside
              = s.beside := by
          intro u hu
          split
          · exact hu
          · exact (State.capLast_beside _ _).trans hu
        apply hroom
        split
        · rfl
        · split
          · exact s.evict_beside _
          · rfl

theorem State.regWrite_beside (s : State) (off : Nat) (bs : List Byte) : (s.regWrite off bs).beside = s.beside := by
  unfold State.regWrite aelcmdVerifyBoot aelcmdAttest recbufWrite
  dsimp only
  split
  · split
    · split
      · split <;> rfl
      · split
        · split <;> rfl
        · rfl
    · rfl
  · split
    · rfl
    · split
      · split <;> rfl
      · rfl

theorem State.homeWrite_beside (s : State) (pa : Nat) (bs : List Byte) (hint inst : Nat) :
    (s.homeWrite pa bs hint inst).beside = s.beside := by
  unfold State.homeWrite
  dsimp only
  split
  · exact s.regWrite_beside _ _
  · split <;> exact State.touch_beside _ _ _

/-! ### Translation -/

theorem State.descRead_beside (s : State) (die pa level : Nat) : (s.descRead die pa level).1.besideWalks = s.besideWalks := by
  unfold State.descRead
  dsimp only
  split
  · rfl
  · split
    · rfl
    · split <;> rfl

theorem State.stage2_beside (die : Nat) (rd wr : Bool) (ipa fuel : Nat) : ∀ (s : State) (level table : Nat),
    (s.stage2 die rd wr ipa fuel level table).1.besideWalks = s.besideWalks := by
  induction fuel with
  | zero => intro s level table; rfl
  | succ fuel ih =>
    intro s level table
    have hread := s.descRead_beside die (table + 8 * index2 ipa level) level
    unfold State.stage2
    dsimp only
    generalize s.descRead die (table + 8 * index2 ipa level) level = r at hread
    obtain ⟨u, d⟩ := r
    cases d with
    | none => exact hread
    | some d =>
      dsimp only
      split_ifs
      · exact hread
      · exact hread
      · exact (ih _ _ _).trans hread
      all_goals exact hread

theorem State.stage2Of_beside (s : State) (die vmid : Nat) (root : W64) (rd wr : Bool) (ipa : Nat) :
    (s.stage2Of die vmid root rd wr ipa).1.besideWalks = s.besideWalks := by
  unfold State.stage2Of
  split
  · rfl
  · exact State.stage2_beside _ _ _ _ _ _ _ _

theorem State.tableSpot_beside (s : State) (die vmid : Nat) (root : W64) (rd wr : Bool) (ipa : Nat) :
    (s.tableSpot die vmid root rd wr ipa).1.besideWalks = s.besideWalks := by
  have h := s.stage2Of_beside die vmid root rd wr ipa
  unfold State.tableSpot
  generalize s.stage2Of die vmid root rd wr ipa = r at h
  obtain ⟨u, r⟩ := r
  cases r <;> exact h

theorem State.agentSpot_beside (s : State) (vmt : Nat) (ag : Agent) (rd wr : Bool) :
    (s.agentSpot vmt ag rd wr).1.besideWalks = s.besideWalks := by
  unfold State.agentSpot
  dsimp only
  split
  · rfl
  · split
    · rename_i root tab _ _
      split
      · rfl
      · have h := s.tableSpot_beside ag.master.die ag.vmid root rd wr (fld tab 47 14 * 2 ^ 14 + 32 * ag.asid)
        generalize s.tableSpot ag.master.die ag.vmid root rd wr (fld tab 47 14 * 2 ^ 14 + 32 * ag.asid) = r at h
        obtain ⟨u, _ | r⟩ := r
        · exact h
        · cases r <;> exact h
    · rfl

theorem State.stage1_beside (ag : Agent) (root : W64) (va n : Nat) (k : Kind) (fuel : Nat) : ∀ (s : State) (level table : Nat),
    (s.stage1 ag root va n k fuel level table).1.besideWalks = s.besideWalks := by
  induction fuel with
  | zero => intro s level table; rfl
  | succ fuel ih =>
    intro s level table
    have hspot := s.tableSpot_beside ag.master.die ag.vmid root true false (table + 8 * index1 va level)
    unfold State.stage1
    dsimp only
    generalize s.tableSpot ag.master.die ag.vmid root true false (table + 8 * index1 va level) = r at hspot
    obtain ⟨u, _ | r⟩ := r
    · exact hspot
    · cases r with
      | bad c l => exact hspot
      | err pa => exact hspot
      | ok pa size rd wr =>
        have hread := (u.descRead_beside ag.master.die pa level).trans hspot
        dsimp only
        generalize u.descRead ag.master.die pa level = q at hread
        obtain ⟨v, _ | d⟩ := q
        · exact hread
        · dsimp only
          split_ifs
          · exact hread
          · exact hread
          · exact (ih _ _ _).trans hread
          · exact hread

theorem State.walkLeaf_beside (s : State) (ag : Agent) (root : W64) (va n : Nat) (k : Kind) (d : W64) (dpa level dipa : Nat) :
    (s.walkLeaf ag root va n k d dpa level dipa).1.besideWalks = s.besideWalks := by
  unfold State.walkLeaf
  dsimp only
  split
  · rfl
  · have h := s.stage2Of_beside ag.master.die ag.vmid root k.reads k.writes (fld d 47 14 * 2 ^ 14 + va % leafBytes level)
    generalize s.stage2Of ag.master.die ag.vmid root k.reads k.writes (fld d 47 14 * 2 ^ 14 + va % leafBytes level) = r at h
    obtain ⟨u, r⟩ := r
    cases r with
    | bad c l => exact h
    | err pa => exact h
    | ok pa size rd wr =>
      dsimp only
      split
      · exact h
      · have hneed : (if (!bit d 53) = true then u.stage2Of ag.master.die ag.vmid root true true dipa
            else (u, S2.ok dpa 0 true true)).1.besideWalks = s.besideWalks := by
          split
          · exact (u.stage2Of_beside _ _ _ _ _ _).trans h
          · exact h
        generalize (if (!bit d 53) = true then u.stage2Of ag.master.die ag.vmid root true true dipa
            else (u, S2.ok dpa 0 true true)) = q at hneed
        obtain ⟨v, q⟩ := q
        cases q with
        | bad c l => exact hneed
        | err pa => exact hneed
        | ok pa' size' rd' wr' =>
          dsimp only
          split
          · exact hneed
          · dsimp only
            split
            · exact (State.besideWalks_of_beside (State.homeWrite_beside v _ _ _ _)).trans hneed
            · exact hneed

theorem State.walk_beside (s : State) (vmt : Nat) (ag : Agent) (va n : Nat) (k : Kind) :
    (s.walk vmt ag va n k).1.besideWalks = s.besideWalks := by
  have h := s.agentSpot_beside vmt ag true false
  unfold State.walk
  generalize s.agentSpot vmt ag true false = r at h
  obtain ⟨u, r⟩ := r
  cases r with
  | perm => exact h
  | fault c ipa => exact h
  | err pa => exact h
  | ok root apa =>
    dsimp only
    split
    · exact h
    · rename_i s1root _
      split
      · exact h
      · have h1 := (State.stage1_beside ag root va n k 4 u 0 (fld s1root 47 8 * 2 ^ 8)).trans h
        generalize u.stage1 ag root va n k 4 0 (fld s1root 47 8 * 2 ^ 8) = q at h1
        obtain ⟨v, q⟩ := q
        cases q with
        | fault r => exact h1
        | perm => exact h1
        | err pa => exact h1
        | leaf d dpa level dipa => exact (v.walkLeaf_beside _ _ _ _ _ _ _ _ _).trans h1

theorem State.gather_beside {s t : State} {ag : Agent} {e : TlbEntry} {work : Option Nat} (h : s.gather ag e work = some t) :
    t.besideWalks = s.besideWalks := by
  unfold State.gather at h
  dsimp only at h
  split_ifs at h <;> cases h <;> rfl

theorem State.translate_beside (s : State) (ag : Agent) (va : W64) (n : Nat) (k : Kind) (work : Option Nat) :
    (s.translate ag va n k work).1.besideWalks = s.besideWalks := by
  unfold State.translate
  split
  · rfl
  · split
    · split <;> rfl
    · rfl
    · rename_i vmt _
      have hfinish : ∀ (u : State) (e : TlbEntry), u.besideWalks = s.besideWalks →
          (if (!permOk e.rd e.wr e.p k ag.master.isCore || isRegSpace (e.pa + va.toNat % sizeBytes e.size) && !e.p) = true
            then (u, TRes.perm)
            else if k.writes = true then
              match u.gather ag e work with
              | some s => (s, TRes.ok (e.pa + va.toNat % sizeBytes e.size) e.attr)
              | none => (u, .fault (mkFault ag va.toNat (e.pa + va.toNat % sizeBytes e.size) 0x03 (8 * k.code) n))
            else (u, TRes.ok (e.pa + va.toNat % sizeBytes e.size) e.attr)).1.besideWalks = s.besideWalks := by
        intro u e hu
        split_ifs
        · exact hu
        · cases hg : u.gather ag e work with
          | none => exact hu
          | some v => exact (State.gather_beside hg).trans hu
        · exact hu
      dsimp only
      split
      · exact hfinish _ _ rfl
      · have hwalk := s.walk_beside vmt ag va.toNat n k
        generalize s.walk vmt ag va.toNat n k = r at hwalk
        obtain ⟨u, r, _ | e⟩ := r
        · exact hwalk
        · exact hfinish _ _ hwalk

theorem State.resolvePieces_beside (ag : Agent) (k : Kind) (work : Option Nat) (l : List (Nat × Nat)) : ∀ s : State,
    (s.resolvePieces ag k work l).1.besideWalks = s.besideWalks := by
  induction l with
  | nil => intro s; rfl
  | cons p l ih =>
    intro s
    obtain ⟨a, n⟩ := p
    have h := s.translate_beside ag (w64 a) (pageBytes ((a, n) :: l)) k work
    unfold State.resolvePieces
    generalize s.translate ag (w64 a) (pageBytes ((a, n) :: l)) k work = r at h
    obtain ⟨u, r⟩ := r
    cases r with
    | fault f => exact h
    | perm => exact h
    | bad pa => exact h
    | ok pa attr =>
      have hrest := (ih u).trans h
      dsimp only
      generalize u.resolvePieces ag k work l = q at hrest
      obtain ⟨v, q⟩ := q
      cases q <;> exact hrest

theorem State.resolve_beside (s : State) (ag : Agent) (va : W64) (n : Nat) (k : Kind) (work : Option Nat) :
    (s.resolve ag va n k work).1.besideWalks = s.besideWalks := by
  unfold State.resolve
  split
  · rfl
  · have h := State.resolvePieces_beside ag k work (pieces (n / 128 + 2) va.toNat n) s
    generalize s.resolvePieces ag k work (pieces (n / 128 + 2) va.toNat n) = r at h
    obtain ⟨u, r⟩ := r
    cases r with
    | ok ps => dsimp only; split_ifs <;> exact h
    | fault f => exact h
    | perm => exact h
    | bad pa => exact h
    | reg => exact h

/-! ### Fetching, and the header checks of R37 -/

theorem State.fetchWord_beside (s : State) (g : Group) (va : W64) : (s.fetchWord g va).1.besideWalks = s.besideWalks := by
  have h := s.translate_beside (s.agent g) va 4 .fetch none
  unfold State.fetchWord
  generalize s.translate (s.agent g) va 4 .fetch none = r at h
  obtain ⟨u, r⟩ := r
  cases r with
  | fault f => exact h
  | perm => exact h
  | bad pa => exact h
  | ok pa attr => dsimp only; split_ifs <;> exact h

theorem State.checkHeader_beside (s : State) (g : Group) (a : W64) : (s.checkHeader g a).1.besideWalks = s.besideWalks := by
  have h := s.fetchWord_beside g (a &&& ~~~3#64)
  unfold State.checkHeader
  dsimp only
  generalize s.fetchWord g (a &&& ~~~3#64) = r at h
  obtain ⟨u, r⟩ := r
  cases r with
  | ok w => dsimp only; split <;> exact h
  | fault f => exact h
  | perm => exact h
  | bad pa => exact h
  | reg => exact h

theorem State.checkHeaders_beside (g : Group) (l : List W64) : ∀ s : State,
    (s.checkHeaders g l).1.besideWalks = s.besideWalks := by
  induction l with
  | nil => intro s; rfl
  | cons a l ih =>
    intro s
    have h := s.checkHeader_beside g a
    unfold State.checkHeaders
    generalize s.checkHeader g a = r at h
    obtain ⟨u, _ | r⟩ := r
    · exact (ih u).trans h
    · exact h

theorem State.fallCheck_beside (s : State) (c : Ctx) : (s.fallCheck c).1.besideWalks = s.besideWalks := by
  unfold State.fallCheck
  dsimp only
  split
  all_goals
    split
    · exact s.checkHeader_beside _ _
    · rfl

theorem State.headerChecks_beside (s : State) (c : Ctx) : (s.headerChecks c).1.besideWalks = s.besideWalks := by
  have h := s.fallCheck_beside c
  unfold State.headerChecks
  generalize s.fallCheck c = r at h
  obtain ⟨u, _ | r⟩ := r
  · exact (State.checkHeaders_beside _ _ u).trans h
  · exact h

/-- An instruction that leads nowhere but on checks no header inside its clause. -/
theorem State.headerChecks_inside {s : State} {c : Ctx} (hpos : c.cl.pos + 1 < c.cl.cnt) (hl : ∀ u, c.leadsTo u = []) :
    s.headerChecks c = (s, none) := by
  have hne : ¬ c.cl.pos + 1 = c.cl.cnt := by omega
  simp [State.headerChecks, State.fallCheck, State.targetCheck, State.checkHeaders, hne, hl]

end Sys2Proof.Machine
end

section
/-! What register instructions leave unchanged (02 R26, R36, R39, 06 R133, R134, 07 R163). -/
namespace Sys2Proof.Machine
open Sys2Proof.Stated

/-! ### What a write of a destination changes in its context -/

/-- `h` is `g` but for the registers of `ds`, and for flags of `m` that `g` had not set. -/
structure Group.Writes (ds : List Dest) (m : W64) (g h : Group) : Prop where
  regs : ∀ d, d ∉ ds → h.slot d = g.slot d ∧ h.sval d = g.sval d ∧ h.pval d = g.pval d
  others : h.csrs.flags &&& ~~~m = g.csrs.flags &&& ~~~m
  sticky : h.csrs.flags &&& g.csrs.flags = g.csrs.flags
  rest : h = { g with regs := h.regs, csrs := { g.csrs with flags := h.csrs.flags } }

namespace Group.Writes
variable {ds : List Dest} {m : W64} {g h k : Group}

theorem refl (g : Group) : Group.Writes ds m g g := ⟨fun _ _ => ⟨rfl, rfl, rfl⟩, rfl, BitVec.and_self, rfl⟩

theorem trans (a : Group.Writes ds m g h) (b : Group.Writes ds m h k) : Group.Writes ds m g k where
  regs d hd := by
    obtain ⟨a1, a2, a3⟩ := a.regs d hd
    obtain ⟨b1, b2, b3⟩ := b.regs d hd
    exact ⟨b1.trans a1, b2.trans a2, b3.trans a3⟩
  others := b.others.trans a.others
  sticky := by rw [← a.sticky, ← BitVec.and_assoc, b.sticky]
  rest := by rw [b.rest, a.rest]

theorem id_eq (a : Group.Writes ds m g h) : h.id = g.id := by rw [a.rest]

end Group.Writes

theorem getD_set_ne {α : Type} {l : List α} {i j : Nat} {v d : α} (h : j ≠ i) : (l.set i v).getD j d = l.getD j d := by
  simp only [List.getD_eq_getElem?_getD, List.getElem?_set_ne (Ne.symm h)]

section
variable {ds : List Dest} {m : W64} {d : Dest}

theorem Group.writes_setSlot (hd : d ∈ ds) (g : Group) (v : Slot) : g.Writes ds m (g.setSlot d v) := by
  have hne : ∀ e, e ∉ ds → e ≠ d := fun e he h => he (h ▸ hd)
  cases d with
  | slot n =>
    refine ⟨fun e he => ⟨?_, rfl, rfl⟩, rfl, BitVec.and_self, rfl⟩
    cases e with
    | slot k => exact getD_set_ne fun h => hne _ he (h ▸ rfl)
    | _ => rfl
  | bankV n =>
    refine ⟨fun e he => ⟨?_, rfl, rfl⟩, rfl, BitVec.and_self, rfl⟩
    cases e with
    | bankV k => exact getD_set_ne fun h => hne _ he (h ▸ rfl)
    | _ => rfl
  | _ => exact .refl g

theorem Group.writes_setSval (hd : d ∈ ds) (g : Group) (v : W64) : g.Writes ds m (g.setSval d v) := by
  have hne : ∀ e, e ∉ ds → e ≠ d := fun e he h => he (h ▸ hd)
  cases d with
  | sreg n =>
    refine ⟨fun e he => ⟨rfl, ?_, rfl⟩, rfl, BitVec.and_self, rfl⟩
    cases e with
    | sreg k => exact congrArg SReg.val (getD_set_ne fun h => hne _ he (h ▸ rfl))
    | _ => rfl
  | bankS n =>
    refine ⟨fun e he => ⟨rfl, ?_, rfl⟩, rfl, BitVec.and_self, rfl⟩
    cases e with
    | bankS k => exact getD_set_ne fun h => hne _ he (h ▸ rfl)
    | _ => rfl
  | _ => exact .refl g

theorem Group.writes_setPval (hd : d ∈ ds) (g : Group) (lanes v : Mask) : g.Writes ds m (g.setPval d lanes v) := by
  have hne : ∀ e, e ∉ ds → e ≠ d := fun e he h => he (h ▸ hd)
  cases d with
  | preg n =>
    refine ⟨fun e he => ⟨rfl, rfl, ?_⟩, rfl, BitVec.and_self, rfl⟩
    cases e with
    | preg k =>
      exact congrArg (fun p : PReg => if k = 7 then fullMask g.width else p.val) (getD_set_ne fun h => hne _ he (h ▸ rfl))
    | _ => rfl
  | bankP =>
    refine ⟨fun e he => ⟨rfl, rfl, ?_⟩, rfl, BitVec.and_self, rfl⟩
    cases e with
    | bankP => exact absurd rfl (hne _ he)
    | _ => rfl
  | _ => exact .refl g

theorem Group.writes_writeLanes (hd : d ∈ ds) (g : Group) (lanes : Mask) (v : Nat → W32) (tag : BitVec 4) :
    g.Writes ds m (g.writeLanes d lanes v tag) := g.writes_setSlot hd _

/-- Flags of `m` are set, and none is cleared. -/
theorem Group.writes_orFlags {v : W64} (hv : v &&& ~~~m = 0) (g : Group) : g.Writes ds m (g.orFlags v) := by
  refine ⟨fun e _ => ⟨rfl, rfl, rfl⟩, ?_, ?_, rfl⟩
  · show (g.csrs.flags ||| v) &&& ~~~m = g.csrs.flags &&& ~~~m
    have hor : (g.csrs.flags ||| v) &&& ~~~m = (g.csrs.flags &&& ~~~m) ||| (v &&& ~~~m) := by
      ext i hi
      simp only [BitVec.getElem_and, BitVec.getElem_or, Bool.and_or_distrib_right]
    rw [hor, hv]
    exact BitVec.or_zero
  · show (g.csrs.flags ||| v) &&& g.csrs.flags = g.csrs.flags
    ext i hi
    simp only [BitVec.getElem_and, BitVec.getElem_or]
    cases g.csrs.flags[i] <;> simp

end

/-! ### What a body leaves of the machine -/

/-- `u` is `s` but for what the issuing context writes within its destinations and the flags of `m`. -/
def Ctx.Writes (c : Ctx) (m : W64) (s u : State) : Prop :=
  ∃ f : Group → Group, (∀ g : Group, g.Writes c.dests m (f g)) ∧ u = s.onGroup c.g.id f

namespace Ctx.Writes
variable {c : Ctx} {m : W64} {s u : State}

theorem refl (s : State) : c.Writes m s s := ⟨fun g => g, .refl, by simp [State.onGroup]⟩

/-- One more write of the context. -/
theorem upd (h : c.Writes m s u) {f : Group → Group} (hf : ∀ g : Group, g.Writes c.dests m (f g)) : c.Writes m s (c.upd u f) := by
  obtain ⟨e, he, rfl⟩ := h
  exact ⟨fun g => f (e g), fun g => (he g).trans (hf _), onGroup_onGroup fun g => (he g).id_eq⟩

theorem putV (h : c.Writes m s u) {k : Nat} (hk : c.dRef k ∈ c.dests) (v : Nat → W32) (tag : BitVec 4) :
    c.Writes m s (c.putV u k v tag) := h.upd fun g => g.writes_writeLanes hk _ _ _

theorem putS (h : c.Writes m s u) (hd : c.g.sref c.fd ∈ c.dests) (v : W64) : c.Writes m s (c.putS u v) :=
  h.upd fun g => g.writes_setSval hd _

theorem putP (h : c.Writes m s u) {p : Nat} (hp : c.g.pref p ∈ c.dests) (v : Mask) : c.Writes m s (c.putP u p v) :=
  h.upd fun g => g.writes_setPval hp _ _

theorem orFlags (h : c.Writes m s u) {v : W64} (hv : v &&& ~~~m = 0) : c.Writes m s (c.upd u fun g => g.orFlags v) :=
  h.upd fun g => g.writes_orFlags hv

end Ctx.Writes

/-- What the body of a register instruction may answer: what it writes, or a trap. -/
def Res.Writes (c : Ctx) (m : W64) (s : State) : Res → Prop
  | .ok u => c.Writes m s u
  | .trap _ _ => True
  | _ => False

section
variable {c : Ctx} {m : W64} {s : State} {r : Res}

theorem Res.Writes.tagged (h : r.Writes c m s) (l : List TagCheck) : (tagged c l r).Writes c m s := by
  unfold Machine.tagged
  split
  · exact h
  · split
    · trivial
    · exact h

theorem Res.Writes.rlxGate (h : r.Writes c m s) (t : State) : (rlxGate c t r).Writes c m s := by
  unfold Machine.rlxGate
  split
  · exact h
  · split
    · trivial
    · exact h

theorem Res.Writes.guarded (h : r.Writes c m s) (l : List (Bool × (Cause × W64))) : (c.guarded l r).Writes c m s := by
  unfold Ctx.guarded
  split
  · exact h
  · split
    · trivial
    · exact h

theorem Res.Writes.checked (h : r.Writes c m s) (t : State) (tags : List TagCheck) (rest : List (Bool × (Cause × W64))) :
    (checked c t tags rest r).Writes c m s := ((h.guarded rest).rlxGate t).tagged tags

theorem Res.Writes.once (h : r.Writes c m s) : (c.once s r).Writes c m s := by
  unfold Ctx.once
  split
  · exact h
  · exact Ctx.Writes.refl s

end

/-! ### The destinations that fields name -/

section
variable {c : Ctx}

/-- The destination that D names. -/
theorem Ctx.mem_dests_of_d {d : Dest} (hw : c.f.dw = true)
    (hd : d ∈ match c.f.d with
      | .win n => (List.range n).map c.dRef
      | .scal => [c.g.sref c.fd]
      | .predW => [c.g.pref c.fd]
      | .comb => [c.g.pref (c.fd % 8)]
      | _ => []) : d ∈ c.dests := by
  unfold Ctx.dests
  cases hc : c.f.d <;> simp_all

theorem Ctx.dRef_mem_dests {maj min : Nat} (hf : c.f = Form.of maj min)
    (h : ((Form.of maj min).d, (Form.of maj min).dw) = (.win 1, true)) : c.dRef 0 ∈ c.dests := by
  obtain ⟨hd, hw⟩ := Prod.mk.inj h
  rw [← hf] at hd hw
  exact Ctx.mem_dests_of_d hw (by simp [hd])

theorem Ctx.sref_mem_dests {maj min : Nat} (hf : c.f = Form.of maj min)
    (h : ((Form.of maj min).d, (Form.of maj min).dw) = (.scal, true)) : c.g.sref c.fd ∈ c.dests := by
  obtain ⟨hd, hw⟩ := Prod.mk.inj h
  rw [← hf] at hd hw
  exact Ctx.mem_dests_of_d hw (by simp [hd])

theorem Ctx.pref_mem_dests {maj min : Nat} (hf : c.f = Form.of maj min)
    (h : ((Form.of maj min).d, (Form.of maj min).dw) = (.predW, true)) : c.g.pref c.fd ∈ c.dests := by
  obtain ⟨hd, hw⟩ := Prod.mk.inj h
  rw [← hf] at hd hw
  exact Ctx.mem_dests_of_d hw (by simp [hd])

theorem Ctx.comb_mem_dests {maj min : Nat} (hf : c.f = Form.of maj min)
    (h : ((Form.of maj min).d, (Form.of maj min).dw) = (.comb, true)) : c.g.pref (c.fd % 8) ∈ c.dests := by
  obtain ⟨hd, hw⟩ := Prod.mk.inj h
  rw [← hf] at hd hw
  exact Ctx.mem_dests_of_d hw (by simp [hd])

/-- `qnt` writes B too. -/
theorem Ctx.srefB_mem_dests (h : c.f.bw = true) : c.g.sref c.fb ∈ c.dests := by
  simp [Ctx.dests, h]

/-- The destinations are named by the fields, the flow and the budget of the context alone. -/
theorem Ctx.dests_congr {g : Group} (hf : g.flow = c.g.flow) (hb : g.budget = c.g.budget) :
    ({ c with g := g } : Ctx).dests = c.dests := by
  have hwin : ∀ k, ({ c with g := g } : Ctx).dRef k = c.dRef k := fun k => by
    simp only [Ctx.dRef, Group.wref, hf, hb, Ctx.fd, Ctx.e]
    rfl
  have hs : ∀ n, g.sref n = c.g.sref n := fun n => by simp only [Group.sref, hf]
  have hp : ∀ n, g.pref n = c.g.pref n := fun n => by simp only [Group.pref, hf]
  have hdR : ({ c with g := g } : Ctx).dRef = c.dRef := funext hwin
  unfold Ctx.dests Ctx.enterDests Group.slotsOf
  simp only [hdR, hs, hp, hf, hb]
  rfl

end

/-! ### The flags of the families (R163) -/

/-- No flag of `v` stands outside `m`. -/
abbrev Within (m v : W64) : Prop := v &&& ~~~m = 0

theorem within_zero (m : W64) : Within m 0 := BitVec.zero_and

theorem within_or {m v w : W64} (hv : Within m v) (hw : Within m w) : Within m (v ||| w) := by
  have h : (v ||| w) &&& ~~~m = (v &&& ~~~m) ||| (w &&& ~~~m) := by
    ext i hi
    simp only [BitVec.getElem_and, BitVec.getElem_or, Bool.and_or_distrib_right]
  show (v ||| w) &&& ~~~m = 0
  rw [h, hv, hw]
  rfl

theorem within_flagIf {m v : W64} (h : Within m v) (b : Bool) : Within m (flagIf b v) := by
  cases b
  · exact within_zero m
  · exact h

/-- Flags that stand in whichever of two results is taken. -/
theorem within_ite {α : Type} {m : W64} {p : Prop} [Decidable p] {a b : α} (f : α → W64) (ha : Within m (f a)) (hb : Within m (f b)) :
    Within m (f (if p then a else b)) := by
  split
  · exact ha
  · exact hb

theorem within_orOver {m : W64} {f : Nat → W64} (h : ∀ i, Within m (f i)) (l : List Nat) : Within m (orOver l f) := by
  have hfold : ∀ v, Within m v → Within m (l.foldl (fun m i => m ||| f i) v) := by
    induction l with
    | nil => exact fun v hv => hv
    | cons i l ih => exact fun v hv => ih _ (within_or hv (h i))
  exact hfold 0 (within_zero m)

/-- The flags of the float families are among those of conversions. -/
theorem within_convert {v : W64} (h : Within 0x1F v) : Within 0x23F v := by
  have hv : v = v &&& 0x1F := by
    have hsplit : v = (v &&& 0x1F) ||| (v &&& ~~~0x1F) := by
      ext i hi
      simp only [BitVec.getElem_and, BitVec.getElem_or, BitVec.getElem_not]
      cases v[i] <;> simp
    rw [h] at hsplit
    exact hsplit.trans BitVec.or_zero
  show v &&& ~~~0x23F = 0
  rw [hv, BitVec.and_assoc]
  exact BitVec.and_zero

theorem satFlag_flags (n : Nat) (x : Int) : Within 0x20 (satFlag n x).2 := within_flagIf (by decide) _

theorem FFmt.round_flags (f : FFmt) (mode : W64) (rm : Rm) (neg : Bool) (m : Nat) (e : Int) (sticky : Bool) :
    Within 0x1F (f.round mode rm neg m e sticky).2 := by
  unfold FFmt.round
  dsimp only
  split
  · show Within 0x1F (flOF ||| flNX); decide
  · split
    · show Within 0x1F (flUF ||| flNX); decide
    · exact within_or (within_flagIf (v := flUF) (by decide) _) (within_flagIf (v := flNX) (by decide) _)

theorem FFmt.put_flags (f : FFmt) (mode : W64) (rm : Rm) (v : FVal) : Within 0x1F (f.put mode rm v).2 := by
  cases v with
  | nan => exact within_zero _
  | inf neg => exact within_zero _
  | fin neg m e =>
    unfold FFmt.put
    dsimp only
    split
    · exact within_zero _
    · exact f.round_flags _ _ _ _ _ _

theorem FFmt.result_flags (f : FFmt) (mode : W64) (rm : Rm) (r : Option FVal) : Within 0x1F (f.result mode rm r).2 := by
  cases r with
  | none => show Within 0x1F flNV; decide
  | some v => exact f.put_flags _ _ _

theorem FFmt.ofRaw_flags (f : FFmt) (mode : W64) (rm : Rm) (r : FRaw) : Within 0x1F (f.ofRaw mode rm r).2 := by
  cases r with
  | exact v => exact f.put_flags _ _ _
  | invalid => show Within 0x1F flNV; decide
  | divZero neg => show Within 0x1F flDZ; decide
  | near neg m e => exact f.round_flags _ _ _ _ _ _

theorem fToInt_flags (v : FVal) (n : Nat) (signed : Bool) (rm : Rm) : Within 0x1F (fToInt v n signed rm).2 := by
  unfold fToInt
  dsimp only
  cases v with
  | nan => show Within 0x1F flNV; decide
  | inf neg => show Within 0x1F flNV; decide
  | fin neg m e =>
    have hnv : Within 0x1F flNV := by decide
    have hnx : Within 0x1F flNX := by decide
    exact within_ite Prod.snd hnv (within_ite Prod.snd hnv (within_flagIf hnx _))

theorem NFmt.encode_flags (f : NFmt) (nfsub : Bool) (rm : Rm) (sat neg : Bool) (m : Nat) (e : Int) :
    Within 0x23F (f.encode nfsub rm sat neg m e).2.2 := by
  unfold NFmt.encode
  have hflush : Within 0x23F (flUF ||| flNX) := by decide
  have hnsat : Within 0x23F flNSAT := by decide
  have hnx : Within 0x23F flNX := by decide
  have huf : Within 0x23F flUF := by decide
  exact within_ite (fun r : Nat × Bool × W64 => r.2.2) (within_flagIf hflush _)
    (within_or (within_or (within_or (within_flagIf hflush _) (within_flagIf hnsat _)) (within_flagIf hnx _)) (within_flagIf huf _))

theorem encodeVal_flags (f : NFmt) (mode : W64) (rm : Rm) (sat : Bool) (v : FVal) (scale : Int) :
    Within 0x23F (encodeVal f mode rm sat v scale).2.2 := by
  cases v with
  | nan => show Within 0x23F flNV; decide
  | inf neg => exact f.encode_flags _ _ _ _ _ _
  | fin neg m e => exact f.encode_flags _ _ _ _ _ _

theorem narrow_flags (rm : Rm) (tag : BitVec 4) (x : W32) (n : Nat) : Within 0x23F (narrow rm tag x n).2 := by
  unfold narrow
  split
  · exact within_convert (fToInt_flags _ _ _ _)
  · exact within_flagIf (by decide) _

/-- One element of a float operation sets flags of the float families only. -/
def FEl.Plain (el : FEl) : Prop := ∀ f mode rm a b c, Within 0x1F (el f mode rm a b c).2

theorem plain_of_result {el : FEl} (r : FFmt → W64 → Rm → Nat → Nat → Nat → Option FVal)
    (h : ∀ f mode rm a b c, el f mode rm a b c = f.result mode rm (r f mode rm a b c)) : el.Plain := by
  intro f mode rm a b c
  rw [h]
  exact f.result_flags _ _ _

theorem plain_of_code {el : FEl} (h : ∀ f mode rm a b c, (el f mode rm a b c).2 = 0) : el.Plain := by
  intro f mode rm a b c
  rw [h]
  exact within_zero _

theorem plain_viaF32 (r : FVal → FVal → FRaw) : (viaF32 r).Plain := by
  intro f mode rm a b c
  unfold viaF32
  dsimp only
  split
  · exact FFmt.ofRaw_flags _ _ _ _
  · exact within_or (FFmt.ofRaw_flags _ _ _ _) (FFmt.put_flags _ _ _ _)

theorem fvLane_flags {el : FEl} (h : el.Plain) (tag : BitVec 4) (mode : W64) (rm : Rm) (a b c : W32) :
    Within 0x1F (fvLane el tag mode rm a b c).2 := by
  unfold fvLane
  dsimp only
  split
  · exact within_or (h _ _ _ _ _ _) (h _ _ _ _ _ _)
  · exact h _ _ _ _ _ _

/-! ### The bodies of the register families -/

/-- The body of a register instruction writes within the destinations of its form and the flags of its family. -/
def RegisterBody (maj min : Nat) (body : Ctx → State → Res) : Prop :=
  ∀ c s, c.f = Form.of maj min → (body c s).Writes c (flagsOf maj) s

/-- What D is, and that it is written. -/
abbrev writesD (maj min : Nat) (d : Cls) : Prop := ((Form.of maj min).d, (Form.of maj min).dw) = (d, true)

section
variable {maj min : Nat}

theorem Ctx.Writes.putVF {c : Ctx} {m : W64} {s u : State} (h : c.Writes m s u) (hd : c.dRef 0 ∈ c.dests)
    {f : Nat → W32 × W64} (hf : ∀ i, Within m (f i).2) (tag : BitVec 4) : c.Writes m s (c.putVF u f tag) :=
  (h.putV hd _ _).orFlags (within_orOver hf _)

theorem Ctx.Writes.putSF {c : Ctx} {m : W64} {s u : State} (h : c.Writes m s u) (hd : c.g.sref c.fd ∈ c.dests)
    {r : W64 × W64} (hr : Within m r.2) : c.Writes m s (c.putSF u r) := (h.putS hd _).orFlags hr

theorem vecOp_writes (hd : writesD maj min (.win 1)) {tags : Ctx → List TagCheck} {tag : Ctx → BitVec 4}
    {f : Ctx → Nat → W32 × W64} (hf : ∀ c i, Within (flagsOf maj) (f c i).2) : RegisterBody maj min (vecOp tags tag f) :=
  fun c s h => Res.Writes.tagged (r := .ok _) ((Ctx.Writes.refl s).putVF (Ctx.dRef_mem_dests h hd) (hf c) _) _

theorem scalOp_writes (hd : writesD maj min .scal) {f : Ctx → W64 × W64} (hf : ∀ c, Within (flagsOf maj) (f c).2) :
    RegisterBody maj min (scalOp f) :=
  fun c s h => Res.Writes.once (r := .ok _) ((Ctx.Writes.refl s).putSF (Ctx.sref_mem_dests h hd) (hf c))

theorem xlVec_writes (hd : writesD maj min (.win 1)) {tags : Ctx → List TagCheck} {bad : Ctx → Bool} {tag : Ctx → BitVec 4}
    {f : Ctx → Nat → W32} : RegisterBody maj min (xlVec tags bad tag f) :=
  fun _ s h => Res.Writes.checked (r := .ok _) ((Ctx.Writes.refl s).putV (Ctx.dRef_mem_dests h hd) _ _) _ _ _

theorem xlScal_writes (hd : writesD maj min .scal) {tags : Ctx → List TagCheck} {bad : Ctx → Bool} {f : Ctx → W64} :
    RegisterBody maj min (xlScal tags bad f) :=
  fun _ s h => Res.Writes.checked
    (Res.Writes.once (r := .ok _) ((Ctx.Writes.refl s).putS (Ctx.sref_mem_dests h hd) _)) _ _ _

theorem xlAll_writes (hd : writesD maj min .predW) {p : Ctx → Bool} : RegisterBody maj min (xlAll p) :=
  fun _ s h => Res.Writes.checked (r := .ok _) ((Ctx.Writes.refl s).putP (Ctx.pref_mem_dests h hd) _) _ _ _

theorem prOp_writes (hd : writesD maj min .predW) {f : Ctx → Mask} : RegisterBody maj min (prOp f) :=
  fun _ s h => Res.Writes.checked (r := .ok _) ((Ctx.Writes.refl s).putP (Ctx.pref_mem_dests h hd) _) _ _ _

theorem icv_writes (hd : writesD maj min .comb) {f : W32 → W32 → Bool} : RegisterBody maj min (icv f) :=
  fun _ s h => Res.Writes.tagged (r := .ok _) ((Ctx.Writes.refl s).putP (Ctx.comb_mem_dests h hd) _) _

theorem fcv_writes (hd : writesD maj min .comb) {f : FVal → FVal → Bool} : RegisterBody maj min (fcv f) :=
  fun _ s h => Res.Writes.tagged (r := .ok _) ((Ctx.Writes.refl s).putP (Ctx.comb_mem_dests h hd) _) _

theorem selV_writes (hd : writesD maj min (.win 1)) : RegisterBody maj min selV :=
  fun _ s h => (Ctx.Writes.refl s).putV (Ctx.dRef_mem_dests h hd) _ _

theorem selS_writes (hd : writesD maj min .scal) : RegisterBody maj min selS := by
  intro c s h
  unfold selS
  dsimp only
  split
  · exact Ctx.Writes.refl s
  · exact (Ctx.Writes.refl s).putS (Ctx.sref_mem_dests h hd) _

theorem movx_writes (hd : writesD maj min (.win 1)) : RegisterBody maj min movx :=
  fun _ s h => Res.Writes.checked (r := .ok _) ((Ctx.Writes.refl s).putV (Ctx.dRef_mem_dests h hd) _ _) _ _ _

theorem rdlpc_writes (hd : writesD maj min (.win 1)) : RegisterBody maj min rdlpc :=
  fun _ s h => (Ctx.Writes.refl s).upd fun g => g.writes_writeLanes (Ctx.dRef_mem_dests h hd) _ _ _

/-! The operations of each family. -/

theorem fv_writes (hm : flagsOf maj = 0x1F) (hd : writesD maj min (.win 1)) {el : FEl} (h : el.Plain)
    {tags : Ctx → List TagCheck} {tag : Ctx → BitVec 4} {t : Ctx → BitVec 4} {m : Ctx → W64} {r : Ctx → Rm}
    {x y z : Ctx → Nat → W32} :
    RegisterBody maj min (vecOp tags tag fun c i => fvLane el (t c) (m c) (r c) (x c i) (y c i) (z c i)) :=
  vecOp_writes hd fun _ _ => hm ▸ fvLane_flags h _ _ _ _ _ _

theorem fsOp_writes (hm : flagsOf maj = 0x1F) (hd : writesD maj min .scal) {el : FEl} (h : el.Plain) :
    RegisterBody maj min (fsOp el) := scalOp_writes hd fun _ => hm ▸ h _ _ _ _ _ _

/-- An integer operation without flags. -/
theorem plainVec_writes (hd : writesD maj min (.win 1)) {tags : Ctx → List TagCheck} {tag : Ctx → BitVec 4}
    {f : Ctx → Nat → W32} : RegisterBody maj min (vecOp tags tag fun c i => (f c i, 0)) :=
  vecOp_writes hd fun _ _ => within_zero _

theorem plainScal_writes (hd : writesD maj min .scal) {f : Ctx → W64} : RegisterBody maj min (scalOp fun c => (f c, 0)) :=
  scalOp_writes hd fun _ => within_zero _

theorem iv2f_writes (hd : writesD maj min (.win 1)) {f : W32 → W32 → W32 × W64}
    (hf : ∀ a b, Within (flagsOf maj) (f a b).2) : RegisterBody maj min (iv2f f) := vecOp_writes hd fun _ _ => hf _ _

theorem is2f_writes (hd : writesD maj min .scal) {f : W64 → W64 → W64 × W64}
    (hf : ∀ a b, Within (flagsOf maj) (f a b).2) : RegisterBody maj min (is2f f) := scalOp_writes hd fun _ => hf _ _

theorem pk2_writes (hd : writesD maj min (.win 1)) {f : W32 → W32 → W32 × W64}
    (hf : ∀ a b, Within (flagsOf maj) (f a b).2) : RegisterBody maj min (pk2 f) := vecOp_writes hd fun _ _ => hf _ _

end

/-! Integer operations (R180, R184). -/

theorem iSadd_flags {n : Nat} (a b : BitVec n) : Within 0x22 (iSadd a b).2 := within_flagIf (by decide) _

theorem iSsub_flags {n : Nat} (a b : BitVec n) : Within 0x22 (iSsub a b).2 := within_flagIf (by decide) _

theorem iDiv_flags {n : Nat} (a b : BitVec n) : Within 0x22 (iDiv a b).2 := by
  have hdz : Within 0x22 flDZ := by decide
  have hsat : Within 0x22 flSAT := by decide
  exact within_ite Prod.snd hdz (within_ite Prod.snd hsat (within_zero _))

theorem iRem_flags {n : Nat} (a b : BitVec n) : Within 0x22 (iRem a b).2 := by
  have hdz : Within 0x22 flDZ := by decide
  exact within_ite Prod.snd hdz (within_ite Prod.snd (within_zero _) (within_zero _))

theorem halvesSat_flags (f : Int → Int → Int) (a b : W32) : Within 0x20 (halvesSat f a b).2 :=
  within_or (satFlag_flags _ _) (satFlag_flags _ _)

theorem rshrn_flags (a b c : W32) : Within 0x20 (rshrn a b c).2 := within_or (satFlag_flags _ _) (satFlag_flags _ _)

theorem sxt2_writes : RegisterBody 5 15 sxt2 :=
  fun _ s h => Res.Writes.tagged (Res.Writes.guarded (r := .ok _)
    ((Ctx.Writes.refl s).putVF (Ctx.dRef_mem_dests h rfl) (fun _ => within_zero _) _) _) _

/-! Conversions (R169 to R175). -/

theorem decodeTo_flags (f : NFmt) (mode : W64) (rm : Rm) (code : Nat) (scale : Int) :
    Within 0x23F (decodeTo f mode rm code scale).2 := within_convert (FFmt.put_flags _ _ _ _)

theorem cvtToF32_writes {min : Nat} (hd : writesD 9 min (.win 1)) (k : Nat) (ok : List (BitVec 4)) :
    RegisterBody 9 min (cvtToF32 k ok) := vecOp_writes hd fun _ _ => within_convert (FFmt.put_flags _ _ _ _)

theorem cvtPair_writes {min : Nat} (hd : writesD 9 min (.win 1)) (f : FFmt) (tag : BitVec 4) :
    RegisterBody 9 min (cvtPair f tag) :=
  vecOp_writes hd fun _ _ => within_convert (within_or (FFmt.put_flags _ _ _ _) (FFmt.put_flags _ _ _ _))

theorem cvtInt_writes {min : Nat} (hd : writesD 9 min (.win 1)) (signed : Bool) : RegisterBody 9 min (cvtInt signed) :=
  vecOp_writes hd fun _ _ => within_convert (fToInt_flags _ _ _ _)

theorem cvtI16x2_writes : RegisterBody 9 5 cvtI16x2 :=
  vecOp_writes rfl fun _ _ => within_or (narrow_flags _ _ _ _) (narrow_flags _ _ _ _)

theorem cvtI8x4_writes : RegisterBody 9 6 cvtI8x4 :=
  vecOp_writes rfl fun _ _ => within_or (within_or (within_or (narrow_flags _ _ _ _) (narrow_flags _ _ _ _))
    (narrow_flags _ _ _ _)) (narrow_flags _ _ _ _)

theorem cvtTonf_writes : RegisterBody 9 7 cvtTonf := vecOp_writes rfl fun _ _ => encodeVal_flags _ _ _ _ _ _

theorem cvtFromnf_writes : RegisterBody 9 8 cvtFromnf := vecOp_writes rfl fun _ _ => decodeTo_flags _ _ _ _ _

theorem cvtRetag_writes : RegisterBody 9 9 cvtRetag :=
  fun _ s h => Res.Writes.guarded (r := .ok _) ((Ctx.Writes.refl s).putV (Ctx.dRef_mem_dests h rfl) _ _) _

theorem quantBlock_flags (f : NFmt) (mode : W64) (rm : Rm) (scale : Nat) (lanes : List (Nat × FVal)) :
    Within 0x23F (quantBlock f mode rm scale lanes).2.2 := by
  have hnv : Within 0x23F flNV := by decide
  have hof : Within 0x23F flOF := by decide
  unfold quantBlock
  dsimp only
  refine within_ite (fun r : List (Nat × Nat) × Nat × W64 => r.2.2) ?_ ?_
  all_goals
    dsimp only
    apply List.foldlRecOn (motive := fun r : List (Nat × Nat) × Bool × W64 => Within 0x23F r.2.2)
    · exact within_zero _
    · rintro ⟨codes, bad, fl⟩ hfl ⟨i, v⟩ -
      cases bad
      · cases v with
        | nan => exact within_or hfl hnv
        | inf neg => exact within_or (within_or hfl (encodeVal_flags _ _ _ _ _ _)) (within_flagIf hof _)
        | fin neg m e => exact within_or (within_or hfl (encodeVal_flags _ _ _ _ _ _)) (within_flagIf hof _)
      · exact hfl

theorem nqQnt_writes : RegisterBody 10 0 nqQnt := by
  intro c s h
  have hb : c.g.sref c.fb ∈ c.dests := Ctx.srefB_mem_dests (by rw [h]; rfl)
  refine Res.Writes.tagged (Res.Writes.guarded (r := .ok _) (Ctx.Writes.orFlags ?_ ?_) _) _
  · split
    · exact ((Ctx.Writes.refl s).putV (Ctx.dRef_mem_dests h rfl) _ _).upd fun g => g.writes_setSval hb _
    · exact (Ctx.Writes.refl s).putV (Ctx.dRef_mem_dests h rfl) _ _
  · exact within_or (quantBlock_flags _ _ _ _ _) (quantBlock_flags _ _ _ _ _)

theorem nqDqnt_writes : RegisterBody 10 1 nqDqnt := by
  intro c s h
  refine Res.Writes.tagged (Res.Writes.guarded (r := .ok _)
    ((Ctx.Writes.refl s).putVF (Ctx.dRef_mem_dests h rfl) (fun i => ?_) _) _) _
  exact within_ite Prod.snd (within_zero _) (decodeTo_flags _ _ _ _ _)

theorem nqBamax_writes : RegisterBody 10 2 nqBamax :=
  fun _ s h => Res.Writes.tagged (Res.Writes.guarded
    (Res.Writes.once (r := .ok _) ((Ctx.Writes.refl s).putS (Ctx.sref_mem_dests h rfl) _)) _) _

theorem nqScaleof_writes : RegisterBody 10 3 nqScaleof :=
  fun _ s h => Res.Writes.once (r := .ok _) ((Ctx.Writes.refl s).putS (Ctx.sref_mem_dests h rfl) _)

theorem nqPack4_writes : RegisterBody 10 4 nqPack4 :=
  fun _ s h => Res.Writes.tagged (r := .ok _) ((Ctx.Writes.refl s).putV (Ctx.dRef_mem_dests h rfl) _ _) _

theorem nqUnpack4_writes : RegisterBody 10 5 nqUnpack4 :=
  fun _ s h => Res.Writes.tagged (r := .ok _) ((Ctx.Writes.refl s).putV (Ctx.dRef_mem_dests h rfl) _ _) _

/-! Sums of F32 across lanes (R148). -/

theorem treeLevel_flags (mode : W64) : ∀ l : List (Option Nat), Within 0x1F (treeLevel mode l).2
  | [] => within_zero _
  | [_] => within_zero _
  | some _ :: some _ :: t => within_or (FFmt.result_flags _ _ _ _) (treeLevel_flags mode t)
  | some _ :: none :: t => treeLevel_flags mode t
  | none :: some _ :: t => treeLevel_flags mode t
  | none :: none :: t => treeLevel_flags mode t

theorem treeFold_flags (mode : W64) (k : Nat) : ∀ r : List (Option Nat) × W64, Within 0x1F r.2 →
    Within 0x1F (treeFold mode k r).2 := by
  induction k with
  | zero => exact fun r h => h
  | succ k ih => exact fun r h => ih _ (within_or h (treeLevel_flags mode r.1))

theorem redFadd_flags (c : Ctx) : Within 0x1F (redFadd c).2 := by
  have htree := treeFold_flags c.mode 6
    ((List.range c.w).map fun i => if c.act.getLsbD i then some (readF32 c.mode (c.opA i)) else none, 0) (within_zero _)
  unfold redFadd
  dsimp only
  split
  · exact within_or htree (FFmt.put_flags _ _ _ _)
  · exact htree

theorem scanFadd_flags (c : Ctx) : Within 0x1F (scanFadd c).2 := by
  unfold scanFadd
  dsimp only
  apply List.foldlRecOn (motive := fun r : Option Nat × List (Nat × Nat) × W64 => Within 0x1F r.2.2)
  · exact within_zero _
  · rintro ⟨sum, codes, fl⟩ hfl i -
    cases sum with
    | none => exact within_or hfl (FFmt.put_flags _ _ _ _)
    | some a => exact within_or hfl (FFmt.result_flags _ _ _ _)

theorem lredfadd_writes : RegisterBody 11 11 fun c s => checked c s (c.needA [tF32]) [] (c.once s (.ok (c.putSF s (redFadd c)))) :=
  fun c s h => Res.Writes.checked
    (Res.Writes.once (r := .ok _) ((Ctx.Writes.refl s).putSF (Ctx.sref_mem_dests h rfl) (redFadd_flags c))) _ _ _

theorem lscanfadd_writes : RegisterBody 11 15 fun c s =>
    let r := scanFadd c
    checked c s (c.needA [tF32]) []
      (.ok (c.upd (c.putV s 0 (fun i => w32 (aget r.1 i 0)) tF32) fun g => g.orFlags r.2)) :=
  fun c s h => Res.Writes.checked (r := .ok _)
    (((Ctx.Writes.refl s).putV (Ctx.dRef_mem_dests h rfl) _ _).orFlags (scanFadd_flags c)) _ _ _

/-! ### The families, row by row -/

/-- Every register instruction issues with a body that writes its destinations and flags and nothing else. -/
theorem exec_register {i : Instr} {o : Ops} {maj min : Nat} (ho : i.ops = some o) (hm : i.majMin = some (maj, min))
    (hr : registerOnly maj min) : ∃ body, (∀ s, exec i s = issue maj min o body s) ∧ RegisterBody maj min body := by
  have result {el : FEl} {r : FFmt → W64 → Rm → Nat → Nat → Nat → Option FVal}
      (h : ∀ f mode rm a b c, el f mode rm a b c = f.result mode rm (r f mode rm a b c)) : el.Plain := plain_of_result r h
  cases i with
  -- IV
  | iadd _ | isub _ | imul _ | imulh _ | imulhn _ | imad _ | imin _ | imax _ | nmin _ | nmax _ | iabs _ | ineg _ | and _ | or _
  | xor _ | andn _ | not _ | shl _ | shr _ | sar _ | rotl _ | clz _ | popc _ | brev _ | bfx _ | bfi _ =>
    cases ho; cases hm; exact ⟨_, fun _ => rfl, plainVec_writes rfl⟩
  | sadd _ => cases ho; cases hm; exact ⟨_, fun _ => rfl, iv2f_writes rfl iSadd_flags⟩
  | ssub _ => cases ho; cases hm; exact ⟨_, fun _ => rfl, iv2f_writes rfl iSsub_flags⟩
  | idiv _ => cases ho; cases hm; exact ⟨_, fun _ => rfl, iv2f_writes rfl iDiv_flags⟩
  | irem _ => cases ho; cases hm; exact ⟨_, fun _ => rfl, iv2f_writes rfl iRem_flags⟩
  | sel _ => cases ho; cases hm; exact ⟨selV, fun _ => rfl, selV_writes rfl⟩
  -- IS
  | iaddS _ | isubS _ | imulS _ | imulhS _ | imulhnS _ | imadS _ | iminS _ | imaxS _ | nminS _ | nmaxS _ | iabsS _ | inegS _
  | andS _ | orS _ | xorS _ | andnS _ | notS _ | shlS _ | shrS _ | sarS _ | rotlS _ | clzS _ | popcS _ | brevS _ | bfxS _
  | bfiS _ =>
    cases ho; cases hm; exact ⟨_, fun _ => rfl, plainScal_writes rfl⟩
  | saddS _ => cases ho; cases hm; exact ⟨_, fun _ => rfl, is2f_writes rfl iSadd_flags⟩
  | ssubS _ => cases ho; cases hm; exact ⟨_, fun _ => rfl, is2f_writes rfl iSsub_flags⟩
  | idivS _ => cases ho; cases hm; exact ⟨_, fun _ => rfl, is2f_writes rfl iDiv_flags⟩
  | iremS _ => cases ho; cases hm; exact ⟨_, fun _ => rfl, is2f_writes rfl iRem_flags⟩
  | selS _ => cases ho; cases hm; exact ⟨selS, fun _ => rfl, selS_writes rfl⟩
  -- ICV, ICS
  | icmpeq _ | icmpne _ | icmplt _ | icmple _ | icmpgt _ | icmpge _ | icmplo _ | icmpls _ | icmphi _ | icmphs _ =>
    cases ho; cases hm; exact ⟨_, fun _ => rfl, icv_writes rfl⟩
  | icmpeqS _ | icmpneS _ | icmpltS _ | icmpleS _ | icmpgtS _ | icmpgeS _ | icmploS _ | icmplsS _ | icmphiS _ | icmphsS _ =>
    cases ho; cases hm; exact ⟨_, fun _ => rfl, plainScal_writes rfl⟩
  -- PK
  | add2 _ | sub2 _ | min2 _ | max2 _ | mul2l _ | cmpm2 _ | pack2 _ | swap2 _ | rshr _ =>
    cases ho; cases hm; exact ⟨_, fun _ => rfl, vecOp_writes rfl fun _ _ => within_zero _⟩
  | sadd2 _ | ssub2 _ | absd2 _ => cases ho; cases hm; exact ⟨_, fun _ => rfl, pk2_writes rfl (halvesSat_flags _)⟩
  | dot2 _ | dot4 _ => cases ho; cases hm; exact ⟨_, fun _ => rfl, vecOp_writes rfl fun _ _ => satFlag_flags _ _⟩
  | rshrn _ => cases ho; cases hm; exact ⟨_, fun _ => rfl, vecOp_writes rfl fun _ _ => rshrn_flags _ _ _⟩
  | sxt2 _ => cases ho; cases hm; exact ⟨sxt2, fun _ => rfl, sxt2_writes⟩
  -- FV
  | fadd _ | fsub _ | fmul _ | ffma _ | ffms _ | fnma _ =>
    cases ho; cases hm; exact ⟨_, fun _ => rfl, fv_writes rfl rfl (result fun _ _ _ _ _ _ => rfl)⟩
  | fmin _ | fmax _ | fminnum _ | fmaxnum _ | fabs _ | fneg _ | fcps _ | frnd _ | fclass _ =>
    cases ho; cases hm; exact ⟨_, fun _ => rfl, fv_writes rfl rfl (plain_of_code fun _ _ _ _ _ _ => rfl)⟩
  | frcp _ | frsq _ | fsqrt _ | fdiv _ | fexp2 _ | flog2 _ | ftanh _ | fsig _ =>
    cases ho; cases hm; exact ⟨_, fun _ => rfl, fv_writes rfl rfl (plain_viaF32 _)⟩
  -- FS
  | faddS _ | fsubS _ | fmulS _ | ffmaS _ | ffmsS _ | fnmaS _ =>
    cases ho; cases hm; exact ⟨_, fun _ => rfl, fsOp_writes rfl rfl (result fun _ _ _ _ _ _ => rfl)⟩
  | fminS _ | fmaxS _ | fminnumS _ | fmaxnumS _ | fabsS _ | fnegS _ | fcpsS _ | frndS _ | fclassS _ =>
    cases ho; cases hm; exact ⟨_, fun _ => rfl, fsOp_writes rfl rfl (plain_of_code fun _ _ _ _ _ _ => rfl)⟩
  | frcpS _ | frsqS _ | fsqrtS _ | fdivS _ | fexp2S _ | flog2S _ | ftanhS _ | fsigS _ =>
    cases ho; cases hm; exact ⟨_, fun _ => rfl, fsOp_writes rfl rfl (plain_viaF32 _)⟩
  -- FCV
  | fcmpeq _ | fcmpne _ | fcmplt _ | fcmple _ | fcmpgt _ | fcmpge _ | fcmpun _ | fcmpord _ =>
    cases ho; cases hm; exact ⟨_, fun _ => rfl, fcv_writes rfl⟩
  -- CVT
  | tof32 _ | hi2f32 _ => cases ho; cases hm; exact ⟨_, fun _ => rfl, cvtToF32_writes rfl _ _⟩
  | tobf16x2 _ | tof16x2 _ => cases ho; cases hm; exact ⟨_, fun _ => rfl, cvtPair_writes rfl _ _⟩
  | toi32 _ | ton32 _ => cases ho; cases hm; exact ⟨_, fun _ => rfl, cvtInt_writes rfl _⟩
  | toi16x2 _ => cases ho; cases hm; exact ⟨cvtI16x2, fun _ => rfl, cvtI16x2_writes⟩
  | toi8x4 _ => cases ho; cases hm; exact ⟨cvtI8x4, fun _ => rfl, cvtI8x4_writes⟩
  | tonf _ => cases ho; cases hm; exact ⟨cvtTonf, fun _ => rfl, cvtTonf_writes⟩
  | fromnf _ => cases ho; cases hm; exact ⟨cvtFromnf, fun _ => rfl, cvtFromnf_writes⟩
  | retag _ => cases ho; cases hm; exact ⟨cvtRetag, fun _ => rfl, cvtRetag_writes⟩
  -- NQ
  | qnt _ => cases ho; cases hm; exact ⟨nqQnt, fun _ => rfl, nqQnt_writes⟩
  | dqnt _ => cases ho; cases hm; exact ⟨nqDqnt, fun _ => rfl, nqDqnt_writes⟩
  | bamax _ => cases ho; cases hm; exact ⟨nqBamax, fun _ => rfl, nqBamax_writes⟩
  | scaleof _ => cases ho; cases hm; exact ⟨nqScaleof, fun _ => rfl, nqScaleof_writes⟩
  | pack4 _ => cases ho; cases hm; exact ⟨nqPack4, fun _ => rfl, nqPack4_writes⟩
  | unpack4 _ => cases ho; cases hm; exact ⟨nqUnpack4, fun _ => rfl, nqUnpack4_writes⟩
  -- XL, MV
  | perm _ | slideup _ | slidedn _ | slideh _ | slidehd _ | pmovXl _ | lscanadd _ | laneid _ | s2v _ | mov _ | movi _ =>
    cases ho; cases hm; exact ⟨_, fun _ => rfl, xlVec_writes rfl⟩
  | ballot _ | bits2 _ | lredadd _ | lredmax _ | lredmin _ | v2s _ | firstlane _ | movs _ | movsi _ | tagrd _ | ptov _ | pcnt _ =>
    cases ho; cases hm; exact ⟨_, fun _ => rfl, xlScal_writes rfl⟩
  | vany _ | vall _ | pall _ => cases ho; cases hm; exact ⟨_, fun _ => rfl, xlAll_writes rfl⟩
  | lredfadd _ => cases ho; cases hm; exact ⟨_, fun _ => rfl, lredfadd_writes⟩
  | lscanfadd _ => cases ho; cases hm; exact ⟨_, fun _ => rfl, lscanfadd_writes⟩
  | movx _ => cases ho; cases hm; exact ⟨movx, fun _ => rfl, movx_writes rfl⟩
  | rdlpc _ => cases ho; cases hm; exact ⟨rdlpc, fun _ => rfl, rdlpc_writes rfl⟩
  -- PR
  | pand _ | por _ | pxor _ | pnot _ | pmovPr _ => cases ho; cases hm; exact ⟨_, fun _ => rfl, prOp_writes rfl⟩
  -- no instruction of another family is a register instruction
  | _ => cases ho <;> cases hm <;> exact absurd hr (by unfold registerOnly; decide)

/-! ### A second try with the tags still to be set (R39) -/

theorem Group.setTags_congr (tag : BitVec 4) (l : List Dest) (g : Group) :
    let h := l.foldl (fun g d => g.setTag d tag) g
    h.id = g.id ∧ h.flow = g.flow ∧ h.budget = g.budget := by
  induction l generalizing g with
  | nil => exact ⟨rfl, rfl, rfl⟩
  | cons d l ih =>
    obtain ⟨h1, h2, h3⟩ := ih (g.setTag d tag)
    exact ⟨h1.trans (Group.setSlot_id _ _ _), h2.trans (Group.setSlot_flow _ _ _), h3.trans (Group.setSlot_budget _ _ _)⟩

theorem Group.setEntryTags_congr (l : List LogEntry) (g : Group) :
    let h := l.foldl (fun g e => e.dests.foldl (fun g d => g.setTag d e.tag) g) g
    h.id = g.id ∧ h.flow = g.flow ∧ h.budget = g.budget := by
  induction l generalizing g with
  | nil => exact ⟨rfl, rfl, rfl⟩
  | cons e l ih =>
    obtain ⟨h1, h2, h3⟩ := ih (e.dests.foldl (fun g d => g.setTag d e.tag) g)
    obtain ⟨e1, e2, e3⟩ := Group.setTags_congr e.tag e.dests g
    exact ⟨h1.trans e1, h2.trans e2, h3.trans e3⟩

theorem State.racedTags_congr {s : State} {g h : Group} (hr : s.racedTags g = some h) :
    h.id = g.id ∧ h.flow = g.flow ∧ h.budget = g.budget := by
  unfold State.racedTags at hr
  split at hr
  · cases hr
  · cases hr
    exact Group.setEntryTags_congr _ g

/-- Tried once or twice, the body of a register instruction writes the destinations of the fields. -/
theorem RegisterBody.attempt {maj min : Nat} {body : Ctx → State → Res} (hb : RegisterBody maj min body) {c : Ctx}
    (hf : c.f = Form.of maj min) (s : State) : (c.attempt s body).Writes c (flagsOf maj) s := by
  have hfirst := hb c s hf
  unfold Ctx.attempt
  split
  · split
    · rename_i g hg
      obtain ⟨hid, hflow, hbud⟩ := State.racedTags_congr hg
      have hsecond : (body { c with g := g } s).Writes c (flagsOf maj) s := by
        have h := hb { c with g := g } s hf
        cases hr : body { c with g := g } s with
        | ok u =>
          rw [hr] at h
          obtain ⟨f, hw, hu⟩ := h
          exact ⟨f, by rwa [Ctx.dests_congr hflow hbud] at hw, by rw [hu]; exact congrArg (s.onGroup · f) hid⟩
        | trap k v => trivial
        | _ => rw [hr] at h; exact h
      split
      · trivial
      · exact hsecond
    · trivial
  · exact hfirst

/-! ### A context in which a trap was raised does not go on -/

/-- No context numbered `id` runs at trap level `tl` without a trap, a freeze, a hold or a stall. -/
def State.Stopped (id : Nat) (tl : Bool) (u : State) : Prop :=
  ∀ h, u.group? id = some h → h.pend = none → h.flow.tl = tl → h.hold = .none → h.frozen = none → h.stall = none → False

section
variable {s : State} {id : Nat} {tl : Bool}

theorem State.stopped_onGroup {f : Group → Group} (hid : ∀ g, (f g).id = g.id)
    (h : ∀ g, (f g).pend ≠ none ∨ (f g).flow.tl ≠ tl ∨ (f g).hold ≠ .none ∨ (f g).frozen ≠ none ∨ (f g).stall ≠ none) :
    (s.onGroup id f).Stopped id tl := by
  intro k hk hp ht hh hf hs
  rw [group?_onGroup hid] at hk
  obtain ⟨g, -, rfl⟩ := Option.map_eq_some_iff.mp hk
  rcases h g with h | h | h | h | h <;> contradiction

theorem State.stopped_haltCore {g : Group} (hg : g.id = id) : (s.haltCore g).Stopped id tl :=
  hg ▸ State.stopped_onGroup (s := s) (f := fun h => { h with hold := .halted }) (fun _ => rfl) fun _ => by simp

theorem State.stopped_freeze {g : Group} (hg : g.id = id) (cause va ipa : Nat) : (s.freeze g cause va ipa).Stopped id tl := by
  subst hg
  unfold State.freeze
  split
  · exact State.stopped_haltCore rfl
  · dsimp only
    split
    · exact State.stopped_onGroup (fun _ => rfl) fun _ => by simp
    · exact State.stopped_onGroup (fun _ => rfl) fun _ => by simp

theorem State.stopped_enterTrap {g : Group} (hg : g.id = id) (htl : tl = false) (t : PendTrap) : (s.enterTrap g t).Stopped id tl := by
  subst hg htl
  unfold State.enterTrap
  dsimp only
  split
  · exact State.stopped_freeze rfl _ _ _
  · split
    · split
      · exact State.stopped_freeze rfl _ _ _
      · exact State.stopped_onGroup (fun _ => rfl) fun _ => by simp [Group.enterHandler]
    · split
      · exact State.stopped_haltCore rfl
      · split
        · exact State.stopped_onGroup (fun _ => rfl) fun _ => by simp
        · exact State.stopped_onGroup (fun _ => rfl) fun _ => by simp
    · exact State.stopped_freeze rfl _ _ _
    · exact State.stopped_freeze rfl _ _ _
    · exact State.stopped_freeze rfl _ _ _

theorem State.stopped_raise {g : Group} (hg : s.group? id = some g) (htl : g.flow.tl = tl) (t : PendTrap) :
    (s.raise id t).Stopped id tl := by
  have hid : g.id = id := by simpa using List.find?_some hg
  unfold State.raise
  rw [hg]
  dsimp only
  split
  · split
    · exact State.stopped_haltCore hid
    · exact State.stopped_freeze hid _ _ _
  · rename_i ht
    split
    · exact State.stopped_enterTrap hid (by simpa [htl] using ht) t
    · exact State.stopped_onGroup (fun _ => rfl) fun _ => by simp

end

/-! ### Moving past an instruction changes the place in the flow alone (R36, R141) -/

theorem loopEnd_rest (hd : W64) (f : List Nat) (l : List LoopEntry) (g : Group) : ∃ lpc loops,
    loopEnd g hd f l = { g with flow := { g.flow with lpc := lpc, loops := loops } } := by
  induction l with
  | nil => exact ⟨_, _, rfl⟩
  | cons e l ih =>
    unfold loopEnd
    dsimp only
    split
    · exact ⟨_, _, rfl⟩
    · split
      · exact ih
      · exact ⟨_, _, rfl⟩

theorem Group.endClause_rest (g : Group) (cl : Clause) (next : W64) (loops : Bool) : ∃ lpc loops',
    g.endClause cl next loops = { g with flow := { g.flow with lpc := lpc, loops := loops' }, clause := none } := by
  unfold Group.endClause
  dsimp only
  split
  · exact loopEnd_rest _ _ _ _
  · exact ⟨_, _, rfl⟩

theorem Group.advance_rest {g : Group} {cl : Clause} (hc : g.clause = some cl) (words : Nat) (loops : Bool) : ∃ lpc loops' cl',
    g.advance words loops =
      { g with flow := { g.flow with lpc := lpc, loops := loops' }, clause := cl', stall := none, lost := 0 } := by
  unfold Group.advance
  rw [hc]
  dsimp only
  split
  · exact ⟨_, _, _, rfl⟩
  · split
    · obtain ⟨lpc, l, h⟩ := Group.endClause_rest { g with stall := none, lost := 0 }
        { cl with next := cl.next + w64 (4 * words), pos := cl.pos + 1, seq := _ } (cl.next + w64 (4 * words)) loops
      exact ⟨lpc, l, none, h⟩
    · exact ⟨_, _, _, rfl⟩

theorem Group.advance_id (g : Group) (words : Nat) (loops : Bool) : (g.advance words loops).id = g.id := by
  cases hc : g.clause with
  | none => simp [Group.advance, hc]
  | some cl =>
    obtain ⟨lpc, l, cl', h⟩ := Group.advance_rest hc words loops
    rw [h]

/-! ### The frame -/

/-- A register instruction leads to no header but the one that follows. -/
theorem Ctx.leadsTo_register {c : Ctx} (h : registerOnly c.maj c.min) (s : State) : c.leadsTo s = [] := by
  have hne : c.maj ≠ 0x1C ∧ c.maj ≠ 0x10 ∧ c.maj ≠ 0x22 := by unfold registerOnly at h; omega
  simp [Ctx.leadsTo, hne]

/-- A register instruction that goes on has made its writes, and has moved on. -/
theorem register_goesOn {s t u : State} {maj min : Nat} {o : Ops} {g h : Group} {cl : Clause} {body : Ctx → State → Res}
    (hb : RegisterBody maj min body) (hclear : Clear s maj min o g cl t) (hg : t.group? g.id = some g)
    (hu : issue maj min o body s = .next u) (ho : goesOn g u h) :
    ∃ v, (s.ctx maj min o g cl).Writes (flagsOf maj) t v ∧
      u = v.onGroup g.id fun k => k.advance (s.ctx maj min o g cl).words true := by
  obtain ⟨hh, hpend, htl, hhold, hfrozen, hstall⟩ := ho
  have hw := hb.attempt (c := s.ctx maj min o g cl) rfl t
  have hissue := issue_of_clear hclear body (by intro w hs; rw [hs] at hw; exact hw)
  rw [hu] at hissue
  cases hr : (s.ctx maj min o g cl).attempt t body with
  | ok v =>
    rw [hr] at hw hissue
    cases hissue
    exact ⟨v, hw, rfl⟩
  | trap k i =>
    rw [hr] at hissue
    cases hissue
    exact (State.stopped_raise hg htl.symm _ h hh hpend rfl hhold hfrozen hstall).elim
  | _ => rw [hr] at hw; exact hw.elim

/-- Settles O58: the shared checks change no context, the body writes within its destinations and flags, and moving on changes the
place in the flow. -/
theorem registerFrame : Obligations.RegisterFrame := by
  intro i o maj min s t u g h cl hops hmm hreg hclear hexec hgo c
  obtain ⟨body, hissue, hbody⟩ := exec_register hops hmm hreg
  have hcur : g.id = s.cur := by simpa using List.find?_some hclear.turn
  have hgroups : t.groups = s.groups := by
    have hb := State.groups_of_besideWalks (s.headerChecks_beside c)
    rwa [hclear.follows] at hb
  have hg : t.group? g.id = some g := by rw [State.group?, hgroups, hcur]; exact hclear.turn
  obtain ⟨v, ⟨f, hf, rfl⟩, rfl⟩ := register_goesOn hbody hclear hg ((hissue s).symm.trans hexec) hgo
  obtain ⟨lpc, loops, cl', hadv⟩ := Group.advance_rest (g := f g) (cl := cl) (by rw [(hf g).rest]; exact hclear.open') c.words true
  have hfid : ∀ k, (f k).id = k.id := fun k => (hf k).id_eq
  have hid : ∀ k : Group, (k.advance c.words true).id = k.id := fun k => k.advance_id _ _
  have hh : h = (f g).advance c.words true := by
    have h1 := hgo.1
    rw [group?_onGroup hid, show (s.ctx maj min o g cl).g.id = g.id from rfl, group?_onGroup hfid, hg] at h1
    exact (Option.some.inj h1).symm
  refine ⟨rfl, fun _ => rfl, fun hpos => ?_, fun k hk => ?_, g, hg, fun d hd => ?_, ?_, ?_, ?_⟩
  · have hin := State.headerChecks_inside (s := s) (c := c) hpos (Ctx.leadsTo_register hreg)
    rw [hclear.follows] at hin
    exact (Prod.mk.inj hin).1
  · exact (group?_onGroup_ne hid hk).trans (group?_onGroup_ne hfid hk)
  · rw [hh, hadv]
    exact (hf g).regs d hd
  · rw [hh, hadv]
    exact (hf g).others
  · rw [hh, hadv]
    exact (hf g).sticky
  · rw [hh, hadv]
    conv_lhs => rw [(hf g).rest]

end Sys2Proof.Machine
end

section
/-! What the shared operations on lists, windows, barriers and batches leave as it was (05 R94 to R124). -/
namespace Sys2Proof.Machine
open Sys2Proof.Stated

/-! ### Lookups after a replacement -/

/-- The object found by its number, after every object of that number was replaced. -/
theorem find?_replace {α : Type} {key : α → Nat} {l : List α} {x y : α}
    (hx : l.find? (fun a => key a == key y) = some x) :
    (l.map fun a => if key a == key y then y else a).find? (fun a => key a == key y) = some y := by
  induction l with
  | nil => cases hx
  | cons a l ih =>
    rw [List.map_cons]
    by_cases ha : (key a == key y) = true
    · rw [if_pos ha]
      exact List.find?_cons_of_pos (p := fun a => key a == key y) (beq_self_eq_true (key y))
    · rw [if_neg ha]
      rw [List.find?_cons_of_neg (p := fun a => key a == key y) ha] at hx ⊢
      exact ih hx

/-- What is found by the number after every object of that number was replaced. -/
theorem find?_replace_eq {α : Type} {key : α → Nat} {l : List α} {y z : α}
    (hz : (l.map fun a => if key a == key y then y else a).find? (fun a => key a == key y) = some z) : z = y := by
  obtain ⟨a, _, rfl⟩ := List.mem_map.mp (List.mem_of_find?_eq_some hz)
  have hk := List.find?_some hz
  split at hk
  next h => exact if_pos h
  next h => exact absurd hk h

section
variable {s : State}

theorem State.copy?_setCopy_eq {c z : Copy} (h : (s.setCopy c).copy? c.id = some z) : z = c := find?_replace_eq h

theorem State.team?_setTeam {t x : Team} (h : s.team? t.id = some x) : (s.setTeam t).team? t.id = some t := find?_replace h

theorem State.copy?_setCopy {c x : Copy} (h : s.copy? c.id = some x) : (s.setCopy c).copy? c.id = some c := find?_replace h

theorem State.work?_setWork {w x : Work} (h : s.work? w.id = some x) : (s.setWork w).work? w.id = some w := find?_replace h

theorem State.entry?_setEntry {e x : LogEntry} (h : s.entry? e.id = some x) : (s.setEntry e).entry? e.id = some e :=
  find?_replace h

theorem State.gang?_setGang {k x : Gang} (h : s.gang? k.id = some x) : (s.setGang k).gang? k.id = some k := find?_replace h

end

theorem aget_aset {α : Type} (l : List (Nat × α)) (k : Nat) (v d : α) : aget (aset l k v) k d = v := by
  simp [aget, aset]

@[simp] theorem State.tile_setTile (s : State) (n : Nat) (t : Tile) : (s.setTile n t).tile n = t := aget_aset _ _ _ _

@[simp] theorem State.die_setDie (s : State) (n : Nat) (d : Die) : (s.setDie n d).die n = d := aget_aset _ _ _ _

theorem foldl_frame {α β γ : Type} (p : β → γ) {f : β → α → β} (h : ∀ b a, p (f b a) = p b) (l : List α) (b : β) :
    p (l.foldl f b) = p b := by
  induction l generalizing b with
  | nil => rfl
  | cons a l ih => exact (ih _).trans (h b a)

/-! ### Windows, barriers and paths -/

/-- The state beside tiles, teams and contexts. -/
def State.besideTiles (s : State) : State := { s with tiles := [], teams := [], groups := [] }

theorem State.windowWrite_beside (s : State) (team off : Nat) (bs : List Byte) :
    (s.windowWrite team off bs).besideTiles = s.besideTiles := by
  unfold State.windowWrite
  split
  · rfl
  · split <;> rfl

theorem State.windowWriteKeep_beside (s : State) (team off : Nat) (bs : List Byte) :
    (s.windowWriteKeep team off bs).besideTiles = s.besideTiles := by
  unfold State.windowWriteKeep
  split
  · exact s.windowWrite_beside _ _ _
  · refine foldl_frame State.besideTiles (fun u i => ?_) _ _
    split
    · exact u.windowWrite_beside _ _ _
    · rfl

theorem State.setBar_beside (s : State) (team off : Nat) (b : Bar) : (s.setBar team off b).besideTiles = s.besideTiles :=
  s.windowWrite_beside _ _ _

theorem State.copyInto_beside (s : State) (team off : Nat) (bs : List Byte) :
    (s.copyInto team off bs).besideTiles = s.besideTiles :=
  (foldl_frame State.besideTiles (fun u b => u.setBar_beside team b _) _ _).trans (s.windowWriteKeep_beside _ _ _)

/-- The state beside the tiles. -/
def State.besideStores (s : State) : State := { s with tiles := [] }

theorem State.seePaths_beside (s : State) (g : Group) : (s.seePaths g).besideStores = s.besideStores :=
  by
  unfold State.seePaths
  exact foldl_frame State.besideStores (f := fun u t => u.setTile t ((u.tile t).seeAll g.id)) (fun _ _ => rfl) _ _

theorem State.acquireAt_beside (s : State) (g : Group) (scope : Nat) : (s.acquireAt g scope).besideStores = s.besideStores := by
  unfold State.acquireAt
  split
  · dsimp only
    split
    · exact s.seePaths_beside g
    · exact s.seePaths_beside g
  · rfl

theorem State.besideTiles_of_stores {s t : State} (h : s.besideStores = t.besideStores) : s.besideTiles = t.besideTiles :=
  congrArg (fun u : State => { u with teams := [], groups := [] }) h

theorem State.releaseWaiters_beside (s : State) (team off : Nat) (v : Bool) :
    (s.releaseWaiters team off v).besideTiles = s.besideTiles := by
  refine foldl_frame State.besideTiles (fun u g => ?_) _ _
  split
  · cases v
    · rfl
    · exact (rfl : _ = (u.acquireAt g 2).besideTiles).trans (State.besideTiles_of_stores (u.acquireAt_beside g 2))
  · rfl

theorem State.barTest_beside (s : State) (team off : Nat) : (s.barTest team off).besideTiles = s.besideTiles := by
  unfold State.barTest
  dsimp only
  split
  · exact (State.releaseWaiters_beside _ _ _ _).trans (s.setBar_beside _ _ _)
  · rfl

theorem State.deliver_beside (s : State) (team off n : Nat) : (s.deliver team off n).besideTiles = s.besideTiles := by
  unfold State.deliver
  split
  · exact (State.barTest_beside _ _ _).trans (s.setBar_beside _ _ _)
  · exact s.windowWrite_beside _ _ _

theorem State.acknowledge_beside (s : State) (team off count : Nat) : (s.acknowledge team off count).besideTiles = s.besideTiles := by
  unfold State.acknowledge
  split
  · exact (State.barTest_beside _ _ _).trans (s.setBar_beside _ _ _)
  · exact s.windowWrite_beside _ _ _

section
variable {s t : State}

theorem State.copies_of_besideTiles (h : s.besideTiles = t.besideTiles) : s.copies = t.copies := congrArg (·.copies) h

theorem State.copy?_of_besideTiles (h : s.besideTiles = t.besideTiles) (id : Nat) : s.copy? id = t.copy? id :=
  congrArg (List.find? (fun c : Copy => c.id == id)) (State.copies_of_besideTiles h)

end

/-! ### Faults that hold a context (21 R366, R369) -/

/-- The state beside the contexts, the dies, the tokens with their numbers, and the notes. -/
def State.besideFaults (s : State) : State := { s with groups := [], dies := [], tokens := [], notes := [], nextId := 0 }

theorem State.postFault_beside {s t : State} {r : FaultRec} {who : Waiter} {n : Nat} (h : s.postFault r who = some (n, t)) :
    t.besideFaults = s.besideFaults := by
  unfold State.postFault at h
  dsimp only at h
  split at h
  · cases h
  · cases h
    rfl

theorem State.freeze_beside (s : State) (g : Group) (cause va ipa : Nat) :
    (s.freeze g cause va ipa).besideFaults = s.besideFaults := by
  unfold State.freeze
  split
  · rfl
  · dsimp only
    split
    next => rfl
    next num t h => exact (State.postFault_beside h :)

/-! ### Batches -/

theorem State.closeBatch_none {s : State} {id : Nat} (h : s.copy? id = none) (g : Group) (d : Dest) :
    (s.closeBatch g d).copy? id = none := by
  show (List.map _ s.copies).find? _ = none
  rw [List.find?_map, Option.map_eq_none_iff]
  refine (List.find?_congr fun c _ => ?_).trans h
  simp only [Function.comp]
  split <;> rfl

/-- The completion of a batch brings no copy back. -/
theorem State.batchCheck_none {s : State} {id : Nat} (h : s.copy? id = none) (grp : Nat) : (s.batchCheck grp).copy? id = none := by
  unfold State.batchCheck
  split
  · split
    · split
      · exact h
      · dsimp only
        split
        next d _ => exact State.closeBatch_none h _ d
        next => exact h
    · exact h
  · exact h

end Sys2Proof.Machine
end

section
/-! The events of memory and of trap entries (03 R48, R55, R58; 04 R68, R70; 21 R361, R367, R371). -/
namespace Sys2Proof.Machine
open Sys2Proof.Stated

/-! ### Memory -/

theorem State.dies_of_beside {s t : State} (h : s.beside = t.beside) : s.dies = t.dies := congrArg (·.dies) h

theorem State.die_of_dies {s t : State} (h : s.dies = t.dies) (n : Nat) : s.die n = t.die n := by
  unfold State.die
  rw [h]

@[simp] theorem State.homeWrite_dies (s : State) (pa : Nat) (bs : List Byte) (hint inst : Nat) :
    (s.homeWrite pa bs hint inst).dies = s.dies := State.dies_of_beside (s.homeWrite_beside pa bs hint inst)

@[simp] theorem State.homeWriteAll_dies (s : State) (pa : Nat) (bs : List Byte) (hint : Nat) :
    (s.homeWriteAll pa bs hint).dies = s.dies := foldl_frame State.dies (fun _ _ => by simp) _ _

@[simp] theorem State.ringPut_dies (s : State) (r : Ring) (f : FaultRec) : (s.ringPut r f).dies = s.dies := by
  simp [State.ringPut]

/-- A number's value in a list whose values were all mapped. -/
theorem aget_map {α : Type} (l : List (Nat × α)) (f : α → α) (k : Nat) (d : α) (hd : f d = d) :
    aget (l.map fun p => (p.1, f p.2)) k d = f (aget l k d) := by
  unfold aget
  rw [List.find?_map]
  cases h : l.find? fun p => p.1 == k with
  | none => simpa [Function.comp_def, h] using hd.symm
  | some p => simp [h]

theorem State.offPath_gone (s : State) (tile id : Nat) : ∀ p ∈ ((s.offPath id).tile tile).path, p.id ≠ id := by
  intro p hp
  have heq : (s.offPath id).tile tile
      = { s.tile tile with path := (s.tile tile).path.filter fun e => e.id != id } :=
    aget_map s.tiles (fun t : Tile => { t with path := t.path.filter fun e => e.id != id }) tile {} rfl
  rw [heq] at hp
  exact bne_iff_ne.mp (List.mem_filter.mp hp).2

theorem storePerform_gone {s : State} {tile n : Nat} {e : PathEntry} {bs : List Byte}
    (he : (s.tile tile).path.find? (fun p => p.id == n) = some e) (ho : e.op = .store bs) (hr : s.pathsReady n = true) :
    ∀ p ∈ ((storePerform s tile n).tile tile).path, p.id ≠ n := by
  have h : storePerform s tile n = (s.homeWrite e.pa bs e.hint e.inst).offPath n := by
    simp only [storePerform, he, ho, if_pos hr]
  rw [h]
  exact State.offPath_gone _ _ _

theorem State.atReturn_of_notHeld {s : State} {e : LogEntry} {g : Group} (hg : s.group? e.grp = some g) (hn : notHeld g e) :
    s.atReturn e = false := by
  unfold State.atReturn
  rw [hg]
  rcases hn with h | h <;> simp [h]

theorem vlComplete_completes {s : State} {e : LogEntry} {g : Group} {lanes : Nat} (he : s.entry? e.id = some e)
    (hg : s.group? e.grp = some g) (hr : s.residentGroup g = true) (hs : e.state = .running) (hu : e.untranslated = false)
    (hn : notHeld g e) : vlComplete s e.id lanes = .next (s.completeEntry g e lanes) := by
  simp [vlComplete, he, hg, hr, hs, hu, State.atReturn_of_notHeld hg hn]

theorem translationWalk_fills {s u : State} {tile va asid vmid vmt kind : Nat} {r : TRes} {e : TlbEntry} (ht : tile < 1000)
    (hv : va < 2 ^ 52) (hw : s.walkWanted (.tile tile) va asid vmid = true)
    (hf : s.tlbFind { master := .tile tile, asid := asid, vmid := vmid } va = none) (hb : s.vmtbase = some vmt)
    (hk : s.walk vmt { master := .tile tile, asid := asid, vmid := vmid } va 1 (kindOfNum kind) = (u, r, some e)) :
    translationWalk s tile va asid vmid kind = u.tlbFill (.tile tile) e := by
  have hm : masterOfNum tile = some (.tile tile) := if_pos ht
  simp only [translationWalk, hm]
  rw [if_neg (by simpa [hw, hf] using hv)]
  simp only [State.tableOf, hb, hk]

theorem State.badRead_setDie (s : State) (n : Nat) (d : Die) (pa k : Nat) : (s.setDie n d).badRead pa k = s.badRead pa k := rfl

theorem gatherWriteback_gone {s : State} {die n : Nat} {g : Gather} (hg : (s.die die).gathers[n]? = some g)
    (hb : s.badRead g.desc 8 = false) : ((gatherWriteback s die n).die die).gathers = (s.die die).gathers.eraseIdx n := by
  have h : ∀ u : State, u.badRead g.desc 8 = false → (u.writeGather die g).die die = u.die die := fun u hu => by
    rw [State.writeGather, if_neg (by simp [hu])]
    exact State.die_of_dies (State.homeWrite_dies _ _ _ _ _) die
  simp only [gatherWriteback, hg]
  rw [h _ ((State.badRead_setDie _ _ _ _ _).trans hb), State.die_setDie]

theorem postRecord_gone {s : State} {die : Nat} {f : FaultRec} {l : List FaultRec} (hb : (s.die die).buffer = f :: l)
    (ht : s.ringTakes (s.ringOf f) = true) : ((postRecord s die).die die).buffer = l := by
  have hp : s.postable 0 (f :: l) = some (0, f) := if_pos ht
  simp only [postRecord, hb, hp]
  rw [State.die_of_dies (State.ringPut_dies _ _ _), State.die_setDie]
  rfl

theorem State.freeze_health (s : State) (g : Group) (cause va ipa : Nat) : (s.freeze g cause va ipa).health = s.health :=
  congrArg (·.health) (State.freeze_beside s g cause va ipa)

theorem uncorrectable_health (s : State) (addr : Nat) :
    (uncorrectable s addr).health = { s.health with uecnt := min 0xFF (s.health.uecnt + 1) } := by
  unfold uncorrectable
  dsimp only
  split
  · split <;> rfl
  · split
    · split
      · rfl
      · exact State.freeze_health _ _ _ _ _
    · rfl

/-! ### Trap entry -/

theorem PendTrap.causeWord_eq (t : PendTrap) : t.causeWord = causeOf t := by
  have hc : t.cause.code = trapCode t.cause := by cases t.cause <;> rfl
  unfold PendTrap.causeWord causeOf
  rw [hc, Nat.mul_comm (2 ^ 10), Nat.mul_comm (2 ^ 14), Nat.mul_comm (2 ^ 18)]
  rfl

theorem State.enterTrap_enters {s u : State} {g : Group} {t : PendTrap} {w : W32} (hv : g.csrs.trapvec ≠ 0)
    (hs : g.sameHi g.csrs.trapvec = true) (hf : s.fetchWord g g.csrs.trapvec = (u, .ok w)) (hw : headerBad w = none) :
    s.enterTrap g t = u.onGroup g.id fun h => h.enterHandler t := by
  unfold State.enterTrap
  dsimp only
  rw [if_neg (by simp only [hs, decide_eq_true_eq, Bool.not_true, Bool.or_false]; exact hv), hf]
  exact if_neg (by rw [hw]; exact Bool.false_ne_true)

theorem trapEntry_enters {s u : State} {g : Group} {t : PendTrap} {w : W32} (hg : s.group? g.id = some g) (hp : g.pend = some t)
    (hh : g.hold = .trapEntry) (hf : g.frozen = none) (hst : g.stall = none) (hr : s.gangRuns g = true)
    (he : s.earlierDone g = true) (hv : g.csrs.trapvec ≠ 0) (hs : g.sameHi g.csrs.trapvec = true)
    (hw : s.fetchWord g g.csrs.trapvec = (u, .ok w)) (hb : headerBad w = none) (hu : u.group? g.id = some g) :
    (trapEntry s g.id).group? g.id = some (g.enterHandler t) := by
  have h : trapEntry s g.id = s.enterTrap g t := by
    simp [trapEntry, hg, hp, hh, hf, hr, he, State.stallOver, hst]
  rw [h, State.enterTrap_enters hv hs hw hb, group?_onGroup (fun h => by simp [Group.enterHandler]), hu]
  rfl

end Sys2Proof.Machine
end

section
/-! The events of copies (05 R106 to R113, R122). -/
namespace Sys2Proof.Machine
open Sys2Proof.Stated

/-- The first element that meets a condition is the first that meets more, where it does. -/
theorem find?_and {α : Type} {p q : α → Bool} {l : List α} {x : α} (h : l.find? p = some x) (hq : q x = true) :
    l.find? (fun a => p a && q a) = some x := by
  obtain ⟨hp, as, bs, rfl, hn⟩ := List.find?_eq_some_iff_append.mp h
  refine List.find?_eq_some_iff_append.mpr ⟨by simp [hp, hq], as, bs, rfl, fun a ha => ?_⟩
  simp [(Bool.not_eq_true' _).mp (hn a ha)]

/-! ### A lane reads its source -/

theorem State.freeReads_copies (s : State) (id : Nat) : (s.freeReads id).copies = s.copies := by
  unfold State.freeReads
  split
  · split <;> rfl
  · rfl

theorem State.laneRead_copy? {s : State} {c x : Copy} (l : CopyLane) (bs : List Byte) (h : s.copy? c.id = some x) :
    (s.laneRead c l bs).copy? c.id = some { c with
      line := some l.lineNo, lanes := c.lanes.map fun m => if m.lane = l.lane then { m with data := some bs } else m } := by
  unfold State.laneRead State.copy?
  rw [State.freeReads_copies]
  exact State.copy?_setCopy (c := { c with
    line := some l.lineNo, lanes := c.lanes.map fun m => if m.lane = l.lane then { m with data := some bs } else m }) h

section
variable {s : State} {k : Copy} {l : CopyLane}

/-- The copy engine reaches a lane that it goes on with, and that is still to be read. -/
theorem copyTransfer_unread (hk : s.copy? k.id = some k) (hm : s.copyMoves k = true) (hg : s.laneGoes k l = true)
    (hl : k.lanes.find? (fun m => m.lane == l.lane) = some l) (hd : l.data = none) :
    copyTransfer s k.id l.lane = s.copyRead k l := by
  simp only [copyTransfer, hk, if_pos hm, find?_and hl hg, hd]

/-- The copy engine reaches a lane that it goes on with, and that has been read. -/
theorem copyTransfer_read {bs : List Byte} (hk : s.copy? k.id = some k) (hm : s.copyMoves k = true) (hg : s.laneGoes k l = true)
    (hl : k.lanes.find? (fun m => m.lane == l.lane) = some l) (hd : l.data = some bs) :
    copyTransfer s k.id l.lane = if k.remote || k.mc then .next (s.takeReturns k l) else s.copyWrite k l bs := by
  simp only [copyTransfer, hk, if_pos hm, find?_and hl hg, hd]

theorem copyTransfer_reads {t off : Nat} (hk : s.copy? k.id = some k) (hm : s.copyMoves k = true) (hg : s.laneGoes k l = true)
    (hl : k.lanes.find? (fun m => m.lane == l.lane) = some l) (hd : l.data = none) (hs : l.src = .loc t off) :
    ∃ u k', copyTransfer s k.id l.lane = .next u ∧ u.copy? k.id = some k' ∧
      ∃ m ∈ k'.lanes, m.lane = l.lane ∧ m.data = some (s.windowRead t off k.n) := by
  refine ⟨s.laneRead k l (s.windowRead t off k.n), _, ?_, State.laneRead_copy? l _ hk,
    { l with data := some (s.windowRead t off k.n) }, List.mem_map.mpr ⟨l, List.mem_of_find?_eq_some hl, if_pos rfl⟩, rfl, rfl⟩
  rw [copyTransfer_unread hk hm hg hl hd]
  simp only [State.copyRead, hs]

theorem bankArbitration_reads {rest : List CopyLane} {tile t off : Nat}
    (hf : s.copies.find? (fun k => s.copyTile k == tile && s.copyMoves k) = some k) (hk : s.copy? k.id = some k)
    (hl : k.lanes = l :: rest) (hg : s.laneGoes k l = true) (hd : l.data = none) (hs : l.src = .loc t off) :
    ∃ u k', bankArbitration s tile = .next u ∧ u.copy? k.id = some k' ∧
      ∃ m ∈ k'.lanes, m.lane = l.lane ∧ m.data = some (s.windowRead t off k.n) := by
  have hp := List.find?_some hf
  have hfirst : k.lanes.find? (fun m => m.lane == l.lane) = some l := by
    rw [hl]
    exact List.find?_cons_of_pos (p := fun m : CopyLane => m.lane == l.lane) (beq_self_eq_true _)
  have hb : bankArbitration s tile = copyTransfer s k.id l.lane := by simp only [bankArbitration, hf, hl]
  rw [hb]
  exact copyTransfer_reads hk (Bool.and_eq_true_iff.mp hp).2 hg hfirst hd hs

end

/-! ### A lane is done -/

/-- No lane of the copy has the number. -/
def laneGone (u : State) (id lane : Nat) : Prop := ∀ k', u.copy? id = some k' → ∀ m ∈ k'.lanes, m.lane ≠ lane

theorem laneGone_of_besideTiles {u v : State} {id lane : Nat} (h : u.besideTiles = v.besideTiles) (hv : laneGone v id lane) :
    laneGone u id lane := fun k' hk => hv k' (by rwa [← State.copy?_of_besideTiles h])

theorem State.laneDone_gone (u : State) (id lane : Nat) : laneGone (u.laneDone id lane) id lane := by
  intro k' hk
  unfold State.laneDone at hk
  split at hk
  next c hc =>
    have hid : c.id = id := by simpa using List.find?_some hc
    dsimp only at hk
    split at hk
    · rw [State.batchCheck_none (id := id)] at hk
      · cases hk
      · exact List.find?_eq_none.mpr fun d hd => by simpa using (List.mem_filter.mp hd).2
    · subst hid
      obtain rfl := State.copy?_setCopy_eq (c := { c with lanes := c.lanes.filter fun m => m.lane != lane }) hk
      exact fun m hm => bne_iff_ne.mp (List.mem_filter.mp hm).2
  next hc => exact absurd (hc.symm.trans hk) (by simp)

theorem State.copyDeliver_beside (s : State) (c : Copy) : (s.copyDeliver c).besideTiles = s.besideTiles := by
  unfold State.copyDeliver
  split
  · exact s.deliver_beside _ _ _
  · rfl

theorem State.laneDone_copyDeliver_gone (u : State) (c : Copy) (id lane : Nat) :
    laneGone ((u.laneDone id lane).copyDeliver c) id lane :=
  laneGone_of_besideTiles (State.copyDeliver_beside _ _) (u.laneDone_gone id lane)

theorem State.takeReturns_gone {s : State} {c : Copy} {l : CopyLane} (h : l.recvs = []) :
    laneGone (s.takeReturns c l) c.id l.lane := by
  unfold State.takeReturns
  dsimp only
  rw [if_pos (List.isEmpty_iff.mpr h)]
  split
  · exact laneGone_of_besideTiles (State.deliver_beside _ _ _ _) (State.laneDone_gone _ _ _)
  · exact State.laneDone_gone _ _ _

section
variable {s : State} {k : Copy} {l : CopyLane} {bs : List Byte}

theorem copyTransfer_writes (h : laneDue s k l) (hd : l.data = some bs) (hr : k.remote = false) (hm : k.mc = false) :
    copyTransfer s k.id l.lane = s.copyWrite k l bs := by
  obtain ⟨hk, hmv, hl, hg⟩ := h
  rw [copyTransfer_read hk hmv hg hl hd, hr, hm]
  rfl

theorem copyWrite_window {t off : Nat} (hw : s.lowerFirst k l none = false) (hd : l.dst = .loc t off) :
    ∃ u, s.copyWrite k l bs = .next u ∧ laneGone u k.id l.lane := by
  refine ⟨((s.copyInto t off bs).laneDone k.id l.lane).copyDeliver k, ?_, State.laneDone_copyDeliver_gone _ _ _ _⟩
  simp only [State.copyWrite, hw, hd]
  rfl

theorem copyWrite_memory {va : W64} {v : State} {ps : List Piece} (hw : s.lowerFirst k l none = false) (hd : l.dst = .glob va)
    (hv : s.resolve (s.copyAgent k) va k.n .write (s.copyWork k) = (v, .ok ps)) (ho : v.ownOnWay k ps = false) :
    ∃ u, s.copyWrite k l bs = .next u ∧ laneGone u k.id l.lane := by
  simp only [State.copyWrite, hw, hd, hv, ho]
  exact ⟨_, rfl, State.laneDone_copyDeliver_gone _ _ _ _⟩

theorem copyTransfer_returns (h : laneDue s k l) (hd : l.data = some bs) (hr : k.remote = true ∨ k.mc = true)
    (hv : l.recvs = []) : ∃ u, copyTransfer s k.id l.lane = .next u ∧ laneGone u k.id l.lane := by
  obtain ⟨hk, hmv, hl, hg⟩ := h
  refine ⟨s.takeReturns k l, ?_, State.takeReturns_gone hv⟩
  rw [copyTransfer_read hk hmv hg hl hd]
  exact if_pos (by simpa using hr)

end

/-! ### Remote deliveries -/

/-- The receiver no longer waits for the lane; where the copy is a `cpmc`, its acknowledgement is on record. -/
def delivered (u : State) (k : Copy) (lane recv : Nat) : Prop := ∀ k', u.copy? k.id = some k' →
  (k.mc = true → recv ∈ k'.acked) ∧ ∀ m ∈ k'.lanes, m.lane = lane → recv ∉ m.recvs

/-- The copy once a receiver has taken a lane of it, or has dropped it. -/
def Copy.received (c : Copy) (l : CopyLane) (recv : Nat) (ack : Bool) : Copy :=
  { c with
      acked := if ack && !c.acked.contains recv then c.acked ++ [recv] else c.acked
      sent := if c.begun l recv then c.sent else c.sent ++ [(recv, l.lineNo)]
      lanes := c.lanes.map fun m =>
        if m.lane = l.lane then { m with recvs := l.recvs.filter fun r => r != recv, back := m.back + 1 } else m }

theorem State.recvDone_eq (s : State) (c : Copy) (l : CopyLane) (recv : Nat) (ack : Bool) :
    s.recvDone c l recv ack = s.setCopy (c.received l recv ack) := rfl

theorem Copy.received_acked {c : Copy} (l : CopyLane) (recv : Nat) (h : c.mc = true) : recv ∈ (c.received l recv c.mc).acked := by
  unfold Copy.received
  by_cases ha : recv ∈ c.acked <;> simp [h, ha]

theorem Copy.received_lanes {c : Copy} {l m : CopyLane} {recv : Nat} {ack : Bool} (hm : m ∈ (c.received l recv ack).lanes)
    (hl : m.lane = l.lane) : recv ∉ m.recvs := by
  obtain ⟨n, _, rfl⟩ := List.mem_map.mp hm
  by_cases hn : n.lane = l.lane
  · rw [if_pos hn]
    simp
  · rw [if_neg hn] at hl
    exact absurd hl hn

theorem State.recvDone_delivered (s : State) (c : Copy) (l : CopyLane) (recv : Nat) :
    delivered (s.recvDone c l recv c.mc) c l.lane recv := by
  intro k' hk
  rw [State.recvDone_eq] at hk
  obtain rfl := State.copy?_setCopy_eq (c := c.received l recv c.mc) hk
  exact ⟨Copy.received_acked l recv, fun m hm hl => Copy.received_lanes hm hl⟩

theorem State.makeDelivery_delivered (s : State) (c : Copy) (l : CopyLane) (recv off : Nat) (bs : List Byte) :
    delivered (s.makeDelivery c l recv off bs) c l.lane recv := by
  unfold State.makeDelivery
  dsimp only
  split
  · intro k' hk
    rw [State.copy?_of_besideTiles (State.deliver_beside _ _ _ _)] at hk
    exact State.recvDone_delivered _ _ _ _ k' hk
  · exact State.recvDone_delivered _ _ _ _

section
variable {s : State} {k : Copy} {l : CopyLane} {bs : List Byte} {recv off x : Nat} {tm : Team}

/-- The lane is to be delivered to the receiver, whose team may take it. -/
structure Delivers (s : State) (k : Copy) (l : CopyLane) (bs : List Byte) (recv off x : Nat) (tm : Team) : Prop where
  copy : s.copy? k.id = some k
  moves : s.copyMoves k = true
  lane : k.lanes.find? (fun m => m.lane == l.lane) = some l
  data : l.data = some bs
  dst : l.dst = .loc x off
  team : s.team? recv = some tm
  waits : recv ∈ l.recvs
  first : s.lowerFirst k l (some recv) = false
  lives : tm.retired = false
  rests : s.moving tm = false ∨ k.begun l recv = true

section
variable (h : Delivers s k l bs recv off x tm)
include h

theorem Delivers.moves_between (hr : k.remote = true ∨ k.mc = true) : (s.copyMoves k && (k.remote || k.mc)) = true := by
  simpa [h.moves] using hr

theorem Delivers.notHeld : (s.moving tm && !k.begun l recv) = false := by
  rcases h.rests with hm | hb
  · simp [hm]
  · simp [hb]

/-- A delivery of a lane whose acknowledgement needs no new record. -/
theorem remoteDelivery_makes (hr : k.remote = true ∨ k.mc = true) (ha : (k.mc && !k.acked.contains recv) = false) :
    remoteDelivery s k.id l.lane recv = s.makeDelivery k l recv off bs := by
  simp only [remoteDelivery, h.copy, if_pos (h.moves_between hr), h.lane, h.data, h.dst, h.team, h.first, h.lives, h.notHeld, ha,
    List.contains_iff_mem.mpr h.waits]
  rfl

/-- A delivery of a lane of a `cpmc` whose acknowledgement is recorded first. -/
theorem remoteDelivery_records {ro : Nat} {snd : Nat × Nat} {tab : List AckEntry} (hm : k.mc = true) (hb : k.bar = some snd)
    (ho : k.recvBar = some ro) (ha : k.acked.contains recv = false)
    (ht : addAck (s.ackTable tm) recv ro snd.1 snd.2 = some tab) :
    remoteDelivery s k.id l.lane recv = (s.setAckTable tm tab).makeDelivery k l recv off bs := by
  have hnew : (k.mc && !k.acked.contains recv) = true := by rw [hm, ha]; rfl
  simp only [remoteDelivery, h.copy, if_pos (h.moves_between (.inr hm)), h.lane, h.data, h.dst, h.team, h.first, h.lives,
    h.notHeld, hnew, hb, ho, ht, List.contains_iff_mem.mpr h.waits]
  rfl

theorem remoteDelivery_remote (hr : k.remote = true) (hm : k.mc = false) :
    delivered (remoteDelivery s k.id l.lane recv) k l.lane recv := by
  rw [remoteDelivery_makes h (.inl hr) (by simp [hm])]
  exact State.makeDelivery_delivered _ _ _ _ _ _

theorem remoteDelivery_multicast {ro : Nat} {snd : Nat × Nat} {tab : List AckEntry} (hm : k.mc = true) (hb : k.bar = some snd)
    (ho : k.recvBar = some ro) (ha : recv ∈ k.acked ∨ addAck (s.ackTable tm) recv ro snd.1 snd.2 = some tab) :
    delivered (remoteDelivery s k.id l.lane recv) k l.lane recv := by
  cases hc : k.acked.contains recv with
  | true =>
    rw [remoteDelivery_makes h (.inr hm) (by rw [hc, Bool.not_true, Bool.and_false])]
    exact State.makeDelivery_delivered _ _ _ _ _ _
  | false =>
    have ht := ha.resolve_left fun hin => by simp [hin] at hc
    rw [remoteDelivery_records h hm hb ho hc ht]
    exact State.makeDelivery_delivered _ _ _ _ _ _

end

end

/-! ### Acknowledgements -/

theorem ackArrival_taken {s : State} {n : Nat} {a : AckMsg} {tm : Team} (ha : s.acks[n]? = some a) (ht : s.team? a.team = some tm)
    (hr : tm.retired = false) (hm : s.moving tm = false) : (ackArrival s n).acks = s.acks.eraseIdx n := by
  have h : ackArrival s n = ({ s with acks := s.acks.eraseIdx n } : State).acknowledge a.team a.off a.count := by
    simp only [ackArrival, ha, ht, hr, hm]
    rfl
  rw [h]
  exact congrArg State.acks (State.acknowledge_beside _ _ _ _)

end Sys2Proof.Machine
end

section
/-! The steps of the matrix unit and of the kiln (10 R206, R214, R220; 12 R232 to R248). -/
namespace Sys2Proof.Machine
open Sys2Proof.Stated

/-! ### What the matrix unit leaves of the log and of the teams -/

theorem State.entry?_of_log {s t : State} (h : s.log = t.log) (id : Nat) : s.entry? id = t.entry? id := by
  unfold State.entry?
  rw [h]

theorem State.entry?_setEntry_of_log {s t : State} {e x f : LogEntry} (h : s.log = t.log) (he : t.entry? e.id = some x)
    (hf : f.id = e.id) : (s.setEntry f).entry? e.id = some f := by
  rw [← hf]
  refine State.entry?_setEntry (x := x) ?_
  rw [State.entry?_of_log h, hf, he]

@[simp] theorem State.setAcc_log (s : State) (g : Group) (n : Nat) (a : Acc) : (s.setAcc g n a).log = s.log := by
  unfold State.setAcc
  split <;> rfl

@[simp] theorem State.stepActivity_log (s : State) (g : Group) : (s.stepActivity g).log = s.log := by
  unfold State.stepActivity
  split <;> rfl

theorem State.windowWriteKeep_log (s : State) (team off : Nat) (bs : List Byte) : (s.windowWriteKeep team off bs).log = s.log :=
  congrArg (·.log) (s.windowWriteKeep_beside team off bs)

theorem State.pathStore_log (s : State) (tile : Nat) (e : PathEntry) : (s.pathStore tile e).log = s.log := by
  unfold State.pathStore
  exact foldl_frame State.log (f := fun u t => u.setTile t ((u.tile t).enterPath { e with id := s.nextId, clock := u.tileClock t }))
    (fun _ _ => rfl) _ _

theorem State.homeWrite_log (s : State) (pa : Nat) (bs : List Byte) (hint inst : Nat) :
    (s.homeWrite pa bs hint inst).log = s.log := congrArg (·.log) (s.homeWrite_beside pa bs hint inst)

theorem State.storePieces_log (g : Group) (e : PathEntry) (ps : List Piece) : ∀ (s : State) (bs : List Byte),
    (s.storePieces g e ps bs).log = s.log := by
  induction ps with
  | nil => exact fun _ _ => rfl
  | cons p ps ih =>
    intro s bs
    unfold State.storePieces
    dsimp only
    rw [ih]
    split
    · exact s.homeWrite_log _ _ _ _
    · exact s.pathStore_log _ _

theorem State.storePlace_log (s : State) (g : Group) (e : PathEntry) (p : Place) (bs : List Byte) :
    (s.storePlace g e p bs).log = s.log := by
  cases p with
  | todo => rfl
  | loc team off => exact s.windowWriteKeep_log team off bs
  | phys ps => exact State.storePieces_log g e ps s bs

/-! ### A suspended entry -/

theorem State.raise_atLevel {s : State} {gid : Nat} {g : Group} (t : PendTrap) (hg : s.group? gid = some g)
    (ht : g.flow.tl = true) : s.raise gid t = if g.core.isSome then s.haltCore g else s.freeze g 0x23 t.pc.toNat 0 := by
  unfold State.raise
  rw [hg]
  exact if_pos ht

theorem State.trapEntryOf_beside (s : State) (e : LogEntry) (cause : Cause) (info : W64) :
    (s.trapEntryOf e cause info).besideFaults = s.besideFaults := by
  unfold State.trapEntryOf
  dsimp only
  split
  · rfl
  next g hg =>
    split
    next ht =>
      have hid : g.id = e.grp := by simpa using List.find?_some hg
      rw [hid, State.raise_atLevel _ hg (Bool.and_eq_true_iff.mp ht).1]
      split
      · rfl
      · exact s.freeze_beside _ _ _ _
    next => rfl

section
variable {s : State} {e x : LogEntry}

theorem State.suspend_entry? (h : s.entry? e.id = some x) (kind acc k step : Nat) :
    (s.suspend e kind acc k step).entry? e.id = some { e with state := .suspended } := by
  rw [State.entry?_of_log (congrArg (·.log) (State.trapEntryOf_beside _ _ _ _) :
    (s.suspend e kind acc k step).log = (s.setEntry { e with state := .suspended }).log)]
  exact State.entry?_setEntry (e := { e with state := .suspended }) h

theorem State.suspend_accOf (g : Group) (kind acc k step n : Nat) : (s.suspend e kind acc k step).accOf g n = s.accOf g n := by
  have ht : (s.suspend e kind acc k step).teams = s.teams := (congrArg (·.teams) (State.trapEntryOf_beside _ _ _ _) :)
  unfold State.accOf State.teamOf State.team?
  rw [ht]

end

/-! ### A step of an `mma` -/

theorem macroStep_goesOn {s : State} {e : LogEntry} {g : Group} {n pa pb i : Nat} {tr : Bool} (he : s.entry? e.id = some e)
    (hg : s.group? e.grp = some g) (ho : e.op = .mma n pa pb tr i) (hr : e.state = .running) (hs : s.stepsOn g e = true)
    (ha : s.accOlder e n = false)
    (hf : ∀ f ∈ stepFeed g e.mode (s.panelOf g pa).shown (s.panelOf g pb).shown (s.accOf g n) tr s.fresh i, f.2.undo = false)
    (hi : i + 1 < stepCount (stepShape (geoOf g (s.panelOf g pa).shown.ctl) (geoOf g (s.panelOf g pb).shown.ctl))) :
    ∃ e', (macroStep s e.id).entry? e.id = some e' ∧ e'.op = .mma n pa pb tr (i + 1) := by
  have hbad : ((stepFeed g e.mode (s.panelOf g pa).shown (s.panelOf g pb).shown (s.accOf g n) tr s.fresh i).filter
      fun p => p.2.undo) = [] := List.filter_eq_nil_iff.mpr fun f hm => by simp [hf f hm]
  unfold macroStep
  simp only [he, ho, hg, hr, hs, ha, hbad, if_neg (Nat.not_le.mpr hi)]
  refine ⟨_, State.entry?_setEntry_of_log (t := s) ?_ he rfl, rfl⟩
  split <;> simp

/-! ### A drain -/

theorem State.drainDeliver_entry? {s t : State} {e x : LogEntry} {g : Group} {acc : Acc} {fl : W64} (hl : s.log = t.log)
    (he : t.entry? e.id = some x) :
    (∀ n row base, e.op = .cdrain n row base → ∃ e', (s.drainDeliver e g acc fl).entry? e.id = some e' ∧
      e'.bound.map Prod.fst = lanesOf 64 e.lanes) ∧
    (∀ fmt n, e.op = .cstore fmt n → ∃ e', (s.drainDeliver e g acc fl).entry? e.id = some e' ∧ e'.written = 1) := by
  refine ⟨fun n row base ho => ?_, fun fmt n ho => ?_⟩
  · simp only [State.drainDeliver, ho]
    refine ⟨_, State.entry?_setEntry_of_log hl he rfl, ?_⟩
    simp [drainElems, ho, Function.comp_def]
  · simp only [State.drainDeliver, ho]
    refine ⟨_, (State.entry?_of_log (foldl_frame State.log (fun u a => u.storePlace_log _ _ _ _) _ _) _).trans
      (State.entry?_setEntry_of_log hl he rfl), rfl⟩

/-- The elements of the accumulator that the drain reads, and that overflow. -/
def overflowing (e : LogEntry) (acc : Acc) : List Nat := ((drainElems e).map fun p => p.2).filter fun k => (acc.elem k).overflows

theorem overflowing_ne_nil (e : LogEntry) (acc : Acc) :
    (overflowing e acc).isEmpty = false ↔ ∃ p ∈ drainElems e, (acc.elem p.2).overflows = true := by
  simp only [overflowing, List.isEmpty_eq_false_iff_exists_mem, List.mem_filter, List.mem_map]
  constructor
  · rintro ⟨_, ⟨p, hp, rfl⟩, ho⟩
    exact ⟨p, hp, ho⟩
  · rintro ⟨p, hp, ho⟩
    exact ⟨p.2, ⟨p, hp, rfl⟩, ho⟩

section
variable {s : State} {e : LogEntry} {g : Group} {n row base : Nat}

/-- The drain of an entry is due. -/
structure DrainDue (s : State) (e : LogEntry) (g : Group) (n row base : Nat) : Prop where
  entry : s.entry? e.id = some e
  group : s.group? e.grp = some g
  op : (e.op = .cdrain n row base ∧ e.bound = []) ∨ ∃ fmt, e.op = .cstore fmt n ∧ e.written = 0
  runs : e.state = .running
  placed : e.untranslated = false
  free : notHeld g e
  gang : s.gangRuns g = true
  first : s.accOlder e n = false
  unscored : s.locScored e.accs = false

theorem drainStep_due (h : DrainDue s e g n row base) :
    drainStep s e.id =
      if modeAccr e.mode != 1 && !(overflowing e (s.accOf g n)).isEmpty then
        s.suspend e 2 n (leastOf (overflowing e (s.accOf g n))) 0
      else (s.setAcc g n ((s.accOf g n).drained ((drainElems e).map fun p => p.2))).drainDeliver e g
        ((s.accOf g n).drained ((drainElems e).map fun p => p.2)) (flagIf (!(overflowing e (s.accOf g n)).isEmpty) flAOVF) := by
  obtain ⟨he, hg, ho, hr, hu, hn, hk, ha, hl⟩ := h
  have hat : s.atReturn e = false := State.atReturn_of_notHeld hg hn
  rcases ho with ⟨ho, hb⟩ | ⟨fmt, ho, hw⟩
  · simp only [drainStep, he, ho, LogOp.acc?, hg, hr, hb, hat, hu, hk, ha, hl]
    rfl
  · simp only [drainStep, he, ho, LogOp.acc?, hg, hr, hw, hat, hu, hk, ha, hl]
    rfl

theorem drainStep_delivers (h : DrainDue s e g n row base)
    (hsp : modeAccr e.mode = 1 ∨ ¬ ∃ p ∈ drainElems e, ((s.accOf g n).elem p.2).overflows = true) :
    ∃ e', (drainStep s e.id).entry? e.id = some e' ∧ (e.op = .cdrain n row base → e'.bound.map Prod.fst = lanesOf 64 e.lanes) ∧
      (e.op ≠ .cdrain n row base → e'.written = 1) := by
  have hgo : (modeAccr e.mode != 1 && !(overflowing e (s.accOf g n)).isEmpty) = false := by
    rcases hsp with h1 | h2
    · simp [h1]
    · rw [← overflowing_ne_nil, Bool.not_eq_false] at h2
      simp [h2]
  rw [drainStep_due h, hgo]
  obtain ⟨hc, hst⟩ := State.drainDeliver_entry? (s := s.setAcc g n ((s.accOf g n).drained ((drainElems e).map fun p => p.2)))
    (g := g) (acc := (s.accOf g n).drained ((drainElems e).map fun p => p.2))
    (fl := flagIf (!(overflowing e (s.accOf g n)).isEmpty) flAOVF) (s.setAcc_log g n _) h.entry
  rcases h.op with ⟨ho, -⟩ | ⟨fmt, ho, -⟩
  · obtain ⟨e', h1, h2⟩ := hc _ _ _ ho
    exact ⟨e', h1, fun _ => h2, fun hne => absurd ho hne⟩
  · obtain ⟨e', h1, h2⟩ := hst _ _ ho
    exact ⟨e', h1, fun heq => absurd (ho.symm.trans heq) (by simp), fun _ => h2⟩

theorem drainStep_suspends (h : DrainDue s e g n row base) (hm : modeAccr e.mode ≠ 1)
    (hsp : ∃ p ∈ drainElems e, ((s.accOf g n).elem p.2).overflows = true) :
    ∃ e', (drainStep s e.id).entry? e.id = some e' ∧ e'.state = .suspended ∧ (drainStep s e.id).accOf g n = s.accOf g n := by
  have hgo : (modeAccr e.mode != 1 && !(overflowing e (s.accOf g n)).isEmpty) = true := by
    rw [(overflowing_ne_nil _ _).mpr hsp]
    simpa using hm
  rw [drainStep_due h, if_pos hgo]
  exact ⟨_, State.suspend_entry? h.entry _ _ _ _, rfl, State.suspend_accOf _ _ _ _ _ _⟩

end

/-! ### Regions of the kiln -/

theorem State.team?_of_teams {s t : State} (h : s.teams = t.teams) (id : Nat) : s.team? id = t.team? id := by
  unfold State.team?
  rw [h]

theorem State.writeX_teams (s : State) (r : Region) (u : List (List W32)) : (s.writeX r u).teams = s.teams := by
  refine foldl_frame State.teams (fun u g => ?_) _ _
  rfl

theorem State.seePaths_teams (s : State) (g : Group) : (s.seePaths g).teams = s.teams :=
  congrArg (·.teams) (s.seePaths_beside g)

theorem State.setRegion_team? {s u : State} {tm : Team} (h : u.teams = s.teams) (ht : s.team? tm.id = some tm) (r : Region) :
    (u.setRegion tm.id r).team? tm.id = some { tm with region := r } := by
  have hu : u.team? tm.id = some tm := by rw [State.team?_of_teams h, ht]
  unfold State.setRegion
  rw [hu]
  exact State.team?_setTeam (t := { tm with region := r }) hu

section
variable {s : State} {tm : Team}

/-- A step of the kiln that writes the team's region, then touches no team, leaves it that region. -/
theorem region_of_teams {s u v : State} {tm : Team} (hu : u.teams = s.teams) (ht : s.team? tm.id = some tm) {r : Region}
    (hv : v.teams = (u.setRegion tm.id r).teams) : v.team? tm.id = some { tm with region := r } := by
  rw [State.team?_of_teams hv, State.setRegion_team? hu ht]

theorem openJoin_opens (ht : s.team? tm.id = some tm) (hs : tm.region.state = .gather)
    (hn : tm.region.g ≤ (s.joined tm.region.arrived).length)
    (he : s.exitedSteps { tm.region with
      grps := (byGroupId ((s.joined tm.region.arrived).map fun p => p.1)).map fun g => g.id, arrived := [] } = []) :
    ∃ x, (openJoin s tm.id).team? tm.id = some x ∧ x.region.state = .open := by
  simp only [openJoin, ht]
  rw [if_neg (by simpa [hs] using hn), he, if_neg (by decide)]
  refine ⟨_, region_of_teams (s := s) ?_ ht (State.writeX_teams _ _ _), rfl⟩
  refine foldl_frame State.teams (fun u p => ?_) _ _
  rfl

/-- The pass counts, and the region's state stands. -/
def countsPass (r : Region) (p : Region × PassEnd) : Prop := p.1.state = r.state ∧ p.1.passes = r.passes + 1

theorem passResult_counts (r : Region) (y a : List (List W32)) (te : Nat) (ab : Bool) : countsPass r (passResult r y a te ab) := by
  unfold passResult
  refine iteInduction (motive := countsPass r) (fun _ => ⟨rfl, rfl⟩) fun _ => ?_
  refine iteInduction (motive := countsPass r) (fun _ => ⟨rfl, rfl⟩) fun _ => ?_
  refine iteInduction (motive := countsPass r) (fun _ => ⟨rfl, rfl⟩) fun _ => ?_
  refine iteInduction (motive := countsPass r) (fun _ => ⟨rfl, rfl⟩) fun _ => ?_
  refine iteInduction (motive := countsPass r) (fun _ => ⟨rfl, rfl⟩) fun _ => ?_
  refine iteInduction (motive := countsPass r) (fun _ => ⟨rfl, rfl⟩) fun _ => ?_
  refine iteInduction (motive := countsPass r) (fun _ => ⟨rfl, rfl⟩) fun _ => ?_
  refine iteInduction (motive := countsPass r) (fun _ => ⟨rfl, rfl⟩) fun _ => ?_
  refine iteInduction (motive := countsPass r) (fun _ => ⟨rfl, rfl⟩) fun _ => ?_
  exact iteInduction (motive := countsPass r) (fun _ => ⟨rfl, rfl⟩) fun _ => ⟨rfl, rfl⟩

theorem passEnd_ends (ht : s.team? tm.id = some tm) (hs : tm.region.state = .open) (ha : s.allArrived tm.region = true) :
    ∃ x, (passEnd s tm.id).team? tm.id = some x ∧ x.region.passes = tm.region.passes + 1 ∧
      (x.region.state = .settled ∨ x.region.state = .open) := by
  simp only [passEnd, ht, hs, ha]
  rw [if_neg (by decide)]
  split
  · refine ⟨_, region_of_teams (s := s) rfl ht ((foldl_frame State.teams (fun u p => ?_) _ _).trans
      (State.writeX_teams _ _ _)), ?_, .inl ?_⟩
    · rfl
    · exact (passResult_counts _ _ _ _ _).2
    · rfl
  · refine ⟨_, region_of_teams (s := s) rfl ht ((foldl_frame State.teams (fun u p => ?_) _ _).trans
      (State.writeX_teams _ _ _)), ?_, .inr ?_⟩
    · split
      · exact u.seePaths_teams _
      · rfl
    · exact (passResult_counts _ _ _ _ _).2
    · exact (passResult_counts _ _ _ _ _).1.trans hs

theorem passAbandon_abandons (ht : s.team? tm.id = some tm) (ho : s.passOverdue tm.region = true)
    (hq : s.passQuiet tm.region = true) :
    ∃ x, (passAbandon s tm.id).team? tm.id = some x ∧ x.region.entries = [] ∧ x.region.passClocks = 0 := by
  simp only [passAbandon, ht, ho, hq]
  rw [if_neg (by decide)]
  refine ⟨_, region_of_teams (s := s) ?_ ht (State.writeX_teams _ _ _), rfl, rfl⟩
  refine foldl_frame State.teams (fun u g => ?_) _ _
  split
  · split
    · rfl
    · exact u.seePaths_teams g
  · rfl

theorem closeJoin_closes {g : Group} {l : List Group} (ht : s.team? tm.id = some tm) (hs : tm.region.state = .settled)
    (ha : s.allArrived tm.region = true) (hg : s.regionGroups tm.region = g :: l) (hst : g.stall = none) (hf : g.frozen = none)
    (hn : tm.region.next ≠ 0) (hc : tm.region.committed.length ≤ tm.region.next) :
    ∃ t x, closeJoin s tm.id = .next t ∧ t.team? tm.id = some x ∧ x.region.state = .closed := by
  have hall : tm.region.committed[tm.region.next]? = none := List.getElem?_eq_none hc
  have hfold : (s.closeRegion tm.id tm.region).teams
      = (s.setRegion tm.id { tm.region with state := .closed, entries := [], arrived := [] }).teams := by
    refine foldl_frame State.teams (fun u p => ?_) _ _
    rfl
  refine ⟨s.closeRegion tm.id tm.region, _, ?_, region_of_teams (s := s) rfl ht hfold, rfl⟩
  simp only [closeJoin, ht, hs, ha, hg, hst, hf, if_neg hn, hall]
  rfl

end

end Sys2Proof.Machine
end

section
/-! The life of works: they become ready, are checked, retire and complete (16 R286 to R302; 17 R304 to R308). -/
namespace Sys2Proof.Machine
open Sys2Proof.Stated

/-! ### Lookups through states that keep the objects' numbers -/

/-- The numbers of the works, and of the teams. -/
def State.workIds (s : State) : List Nat := s.works.map fun w => w.id
def State.teamIds (s : State) : List Nat := s.teams.map fun t => t.id

/-- An object stands in a list where its number does. -/
theorem exists_find? {α : Type} {key : α → Nat} {l : List α} {n : Nat} (h : n ∈ l.map key) :
    ∃ x, l.find? (fun a => key a == n) = some x := by
  obtain ⟨a, ha, rfl⟩ := List.mem_map.mp h
  exact Option.isSome_iff_exists.mp (List.find?_isSome.mpr ⟨a, ha, beq_self_eq_true _⟩)

theorem mem_map_of_find? {α : Type} {key : α → Nat} {l : List α} {n : Nat} {x : α}
    (h : l.find? (fun a => key a == n) = some x) : n ∈ l.map key := by
  have hk := List.find?_some h
  rw [← beq_iff_eq.mp hk]
  exact List.mem_map_of_mem (List.mem_of_find?_eq_some h)

/-- Replacing an object keeps the numbers. -/
theorem map_key_replace {α : Type} (key : α → Nat) (l : List α) (y : α) :
    (l.map fun a => if key a == key y then y else a).map key = l.map key := by
  rw [List.map_map]
  refine List.map_congr_left fun a _ => ?_
  simp only [Function.comp]
  split
  next h => exact (beq_iff_eq.mp h).symm
  next => rfl

theorem State.setWork_workIds (s : State) (w : Work) : (s.setWork w).workIds = s.workIds :=
  map_key_replace (fun w : Work => w.id) s.works w

theorem State.setTeam_teamIds (s : State) (t : Team) : (s.setTeam t).teamIds = s.teamIds :=
  map_key_replace (fun t : Team => t.id) s.teams t

theorem State.workIds_of_works {s t : State} (h : s.works = t.works) : s.workIds = t.workIds := by
  unfold State.workIds
  rw [h]

theorem State.work?_of_works {s t : State} (h : s.works = t.works) (id : Nat) : s.work? id = t.work? id := by
  unfold State.work?
  rw [h]

section
variable {s u : State} {w v : Work} {t x : Team}

/-- A work that is replaced is found, where a work of its number stood. -/
theorem State.work?_setWork_of_ids (h : u.workIds = s.workIds) (hw : s.work? w.id = some v) :
    (u.setWork w).work? w.id = some w := by
  obtain ⟨y, hy⟩ := exists_find? (h ▸ mem_map_of_find? hw : w.id ∈ u.workIds)
  exact State.work?_setWork hy

theorem State.work?_setWork_of_works (h : u.works = s.works) (hw : s.work? w.id = some v) :
    (u.setWork w).work? w.id = some w := State.work?_setWork_of_ids (State.workIds_of_works h) hw

theorem State.team?_setTeam_of_ids (h : u.teamIds = s.teamIds) (ht : s.team? t.id = some x) :
    (u.setTeam t).team? t.id = some t := by
  obtain ⟨y, hy⟩ := exists_find? (h ▸ mem_map_of_find? ht : t.id ∈ u.teamIds)
  exact State.team?_setTeam hy

end

/-! ### Ready and checked -/

section
variable {s : State} {w : Work}

theorem State.startLaunch_starts (hw : s.work? w.id = some w) :
    ∃ v, (s.startLaunch w).work? w.id = some v ∧ (v.state = .running ∨ v.state = .rejected) ∧ v.named = true := by
  have hname : (s.nameLaunch w).1.works = s.works ∧ (s.nameLaunch w).2.id = w.id ∧ (s.nameLaunch w).2.named = true := by
    unfold State.nameLaunch
    split
    next h => exact ⟨rfl, rfl, h⟩
    next => exact ⟨rfl, rfl, rfl⟩
  obtain ⟨hs, hid, hn⟩ := hname
  unfold State.startLaunch
  dsimp only
  rw [← hid] at hw ⊢
  split
  · exact ⟨_, State.work?_setWork_of_works (w := { (s.nameLaunch w).2 with state := .rejected, reason := _ }) hs hw, .inr rfl, hn⟩
  · exact ⟨_, State.work?_setWork_of_works (w := { (s.nameLaunch w).2 with state := .running, c := _, sig := _ }) hs hw,
      .inl rfl, hn⟩

theorem launchReady_starts (hw : s.work? w.id = some w) (hj : w.job = false) (hs : w.state = .ready) (hr : w.reported = false)
    (ht : w.token = none) (hd : w.depctr = 0) : launchReady s w.id = .next (s.startLaunch w) := by
  simp only [launchReady, hw, hj, hs, hr, ht, if_pos hd]
  rfl

theorem jobReady_starts (hw : s.work? w.id = some w) (hj : w.job = true) (hs : w.state = .ready) :
    ∃ v, (jobReady s w.id).work? w.id = some v ∧ (v.state = .running ∨ v.state = .rejected) := by
  simp only [jobReady, hw]
  rw [if_neg (by simp [hj, hs])]
  split
  · exact ⟨_, State.work?_setWork (w := { w with state := .rejected, reason := _ }) hw, .inr rfl⟩
  · exact ⟨_, State.work?_setWork (w := { w with state := .running }) hw, .inl rfl⟩

theorem State.makeReady_ready {v : Work} {id : Nat} (hw : s.work? id = some v) :
    ∃ x, (s.makeReady id).work? id = some x ∧ x.state = .ready := by
  have hid : v.id = id := by simpa using List.find?_some hw
  subst hid
  unfold State.makeReady
  rw [hw]
  exact ⟨_, State.work?_setWork_of_works (w := { v with state := .ready, seqNo := s.nextId }) rfl hw, rfl⟩

theorem Work.owned_id (w : Work) : w.owned.id = w.id := by
  unfold Work.owned
  split <;> rfl

theorem depctrRegister_ready (hw : s.work? w.id = some w) (hs : w.state = .submitted) (hm : w.module = 0) (ht : w.token = none)
    (hn : w.words ≠ []) (hd : w.owned.depctr = 0) :
    ∃ t v, depctrRegister s w.id = .next t ∧ t.work? w.id = some v ∧ v.state = .ready := by
  have hw' : (s.setWork w.owned).work? w.owned.id = some w.owned := State.work?_setWork (x := w) (by rw [w.owned_id, hw])
  obtain ⟨v, hv, hr⟩ := State.makeReady_ready hw'
  rw [w.owned_id] at hv
  refine ⟨(s.setWork w.owned).makeReady w.owned.id, v, ?_, by rw [w.owned_id]; exact hv, hr⟩
  have hne : w.words.isEmpty = false := by simpa using hn
  simp only [depctrRegister, hw, hs, hm, ht, hne, State.register, if_pos hd]
  rfl

end

/-! ### Groups and teams retire -/

/-- The context once its group has retired. -/
def Group.retire (g : Group) : Group := { g with retired := true, clause := none, stall := none, due := [], hold := .none }

theorem groupRetire_retires {s : State} {g : Group} (hg : s.group? g.id = some g) (hc : g.core = none) (hr : g.retired = false)
    (hl : fullMask g.width &&& ~~~g.flow.exited = 0) (hp : g.pend = none) (hf : g.frozen = none) (hn : ∀ n ∈ g.cf, n = 0) :
    ∃ h, (groupRetire s g.id).group? g.id = some h ∧ h.retired = true ∧ h.regs = g.regs := by
  have hcf : (g.cf.any fun n => n != 0) = false := by simpa using hn
  have hrun : (g.running != 0) = false := by
    rw [show g.running = 0 from hl]
    rfl
  have h : groupRetire s g.id = (s.onGroup g.id Group.retire).retryCopies g.id := by
    simp only [groupRetire, hg, hc, hr, hp, hf, hcf, hrun]
    rfl
  rw [h]
  exact ⟨g.retire, (group?_onGroup (f := Group.retire) fun _ => rfl).trans (by rw [hg]; rfl), rfl, rfl⟩

theorem State.setBarriers_teamIds (s : State) (team : Nat) (l : List Nat) : (s.setBarriers team l).teamIds = s.teamIds := by
  unfold State.setBarriers
  split
  · rfl
  · split
    · exact s.setTeam_teamIds _
    · rfl

theorem State.releaseTeam_retired {s : State} {tm x : Team} (ht : s.team? tm.id = some x) :
    ∃ y, (s.releaseTeam tm).team? tm.id = some y ∧ y.retired = true := by
  unfold State.releaseTeam
  exact ⟨_, State.team?_setTeam_of_ids (t := { tm with
    retired := true, panels := [], accs := [], region := {}, prior := {}, arrived := [], savedBars := [], savedAcks := [], pool := 0 })
    (State.setBarriers_teamIds _ _ _) ht, rfl⟩

theorem State.gangCheck_teams (s : State) (gang : Nat) : (s.gangCheck gang).teams = s.teams := by
  unfold State.gangCheck
  split
  · split
    · dsimp only
      split <;> rfl
    · rfl
  · rfl

theorem teamRetire_retires {s : State} {tm : Team} {k : Gang} (ht : s.team? tm.id = some tm) (hk : s.gang? tm.gang = some k)
    (hr : k.resident = true) (hl : tm.retired = false) (hg : ∀ g ∈ tm.grps.filterMap s.group?, g.retired = true)
    (hc : s.copiesAt tm = false) : ∃ x, (teamRetire s tm.id).team? tm.id = some x ∧ x.retired = true := by
  have hall : ((tm.grps.filterMap s.group?).all fun g => g.retired) = true := List.all_eq_true.mpr hg
  obtain ⟨x, hx, hret⟩ := State.releaseTeam_retired ht
  refine ⟨x, Eq.trans (State.team?_of_teams ?_ _) hx, hret⟩
  simp only [teamRetire, ht, hk, hr, hl, hall, hc]
  refine (State.gangCheck_teams _ _).trans ?_
  split <;> rfl

/-! ### Works complete -/

theorem State.cqDone_works (s : State) (cq : Option (Nat × Nat)) : (s.cqDone cq).works = s.works := by
  unfold State.cqDone
  split <;> rfl

theorem State.removeWork_gone (s : State) (w : Work) : (s.removeWork w).work? w.id = none := by
  unfold State.removeWork
  rw [State.work?_of_works (State.cqDone_works _ _)]
  exact List.find?_eq_none.mpr fun v hv => by simpa using (List.mem_filter.mp hv).2

theorem childCompletion_gone {s : State} {w : Work} (hw : s.work? w.id = some w) (h : w.reported = true ∨ w.module ≠ 0) :
    (childCompletion s w.id).work? w.id = none := by
  simp only [childCompletion, hw]
  rw [if_pos (by simpa using h)]
  exact State.removeWork_gone _ w

theorem State.makeReady_workIds (s : State) (id : Nat) : (s.makeReady id).workIds = s.workIds := by
  unfold State.makeReady
  split
  · exact State.setWork_workIds _ _
  · rfl

theorem State.wake_workIds (s : State) (pa : Nat) : (s.wake pa).workIds = s.workIds := by
  refine foldl_frame State.workIds (fun u n => ?_) _ _
  exact foldl_frame State.workIds (fun v w => v.makeReady_workIds _) _ _

theorem State.homeWrite_workIds (s : State) (pa : Nat) (bs : List Byte) (hint inst : Nat) :
    (s.homeWrite pa bs hint inst).workIds = s.workIds :=
  State.workIds_of_works (congrArg (·.works) (s.homeWrite_beside pa bs hint inst))

theorem State.counterDec_workIds (s : State) (pa hint : Nat) : (s.counterDec pa hint).workIds = s.workIds := by
  unfold State.counterDec
  dsimp only
  split
  · exact s.homeWrite_workIds _ _ _ _
  · split
    · exact (State.wake_workIds _ _).trans (s.homeWrite_workIds _ _ _ _)
    · exact s.homeWrite_workIds _ _ _ _

theorem State.writeGather_workIds (s : State) (die : Nat) (g : Gather) : (s.writeGather die g).workIds = s.workIds := by
  unfold State.writeGather
  split
  · unfold State.reportGather
    dsimp only
    split <;> rfl
  · exact s.homeWrite_workIds _ _ _ _

/-- The gathers of a work are written back, on every die. -/
def State.flushWork (s : State) (id : Nat) : State := s.dieNums.foldl (fun s d => s.flushGathers d fun g => g.works.contains id) s

theorem State.flushWork_workIds (s : State) (id : Nat) : (s.flushWork id).workIds = s.workIds := by
  refine foldl_frame State.workIds (fun u d => ?_) _ _
  exact foldl_frame State.workIds (fun v g => v.writeGather_workIds _ _) _ _

theorem State.engine_workIds {s v : State} {ag : Agent} {va n : Nat} {k : Kind} {who : Waiter} {ps : List Piece}
    (h : engineOk s ag va n k who v ps) : v.workIds = s.workIds := by
  have hres : (s.resolve ag (w64 va) n k none).1.works = s.works := congrArg (·.works) (s.resolve_beside ag (w64 va) n k none)
  have hwait : ∀ (u : State) (r : FaultRec), u.engineWaits r who ≠ (v, .ok ps) := fun u r => by
    unfold State.engineWaits
    split <;> simp
  unfold engineOk State.engine at h
  split at h
  · exact absurd h (hwait _ _)
  · exact absurd h (hwait _ _)
  · exact absurd h (hwait _ _)
  · exact absurd h (by simp)
  next u qs hu =>
    split at h
    · exact absurd h (hwait _ _)
    · obtain ⟨rfl, -⟩ := Prod.mk.inj h
      rw [hu] at hres
      exact State.workIds_of_works hres

section
variable {s : State} {w : Work}

/-- The record of a work's completion can be written. -/
def doneFits (s : State) (w : Work) : Prop :=
  w.done = 0 ∨ (w.done.toNat % 16 = 0 ∧ w.done.toNat < 2 ^ 52 ∧
    ∃ v ps, engineOk (s.flushWork w.id) w.agent w.done.toNat 16 .atomic (.work w.id) v ps)

theorem State.writeDone_done (h : doneFits s w) : ∃ t, s.writeDone w = .done t ∧ t.workIds = s.workIds := by
  by_cases h0 : w.done = 0
  · refine ⟨s.flushWork w.id, ?_, s.flushWork_workIds _⟩
    unfold State.writeDone
    exact if_pos h0
  · obtain ⟨hal, hlt, v, ps, hv⟩ := h.resolve_left h0
    have hlow : fld w.done 3 0 = 0 := by simpa [fld, bits] using hal
    have hbits : (fld w.done 3 0 != 0 || fld w.done 63 52 != 0) = false := by simp [hlow, fld_high_of_lt hlt]
    have hv' : State.engine (s.dieNums.foldl (fun s d => s.flushGathers d fun g => g.works.contains w.id) s) w.agent
        w.done.toNat 16 .atomic (.work w.id) = (v, .ok ps) := hv
    refine ⟨(v.homeWrite (startOf ps + 8) (natBytes 8 w.doneWord.toNat) 0).counterDec (startOf ps) 0, ?_, ?_⟩
    · unfold State.writeDone
      simp only [if_neg h0, hbits, hv']
      rfl
    · rw [State.counterDec_workIds, State.homeWrite_workIds, State.engine_workIds hv, State.flushWork_workIds]

/-- A work completes: it is gone, or, where it has a parent, is reported to it. -/
theorem State.complete_completes (hw : s.work? w.id = some w) (h : doneFits s w) :
    (w.parent = none → ∃ t, s.complete w = .next t ∧ t.work? w.id = none) ∧
    (w.parent ≠ none → ∃ t v, s.complete w = .next t ∧ t.work? w.id = some v ∧ v.reported = true) := by
  obtain ⟨t, ht, hids⟩ := State.writeDone_done h
  refine ⟨fun hp => ⟨t.removeWork w, ?_, t.removeWork_gone w⟩, fun hp => ?_⟩
  · simp only [State.complete, ht, hp]
  · obtain ⟨p, hp⟩ := Option.ne_none_iff_exists'.mp hp
    refine ⟨(t.setWork { w with reported := true }).cqDone w.cq, { w with reported := true }, ?_, ?_, rfl⟩
    · simp only [State.complete, ht, hp]
    · rw [State.work?_of_works (State.cqDone_works _ _)]
      exact State.work?_setWork_of_ids (w := { w with reported := true }) hids hw

/-- A work is over as its kind's step finds it. -/
structure WorkOver (s : State) (w : Work) : Prop where
  work : s.work? w.id = some w
  token : w.token = none
  still : s.workBusy w = false
  fresh : w.reported = false

theorem launchRetire_completes (h : WorkOver s w) (hj : w.job = false)
    (ho : w.state = .rejected ∨ w.state = .killed ∨
      (w.state = .running ∧ w.teamsN ≤ w.nextGang * w.gangt ∧ s.gangsOf w.id = [])) :
    launchRetire s w.id = s.complete w := by
  have hover : s.launchOver w = true := by
    rcases ho with ho | ho | ⟨ho, hn, hg⟩
    · simp [State.launchOver, ho]
    · simp [State.launchOver, ho]
    · simp [State.launchOver, ho, hn, hg]
  simp only [launchRetire, h.work, hj, h.fresh, h.token, hover, h.still]
  rfl

theorem jobComplete_completes (h : WorkOver s w) (hj : w.job = true) (hm : w.module = 0) (hn : w.out = 0)
    (ho : w.state = .rejected ∨ w.state = .killed ∨ w.state = .dealt) : jobComplete s w.id = s.complete w := by
  have hended : (w.state == .dealt || w.state == .rejected || w.state == .killed) = true := by
    rcases ho with ho | ho | ho <;> rw [ho] <;> rfl
  simp only [jobComplete, h.work, hj, hm, h.fresh, hended, hn, h.token, h.still]
  rfl

end

end Sys2Proof.Machine
end

section
/-! The distribution of work, gangs that are saved and restored, the ember and the mail (16 R291 to R294; 17 R305 to R320; 21 R372 to
R375). -/
namespace Sys2Proof.Machine
open Sys2Proof.Stated

/-! ### Gangs are placed -/

/-- The works and gangs of a state. -/
def State.workload (s : State) : List Work × List Gang := (s.works, s.gangs)

section
variable {s t : State}

theorem State.works_of_workload (h : s.workload = t.workload) : s.works = t.works := congrArg Prod.fst h

theorem State.gangs_of_workload (h : s.workload = t.workload) : s.gangs = t.gangs := congrArg Prod.snd h

end

theorem State.placeTeam_workload (s : State) (w : Work) (gang l pos lt area : Nat) (f : Fit) (tweak : Group → Group) :
    (s.placeTeam w gang l pos lt area f tweak).2.workload = s.workload := rfl

theorem State.seat_workload (s : State) (k : Gang) : (s.seat k).workload = (s.works, s.gangs ++ [k]) := by
  refine (foldl_frame State.workload (fun u n => ?_) _ _).trans rfl
  rfl

theorem State.seat_works (s : State) (k : Gang) : (s.seat k).works = s.works := congrArg Prod.fst (s.seat_workload k)

theorem State.seat_gangs (s : State) (k : Gang) : (s.seat k).gangs = s.gangs ++ [k] := congrArg Prod.snd (s.seat_workload k)

/-- A gang stands on its tiles, and its work goes on from it. -/
theorem State.seat_setWork {s u : State} {w v : Work} {k : Gang} (hu : u.workload = s.workload) (hv : s.work? v.id = some w) :
    ((u.seat k).setWork v).gangs.length = s.gangs.length + 1 ∧ ((u.seat k).setWork v).work? v.id = some v := by
  constructor
  · rw [State.setWork_gangs, State.seat_gangs, State.gangs_of_workload hu, List.length_append, List.length_singleton]
  · exact State.work?_setWork_of_works ((State.seat_works _ _).trans (State.works_of_workload hu)) hv

section
variable {s : State} {w : Work}

theorem State.placeGang_places (hw : s.work? w.id = some w) (lt : Nat) (fs : List Fit) :
    (s.placeGang w lt fs).gangs.length = s.gangs.length + 1 ∧
      ∃ v, (s.placeGang w lt fs).work? w.id = some v ∧ v.nextGang = w.nextGang + 1 := by
  unfold State.placeGang
  dsimp only
  have hfold : ∀ (l : List (Nat × Fit)) (f : Nat × Fit → Nat) (g : Nat × Fit → Nat) (n : Nat) (a : List Nat × State),
      a.2.workload = s.workload → (l.foldl (fun (a : List Nat × State) p =>
        (a.1 ++ [(a.2.placeTeam w n (f p) p.1 (g p) (f p) p.2 id).1],
          (a.2.placeTeam w n (f p) p.1 (g p) (f p) p.2 id).2)) a).2.workload = s.workload := fun l f g n a ha => by
    refine (foldl_frame (fun a : List Nat × State => a.2.workload) (fun b p => ?_) l a).trans ha
    rfl
  obtain ⟨hn, hv⟩ := State.seat_setWork (v := { w with nextGang := w.nextGang + 1 })
    (hfold (fs.mapIdx fun j f => (j, f)) (fun p => w.nextGang * w.gangt + p.1) (fun p => lt + p.1 * (if w.tspan then 2 else 1))
      s.nextId ([], s.takeId.2) rfl) hw
  exact ⟨hn, _, hv, rfl⟩

theorem gangPlace_places {p : Nat × List Fit} (hw : s.work? w.id = some w) (hj : w.job = false) (hn : w.hasNext = true)
    (ha : s.allowed (.next w.id) = true) (hp : s.spotOf w w.nextGang = some p) : gangPlace s w.id = s.placeGang w p.1 p.2 := by
  simp only [gangPlace, hw, hj, hn, ha, hp]
  rfl

theorem State.deal_deals (hw : s.work? w.id = some w) (lt : Nat) (f : Fit) :
    (s.deal w lt f).gangs.length = s.gangs.length + 1 ∧
      ∃ v, (s.deal w lt f).work? w.id = some v ∧ v.ordinal = w.ordinal + 1 ∧ v.out = w.out + 1 := by
  unfold State.deal
  dsimp only
  generalize w.chunk (max 1 (s.capacity w.die w.needs)) = n
  obtain ⟨hn, hv⟩ := State.seat_setWork (s := s) (u := (s.takeId.2.placeTeam w s.nextId w.ordinal 0 lt
    (((List.range 1024).find? fun i => !(s.slotsUsed w).contains i).getD 0) f (w.chunkGroup (fld (word w.words 3) 31 0 - w.rem) n)).2)
    (v := { w with rem := w.rem - n, ordinal := w.ordinal + 1, out := w.out + 1, state := if w.rem - n = 0 then .dealt else .running })
    rfl hw
  exact ⟨hn, _, hv, rfl, rfl⟩

theorem jobDeal_deals {p : Nat × Fit} (hw : s.work? w.id = some w) (hj : w.job = true) (hn : w.hasNext = true)
    (ha : s.allowed (.next w.id) = true) (hp : s.jobSpot w = some p) : jobDeal s w.id = s.deal w p.1 p.2 := by
  simp only [jobDeal, hw, hj, hn, ha, hp]
  rfl

end

/-! ### The tenants' turns -/

theorem Die.deficit_setDeficit (d : Die) (x : Deficit) : (d.setDeficit x).deficit x.tenant x.cls = x := by
  unfold Die.setDeficit Die.deficit
  rw [List.find?_cons_of_pos (p := fun y : Deficit => y.tenant == x.tenant && y.cls == x.cls) (by simp)]
  rfl

theorem Die.deficit_names (d : Die) (tenant cls : Nat) :
    (d.deficit tenant cls).tenant = tenant ∧ (d.deficit tenant cls).cls = cls := by
  unfold Die.deficit
  cases h : d.deficits.find? fun x => x.tenant == tenant && x.cls == cls with
  | none => exact ⟨rfl, rfl⟩
  | some x => simpa using List.find?_some h

/-- The deficit of a tenant and class, once it was set. -/
theorem Die.deficit_set (d : Die) {x : Deficit} {tenant cls : Nat} (ht : x.tenant = tenant) (hc : x.cls = cls) :
    (d.setDeficit x).deficit tenant cls = x := by
  subst ht hc
  exact d.deficit_setDeficit x

theorem tenantServe_credits {s : State} {die cls n : Nat} (ht : s.turnOf die cls = some n)
    (hc : ((s.die die).deficit n cls).credited = false) :
    (((tenantServe s die cls).die die).deficit n cls) = { (s.die die).deficit n cls with
      deficit := ((s.die die).deficit n cls).deficit + (s.die die).weight n * 4096, credited := true } := by
  obtain ⟨hn, hk⟩ := (s.die die).deficit_names n cls
  simp only [tenantServe, ht]
  rw [if_neg (by simp [hc]), State.die_setDie]
  exact Die.deficit_set _ hn hk

theorem deficitCharge_charges {s : State} {die : Nat} {tm : Team} {w : Work} {k : Gang} (ht : s.teams = [tm]) (hr : tm.retired = false)
    (hd : s.physTile tm.ltile / 104 = die) (hl : (s.cluster (clusterOf (s.physTile tm.ltile))).last = s.time)
    (hk : s.gang? tm.gang = some k) (hres : k.resident = true) (hw : s.work? tm.work = some w) :
    ((deficitCharge s die).die die).deficit w.tenant w.prio = { (s.die die).deficit w.tenant w.prio with
      deficit := max (-(2 ^ 47)) (((s.die die).deficit w.tenant w.prio).deficit - if tm.pair = true then 2 else 1) } := by
  obtain ⟨hn, hc⟩ := (s.die die).deficit_names w.tenant w.prio
  unfold deficitCharge
  rw [ht, List.filter_cons_of_pos, List.filter_nil, List.foldl_cons, List.foldl_nil, hw]
  · dsimp only
    rw [State.die_setDie]
    exact Die.deficit_set _ hn hc
  · simp [hr, hd, hl, hk, hres]

/-! ### A pre-emption is asked -/

theorem latest_mem {l : List Gang} {k : Gang} (h : latest l = some k) : k ∈ l := by
  induction l generalizing k with
  | nil => cases h
  | cons a l ih =>
    unfold latest at h
    split at h
    next m hm =>
      split at h
      · obtain rfl := Option.some.inj h
        exact List.mem_cons_self
      · obtain rfl := Option.some.inj h
        exact List.mem_cons_of_mem a (ih hm)
    next =>
      obtain rfl := Option.some.inj h
      exact List.mem_cons_self

theorem State.victims_spec {s : State} {die cls : Nat} {k : Gang} (h : k ∈ s.victims die cls) :
    (k.state = .running ∨ k.state = .stopping true) ∧ k.preempt = false := by
  have hv := (List.mem_filter.mp h).2
  simp only [Bool.and_eq_true, Bool.or_eq_true, beq_iff_eq, Bool.not_eq_true'] at hv
  obtain ⟨⟨⟨⟨hs, hp⟩, -⟩, -⟩, -⟩ := hv
  exact ⟨hs, hp⟩

theorem State.askPreempt_eq {s : State} {k : Gang} (hs : k.state = .running ∨ k.state = .stopping true) (hp : k.preempt = false) :
    s.askPreempt k = if k.state = .running then s.requestStop k false else s.setGang { k with preempt := true, stopAt := s.time } := by
  unfold State.askPreempt
  rcases hs with h | h
  · rw [h, if_pos rfl]
  · rw [h]
    exact (if_neg (by simp [hp])).trans (if_neg (by simp)).symm

theorem class0Preempt_asks {s : State} {die : Nat} {k : Gang} (hw : s.class0Waits die = true) (hp : s.preempting die = false)
    (hk : [3, 2, 1].findSome? (fun c => latest (s.victims die c)) = some k) : class0Preempt s die = s.askPreempt k := by
  simp only [class0Preempt, hw, hp, hk]
  rfl

/-- What is found to be pre-empted may be pre-empted. -/
theorem State.found_victim {s : State} {die : Nat} {k : Gang}
    (hk : [3, 2, 1].findSome? (fun c => latest (s.victims die c)) = some k) :
    (k.state = .running ∨ k.state = .stopping true) ∧ k.preempt = false := by
  obtain ⟨c, -, hc⟩ := List.exists_of_findSome?_eq_some hk
  exact State.victims_spec (latest_mem hc)

/-! ### Gangs are saved and restored -/

theorem State.packTeam_gangs (s : State) (t : Team) : (s.packTeam t).gangs = s.gangs := rfl

theorem State.seePaths_gangs (s : State) (g : Group) : (s.seePaths g).gangs = s.gangs := congrArg (·.gangs) (s.seePaths_beside g)

theorem State.gang?_of_gangs {s t : State} (h : s.gangs = t.gangs) (id : Nat) : s.gang? id = t.gang? id := by
  unfold State.gang?
  rw [h]

theorem State.saveGang_saves {s v : State} {k : Gang} (hs : s.saveGroups ((s.gangGroups k).map fun g => g.id) = .done v)
    (hk : v.gang? k.id = some k) : ∃ t k' b, s.saveGang k = .next t ∧ t.gang? k.id = some k' ∧ k'.state = .saved b := by
  have hsaved : ∀ (u : State) (k' : Gang), k'.id = k.id → u.gangs = v.gangs → (u.setGang k').gang? k.id = some k' :=
    fun u k' hid hu => by
      rw [← hid] at hk ⊢
      exact State.gang?_setGang ((State.gang?_of_gangs hu _).trans hk)
  simp only [State.saveGang, hs]
  refine ⟨_, _, _, rfl, hsaved _ _ rfl ?_, rfl⟩
  refine (foldl_frame State.gangs (fun u g => ?_) _ _).trans ((foldl_frame State.gangs (fun u t => ?_) _ _).trans
    (foldl_frame State.gangs (fun u g => ?_) _ _))
  · rfl
  · exact u.packTeam_gangs _
  · exact u.seePaths_gangs g

theorem gangStop_saves {s v : State} {k : Gang} (hk : s.gang? k.id = some k) (hs : k.state = .stopping false)
    (hq : (s.stopHeld k).gangQuiet k = true) (hi : (s.stopHeld k).spillIdle k = true) (hp : (s.stopHeld k).poolFits k = true)
    (hv : (s.stopHeld k).saveGroups (((s.stopHeld k).gangGroups k).map fun g => g.id) = .done v) (hkv : v.gang? k.id = some k) :
    ∃ t k' b, gangStop s k.id = .next t ∧ t.gang? k.id = some k' ∧ k'.state = .saved b := by
  have h : gangStop s k.id = (s.stopHeld k).saveGang k := by
    simp only [gangStop, hk, hs, hq, hi, hp]
    rfl
  rw [h]
  exact State.saveGang_saves hv hkv

theorem contextRestore_restores {s t : State} {k : Gang} {w : Work} {spot : Nat × List (Fit × List Nat)} (hk : s.gang? k.id = some k)
    (hw : s.work? k.work = some w) (hs : k.state = .saved false) (hi : s.spillIdle k = true) (ha : s.allowed (.saved k.id) = true)
    (hp : s.restoreSpot w k = some spot)
    (hc : ∀ x ∈ s.tiles, ∀ e ∈ x.2.path, ∀ g ∈ s.gangGroups k, e.covered g.id = false)
    (hl : (s.replaceGang k spot.1 spot.2).loadGroups (((s.replaceGang k spot.1 spot.2).gangGroups k).map fun g => g.id) = .done t) :
    contextRestore s k.id = .next ((t.releaseStops k).wakeEntries k) := by
  have hahead : s.pathAhead k = false := by
    simp only [State.pathAhead, List.any_eq_false, Bool.not_eq_true]
    exact hc
  simp only [contextRestore, hk, hw, hs, hi, ha, hp, hahead, State.restoreGang, hl]
  rfl

/-! ### The ember -/

theorem State.acquireAt_works (s : State) (g : Group) (scope : Nat) : (s.acquireAt g scope).works = s.works :=
  congrArg (·.works) (s.acquireAt_beside g scope)

theorem State.endEmbwait_works (s : State) (g : Group) (got : Bool) : (s.endEmbwait g got).works = s.works := by
  unfold State.endEmbwait
  split
  · dsimp only
    split
    · exact s.acquireAt_works g _
    · rfl
  · rfl

theorem State.freeEmbwait_works (s : State) (work : Nat) (l : Option Nat) : (s.freeEmbwait work l).works = s.works :=
  foldl_frame State.works (fun u g => u.endEmbwait_works g _) _ _

theorem emberAdvance_visits {s : State} {w : Work} {l : Nat} (hw : s.work? w.id = some w) (hd : w.det = 1) (ha : w.abort = false)
    (hv : w.visiting = false) (hr : w.state = .running) (hn : w.nextVisit w.holder = some l)
    (ht : ∃ t ∈ s.teams, t.work = w.id ∧ t.l = l ∧ t.retired = false) :
    (emberAdvance s w.id).work? w.id = some { w with holder := l, visiting := true } := by
  have hdue : w.emberDue = (w, some l) := by simp only [Work.emberDue, hn]
  have hplaced : (s.teams.any fun t => t.work == w.id && t.l == l && !t.retired) = true := by
    obtain ⟨t, hm, hw', hl, hr'⟩ := ht
    exact List.any_eq_true.mpr ⟨t, hm, by simp [hw', hl, hr']⟩
  have h : emberAdvance s w.id = (s.setWork { w with holder := l, visiting := true }).freeEmbwait w.id (some l) := by
    simp only [emberAdvance, hw, hdue, if_pos hplaced]
    exact if_neg (by simp [hd, ha, hv, hr])
  rw [h, State.work?_of_works (State.freeEmbwait_works _ _ _)]
  exact State.work?_setWork (w := { w with holder := l, visiting := true }) hw

/-! ### Mail -/

theorem State.acquireAt_dies (s : State) (g : Group) (scope : Nat) : (s.acquireAt g scope).dies = s.dies :=
  congrArg (·.dies) (s.acquireAt_beside g scope)

theorem State.receive_dies (s : State) (e : LogEntry) (m : List Byte) : (s.receive e m).dies = s.dies := by
  unfold State.receive
  dsimp only
  split
  · exact State.acquireAt_dies _ _ _
  · rfl

theorem State.serveMail_dies (agent box n : Nat) : ∀ s : State, (s.serveMail agent box n).dies = s.dies := by
  induction n with
  | zero => exact fun _ => rfl
  | succ n ih =>
    intro s
    unfold State.serveMail
    split
    · rw [ih, State.receive_dies]
      rfl
    · rfl

theorem State.mailIn_room {s : State} {m : Msg} (h : (s.mailbox m.agent m.box).length < 16) :
    ∃ t, s.mailIn m = some t ∧ t.dies = s.dies :=
  ⟨_, if_neg (Nat.not_le.mpr h), State.serveMail_dies _ _ _ _⟩

theorem deliverMail_delivers {s : State} {die n : Nat} {m : Msg} (hm : (s.die die).outbound[n]? = some m) (hb : s.mailBehind m = false)
    (hr : m.module ≠ 0 ∨ (s.mailbox m.agent m.box).length < 16) :
    ((deliverMail s die n).die die).outbound = (s.die die).outbound.eraseIdx n := by
  have hset : ∀ u : State, u.dies = (s.setDie die { s.die die with outbound := (s.die die).outbound.eraseIdx n }).dies →
      (u.die die).outbound = (s.die die).outbound.eraseIdx n := fun u hu => by
    rw [State.die_of_dies hu, State.die_setDie]
  apply hset
  by_cases h0 : m.module = 0
  · obtain ⟨t, ht, hd⟩ := State.mailIn_room (s := s.setDie die { s.die die with outbound := (s.die die).outbound.eraseIdx n })
      (hr.resolve_left fun h => h h0)
    simp only [deliverMail, hm, hb, h0, ht]
    exact hd
  · simp [deliverMail, hm, hb, h0]

end Sys2Proof.Machine
end

section
/-! Every event takes effect where it is due (O60). -/
namespace Sys2Proof.Machine
open Sys2Proof.Stated

/-- Settles O60: the event of each kind, due under the statement's conditions, is the one step of its unit whose lemma says what that
step leaves: the memory, the traps, the copies, the matrix unit and the kiln, the works. -/
theorem eventsTakeEffect : Obligations.EventsTakeEffect := by
  unfold Obligations.EventsTakeEffect
  refine ⟨⟨?issueArbitration, ?vlComplete, ?storePerformHome, ?tileCacheLineDrop, ?translationWalk, ?dirtyGatherWriteback,
      ?faultRecordPost, ?uncorrectableError, ?correctedError⟩,
    ?localTrapEntry,
    ⟨?bankArbitration, ?copyTransferReads, ?remoteDelivery, ?copyTransferWrites, ?multicastDelivery, ?copyTransferReturns,
      ?ackArrival⟩,
    ⟨?macroOpStep, ?drainPerform, ?rlxopenJoin, ?kilnPassEnd, ?kilnPassAbandon, ?rlxcloseJoin⟩,
    ⟨?launchReady, ?jobReady, ?depctrRegister, ?gangPlace, ?jobDeal, ?tenantServe, ?deficitCharge, ?class0Preempt, ?gangStop,
      ?contextRestore, ?groupRetire, ?teamRetire, ?completion, ?childCompletion, ?emberAdvance, ?mailboxDelivery⟩⟩
  case issueArbitration =>
    intro s hc
    exact congrArg Host.Outcome.next (if_neg (by rw [hc]; decide))
  case vlComplete =>
    intro s e g lanes he hg hr hs hu hn
    exact vlComplete_completes he hg hr hs hu hn
  case storePerformHome =>
    intro s tile n e bs he ho hr
    exact ⟨_, rfl, storePerform_gone he ho hr⟩
  case tileCacheLineDrop =>
    intro s tile line
    refine ⟨_, rfl, fun l hl => ?_⟩
    rw [State.tile_setTile] at hl
    exact bne_iff_ne.mp (List.mem_filter.mp hl).2
  case translationWalk =>
    intro s u tile va asid vmid vmt kind r e ht hv ag hw hf hb hk
    exact congrArg Host.Outcome.next (translationWalk_fills ht hv hw hf hb hk)
  case dirtyGatherWriteback =>
    intro s die n g hg hb
    exact ⟨_, rfl, gatherWriteback_gone hg hb⟩
  case faultRecordPost =>
    intro s die f l hb ht
    exact ⟨_, rfl, postRecord_gone hb ht⟩
  case uncorrectableError =>
    intro s addr
    exact ⟨_, rfl, congrArg Health.uecnt (uncorrectable_health s addr)⟩
  case correctedError =>
    intro s
    exact ⟨_, rfl, rfl⟩
  case localTrapEntry =>
    intro s u g t w hg hp hh hf hst hr he hv hs hw hb hu
    exact ⟨_, _, rfl, trapEntry_enters hg hp hh hf hst hr he hv hs hw hb hu, rfl, rfl, rfl, t.causeWord_eq, rfl, rfl⟩
  case bankArbitration =>
    intro s k l rest tile t off hf hk hl hg hd hs
    exact bankArbitration_reads hf hk hl hg hd hs
  case copyTransferReads =>
    intro s k l t off hk hm hg hl hd hs
    exact copyTransfer_reads hk hm hg hl hd hs
  case remoteDelivery =>
    intro s k l bs recv off x tm hk hmv hr hmc hl hd hx ht hin hfirst hret hrest
    have hdel : Delivers s k l bs recv off x tm :=
      { copy := hk, moves := hmv, lane := hl, data := hd, dst := hx, team := ht, waits := hin, first := hfirst, lives := hret,
        rests := hrest }
    exact ⟨_, rfl, fun k' hk' => (remoteDelivery_remote hdel hr hmc k' hk').2⟩
  case copyTransferWrites =>
    intro s k l bs hdue hd hr hm hw
    refine ⟨fun t off hx => ?_, fun va v ps hx hv ho => ?_⟩
    · obtain ⟨u, hu, hgone⟩ := copyWrite_window (bs := bs) hw hx
      exact ⟨u, (copyTransfer_writes hdue hd hr hm).trans hu, hgone⟩
    · obtain ⟨u, hu, hgone⟩ := copyWrite_memory (bs := bs) hw hx hv ho
      exact ⟨u, (copyTransfer_writes hdue hd hr hm).trans hu, hgone⟩
  case multicastDelivery =>
    intro s k l bs recv off x ro snd tm tab hk hmv hmc hb ho hl hd hx ht hin hfirst hret hrest ha
    have hdel : Delivers s k l bs recv off x tm :=
      { copy := hk, moves := hmv, lane := hl, data := hd, dst := hx, team := ht, waits := hin, first := hfirst, lives := hret,
        rests := hrest }
    refine ⟨_, rfl, fun k' hk' => ?_⟩
    obtain ⟨hacked, hgone⟩ := remoteDelivery_multicast hdel hmc hb ho ha k' hk'
    exact ⟨hacked hmc, hgone⟩
  case copyTransferReturns =>
    intro s k l bs hdue hd hr hv
    exact copyTransfer_returns hdue hd hr hv
  case ackArrival =>
    intro s n a tm ha ht hr hm
    exact ⟨_, rfl, ackArrival_taken ha ht hr hm⟩
  case macroOpStep =>
    intro s e g n pa pb i tr he hg ho hr hs hold a b hf hi
    obtain ⟨e', he', ho'⟩ := macroStep_goesOn he hg ho hr hs hold hf hi
    exact ⟨_, e', rfl, he', ho'⟩
  case drainPerform =>
    intro s e g n row base he hg ho hr hu hn hk hold hl
    have hdue : DrainDue s e g n row base :=
      { entry := he, group := hg, op := ho, runs := hr, placed := hu, free := hn, gang := hk, first := hold, unscored := hl }
    refine ⟨fun hsp => ?_, fun hm hsp => ?_⟩
    · obtain ⟨e', he', hout⟩ := drainStep_delivers hdue hsp
      exact ⟨_, e', rfl, he', hout⟩
    · obtain ⟨e', he', hout⟩ := drainStep_suspends hdue hm hsp
      exact ⟨_, e', rfl, he', hout⟩
  case rlxopenJoin =>
    intro s tm ht hs hn he
    obtain ⟨x, hx, ho⟩ := openJoin_opens ht hs hn he
    exact ⟨_, x, rfl, hx, ho⟩
  case kilnPassEnd =>
    intro s tm ht hs ha
    obtain ⟨x, hx, ho⟩ := passEnd_ends ht hs ha
    exact ⟨_, x, rfl, hx, ho⟩
  case kilnPassAbandon =>
    intro s tm ht ho hq
    obtain ⟨x, hx, hout⟩ := passAbandon_abandons ht ho hq
    exact ⟨_, x, rfl, hx, hout⟩
  case rlxcloseJoin =>
    intro s tm g l ht hs ha hg hst hf hn hc
    exact closeJoin_closes ht hs ha hg hst hf hn hc
  case launchReady =>
    intro s w hw hj hs hr ht hd
    obtain ⟨v, hv, hout⟩ := State.startLaunch_starts hw
    exact ⟨_, v, launchReady_starts hw hj hs hr ht hd, hv, hout⟩
  case jobReady =>
    intro s w hw hj hs
    obtain ⟨v, hv, hout⟩ := jobReady_starts hw hj hs
    exact ⟨_, v, rfl, hv, hout⟩
  case depctrRegister =>
    intro s w hw hs hm ht hn hd
    exact depctrRegister_ready hw hs hm ht hn hd
  case gangPlace =>
    intro s w lt fs hw hj hn ha hp
    obtain ⟨hlen, v, hv, hout⟩ := State.placeGang_places hw lt fs
    exact ⟨_, v, congrArg Host.Outcome.next (gangPlace_places hw hj hn ha hp), hlen, hv, hout⟩
  case jobDeal =>
    intro s w lt f hw hj hn ha hp
    obtain ⟨hlen, v, hv, hout⟩ := State.deal_deals hw lt f
    exact ⟨_, v, congrArg Host.Outcome.next (jobDeal_deals hw hj hn ha hp), hlen, hv, hout⟩
  case tenantServe =>
    intro s die cls n ht hc
    have hx := tenantServe_credits ht hc
    exact ⟨_, rfl, congrArg Deficit.credited hx, congrArg Deficit.deficit hx⟩
  case deficitCharge =>
    intro s die tm w k ht hr hd hl hk hres hw
    exact ⟨_, rfl, congrArg Deficit.deficit (deficitCharge_charges ht hr hd hl hk hres hw)⟩
  case class0Preempt =>
    intro s die k hw hp hk
    obtain ⟨hs, hpre⟩ := State.found_victim hk
    exact congrArg Host.Outcome.next ((class0Preempt_asks hw hp hk).trans (State.askPreempt_eq hs hpre))
  case gangStop =>
    intro s k hk hs hq hi hp v hv hkv
    exact gangStop_saves hk hs hq hi hp hv hkv
  case contextRestore =>
    intro s t k w spot hk hw hs hi ha hp hc u hl
    exact contextRestore_restores hk hw hs hi ha hp hc hl
  case groupRetire =>
    intro s g hg hc hr hl hp hf hn
    obtain ⟨h, hh, hout⟩ := groupRetire_retires hg hc hr hl hp hf hn
    exact ⟨_, h, rfl, hh, hout⟩
  case teamRetire =>
    intro s tm k ht hk hr hl hg hc
    obtain ⟨x, hx, hout⟩ := teamRetire_retires ht hk hr hl hg hc
    exact ⟨_, x, rfl, hx, hout⟩
  case completion =>
    intro mk job hmk s w hw hj ht hb hr ho hout u hdone
    have hover : WorkOver s w := { work := hw, token := ht, still := hb, fresh := hr }
    have hexec : exec (mk w.id) s = s.complete w := by
      simp only [List.mem_cons, List.not_mem_nil, or_false, Prod.mk.injEq] at hmk
      rcases hmk with ⟨rfl, rfl⟩ | ⟨rfl, rfl⟩
      · refine launchRetire_completes hover hj ?_
        simpa using ho
      · obtain ⟨hm, hn⟩ := hout rfl
        refine jobComplete_completes hover hj hm hn ?_
        simpa using ho
    rw [hexec]
    exact State.complete_completes hw hdone
  case childCompletion =>
    intro s w hw h
    exact ⟨_, rfl, childCompletion_gone hw h⟩
  case emberAdvance =>
    intro s w l hw hd ha hv hr hn ht
    exact ⟨_, _, rfl, emberAdvance_visits hw hd ha hv hr hn ht, rfl, rfl⟩
  case mailboxDelivery =>
    intro s die n m hm hb hr
    exact ⟨_, rfl, deliverMail_delivers hm hb hr⟩

end Sys2Proof.Machine
end

section
/-! Reset values, and addresses beyond bit 51 (03 R50; 23 R399). -/
namespace Sys2Proof.Machine
open Sys2Proof.Stated

theorem bits_ne_zero_of_le {x hi lo : Nat} (h : 2 ^ lo ≤ x) (hx : x < 2 ^ (hi + 1)) : bits x hi lo ≠ 0 := by
  have hlo : lo ≤ hi := by
    by_contra hn
    have : 2 ^ (hi + 1) ≤ 2 ^ lo := Nat.pow_le_pow_right (by decide) (by omega)
    omega
  have hsmall : x / 2 ^ lo < 2 ^ (hi + 1 - lo) := by
    rw [Nat.div_lt_iff_lt_mul (by positivity), ← pow_add]
    rwa [show hi + 1 - lo + lo = hi + 1 by omega]
  rw [bits, Nat.shiftRight_eq_div_pow, Nat.mod_eq_of_lt hsmall]
  exact (Nat.div_pos h (by positivity)).ne'

/-- Settles O59: a bit above bit 51 is found in [63:52], in front of any translation. -/
theorem highAddressBitsViolatePermission : Obligations.HighAddressBitsViolatePermission := by
  intro s ag va n k work h
  have hb : (fld va 63 52 != 0) = true := bne_iff_ne.mpr (bits_ne_zero_of_le h va.isLt)
  rw [State.translate, if_pos hb]

/-- Settles O52: every memory is empty at reset. -/
theorem resetMemoryIsCanonical : Obligations.ResetMemoryIsCanonical := ⟨rfl, rfl⟩

/-- Settles O51: each value as `State.reset` and the defaults of its objects give it. -/
theorem resetValues : Obligations.ResetValues := by
  refine ⟨rfl, rfl, rfl, rfl, rfl, ?_, fun _ => ⟨rfl, rfl, rfl, rfl, rfl, rfl, rfl, rfl, fun _ => rfl⟩,
    fun _ => ⟨rfl, rfl, rfl, rfl, rfl, rfl, rfl, rfl⟩, fun _ => rfl, rfl⟩
  intro g hg
  obtain ⟨n, -, rfl⟩ := List.mem_map.mp hg
  exact ⟨rfl, rfl, rfl, rfl, rfl, rfl, rfl, rfl, rfl, _, rfl, rfl, rfl, rfl, rfl, rfl⟩

end Sys2Proof.Machine
end

section
/-! The privileged instructions of a stoker core, behind their checks (03 R52, R58; 21 R366, R377 to R379). -/
namespace Sys2Proof.Machine
open Sys2Proof.Stated

/-! ### Issuing what acts once -/

section
variable {s t : State} {maj min : Nat} {o : Ops} {g : Group} {cl : Clause} {body : Ctx → State → Res}

theorem Ctx.once_eq_ok {c : Ctx} {s u : State} {r : Res} (h : c.anyLane = true → r = .ok u) : c.once s r = .ok (c.onceDo s u) := by
  unfold Ctx.once Ctx.onceDo
  split_ifs with ha
  · exact h ha
  · rfl

/-- An instruction that acts once: it moves on, with its effect where a lane executes (R79). -/
theorem issue_once {u : State} {r : Res} (h : Clear s maj min o g cl t)
    (hb : body (s.ctx maj min o g cl) t = (s.ctx maj min o g cl).once t r)
    (hr : (s.ctx maj min o g cl).anyLane = true → r = .ok u) :
    issue maj min o body s = .next ((s.ctx maj min o g cl).done ((s.ctx maj min o g cl).onceDo t u)) :=
  issue_ok h (hb.trans (Ctx.once_eq_ok hr))

/-- An SY instruction whose own checks pass is its effect, once. -/
theorem sy_once {c : Ctx} {s : State} {l : List (Bool × (Cause × W64))} {r : Res} (hr : s.rlxRefuses c = none)
    (hl : firstFail l = none) : sy c s l r = c.once s r :=
  sy_pass hr (firstFail_filter hl) fun _ => hl

theorem sy_nil {c : Ctx} {s : State} {r : Res} (hr : s.rlxRefuses c = none) : sy c s [] r = c.once s r := sy_once hr rfl

/-- What a body's stall is tried again for is a QUOTA that was delivered, and comes only where an entry holds it (R365). -/
theorem quotaHolds_eq_some {c : Ctx} {q : PendTrap} (h : t.quotaHolds c body = some q) :
    ¬((∀ e ∈ t.log, e.grp = c.g.id → e.state ≠ .quota) ∨ c.g.flow.tl = true) ∧
    ∃ x, c.g.due.find? (fun x => x.cause == .quota && x.replay.isSome) = some x ∧
      q = { x with pos := c.cl.pos, seta := c.cl.seta, setb := c.cl.setb, lanes := c.cl.lanes, clause := some c.cl
                   held := true, boundary := false } := by
  unfold State.quotaHolds at h
  dsimp only at h
  split_ifs at h with he
  unfold Ctx.quotaDue at h
  split_ifs at h with hd
  simp only [Bool.and_eq_true, Bool.not_eq_true'] at hd
  obtain ⟨x, hx, hq⟩ := Option.map_eq_some_iff.mp h
  refine ⟨?_, x, hx, hq.symm⟩
  rintro (hn | htl)
  · refine he (List.isEmpty_iff.mpr (List.filter_eq_nil_iff.mpr fun e hl => ?_))
    simp only [Bool.and_eq_true, beq_iff_eq, not_and]
    exact hn e hl
  · exact absurd htl (by simp [hd.2])

/-- A body that stalls: the instruction stalls, or a delivered QUOTA is taken in front of it (R365, R366). -/
theorem stalls_of_body {i : Instr} {w : Stall} (hi : exec i s = issue maj min o body s) (h : Clear s maj min o g cl t)
    (hb : body (s.ctx maj min o g cl) t = .stall w) : Stalls i s t (s.ctx maj min o g cl) w := by
  have hw : (s.ctx maj min o g cl).attempt t body = .stall w := by
    rw [attempt_eq (by simp [hb]), hb]
  have hout := hi.trans (issue_stall h hw)
  cases hq : t.quotaHolds (s.ctx maj min o g cl) body with
  | none =>
    rw [hq] at hout
    exact ⟨fun _ => hout, .inl hout⟩
  | some q =>
    rw [hq] at hout
    obtain ⟨hnot, x, hx, rfl⟩ := quotaHolds_eq_some hq
    exact ⟨fun hc => absurd hc hnot, .inr ⟨x, hx, hout⟩⟩

end

/-! ### The agent's entry (R52) -/

/-- Settles O17: both writes are their effect, made once, at the entry that the agent table gives or in the core. -/
theorem quotaWritesAgentEntry : Obligations.QuotaWritesAgentEntry := by
  intro o s g cl t u h c hr hn
  have hbody : quotaWrite c t = c.once t _ := sy_nil hr
  refine ⟨fun pa he => issue_once h hbody fun _ => ?_, fun he => issue_once h hbody fun _ => ?_⟩
  · rw [show c.g = g from rfl, he]
    rcases hn with hn | hn <;> simp [hn, Ctx.csrVal]
  · rw [show c.g = g from rfl, he]
    rcases hn with hn | hn <;> simp [hn, Ctx.csrVal]

/-! ### Privileged CSRs are read (R377, R378, R403) -/

theorem Ctx.core_eq {s : State} {maj min : Nat} {o : Ops} {g : Group} {cl : Clause} {k : CoreRegs} (h : g.core = some k) :
    (s.ctx maj min o g cl).core = k := by
  simp [Ctx.core, State.ctx, h]

theorem privRead_of_mem {r : Nat × (State → Group → CoreRegs → W64)} (hr : r ∈ privCsrs) (t : State) (g : Group) (k : CoreRegs) :
    t.privRead g k r.1 = some (r.2 t g k) := by
  simp only [privCsrs, List.mem_cons, List.not_mem_nil, or_false] at hr
  rcases hr with rfl | rfl | rfl | rfl | rfl | rfl | rfl | rfl | rfl | rfl | rfl | rfl | rfl | rfl | rfl <;> rfl

theorem privCsrs_plain {r : Nat × (State → Group → CoreRegs → W64)} (hr : r ∈ privCsrs) :
    0x200 ≤ r.1 ∧ r.1 ≠ 0x202 ∧ r.1 ≠ 0x203 ∧ r.1 ≠ 0x240 :=
  (by decide : ∀ n ∈ privCsrs.map (·.1), 0x200 ≤ n ∧ n ≠ 0x202 ∧ n ≠ 0x203 ∧ n ≠ 0x240) _ (List.mem_map_of_mem hr)

/-- A number whose read has no effect of its own. -/
theorem csrrdp_plain {c : Ctx} {s : State} {v : W64} (hr : s.rlxRefuses c = none) (h : 0x200 ≤ csrNumA c.o)
    (hq : csrNumA c.o ≠ 0x202) (hu : csrNumA c.o ≠ 0x203) (hh : csrNumA c.o ≠ 0x240)
    (hv : s.privRead c.g c.core (csrNumA c.o) = some v) : csrrdp c s = c.once s (.ok (c.putS s v)) := by
  unfold csrrdp
  dsimp only
  split
  · exact absurd ‹_› hq
  · exact absurd ‹_› hu
  · exact absurd ‹_› hh
  · rw [rlxGate_pass hr, if_pos h, hv]

theorem csrrdp_quota {c : Ctx} {s : State} (hr : s.rlxRefuses c = none) (h : csrNumA c.o = 0x202) :
    csrrdp c s = c.once s (quotaRead 8 c s) := by
  unfold csrrdp
  rw [h]
  exact sy_nil hr

theorem csrrdp_qused {c : Ctx} {s : State} (hr : s.rlxRefuses c = none) (h : csrNumA c.o = 0x203) :
    csrrdp c s = c.once s (quotaRead 16 c s) := by
  unfold csrrdp
  rw [h]
  exact sy_nil hr

theorem quotaRead_own {c : Ctx} {s u : State} (off : Nat) (h : s.agentEntry c.g false = (u, .own)) :
    quotaRead off c s = .ok (c.putS u (if off = 8 then c.core.quota else c.core.qused)) := by
  simp [quotaRead, h]

theorem quotaRead_at {c : Ctx} {s u : State} {off pa : Nat} (h : s.agentEntry c.g false = (u, .at' pa))
    (hb : u.badRead (pa + off) 8 = false) : quotaRead off c s = .ok (c.putS u (u.homeW64 (pa + off))) := by
  simp [quotaRead, h, hb]

/-- Settles O15: every read is its effect, made once, for the numbers of `privCsrs` and for the two of the agent entry apart. -/
theorem privilegedReads : Obligations.PrivilegedReads := by
  refine ⟨fun r hm o s g k cl t h => ?_, fun o s g k cl t u pa h => ?_, fun o s g cl t h => ?_⟩
  · intro c hk hr hn
    obtain ⟨hlo, hq, hu, hh⟩ := privCsrs_plain hm
    have hv : t.privRead c.g c.core (csrNumA c.o) = some (r.2 t g k) := by
      rw [hn, Ctx.core_eq hk]
      exact privRead_of_mem hm t g k
    rw [← hn] at hlo hq hu hh
    exact issue_once h (csrrdp_plain hr hlo hq hu hh hv) fun _ => rfl
  · intro c hk hr
    have hcore : c.core = k := Ctx.core_eq hk
    refine ⟨fun hn he => issue_once h (csrrdp_quota hr hn) fun _ => ?_,
      fun hn he => issue_once h (csrrdp_qused hr hn) fun _ => ?_,
      fun hn he hb => issue_once h (csrrdp_quota hr hn) fun _ => quotaRead_at he hb,
      fun hn he hb => issue_once h (csrrdp_qused hr hn) fun _ => quotaRead_at he hb⟩
    · rw [quotaRead_own 8 he, hcore, if_pos rfl]
    · rw [quotaRead_own 16 he, hcore, if_neg (by decide)]
  · intro c hr
    exact issue_once h (sy_nil hr) fun _ => rfl

/-! ### Waiting, stopping and flushing (R58, R369, R378) -/

/-- A core that a freeze stops halts (R369). -/
theorem State.freeze_core {s : State} {g : Group} {k : CoreRegs} (h : g.core = some k) (cause va ipa : Nat) :
    s.freeze g cause va ipa = s.haltCore g := by
  simp [State.freeze, h]

/-- A body that freezes the core that issues it. -/
theorem issue_halts {s t u : State} {maj min : Nat} {o : Ops} {g : Group} {cl : Clause} {body : Ctx → State → Res} {k : CoreRegs}
    {cause va ipa : Nat} (h : Clear s maj min o g cl t) (hk : g.core = some k)
    (hb : body (s.ctx maj min o g cl) t = .freeze u cause va ipa) : issue maj min o body s = .next (u.haltCore g) := by
  rw [issue_body h (by simp [hb]) (by simp [hb]), hb]
  exact congrArg Host.Outcome.next (State.freeze_core hk cause va ipa)

section
variable {c : Ctx} {s : State}

theorem wfi_badHeader {pa : Nat} (hr : s.rlxRefuses c = none) (ha : c.anyLane = true) (h : s.servedBad c.core = some pa) :
    wfi c s = .freeze s (s.badCause pa) pa pa := by
  rw [wfi, sy_nil hr, once_of_anyLane ha, h]

theorem wfi_goesOn (hr : s.rlxRefuses c = none) (h : s.servedBad c.core = none)
    (hw : s.ringWork c.core = true ∨ c.core.doorbell = true) :
    wfi c s = c.once s (.ok (s.onCore c.g fun k => { k with doorbell := false })) := by
  have hb : (s.ringWork c.core || c.core.doorbell) = true := by simpa using hw
  rw [wfi, sy_nil hr, h]
  dsimp only
  rw [if_pos hb]

theorem wfi_holds (hr : s.rlxRefuses c = none) (ha : c.anyLane = true) (h : s.servedBad c.core = none)
    (hw : s.ringWork c.core = false) (hd : c.core.doorbell = false) :
    wfi c s = .stay (s.onGroup c.g.id fun g => { g with hold := .wfi, stall := none }) := by
  rw [wfi, sy_nil hr, once_of_anyLane ha, h]
  dsimp only
  rw [if_neg (by simp [hw, hd])]
  rfl

/-- The checks of `tlbinv` pass where bits [61:22] of B are clear. -/
theorem tlbinv_eq (hr : s.rlxRefuses c = none) (hf : fld c.sB 61 22 = 0) : tlbinv c s =
    let v : Cover := { kind := fld c.sB 63 62, asid := fld c.sB 13 0, vmid := fld c.sB 21 14, page := c.sA.toNat / 2 ^ 14 }
    c.once s (if s.usesOld v then .stall .resource
      else .ok ((s.dieNums.foldl (fun s d => s.flushGathers d fun g => g.under v.agent) s).dropTlbs v)) :=
  sy_once hr (by simp [hf, firstFail])

end

/-- Settles O18: `wfi` by its three cases, `halt`, `tlbharv` and `tlbinv` by their effect behind the checks. -/
theorem systemControl : Obligations.SystemControl := by
  refine ⟨fun o s g k cl t h => ?_, fun o s g cl t h => ?_, fun o s g cl t h => ?_, fun o s g cl t h => ?_⟩
  · intro c hk hr ha
    have hcore : c.core = k := Ctx.core_eq hk
    rw [← hcore]
    exact ⟨fun pa hp => issue_halts h hk (wfi_badHeader hr ha hp),
      fun hp hw => issue_ok h ((wfi_goesOn hr hp hw).trans (once_of_anyLane ha)),
      fun hp hw hd => issue_stay h (wfi_holds hr ha hp hw hd)⟩
  · intro c hr ha
    exact issue_stay h ((sy_nil hr).trans (once_of_anyLane ha))
  · intro c hr
    exact issue_once h (sy_nil hr) fun _ => rfl
  · intro c v hr hf
    refine ⟨fun hu => issue_once h (tlbinv_eq hr hf) fun _ => by simp only [v] at hu; rw [if_neg (by rw [hu]; decide)]; rfl,
      fun hu ha => stalls_of_body rfl h ?_⟩
    rw [tlbinv_eq hr hf]
    exact (once_of_anyLane ha).trans (if_pos hu)

/-! ### `fring` (R366, R378) -/

theorem State.badByte_none {s : State} {p : Piece} (h : s.badRead p.pa p.n = false) : s.badByte p = none := by
  simp [State.badByte, h]

section
variable {c : Ctx} {s : State}

theorem fringCons_eq (hr : s.rlxRefuses c = none) (hb : c.fb = 0) {r : Ring} {n : Nat}
    (hring : (if bit c.sA 63 then c.core.hring else c.core.fring) = r) (hnum : fld c.sA 62 0 = n)
    (hok : s.badRead r.base 16 = false) (hlo : s.cons r ≤ n) (hhi : n ≤ s.prod r) : fringCons c s =
      c.once s (.ok (c.putS (s.homeWrite (r.base + 8) (natBytes 8 n) 0) (w64 (s.prod r)))) := by
  have hpass : fringCons c s = c.once s _ := sy_once hr (by simp [hb, firstFail])
  rw [hpass, hring, hnum]
  dsimp only
  rw [State.badByte_none hok]
  exact congrArg (c.once s) (guarded_pass fun _ => by simp [firstFail, Nat.not_lt.mpr hlo, Nat.not_lt.mpr hhi])

theorem onToken_none {more : Token → List (Bool × (Cause × W64))} {f : State → Token → State} (hr : s.rlxRefuses c = none)
    (h : s.token? c.sA.toNat = none) : onToken c s more f = c.once s (.ok (c.putS s 0)) := by
  rw [onToken, sy_nil hr, h]

theorem onToken_some {more : Token → List (Bool × (Cause × W64))} {f : State → Token → State} {u : Token}
    (hr : s.rlxRefuses c = none) (h : s.token? c.sA.toNat = some u) :
    onToken c s more f = c.once s (c.guarded (more u) (.ok (c.putS (f s u) 1))) := by
  rw [onToken, sy_nil hr, h]

end

end Sys2Proof.Machine
end

section
/-! Masters that a token's answer ends or sends on: kills and QUOTA (03 R63, R64; 16 R302; 17 R321; 21 R366). -/
namespace Sys2Proof.Machine
open Sys2Proof.Stated

/-! ### What stays of the works and of the teams -/

/-- Each work that is found in `s` is found in `t`, as far on as it was. -/
def State.WorksKept (s t : State) : Prop := ∀ id w, s.work? id = some w →
  ∃ v, t.work? id = some v ∧ v.state = w.state ∧ v.abort = w.abort ∧ v.visiting = w.visiting

/-- Each number names in `t` a team of the same groups as in `s`. -/
def State.TeamsKept (s t : State) : Prop := ∀ id, (t.team? id).map Team.grps = (s.team? id).map Team.grps

section
variable {s t u : State}

theorem State.WorksKept.of_works (h : t.works = s.works) : s.WorksKept t :=
  fun id w hw => ⟨w, by rw [State.work?_of_works h, hw], rfl, rfl, rfl⟩

theorem State.WorksKept.trans (h : s.WorksKept t) (k : t.WorksKept u) : s.WorksKept u := by
  intro id w hw
  obtain ⟨v, hv, hs, ha, hi⟩ := h id w hw
  obtain ⟨x, hx, hs', ha', hi'⟩ := k id v hv
  exact ⟨x, hx, hs'.trans hs, ha'.trans ha, hi'.trans hi⟩

theorem State.TeamsKept.of_teams (h : t.teams = s.teams) : s.TeamsKept t := fun id => by rw [State.team?_of_teams h]

theorem State.TeamsKept.trans (h : s.TeamsKept t) (k : t.TeamsKept u) : s.TeamsKept u := fun id => (k id).trans (h id)

end

/-- What is found by another number than the one of the replaced objects. -/
theorem find?_replace_ne {α : Type} {key : α → Nat} (l : List α) {y : α} {n : Nat} (hn : n ≠ key y) :
    (l.map fun a => if key a == key y then y else a).find? (fun a => key a == n) = l.find? fun a => key a == n := by
  induction l with
  | nil => rfl
  | cons a l ih =>
    rw [List.map_cons]
    by_cases ha : key a = key y
    · have hy : ¬ (key y == n) = true := by simpa using hn.symm
      rw [if_pos (by simpa using ha), List.find?_cons_of_neg (p := fun a => key a == n) hy,
        List.find?_cons_of_neg (p := fun a => key a == n) (by rwa [ha]), ih]
    · rw [if_neg (by simpa using ha), List.find?_cons, List.find?_cons, ih]

theorem State.WorksKept.setWork {s : State} {w v : Work} {id : Nat} (hv : s.work? id = some v) (hid : w.id = v.id)
    (hs : w.state = v.state) (ha : w.abort = v.abort) (hi : w.visiting = v.visiting) : s.WorksKept (s.setWork w) := by
  have hk : v.id = id := by simpa using List.find?_some hv
  intro n x hx
  by_cases hn : n = w.id
  · subst hn
    have hxv : x = v := Option.some.inj (by rw [← hx, hid, hk, hv])
    exact ⟨w, State.work?_setWork hx, hxv ▸ hs, hxv ▸ ha, hxv ▸ hi⟩
  · exact ⟨x, (find?_replace_ne (key := fun w : Work => w.id) s.works hn).trans hx, rfl, rfl, rfl⟩

theorem State.TeamsKept.setTeam {s : State} {t : Team} (ht : (s.team? t.id).map Team.grps = some t.grps) :
    s.TeamsKept (s.setTeam t) := by
  intro n
  by_cases hn : n = t.id
  · subst hn
    obtain ⟨x, hx, -⟩ := Option.map_eq_some_iff.mp ht
    rw [State.team?_setTeam hx, ht]
    rfl
  · exact congrArg (Option.map Team.grps) (find?_replace_ne (key := fun t : Team => t.id) s.teams hn)

theorem groupsIn_of_teamsKept {s t : State} (h : s.TeamsKept t) (q : Gang) : groupsIn t q = groupsIn s q := by
  unfold groupsIn
  generalize q.teams = l
  induction l with
  | nil => rfl
  | cons id l ih =>
    have hid := h id
    cases ht : t.team? id <;> cases hs : s.team? id <;> simp_all

/-! ### A team's retirement (R299) -/

/-- The state beside tiles, teams and acknowledgements under way. -/
def State.besideTeams (s : State) : State := { s with tiles := [], teams := [], acks := [] }

/-- Every team that the number names has retired. -/
def State.RetiredAt (s : State) (id : Nat) : Prop := ∀ x, s.team? id = some x → x.retired = true

theorem State.setBarriers_besideTeams (s : State) (team : Nat) (l : List Nat) :
    (s.setBarriers team l).besideTeams = s.besideTeams := by
  unfold State.setBarriers
  split
  · rfl
  · split <;> rfl

theorem State.releaseTeam_besideTeams (s : State) (t : Team) : (s.releaseTeam t).besideTeams = s.besideTeams :=
  (State.setBarriers_besideTeams _ t.id [] :)

/-- The valid barriers of a window stand with a tile, or with the team while it is saved. -/
theorem State.setBarriers_teams (s : State) (team : Nat) (l : List Nat) :
    (s.setBarriers team l).teams = s.teams ∨
      ∃ x, s.team? team = some x ∧ (s.setBarriers team l).teams = (s.setTeam { x with savedBars := l }).teams := by
  unfold State.setBarriers
  split
  · exact .inl rfl
  next x hx =>
    split
    · exact .inr ⟨x, hx, rfl⟩
    · exact .inl rfl

/-- The team once it has retired. -/
def Team.released (t : Team) : Team :=
  { t with retired := true, panels := [], accs := [], region := {}, prior := {}, arrived := [], savedBars := [], savedAcks := []
           pool := 0 }

theorem State.releaseTeam_teams (s : State) (t : Team) : ∃ u : State, u.teams = s.teams ∧
    (s.releaseTeam t).teams = ((u.setBarriers t.id []).setTeam t.released).teams := by
  unfold State.releaseTeam
  refine ⟨_, ?_, rfl⟩
  rfl

theorem State.setBarriers_teamsKept (s : State) (team : Nat) (l : List Nat) : s.TeamsKept (s.setBarriers team l) := by
  rcases s.setBarriers_teams team l with h | ⟨x, hx, h⟩
  · exact .of_teams h
  · have hid : x.id = team := by simpa using List.find?_some hx
    exact (State.TeamsKept.setTeam (by simp [hid, hx])).trans (.of_teams h)

theorem State.releaseTeam_teamsKept {s : State} {t : Team} (ht : (s.team? t.id).map Team.grps = some t.grps) :
    s.TeamsKept (s.releaseTeam t) := by
  obtain ⟨u, hu, h⟩ := s.releaseTeam_teams t
  have hb := (State.TeamsKept.of_teams hu).trans (u.setBarriers_teamsKept t.id [])
  have hset : (u.setBarriers t.id []).TeamsKept ((u.setBarriers t.id []).setTeam t.released) := .setTeam ((hb t.id).trans ht)
  exact (hb.trans hset).trans (.of_teams h)

theorem State.RetiredAt.setTeam {s : State} {id : Nat} {t : Team} (h : s.RetiredAt id) (ht : t.id = id → t.retired = true) :
    (s.setTeam t).RetiredAt id := by
  intro x hx
  by_cases hn : id = t.id
  · subst hn
    rw [find?_replace_eq (key := fun t : Team => t.id) hx]
    exact ht rfl
  · exact h x ((find?_replace_ne (key := fun t : Team => t.id) s.teams hn).symm.trans hx)

theorem State.RetiredAt.of_teams {s t : State} {id : Nat} (h : s.RetiredAt id) (ht : t.teams = s.teams) : t.RetiredAt id :=
  fun x hx => h x ((State.team?_of_teams ht id).symm.trans hx)

theorem State.RetiredAt.setBarriers {s : State} {id : Nat} (h : s.RetiredAt id) (team : Nat) (l : List Nat) :
    (s.setBarriers team l).RetiredAt id := by
  rcases s.setBarriers_teams team l with ht | ⟨x, hx, ht⟩
  · exact h.of_teams ht
  · have hid : x.id = team := by simpa using List.find?_some hx
    exact (h.setTeam (t := { x with savedBars := l }) fun hn => h x (by rw [← hn, hid, hx])).of_teams ht

theorem State.RetiredAt.releaseTeam {s : State} {id : Nat} (h : s.RetiredAt id) (t : Team) : (s.releaseTeam t).RetiredAt id := by
  obtain ⟨u, hu, ht⟩ := s.releaseTeam_teams t
  exact (((h.of_teams hu).setBarriers t.id []).setTeam fun _ => rfl).of_teams ht

theorem State.releaseTeam_retiredAt (s : State) (t : Team) : (s.releaseTeam t).RetiredAt t.id := by
  obtain ⟨u, -, ht⟩ := s.releaseTeam_teams t
  intro x hx
  rw [State.team?_of_teams ht] at hx
  rw [find?_replace_eq (key := fun t : Team => t.id) (y := t.released) hx]
  rfl

/-! ### A gang is removed (R302) -/

/-- Retire those of the teams that have not retired. -/
def State.releaseTeams (s : State) (l : List Team) : State :=
  l.foldl (fun s t => if t.retired then s else s.releaseTeam t) s

theorem State.releaseTeams_cons (s : State) (t : Team) (l : List Team) :
    s.releaseTeams (t :: l) = (if t.retired then s else s.releaseTeam t).releaseTeams l := rfl

theorem State.releaseTeams_besideTeams (l : List Team) (s : State) : (s.releaseTeams l).besideTeams = s.besideTeams := by
  refine foldl_frame State.besideTeams (fun u t => ?_) l s
  split
  · rfl
  · exact u.releaseTeam_besideTeams t

theorem State.releaseTeams_teamsKept {l : List Team} {s : State} (hl : ∀ t ∈ l, (s.team? t.id).map Team.grps = some t.grps) :
    s.TeamsKept (s.releaseTeams l) := by
  induction l generalizing s with
  | nil => exact .of_teams rfl
  | cons t l ih =>
    have hone : s.TeamsKept (if t.retired then s else s.releaseTeam t) := by
      split
      · exact .of_teams rfl
      · exact State.releaseTeam_teamsKept (hl t List.mem_cons_self)
    exact hone.trans (ih fun x hx => (hone x.id).trans (hl x (List.mem_cons_of_mem t hx)))

theorem State.RetiredAt.releaseTeams {id : Nat} (l : List Team) {s : State} (h : s.RetiredAt id) : (s.releaseTeams l).RetiredAt id := by
  induction l generalizing s with
  | nil => exact h
  | cons t l ih =>
    rw [State.releaseTeams_cons]
    refine ih ?_
    split
    · exact h
    · exact h.releaseTeam t

theorem State.releaseTeams_retiredAt {l : List Team} {s : State} {t : Team} (ht : t ∈ l) (hr : t.retired = true → s.RetiredAt t.id) :
    (s.releaseTeams l).RetiredAt t.id := by
  induction l generalizing s with
  | nil => cases ht
  | cons x l ih =>
    rw [State.releaseTeams_cons]
    rcases List.mem_cons.mp ht with rfl | hx
    · refine State.RetiredAt.releaseTeams l ?_
      split
      next h => exact hr h
      next => exact s.releaseTeam_retiredAt t
    · refine ih hx fun h => ?_
      split
      · exact hr h
      · exact (hr h).releaseTeam x

/-- Once the teams of a gang were retired, each of its numbers names retired teams alone. -/
theorem State.releaseTeams_gang {s : State} {ids : List Nat} {id : Nat} (hid : id ∈ ids) :
    (s.releaseTeams (ids.filterMap s.team?)).RetiredAt id := by
  cases h : s.team? id with
  | none =>
    refine State.RetiredAt.releaseTeams _ fun x hx => ?_
    rw [h] at hx
    cases hx
  | some t =>
    have hn : t.id = id := by simpa using List.find?_some h
    have ht : t ∈ ids.filterMap s.team? := List.mem_filterMap.mpr ⟨id, hid, h⟩
    rw [← hn]
    refine State.releaseTeams_retiredAt ht fun hr x hx => ?_
    rw [hn, h] at hx
    cases hx
    exact hr

/-- The state beside works and gangs. -/
def State.besideGangs (s : State) : State := { s with works := [], gangs := [] }

theorem State.gangCheck_besideGangs (s : State) (id : Nat) : (s.gangCheck id).besideGangs = s.besideGangs := by
  unfold State.gangCheck
  split
  · split
    · dsimp only
      split <;> rfl
    · rfl
  · rfl

theorem State.gangCheck_worksKept (s : State) (id : Nat) : s.WorksKept (s.gangCheck id) := by
  unfold State.gangCheck
  split
  · split
    · dsimp only
      split
      next w hw => exact (State.WorksKept.setWork (w := { w with gangsDone := w.gangsDone + 1 }) hw rfl rfl rfl rfl).trans (.of_works rfl)
      next => exact .of_works rfl
    · exact .of_works rfl
  · exact .of_works rfl

/-- A check of a gang leaves the gangs, or retires it. -/
theorem State.gangCheck_gangs (s : State) (id : Nat) : (s.gangCheck id).gangs = s.gangs ∨
    ∃ k, s.gang? id = some k ∧ (s.gangCheck id).gangs = (s.setGang { k with state := .retired }).gangs := by
  unfold State.gangCheck
  split
  next k hk =>
    split
    · refine .inr ⟨k, hk, ?_⟩
      dsimp only
      split <;> rfl
    · exact .inl rfl
  next => exact .inl rfl

theorem State.gangCheck_retires {s : State} {k : Gang} (hk : s.gang? k.id = some k) (hs : k.state ≠ .retired)
    (ht : ∀ id ∈ k.teams, s.RetiredAt id) : (s.gangCheck k.id).gangs = (s.setGang { k with state := .retired }).gangs := by
  unfold State.gangCheck
  rw [hk]
  dsimp only
  split
  next => split <;> rfl
  next h =>
    refine absurd (Bool.and_eq_true_iff.mpr ⟨bne_iff_ne.mpr hs, List.all_eq_true.mpr fun id hid => ?_⟩) h
    split
    next t hteam => exact ht id hid t hteam
    next => rfl

/-- The contexts of the instructions in the log of `t` have instructions in the log of `s`. -/
def State.LogWithin (s t : State) : Prop := ∀ e ∈ t.log, ∃ f ∈ s.log, f.grp = e.grp

theorem State.LogWithin.of_log {s t : State} (h : t.log = s.log) : s.LogWithin t := fun e he => ⟨e, h ▸ he, rfl⟩

theorem State.LogWithin.trans {s t u : State} (h : s.LogWithin t) (k : t.LogWithin u) : s.LogWithin u := by
  intro e he
  obtain ⟨f, hf, hfe⟩ := k e he
  obtain ⟨d, hd, hdf⟩ := h f hf
  exact ⟨d, hd, hdf.trans hfe⟩

theorem State.LogWithin.setEntry {s u : State} {e f : LogEntry} (hu : u.log = s.log) (hf : f ∈ s.log) (he : e.grp = f.grp) :
    s.LogWithin (u.setEntry e) := by
  intro x hx
  unfold State.setEntry at hx
  rw [hu] at hx
  obtain ⟨y, hy, rfl⟩ := List.mem_map.mp hx
  split
  · exact ⟨f, hf, he.symm⟩
  · exact ⟨y, hy, rfl⟩

/-- The state beside the log and what queues and mailboxes hold. -/
def State.besideServes (s : State) : State := { s with log := [], dies := [], mail := [], tiles := [] }

theorem State.servePops_besideServes (die q n : Nat) (s : State) :
    (s.servePops die q n).besideServes = s.besideServes ∧ s.LogWithin (s.servePops die q n) := by
  induction n generalizing s with
  | zero => exact ⟨rfl, .of_log rfl⟩
  | succ n ih =>
    unfold State.servePops
    split
    · exact ⟨rfl, .of_log rfl⟩
    next e he =>
      dsimp only
      split
      · exact ⟨rfl, .of_log rfl⟩
      · obtain ⟨hb, hl⟩ := ih _
        refine ⟨hb, State.LogWithin.trans ?_ hl⟩
        exact State.LogWithin.setEntry rfl (List.mem_of_find?_eq_some he) rfl

theorem State.acquireAt_besideServes (s : State) (g : Group) (scope : Nat) :
    (s.acquireAt g scope).besideServes = s.besideServes ∧ (s.acquireAt g scope).log = s.log :=
  ⟨congrArg (fun u : State => { u with log := [], dies := [], mail := [] }) (s.acquireAt_beside g scope),
    congrArg (·.log) (s.acquireAt_beside g scope)⟩

theorem State.receive_besideServes {s : State} {e : LogEntry} (he : e ∈ s.log) (m : List Byte) :
    (s.receive e m).besideServes = s.besideServes ∧ s.LogWithin (s.receive e m) := by
  have hset : s.LogWithin (s.setEntry { e with bound := [(scalarLane, bytesNat m)] }) := State.LogWithin.setEntry rfl he rfl
  unfold State.receive
  dsimp only
  split
  next g _ =>
    obtain ⟨hb, hl⟩ := State.acquireAt_besideServes (s.setEntry { e with bound := [(scalarLane, bytesNat m)] }) g scopeDevice
    exact ⟨hb, hset.trans (.of_log hl)⟩
  next => exact ⟨rfl, hset⟩

theorem State.serveMail_besideServes (agent box n : Nat) (s : State) :
    (s.serveMail agent box n).besideServes = s.besideServes ∧ s.LogWithin (s.serveMail agent box n) := by
  induction n generalizing s with
  | zero => exact ⟨rfl, .of_log rfl⟩
  | succ n ih =>
    unfold State.serveMail
    split
    next e m l he _ =>
      obtain ⟨hb, hl⟩ := ih ((s.setMailbox agent box l).receive e m)
      obtain ⟨hb', hl'⟩ := State.receive_besideServes (s := s.setMailbox agent box l) (List.mem_of_find?_eq_some he) m
      exact ⟨hb.trans hb', State.LogWithin.trans (s := s) hl' hl⟩
    next => exact ⟨rfl, .of_log rfl⟩

theorem State.serveAfter_besideServes (l : List LogEntry) (s : State) :
    (s.serveAfter l).besideServes = s.besideServes ∧ s.LogWithin (s.serveAfter l) := by
  induction l generalizing s with
  | nil => exact ⟨rfl, .of_log rfl⟩
  | cons e l ih =>
    unfold State.serveAfter
    rw [List.foldl_cons]
    split
    next die q _ =>
      obtain ⟨hb, hl⟩ := s.servePops_besideServes die q 256
      obtain ⟨hb', hl'⟩ := ih (s.servePops die q 256)
      exact ⟨hb'.trans hb, hl.trans hl'⟩
    next box _ =>
      split
      next g _ =>
        obtain ⟨hb, hl⟩ := s.serveMail_besideServes g.asid.toNat box 16
        obtain ⟨hb', hl'⟩ := ih (s.serveMail g.asid.toNat box 16)
        exact ⟨hb'.trans hb, hl.trans hl'⟩
      next => exact ih s
    next => exact ih s

/-- The context of a group that is removed. -/
def Group.removed (g : Group) : Group :=
  { g with retired := true, clause := none, hold := .none, stall := none, frozen := none, owed := none, pend := none, due := []
           cf := List.replicate 12 0, flow := { g.flow with exited := fullMask g.width } }

/-- A gang is removed in four strokes: its groups stop and their instructions are dropped, its teams retire, it is checked, and what
its instructions held up is served. -/
theorem State.removeGang_shape (s : State) (k : Gang) : ∃ (u : State) (dropped : List LogEntry),
    s.removeGang k = ((u.releaseTeams (k.teams.filterMap u.team?)).gangCheck k.id).serveAfter dropped ∧
    u.groups = s.groups.map (fun g => if (groupsIn s k).contains g.id then g.removed else g) ∧
    u.log = s.log.filter (fun e => !(groupsIn s k).contains e.grp) ∧ u.gangs = s.gangs ∧ u.teams = s.teams ∧ s.WorksKept u := by
  unfold State.removeGang
  dsimp only
  split
  next w hw =>
    split
    · exact ⟨_, _, rfl, rfl, rfl, rfl, rfl, State.WorksKept.setWork (w := { w with out := _ }) hw rfl rfl rfl rfl⟩
    · exact ⟨_, _, rfl, rfl, rfl, rfl, rfl, State.WorksKept.setWork (w := { w with gone := _ }) hw rfl rfl rfl rfl⟩
  next => exact ⟨_, _, rfl, rfl, rfl, rfl, rfl, .of_works rfl⟩

/-- A gang is gone: it has retired, and of the groups with these numbers nothing is left. -/
structure GangGone (t : State) (id : Nat) (ids : List Nat) : Prop where
  gangs : ∀ x ∈ t.gangs, x.id = id → x.state = .retired
  log : ∀ i ∈ ids, ∀ e ∈ t.log, e.grp ≠ i
  groups : ∀ i ∈ ids, ∀ h ∈ t.groups, h.id = i → h.retired = true ∧ h.frozen = none ∧ h.pend = none ∧ h.clause = none

/-- What the removal of a gang does to the contexts, to the log, to the gangs, to the teams and to the works. -/
structure GangRemoved (s : State) (k : Gang) (t : State) : Prop where
  groups : t.groups = s.groups.map fun g => if (groupsIn s k).contains g.id then g.removed else g
  log : ∀ e ∈ t.log, e.grp ∉ groupsIn s k ∧ ∃ f ∈ s.log, f.grp = e.grp
  gangs : t.gangs = s.gangs ∨ ∃ x, s.gang? k.id = some x ∧ t.gangs = (s.setGang { x with state := .retired }).gangs
  retires : s.gang? k.id = some k → k.state ≠ .retired → t.gangs = (s.setGang { k with state := .retired }).gangs
  teams : s.TeamsKept t
  works : s.WorksKept t

theorem State.setGang_gangs_of {s t : State} (h : s.gangs = t.gangs) (k : Gang) : (s.setGang k).gangs = (t.setGang k).gangs := by
  unfold State.setGang
  rw [h]

theorem State.removeGang_removed (s : State) (k : Gang) : GangRemoved s k (s.removeGang k) := by
  obtain ⟨u, dropped, heq, hgroups, hlog, hgangs, hteams, hworks⟩ := s.removeGang_shape k
  set v := u.releaseTeams (k.teams.filterMap u.team?) with hv
  have hrel : v.besideTeams = u.besideTeams := State.releaseTeams_besideTeams _ u
  have hchk := v.gangCheck_besideGangs k.id
  obtain ⟨hsrv, hwithin⟩ := State.serveAfter_besideServes dropped (v.gangCheck k.id)
  rw [← heq] at hsrv hwithin
  have hvgangs : v.gangs = s.gangs := (congrArg (·.gangs) hrel : v.gangs = u.gangs).trans hgangs
  have htgangs : (s.removeGang k).gangs = (v.gangCheck k.id).gangs := congrArg (·.gangs) hsrv
  have hvlog : (v.gangCheck k.id).log = u.log := (congrArg (·.log) hchk).trans (congrArg (·.log) hrel)
  have hteamsIn : ∀ t ∈ k.teams.filterMap u.team?, (u.team? t.id).map Team.grps = some t.grps := by
    intro t ht
    obtain ⟨id, -, hid⟩ := List.mem_filterMap.mp ht
    have hn : t.id = id := by simpa using List.find?_some hid
    rw [hn, hid]
    rfl
  refine { groups := ?_, log := fun e he => ?_, gangs := ?_, retires := fun hk hs => ?_, teams := ?_, works := ?_ }
  · calc (s.removeGang k).groups = (v.gangCheck k.id).groups := congrArg (·.groups) hsrv
      _ = v.groups := congrArg (·.groups) hchk
      _ = u.groups := congrArg (·.groups) hrel
      _ = _ := hgroups
  · obtain ⟨f, hf, hfe⟩ := hwithin e he
    rw [hvlog, hlog] at hf
    obtain ⟨hmem, hnot⟩ := List.mem_filter.mp hf
    rw [← hfe]
    exact ⟨by simpa using hnot, f, hmem, rfl⟩
  · rw [htgangs]
    rcases v.gangCheck_gangs k.id with h | ⟨x, hx, h⟩
    · exact .inl (h.trans hvgangs)
    · exact .inr ⟨x, by rw [← State.gang?_of_gangs hvgangs, hx], h.trans (State.setGang_gangs_of hvgangs _)⟩
  · rw [htgangs, ← State.setGang_gangs_of hvgangs]
    exact State.gangCheck_retires ((State.gang?_of_gangs hvgangs k.id).trans hk) hs fun id hid => State.releaseTeams_gang hid
  · have hsu : s.TeamsKept v := (State.TeamsKept.of_teams hteams).trans (State.releaseTeams_teamsKept hteamsIn)
    exact hsu.trans (.of_teams ((congrArg (·.teams) hsrv).trans (congrArg (·.teams) hchk)))
  · have hsv : s.WorksKept v := hworks.trans (.of_works (congrArg (·.works) hrel))
    exact (hsv.trans (v.gangCheck_worksKept k.id)).trans (.of_works (congrArg (·.works) hsrv))

section
variable {s t : State} {k : Gang}

theorem GangRemoved.gone (h : GangRemoved s k t) (hk : s.gang? k.id = some k) (hs : k.state ≠ .retired) :
    GangGone t k.id (groupsIn s k) := by
  refine ⟨fun x hx hid => ?_, fun i hi e he hne => (h.log e he).1 (hne ▸ hi), fun i hi g hg hid => ?_⟩
  · rw [h.retires hk hs] at hx
    obtain ⟨y, -, rfl⟩ := List.mem_map.mp hx
    split at hid
    next hy => rw [if_pos hy]
    next hy => exact absurd (beq_iff_eq.mpr hid) hy
  · rw [h.groups] at hg
    obtain ⟨y, -, rfl⟩ := List.mem_map.mp hg
    split at hid
    next hy =>
      rw [if_pos hy]
      exact ⟨rfl, rfl, rfl, rfl⟩
    next hy => exact absurd (by simpa [hid] using hi) hy

/-- A gang that is gone stays so when another is removed. -/
theorem GangRemoved.stays {id : Nat} {ids : List Nat} (h : GangRemoved s k t) (hg : GangGone s id ids) : GangGone t id ids := by
  refine ⟨fun x hx hid => ?_, fun i hi e he hne => ?_, fun i hi g hgt hid => ?_⟩
  · rcases h.gangs with heq | ⟨y, -, heq⟩
    · exact hg.gangs x (heq ▸ hx) hid
    · rw [heq] at hx
      obtain ⟨z, hz, rfl⟩ := List.mem_map.mp hx
      split at hid
      next hy => rw [if_pos hy]
      next hy =>
        rw [if_neg hy]
        exact hg.gangs z hz hid
  · obtain ⟨-, f, hf, hfe⟩ := h.log e he
    exact hg.log i hi f hf (hfe.trans hne)
  · rw [h.groups] at hgt
    obtain ⟨y, hy, rfl⟩ := List.mem_map.mp hgt
    split at hid
    next hc =>
      rw [if_pos hc]
      exact ⟨rfl, rfl, rfl, rfl⟩
    next hc =>
      rw [if_neg hc]
      exact hg.groups i hi y hy hid

/-- The other gangs stand as they stood. -/
theorem GangRemoved.others (h : GangRemoved s k t) {x : Gang} (hx : x ∈ s.gangs) (hn : x.id ≠ k.id) : x ∈ t.gangs := by
  rcases h.gangs with heq | ⟨y, hy, heq⟩
  · exact heq ▸ hx
  · have hid : y.id = k.id := by simpa using List.find?_some hy
    rw [heq]
    exact List.mem_map.mpr ⟨x, hx, if_neg (by simpa [hid] using hn)⟩

theorem GangRemoved.gangIds (h : GangRemoved s k t) : (t.gangs.map fun q => q.id) = s.gangs.map fun q => q.id := by
  rcases h.gangs with heq | ⟨y, -, heq⟩
  · rw [heq]
  · rw [heq]
    exact map_key_replace (fun q : Gang => q.id) s.gangs { y with state := .retired }

end

theorem State.gang?_of_mem {s : State} {q : Gang} (hn : (s.gangs.map fun q => q.id).Nodup) (hq : q ∈ s.gangs) :
    s.gang? q.id = some q := by
  obtain ⟨x, hx⟩ := exists_find? (key := fun q : Gang => q.id) (List.mem_map_of_mem hq)
  have hid : x.id = q.id := by simpa using List.find?_some hx
  rw [← List.inj_on_of_nodup_map hn (List.mem_of_find?_eq_some hx) hq hid]
  rw [hid]
  exact hx

/-- Gangs that are removed one after the other are gone at the end. -/
theorem State.removeGangs_gone {l : List Gang} {s : State} (hn : (s.gangs.map fun q => q.id).Nodup) (hl : (l.map fun q => q.id).Nodup)
    (hin : ∀ q ∈ l, q ∈ s.gangs ∧ q.state ≠ .retired) :
    (∀ q ∈ l, GangGone (l.foldl State.removeGang s) q.id (groupsIn s q)) ∧ s.WorksKept (l.foldl State.removeGang s) ∧
      ∀ id ids, GangGone s id ids → GangGone (l.foldl State.removeGang s) id ids := by
  induction l generalizing s with
  | nil => exact ⟨fun q hq => (List.not_mem_nil hq).elim, .of_works rfl, fun _ _ h => h⟩
  | cons k l ih =>
    have hrem := s.removeGang_removed k
    obtain ⟨hk, hks⟩ := hin k List.mem_cons_self
    obtain ⟨hkl, hl'⟩ := List.nodup_cons.mp hl
    have hne : ∀ q ∈ l, q.id ≠ k.id := fun q hq he =>
      hkl (List.mem_map.mpr ⟨q, hq, he⟩)
    obtain ⟨hgone, hworks, hstays⟩ := ih (s := s.removeGang k) (hrem.gangIds ▸ hn) hl' fun q hq =>
      ⟨hrem.others (hin q (List.mem_cons_of_mem k hq)).1 (hne q hq), (hin q (List.mem_cons_of_mem k hq)).2⟩
    refine ⟨fun q hq => ?_, hrem.works.trans hworks, fun id ids h => hstays id ids (hrem.stays h)⟩
    rcases List.mem_cons.mp hq with rfl | hq
    · exact hstays _ _ (hrem.gone (State.gang?_of_mem hn hk) hks)
    · rw [← groupsIn_of_teamsKept hrem.teams]
      exact hgone q hq

/-! ### An abort (R321) -/

/-- The state beside the contexts and the tiles. -/
def State.besideWaits (s : State) : State := { s with groups := [], tiles := [] }

theorem State.endEmbwait_besideWaits (s : State) (g : Group) (got : Bool) : (s.endEmbwait g got).besideWaits = s.besideWaits := by
  unfold State.endEmbwait
  split
  · dsimp only
    split
    · exact congrArg (fun u : State => { u with groups := [] }) (s.acquireAt_beside g scopeDevice)
    · rfl
  · rfl

theorem State.freeEmbwait_besideWaits (s : State) (work : Nat) (l : Option Nat) :
    (s.freeEmbwait work l).besideWaits = s.besideWaits :=
  foldl_frame State.besideWaits (fun u g => u.endEmbwait_besideWaits g _) _ _

theorem State.detAbort_eq {s : State} {w : Work} (hw : s.work? w.id = some w) (hd : w.det = 1) :
    s.detAbort w.id = (s.setWork { w with abort := true, visiting := false }).freeEmbwait w.id none := by
  simp only [State.detAbort, hw, if_pos hd]

theorem State.detAbort_besideWaits {s : State} {w : Work} (hw : s.work? w.id = some w) (hd : w.det = 1) :
    (s.detAbort w.id).besideWaits = (s.setWork { w with abort := true, visiting := false }).besideWaits := by
  rw [State.detAbort_eq hw hd]
  exact State.freeEmbwait_besideWaits _ _ _

/-! ### A token is killed (R366) -/

section
variable {s : State}

theorem State.work?_self {w : Work} {id : Nat} (h : s.work? id = some w) : s.work? w.id = some w := by
  have hid : w.id = id := by simpa using List.find?_some h
  rw [hid, h]

theorem State.gang?_self {k : Gang} {id : Nat} (h : s.gang? id = some k) : s.gang? k.id = some k := by
  have hid : k.id = id := by simpa using List.find?_some h
  rw [hid, h]

theorem State.workOf_found {g : Group} {w : Work} (h : s.workOf g = some w) : s.work? w.id = some w := by
  unfold State.workOf at h
  split at h
  · exact State.work?_self h
  · cases h

theorem State.gangOf_found {g : Group} {k : Gang} (h : s.gangOf g = some k) : s.gang? k.id = some k := by
  unfold State.gangOf at h
  split at h
  · exact State.gang?_self h
  · cases h

theorem State.waiterWork_found {who : Waiter} {w : Work} (h : s.waiterWork who = some w) : s.work? w.id = some w := by
  have group {n : Nat} (hn : (s.group? n).bind s.workOf = some w) : s.work? w.id = some w := by
    obtain ⟨g, -, hg⟩ := Option.bind_eq_some_iff.mp hn
    exact State.workOf_found hg
  cases who with
  | group n => exact group h
  | entry n e => exact group h
  | copy id =>
    obtain ⟨c, -, hc⟩ := Option.bind_eq_some_iff.mp h
    obtain ⟨t, -, ht⟩ := Option.bind_eq_some_iff.mp hc
    exact State.work?_self ht
  | work id => exact State.work?_self h
  | qp | command | port | coll => cases h

theorem State.waiterGang_found {who : Waiter} {k : Gang} (h : s.waiterGang who = some k) : s.gang? k.id = some k := by
  have group {n : Nat} (hn : (s.group? n).bind s.gangOf = some k) : s.gang? k.id = some k := by
    obtain ⟨g, -, hg⟩ := Option.bind_eq_some_iff.mp hn
    exact State.gangOf_found hg
  cases who with
  | group n => exact group h
  | entry n e => exact group h
  | copy id =>
    obtain ⟨c, -, hc⟩ := Option.bind_eq_some_iff.mp h
    obtain ⟨t, -, ht⟩ := Option.bind_eq_some_iff.mp hc
    exact State.gang?_self ht
  | work | qp | command | port | coll => cases h

/-- The state in which the token stands no longer. -/
def State.dropToken (s : State) (n : Nat) : State := { s with tokens := s.tokens.filter fun u => u.num != n }

theorem State.killToken_work {u : Token} {w : Work} {n : Nat} (hu : u.who = .work n) (hw : s.waiterWork u.who = some w) :
    s.killToken u = if w.state == .submitted || w.state == .ready then (s.dropToken u.num).killWork w none
      else (s.dropToken u.num).setWork { w with token := none, words := w.words.set (if w.job then 6 else 15) 0 } := by
  unfold State.killToken
  rw [hw, hu]
  rfl

theorem State.killToken_other {u : Token} {w : Work} (hu : ∀ n, u.who ≠ .work n) (hw : s.waiterWork u.who = some w) :
    s.killToken u = (s.dropToken u.num).killWork w (s.waiterGang u.who) := by
  unfold State.killToken
  rw [hw]
  split
  next n _ h _ => exact absurd h (hu n)
  next h _ => cases h; rfl
  next h => cases h

theorem State.killWork_whole {w v : Work} {k : Option Gang} (hk : w.det ≠ 1 ∨ k = none)
    (hv : ((s.gangsOf w.id).foldl State.removeGang s).work? w.id = some v) :
    s.killWork w k = ((s.gangsOf w.id).foldl State.removeGang s).setWork { v with state := .killed, token := none } := by
  have h : (if w.det = 1 then k else none) = none := by
    rcases hk with hd | hk
    · rw [if_neg hd]
    · rw [hk, ite_self]
  simp only [State.killWork, h, hv]

theorem State.killWork_gang {w : Work} {k : Gang} (hd : w.det = 1) :
    s.killWork w (some k) = (s.detAbort w.id).removeGang k := by
  unfold State.killWork
  rw [if_pos hd]

/-- A work that is killed as a whole: it ends with KILLED, and each of its gangs is gone. -/
theorem State.killWork_kills {w : Work} {k : Option Gang} (hn : (s.gangs.map fun q => q.id).Nodup) (hw : s.work? w.id = some w)
    (hk : w.det ≠ 1 ∨ k = none) : (∃ v, (s.killWork w k).work? w.id = some v ∧ v.state = .killed ∧ v.token = none) ∧
      ∀ q ∈ s.gangs, q.work = w.id → q.state ≠ .retired → GangGone (s.killWork w k) q.id (groupsIn s q) := by
  have hmem : ∀ q ∈ s.gangsOf w.id, q ∈ s.gangs ∧ q.state ≠ .retired := by
    intro q hq
    obtain ⟨hin, hq⟩ := List.mem_filter.mp hq
    exact ⟨hin, by simpa using (Bool.and_eq_true_iff.mp hq).2⟩
  have hsub : ((s.gangsOf w.id).map fun q => q.id).Nodup := hn.sublist (List.filter_sublist.map _)
  obtain ⟨hgone, hworks, -⟩ := State.removeGangs_gone hn hsub hmem
  obtain ⟨v, hv, -⟩ := hworks w.id w hw
  have hid : v.id = w.id := by simpa using List.find?_some hv
  rw [State.killWork_whole hk hv]
  refine ⟨⟨{ v with state := .killed, token := none }, ?_, rfl, rfl⟩, fun q hq hqw hqs => ?_⟩
  · rw [← hid] at hv ⊢
    exact State.work?_setWork (w := { v with state := .killed, token := none }) hv
  · obtain ⟨hgs, hlog, hgr⟩ := hgone q (List.mem_filter.mpr ⟨hq, by simp [hqw, hqs]⟩)
    exact ⟨hgs, hlog, hgr⟩

/-- A deterministic launch of which one gang is killed: it aborts, that gang is gone, and the others stand. -/
theorem State.killWork_aborts {w : Work} {k : Gang} (hw : s.work? w.id = some w) (hd : w.det = 1) (hk : s.gang? k.id = some k)
    (hs : k.state ≠ .retired) :
    (∃ v, (s.killWork w (some k)).work? w.id = some v ∧ v.abort = true ∧ v.visiting = false ∧ v.state = w.state) ∧
      GangGone (s.killWork w (some k)) k.id (groupsIn s k) ∧
      ∀ x ∈ s.gangs, x.id ≠ k.id → x ∈ (s.killWork w (some k)).gangs := by
  have hb := State.detAbort_besideWaits hw hd
  have hgangs : (s.detAbort w.id).gangs = s.gangs := congrArg (·.gangs) hb
  have hteams : (s.detAbort w.id).teams = s.teams := congrArg (·.teams) hb
  have hfound : (s.detAbort w.id).work? w.id = some { w with abort := true, visiting := false } :=
    (State.work?_of_works (congrArg (·.works) hb) w.id).trans (State.work?_setWork (w := { w with abort := true, visiting := false }) hw)
  have hrem := (s.detAbort w.id).removeGang_removed k
  rw [State.killWork_gang hd, ← groupsIn_of_teamsKept (State.TeamsKept.of_teams hteams) k]
  obtain ⟨v, hv, hstate, habort, hvisit⟩ := hrem.works _ _ hfound
  exact ⟨⟨v, hv, habort, hvisit, hstate⟩, hrem.gone ((State.gang?_of_gangs hgangs k.id).trans hk) hs,
    fun x hx hne => hrem.others (hgangs ▸ hx) hne⟩

end

/-! ### QUOTA is delivered (R63, R64) -/

/-- The state in which QUOTA has been taken for the token: a free value is spent, and the token stands no longer. -/
def State.quotaTaken (s : State) (n : Nat) : State := { s with fresh := s.fresh + 1, tokens := s.tokens.filter fun x => x.num != n }

theorem State.quotaTaken_eq (s : State) (n : Nat) :
    s.quotaTaken n = { s with fresh := s.fresh + 1, tokens := s.tokens.filter fun x => x.num ≠ n } := by
  simp only [State.quotaTaken, bne, ← decide_not, beq_eq_decide]

/-- The size code of the leaf that the kernel would have mapped, a free value (R63). -/
def State.quotaSize (s : State) : Nat := (Config.freeWord s.fresh).toNat % 4 % 3

/-- TRAPINFO of QUOTA, as the statement writes it (R63, R64). -/
theorem quotaInfo_instr (va n : Nat) :
    quotaInfo va n false = BitVec.ofNat 64 (va / 2 ^ 14 % 2 ^ 38 * 2 ^ 14 + n % 3) := by
  simp only [quotaInfo, w64, bits, Nat.shiftRight_eq_div_pow, Bool.false_eq_true, if_false, Nat.add_zero, Nat.reduceAdd,
    Nat.reduceSub]

theorem quotaInfo_copy (va n : Nat) :
    quotaInfo va n true = BitVec.ofNat 64 (va / 2 ^ 14 % 2 ^ 38 * 2 ^ 14 + n % 3) + 4 := by
  have h : quotaInfo va n true = BitVec.ofNat 64 (va / 2 ^ 14 % 2 ^ 38 * 2 ^ 14 + n % 3 + 4) := by
    simp only [quotaInfo, w64, bits, Nat.shiftRight_eq_div_pow, if_true, Nat.reduceAdd, Nat.add_right_comm _ 4]
  rw [h, BitVec.ofNat_add]
  rfl

section
variable {s : State} {u : Token}

/-- A group inside a clause takes QUOTA at its instruction. -/
theorem State.quotaGroup_clause {id : Nat} {g : Group} {cl : Clause} (hg : s.group? id = some g) (hc : g.clause = some cl)
    (hh : g.hold ≠ .trapEntry) (info : W64) : s.quotaGroup g info = (s.onGroup id fun h => { h with stall := none }).raise id
      { cause := .quota, info := info, pc := cl.next, pos := cl.pos, seta := cl.seta, setb := cl.setb, lanes := cl.lanes
        clause := some cl } := by
  have hid : g.id = id := by simpa using List.find?_some hg
  have hfound : (s.onGroup id fun h => { h with stall := none }).group? id = some { g with stall := none } :=
    (group?_onGroup (f := fun h : Group => { h with stall := none }) fun _ => rfl).trans (by rw [hg]; rfl)
  unfold State.quotaGroup
  rw [hid, hc]
  split
  next h _ => exact absurd h hh
  next =>
    unfold State.raiseHeld
    rw [hfound]
    dsimp only
    rw [hc]

theorem State.quotaToken_group {id : Nat} {g : Group} (hu : u.who = .group id) (hg : s.group? id = some g) :
    s.quotaToken u = (s.quotaTaken u.num).quotaGroup g (quotaInfo u.va ((Config.freeWord s.fresh).toNat % 4) false) := by
  have hg' : (s.quotaTaken u.num).group? id = some g := hg
  unfold State.quotaToken
  rw [hu]
  exact (congrArg (fun x : Option Group => match x with
    | some g => (s.quotaTaken u.num).quotaGroup g (quotaInfo u.va ((Config.freeWord s.fresh).toNat % 4) false)
    | none => s.quotaTaken u.num) hg' :)

/-- A group at user level, or one of whose instructions the handler found: the trap is due. -/
theorem State.trapEntryOf_due {e : LogEntry} {g : Group} (hg : s.group? e.grp = some g) (ht : g.flow.tl = false ∨ e.tlevel = false)
    (cause : Cause) (info : W64) : s.trapEntryOf e cause info = s.onGroup e.grp fun h => { h with due := h.due ++
      [{ cause := cause, info := info, pc := e.pc, pos := e.clause.pos, seta := e.clause.seta, setb := e.clause.setb
         lanes := e.clause.lanes, replay := some e.id }] } := by
  have hid : g.id = e.grp := by simpa using List.find?_some hg
  have hno : ¬ (g.flow.tl && e.tlevel) = true := by rcases ht with h | h <;> simp [h]
  unfold State.trapEntryOf
  rw [hg]
  dsimp only
  rw [if_neg hno, hid]

theorem State.quotaToken_entry {grp id : Nat} {e : LogEntry} {g : Group} (hu : u.who = .entry grp id) (he : s.entry? id = some e)
    (hg : s.group? e.grp = some g) (ht : g.flow.tl = false ∨ e.tlevel = false) :
    s.quotaToken u = ((s.quotaTaken u.num).setEntry { e with state := .quota }).onGroup e.grp fun h => { h with due := h.due ++
      [{ cause := .quota, info := quotaInfo u.va ((Config.freeWord s.fresh).toNat % 4) false, pc := e.pc, pos := e.clause.pos
         seta := e.clause.seta, setb := e.clause.setb, lanes := e.clause.lanes, replay := some e.id }] } := by
  have he' : (s.quotaTaken u.num).entry? id = some e := he
  unfold State.quotaToken
  rw [hu]
  refine Eq.trans (congrArg (fun x : Option LogEntry => match x with
    | some e => ((s.quotaTaken u.num).setEntry { e with state := .quota }).trapEntryOf { e with state := .quota } .quota
        (quotaInfo u.va ((Config.freeWord s.fresh).toNat % 4) false)
    | none => s.quotaTaken u.num) he' :) ?_
  exact State.trapEntryOf_due (s := (s.quotaTaken u.num).setEntry { e with state := .quota }) (e := { e with state := .quota }) hg ht _ _

theorem State.quotaToken_copy {id : Nat} {k : Copy} {g : Group} (hu : u.who = .copy id) (hk : s.copy? id = some k)
    (hg : s.group? k.grp = some g) (hgone : g.gone = false) :
    s.quotaToken u = ((s.quotaTaken u.num).setCopy { k with token := none, held := true }).onGroup k.grp fun h => { h with
      due := h.due ++ [{ cause := .quota, info := quotaInfo u.va ((Config.freeWord s.fresh).toNat % 4) true, pc := 0
                         boundary := true }] } := by
  have hk' : (s.quotaTaken u.num).copy? id = some k := hk
  have hid : g.id = k.grp := by simpa using List.find?_some hg
  have hg' : (s.quotaTaken u.num).group? k.grp = some g := hg
  unfold State.quotaToken
  rw [hu]
  refine Eq.trans (congrArg (fun x : Option Copy => match x with
    | some c => (s.quotaTaken u.num).quotaCopy c (quotaInfo u.va ((Config.freeWord s.fresh).toNat % 4) true)
    | none => s.quotaTaken u.num) hk' :) ?_
  simp only [State.quotaCopy, hg', hgone, hid, Bool.false_eq_true, if_false]

end

/-- Settles O20: `fring` behind its checks; a kill by the gangs that it removes one after the other, or by the abort and the one
gang; QUOTA by the three kinds of waiter. -/
theorem faultRingOperations : Obligations.FaultRingOperations := by
  refine ⟨fun o s g k cl t h => ?_, fun s u w hw hone => ?_, fun s u => ?_⟩
  · intro c r n hk hr
    have hcore : c.core = k := Ctx.core_eq hk
    refine ⟨fun hb hok hlo hhi => ?_, fun ht mk hmk => ?_, fun u hu => ?_⟩
    · exact issue_once h (fringCons_eq hr hb (by rw [hcore]; rfl) rfl hok hlo hhi) fun _ => rfl
    · simp only [List.mem_cons, List.not_mem_nil, or_false] at hmk
      rcases hmk with rfl | rfl | rfl
      · exact issue_once h (onToken_none hr ht) fun _ => rfl
      · exact issue_once h (onToken_none hr ht) fun _ => rfl
      · exact issue_once h (onToken_none hr ht) fun _ => rfl
    · refine ⟨issue_once h (onToken_some hr hu) fun _ => guarded_pass fun _ => rfl,
        issue_once h (onToken_some hr hu) fun _ => guarded_pass fun _ => rfl,
        fun hq => issue_once h (onToken_some hr hu) fun _ => guarded_pass fun _ => by simp [firstFail, hq],
        fun hq ha => ?_⟩
      exact issue_trap h (by decide) ((onToken_some hr hu).trans ((once_of_anyLane ha).trans
        (guarded_fail ha (p := illop 0x0D) (by simp [firstFail, hq]))))
  · intro t gone
    obtain ⟨hgangs, -, -, -⟩ := hone
    have hfound : (s.dropToken u.num).work? w.id = some w := State.waiterWork_found hw
    have hgone {q : Gang} (hq : GangGone t q.id (groupsIn s q)) : gone q := by
      refine ⟨hq.gangs, fun id hid => ⟨hq.log id hid, fun h hh => hq.groups id hid h (List.mem_of_find?_eq_some hh) ?_⟩⟩
      simpa using List.find?_some hh
    refine ⟨fun hwho hdet => ?_, fun q hdet hq hqs => ?_, fun n hwho hst => ?_, fun n hwho hns hnr => ?_⟩
    · have ht : t = _ := State.killToken_other hwho hw
      obtain ⟨hkilled, hall⟩ := State.killWork_kills (s := s.dropToken u.num) hgangs hfound hdet
      rw [← ht] at hkilled hall
      exact ⟨hkilled, fun q hq hqw hqs => hgone (hall q hq hqw hqs)⟩
    · have hwho : ∀ n, u.who ≠ .work n := by
        intro n hn
        rw [hn] at hq
        cases hq
      have ht : t = _ := State.killToken_other hwho hw
      rw [hq] at ht
      obtain ⟨habort, hqgone, hothers⟩ :=
        State.killWork_aborts (s := s.dropToken u.num) hfound hdet (State.waiterGang_found hq) hqs
      rw [← ht] at habort hqgone hothers
      exact ⟨habort, hgone hqgone, hothers⟩
    · have ht : t = _ := State.killToken_work hwho hw
      rw [if_pos (by simpa using hst)] at ht
      have hkilled := (State.killWork_kills (s := s.dropToken u.num) (k := none) hgangs hfound (.inr rfl)).1
      rwa [← ht] at hkilled
    · have ht : t = _ := State.killToken_work hwho hw
      rw [if_neg (by simp [hns, hnr])] at ht
      rw [ht]
      exact State.work?_setWork (w := { w with token := none, words := _ }) hfound
  · refine ⟨s.quotaSize, Nat.mod_lt _ (by decide), ?_⟩
    intro info v
    have hv : v = s.quotaTaken u.num := (s.quotaTaken_eq u.num).symm
    rw [hv]
    refine ⟨fun id g cl hwho hg hc hh => ?_, fun grp id e g hwho he hg ht => ?_, fun id k g hwho hk hg hgone => ?_⟩
    · rw [State.quotaToken_group hwho hg, State.quotaGroup_clause (s := s.quotaTaken u.num) hg hc hh, quotaInfo_instr]
      rfl
    · rw [State.quotaToken_entry hwho he hg ht, quotaInfo_instr]
      rfl
    · rw [State.quotaToken_copy hwho hk hg hgone, quotaInfo_copy]
      rfl

end Sys2Proof.Machine
end

section
/-! Device memory, the flash and RECBUF keep their canonical form: the operations of memory, translation, tokens, counters, traps
and issue (03 R46 to R60, 17 R309, 20 R361, 21 R365 to R370, 22 R380). -/
namespace Sys2Proof.Machine
open Sys2Proof.Stated

/-- A fold keeps the form where its steps do. -/
theorem foldl_memWf {α : Type} {f : State → α → State} (h : ∀ {u : State}, u.memWf = true → ∀ a, (f u a).memWf = true)
    (l : List α) {s : State} (w : s.memWf = true) : (l.foldl f s).memWf = true := by
  induction l generalizing s with
  | nil => exact w
  | cons a l ih => exact ih (h w a)

/-- Of two states the form of both. -/
theorem State.memWf_ite {p : Prop} [Decidable p] {t u : State} (ht : t.memWf = true) (hu : u.memWf = true) :
    (if p then t else u).memWf = true := by
  split
  · exact ht
  · exact hu

/-- The form of the state in a pair that is known. -/
theorem memWf_of_fst {α : Type} {p : State × α} {u : State} {x : α} (h : p = (u, x)) (w : p.1.memWf = true) : u.memWf = true := by
  subst h
  exact w

section
variable {s : State}

/-! ### Updates beside the memories -/

theorem State.onGroup_memWf (w : s.memWf = true) (id : Nat) (f : Group → Group) : (s.onGroup id f).memWf = true := w
theorem State.setGroup_memWf (w : s.memWf = true) (g : Group) : (s.setGroup g).memWf = true := w
theorem State.setTeam_memWf (w : s.memWf = true) (t : Team) : (s.setTeam t).memWf = true := w
theorem State.setGang_memWf (w : s.memWf = true) (g : Gang) : (s.setGang g).memWf = true := w
theorem State.setWork_memWf (w : s.memWf = true) (k : Work) : (s.setWork k).memWf = true := w
theorem State.setTile_memWf (w : s.memWf = true) (n : Nat) (t : Tile) : (s.setTile n t).memWf = true := w
theorem State.setDie_memWf (w : s.memWf = true) (n : Nat) (d : Die) : (s.setDie n d).memWf = true := w
theorem State.setEntry_memWf (w : s.memWf = true) (e : LogEntry) : (s.setEntry e).memWf = true := w
theorem State.setCopy_memWf (w : s.memWf = true) (c : Copy) : (s.setCopy c).memWf = true := w

/-! ### Slices and translation -/

theorem State.writeBack_memWf (w : s.memWf = true) (line : Nat) : (s.writeBack line).memWf = true := by
  unfold State.writeBack
  split
  · exact w
  · exact State.intoStack_memWf _ w

theorem State.orWord_memWf (w : s.memWf = true) (pa : Nat) (m : W64) : (s.orWord pa m).memWf = true :=
  State.homeWrite_memWf _ _ _ _ w

theorem State.descRead_memWf (w : s.memWf = true) (die pa level : Nat) : (s.descRead die pa level).1.memWf = true := by
  unfold State.descRead
  dsimp only
  split
  · exact w
  · split
    · exact w
    · split <;> exact w

theorem State.stage2_memWf (die : Nat) (rd wr : Bool) (ipa fuel : Nat) : ∀ {s : State} (_ : s.memWf = true) (level table : Nat),
    (s.stage2 die rd wr ipa fuel level table).1.memWf = true := by
  induction fuel with
  | zero => exact fun w _ _ => w
  | succ fuel ih =>
    intro s w level table
    have h := State.descRead_memWf w die (table + 8 * index2 ipa level) level
    unfold State.stage2
    grind

theorem State.stage2Of_memWf (w : s.memWf = true) (die vmid : Nat) (root : W64) (rd wr : Bool) (ipa : Nat) :
    (s.stage2Of die vmid root rd wr ipa).1.memWf = true := by
  unfold State.stage2Of
  split
  · exact w
  · exact State.stage2_memWf _ _ _ _ _ w _ _

theorem State.tableSpot_memWf (w : s.memWf = true) (die vmid : Nat) (root : W64) (rd wr : Bool) (ipa : Nat) :
    (s.tableSpot die vmid root rd wr ipa).1.memWf = true := by
  have h := State.stage2Of_memWf w die vmid root rd wr ipa
  unfold State.tableSpot
  split <;> simp_all

theorem State.agentSpot_memWf (w : s.memWf = true) (vmt : Nat) (ag : Agent) (rd wr : Bool) :
    (s.agentSpot vmt ag rd wr).1.memWf = true := by
  unfold State.agentSpot
  grind [State.tableSpot_memWf w]

theorem State.stage1_memWf (ag : Agent) (root : W64) (va n : Nat) (k : Kind) (fuel : Nat) :
    ∀ {s : State} (_ : s.memWf = true) (level table : Nat), (s.stage1 ag root va n k fuel level table).1.memWf = true := by
  induction fuel with
  | zero => exact fun w _ _ => w
  | succ fuel ih =>
    intro s w level table
    have h := State.tableSpot_memWf w ag.master.die ag.vmid root true false (table + 8 * index1 va level)
    have hd {u : State} (wu : u.memWf = true) (pa : Nat) := State.descRead_memWf wu ag.master.die pa level
    unfold State.stage1
    grind

theorem State.walkLeaf_memWf (w : s.memWf = true) (ag : Agent) (root : W64) (va n : Nat) (k : Kind) (d : W64)
    (dpa level dipa : Nat) : (s.walkLeaf ag root va n k d dpa level dipa).1.memWf = true := by
  have h {u : State} (wu : u.memWf = true) := State.stage2Of_memWf wu ag.master.die ag.vmid root
  have hor {u : State} (wu : u.memWf = true) := State.orWord_memWf wu dpa
  unfold State.walkLeaf
  generalize 1#64 <<< 53 = m
  grind

theorem State.walk_memWf (w : s.memWf = true) (vmt : Nat) (ag : Agent) (va n : Nat) (k : Kind) :
    (s.walk vmt ag va n k).1.memWf = true := by
  have h := State.agentSpot_memWf w vmt ag true false
  have h1 {u : State} (wu : u.memWf = true) (root : W64) := State.stage1_memWf ag root va n k 4 wu
  have h2 {u : State} (wu : u.memWf = true) (root : W64) := State.walkLeaf_memWf wu ag root va n k
  unfold State.walk
  grind

theorem State.gather_memWf {t : State} {ag : Agent} {e : TlbEntry} {work : Option Nat} (h : s.gather ag e work = some t)
    (w : s.memWf = true) : t.memWf = true := by
  unfold State.gather at h
  dsimp only at h
  split_ifs at h
  · cases h; exact w
  · cases h; exact w
  · cases h; exact w

theorem State.translate_memWf (w : s.memWf = true) (ag : Agent) (va : W64) (n : Nat) (k : Kind) (work : Option Nat) :
    (s.translate ag va n k work).1.memWf = true := by
  have hw {vmt : Nat} := State.walk_memWf w vmt ag va.toNat n k
  have hf {u : State} (e : TlbEntry) (wu : u.memWf = true) : (u.tlbFill ag.master e).memWf = true := wu
  have hg {u v : State} {e : TlbEntry} (h : u.gather ag e work = some v) := State.gather_memWf h
  unfold State.translate
  grind

theorem State.resolvePieces_memWf (ag : Agent) (k : Kind) (work : Option Nat) (l : List (Nat × Nat)) :
    ∀ {s : State}, s.memWf = true → (s.resolvePieces ag k work l).1.memWf = true := by
  induction l with
  | nil => exact fun w => w
  | cons p l ih =>
    obtain ⟨a, n⟩ := p
    intro s w
    have h := State.translate_memWf w ag (w64 a) (pageBytes ((a, n) :: l)) k work
    unfold State.resolvePieces
    grind

theorem State.resolve_memWf (w : s.memWf = true) (ag : Agent) (va : W64) (n : Nat) (k : Kind) (work : Option Nat) :
    (s.resolve ag va n k work).1.memWf = true := by
  have h := State.resolvePieces_memWf ag k work (pieces (n / 128 + 2) va.toNat n) w
  unfold State.resolve
  grind
end

end Sys2Proof.Machine
end

section
/-! The same of tokens, windows, counters, traps and the issue of an instruction (17 R309, 19 R361 to R366, 22 R380). -/
namespace Sys2Proof.Machine
open Sys2Proof.Stated

section
variable {s : State}

/-! ### Tokens, gathers, windows, counters -/

theorem State.postFault_memWf {t : State} {r : FaultRec} {who : Waiter} {n : Nat} (h : s.postFault r who = some (n, t))
    (w : s.memWf = true) : t.memWf = true := by
  unfold State.postFault at h
  dsimp only at h
  split at h
  · cases h
  · cases h; exact w

theorem State.writeGather_memWf (w : s.memWf = true) (die : Nat) (g : Gather) : (s.writeGather die g).memWf = true := by
  unfold State.writeGather State.reportGather
  dsimp only
  split_ifs
  · exact w
  · exact w
  · exact State.orWord_memWf w _ _

theorem State.flushGathers_memWf (w : s.memWf = true) (die : Nat) (p : Gather → Bool) : (s.flushGathers die p).memWf = true :=
  foldl_memWf (fun wu g => State.writeGather_memWf wu die g) _ w

theorem State.windowWrite_memWf (w : s.memWf = true) (team off : Nat) (bs : List Byte) :
    (s.windowWrite team off bs).memWf = true := by
  unfold State.windowWrite
  split
  · exact w
  · split <;> exact w

theorem State.setBarriers_memWf (w : s.memWf = true) (team : Nat) (l : List Nat) : (s.setBarriers team l).memWf = true := by
  unfold State.setBarriers
  split
  · exact w
  · split <;> exact w

theorem State.makeReady_memWf (w : s.memWf = true) (id : Nat) : (s.makeReady id).memWf = true := by
  unfold State.makeReady
  split <;> exact w

theorem State.wake_memWf (w : s.memWf = true) (pa : Nat) : (s.wake pa).memWf = true := by
  unfold State.wake
  refine foldl_memWf (fun {u} wu n => ?_) _ w
  exact foldl_memWf (fun wv p => State.makeReady_memWf wv p.work) _ (s := u.setDie n _) wu

theorem State.counterInit_memWf (w : s.memWf = true) (pa count hint : Nat) : (s.counterInit pa count hint).memWf = true := by
  have h := State.homeWrite_memWf pa (natBytes 8 (counterWord (s.homeW64 pa) count false).toNat) hint 0 w
  unfold State.counterInit
  dsimp only
  split
  · exact State.wake_memWf h pa
  · exact h

theorem State.counterDec_memWf (w : s.memWf = true) (pa hint : Nat) : (s.counterDec pa hint).memWf = true := by
  unfold State.counterDec
  dsimp only
  split
  · exact State.homeWrite_memWf _ _ _ _ w
  · split
    · exact State.wake_memWf (State.homeWrite_memWf _ _ _ _ w) pa
    · exact State.homeWrite_memWf _ _ _ _ w

theorem State.keepArm_memWf (w : s.memWf = true) (die : Nat) (a : Arm) (r : FaultRec) : (s.keepArm die a r).memWf = true := by
  unfold State.keepArm
  dsimp only
  split
  next h => exact (State.postFault_memWf h w :)
  · exact w

theorem State.fire_memWf (w : s.memWf = true) (die : Nat) (a : Arm) : (s.fire die a).memWf = true := by
  have h := State.resolve_memWf w { master := .coll die, asid := a.asid, vmid := a.vmid } a.addr 8 .atomic none
  have hk {u : State} (wu : u.memWf = true) := State.keepArm_memWf wu die a
  unfold State.fire
  grind [State.counterDec_memWf]

theorem State.refire_memWf (w : s.memWf = true) (die : Nat) (t : Option Nat) : (s.refire die t).memWf = true :=
  foldl_memWf (fun wu p => State.fire_memWf wu die p.1) _ w

theorem State.armTest_memWf (w : s.memWf = true) (die n : Nat) : (s.armTest die n).memWf = true := by
  unfold State.armTest
  dsimp only
  split
  · split
    · exact State.fire_memWf (s := s.setDie die _) w _ _
    · exact w
  · exact w

theorem State.hcAdd_memWf (w : s.memWf = true) (die n : Nat) (v : W64) : (s.hcAdd die n v).memWf = true :=
  State.armTest_memWf (s := s.setDie die _) w die n

/-! ### Fetches, freezes and traps -/

theorem State.fetchWord_memWf (w : s.memWf = true) (g : Group) (va : W64) : (s.fetchWord g va).1.memWf = true := by
  have h := State.translate_memWf w (s.agent g) va 4 .fetch none
  unfold State.fetchWord
  grind

theorem State.fetchMore_memWf (g : Group) (n : Nat) : ∀ {s : State} (_ : s.memWf = true) (va : W64),
    (s.fetchMore g n va).1.memWf = true := by
  induction n with
  | zero => exact fun w _ => w
  | succ n ih =>
    intro s w va
    have h := State.fetchWord_memWf w g va
    unfold State.fetchMore
    split
    next u x hf =>
      rw [hf] at h
      have hm := ih h (va + 4)
      split
      next hr => rw [hr] at hm; exact hm
      · exact hm
    next hf => rw [hf] at h; exact h

theorem State.fetchInstr_memWf (w : s.memWf = true) (g : Group) (va : W64) : (s.fetchInstr g va).1.memWf = true := by
  have h := State.fetchWord_memWf w g va
  unfold State.fetchInstr
  split
  next u x hf =>
    rw [hf] at h
    have hm := State.fetchMore_memWf g (if majorKnown (majOf x) then wordsOfLen (lenOf x) - 1 else 0) h (va + 4)
    dsimp only
    split
    next hr => rw [hr] at hm; exact hm
    · exact hm
  next hf => rw [hf] at h; exact h

theorem State.freeze_memWf (w : s.memWf = true) (g : Group) (cause va ipa : Nat) : (s.freeze g cause va ipa).memWf = true := by
  unfold State.freeze
  dsimp only
  split
  · exact w
  · split
    · exact w
    next h => exact (State.postFault_memWf h w :)

theorem State.payOwed_memWf (w : s.memWf = true) (g : Group) : (s.payOwed g).memWf = true := by
  unfold State.payOwed
  split
  · exact State.freeze_memWf w _ _ _ _
  · exact w

theorem State.enterTrap_memWf (w : s.memWf = true) (g : Group) (t : PendTrap) : (s.enterTrap g t).memWf = true := by
  have h := State.fetchWord_memWf w g g.csrs.trapvec
  have hno {u : State} (wu : u.memWf = true) : ((u.onGroup g.id fun h => { h.writeTrap t with pend := none, hold := .none }).freeze g
      0x24 t.pc.toNat 0).memWf = true := State.freeze_memWf (s := u.onGroup g.id _) wu _ _ _ _
  unfold State.enterTrap
  dsimp only
  split
  · exact hno w
  · split
    next u v hf =>
      rw [hf] at h
      split
      · exact hno h
      · exact h
    next u r hf =>
      rw [hf] at h
      split
      · exact h
      · split
        next hp => exact (State.postFault_memWf hp h :)
        · exact h
    next hf => rw [hf] at h; exact State.freeze_memWf h _ _ _ _
    next hf => rw [hf] at h; exact State.freeze_memWf h _ _ _ _
    next hf => rw [hf] at h; exact hno h

theorem State.raise_memWf (w : s.memWf = true) (id : Nat) (t : PendTrap) : (s.raise id t).memWf = true := by
  unfold State.raise
  split
  · exact w
  · dsimp only
    split
    · split
      · exact w
      · exact State.freeze_memWf w _ _ _ _
    · split
      · exact State.enterTrap_memWf (s := s.onGroup id _) w _ _
      · exact w

/-! ### What an attempt to issue answers -/

/-- The memories have the form in the state that an attempt answers. -/
def Res.Canonical : Res → Prop
  | .ok t => t.memWf = true
  | .stay t => t.memWf = true
  | .fault t _ => t.memWf = true
  | .freeze t _ _ _ => t.memWf = true
  | _ => True

/-- The memories have the form in the state that a step answers. -/
def Leaves (o : Out) : Prop := ∀ t, o = .next t → t.memWf = true

/-- The body of an instruction keeps the memories in form. -/
def KeepsForm (body : Ctx → State → Res) : Prop := ∀ c s, s.memWf = true → (body c s).Canonical

/-- The same of checks in front of an attempt. -/
def ChecksCanonical (p : State × Option Res) : Prop := p.1.memWf = true ∧ (p.2.getD (.ok p.1)).Canonical

theorem leaves_next {t : State} (w : t.memWf = true) : Leaves (.next t) := by
  rintro _ ⟨⟩
  exact w

theorem leaves_ite {p : Prop} [Decidable p] {a b : Out} (ha : Leaves a) (hb : Leaves b) : Leaves (if p then a else b) := by
  split
  · exact ha
  · exact hb

theorem Res.canonical_ok {t : State} (w : t.memWf = true) : (Res.ok t).Canonical := w

theorem Res.canonical_stay {t : State} (w : t.memWf = true) : (Res.stay t).Canonical := w

theorem Res.canonical_stall (x : Stall) : (Res.stall x).Canonical := trivial

theorem Res.canonical_ofPair (p : Cause × W64) : (Res.ofPair p).Canonical := trivial

theorem Res.canonical_ite {p : Prop} [Decidable p] {a b : Res} (ha : a.Canonical) (hb : b.Canonical) :
    (if p then a else b).Canonical := by
  split
  · exact ha
  · exact hb

theorem fetchRes_canonical (w : s.memWf = true) (va : W64) (f : FRes) : (fetchRes va f s).Canonical := by
  cases f with
  | reg => trivial
  | _ => exact w

theorem State.checkHeader_memWf (w : s.memWf = true) (g : Group) (a : W64) :
    ChecksCanonical (s.checkHeader g a) := by
  have h := State.fetchWord_memWf w g (a &&& ~~~3#64)
  unfold State.checkHeader
  dsimp only
  split
  next u x hf =>
    rw [hf] at h
    split
    · exact ⟨h, trivial⟩
    · exact ⟨h, h⟩
  next u f _ hf =>
    rw [hf] at h
    exact ⟨h, fetchRes_canonical h _ _⟩

theorem State.checkHeaders_memWf (g : Group) (l : List W64) : ∀ {s : State}, s.memWf = true →
    ChecksCanonical (s.checkHeaders g l) := by
  induction l with
  | nil => exact fun w => ⟨w, w⟩
  | cons a l ih =>
    intro s w
    have h := State.checkHeader_memWf w g a
    unfold State.checkHeaders
    split
    next u hc => rw [hc] at h; exact ih h.1
    · exact h

theorem State.headerChecks_memWf (w : s.memWf = true) (c : Ctx) :
    ChecksCanonical (s.headerChecks c) := by
  have h : ChecksCanonical (s.fallCheck c) := by
    unfold State.fallCheck
    dsimp only
    generalize (_ && _ : Bool) = last
    cases last
    · exact ⟨w, w⟩
    · exact State.checkHeader_memWf w _ _
  unfold State.headerChecks
  split
  next u hc => rw [hc] at h; exact State.checkHeaders_memWf _ _ h.1
  · exact h

theorem State.takeQuota_memWf (w : s.memWf = true) (c : Ctx) (t : PendTrap) : (s.takeQuota c t).memWf = true :=
  State.raise_memWf (s := s.onGroup c.g.id _) w _ _

theorem State.preIssue_memWf (w : s.memWf = true) (c : Ctx) :
    ChecksCanonical (s.preIssue c) := by
  have h := State.headerChecks_memWf w c
  unfold State.preIssue
  split
  · exact ⟨w, trivial⟩
  · split
    next u r hc => rw [hc] at h; exact h
    next u hc =>
      rw [hc] at h
      split
      · exact ⟨h.1, trivial⟩
      · split
        · exact ⟨h.1, State.takeQuota_memWf h.1 _ _⟩
        · split
          · exact ⟨h.1, trivial⟩
          · exact h

/-- What settles an attempt keeps the form. -/
theorem Ctx.settle_leaves (c : Ctx) (w : s.memWf = true) {r : Res} (h : r.Canonical) : Leaves (c.settle s r) := by
  unfold Ctx.settle
  cases r with
  | ok t => exact leaves_next h
  | stay t => exact leaves_next h
  | stall x => exact leaves_next w
  | trap k i => exact leaves_next (State.raise_memWf w _ _)
  | fault t r =>
    dsimp only
    split
    · exact leaves_next h
    · split
      next hp => exact leaves_next (t := _) (State.postFault_memWf hp h :)
      · exact leaves_next h
  | freeze t cause va ipa => exact leaves_next (State.freeze_memWf h _ _ _ _)
  | stop f => rintro _ ⟨⟩

theorem Ctx.attempt_canonical (c : Ctx) {body : Ctx → State → Res} (hb : KeepsForm body) (w : s.memWf = true) :
    (c.attempt s body).Canonical := by
  unfold Ctx.attempt
  split
  · split
    · split
      · trivial
      · exact hb _ _ w
    · trivial
  · exact hb _ _ w

/-- AN INSTRUCTION ISSUES: the memories keep their form where the attempts of its body keep it. -/
theorem issue_leaves_of {body : Ctx → State → Res} {maj min : Nat} {o : Ops}
    (ha : ∀ g cl {u : State}, u.memWf = true → ((s.ctx maj min o g cl).attempt u body).Canonical) (w : s.memWf = true) :
    Leaves (issue maj min o body s) := by
  unfold issue
  split
  · exact leaves_next w
  · split
    · exact leaves_next w
    next g _ _ cl _ =>
      dsimp only
      have h := State.preIssue_memWf w (s.ctx maj min o g cl)
      split
      · exact leaves_next w
      · split
        next t r hp => rw [hp] at h; exact Ctx.settle_leaves _ h.1 h.2
        next t hp =>
          rw [hp] at h
          have ha := ha g cl h.1
          split
          · split
            · exact leaves_next (State.takeQuota_memWf h.1 _ _)
            · exact Ctx.settle_leaves _ h.1 trivial
          · exact Ctx.settle_leaves _ h.1 ha

/-- The same of a body that keeps the form. -/
theorem issue_leaves {body : Ctx → State → Res} (hb : KeepsForm body) (maj min : Nat) (o : Ops) (w : s.memWf = true) :
    Leaves (issue maj min o body s) := issue_leaves_of (fun _ _ _ wu => Ctx.attempt_canonical _ hb wu) w

/-! ### The shared checks in front of an effect -/

section
variable {c : Ctx} {r : Res}

theorem Res.Canonical.tagged (h : r.Canonical) (l : List TagCheck) : (tagged c l r).Canonical := by
  unfold Machine.tagged
  split
  · exact h
  · split
    · trivial
    · exact h

theorem Res.Canonical.guarded (h : r.Canonical) (l : List (Bool × (Cause × W64))) : (c.guarded l r).Canonical := by
  unfold Ctx.guarded
  split
  · exact h
  · split
    · trivial
    · exact h

theorem Res.Canonical.present (h : r.Canonical) (l : List (Bool × (Cause × W64))) : (present l r).Canonical := by
  unfold Machine.present
  split
  · trivial
  · exact h

theorem Res.Canonical.rlxAlways (h : r.Canonical) (t : State) : (t.rlxAlways c r).Canonical := by
  unfold State.rlxAlways
  split
  · trivial
  · exact h

theorem Res.Canonical.rlxGate (h : r.Canonical) (t : State) : (rlxGate c t r).Canonical := by
  unfold Machine.rlxGate
  split
  · exact h
  · split
    · trivial
    · exact h

theorem Res.Canonical.checked (h : r.Canonical) (t : State) (tags : List TagCheck) (rest : List (Bool × (Cause × W64))) :
    (checked c t tags rest r).Canonical := ((h.guarded rest).rlxGate t).tagged tags

theorem Res.Canonical.wholeChecked (h : r.Canonical) (t : State) (tags : List TagCheck)
    (rest : List (Bool × (Cause × W64))) : (wholeChecked c t tags rest r).Canonical := by
  unfold Machine.wholeChecked
  split
  · trivial
  · exact (h.present rest).rlxAlways t

theorem Res.Canonical.once (h : r.Canonical) (w : s.memWf = true) : (c.once s r).Canonical := by
  unfold Ctx.once
  split
  · exact h
  · exact w

/-- What a body makes of headers that it checks itself. -/
theorem Ctx.afterHeaders_canonical {p : State × Option Res} {rest : State → Res}
    (hp : ChecksCanonical p) (h : ∀ {u : State}, u.memWf = true → (rest u).Canonical) :
    (c.afterHeaders p rest).Canonical := by
  unfold Ctx.afterHeaders
  split
  · exact h hp.1
  · exact State.raise_memWf hp.1 _ _
  · exact hp.2

/-- What a register instruction writes leaves the memories. -/
theorem Res.Writes.canonical {m : W64} (h : r.Writes c m s) (w : s.memWf = true) : r.Canonical := by
  cases r with
  | ok u =>
    obtain ⟨f, -, rfl⟩ := h
    exact w
  | trap k i => trivial
  | _ => exact h.elim

end

/-! ### Clause boundaries -/

theorem State.seePaths_memWf (w : s.memWf = true) (g : Group) : (s.seePaths g).memWf = true := by
  unfold State.seePaths
  refine foldl_memWf ?_ _ w
  exact fun wu _ => wu

theorem State.stopGroup_memWf (w : s.memWf = true) (g : Group) : (s.stopGroup g).memWf = true := State.seePaths_memWf w g

theorem openClause_leaves (w : s.memWf = true) (h : Header) : Leaves (openClause h s) := by
  unfold openClause
  split
  · exact leaves_next w
  · split
    · exact leaves_next w
    · split
      · exact leaves_next (State.raise_memWf w _ _)
      · dsimp only
        split
        · exact leaves_next w
        · split
          · exact leaves_next (State.stopGroup_memWf (s := s.setGroup _) w _)
          · split
            · exact leaves_next (State.raise_memWf (s := (s.setGroup _).onGroup _ _) w _ _)
            · split
              · exact leaves_next (State.raise_memWf (s := s.setGroup _) w _ _)
              · split <;> exact leaves_next w

end

end Sys2Proof.Machine
end

section
/-! The same of accesses to memory and to windows, barrier objects and batches (04 R76 to R93, 05 R115 to R124). -/
namespace Sys2Proof.Machine
open Sys2Proof.Stated

section
variable {s : State}

/-! ### Places, windows and the kiln's record -/

theorem State.placeAll_memWf (g : Group) (k : Kind) (l : List Access) : ∀ {s : State}, s.memWf = true →
    (s.placeAll g k l).1.memWf = true := by
  induction l with
  | nil => exact fun w => w
  | cons a l ih =>
    intro s w
    unfold State.placeAll
    split
    · have h := ih w
      split
      next hr => rw [hr] at h; exact h
      · exact h
    · have h := State.resolve_memWf w (s.agent g) a.va a.n k (s.workId g)
      split
      next u ps hp =>
        rw [hp] at h
        have h2 := ih h
        split
        next hr => rw [hr] at h2; exact h2
        · exact h2
      all_goals
        next hp => rw [hp] at h; exact h

theorem failRes_canonical (w : s.memWf = true) (f : AFail) : (failRes s f).Canonical := by
  cases f with
  | reg => trivial
  | _ => exact w

theorem State.windowWriteKeep_memWf (w : s.memWf = true) (team off : Nat) (bs : List Byte) :
    (s.windowWriteKeep team off bs).memWf = true := by
  unfold State.windowWriteKeep
  split
  · exact State.windowWrite_memWf w _ _ _
  · refine foldl_memWf (fun wu i => ?_) _ w
    split
    · exact State.windowWrite_memWf wu _ _ _
    · exact wu

theorem State.kilnRecord_memWf (w : s.memWf = true) (team step : Nat) (e : REntry) :
    (s.kilnRecord team step e).memWf = true := by
  unfold State.kilnRecord
  split
  · exact w
  · dsimp only
    split
    · exact w
    · exact State.windowWriteKeep_memWf (s := s.setTeam _) w _ _ _

theorem Ctx.record_memWf (w : s.memWf = true) (c : Ctx) (store : Bool) (accs : List Access) (data : Nat → List Byte) :
    (c.record s store accs data).memWf = true := by
  unfold Ctx.record
  split
  · exact foldl_memWf (fun wu a => State.kilnRecord_memWf wu _ _ _) _ w
  · exact w

/-! ### Loads, stores and atomics -/

theorem State.fillTile_memWf (w : s.memWf = true) (tile line hint : Nat) : (s.fillTile tile line hint).memWf = true := by
  unfold State.fillTile
  split <;> exact w

theorem State.lineRead_memWf (w : s.memWf = true) (tile line attr : Nat) (wide : Bool) (hint : Nat) :
    (s.lineRead tile line attr wide hint).1.memWf = true := by
  have h : (if attr = 2 then s else s.touch line hint).memWf = true := by
    split
    · exact w
    · exact State.touch_memWf _ _ w
  unfold State.lineRead
  dsimp only
  split
  · exact w
  · dsimp only
    split
    · exact State.fillTile_memWf h _ _ _
    · exact h

theorem State.groupLine_memWf (w : s.memWf = true) (g : Group) (tile line attr : Nat) (wide : Bool) (hint : Nat) :
    (s.groupLine g tile line attr wide hint).1.memWf = true := by
  unfold State.groupLine
  split
  · dsimp only
    split
    · exact w
    · exact State.touch_memWf _ _ w
  · exact State.lineRead_memWf w _ _ _ _ _

theorem State.takeBytes_memWf (w : s.memWf = true) (g : Group) (tile : Nat) (p : Piece) : (s.takeBytes g tile p).memWf = true := by
  unfold State.takeBytes
  split <;> exact w

theorem State.readPieces_memWf (g : Group) (tile : Nat) (wide : Bool) (hint : Nat) (l : List Piece) :
    ∀ {s : State}, s.memWf = true → (s.readPieces g tile wide hint l).1.memWf = true := by
  induction l with
  | nil => exact fun w => w
  | cons p l ih =>
    intro s w
    exact ih (State.takeBytes_memWf (State.groupLine_memWf w g tile (p.pa / 128) p.attr (wide && p.attr == 0) hint) g tile p)

theorem State.readLines_memWf (g : Group) (tile : Nat) (wide : Bool) (hint : Nat) (l : List Piece) :
    ∀ {s : State}, s.memWf = true → (s.readLines g tile wide hint l).1.memWf = true := by
  induction l with
  | nil => exact fun w => w
  | cons p l ih =>
    intro s w
    exact ih (State.groupLine_memWf w g tile (p.pa / 128) p.attr (wide && p.attr == 0) hint)

theorem State.pathStore_memWf (w : s.memWf = true) (tile : Nat) (e : PathEntry) : (s.pathStore tile e).memWf = true := by
  unfold State.pathStore State.takeId
  refine foldl_memWf ?_ _ (s := { s with nextId := s.nextId + 1 }) w
  exact fun wu _ => wu

theorem State.storePieces_memWf (g : Group) (e : PathEntry) (l : List Piece) : ∀ {s : State} (_ : s.memWf = true) (bs : List Byte),
    (s.storePieces g e l bs).memWf = true := by
  induction l with
  | nil => exact fun w _ => w
  | cons p l ih =>
    intro s w bs
    unfold State.storePieces
    refine ih ?_ _
    split
    · exact State.homeWrite_memWf _ _ _ _ w
    · exact State.pathStore_memWf w _ _

theorem State.storePlace_memWf (w : s.memWf = true) (g : Group) (e : PathEntry) (p : Place) (bs : List Byte) :
    (s.storePlace g e p bs).memWf = true := by
  cases p with
  | todo => exact w
  | loc team off => exact State.windowWriteKeep_memWf w _ _ _
  | phys ps => exact State.storePieces_memWf _ _ _ w _

theorem State.atomicAt_memWf (w : s.memWf = true) (pa : Nat) (op : AOp) (v e : W64) (hint : Nat) :
    (s.atomicAt pa op v e hint).1.memWf = true := by
  cases op <;> exact State.homeWrite_memWf _ _ _ _ w

theorem State.issueAtomic_memWf (w : s.memWf = true) (g : Group) (hint : Nat) (op : AOp) (v e : W64) (ret : Option (Nat × Nat))
    (a : Access) : (s.issueAtomic g hint op v e ret a).memWf = true := by
  unfold State.issueAtomic
  split
  · dsimp only
    split
    · split
      · exact (State.atomicAt_memWf w _ op v e hint :)
      · exact State.atomicAt_memWf w _ op v e hint
    · exact State.pathStore_memWf w _ _
  · exact w

/-! ### The operand log -/

theorem State.finishEntry_memWf (w : s.memWf = true) (e : LogEntry) : (s.finishEntry e).memWf = true := w

theorem Ctx.logIssue_memWf (w : s.memWf = true) (c : Ctx) (op : LogOp) (f : LogEntry → LogEntry) :
    (c.logIssue s op f).1.memWf = true := w

theorem State.freezeEntry_memWf (w : s.memWf = true) (g : Group) (id cause va ipa : Nat) :
    (s.freezeEntry g id cause va ipa).memWf = true := by
  have h (stands : Bool) : (if stands then s else s.freeze g cause va ipa).memWf = true := by
    cases stands
    · exact State.freeze_memWf w _ _ _ _
    · exact w
  unfold State.freezeEntry
  dsimp only
  split <;> exact h _

theorem State.entryFails_memWf (w : s.memWf = true) (g : Group) (id : Nat) (f : AFail) : (s.entryFails g id f).memWf = true := by
  cases f with
  | fault r =>
    unfold State.entryFails
    dsimp only
    split
    · exact w
    · split
      · exact w
      next hp => exact (State.postFault_memWf hp w :)
  | perm va => exact State.freezeEntry_memWf w _ _ _ _ _
  | bad va pa => exact State.freezeEntry_memWf w _ _ _ _ _
  | reg => exact w

theorem State.acquireAt_memWf (w : s.memWf = true) (g : Group) (scope : Nat) : (s.acquireAt g scope).memWf = true := by
  have h := State.seePaths_memWf w g
  unfold State.acquireAt
  split
  · dsimp only
    split <;> exact h
  · exact w

theorem State.acquired_memWf (w : s.memWf = true) (g : Group) (e : LogEntry) : (s.acquired g e).memWf = true := by
  unfold State.acquired
  split
  · split
    · exact State.acquireAt_memWf w _ _
    · exact w
  · exact w

/-- The memories have the form in the state that binding answers. -/
def BRes.Canonical : BRes → Prop
  | .ok t => t.memWf = true
  | .bad t => t.memWf = true
  | .wait => True

theorem State.bindOne_canonical (w : s.memWf = true) (id lane : Nat) : (s.bindOne id lane).Canonical := by
  unfold State.bindOne
  split
  · exact w
  · split
    · dsimp only
      split
      · exact w
      · split
        · trivial
        · split
          · exact State.freezeEntry_memWf w _ _ _ _ _
          · refine State.acquired_memWf (s := State.setEntry _ _) ?_ _ _
            refine foldl_memWf ?_ _ (State.readLines_memWf _ _ _ _ _ w)
            exact fun wu _ => foldl_memWf (fun wv p => State.takeBytes_memWf wv _ _ p) _ wu
    · exact w

theorem State.bindList_canonical (l : List (Nat × Nat)) : ∀ {s : State}, s.memWf = true → (s.bindList l).Canonical := by
  induction l with
  | nil => exact fun w => w
  | cons p l ih =>
    intro s w
    have h := State.bindOne_canonical w p.1 p.2
    unfold State.bindList
    split
    next hb => rw [hb] at h; exact ih h
    · exact h

theorem State.bindLane_canonical (w : s.memWf = true) (id lane : Nat) : (s.bindLane id lane).Canonical := by
  unfold State.bindLane
  split
  · exact w
  · exact State.bindList_canonical _ w

theorem State.bindBefore_canonical (w : s.memWf = true) (g : Group) (upTo : Nat) (accs : List Access) :
    (s.bindBefore g upTo accs).Canonical := State.bindList_canonical _ w

theorem BRes.andThen_canonical {r : BRes} (h : r.Canonical) {f : State → Res} (hf : ∀ {u : State}, u.memWf = true → (f u).Canonical) :
    (r.andThen f).Canonical := by
  cases r with
  | ok t => exact hf h
  | wait => trivial
  | bad t => exact h

theorem State.placeEntry_memWf (w : s.memWf = true) (g : Group) (e : LogEntry) : (s.placeEntry g e).1.memWf = true := by
  unfold State.placeEntry
  split
  next a _ _ _ =>
    have h := State.resolve_memWf w (s.agent g) a.va a.n .read none
    split <;> next hp => rw [hp] at h; exact h
  · exact State.placeAll_memWf _ _ _ w

theorem State.issueLocals_memWf (w : s.memWf = true) (g : Group) (e : LogEntry) : (s.issueLocals g e).memWf = true := by
  unfold State.issueLocals
  dsimp only
  split
  · exact State.acquired_memWf (s := s.setEntry _) w _ _
  · exact w
  · refine foldl_memWf (fun wu a => ?_) _ (s := s.setEntry _) w
    split
    · exact State.windowWriteKeep_memWf wu _ _ _
    · exact wu
  · exact w

theorem State.resolveEntry_memWf (w : s.memWf = true) (id : Nat) : (s.resolveEntry id).1.memWf = true := by
  unfold State.resolveEntry
  split
  · exact w
  next e _ =>
    split
    · exact w
    next g _ =>
      split
      · exact w
      · have h := State.placeEntry_memWf w g e
        split
        next hp => rw [hp] at h; exact State.entryFails_memWf h _ _ _
        next u accs hp =>
          rw [hp] at h
          dsimp only
          split
          · split
            · exact State.freezeEntry_memWf h _ _ _ _ _
            · have hb {r : BRes} {n : Nat} (hr : u.bindBefore g n accs = r) := hr ▸ State.bindBefore_canonical h g n accs
              split
              · exact h
              next hr => exact hb hr
              next hr => exact foldl_memWf (fun wu a => State.issueAtomic_memWf wu _ _ _ _ _ _ a) _ (s := State.setEntry _ _) (hb hr)
          · split
            · exact h
            · exact foldl_memWf (fun wu a => State.storePlace_memWf wu _ _ _ _) _ (s := State.setEntry _ _) h
          · exact h

theorem State.settleEntry_canonical (w : s.memWf = true) (g : Group) (id : Nat) : (s.settleEntry g id).Canonical := by
  unfold State.settleEntry
  split
  · exact w
  next e _ =>
    have h := State.resolveEntry_memWf (State.issueLocals_memWf w g e) id
    split
    · trivial
    next hr => rw [hr] at h; exact h

/-! ### Waits in front of an effect -/

section
variable {c : Ctx} {r : Res}

theorem Res.Canonical.afterRelease (h : r.Canonical) (scope : Nat) : (c.afterRelease s scope r).Canonical := by
  unfold Ctx.afterRelease
  split
  · exact h
  · trivial

theorem Res.Canonical.afterAcquires (h : r.Canonical) : (c.afterAcquires s r).Canonical := by
  unfold Ctx.afterAcquires
  split
  · trivial
  · exact h

theorem Res.Canonical.afterWaiters (h : r.Canonical) (w : s.memWf = true) (accs : List Access) :
    (c.afterWaiters s accs r).Canonical := by
  unfold Ctx.afterWaiters
  dsimp only
  split
  · exact State.takeQuota_memWf w _ _
  · split
    · trivial
    · exact h

end

/-! ### Barriers and batches -/

theorem State.setBar_memWf (w : s.memWf = true) (team off : Nat) (b : Bar) : (s.setBar team off b).memWf = true :=
  State.windowWrite_memWf w _ _ _

theorem State.releaseWaiters_memWf (w : s.memWf = true) (team off : Nat) (v : Bool) :
    (s.releaseWaiters team off v).memWf = true := by
  unfold State.releaseWaiters
  refine foldl_memWf (fun {u} wu g => ?_) _ w
  split
  · dsimp only
    split
    · exact (State.acquireAt_memWf wu g 2 :)
    · exact wu
  · exact wu

theorem State.barTest_memWf (w : s.memWf = true) (team off : Nat) : (s.barTest team off).memWf = true := by
  unfold State.barTest
  dsimp only
  split
  · exact State.releaseWaiters_memWf (State.setBar_memWf w _ _ _) _ _ _
  · exact w

theorem State.setStray_memWf (w : s.memWf = true) (team off : Nat) : (s.setStray team off).memWf = true :=
  State.windowWrite_memWf w _ _ _

theorem State.strayValid_memWf (w : s.memWf = true) (team off : Nat) : (s.strayValid team off).memWf = true :=
  State.setBar_memWf w _ _ _

theorem State.deliver_memWf (w : s.memWf = true) (team off n : Nat) : (s.deliver team off n).memWf = true := by
  unfold State.deliver
  split
  · exact State.barTest_memWf (State.setBar_memWf w _ _ _) _ _
  · exact State.setStray_memWf w _ _

theorem State.acknowledge_memWf (w : s.memWf = true) (team off count : Nat) : (s.acknowledge team off count).memWf = true := by
  unfold State.acknowledge
  split
  · exact State.barTest_memWf (State.setBar_memWf w _ _ _) _ _
  · exact State.setStray_memWf w _ _

theorem State.bteamCheck_memWf (w : s.memWf = true) (team : Nat) : (s.bteamCheck team).memWf = true := by
  unfold State.bteamCheck
  split
  · exact w
  · dsimp only
    split
    · refine foldl_memWf (fun {u} wu g => ?_) _ (s := s.setTeam _) w
      split
      · exact (State.acquireAt_memWf wu g 1 :)
      · exact wu
    · exact w

theorem State.batchCheck_memWf (w : s.memWf = true) (grp : Nat) : (s.batchCheck grp).memWf = true := by
  unfold State.batchCheck
  split
  · split
    · split
      · exact w
      · dsimp only
        split <;> exact w
    · exact w
  · exact w

/-! ### Loads, stores, atomics and cache control -/

theorem ldg_keeps (n : Nat) (signed acq scal : Bool) : KeepsForm (ldg n signed acq scal) := by
  intro c s w
  refine Res.Canonical.checked (Res.Canonical.afterAcquires (Res.Canonical.afterWaiters ?_ w _)) _ _ _
  split
  · trivial
  · dsimp only
    exact State.settleEntry_canonical (Ctx.record_memWf (Ctx.logIssue_memWf w _ _ _) _ _ _ _) _ _

theorem Ctx.storeLanes_memWf (w : s.memWf = true) (c : Ctx) (rel : Bool) (accs : List Access) (data : Nat → List Byte) :
    (c.storeLanes s rel accs data).memWf = true := by
  unfold Ctx.storeLanes State.takeId
  exact foldl_memWf (fun wu a => State.storePlace_memWf wu _ _ _ _) _ (s := { s with nextId := s.nextId + 1 }) w

theorem stg_keeps (n : Nat) (scal rel : Bool) : KeepsForm (stg n scal rel) := by
  intro c s w
  refine Res.Canonical.checked (Res.Canonical.afterAcquires ?_) _ _ _
  have h := State.placeAll_memWf c.g .write (c.accs scal n) w
  split
  · trivial
  · split
    · trivial
    · split
      next hp => rw [hp] at h; exact failRes_canonical h _
      next hp =>
        rw [hp] at h
        split
        · exact Ctx.record_memWf h _ _ _ _
        · exact BRes.andThen_canonical (State.bindBefore_canonical h _ _ _) fun wu => Ctx.storeLanes_memWf wu _ _ _ _

theorem atomicIssue_keeps (op : AOp) (scal sext : Bool) (tags : Ctx → List TagCheck) (tag : Ctx → BitVec 4) :
    KeepsForm (atomicIssue op scal sext tags tag) := by
  intro c s w
  refine Res.Canonical.checked (Res.Canonical.afterAcquires ?_) _ _ _
  split
  · dsimp only
    exact State.settleEntry_canonical (Ctx.logIssue_memWf w _ _ _) _ _
  · have h := State.placeAll_memWf c.g .atomic (c.accs scal op.size) w
    split
    next hp => rw [hp] at h; exact failRes_canonical h _
    next hp =>
      rw [hp] at h
      split
      · exact h
      · exact BRes.andThen_canonical (State.bindBefore_canonical h _ _ _) fun wu =>
          foldl_memWf (fun wv a => State.issueAtomic_memWf wv _ _ _ _ _ _ a) _ wu

theorem fence_keeps (rel acq sc : Bool) : KeepsForm (fence rel acq sc) := by
  intro c s w
  refine Res.Canonical.rlxGate (Res.Canonical.once ?_ w) _
  split
  · trivial
  · change State.memWf _ = true
    split
    · exact State.acquireAt_memWf w _ _
    · exact w

theorem prefetch_memWf (w : s.memWf = true) (c : Ctx) (va : W64) : (prefetch c s va).memWf = true := by
  have h := State.translate_memWf w (s.agent c.g) va 1 .read none
  unfold prefetch
  split
  · exact w
  · split
    next t pa attr hp =>
      rw [hp] at h
      split
      · exact w
      · dsimp only
        have ht := State.touch_memWf (pa / 128) c.e.hint.toNat h
        split
        · split
          · exact State.fillTile_memWf ht _ _ _
          · exact ht
        · exact ht
    · exact w

theorem pf_keeps : KeepsForm pf := fun c _ w =>
  Res.Canonical.checked (r := .ok _) (foldl_memWf (fun wu _ => prefetch_memWf wu c _) c.lanes w) _ _ _

theorem State.linesOf_memWf (g : Group) (l : List W64) : ∀ {s : State}, s.memWf = true → (s.linesOf g l).1.memWf = true := by
  induction l with
  | nil => exact fun w => w
  | cons va l ih =>
    intro s w
    have h := State.translate_memWf w (s.agent g) va 1 .read none
    unfold State.linesOf
    split
    next hp => rw [hp] at h; exact h
    next hp => rw [hp] at h; exact h
    next hp => rw [hp] at h; exact h
    next hp =>
      rw [hp] at h
      have h2 := ih h
      split
      next hr => rw [hr] at h2; exact h2
      · exact h2

theorem State.invalidate_memWf (w : s.memWf = true) (tiles : List Nat) (home : Bool) (line : Nat) :
    (s.invalidate tiles home line).memWf = true := by
  have h : (tiles.foldl (fun s t => s.setTile t ((s.tile t).dropLine line)) s).memWf = true := by
    refine foldl_memWf ?_ _ w
    exact fun wu _ => wu
  unfold State.invalidate
  dsimp only
  split
  · exact State.evict_memWf _ h
  · exact h

theorem onLines_keeps {f : Ctx → State → Nat → State} (hf : ∀ c {u : State}, u.memWf = true → ∀ n, (f c u n).memWf = true) :
    KeepsForm (onLines f) := by
  intro c s w
  refine Res.Canonical.checked ?_ _ _ _
  have h := State.linesOf_memWf c.g (c.lanes.map c.eaVec) w
  split
  next hp => rw [hp] at h; exact failRes_canonical h _
  next hp =>
    rw [hp] at h
    split
    · exact foldl_memWf (hf c) _ h
    · trivial

end

end Sys2Proof.Machine
end

section
/-! The same of the matrix unit and the kiln (10 R196 to R224, 12 R228 to R252). -/
namespace Sys2Proof.Machine
open Sys2Proof.Stated

section
variable {s : State}

/-! ### Panels and accumulators -/

theorem State.setPanel_memWf (w : s.memWf = true) (g : Group) (n : Nat) (p : Panel) : (s.setPanel g n p).memWf = true := by
  unfold State.setPanel
  split <;> exact w

theorem State.setAcc_memWf (w : s.memWf = true) (g : Group) (n : Nat) (a : Acc) : (s.setAcc g n a).memWf = true := by
  unfold State.setAcc
  split <;> exact w

theorem Res.Canonical.idle {c : Ctx} {r : Res} (h : r.Canonical) (w : s.memWf = true) (tag : BitVec 4) :
    (c.idle s tag r).Canonical := by
  unfold Ctx.idle
  split
  · exact h
  · exact Ctx.logIssue_memWf w _ _ _

theorem movp_keeps : KeepsForm movp := by
  intro c s w
  refine ((Res.Canonical.guarded ?_ _).once w).rlxGate _
  split
  · trivial
  · exact State.setPanel_memWf w _ _ _

theorem pld_keeps : KeepsForm pld := by
  intro c s w
  refine Res.Canonical.rlxGate (Res.Canonical.idle (Res.Canonical.guarded
    (Res.Canonical.afterAcquires (Res.Canonical.afterWaiters ?_ w _)) _) w _) _
  split
  · trivial
  · split
    · trivial
    · dsimp only
      exact State.settleEntry_canonical (Ctx.logIssue_memWf (State.setPanel_memWf w _ _ _) _ _ _) _ _

theorem pst_keeps : KeepsForm pst := by
  intro c s w
  refine Res.Canonical.rlxGate (Res.Canonical.idle (Res.Canonical.guarded (Res.Canonical.afterAcquires ?_) _) w _) _
  split
  · trivial
  · dsimp only
    refine State.settleEntry_canonical (Ctx.logIssue_memWf ?_ _ _ _) _ _
    exact State.memWf_ite w w

theorem State.pldFinish_memWf (w : s.memWf = true) (e : LogEntry) (g : Group) (n : Nat) : (s.pldFinish e g n).memWf = true := by
  unfold State.pldFinish
  dsimp only
  split
  · exact State.freezeEntry_memWf w _ _ _ _ _
  · refine foldl_memWf (fun {u} wu a => State.setPanel_memWf ?_ _ _ _) _ w
    split
    · exact State.readPieces_memWf _ _ _ _ _ wu
    · exact wu
    · exact wu

theorem pzero_keeps : KeepsForm pzero := by
  intro c s w
  refine Res.Canonical.rlxGate (Res.Canonical.once ?_ w) _
  split
  · trivial
  · exact State.setPanel_memWf w _ _ _

theorem pfence_keeps : KeepsForm pfence := by
  intro c s w
  refine Res.Canonical.rlxGate (Res.Canonical.once ?_ w) _
  split
  · trivial
  · split <;> exact w

theorem pput_keeps : KeepsForm pput := by
  intro c s w
  refine Res.Canonical.checked ?_ _ _ _
  split
  · trivial
  · exact State.memWf_ite (State.setPanel_memWf w _ _ _) w

theorem pget_keeps : KeepsForm pget := by
  intro c s w
  refine Res.Canonical.checked (r := .ok (c.putV _ 0 _ _)) ?_ _ _ _
  exact State.memWf_ite (u := s) w w

theorem mmaOp_keeps (tr : Bool) : KeepsForm (mmaOp tr) := fun _ _ w =>
  Res.Canonical.wholeChecked (r := .ok _) (Ctx.logIssue_memWf w _ _ _) _ _ _

theorem State.cancelMma_memWf (w : s.memWf = true) (g : Group) (acc : Nat) : (s.cancelMma g acc).memWf = true := by
  unfold State.cancelMma
  refine foldl_memWf ?_ _ w
  exact fun wu _ => wu

theorem emptyAcc_keeps (anch : Option Int) : KeepsForm (emptyAcc anch) := by
  intro c s w
  refine Res.Canonical.rlxGate (Res.Canonical.guarded (Res.Canonical.once ?_ w) _) _
  split
  · trivial
  · exact State.setAcc_memWf (State.cancelMma_memWf w _ _) _ _ _

theorem cstat_keeps : KeepsForm cstat := by
  intro c s w
  refine Res.Canonical.rlxGate (Res.Canonical.once ?_ w) _
  split
  · trivial
  · exact w

theorem cdrain_keeps : KeepsForm cdrain := fun c _ w =>
  Res.Canonical.checked (Res.Canonical.idle (c := c) (r := .ok _) (Ctx.logIssue_memWf w c _ _) w _) _ _ _

theorem cstore_keeps : KeepsForm cstore := by
  intro c s w
  refine Res.Canonical.rlxGate (Res.Canonical.idle (Res.Canonical.guarded (Res.Canonical.afterAcquires ?_) _) w _) _
  split
  · trivial
  · dsimp only
    exact State.settleEntry_canonical (Ctx.logIssue_memWf w _ _ _) _ _

theorem State.seqBody_memWf (g : Group) (passes : Nat) (ctl : W64) (k : Nat) : ∀ {s : State} (_ : s.memWf = true) (j : Nat) (a : W64),
    (s.seqBody g passes ctl k j a).1.memWf = true ∧
      ∀ r, (s.seqBody g passes ctl k j a).2 = .error r → r.Canonical := by
  induction k with
  | zero => exact fun w j a => ⟨w, by rintro _ ⟨⟩⟩
  | succ k ih =>
    intro s w j a
    have h := State.fetchInstr_memWf w g a
    unfold State.seqBody
    split
    next hf => rw [hf] at h; exact ⟨h, by rintro _ ⟨⟩; exact fetchRes_canonical h _ _⟩
    next hf =>
      rw [hf] at h
      split
      · exact ⟨h, by rintro _ ⟨⟩⟩
      · exact ih h _ _

theorem seqOp_keeps : KeepsForm seqOp := by
  intro c s w
  refine Res.Canonical.rlxAlways (Res.Canonical.present ?_ _) _
  have h := State.seqBody_memWf c.g (max c.sA.toNat 1) c.lit c.fd w 0 c.after
  split
  next hq => rw [hq] at h; exact h.2 _ rfl
  · trivial
  next hq =>
    rw [hq] at h
    split
    · exact h.1
    · split
      · exact Ctx.afterHeaders_canonical (State.checkHeader_memWf h.1 _ _) fun wu => wu
      · exact h.1

/-! ### Steps of the matrix unit -/

theorem State.trapEntryOf_memWf (w : s.memWf = true) (e : LogEntry) (cause : Cause) (info : W64) :
    (s.trapEntryOf e cause info).memWf = true := by
  unfold State.trapEntryOf
  dsimp only
  split
  · exact w
  · split
    · exact State.raise_memWf w _ _
    · exact w

theorem State.suspend_memWf (w : s.memWf = true) (e : LogEntry) (kind acc k step : Nat) : (s.suspend e kind acc k step).memWf = true :=
  State.trapEntryOf_memWf (s := s.setEntry _) w _ _ _

theorem State.stepActivity_memWf (w : s.memWf = true) (g : Group) : (s.stepActivity g).memWf = true := by
  unfold State.stepActivity
  split <;> exact w

theorem macroStep_memWf (w : s.memWf = true) (id : Nat) : (macroStep s id).memWf = true := by
  unfold macroStep
  split
  · exact w
  · split
    · split
      · exact w
      · dsimp only
        refine State.memWf_ite (State.suspend_memWf (State.stepActivity_memWf ?_ _) _ _ _ _ _)
          (State.memWf_ite (State.finishEntry_memWf (State.setEntry_memWf (State.setAcc_memWf (State.stepActivity_memWf ?_ _) _ _ _) _) _)
            (State.setEntry_memWf (State.setAcc_memWf (State.stepActivity_memWf ?_ _) _ _ _) _))
        all_goals exact State.memWf_ite w w
    · exact w

theorem State.drainDeliver_memWf (w : s.memWf = true) (e : LogEntry) (g : Group) (acc : Acc) (fl : W64) :
    (s.drainDeliver e g acc fl).memWf = true := by
  unfold State.drainDeliver
  split
  · exact w
  · exact foldl_memWf (fun wu a => State.storePlace_memWf wu _ _ _ _) _ (s := s.setEntry _) w
  · exact w

theorem drainStep_memWf (w : s.memWf = true) (id : Nat) : (drainStep s id).memWf = true := by
  unfold drainStep
  split
  · exact w
  · split
    · exact State.memWf_ite w (State.memWf_ite (State.suspend_memWf w _ _ _ _ _)
        (State.drainDeliver_memWf (State.setAcc_memWf w _ _ _) _ _ _ _))
    · exact w

/-! ### The kiln -/

theorem State.writeX_memWf (w : s.memWf = true) (r : Region) (u : List (List W32)) : (s.writeX r u).memWf = true := by
  unfold State.writeX
  refine foldl_memWf ?_ _ w
  exact fun wu _ => wu

theorem State.setRegion_memWf (w : s.memWf = true) (team : Nat) (r : Region) : (s.setRegion team r).memWf = true := by
  unfold State.setRegion
  split <;> exact w

theorem rlxopen_keeps : KeepsForm rlxopen := by
  intro c s w
  refine Res.Canonical.wholeChecked ?_ _ _ _
  split
  · exact w
  · split
    · trivial
    · exact w

theorem State.raiseHeld_memWf (w : s.memWf = true) (id : Nat) (p : Cause × W64) : (s.raiseHeld id p).memWf = true := by
  unfold State.raiseHeld
  split
  · exact State.raise_memWf w _ _
  · exact w

/-- Groups that go on, or stop. -/
theorem foldl_onGroup_memWf {α : Type} {id : α → Nat} {f : α → Group → Group} (l : List α) (w : s.memWf = true) :
    (l.foldl (fun s a => s.onGroup (id a) (f a)) s).memWf = true := by
  refine foldl_memWf ?_ _ w
  exact fun wu _ => wu

theorem openJoin_memWf (w : s.memWf = true) (team : Nat) : (openJoin s team).memWf = true := by
  unfold openJoin
  split
  · exact w
  · exact State.memWf_ite w (State.memWf_ite
      (foldl_memWf (fun wu id => State.raiseHeld_memWf wu id _) _ (s := s.setTeam _) w)
      (State.writeX_memWf (State.setRegion_memWf (foldl_onGroup_memWf _ w) _ _) _ _))

theorem rlxpass_keeps : KeepsForm rlxpass := by
  intro c s w
  refine Res.Canonical.wholeChecked ?_ _ _ _
  split
  · exact w
  · split
    · exact w
    · split
      · trivial
      · exact (State.setRegion_memWf w _ _ :)

theorem passEnd_memWf (w : s.memWf = true) (team : Nat) : (passEnd s team).memWf = true := by
  unfold passEnd
  split
  · exact w
  · refine State.memWf_ite w ?_
    dsimp only
    split
    · exact foldl_onGroup_memWf _ (State.writeX_memWf (State.setRegion_memWf w _ _) _ _)
    · refine foldl_memWf ?_ _ (State.writeX_memWf (State.setRegion_memWf w _ _) _ _)
      intro u wu p
      have h : (if u.stopRequested p.1 then u.seePaths p.1 else u).memWf = true :=
        State.memWf_ite (State.seePaths_memWf wu p.1) wu
      exact h

theorem passAbandon_memWf (w : s.memWf = true) (team : Nat) : (passAbandon s team).memWf = true := by
  unfold passAbandon
  split
  · exact w
  · refine State.memWf_ite w (State.writeX_memWf (State.setRegion_memWf (foldl_memWf (fun {u} wu g => ?_) _ w) _ _) _ _)
    split
    · exact State.memWf_ite wu (State.seePaths_memWf wu g)
    · exact wu

theorem rlxclose_keeps : KeepsForm rlxclose := by
  intro c s w
  refine Res.Canonical.wholeChecked ?_ _ _ _
  split
  · exact w
  · exact (State.setRegion_memWf w _ _ :)

/-- The memories have the form in the state that performing a committed entry answers. -/
def CRes.Canonical : CRes → Prop
  | .done t => t.memWf = true
  | .wait t => t.memWf = true
  | .fails t _ => t.memWf = true

theorem State.commitOne_canonical (w : s.memWf = true) (r : Region) (g : Group) (k : Nat) (e : REntry) :
    (s.commitOne r g k e).Canonical := by
  have h := State.resolve_memWf w (s.agent g) e.addr (2 ^ e.lg) .write (s.workId g)
  unfold State.commitOne
  split
  · split
    · exact w
    · exact State.windowWriteKeep_memWf w _ _ _
  · split
    next u ps hp =>
      rw [hp] at h
      have hb (o : Option (Group × Nat)) (a : Nat → List Access) : (match o with
          | some (h, i) => u.bindBefore h u.nextId (a i) | none => BRes.ok u).Canonical := by
        cases o with
        | none => exact h
        | some p => exact State.bindBefore_canonical h _ _ _
      have hb' := hb (u.stepLane r k) fun i => [{ lane := i, va := e.addr, n := 2 ^ e.lg, place := .phys ps }]
      dsimp only
      split
      next hr => exact State.storePieces_memWf _ _ _ ((congrArg BRes.Canonical hr).mp hb') _
      next hr => exact h
      next hr => exact (congrArg BRes.Canonical hr).mp hb'
    all_goals
      next hp => rw [hp] at h; exact h

theorem State.commitFails_leaves (w : s.memWf = true) (team : Nat) (r : Region) (g : Group) (f : AFail) :
    Leaves (s.commitFails team r g f) := by
  have h := State.setRegion_memWf w team { r with next := 0 }
  unfold State.commitFails
  cases f with
  | fault f =>
    dsimp only
    split
    next hp => exact leaves_next (State.postFault_memWf hp h :)
    · exact leaves_next h
  | perm va => exact leaves_next (State.memWf_ite h (State.freeze_memWf h _ _ _ _))
  | bad va pa => exact leaves_next (State.memWf_ite h (State.freeze_memWf h _ _ _ _))
  | reg => rintro _ ⟨⟩

theorem closeJoin_leaves (w : s.memWf = true) (team : Nat) : Leaves (closeJoin s team) := by
  unfold closeJoin
  split
  · exact leaves_next w
  next t _ =>
    refine leaves_ite (leaves_next w) ?_
    split
    · exact leaves_next w
    next g _ _ =>
      refine leaves_ite (leaves_next w) ?_
      split
      · exact leaves_next (foldl_memWf (fun wu id => State.raiseHeld_memWf wu id _) _ (State.setRegion_memWf w _ _))
      · split
        · exact leaves_next (foldl_onGroup_memWf _ (State.setRegion_memWf w _ _))
        next k e _ =>
          refine leaves_ite (leaves_next w) ?_
          have hp : (if t.region.inst = 0 then (s.takeId.2, { t.region with inst := s.takeId.1 }) else (s, t.region)).1.memWf
              = true := by
            split <;> exact w
          have hc := State.commitOne_canonical hp (if t.region.inst = 0 then (s.takeId.2, { t.region with inst := s.takeId.1 })
            else (s, t.region)).2 g k e
          dsimp only
          split
          next hr => exact leaves_next ((congrArg CRes.Canonical hr).mp hc)
          next hr => exact State.commitFails_leaves ((congrArg CRes.Canonical hr).mp hc) _ _ _ _
          next hr => exact leaves_next (State.setRegion_memWf ((congrArg CRes.Canonical hr).mp hc) _ _)

theorem rlxstat_keeps : KeepsForm rlxstat := fun c _ w =>
  Res.Canonical.rlxGate (Res.Canonical.guarded (Res.Canonical.once (c := c) (r := .ok (c.putS _ _)) w w) _) _

theorem rlxres_keeps : KeepsForm rlxres := fun _ _ w => Res.Canonical.checked (r := .ok (Ctx.putV _ _ _ _ _)) w _ _ _

theorem rlxabort_keeps : KeepsForm rlxabort := by
  intro c s w
  refine Res.Canonical.rlxGate (Res.Canonical.once ?_ w) _
  split
  · trivial
  · exact State.setRegion_memWf w _ _

end

end Sys2Proof.Machine
end

section
/-! The same of CSRs, queues, mailboxes, rings, work and the collective engine (07 R145, R146, 17 R303 to R317, R320 to R322, 22 R380 to R394). -/
namespace Sys2Proof.Machine
open Sys2Proof.Stated

section
variable {s : State}

/-! ### CSRs -/

theorem State.csrRead_memWf (w : s.memWf = true) (g : Group) (n : Nat) : (s.csrRead g n).1.memWf = true := by
  unfold State.csrRead
  split
  case h_11 =>
    split
    · exact w
    · split
      · split <;> exact w
      · split <;> exact w
  all_goals exact w

theorem State.coverSlots_memWf (id : Nat) (l : List Nat) : ∀ {s : State}, s.memWf = true → (s.coverSlots id l).memWf = true := by
  induction l with
  | nil => exact fun w => w
  | cons n l ih =>
    intro s w
    unfold State.coverSlots
    split
    · exact w
    · exact ih w

/-- The memories have the form in the state that a CSR write answers. -/
def WRes.Canonical : WRes → Prop
  | .ok t => t.memWf = true
  | _ => True

theorem WRes.canonical_ite {p : Prop} [Decidable p] {a b : WRes} (ha : a.Canonical) (hb : b.Canonical) :
    (if p then a else b).Canonical := by
  split
  · exact ha
  · exact hb

theorem State.csrWrite_canonical (w : s.memWf = true) (g : Group) (n : Nat) (v : W64) : (s.csrWrite g n v).Canonical := by
  have bad (r : Nat) : (WRes.bad r).Canonical := trivial
  have wait : WRes.wait.Canonical := trivial
  have ok {u : State} (wu : u.memWf = true) : (WRes.ok u).Canonical := wu
  have hlo : (s.writeLo g v).Canonical :=
    WRes.canonical_ite (State.coverSlots_memWf _ _ (s := s.onGroup _ _) w) (bad _)
  unfold State.csrWrite
  refine WRes.canonical_ite (bad _) ?_
  split
  · exact WRes.canonical_ite (bad _) (ok w)
  · exact WRes.canonical_ite (bad _) (WRes.canonical_ite wait (ok w))
  · exact WRes.canonical_ite (bad _) (ok w)
  · exact WRes.canonical_ite (bad _) (ok w)
  · exact WRes.canonical_ite (bad _) hlo
  · exact WRes.canonical_ite (bad _) (ok w)
  · exact WRes.canonical_ite (bad _) (WRes.canonical_ite (bad _) (ok w))
  · exact WRes.canonical_ite (bad _) (ok w)
  · exact WRes.canonical_ite (bad _) (bad _)

theorem csrrd_keeps : KeepsForm csrrd := by
  intro c s w
  have h := State.csrRead_memWf w c.g (csrNumA c.o)
  refine Res.Canonical.present ?_ _
  split
  · exact Res.Canonical.once (r := .ofPair _) trivial w
  next hr =>
    rw [hr] at h
    exact Res.Canonical.once (Res.canonical_ite (Res.canonical_stall _) h) w

theorem csrwrOf_keeps (n : Nat) : KeepsForm (csrwrOf n) := by
  intro c s w
  have h := State.csrWrite_canonical w c.g n c.sA
  unfold csrwrOf
  split
  · exact Res.Canonical.present (Res.Canonical.once (r := .ofPair _) trivial w) _
  · exact Res.Canonical.once (r := .stall _) trivial w
  next hr => rw [hr] at h; exact Res.Canonical.once (r := .ok _) h w

theorem csrwr_keeps : KeepsForm csrwr := fun c _ w => csrwrOf_keeps (csrNumD c.o) c _ w

/-! ### Blocks and tables that an instruction reads -/

theorem Ctx.readBlock_canonical (w : s.memWf = true) (c : Ctx) (va : W64) (n : Nat) {f : State → List Byte → Res}
    (hf : ∀ {u : State}, u.memWf = true → ∀ bs, (f u bs).Canonical) : (c.readBlock s va n f).Canonical := by
  have h := State.resolve_memWf w (s.agent c.g) va n .read (s.workId c.g)
  refine Res.Canonical.afterAcquires (Res.Canonical.afterWaiters ?_ w _)
  split
  next hp => rw [hp] at h; exact h
  next hp => rw [hp] at h; exact h
  next hp => rw [hp] at h; exact h
  · trivial
  next hp =>
    rw [hp] at h
    dsimp only
    split
    · exact h
    · exact hf (State.readPieces_memWf _ _ _ _ _ h) _

theorem Res.Canonical.readsTable {r : Res} (h : r.Canonical) (w : s.memWf = true) (die : Nat) (offs : List Nat) :
    (readsTable s die offs r).Canonical := by
  unfold Machine.readsTable
  split
  · exact w
  · exact h

/-! ### Queues and mailboxes -/

theorem State.setQueue_memWf (w : s.memWf = true) (die q : Nat) (l : List W64) : (s.setQueue die q l).memWf = true := w

theorem State.servePops_memWf (die q fuel : Nat) : ∀ {s : State}, s.memWf = true → (s.servePops die q fuel).memWf = true := by
  induction fuel with
  | zero => exact fun w => w
  | succ fuel ih =>
    intro s w
    unfold State.servePops
    split
    · exact w
    · exact State.memWf_ite w (ih w)

theorem qpush_keeps : KeepsForm qpush := fun _ _ w =>
  Res.Canonical.rlxGate (Res.canonical_ite (Res.canonical_stall _) (Res.canonical_ok
    (State.servePops_memWf _ _ _ (State.setQueue_memWf w _ _ _)))) _

theorem qpop_keeps : KeepsForm qpop := by
  intro c s w
  have hl {u : State} (wu : u.memWf = true) (op : LogOp) (f : LogEntry → LogEntry) : (Res.ok (c.logIssue u op f).1).Canonical :=
    Ctx.logIssue_memWf wu c op f
  refine Res.Canonical.rlxGate (Res.canonical_ite (hl w _ _) (Res.canonical_ite (Res.canonical_ite (hl w _ _)
    (hl (State.setQueue_memWf w _ _ _) _ _)) (Res.canonical_ok (State.servePops_memWf _ _ _ (Ctx.logIssue_memWf w _ _ _))))) _

theorem State.receive_memWf (w : s.memWf = true) (e : LogEntry) (m : List Byte) : (s.receive e m).memWf = true := by
  unfold State.receive
  dsimp only
  split
  · exact State.acquireAt_memWf (State.setEntry_memWf w _) _ _
  · exact w

theorem State.serveMail_memWf (agent box fuel : Nat) : ∀ {s : State}, s.memWf = true → (s.serveMail agent box fuel).memWf = true := by
  induction fuel with
  | zero => exact fun w => w
  | succ fuel ih =>
    intro s w
    unfold State.serveMail
    split
    · exact ih (State.receive_memWf (s := s.setMailbox _ _ _) w _ _)
    · exact w

theorem mbsend_keeps : KeepsForm mbsend := by
  intro c s w
  refine Res.Canonical.readsTable (Res.Canonical.rlxGate (Res.Canonical.once (Res.Canonical.afterRelease
    (Res.canonical_ite (Res.canonical_stall _) ?_) _) w) _) w _ _
  exact w

theorem mbrecv_keeps : KeepsForm mbrecv := by
  intro c s w
  refine Res.Canonical.rlxGate (Res.Canonical.guarded (Res.canonical_ite (Res.canonical_ok (Ctx.logIssue_memWf w c _ _))
    (Res.canonical_ite ?_ (Res.canonical_ok (State.serveMail_memWf _ _ _ (Ctx.logIssue_memWf w _ _ _))))) _) _
  split
  · exact Ctx.logIssue_memWf w c _ _
  · exact State.acquireAt_memWf (Ctx.logIssue_memWf (s := s.setMailbox _ _ _) w _ _ _) _ _

theorem State.mailIn_memWf {t : State} {m : Msg} (h : s.mailIn m = some t) (w : s.memWf = true) : t.memWf = true := by
  unfold State.mailIn at h
  dsimp only at h
  split at h
  · cases h
  · cases h
    exact State.serveMail_memWf _ _ _ (s := s.setMailbox _ _ _) w

theorem State.mailIn_getD_memWf (w : s.memWf = true) (m : Msg) {t : State} (wt : t.memWf = true) :
    ((s.mailIn m).getD t).memWf = true := by
  cases h : s.mailIn m with
  | none => exact wt
  | some u => exact State.mailIn_memWf h w

theorem deliverMail_memWf (w : s.memWf = true) (die n : Nat) : (deliverMail s die n).memWf = true := by
  unfold deliverMail
  dsimp only
  split
  · exact w
  · exact State.memWf_ite w (State.memWf_ite w (State.mailIn_getD_memWf (s := s.setDie _ _) w _ w))

/-! ### Rings and the accesses of engines -/

theorem State.postNotice_memWf {t : State} {r : FaultRec} (h : s.postNotice r = some t) (w : s.memWf = true) : t.memWf = true := by
  unfold State.postNotice at h
  dsimp only at h
  split at h
  · cases h
  · cases h; exact w

theorem State.mailNotice_memWf (w : s.memWf = true) (die : Nat) (r : FaultRec) : (s.mailNotice die r).memWf = true :=
  State.memWf_ite (t := s.setDie _ _) w (State.mailIn_getD_memWf w _ (t := s.setDie _ _) w)

theorem State.ringPut_memWf (w : s.memWf = true) (r : Ring) (f : FaultRec) : (s.ringPut r f).memWf = true := by
  unfold State.ringPut
  exact State.homeWrite_memWf _ _ _ _ (State.homeWriteAll_memWf _ _ _ w)

theorem postRecord_memWf (w : s.memWf = true) (die : Nat) : (postRecord s die).memWf = true := by
  unfold postRecord
  dsimp only
  split
  · exact State.ringPut_memWf (s := s.setDie _ _) w _ _
  · exact w

theorem State.engineWaits_memWf (w : s.memWf = true) (r : FaultRec) (who : Waiter) : (s.engineWaits r who).1.memWf = true := by
  unfold State.engineWaits
  split
  next h => exact State.postFault_memWf h w
  · exact w

theorem State.engine_memWf (w : s.memWf = true) (ag : Agent) (va n : Nat) (k : Kind) (who : Waiter) :
    (s.engine ag va n k who).1.memWf = true := by
  have h := State.resolve_memWf w ag (w64 va) n k none
  unfold State.engine
  split
  next hp => rw [hp] at h; exact State.engineWaits_memWf h _ _
  next hp => rw [hp] at h; exact State.engineWaits_memWf h _ _
  next hp => rw [hp] at h; exact State.engineWaits_memWf h _ _
  next hp => rw [hp] at h; exact h
  next hp =>
    rw [hp] at h
    split
    · exact State.engineWaits_memWf h _ _
    · exact h

theorem State.engineTab_memWf (w : s.memWf = true) (ag : Agent) (die : Nat) (offs : List Nat) (who : Waiter) :
    (s.engineTab ag die offs who).1.memWf = true := by
  unfold State.engineTab
  split
  · exact State.engineWaits_memWf w _ _
  · exact w

theorem eThen_memWf {p : State × ERes} (h : p.1.memWf = true) {f : State → State × ERes}
    (hf : ∀ {u : State}, u.memWf = true → (f u).1.memWf = true) : (eThen p f).1.memWf = true := by
  unfold eThen
  split
  · exact hf h
  · exact h

theorem State.writeAll_memWf (l : List Piece) : ∀ {s : State} (_ : s.memWf = true) (bs : List Byte),
    (s.writeAll l bs).memWf = true := by
  induction l with
  | nil => exact fun w _ => w
  | cons p l ih => exact fun w bs => ih (State.homeWrite_memWf _ _ _ _ w) _

/-! ### Jobs, launches and dependence counters -/

theorem State.addOut_memWf (w : s.memWf = true) (id : Option Nat) (up : Bool) : (s.addOut id up).memWf = true := by
  unfold State.addOut
  split <;> exact w

theorem jobenq_keeps : KeepsForm jobenq := by
  intro c s w
  refine Res.Canonical.readsTable (Res.Canonical.present (Res.Canonical.rlxGate (Res.Canonical.once
    (Res.Canonical.guarded (Ctx.readBlock_canonical w _ _ _ fun {u} wu bs => ?_) _) w) _) _) w _ _
  refine Res.canonical_ite (Res.canonical_ok (t := Ctx.putS _ (State.addOut _ _ _) _) (State.addOut_memWf ?_ _ _))
    (Res.canonical_ite (Res.canonical_stall _) (Res.canonical_ok (t := Ctx.putS _ (State.addOut _ _ _) _) (State.addOut_memWf ?_ _ _)))
  · exact wu
  · exact wu

theorem launch_keeps : KeepsForm launch := by
  intro c s w
  refine Res.Canonical.rlxGate (Res.Canonical.once (Res.Canonical.guarded (Res.canonical_ite (Res.canonical_stall _)
    (Ctx.readBlock_canonical w _ _ _ fun {u} wu bs => ?_)) _) w) _
  refine Res.canonical_ok (t := Ctx.putS _ (State.addOut _ _ _) _) (State.addOut_memWf ?_ _ _)
  dsimp only
  split <;> exact wu

theorem Ctx.counterStep_canonical (w : s.memWf = true) (c : Ctx) (va : W64) (count : Option (BitVec 32)) :
    (c.counterStep s va count).Canonical := by
  have h := State.resolve_memWf w (s.agent c.g) va 8 .atomic (s.workId c.g)
  unfold Ctx.counterStep
  split
  next hp => rw [hp] at h; exact h
  next hp => rw [hp] at h; exact h
  next hp => rw [hp] at h; exact h
  · trivial
  next hp =>
    rw [hp] at h
    refine BRes.andThen_canonical (State.bindBefore_canonical h _ _ _) fun {u} wu => ?_
    split
    · refine Res.canonical_ite (Res.canonical_ite wu (Res.canonical_ok ?_)) (Res.canonical_ok (State.pathStore_memWf wu _ _))
      cases count
      · exact State.counterDec_memWf wu _ _
      · exact State.counterInit_memWf wu _ _ _
    · exact wu

theorem dinit_keeps : KeepsForm dinit := fun _ _ w =>
  Res.Canonical.rlxGate (Res.Canonical.once (Res.Canonical.guarded (Ctx.counterStep_canonical w _ _ _) _) w) _

theorem ddec_keeps : KeepsForm ddec := fun _ _ w =>
  Res.Canonical.rlxGate (Res.Canonical.once (Res.Canonical.guarded
    (Res.canonical_ite (Res.canonical_stall _) (Ctx.counterStep_canonical w _ _ _)) _) w) _

theorem dread_keeps : KeepsForm dread := by
  intro c s w
  refine Res.Canonical.rlxGate (Res.canonical_ite (Res.canonical_ok (Ctx.logIssue_memWf w c _ _)) (Res.Canonical.guarded ?_ _)) _
  dsimp only
  exact State.settleEntry_canonical (Ctx.logIssue_memWf w _ _ _) _ _

/-! ### The ember -/

theorem State.endEmbwait_memWf (w : s.memWf = true) (g : Group) (got : Bool) : (s.endEmbwait g got).memWf = true := by
  unfold State.endEmbwait
  split
  · exact (State.memWf_ite (p := got = true) (State.acquireAt_memWf w g scopeDevice) w :)
  · exact w

theorem State.freeEmbwait_memWf (w : s.memWf = true) (work : Nat) (l : Option Nat) : (s.freeEmbwait work l).memWf = true := by
  unfold State.freeEmbwait
  exact foldl_memWf (fun wu g => State.endEmbwait_memWf wu g _) _ w

theorem embwait_keeps : KeepsForm embwait := by
  intro c s w
  refine Res.Canonical.rlxGate (Res.Canonical.once ?_ w) _
  split
  · trivial
  · have hnb {u : State} (wu : u.memWf = true) (v : Mask) :
        (match c.e.nb with | true => c.putP u c.e.nbp.toNat v | false => u).memWf = true := by
      cases c.e.nb <;> exact wu
    have hp (v : Mask) : (c.putP s c.fd v).memWf = true := w
    refine Res.canonical_ite (Res.canonical_ok (hnb (hp _) _)) (Res.Canonical.guarded (Res.canonical_ite
      (Res.canonical_ok (hnb (State.acquireAt_memWf (hp _) _ _) _)) (Res.canonical_ite (Res.canonical_ok (hnb w _)) ?_)) _)
    exact w

theorem embpass_keeps : KeepsForm embpass := by
  intro c s w
  refine Res.Canonical.rlxGate (Res.Canonical.once ?_ w) _
  split
  · trivial
  · exact Res.Canonical.guarded (Res.canonical_ite (Res.canonical_ok (t := State.endVisit _ _ _) w) (Res.canonical_stall _)) _

theorem embskip_keeps : KeepsForm embskip := by
  intro c s w
  refine Res.Canonical.rlxGate (Res.Canonical.once ?_ w) _
  split
  · trivial
  · exact Res.canonical_ite w (Res.canonical_ite (Res.canonical_stall _) (Res.canonical_ok
      (State.memWf_ite (t := State.endVisit _ _ _) w w)))

theorem emberAdvance_memWf (w : s.memWf = true) (work : Nat) : (emberAdvance s work).memWf = true := by
  unfold emberAdvance
  split
  · exact w
  · refine State.memWf_ite w ?_
    dsimp only
    split
    · exact w
    · exact State.memWf_ite (State.freeEmbwait_memWf (s := s.setWork _) w _ _) w

theorem State.detAbort_memWf (w : s.memWf = true) (work : Nat) : (s.detAbort work).memWf = true := by
  unfold State.detAbort
  split
  · exact State.memWf_ite (State.freeEmbwait_memWf (s := s.setWork _) w _ _) w
  · exact w

/-! ### The collective engine -/

theorem Res.Canonical.clChecks {c : Ctx} {r : Res} (h : r.Canonical) (w : s.memWf = true) (offs : List Nat)
    (l : List (Bool × (Cause × W64))) : (clChecks c s offs l r).Canonical :=
  (((h.guarded l).readsTable w _ offs).once w).rlxGate s

theorem qppost_keeps : KeepsForm qppost := fun _ _ w =>
  Res.Canonical.clChecks (Res.Canonical.afterRelease (Ctx.readBlock_canonical w _ _ _ fun wu _ =>
    Res.Canonical.readsTable (Res.Canonical.readsTable (Res.Canonical.guarded
      (Res.canonical_ite (Res.canonical_stall _) (Res.canonical_ok (t := State.qpPush _ _ _ _ _ _ _) wu)) _) wu _ _) wu _ _) _) w _ _

theorem hcadd_keeps : KeepsForm hcadd := fun _ _ w =>
  Res.Canonical.clChecks (Res.Canonical.afterRelease (r := .ok _) (State.hcAdd_memWf w _ _ _) _) w _ _

theorem hcrd_keeps : KeepsForm hcrd := fun c _ w =>
  Res.Canonical.rlxGate (Res.canonical_ite (Res.canonical_ok (Ctx.logIssue_memWf w c _ _)) (Res.Canonical.readsTable
    (Res.Canonical.guarded (Res.canonical_ok (Ctx.logIssue_memWf w c _ _)) _) w _ _)) _

theorem hcarm_keeps : KeepsForm hcarm := fun _ s w =>
  Res.Canonical.clChecks (Res.canonical_ite (Res.canonical_ok (t := State.setDie _ _ _) w)
    (Res.canonical_ok (State.armTest_memWf (s := s.setDie _ _) w _ _))) w _ _

theorem toksort_keeps : KeepsForm toksort := fun _ _ w =>
  Res.Canonical.rlxGate (Res.Canonical.present (Res.Canonical.once (Res.Canonical.guarded (Res.Canonical.afterRelease
    (Ctx.readBlock_canonical w _ _ _ fun wu _ => Res.Canonical.readsTable (Res.Canonical.guarded
      (r := .ok (State.setDie _ _ _)) wu _) wu _ _) _) _) w) _) _

theorem State.onQp_memWf (w : s.memWf = true) (die qp id : Nat) (f : QpEntry → QpEntry) : (s.onQp die qp id f).memWf = true := w

theorem qpStart_memWf (w : s.memWf = true) (die qp : Nat) : (qpStart s die qp).memWf = true := by
  unfold qpStart
  refine State.memWf_ite w ?_
  split
  · exact State.memWf_ite w (State.onQp_memWf w _ _ _ _)
  · exact w

theorem State.bump_memWf (w : s.memWf = true) (die asid : Nat) (ns : List Nat) : (s.bump die asid ns).memWf = true := by
  unfold State.bump
  exact foldl_memWf (fun wu n => State.memWf_ite (State.hcAdd_memWf wu _ _ _) wu) _ w

theorem qpLocal_leaves (w : s.memWf = true) (die qp n : Nat) : Leaves (qpLocal s die qp n) := by
  unfold qpLocal
  split
  · exact leaves_next w
  next e _ =>
    refine leaves_ite (leaves_next w) ?_
    have h := eThen_memWf (State.engineTab_memWf w { master := .coll die, asid := e.asid, vmid := e.vmid } die
      (s.qpOffs die qp ++ hcOffs (ctrOf (word e.words 6) 0 8)) (.qp die qp e.id)) fun {u} wu =>
        State.engine_memWf wu { master := .coll die, asid := e.asid, vmid := e.vmid } (qSrc e.words) (qLen e.words) .read (.qp die qp e.id)
    dsimp only
    split
    · rintro _ ⟨⟩
    next hp => rw [hp] at h; exact leaves_next h
    next hp =>
      rw [hp] at h
      refine leaves_next ?_
      have hb := State.bump_memWf (State.onQp_memWf h die qp e.id fun e => { e with localDone := true, peer := (s.qpInfo die qp).peer })
        die e.asid (ctrOf (word e.words 6) 0 8)
      exact State.memWf_ite hb hb

theorem State.ackSource_memWf (w : s.memWf = true) (src : Option (Nat × Nat × Nat)) : (s.ackSource src).memWf = true := by
  unfold State.ackSource
  split <;> exact w

theorem qpWrite_leaves (w : s.memWf = true) (die n : Nat) : Leaves (qpWrite s die n) := by
  unfold qpWrite
  split
  · exact leaves_next w
  next t _ =>
    refine leaves_ite (leaves_next w) ?_
    have h := eThen_memWf (State.engineTab_memWf w { master := .coll die, asid := t.rasid, vmid := t.vmid } die
      (hcOffs (qRdone t.words)) (.coll die)) fun {u} wu =>
        State.engine_memWf wu { master := .coll die, asid := t.rasid, vmid := t.vmid } (qDst t.words) (qLen t.words) .write (.coll die)
    dsimp only
    split
    · rintro _ ⟨⟩
    next hp => rw [hp] at h; exact leaves_next h
    next hp =>
      rw [hp] at h
      exact leaves_next (State.ackSource_memWf (s := State.dropTransfer _ _) (State.bump_memWf (State.writeAll_memWf _ h _) _ _ _) _)

theorem State.cqDone_memWf (w : s.memWf = true) (cq : Option (Nat × Nat)) : (s.cqDone cq).memWf = true := by
  unfold State.cqDone
  split <;> exact w

theorem State.qpComplete_memWf (w : s.memWf = true) (die qp : Nat) (e : QpEntry) : (s.qpComplete die qp e).memWf = true :=
  State.cqDone_memWf (s := s.setQp _ _ _) w _

theorem qpAck_memWf (w : s.memWf = true) (die qp n : Nat) : (qpAck s die qp n).memWf = true := by
  unfold qpAck
  split
  · exact State.memWf_ite (State.qpComplete_memWf w _ _ _) w
  · exact w

theorem foldl_ackSource_memWf {α : Type} (f : α → Option (Nat × Nat × Nat)) (l : List α) (w : s.memWf = true) :
    (l.foldl (fun s p => s.ackSource (f p)) s).memWf = true :=
  foldl_memWf (fun wu _ => State.ackSource_memWf wu _) l w

theorem State.chunkError_memWf (w : s.memWf = true) (die rasid vmid chunk : Nat) (parts : List Contrib) :
    (s.chunkError die rasid vmid chunk parts).memWf = true :=
  State.mailNotice_memWf (foldl_ackSource_memWf _ _ (s := s.setDie _ _) w) _ _

theorem wredArrive_memWf (w : s.memWf = true) (die n : Nat) : (wredArrive s die n).memWf = true := by
  unfold wredArrive
  split
  · exact w
  · have hd (t : Transfer) : (s.dropTransfer t).memWf = true := w
    have hk (t : Transfer) : ((s.dropTransfer t).forgetKeys die t.rasid).memWf = true := w
    refine State.memWf_ite w (State.memWf_ite (State.ackSource_memWf (hd _) _) ?_)
    split
    · exact State.memWf_ite (State.chunkError_memWf (hd _) _ _ _ _ _) (State.setDie_memWf (hd _) _ _)
    · exact State.memWf_ite (State.chunkError_memWf (hk _) _ _ _ _ _) (State.memWf_ite w (State.setDie_memWf (hk _) _ _))

theorem wredSweep_leaves (w : s.memWf = true) (die n : Nat) : Leaves (wredSweep s die n) := by
  unfold wredSweep
  split
  · exact leaves_next w
  next k _ =>
    refine leaves_ite (leaves_next w) ?_
    have h (rdone : List Nat) (va : Nat) := eThen_memWf (State.engineTab_memWf w { master := .coll die, asid := k.rasid, vmid := k.vmid } die
      (hcOffs rdone) (.coll die)) fun {u} wu =>
        State.engine_memWf wu { master := .coll die, asid := k.rasid, vmid := k.vmid } va k.len .write (.coll die)
    dsimp only
    split
    · rintro _ ⟨⟩
    next hp => exact leaves_next (State.setDie_memWf (memWf_of_fst hp (h _ _)) _ _)
    next hp =>
      refine leaves_next (foldl_ackSource_memWf _ _ (State.setDie_memWf ?_ _ _))
      have hw := State.writeAll_memWf ‹List Piece› (memWf_of_fst hp (h _ _))
      split
      · exact State.bump_memWf (hw _) _ _ _
      · exact hw _

theorem State.sortRun_memWf (w : s.memWf = true) (ag : Agent) (ws : List W64) (who : Waiter) :
    (s.sortRun ag ws who).1.memWf = true := by
  have he {u : State} (wu : u.memWf = true) (va n : Nat) (k : Kind) := State.engine_memWf wu ag va n k who
  unfold State.sortRun
  dsimp only
  split
  next h1 =>
    have w1 := memWf_of_fst h1 (he w _ _ _)
    split
    next h2 =>
      have w2 := memWf_of_fst h2 (he w1 _ _ _)
      split
      next h3 =>
        have w3 := memWf_of_fst h3 (he w2 _ _ _)
        split
        next h4 => exact State.writeAll_memWf _ (State.writeAll_memWf _ (memWf_of_fst h4 (he w3 _ _ _)) _) _
        · exact he w3 _ _ _
      · exact he w2 _ _ _
    · exact he w1 _ _ _
  · exact he w _ _ _

theorem sortDone_leaves (w : s.memWf = true) (die n : Nat) : Leaves (sortDone s die n) := by
  unfold sortDone
  split
  · exact leaves_next w
  next k _ =>
    refine leaves_ite (leaves_next w) ?_
    have h := eThen_memWf (State.engineTab_memWf w { master := .coll die, asid := k.asid, vmid := k.vmid } die
      (hcOffs (ctrOf (word k.words 6) 0 8)) (.coll die)) fun {u} wu =>
        State.sortRun_memWf wu { master := .coll die, asid := k.asid, vmid := k.vmid } k.words (.coll die)
    dsimp only
    split
    · rintro _ ⟨⟩
    next hp => rw [hp] at h; exact leaves_next (State.setDie_memWf h _ _)
    next hp => rw [hp] at h; exact leaves_next (State.bump_memWf (State.setDie_memWf h _ _) _ _ _)

theorem routeRun_leaves (w : s.memWf = true) (die qp n : Nat) : Leaves (routeRun s die qp n) := by
  unfold routeRun
  split
  · exact leaves_next w
  next e _ =>
    refine leaves_ite (leaves_next w) ?_
    have h := State.engine_memWf w { master := .coll die, asid := e.asid, vmid := e.vmid } (qSrc e.words) 64 .read (.qp die qp e.id)
    dsimp only
    split
    · rintro _ ⟨⟩
    next hp => rw [hp] at h; exact leaves_next (State.onQp_memWf h _ _ _ _)
    next u ps hp =>
      rw [hp] at h
      refine leaves_ite (leaves_next (State.qpComplete_memWf h _ _ _)) ?_
      have h2 (offs rd : List Nat) (ddie : Nat) (ws : List W64) := eThen_memWf (State.engineTab_memWf h
        { master := .coll die, asid := e.asid, vmid := e.vmid } die offs (.qp die qp e.id)) fun {v} wv =>
          eThen_memWf (State.engineTab_memWf wv { master := .coll die, asid := e.asid, vmid := e.vmid } ddie (hcOffs rd) (.qp die qp e.id))
            fun {x} wx => State.sortRun_memWf wx { master := .coll die, asid := e.asid, vmid := e.vmid } ws (.qp die qp e.id)
      split
      · rintro _ ⟨⟩
      next hq => exact leaves_next (State.onQp_memWf (memWf_of_fst hq (h2 _ _ _ _)) _ _ _ _)
      next hq => exact leaves_next (State.qpComplete_memWf (State.bump_memWf (State.bump_memWf (memWf_of_fst hq (h2 _ _ _ _)) _ _ _) _ _ _) _ _ _)

end

end Sys2Proof.Machine
end

section
/-! The same of command queues, holds, the return from a trap, kills and QUOTA (16 R302, 20 R361, R362, 21 R365, R366, 22 R394). -/
namespace Sys2Proof.Machine
open Sys2Proof.Stated

section
variable {s : State}

/-! ### Command queues -/

theorem State.cqAdvance_memWf (w : s.memWf = true) (die : Nat) : (s.cqAdvance die).memWf = true :=
  State.homeWrite_memWf (s := s.setDie _ _) _ _ _ _ w

theorem State.cqRefuse_memWf (w : s.memWf = true) (die : Nat) (ws : List W64) : (s.cqRefuse die ws).memWf = true := by
  unfold State.cqRefuse
  dsimp only
  split
  next h => exact State.cqAdvance_memWf (State.postNotice_memWf h w) _
  · exact w

theorem State.cqBad_leaves (w : s.memWf = true) (die pa n : Nat) : Leaves (s.cqBad die pa n) := by
  have h := State.engineWaits_memWf w (mkFault (cqAgent die) pa pa (s.badCause pa) 0 n) (.command die)
  unfold State.cqBad
  split
  next hp => exact leaves_next (State.setDie_memWf (memWf_of_fst hp h) _ _)
  next hp => exact leaves_next (memWf_of_fst hp h)

theorem onCq_leaves (w : s.memWf = true) (die kind : Nat) {f : Nat → List W64 → Out} (hf : ∀ n ws, Leaves (f n ws)) :
    Leaves (onCq s die kind f) := by
  unfold onCq
  split
  · exact State.cqBad_leaves w _ _ _
  · exact leaves_next w
  · exact leaves_ite (hf _ _) (leaves_ite (leaves_next (State.cqRefuse_memWf w _ _)) (leaves_next w))

theorem cqLaunch_leaves (w : s.memWf = true) (die : Nat) : Leaves (cqLaunch s die) := by
  have h (n : Nat) : (State.cqAdvance { s with nextId := n } die).memWf = true := State.cqAdvance_memWf (s := { s with nextId := n }) w die
  refine onCq_leaves w _ _ fun n ws => leaves_ite (leaves_next (State.cqRefuse_memWf w _ _)) (leaves_ite (leaves_next w) ?_)
  exact leaves_next (h _)

theorem cqPost_leaves (w : s.memWf = true) (die : Nat) : Leaves (cqPost s die) := by
  refine onCq_leaves w _ _ fun n ws => leaves_ite (leaves_next (State.cqRefuse_memWf w _ _)) (leaves_ite (leaves_next w) ?_)
  have h := State.engine_memWf w (cqAgent die) (word ws 1).toNat 64 .read (.command die)
  split
  · rintro _ ⟨⟩
  next hp => exact leaves_next (State.setDie_memWf (memWf_of_fst hp h) _ _)
  next hp =>
    have h := memWf_of_fst hp h
    dsimp only
    split
    · exact State.cqBad_leaves h _ _ _
    · exact State.cqBad_leaves h _ _ _
    · exact leaves_ite (leaves_next (State.cqRefuse_memWf h _ _)) (leaves_next (State.cqAdvance_memWf h die :))

theorem cqWait_leaves (w : s.memWf = true) (die : Nat) : Leaves (cqWait s die) :=
  onCq_leaves w _ _ fun _ _ => leaves_ite (leaves_next (State.cqRefuse_memWf w _ _)) (leaves_ite
    (leaves_next (State.cqAdvance_memWf (State.setDie_memWf w _ _) _)) (leaves_next (State.setDie_memWf w _ _)))

theorem cqAdd_leaves (w : s.memWf = true) (die : Nat) : Leaves (cqAdd s die) :=
  onCq_leaves w _ _ fun _ _ => leaves_ite (leaves_next (State.cqRefuse_memWf w _ _))
    (leaves_next (State.hcAdd_memWf (State.cqAdvance_memWf w _) _ _ _))

/-! ### Traps and holds -/

theorem trapEntry_memWf (w : s.memWf = true) (grp : Nat) : (trapEntry s grp).memWf = true := by
  unfold trapEntry
  split
  · split
    · exact State.memWf_ite (State.enterTrap_memWf w _ _) w
    · exact w
  · exact w

theorem State.leaveHold_memWf {t : State} {g : Group} (h : s.leaveHold g = some t) (w : s.memWf = true) : t.memWf = true := by
  have hu : (s.unhold g).memWf = true := w
  unfold State.leaveHold at h
  split at h
  · cases h; exact State.memWf_ite (State.setBar_memWf hu _ _ _) hu
  · cases h; split <;> exact hu
  · cases h; exact hu
  · cases h; exact hu
  · cases h; split <;> exact hu
  · cases h; split <;> exact hu
  · cases h

theorem deadlineExpiry_memWf (w : s.memWf = true) (grp : Nat) : (deadlineExpiry s grp).memWf = true := by
  unfold deadlineExpiry
  split
  · refine State.memWf_ite w ?_
    split
    next h => exact State.raiseHeld_memWf (State.onGroup_memWf (State.leaveHold_memWf h w) _ _) _ _
    · exact w
  · exact w

/-! ### The return from a trap -/

theorem State.abandonEntry_memWf (w : s.memWf = true) (e : LogEntry) : (s.abandonEntry e).memWf = true := w

theorem State.standLast_memWf (w : s.memWf = true) (l : List LogEntry) : (s.standLast l).memWf = true := by
  unfold State.standLast
  refine foldl_memWf ?_ _ w
  exact fun wu _ => wu

theorem State.replay_memWf (w : s.memWf = true) (e : LogEntry) (mode : W64) : (s.replay e mode).memWf = true := by
  have h := State.standLast_memWf w (s.replayed e)
  unfold State.replay
  dsimp only
  split
  · exact h
  · exact State.memWf_ite (State.resolveEntry_memWf (State.setEntry_memWf h _) _) (State.setEntry_memWf h _)

theorem State.returnFrom_memWf (w : s.memWf = true) (g : Group) (f : Frame) : (s.returnFrom g f).memWf = true := by
  have h : (s.behindHandler g.id).memWf = true := State.standLast_memWf w _
  have hr : (match (s.behindHandler g.id).replayOf f with
      | some e => if f.pcWritten then (s.behindHandler g.id).abandonEntry e else (s.behindHandler g.id).replay e g.csrs.mode
      | none => s.behindHandler g.id).memWf = true := by
    split
    · exact State.memWf_ite (State.abandonEntry_memWf h _) (State.replay_memWf h _ _)
    · exact h
  exact State.onGroup_memWf (State.memWf_ite (t := State.retryCopies _ _) hr hr) _ _

theorem eret_keeps : KeepsForm eret := by
  intro c s w
  refine Res.Canonical.once ?_ w
  split
  · exact w
  · split
    · exact Res.canonical_ite (State.returnFrom_memWf w _ _) (Res.canonical_ofPair _)
    · exact State.returnFrom_memWf w _ _

/-! ### Tokens -/

theorem State.resumeEntry_memWf (w : s.memWf = true) (e : LogEntry) : (s.resumeEntry e).memWf = true := by
  unfold State.resumeEntry
  dsimp only
  split
  · exact State.memWf_ite (State.resolveEntry_memWf (State.setEntry_memWf w _) _) (State.setEntry_memWf w _)
  · exact w

theorem State.clearToken_memWf (w : s.memWf = true) (n : Nat) : (s.clearToken n).memWf = true := by
  unfold State.clearToken
  refine foldl_memWf (fun wu e => State.resumeEntry_memWf wu e) _ (foldl_memWf (fun wu d => State.refire_memWf wu d _) _ ?_)
  exact w

theorem State.releaseTeam_memWf (w : s.memWf = true) (t : Team) : (s.releaseTeam t).memWf = true := by
  unfold State.releaseTeam
  refine State.setTeam_memWf (State.setTile_memWf (State.setBarriers_memWf ?_ _ _) _ _) _
  exact w

theorem State.gangCheck_memWf (w : s.memWf = true) (gang : Nat) : (s.gangCheck gang).memWf = true := by
  unfold State.gangCheck
  split
  · refine State.memWf_ite (State.setGang_memWf ?_ _) w
    split <;> exact w
  · exact w

theorem State.serveAfter_memWf (w : s.memWf = true) (l : List LogEntry) : (s.serveAfter l).memWf = true := by
  unfold State.serveAfter
  refine foldl_memWf (fun wu e => ?_) _ w
  split
  · exact State.servePops_memWf _ _ _ wu
  · split
    · exact State.serveMail_memWf _ _ _ wu
    · exact wu
  · exact wu

theorem State.removeGang_memWf (w : s.memWf = true) (k : Gang) : (s.removeGang k).memWf = true := by
  unfold State.removeGang
  refine State.serveAfter_memWf (State.gangCheck_memWf (foldl_memWf
    (fun wu t => State.memWf_ite wu (State.releaseTeam_memWf wu t)) _ ?_) _) _
  split
  · exact State.memWf_ite (t := State.setWork _ _) w w
  · exact w

theorem State.killWork_memWf (w : s.memWf = true) (k : Work) (gang : Option Gang) : (s.killWork k gang).memWf = true := by
  have h := foldl_memWf (fun wu k => State.removeGang_memWf wu k) (s.gangsOf k.id) w
  unfold State.killWork
  split
  · exact State.removeGang_memWf (State.detAbort_memWf w _) _
  · dsimp only
    split <;> exact h

theorem State.skipHead_memWf (w : s.memWf = true) (n : Nat) : (s.skipHead n).memWf = true := by
  unfold State.skipHead
  exact foldl_memWf (fun wu d => State.memWf_ite (State.cqAdvance_memWf wu d) wu) _ w

theorem State.killToken_memWf (w : s.memWf = true) (t : Token) : (s.killToken t).memWf = true := by
  have h : ({ s with tokens := s.tokens.filter fun u => u.num != t.num } : State).memWf = true := w
  unfold State.killToken
  dsimp only
  split
  · exact State.memWf_ite (State.killWork_memWf h _ _) (State.setWork_memWf h _)
  · exact State.killWork_memWf h _ _
  · exact (State.skipHead_memWf h t.num :)

theorem State.quotaGroup_memWf (w : s.memWf = true) (g : Group) (info : W64) : (s.quotaGroup g info).memWf = true := by
  unfold State.quotaGroup
  split
  · exact w
  · split
    · exact State.raiseHeld_memWf (State.onGroup_memWf w _ _) _ _
    · split
      · exact State.raise_memWf (State.onGroup_memWf w _ _) _ _
      · exact w

theorem State.quotaCopy_memWf (w : s.memWf = true) (c : Copy) (info : W64) : (s.quotaCopy c info).memWf = true := by
  unfold State.quotaCopy
  split
  · exact State.memWf_ite (State.setCopy_memWf w _) (State.onGroup_memWf (State.setCopy_memWf w _) _ _)
  · exact w

theorem State.quotaToken_memWf (w : s.memWf = true) (t : Token) : (s.quotaToken t).memWf = true := by
  have h : ({ s.takeFree.2 with tokens := s.tokens.filter fun u => u.num != t.num } : State).memWf = true := w
  unfold State.quotaToken
  dsimp only
  split
  · split
    · exact State.quotaGroup_memWf h _ _
    · exact h
  · split
    · exact State.trapEntryOf_memWf (State.setEntry_memWf h _) _ _ _
    · exact h
  · split
    · exact State.quotaCopy_memWf h _ _
    · exact h
  · exact h

end

end Sys2Proof.Machine
end

section
/-! The same of stops and contexts of gangs, the SY family and its CSRs, power and failures (18 R331, 21 R369, R372 to R378, 23 R402 to R405). -/
namespace Sys2Proof.Machine
open Sys2Proof.Stated

section
variable {s : State}

/-! ### Stops, saves and restores -/

theorem State.stopHeld_memWf (w : s.memWf = true) (k : Gang) : (s.stopHeld k).memWf = true := by
  unfold State.stopHeld
  refine foldl_memWf (fun wu g => ?_) _ w
  split
  · exact wu
  · refine State.memWf_ite wu ?_
    split
    next h => exact State.stopGroup_memWf (State.leaveHold_memWf h wu) _
    · exact wu

theorem State.stopSince_memWf (w : s.memWf = true) (k : Gang) (turn : Bool) (since : Nat) : (s.stopSince k turn since).memWf = true :=
  State.stopHeld_memWf (State.setGang_memWf (foldl_memWf (fun wu g => State.seePaths_memWf wu g) _ w) _) _

theorem State.requestStop_memWf (w : s.memWf = true) (k : Gang) (turn : Bool) : (s.requestStop k turn).memWf = true :=
  State.stopSince_memWf w _ _ _

theorem State.askPreempt_memWf (w : s.memWf = true) (k : Gang) : (s.askPreempt k).memWf = true := by
  unfold State.askPreempt
  split
  · exact State.requestStop_memWf w _ _
  · exact State.memWf_ite w (State.setGang_memWf w _)
  · exact w

theorem State.releaseStops_memWf (w : s.memWf = true) (k : Gang) : (s.releaseStops k).memWf = true := by
  unfold State.releaseStops
  exact foldl_memWf (fun wu g => State.memWf_ite (State.onGroup_memWf wu _ _) wu) _ w

/-- The memories have the form in the state that a save or a restore answers. -/
def SRes.Canonical : SRes → Prop
  | .done t => t.memWf = true
  | .waits t => t.memWf = true
  | .reg => True

theorem State.spillFault_canonical (w : s.memWf = true) (g : Group) (r : FaultRec) : (s.spillFault g r).Canonical := by
  unfold State.spillFault
  split
  next h => exact State.onGroup_memWf (State.postFault_memWf h w) _ _
  · exact w

theorem State.spillRow_memWf (w : s.memWf = true) (g : Group) (j : Nat) (k : Kind) : (s.spillRow g j k).1.memWf = true :=
  State.resolve_memWf w _ _ _ _ _

theorem State.saveRows_canonical (gid : Nat) (l : List Nat) : ∀ {s : State}, s.memWf = true → (s.saveRows gid l).Canonical := by
  induction l with
  | nil => exact fun w => w
  | cons j l ih =>
    intro s w
    unfold State.saveRows
    split
    · exact w
    next g _ =>
      dsimp only
      split
      · exact ih w
      · have h := State.spillRow_memWf w g j .write
        split
        next hp => exact State.spillFault_canonical (memWf_of_fst hp h) _ _
        next hp => exact State.spillFault_canonical (memWf_of_fst hp h) _ _
        next hp => exact State.spillFault_canonical (memWf_of_fst hp h) _ _
        · trivial
        next hp => exact ih (State.onGroup_memWf (State.writeAll_memWf _ (memWf_of_fst hp h) _) _ _)

theorem State.loadRows_canonical (gid : Nat) (l : List Nat) : ∀ {s : State}, s.memWf = true → (s.loadRows gid l).Canonical := by
  induction l with
  | nil => exact fun w => w
  | cons j l ih =>
    intro s w
    unfold State.loadRows
    split
    · exact w
    next g _ =>
      have h := State.spillRow_memWf w g j .read
      split
      next hp => exact State.spillFault_canonical (memWf_of_fst hp h) _ _
      next hp => exact State.spillFault_canonical (memWf_of_fst hp h) _ _
      next hp => exact State.spillFault_canonical (memWf_of_fst hp h) _ _
      · trivial
      next hp =>
        split
        · exact State.spillFault_canonical (memWf_of_fst hp h) _ _
        · exact ih (State.onGroup_memWf (memWf_of_fst hp h) _ _)

theorem SRes.canonical_ite {p : Prop} [Decidable p] {a b : SRes} (ha : a.Canonical) (hb : b.Canonical) :
    (if p then a else b).Canonical := by
  split
  · exact ha
  · exact hb

theorem State.saveGroups_canonical (l : List Nat) : ∀ {s : State}, s.memWf = true → (s.saveGroups l).Canonical := by
  induction l with
  | nil => exact fun w => w
  | cons gid l ih =>
    intro s w
    unfold State.saveGroups
    split
    · exact ih w
    next g _ =>
      have h : (if g.gone then .done s else s.saveRows gid g.resident : SRes).Canonical :=
        SRes.canonical_ite w (State.saveRows_canonical _ _ w)
      split
      next hr => exact ih ((congrArg SRes.Canonical hr).mp h)
      · exact h

theorem State.loadGroups_canonical (l : List Nat) : ∀ {s : State}, s.memWf = true → (s.loadGroups l).Canonical := by
  induction l with
  | nil => exact fun w => w
  | cons gid l ih =>
    intro s w
    unfold State.loadGroups
    split
    · exact ih w
    next g _ =>
      have h : (if g.gone then .done s else s.loadRows gid g.resident : SRes).Canonical :=
        SRes.canonical_ite w (State.loadRows_canonical _ _ w)
      split
      next hr => exact ih ((congrArg SRes.Canonical hr).mp h)
      · exact h

theorem State.packTeam_memWf (w : s.memWf = true) (t : Team) : (s.packTeam t).memWf = true := w

theorem State.saveGang_leaves (w : s.memWf = true) (k : Gang) : Leaves (s.saveGang k) := by
  have h := State.saveGroups_canonical ((s.gangGroups k).map fun g => g.id) w
  unfold State.saveGang
  split
  · rintro _ ⟨⟩
  next hr => rw [hr] at h; exact leaves_next h
  next u hr =>
    rw [hr] at h
    refine leaves_next (State.setGang_memWf ?_ _)
    have hs : (((u.gangGroups k).foldl State.seePaths u).unlog ((u.gangGroups k).map fun g => g.id)).memWf = true :=
      foldl_memWf (fun wu g => State.seePaths_memWf wu g) _ h
    exact foldl_onGroup_memWf _ (foldl_memWf (fun wu t => State.packTeam_memWf wu _) _ hs)

theorem gangStop_leaves (w : s.memWf = true) (gang : Nat) : Leaves (gangStop s gang) := by
  unfold gangStop
  split
  next k _ =>
    have h := State.stopHeld_memWf w k
    exact leaves_ite (leaves_ite (leaves_next h) (leaves_ite (State.saveGang_leaves h _)
      (leaves_next (State.releaseStops_memWf (State.setGang_memWf h _) _)))) (leaves_next w)
  · exact leaves_next w

theorem State.unpackTeam_memWf (w : s.memWf = true) (t : Team) (base : Nat) : (s.unpackTeam t base).memWf = true := w

theorem State.relog_memWf (w : s.memWf = true) (ids : List Nat) : (s.relog ids).memWf = true := w

theorem State.replaceTeam_memWf (w : s.memWf = true) (lt : Nat) (t : Team) (f : Fit × List Nat) :
    (s.replaceTeam lt t f).memWf = true := by
  unfold State.replaceTeam
  refine State.relog_memWf (State.unpackTeam_memWf (State.setTeam_memWf (foldl_memWf ?_ _ w) _) _ _) _
  exact fun wu _ => wu

theorem State.replaceGang_memWf (w : s.memWf = true) (k : Gang) (lt : Nat) (fs : List (Fit × List Nat)) :
    (s.replaceGang k lt fs).memWf = true := by
  unfold State.replaceGang
  refine foldl_memWf ?_ _ (foldl_memWf (fun wu p => State.replaceTeam_memWf wu _ _ _) _ (State.setGang_memWf w _))
  exact fun wu _ => wu

theorem State.wakeEntries_memWf (w : s.memWf = true) (k : Gang) : (s.wakeEntries k).memWf = true := by
  unfold State.wakeEntries
  exact foldl_memWf (fun wu e => State.resolveEntry_memWf wu _) _ w

theorem State.restoreGang_leaves (w : s.memWf = true) (k : Gang) (spot : Nat × List (Fit × List Nat)) :
    Leaves (s.restoreGang k spot) := by
  have h := State.loadGroups_canonical (((s.replaceGang k spot.1 spot.2).gangGroups k).map fun g => g.id)
    (State.replaceGang_memWf w k spot.1 spot.2)
  unfold State.restoreGang
  dsimp only
  split
  · rintro _ ⟨⟩
  next hr => rw [hr] at h; exact leaves_next h
  next hr => rw [hr] at h; exact leaves_next (State.wakeEntries_memWf (State.releaseStops_memWf h _) _)

/-! ### The SY family -/

theorem State.onCore_memWf (w : s.memWf = true) (g : Group) (f : CoreRegs → CoreRegs) : (s.onCore g f).memWf = true := w

theorem Res.Canonical.sy {c : Ctx} {r : Res} (h : r.Canonical) (w : s.memWf = true) (l : List (Bool × (Cause × W64))) :
    (sy c s l r).Canonical :=
  ((((h.guarded l).once w).rlxGate s).present _).guarded _

theorem State.agentEntry_memWf (w : s.memWf = true) (g : Group) (wr : Bool) : (s.agentEntry g wr).1.memWf = true := by
  unfold State.agentEntry
  dsimp only
  split
  next vmt _ =>
    have h := State.agentSpot_memWf w vmt (s.agent g) (!wr) wr
    split <;> next hp => exact memWf_of_fst hp h
  · exact w

theorem quotaRead_keeps (off : Nat) : KeepsForm (quotaRead off) := by
  intro c s w
  have h := State.agentEntry_memWf w c.g false
  unfold quotaRead
  split
  next hp => exact (memWf_of_fst hp h :)
  next hp =>
    have h := memWf_of_fst hp h
    split <;> exact h
  next hp => exact memWf_of_fst hp h

theorem quotaWrite_keeps : KeepsForm quotaWrite := by
  intro c s w
  have h := State.agentEntry_memWf w c.g true
  refine Res.Canonical.sy ?_ w _
  split
  next hp => exact (memWf_of_fst hp h :)
  next hp => exact State.homeWrite_memWf _ _ _ _ (memWf_of_fst hp h)
  next hp => exact memWf_of_fst hp h

theorem turnPeriodWrite_keeps : KeepsForm turnPeriodWrite := fun _ _ w =>
  Res.Canonical.sy (Res.canonical_ok (State.setDie_memWf w _ _)) w _

theorem State.setCluster_memWf (w : s.memWf = true) (n : Nat) (k : Cluster) : (s.setCluster n k).memWf = true := w

theorem swallowWrite_keeps : KeepsForm swallowWrite := fun _ _ w =>
  Res.Canonical.sy (Res.canonical_ok (State.onCore_memWf (State.setCluster_memWf w _ _) _ _)) w _

theorem droopthWrite_keeps : KeepsForm droopthWrite := fun _ _ w =>
  Res.Canonical.sy (Res.canonical_ok (State.onCore_memWf (State.setCluster_memWf w _ _) _ _)) w _

theorem dampcfgWrite_keeps : KeepsForm dampcfgWrite := fun _ _ w =>
  Res.Canonical.sy (Res.canonical_ok (State.onCore_memWf (State.setCluster_memWf w _ _) _ _)) w _

theorem slewbudgetWrite_keeps : KeepsForm slewbudgetWrite := fun c s w =>
  Res.Canonical.sy (Res.canonical_ok (State.onCore_memWf (s := s.setPartn _ _) w c.g _)) w _

theorem placetabSelect_keeps : KeepsForm placetabSelect := fun c s w =>
  Res.Canonical.sy (c := c) (r := .ok { s with selPlace := fld c.csrVal 11 0 }) w w _

theorem State.swapTile_memWf (w : s.memWf = true) (i : Nat) (v : W64) : (s.swapTile i v).memWf = true := w

theorem State.invalidTile_memWf (w : s.memWf = true) (i : Nat) (v : W64) : (s.invalidTile i v).memWf = true := w

theorem placewr_keeps : KeepsForm placewr := by
  intro c s w
  refine Res.Canonical.sy (Res.canonical_ite (Res.canonical_stall _) (Res.Canonical.guarded (Res.canonical_ok ?_) _)) w _
  split
  · exact State.memWf_ite (State.swapTile_memWf w _ _) (State.invalidTile_memWf w _ _)
  · exact w
  · exact w

theorem healthRead_keeps : KeepsForm healthRead := fun c s w =>
  Res.Canonical.sy (c := c) (r := .ok { c.putS s s.health.word with health := { s.health with tmax := 0, hot := false } }) w w _

theorem healthWrite_keeps : KeepsForm healthWrite := by
  intro c s w
  refine Res.Canonical.sy ?_ w _
  exact w

theorem ringbaseWrite_keeps : KeepsForm ringbaseWrite := fun _ _ w =>
  Res.Canonical.sy (Res.canonical_ok (State.onCore_memWf w _ _)) w _

theorem ctxpoolWrite_keeps : KeepsForm ctxpoolWrite := fun _ _ w =>
  Res.Canonical.sy (Res.canonical_ok (State.setDie_memWf w _ _)) w _

theorem State.shrinkSlices_memWf (l : List SLine) : ∀ {s : State}, s.memWf = true → (s.shrinkSlices l).memWf = true := by
  induction l with
  | nil => exact fun w => w
  | cons a l ih =>
    intro s w
    unfold State.shrinkSlices
    split
    · split
      · exact ih (State.evict_memWf _ w)
      · exact ih w
    · exact ih w

theorem collcfgWrite_keeps : KeepsForm collcfgWrite := fun _ _ w =>
  Res.Canonical.sy (Res.canonical_ok (State.shrinkSlices_memWf _ (State.setDie_memWf w _ _))) w _

theorem cqbaseWrite_keeps : KeepsForm cqbaseWrite := fun _ _ w =>
  Res.Canonical.sy (Res.canonical_ok (State.setDie_memWf w _ _)) w _

theorem ckptctlWrite_keeps : KeepsForm ckptctlWrite := by
  intro c s w
  refine Res.Canonical.sy (Res.Canonical.readsTable (Res.Canonical.guarded ?_ _) w _ _) w _
  exact w

theorem csrrdp_keeps : KeepsForm csrrdp := by
  intro c s w
  unfold csrrdp
  dsimp only
  split
  · exact Res.Canonical.sy (quotaRead_keeps 8 c s w) w _
  · exact Res.Canonical.sy (quotaRead_keeps 16 c s w) w _
  · exact healthRead_keeps c s w
  · refine Res.Canonical.rlxGate (Res.Canonical.once (Res.canonical_ite ?_ ?_) w) _
    · split
      · exact w
      · exact Res.canonical_ofPair _
    · have h := State.csrRead_memWf w c.g (csrNumA c.o)
      split
      · exact Res.canonical_ofPair _
      next hr => exact Res.canonical_ite (Res.canonical_stall _) (Res.canonical_ok (memWf_of_fst hr h :))

theorem plainWrite_keeps (n : Nat) : KeepsForm (plainWrite n) := by
  intro c s w
  unfold plainWrite
  dsimp only
  split
  · exact Res.Canonical.sy (r := .ok (c.upd s _)) w w _
  · exact Res.Canonical.sy (r := .ok (c.upd s _)) w w _
  · exact Res.Canonical.sy (r := .ok { s.onCore c.g _ with vmtbase := _ }) w w _
  · refine Res.Canonical.rlxGate (Res.Canonical.once (Res.canonical_ite (Res.canonical_ofPair _) ?_) w) _
    have h := State.csrWrite_canonical w c.g n c.csrVal
    split
    · exact Res.canonical_ofPair _
    · trivial
    next hr => exact (congrArg WRes.Canonical hr).mp h

theorem csrwrp_keeps : KeepsForm csrwrp := by
  intro c s w
  unfold csrwrp
  split
  · exact quotaWrite_keeps c s w
  · exact quotaWrite_keeps c s w
  · exact turnPeriodWrite_keeps c s w
  · exact swallowWrite_keeps c s w
  · exact droopthWrite_keeps c s w
  · exact dampcfgWrite_keeps c s w
  · exact slewbudgetWrite_keeps c s w
  · exact placetabSelect_keeps c s w
  · exact healthWrite_keeps c s w
  · exact ringbaseWrite_keeps c s w
  · exact ringbaseWrite_keeps c s w
  · exact ctxpoolWrite_keeps c s w
  · exact collcfgWrite_keeps c s w
  · exact cqbaseWrite_keeps c s w
  · exact ckptctlWrite_keeps c s w
  · exact plainWrite_keeps _ c s w

theorem wfi_keeps : KeepsForm wfi := by
  intro c s w
  refine Res.Canonical.sy ?_ w _
  generalize s.ringWork c.core = work
  split
  · exact w
  · exact Res.canonical_ite (Res.canonical_ok (State.onCore_memWf w _ _)) (Res.canonical_stay (t := c.upd s _) w)

theorem wfiWake_memWf (w : s.memWf = true) (n : Nat) : (wfiWake s n).memWf = true := by
  unfold wfiWake
  split
  · split
    · exact State.memWf_ite w (State.memWf_ite (State.onGroup_memWf (State.memWf_ite w (State.onCore_memWf w _ _)) _ _)
        (State.onCore_memWf w _ _))
    · exact w
  · exact w

theorem halt_keeps : KeepsForm fun c s => sy c s [] (.stay (c.upd s fun g => { g.advance c.words true with hold := .halted })) :=
  fun c s w => Res.Canonical.sy (r := .stay (c.upd s _)) w w _

theorem coreRestart_memWf (w : s.memWf = true) (n : Nat) : (coreRestart s n).memWf = true := by
  unfold coreRestart
  split
  · exact State.memWf_ite (State.onGroup_memWf w _ _) w
  · exact w

theorem coreFault_memWf (w : s.memWf = true) (n : Nat) : (coreFault s n).memWf = true := by
  unfold coreFault
  split
  · exact State.memWf_ite w w
  · exact w

theorem foldl_flushGathers_memWf (l : List Nat) (p : Gather → Bool) (w : s.memWf = true) :
    (l.foldl (fun s d => s.flushGathers d p) s).memWf = true := foldl_memWf (fun wu d => State.flushGathers_memWf wu d p) l w

theorem tlbinv_keeps : KeepsForm tlbinv := fun _ _ w =>
  Res.Canonical.sy (Res.canonical_ite (Res.canonical_stall _) (Res.canonical_ok (t := State.dropTlbs _ _)
    (foldl_flushGathers_memWf _ _ w))) w _

theorem tlbharv_keeps : KeepsForm fun c s => sy c s [] (.ok (s.dieNums.foldl (fun s d => s.flushGathers d fun _ => true) s)) :=
  fun _ _ w => Res.Canonical.sy (Res.canonical_ok (foldl_flushGathers_memWf _ _ w)) w _

theorem ctxsave_keeps : KeepsForm ctxsave := by
  intro c s w
  have answer {u : State} (wu : u.memWf = true) (v : Nat) :
      (Res.ok ((c.putS u (w64 v)).onCore c.g fun k => { k with saving := none })).Canonical := wu
  refine Res.Canonical.sy ?_ w _
  split
  · split
    · split
      · exact answer (State.setGang_memWf w _) 0
      · trivial
      · exact answer w 2
      · exact answer w 1
    · exact answer w 1
  · split
    · exact answer w 1
    · split
      · exact Res.canonical_ite (answer w 2) (State.requestStop_memWf w _ _ :)
      · exact Res.canonical_ite (answer w 3) (Res.canonical_ite (answer w 2) (State.askPreempt_memWf w _ :))
      · exact answer w 1

theorem ctxload_keeps : KeepsForm ctxload := by
  intro c s w
  refine Res.Canonical.sy ?_ w _
  split
  · exact Res.canonical_ite w w
  · exact w

theorem fringCons_keeps : KeepsForm fringCons := by
  intro c s w
  refine Res.Canonical.sy ?_ w _
  dsimp only
  split
  · exact w
  · exact Res.Canonical.guarded (r := .ok (Ctx.putS _ _ _)) (State.homeWrite_memWf _ _ _ _ w) _

theorem onToken_keeps {more : Token → List (Bool × (Cause × W64))} {f : State → Token → State}
    (hf : ∀ {u : State}, u.memWf = true → ∀ t, (f u t).memWf = true) : KeepsForm fun c s => onToken c s more f := by
  intro c s w
  refine Res.Canonical.sy ?_ w _
  split
  · exact Res.Canonical.guarded (r := .ok (Ctx.putS _ _ _)) (hf w _) _
  · exact w

/-! ### Power and failures -/

theorem swallowPatternApply_memWf (w : s.memWf = true) (cluster : Nat) : (swallowPatternApply s cluster).memWf = true :=
  State.memWf_ite (State.setCluster_memWf w _ _) w

theorem tileHot_memWf (w : s.memWf = true) (tile : Nat) : (tileHot s tile).memWf = true := by
  unfold tileHot
  exact State.memWf_ite (t := { s with health := _ }) w w

theorem overTemperatureStop_memWf (w : s.memWf = true) (tile : Nat) : (overTemperatureStop s tile).memWf = true := by
  unfold overTemperatureStop
  split <;> exact w

theorem State.stopTile_memWf (w : s.memWf = true) (pt : Nat) : (s.stopTile pt).memWf = true := by
  unfold State.stopTile
  exact foldl_memWf (fun wu k => State.memWf_ite (State.askPreempt_memWf wu k) wu) _ w

theorem State.loseTile_memWf (w : s.memWf = true) (lt pt : Nat) : (s.loseTile lt pt).memWf = true := by
  unfold State.loseTile
  refine State.invalidTile_memWf (foldl_memWf (fun wu k => ?_) _ w) _ _
  split
  · exact State.memWf_ite wu (State.killWork_memWf wu _ _)
  · exact wu

theorem tileFailure_memWf (w : s.memWf = true) (tile rows : Nat) : (tileFailure s tile rows).memWf = true := by
  unfold tileFailure
  refine State.memWf_ite w (State.memWf_ite (State.memWf_ite (State.stopTile_memWf (State.setTile_memWf w _ _) _) w) ?_)
  have h := State.setTile_memWf w tile { s.tile tile with failed := true }
  dsimp only
  split
  · exact h
  · split
    · exact State.loseTile_memWf h _ _
    · exact State.memWf_ite (State.swapTile_memWf h _ _) (State.stopTile_memWf h _)

end

end Sys2Proof.Machine
end

section
/-! The same of local accesses, copies as they issue, and barrier objects (05 R97 to R124). -/
namespace Sys2Proof.Machine
open Sys2Proof.Stated

section
variable {s : State}

theorem Ctx.putV_memWf (w : s.memWf = true) (c : Ctx) (k : Nat) (f : Nat → W32) (t : BitVec 4) : (c.putV s k f t).memWf = true := w

theorem Ctx.llRecord_memWf (w : s.memWf = true) (c : Ctx) (n : Nat) (store : Bool) (data : Nat → List Byte) :
    (c.llRecord s n store data).memWf = true := by
  unfold Ctx.llRecord
  split
  · exact foldl_memWf (fun wu p => State.kilnRecord_memWf wu _ _ _) _ w
  · exact w

theorem ldl_keeps (n : Nat) (signed : Bool) : KeepsForm (ldl n signed) := fun c _ w =>
  ((Res.canonical_ite (Res.canonical_stall _)
    (Res.canonical_ok (foldl_memWf (fun wu k => Ctx.putV_memWf wu c k _ _) _ (Ctx.llRecord_memWf w c _ _ _)))).afterAcquires).checked _ _ _

theorem stl_keeps (n : Nat) : KeepsForm (stl n) := fun _ _ w =>
  ((Res.canonical_ite (Res.canonical_ok (Ctx.llRecord_memWf w _ _ _ _)) (Res.canonical_ite (Res.canonical_stall _)
    (Res.canonical_ok (foldl_memWf (fun wu _ => State.windowWrite_memWf wu _ _ _) _ w)))).afterAcquires).checked _ _ _

/-- The lanes of a local atomic, one after another. -/
theorem foldl_windowWrite_memWf {α β : Type} (team off : α → Nat) (bytes : State × List β → α → List Byte)
    (old : State × List β → α → β) (l : List α) : ∀ {a : State × List β}, a.1.memWf = true →
    (l.foldl (fun a p => (a.1.windowWrite (team p) (off p) (bytes a p), old a p :: a.2)) a).1.memWf = true := by
  induction l with
  | nil => exact id
  | cons p l ih => exact fun w => ih (a := (_, _)) (State.windowWrite_memWf w _ _ _)

theorem localAtomic_keeps (op : AOp) (tags : Ctx → List TagCheck) (tag : Ctx → BitVec 4) : KeepsForm (localAtomic op tags tag) :=
  fun c s w => ((Res.canonical_ite (Res.canonical_stall _) (Res.canonical_ok (Ctx.putV_memWf
    (foldl_windowWrite_memWf _ _ _ _ (c.llPlaces s 4) (a := (s, [])) w) c 0 _ _))).afterAcquires).checked _ _ _

theorem State.enterCopy_memWf (w : s.memWf = true) (cp : Copy) (l : List (Nat × Score)) : (s.enterCopy cp l).memWf = true :=
  foldl_memWf (f := fun u (p : Nat × Score) => u.setTile p.1 { u.tile p.1 with scores := (u.tile p.1).scores ++ [p.2] })
    (fun wu _ => State.setTile_memWf wu _ _) l (s := { s with copies := s.copies ++ [cp] }) w

theorem copyOp_keeps (n : Nat) : KeepsForm (copyOp n) := by
  intro c s w
  unfold copyOp
  dsimp only
  refine Res.Canonical.checked ?_ _ _ _
  refine Res.canonical_ite (Res.canonical_ok w) ?_
  refine Res.canonical_ite (Res.canonical_stall _) ?_
  refine Res.canonical_ite (Res.canonical_ok w) ?_
  exact Res.canonical_ok (State.enterCopy_memWf (s := s.takeId.2) w _ _)

theorem State.closeBatch_memWf (w : s.memWf = true) (g : Group) (d : Dest) : (s.closeBatch g d).memWf = true := w

theorem cpseal_keeps : KeepsForm cpseal := fun c _ w =>
  ((Res.canonical_ite (Res.canonical_stay (State.onGroup_memWf w c.g.id _))
    (Res.canonical_ok (State.closeBatch_memWf w _ _))).once w).rlxGate _

theorem cpwait_keeps : KeepsForm cpwait := by
  intro c s w
  unfold cpwait
  refine (Res.Canonical.once ?_ w).rlxGate _
  dsimp only
  split
  · exact w
  · split
    · exact w
    · exact w

theorem cpmc_keeps : KeepsForm cpmc := by
  intro c s w
  unfold cpmc
  refine Res.Canonical.checked ?_ _ _ _
  split
  · dsimp only
    refine Res.canonical_ite (Res.canonical_ok w) ?_
    refine Res.canonical_ite (Res.canonical_stall _) ?_
    refine Res.canonical_ok ?_
    refine State.memWf_ite ?_ ?_
    · exact State.barTest_memWf (State.setBar_memWf (State.enterCopy_memWf (s := s.takeId.2) w _ _) _ _ _) _ _
    · exact State.setStray_memWf (State.enterCopy_memWf (s := s.takeId.2) w _ _) _ _
  · exact w

theorem onBarrier_canonical (w : s.memWf = true) (c : Ctx) (more : List (Bool × (Cause × W64))) {f : Nat → Nat → Nat → Res}
    (h : ∀ t off d, (f t off d).Canonical) : (onBarrier c s more f).Canonical := by
  unfold onBarrier
  refine (Res.Canonical.once ?_ w).rlxGate _
  split
  · trivial
  · exact (h _ _ _).guarded _

theorem binit_keeps : KeepsForm binit := by
  intro c s w
  unfold binit
  refine onBarrier_canonical w c _ fun t off d => Res.Canonical.guarded ?_ _
  exact Res.canonical_ok (State.setBar_memWf (State.setBarriers_memWf w _ _) _ _ _)

theorem barrive_keeps : KeepsForm barrive := fun c _ w =>
  onBarrier_canonical w c _ fun _ _ _ =>
    ((Res.canonical_ok (State.barTest_memWf (State.setBar_memWf w _ _ _) _ _)).afterRelease _).guarded _

theorem bexpect_keeps : KeepsForm bexpect := by
  intro c s w
  unfold bexpect
  refine onBarrier_canonical w c _ fun t off d => Res.Canonical.guarded ?_ _
  exact Res.canonical_ok (State.barTest_memWf (State.setBar_memWf w _ _ _) _ _)

theorem barrierPoll_keeps (wait : Bool) : KeepsForm (barrierPoll wait) := fun c s w =>
  onBarrier_canonical w c _ fun t off _ =>
    Res.canonical_ite w (Res.canonical_ite
      (Res.canonical_ok (State.acquireAt_memWf (s := c.putP s c.fd c.act) w _ _))
      (Res.canonical_ite (Res.canonical_stay (State.setBar_memWf w t off _)) w))

theorem binval_keeps : KeepsForm binval := fun c _ w =>
  onBarrier_canonical w c _ fun _ _ _ =>
    (Res.canonical_ok (State.releaseWaiters_memWf (State.setBarriers_memWf (State.windowWrite_memWf w _ _ _) _ _) _ _ _)).guarded _

theorem bteam_keeps : KeepsForm bteam := by
  intro c s w
  unfold bteam
  refine (Res.Canonical.once ?_ w).rlxGate _
  split
  · exact w
  · refine Res.Canonical.afterRelease ?_ _
    exact State.bteamCheck_memWf (s := (s.setTeam _).onGroup _ _) w _

theorem back_keeps : KeepsForm back := by
  intro c s w
  refine onBarrier_canonical w c _ fun t off d => Res.Canonical.guarded ?_ _
  split
  · exact w
  · exact w

end

end Sys2Proof.Machine
end

section
/-! The same of the life of a launch or job, and of turns (16 R286 to R302, 17 R307, R308, 18 R327 to R337). -/
namespace Sys2Proof.Machine
open Sys2Proof.Stated

section
variable {s : State}

theorem State.workHeld_memWf (w : s.memWf = true) (k : Work) (t : Option Nat) : (s.workHeld k t).memWf = true := w

theorem State.register_leaves (w : s.memWf = true) (k : Work) : Leaves (s.register k) := by
  unfold State.register
  refine leaves_ite (leaves_next (State.makeReady_memWf w _)) ?_
  have h := State.engine_memWf w k.agent (k.depctr.toNat / 8 * 8) 8 .read (.work k.id)
  split
  · rintro _ ⟨⟩
  next hp => exact leaves_next (State.workHeld_memWf (memWf_of_fst hp h) _ _)
  next hp =>
    have hu := memWf_of_fst hp h
    refine leaves_ite (leaves_next (State.makeReady_memWf hu _)) (leaves_ite (leaves_next hu) (leaves_next ?_))
    exact State.setWork_memWf (State.setDie_memWf hu _ _) _

theorem depctrRegister_leaves (w : s.memWf = true) (id : Nat) : Leaves (depctrRegister s id) := by
  unfold depctrRegister
  split
  next k _ =>
    refine leaves_ite (leaves_next w) ?_
    split
    · have h := State.engine_memWf w k.submitter k.addr.toNat 256 .read (.work k.id)
      split
      · rintro _ ⟨⟩
      next hp => exact leaves_next (State.workHeld_memWf (memWf_of_fst hp h) _ _)
      next hp => exact State.register_leaves (State.setWork_memWf (memWf_of_fst hp h) _) _
    · exact State.register_leaves (State.setWork_memWf w _) _
  · exact leaves_next w

theorem State.nameLaunch_memWf (w : s.memWf = true) (k : Work) : (s.nameLaunch k).1.memWf = true := by
  unfold State.nameLaunch
  split
  · exact w
  · exact w

theorem State.startLaunch_memWf (w : s.memWf = true) (k : Work) : (s.startLaunch k).memWf = true := by
  have h := State.nameLaunch_memWf w k
  unfold State.startLaunch
  dsimp only
  split
  · exact State.setWork_memWf h _
  · exact State.setWork_memWf h _

theorem launchReady_leaves (w : s.memWf = true) (id : Nat) : Leaves (launchReady s id) := by
  unfold launchReady
  split
  next k _ =>
    refine leaves_ite (leaves_next w) (leaves_ite (leaves_next (State.startLaunch_memWf w _)) ?_)
    have h := State.engine_memWf w k.submitter k.addr.toNat 256 .read (.work k.id)
    split
    · rintro _ ⟨⟩
    next hp => exact leaves_next (State.workHeld_memWf (memWf_of_fst hp h) _ _)
    next hp => exact leaves_next (State.startLaunch_memWf (memWf_of_fst hp h) _)
  · exact leaves_next w

theorem jobReady_memWf (w : s.memWf = true) (id : Nat) : (jobReady s id).memWf = true := by
  unfold jobReady
  split
  · refine State.memWf_ite w ?_
    split
    · exact State.setWork_memWf w _
    · exact State.setWork_memWf w _
  · exact w

theorem groupRetire_memWf (w : s.memWf = true) (grp : Nat) : (groupRetire s grp).memWf = true := by
  unfold groupRetire
  split
  · exact State.memWf_ite w (show (State.retryCopies (s.onGroup grp _) grp).memWf = true from w)
  · exact w

theorem teamRetire_memWf (w : s.memWf = true) (team : Nat) : (teamRetire s team).memWf = true := by
  unfold teamRetire
  split
  · refine State.memWf_ite w (State.gangCheck_memWf ?_ _)
    split
    · exact State.setWork_memWf (State.releaseTeam_memWf w _) _
    · exact State.releaseTeam_memWf w _
  · exact w

/-- The memories have the form in the state that a completion record leaves. -/
def DoneRes.Canonical : DoneRes → Prop
  | .done t => t.memWf = true
  | .waits t => t.memWf = true
  | .reg => True

theorem State.writeDone_canonical (w : s.memWf = true) (k : Work) : (s.writeDone k).Canonical := by
  unfold State.writeDone
  have hf : (s.dieNums.foldl (fun s d => s.flushGathers d fun g => g.works.contains k.id) s).memWf = true :=
    foldl_flushGathers_memWf _ _ w
  revert hf
  generalize s.dieNums.foldl (fun s d => s.flushGathers d fun g => g.works.contains k.id) s = u
  intro hf
  dsimp only
  split
  · exact hf
  · split
    · split
      next hp => exact State.postNotice_memWf hp hf
      · exact hf
    · have h := State.engine_memWf hf k.agent k.done.toNat 16 .atomic (.work k.id)
      split
      · trivial
      next hp => exact State.workHeld_memWf (memWf_of_fst hp h) _ _
      next hp => exact State.counterDec_memWf (State.homeWrite_memWf _ _ _ _ (memWf_of_fst hp h)) _ _

theorem State.removeWork_memWf (w : s.memWf = true) (k : Work) : (s.removeWork k).memWf = true := by
  unfold State.removeWork
  refine State.cqDone_memWf ?_ _
  exact w

theorem State.complete_leaves (w : s.memWf = true) (k : Work) : Leaves (s.complete k) := by
  have h := State.writeDone_canonical w k
  unfold State.complete
  split
  · rintro _ ⟨⟩
  next hr => rw [hr] at h; exact leaves_next h
  next hr =>
    rw [hr] at h
    split
    · exact leaves_next (State.removeWork_memWf h _)
    · exact leaves_next (State.cqDone_memWf (State.setWork_memWf h _) _)

theorem launchRetire_leaves (w : s.memWf = true) (id : Nat) : Leaves (launchRetire s id) := by
  unfold launchRetire
  split
  · exact leaves_ite (leaves_next w) (State.complete_leaves w _)
  · exact leaves_next w

theorem jobComplete_leaves (w : s.memWf = true) (id : Nat) : Leaves (jobComplete s id) := by
  unfold jobComplete
  split
  · exact leaves_ite (leaves_next w) (State.complete_leaves w _)
  · exact leaves_next w

theorem childCompletion_memWf (w : s.memWf = true) (id : Nat) : (childCompletion s id).memWf = true := by
  unfold childCompletion
  split
  · exact State.memWf_ite (State.removeWork_memWf (State.addOut_memWf w _ _) _) w
  · exact w

/-! ### Turns -/

theorem State.pairUp_memWf (w : s.memWf = true) (h c : Block) : (s.pairUp h c).memWf = true :=
  foldl_memWf (fun wu k => State.requestStop_memWf wu k true) _ (State.setDie_memWf w _ _)

theorem State.pairAll_memWf (die : Nat) (l : List Block) : ∀ {s : State}, s.memWf = true → (s.pairAll die l).memWf = true := by
  induction l with
  | nil => exact fun w => w
  | cons h l ih =>
    intro s w
    unfold State.pairAll
    refine State.memWf_ite w (State.memWf_ite (ih w) ?_)
    split
    · exact ih (State.memWf_ite (State.pairUp_memWf w _ _) w)
    · exact ih w

theorem turnStart_memWf (w : s.memWf = true) (die : Nat) : (turnStart s die).memWf = true :=
  State.memWf_ite (State.pairAll_memWf _ _ w) w

theorem State.endTurn_memWf (w : s.memWf = true) (k : Gang) : (s.endTurn k).memWf = true := by
  have h := State.releaseStops_memWf (State.setGang_memWf w { k with state := .running, preempt := false })
    { k with state := .running, preempt := false }
  exact State.memWf_ite (State.stopSince_memWf h _ _ _) h

theorem State.endPair_memWf (w : s.memWf = true) (die n : Nat) (p : TurnPair) : (s.endPair die n p).memWf = true :=
  foldl_memWf (fun wu k => State.endTurn_memWf wu k) _ (State.setDie_memWf w _ _)

theorem turnAbandon_memWf (w : s.memWf = true) (die n : Nat) : (turnAbandon s die n).memWf = true := by
  unfold turnAbandon
  split
  · exact State.memWf_ite (State.endPair_memWf w _ _ _) w
  · exact w

theorem State.swapContents_memWf (w : s.memWf = true) (a b : Nat) : (s.swapContents a b).memWf = true := w

theorem State.swapEntries_memWf (w : s.memWf = true) (a b : Nat) : (s.swapEntries a b).memWf = true := w

theorem turnExchangeEnd_memWf (w : s.memWf = true) (die n : Nat) : (turnExchangeEnd s die n).memWf = true := by
  unfold turnExchangeEnd
  split
  · refine State.memWf_ite w (State.endPair_memWf (State.relog_memWf ?_ _) _ _ _)
    exact foldl_memWf (fun wu i => State.swapEntries_memWf (State.swapContents_memWf wu _ _) _ _) _ w
  · exact w

end

end Sys2Proof.Machine
end

section
/-! The same of what one step takes up, and of the master clock (16 R295, R296, 20 R344 to R351). -/
namespace Sys2Proof.Machine
open Sys2Proof.Stated

section
variable {s : State}

/-! ### The master clock -/

theorem State.countCyc_memWf (w : s.memWf = true) : s.countCyc.memWf = true := w
theorem State.countPass_memWf (w : s.memWf = true) : s.countPass.memWf = true := w
theorem State.turnPartns_memWf (w : s.memWf = true) : s.turnPartns.memWf = true := w
theorem State.applyExp_memWf (w : s.memWf = true) : s.applyExp.memWf = true := w
theorem State.markQuiet_memWf (w : s.memWf = true) : s.markQuiet.memWf = true := w
theorem State.order_memWf (w : s.memWf = true) (l : List Nat) : (s.order l).memWf = true := w

theorem State.clockClusters_memWf (l : List Nat) : ∀ {s : State}, s.memWf = true → (s.clockClusters l).2.memWf = true := by
  induction l with
  | nil => exact id
  | cons n l ih => exact fun w => ih (State.setCluster_memWf w n _)

theorem State.retryWaits_memWf (w : s.memWf = true) : s.retryWaits.memWf = true := by
  unfold State.retryWaits
  refine foldl_memWf (fun wu d => State.refire_memWf wu d none) _ ?_
  refine foldl_memWf (fun wu g => State.payOwed_memWf wu g) _ ?_
  refine foldl_memWf (fun wu k => ?_) _ w
  split
  · exact State.stopHeld_memWf wu k
  · exact wu

theorem State.withAgenda_memWf (w : s.memWf = true) (l : List Instr) : ({ s with agenda := l } : State).memWf = true := w
theorem State.withMuted_memWf (w : s.memWf = true) (l : List Nat) : ({ s with muted := l } : State).memWf = true := w
theorem State.withIssueq_memWf (w : s.memWf = true) (l : List Nat) : ({ s with issueq := l } : State).memWf = true := w
theorem State.newClock_memWf (w : s.memWf = true) : ({ s with time := s.time + 1, used := [] } : State).memWf = true := w

theorem masterClock_memWf (w : s.memWf = true) : (masterClock s).memWf = true := by
  have ht := State.applyExp_memWf (State.turnPartns_memWf (State.newClock_memWf (State.countCyc_memWf w)))
  exact State.withAgenda_memWf (State.order_memWf (State.withMuted_memWf (State.markQuiet_memWf (State.retryWaits_memWf
    (State.countPass_memWf (State.clockClusters_memWf _ ht)))) _) _) _

/-! ### One step -/

/-- The meaning of instructions and events that a step is given keeps the form. -/
def KeepsAll (ex : Instr → State → Out) : Prop := ∀ i u, u.memWf = true → Leaves (ex i u)

theorem boundaryFetch_leaves (w : s.memWf = true) (g : Group) (addr : W64) (f : FRes) : Leaves (boundaryFetch g addr f s) :=
  Ctx.settle_leaves _ w (fetchRes_canonical w _ _)

theorem runBoundary_leaves {ex : Instr → State → Out} (hex : KeepsAll ex) (w : s.memWf = true) (g : Group) :
    Leaves (runBoundary ex g s) := by
  unfold runBoundary
  dsimp only
  split
  · exact hex _ _ w
  next g' addr set _ =>
    refine leaves_ite (hex _ _ w) ?_
    have h := State.fetchWord_memWf w g' addr
    split
    next hp =>
      split
      · exact leaves_next (State.raise_memWf (State.setGroup_memWf (memWf_of_fst hp h) _) _ _)
      · exact hex _ _ (memWf_of_fst hp h)
    next hp => exact boundaryFetch_leaves (State.setGroup_memWf (memWf_of_fst hp h) _) _ _ _

theorem State.spend_memWf (w : s.memWf = true) (g : Group) (lanes : Nat) : (s.spend g lanes).memWf = true := by
  unfold State.spend
  split
  · exact w
  · exact w

theorem State.ageLater_memWf (w : s.memWf = true) (g : Group) : (s.ageLater g).memWf = true :=
  State.memWf_ite w (State.onGroup_memWf w g.id _)

theorem State.passedOver_memWf {t : State} {g : Group} {lanes : Nat} (h : s.passedOver g lanes = some t) (w : s.memWf = true) :
    t.memWf = true := by
  unfold State.passedOver at h
  dsimp only at h
  split_ifs at h
  · cases h; exact w
  · cases h; exact w
  · cases h; exact w

theorem State.arbitrate_leaves (w : s.memWf = true) (g : Group) (lanes : Nat) {r : Out} (h : Leaves r) :
    Leaves (s.arbitrate g lanes r) := by
  unfold State.arbitrate
  refine leaves_ite h ?_
  split
  next hp =>
    exact leaves_next (State.memWf_ite (State.ageLater_memWf (h _ rfl) _) (State.passedOver_memWf hp w))
  next hp => exact leaves_next (State.passedOver_memWf hp w)
  · exact leaves_next (State.memWf_ite (State.ageLater_memWf (State.spend_memWf (h _ rfl) _ _) _) (State.ageLater_memWf (h _ rfl) _))
  · exact h

theorem ageAfter_leaves (g : Group) {r : Out} (h : Leaves r) : Leaves (ageAfter g r) := by
  unfold ageAfter
  split
  · exact leaves_next (State.ageLater_memWf (h _ rfl) _)
  · exact h

theorem runClause_leaves {ex : Instr → State → Out} (hex : KeepsAll ex) (w : s.memWf = true) (g : Group) (cl : Clause) :
    Leaves (runClause ex g cl s) := by
  have h := State.fetchInstr_memWf w g cl.next
  unfold runClause
  dsimp only
  split
  next hp => exact ageAfter_leaves _ (Ctx.settle_leaves _ (memWf_of_fst hp h) (fetchRes_canonical (memWf_of_fst hp h) _ _))
  next hp =>
    have hu := memWf_of_fst hp h
    split
    · exact State.arbitrate_leaves hu _ _ (Ctx.settle_leaves _ hu (Res.canonical_ofPair _))
    · exact State.arbitrate_leaves hu _ _ (hex _ _ hu)

theorem afterHeader_leaves (id : Nat) {r : Out} (h : Leaves r) : Leaves (afterHeader id r) := by
  unfold afterHeader
  split
  · split
    · exact leaves_next (State.memWf_ite (State.withIssueq_memWf (h _ rfl) _) (State.ageLater_memWf (h _ rfl) _))
    · exact h
  · exact h

theorem runContext_leaves {ex : Instr → State → Out} (hex : KeepsAll ex) (w : s.memWf = true) (id : Nat) :
    Leaves (runContext ex id s) := by
  have h : ({ s with issueq := s.issueq.drop 1, cur := id } : State).memWf = true := w
  unfold runContext
  dsimp only
  split
  · exact leaves_next h
  · refine leaves_ite (leaves_next (State.ageLater_memWf h _)) ?_
    split
    · exact afterHeader_leaves _ (runBoundary_leaves hex h _)
    · exact leaves_ite (leaves_next (State.stopGroup_memWf h _)) (runClause_leaves hex h _ _)

theorem runClock_leaves {ex : Instr → State → Out} (hex : KeepsAll ex) (w : s.memWf = true) : Leaves (runClock ex s) := by
  unfold runClock
  split
  · exact hex _ _ w
  · exact leaves_next w
  · exact leaves_ite (hex _ _ w) (hex _ _ w)

/-- A STEP KEEPS THE FORM where the instructions and events do. -/
theorem runStep_leaves {ex : Instr → State → Out} (hex : KeepsAll ex) (w : s.memWf = true) : Leaves (runStep ex s) := by
  unfold runStep
  split
  · exact hex _ _ w
  · have h : ({ s with sched := if s.chosen then s.sched else s.sched + 1, chosen := false } : State).memWf = true := w
    dsimp only
    split
    · exact hex _ _ h
    · split
      · exact runContext_leaves hex h _
      · exact runClock_leaves hex h

end

end Sys2Proof.Machine
end

section
/-! The same of what happens after issue, and of control flow and loops (02 R38, R39, 03 R48, R55, R58, 04 R70, R86, 06 R139 to R152). -/
namespace Sys2Proof.Machine
open Sys2Proof.Stated

section
variable {s : State}

/-! ### Completion of instructions in the log -/

theorem State.deliverLane_memWf (w : s.memWf = true) (e : LogEntry) (n : Nat) (signed : Bool) (lane v : Nat) :
    (s.deliverLane e n signed lane v).memWf = true := w

theorem State.markWritten_memWf (w : s.memWf = true) (id lane : Nat) : (s.markWritten id lane).memWf = true := w

theorem State.finishWhole_memWf (w : s.memWf = true) (id : Nat) : (s.finishWhole id).memWf = true := by
  unfold State.finishWhole
  split
  · exact State.memWf_ite (State.finishEntry_memWf w _) w
  · exact w

theorem State.loadLanes_memWf (id n : Nat) (signed : Bool) (l : List Nat) : ∀ {s : State}, s.memWf = true →
    (s.loadLanes id n signed l).memWf = true := by
  induction l with
  | nil => exact fun w => State.finishWhole_memWf w id
  | cons lane l ih =>
    intro s w
    have h := State.bindLane_canonical w id lane
    unfold State.loadLanes
    split
    next hb => rw [hb] at h; exact h
    · exact ih w
    next hb =>
      rw [hb] at h
      split
      · exact h
      · split
        · refine State.memWf_ite (State.finishEntry_memWf ?_ _) (ih (State.markWritten_memWf ?_ _ _))
          · exact State.deliverLane_memWf h _ _ _ _ _
          · exact State.deliverLane_memWf h _ _ _ _ _
        · exact ih h

theorem State.atomicLanes_memWf (w : s.memWf = true) (e : LogEntry) (n : Nat) (sext : Bool) (lanes : Nat) :
    (s.atomicLanes e n sext lanes).memWf = true := by
  unfold State.atomicLanes
  split
  · exact w
  · refine State.finishWhole_memWf (foldl_memWf ?_ _ w) _
    exact fun wu _ => wu

theorem State.setNbp_memWf (w : s.memWf = true) (e : LogEntry) (v : Mask) : (s.setNbp e v).memWf = true := by
  unfold State.setNbp
  split
  · exact w
  · exact w

theorem State.takeValue_memWf (w : s.memWf = true) (e : LogEntry) (v : W64) : (s.takeValue e v).memWf = true := w

theorem State.dreadDone_memWf (w : s.memWf = true) (g : Group) (e : LogEntry) : (s.dreadDone g e).memWf = true := by
  unfold State.dreadDone
  split
  · exact State.memWf_ite w (State.memWf_ite (State.freezeEntry_memWf w _ _ _ _ _) (State.takeValue_memWf w _ _))
  · exact w

theorem State.jobStatus_memWf (w : s.memWf = true) (h : W64) : (s.jobStatus h).2.memWf = true := by
  unfold State.jobStatus
  split
  · exact w
  · dsimp only
    split
    · exact w
    · exact w

/-- Lanes that are delivered one after another. -/
theorem foldl_deliverLane_memWf {α : Type} (e : LogEntry) (n : Nat) (signed : Bool) (lane v : α → Nat) (l : List α)
    (w : s.memWf = true) : (l.foldl (fun s p => s.deliverLane e n signed (lane p) (v p)) s).memWf = true :=
  foldl_memWf (fun wu _ => State.deliverLane_memWf wu _ _ _ _ _) _ w

theorem State.completeEntry_memWf (w : s.memWf = true) (g : Group) (e : LogEntry) (lanes : Nat) :
    (s.completeEntry g e lanes).memWf = true := by
  unfold State.completeEntry
  split
  · exact State.finishEntry_memWf (State.setNbp_memWf w _ _) _
  · exact State.loadLanes_memWf _ _ _ _ w
  · exact State.atomicLanes_memWf w _ _ _ _
  · exact State.pldFinish_memWf w _ _ _
  · exact State.memWf_ite (State.finishEntry_memWf w _) w
  · exact State.memWf_ite (State.finishEntry_memWf w _) w
  · exact w
  · exact State.memWf_ite w (State.finishEntry_memWf (foldl_deliverLane_memWf _ _ _ _ _ _ w) _)
  · exact State.memWf_ite w (State.finishEntry_memWf (State.setNbp_memWf (foldl_deliverLane_memWf _ _ _ _ _ _ w) _ _) _)
  · split
    · exact w
    · exact State.finishEntry_memWf (State.setNbp_memWf (foldl_deliverLane_memWf _ _ _ _ _ _ w) _ _) _
  · exact State.dreadDone_memWf w _ _
  · exact State.takeValue_memWf (State.jobStatus_memWf w _) _ _
  · exact State.takeValue_memWf w _ _

theorem vlComplete_leaves (w : s.memWf = true) (id lanes : Nat) : Leaves (vlComplete s id lanes) := by
  unfold vlComplete
  split
  · exact leaves_next w
  · split
    · exact leaves_next w
    · refine leaves_ite (leaves_next w) ?_
      split
      · have h := State.resolveEntry_memWf w id
        split
        · rintro _ ⟨⟩
        next hp => exact leaves_next (memWf_of_fst hp h)
      · exact leaves_next (State.completeEntry_memWf w _ _ _)

/-! ### Home slices, walks, gathers and errors -/

theorem State.offPath_memWf (w : s.memWf = true) (id : Nat) : (s.offPath id).memWf = true := w

theorem storePerform_memWf (w : s.memWf = true) (tile id : Nat) : (storePerform s tile id).memWf = true := by
  unfold storePerform
  dsimp only
  split
  · split
    · exact State.memWf_ite (State.offPath_memWf (State.homeWrite_memWf _ _ _ _ w) _) w
    · exact w
  · exact w

theorem State.giveOld_memWf (w : s.memWf = true) (ret : Option (Nat × Nat)) (v : W64) : (s.giveOld ret v).memWf = true := by
  unfold State.giveOld
  split
  · exact w
  · exact w

theorem State.atomicBad_memWf {e : PathEntry} {n : Nat} {p : State × Bool} (h : s.atomicBad e n = some p) (w : s.memWf = true) :
    p.1.memWf = true := by
  unfold State.atomicBad at h
  split at h
  · cases h
  · split at h
    · split_ifs at h
      · cases h; exact w
      · cases h; exact w
      · cases h; exact State.freeze_memWf w _ _ _ _
    · cases h; exact w

theorem atomicPerform_memWf (w : s.memWf = true) (tile id : Nat) : (atomicPerform s tile id).memWf = true := by
  unfold atomicPerform
  dsimp only
  split
  next e _ =>
    refine State.memWf_ite w (State.memWf_ite w ?_)
    split
    next hp =>
      have h := State.atomicBad_memWf hp w
      exact State.memWf_ite (State.setTile_memWf (State.offPath_memWf h _) _ _) h
    · split
      · exact w
      next op v x ret _ =>
        exact State.giveOld_memWf (State.setTile_memWf (State.offPath_memWf (State.atomicAt_memWf w e.pa op v x e.hint) _) _ _) _ _
      next n _ => exact State.setTile_memWf (State.offPath_memWf (State.counterInit_memWf w _ _ _) _) _ _
      · exact State.setTile_memWf (State.offPath_memWf (State.counterDec_memWf w _ _) _) _ _
  · exact w

theorem translationWalk_memWf (w : s.memWf = true) (master va asid vmid kind : Nat) :
    (translationWalk s master va asid vmid kind).memWf = true := by
  unfold translationWalk
  split
  · exact w
  next m _ =>
    refine State.memWf_ite w ?_
    split
    next vmt _ =>
      have h := State.walk_memWf w vmt { master := m, asid := asid, vmid := vmid } va 1 (kindOfNum kind)
      split
      next hp => exact (memWf_of_fst hp h :)
      next hp => exact memWf_of_fst hp h
    · exact w

theorem gatherWriteback_memWf (w : s.memWf = true) (die n : Nat) : (gatherWriteback s die n).memWf = true := by
  unfold gatherWriteback
  split
  · exact State.writeGather_memWf (State.setDie_memWf w _ _) _ _
  · exact w

theorem State.withHealth_memWf (w : s.memWf = true) (h : Health) : ({ s with health := h } : State).memWf = true := w
theorem State.withBadSlices_memWf (w : s.memWf = true) (l : List BadBurst) : ({ s with badSlices := l } : State).memWf = true := w
theorem State.withBadBursts_memWf (w : s.memWf = true) (l : List BadBurst) : ({ s with badBursts := l } : State).memWf = true := w

theorem uncorrectable_memWf (w : s.memWf = true) (addr : Nat) : (uncorrectable s addr).memWf = true := by
  unfold uncorrectable
  generalize hu : ({ s with health := _ } : State) = u
  have h : u.memWf = true := hu ▸ State.withHealth_memWf w _
  dsimp only
  refine State.memWf_ite (State.memWf_ite (State.withBadSlices_memWf h _) (State.withBadBursts_memWf h _)) ?_
  split
  · exact State.memWf_ite h (State.freeze_memWf h _ _ _ _)
  · exact h

/-! ### Control flow and loops -/

theorem Ctx.goTo_canonical (w : s.memWf = true) (c : Ctx) (ts : List (Nat × W64)) (more : List (Bool × (Cause × W64)))
    (f : Group → Group) : (c.goTo s ts more f).Canonical :=
  (Res.canonical_ok (State.onGroup_memWf w c.g.id _)).guarded _

theorem Ctx.callTo_canonical (w : s.memWf = true) (c : Ctx) (a : W64) : (c.callTo s a).Canonical :=
  ((((((Ctx.goTo_canonical w c _ _ _).guarded _).once w).guarded _)).rlxGate _)

theorem ret_keeps : KeepsForm ret := by
  intro c s w
  refine ((Res.Canonical.once ?_ w).guarded _).rlxGate _
  split
  · trivial
  · exact Ctx.goTo_canonical w _ _ _ _

theorem enter_keeps : KeepsForm enter := by
  intro c s w
  unfold enter
  dsimp only
  exact ((((Res.canonical_ok (State.onGroup_memWf w c.g.id _)).guarded _).once w).guarded _).rlxGate _

theorem exitOp_keeps : KeepsForm exitOp := fun c _ w =>
  (Res.canonical_ok (State.bteamCheck_memWf (State.onGroup_memWf w c.g.id _) _)).rlxGate _

theorem swtrap_keeps : KeepsForm swtrap := fun c _ w =>
  ((Res.canonical_stay (State.raise_memWf (State.memWf_ite w (State.onGroup_memWf w c.g.id _)) _ _)).once w).rlxGate _

theorem movlpc_keeps : KeepsForm movlpc := by
  intro c s w
  refine Res.Canonical.checked (Ctx.afterHeaders_canonical (State.checkHeaders_memWf _ _ w) fun {u} wu => ?_) _ _ _
  exact Ctx.goTo_canonical wu _ _ _ _

/-- The memories have the form where the step over instructions ends, and in what its fetch answers. -/
theorem State.skipInstrs_canonical (g : Group) (n : Nat) : ∀ {s : State} (_ : s.memWf = true) (a : W64),
    (s.skipInstrs g n a).1.memWf = true ∧ ∀ r, (s.skipInstrs g n a).2 = .error r → r.Canonical := by
  induction n with
  | zero => exact fun w _ => ⟨w, by rintro _ ⟨⟩⟩
  | succ n ih =>
    intro s w a
    have h := State.fetchWord_memWf w g a
    unfold State.skipInstrs
    split
    next hp => exact ih (memWf_of_fst hp h) _
    next hp =>
      refine ⟨memWf_of_fst hp h, ?_⟩
      rintro _ ⟨⟩
      exact fetchRes_canonical (memWf_of_fst hp h) _ _

theorem lpGate_canonical (w : s.memWf = true) (c : Ctx) {r : Res} (h : r.Canonical) : (lpGate c s r).Canonical :=
  ((h.once w).guarded _).rlxGate _

theorem loopOp_keeps : KeepsForm loopOp := by
  intro c s w
  refine lpGate_canonical w c ?_
  obtain ⟨hs, hr⟩ := State.skipInstrs_canonical c.g (c.cl.cnt - c.cl.pos - 1) w c.after
  split
  next hp => exact hr _ (congrArg Prod.snd hp)
  next hp =>
    dsimp only
    exact (Res.canonical_ok (State.onGroup_memWf (memWf_of_fst hp hs) c.g.id _)).guarded _

theorem popN_keeps (k : Option Nat) : KeepsForm (popN k) := by
  intro c s w
  refine lpGate_canonical w c ?_
  split
  · trivial
  · exact State.onGroup_memWf w c.g.id _

theorem lcnt_keeps : KeepsForm lcnt := by
  intro c s w
  refine lpGate_canonical w c ?_
  split
  · trivial
  · exact w

end

end Sys2Proof.Machine
end

section
/-! The same of the copy engine (05 R106 to R116, R122). -/
namespace Sys2Proof.Machine
open Sys2Proof.Stated

section
variable {s : State}

theorem State.copyWaits_memWf (w : s.memWf = true) (c : Copy) (lane : Nat) (r : FaultRec) : (s.copyWaits c lane r).memWf = true := by
  unfold State.copyWaits
  split
  · exact w
  · split
    next h => exact State.setCopy_memWf (State.postFault_memWf h w) _
    · exact w

theorem State.freeReads_memWf (w : s.memWf = true) (id : Nat) : (s.freeReads id).memWf = true := by
  unfold State.freeReads
  split
  · exact State.memWf_ite w w
  · exact w

theorem State.enginePieces_memWf (tile : Nat) (wide : Bool) (hint : Nat) (l : List Piece) : ∀ {s : State}, s.memWf = true →
    (s.enginePieces tile wide hint l).1.memWf = true := by
  induction l with
  | nil => exact id
  | cons p l ih => exact fun w => ih (State.lineRead_memWf w _ _ _ _ _)

theorem State.laneRead_memWf (w : s.memWf = true) (c : Copy) (l : CopyLane) (bs : List Byte) : (s.laneRead c l bs).memWf = true :=
  State.freeReads_memWf (State.setCopy_memWf w _) _

theorem State.copyRead_leaves (w : s.memWf = true) (c : Copy) (l : CopyLane) : Leaves (s.copyRead c l) := by
  unfold State.copyRead
  split
  · exact leaves_next (State.laneRead_memWf w _ _ _)
  next va _ =>
    have h := State.resolve_memWf w (s.copyAgent c) va c.n .read (s.copyWork c)
    split
    next hp => exact leaves_next (State.copyWaits_memWf (memWf_of_fst hp h) _ _ _)
    next hp => exact leaves_next (State.copyWaits_memWf (memWf_of_fst hp h) _ _ _)
    next hp => exact leaves_next (State.copyWaits_memWf (memWf_of_fst hp h) _ _ _)
    · rintro _ ⟨⟩
    next hp =>
      have hu := memWf_of_fst hp h
      split
      · exact leaves_next hu
      · dsimp only
        split
        · exact leaves_next (State.copyWaits_memWf hu _ _ _)
        · exact leaves_ite (leaves_next hu) (leaves_next (State.laneRead_memWf (State.enginePieces_memWf _ _ _ _ hu) _ _ _))

theorem State.copyInto_memWf (w : s.memWf = true) (team off : Nat) (bs : List Byte) : (s.copyInto team off bs).memWf = true :=
  foldl_memWf (fun wu b => State.strayValid_memWf wu team b) _ (State.windowWriteKeep_memWf w _ _ _)

theorem State.laneDone_memWf (w : s.memWf = true) (id lane : Nat) : (s.laneDone id lane).memWf = true := by
  unfold State.laneDone
  split
  · dsimp only
    refine State.memWf_ite (State.batchCheck_memWf ?_ _) (State.setCopy_memWf w _)
    exact w
  · exact w

theorem State.copyDeliver_memWf (w : s.memWf = true) (c : Copy) : (s.copyDeliver c).memWf = true := by
  unfold State.copyDeliver
  split
  · exact State.deliver_memWf w _ _ _
  · exact w

/-- Bytes that are written piece by piece. -/
theorem foldl_homeWrite_memWf (hint id : Nat) (l : List Piece) : ∀ {a : State × List Byte}, a.1.memWf = true →
    (l.foldl (fun (a : State × List Byte) p => (a.1.homeWrite p.pa (a.2.take p.n) hint id, a.2.drop p.n)) a).1.memWf = true := by
  induction l with
  | nil => exact fun w => w
  | cons p l ih => exact fun w => ih (a := (_, _)) (State.homeWrite_memWf _ _ _ _ w)

theorem State.copyWrite_leaves (w : s.memWf = true) (c : Copy) (l : CopyLane) (bs : List Byte) : Leaves (s.copyWrite c l bs) := by
  unfold State.copyWrite
  refine leaves_ite (leaves_next w) ?_
  split
  · exact leaves_next (State.copyDeliver_memWf (State.laneDone_memWf (State.copyInto_memWf w _ _ _) _ _) _)
  next va _ =>
    have h := State.resolve_memWf w (s.copyAgent c) va c.n .write (s.copyWork c)
    split
    next hp => exact leaves_next (State.copyWaits_memWf (memWf_of_fst hp h) _ _ _)
    next hp => exact leaves_next (State.copyWaits_memWf (memWf_of_fst hp h) _ _ _)
    next hp => exact leaves_next (State.copyWaits_memWf (memWf_of_fst hp h) _ _ _)
    · rintro _ ⟨⟩
    next hp =>
      have hu := memWf_of_fst hp h
      refine leaves_ite (leaves_next hu) (leaves_next ?_)
      refine State.copyDeliver_memWf (State.laneDone_memWf ?_ _ _) _
      exact foldl_memWf (fun wu p => State.setTile_memWf wu _ _) _ (foldl_homeWrite_memWf _ _ _ (a := (_, bs)) hu)

theorem State.takeReturns_memWf (w : s.memWf = true) (c : Copy) (l : CopyLane) : (s.takeReturns c l).memWf = true := by
  unfold State.takeReturns
  dsimp only
  have h : (if l.recvs.isEmpty = true then
      (s.setCopy { c with lanes := c.lanes.map fun m => if m.lane = l.lane then { m with back := 0 } else m }).laneDone c.id l.lane
      else s.setCopy { c with lanes := c.lanes.map fun m => if m.lane = l.lane then { m with back := 0 } else m }).memWf = true :=
    State.memWf_ite (State.laneDone_memWf (State.setCopy_memWf w _) _ _) (State.setCopy_memWf w _)
  split
  · exact State.deliver_memWf h _ _ _
  · exact h

theorem copyTransfer_leaves (w : s.memWf = true) (copy lane : Nat) : Leaves (copyTransfer s copy lane) := by
  unfold copyTransfer
  split
  · split
    · split
      · exact State.copyRead_leaves w _ _
      · exact leaves_ite (leaves_next (State.takeReturns_memWf w _ _)) (State.copyWrite_leaves w _ _ _)
    · exact leaves_next w
  · exact leaves_next w

theorem bankArbitration_leaves (w : s.memWf = true) (tile : Nat) : Leaves (bankArbitration s tile) := by
  unfold bankArbitration
  split
  · split
    · exact copyTransfer_leaves w _ _
    · exact leaves_next w
  · exact leaves_next w

/-! ### Remote deliveries -/

theorem State.setAckTable_memWf (w : s.memWf = true) (t : Team) (l : List AckEntry) : (s.setAckTable t l).memWf = true := by
  unfold State.setAckTable
  split
  · exact w
  · exact w

theorem State.recvDone_memWf (w : s.memWf = true) (c : Copy) (l : CopyLane) (recv : Nat) (ack : Bool) :
    (s.recvDone c l recv ack).memWf = true := w

theorem State.withAcks_memWf (w : s.memWf = true) (l : List AckMsg) : ({ s with acks := l } : State).memWf = true := w

theorem State.dropDelivery_memWf (w : s.memWf = true) (c : Copy) (l : CopyLane) (recv : Nat) :
    (s.dropDelivery c l recv).memWf = true := by
  unfold State.dropDelivery
  dsimp only
  split
  · exact State.withAcks_memWf (State.recvDone_memWf w _ _ _ _) _
  · exact State.recvDone_memWf w _ _ _ _

theorem State.makeDelivery_memWf (w : s.memWf = true) (c : Copy) (l : CopyLane) (recv off : Nat) (bs : List Byte) :
    (s.makeDelivery c l recv off bs).memWf = true := by
  have h := State.recvDone_memWf (State.copyInto_memWf w recv off bs) c l recv c.mc
  unfold State.makeDelivery
  split
  · exact State.deliver_memWf h _ _ _
  · exact h

theorem remoteDelivery_memWf (w : s.memWf = true) (copy lane recv : Nat) : (remoteDelivery s copy lane recv).memWf = true := by
  unfold remoteDelivery
  split
  · split
    · split
      · refine State.memWf_ite w (State.memWf_ite (State.dropDelivery_memWf w _ _ _) (State.memWf_ite w
          (State.memWf_ite ?_ (State.makeDelivery_memWf w _ _ _ _ _))))
        split
        · split
          · exact State.makeDelivery_memWf (State.setAckTable_memWf w _ _) _ _ _ _ _
          · exact w
        · exact w
      · exact State.memWf_ite (State.dropDelivery_memWf w _ _ _) w
      · exact w
    · exact w
  · exact w

theorem ackArrival_memWf (w : s.memWf = true) (n : Nat) : (ackArrival s n).memWf = true := by
  unfold ackArrival
  split
  · dsimp only
    have h : ({ s with acks := s.acks.eraseIdx n } : State).memWf = true := State.withAcks_memWf w _
    split
    · exact State.memWf_ite h (State.memWf_ite w (State.acknowledge_memWf h _ _ _))
    · exact h
  · exact w

end

end Sys2Proof.Machine
end

section
/-! The same of the distributor and the dealer, of Aelmel and the host, of the storage port and the checkpoint (14 R272, R277, 16 R291 to R294,
17 R305 to R311, 22 R395 to R397, 23 R398 to R401). -/
namespace Sys2Proof.Machine
open Sys2Proof.Stated

section
variable {s : State}

/-! ### Placement -/

theorem State.placeTeam_memWf (w : s.memWf = true) (k : Work) (gang l pos lt area : Nat) (f : Fit) (tweak : Group → Group) :
    (s.placeTeam k gang l pos lt area f tweak).2.memWf = true := w

theorem tenantServe_memWf (w : s.memWf = true) (die cls : Nat) : (tenantServe s die cls).memWf = true := by
  unfold tenantServe
  dsimp only
  split
  · exact State.memWf_ite (State.memWf_ite (State.setDie_memWf w _ _) w) (State.setDie_memWf w _ _)
  · exact w

theorem deficitCharge_memWf (w : s.memWf = true) (die : Nat) : (deficitCharge s die).memWf = true := by
  unfold deficitCharge
  refine foldl_memWf (fun wu t => ?_) _ w
  split
  · exact State.setDie_memWf wu _ _
  · exact wu

theorem State.seat_memWf (w : s.memWf = true) (k : Gang) : (s.seat k).memWf = true :=
  foldl_memWf (f := State.dropCache) (fun wu n => State.setTile_memWf wu n _) _ (s := { s with gangs := s.gangs ++ [k] }) w

/-- The teams of a gang, placed one after another. -/
theorem foldl_placeTeam_memWf {α : Type} (k : Work) (gang : Nat) (l pos lt area : α → Nat) (f : α → Fit) (fs : List α) :
    ∀ {a : List Nat × State}, a.2.memWf = true →
    (fs.foldl (fun (a : List Nat × State) p =>
      (a.1 ++ [(a.2.placeTeam k gang (l p) (pos p) (lt p) (area p) (f p) id).1],
        (a.2.placeTeam k gang (l p) (pos p) (lt p) (area p) (f p) id).2)) a).2.memWf = true := by
  induction fs with
  | nil => exact fun w => w
  | cons p fs ih => exact fun w => ih (a := (_, _)) (State.placeTeam_memWf w _ _ _ _ _ _ _ _)

theorem State.placeGang_memWf (w : s.memWf = true) (k : Work) (lt : Nat) (fs : List Fit) : (s.placeGang k lt fs).memWf = true := by
  unfold State.placeGang
  dsimp only
  refine State.setWork_memWf (State.seat_memWf ?_ _) _
  exact foldl_placeTeam_memWf _ _ _ _ _ _ _ _ (a := ([], s.takeId.2)) w

theorem gangPlace_memWf (w : s.memWf = true) (work : Nat) : (gangPlace s work).memWf = true := by
  unfold gangPlace
  split
  · refine State.memWf_ite w ?_
    split
    · exact State.placeGang_memWf w _ _ _
    · exact w
  · exact w

theorem State.deal_memWf (w : s.memWf = true) (k : Work) (lt : Nat) (fit : Fit) : (s.deal k lt fit).memWf = true := by
  unfold State.deal
  dsimp only
  exact State.setWork_memWf (State.seat_memWf (State.placeTeam_memWf (s := s.takeId.2) w _ _ _ _ _ _ _ _) _) _

theorem jobDeal_memWf (w : s.memWf = true) (work : Nat) : (jobDeal s work).memWf = true := by
  unfold jobDeal
  split
  · refine State.memWf_ite w ?_
    split
    · exact State.deal_memWf w _ _ _
    · exact w
  · exact w

theorem contextRestore_leaves (w : s.memWf = true) (gang : Nat) : Leaves (contextRestore s gang) := by
  unfold contextRestore
  split
  · split
    · refine leaves_ite (leaves_next w) ?_
      split
      · exact State.restoreGang_leaves w _ _
      · exact leaves_next w
    · exact leaves_next w
  · exact leaves_next w

theorem class0Preempt_memWf (w : s.memWf = true) (die : Nat) : (class0Preempt s die).memWf = true := by
  unfold class0Preempt
  refine State.memWf_ite w ?_
  split
  · exact State.askPreempt_memWf w _
  · exact w

/-! ### Aelmel -/

theorem State.memWf_mem (w : s.memWf = true) : s.mem.wf = true := by
  simp only [State.memWf, Bool.and_eq_true] at w
  exact w.1.1

theorem State.memWf_flash (w : s.memWf = true) : s.aelmel.flash.wf = true := by
  simp only [State.memWf, Bool.and_eq_true] at w
  exact w.1.2

theorem State.memWf_intro (hm : s.mem.wf = true) (hf : s.aelmel.flash.wf = true) (hr : s.aelmel.recbuf.wf = true) :
    s.memWf = true := by
  simp only [State.memWf, hm, hf, hr, Bool.and_self]

theorem moduleReset_memWf (w : s.memWf = true) : (moduleReset s).memWf = true := by
  have hm := State.memWf_mem w
  have hf := State.memWf_flash w
  exact State.memWf_intro (s := moduleReset s) hm hf rfl

theorem aelmelVerify_memWf (w : s.memWf = true) : (aelmelVerify s).memWf = true := by
  unfold aelmelVerify
  dsimp only
  split
  · exact State.memWf_ite w w
  · refine State.memWf_ite w ?_
    split
    · exact w
    · exact w
  · exact w

theorem aelmelBoot_memWf (w : s.memWf = true) : (aelmelBoot s).memWf = true := by
  unfold aelmelBoot
  dsimp only
  have hm := State.memWf_mem w
  have hf := State.memWf_flash w
  have hr := State.memWf_buf w
  refine State.memWf_ite ?_ w
  apply State.memWf_intro
  · dsimp only
    exact memWrite_wf hm
  · dsimp only
    split
    · exact memWrite_wf rfl
    · exact hf
  · dsimp only
    exact hr

/-! ### The host -/

theorem hostRegWrite_leaves (w : s.memWf = true) (off : Nat) (bs : List Byte) : Leaves (hostRegWrite s off bs) := by
  unfold hostRegWrite
  refine leaves_ite (leaves_next w) (leaves_ite (leaves_next (State.regWrite_memWf _ _ w)) ?_)
  rintro _ ⟨⟩

theorem hostRing_memWf (w : s.memWf = true) (die : Nat) : (hostRing s die).memWf = true :=
  State.memWf_ite (State.setDie_memWf w _ _) w

theorem hostWrite_leaves (w : s.memWf = true) (addr : Nat) (bs : List Byte) : Leaves (hostWrite s addr bs) :=
  leaves_ite (hostRegWrite_leaves w _ _) (leaves_ite (leaves_next (hostRing_memWf w _))
    (leaves_ite (leaves_next (State.homeWriteAll_memWf _ _ _ w)) (leaves_next w)))

theorem State.answer_leaves (w : s.memWf = true) (addr : Nat) (bs : List Byte) : Leaves (s.answer addr bs) := leaves_next w

theorem hostRegRead_leaves (w : s.memWf = true) (addr n : Nat) : Leaves (hostRegRead s addr n) := by
  unfold hostRegRead
  refine leaves_ite (leaves_next w) (leaves_ite (State.answer_leaves w _ _) ?_)
  rintro _ ⟨⟩

theorem hostRead_leaves (w : s.memWf = true) (addr n : Nat) : Leaves (hostRead s addr n) :=
  leaves_ite (hostRegRead_leaves w _ _) (leaves_ite (leaves_ite (State.answer_leaves w _ _) (leaves_next w))
    (leaves_ite (State.answer_leaves w _ _) (leaves_next w)))

/-! ### The storage port and the checkpoint -/

theorem State.bindPort_memWf (w : s.memWf = true) (q : PortQueue) : (s.bindPort q).memWf = true := by
  unfold State.bindPort
  split
  · exact w
  · exact w

theorem State.stackWrite_memWf (l : List Piece) : ∀ {s : State} (_ : s.memWf = true) (bs : List Byte), (s.stackWrite l bs).memWf = true := by
  induction l with
  | nil => exact fun w _ => w
  | cons p l ih =>
    intro s w bs
    refine ih (State.memWf_ite (State.regWrite_memWf _ _ w) ?_) _
    exact State.memWf_of w rfl fun h => memWrite_wf h

theorem portMove_leaves (w : s.memWf = true) (queue asid va : Nat) (toStack : Bool) (bs : List Byte) :
    Leaves (portMove s queue asid va toStack bs) := by
  have hw {u : State} (wu : u.memWf = true) (r : FaultRec) :
      (match u.postFault r (.port queue) with | some p => p.2 | none => u : State).memWf = true := by
    split
    next p hp => exact State.postFault_memWf (n := p.1) hp wu
    · exact wu
  unfold portMove
  dsimp only
  have h := State.resolve_memWf w { master := .storPort, asid := asid, vmid := 0 } (w64 va) bs.length
    (if toStack then .write else .read) none
  split
  next hp => exact leaves_next (hw (memWf_of_fst hp h) _)
  next hp => exact leaves_next (hw (memWf_of_fst hp h) _)
  next hp => exact leaves_next (hw (memWf_of_fst hp h) _)
  · rintro _ ⟨⟩
  next hp =>
    have hu := memWf_of_fst hp h
    refine leaves_ite (leaves_next (State.stackWrite_memWf _ hu _)) ?_
    split
    · exact leaves_next (hw hu _)
    · exact leaves_next hu

theorem storageTransfer_leaves (w : s.memWf = true) (q : PortQueue) (va : Nat) (toStack : Bool) (bs : List Byte) :
    Leaves (storageTransfer s q va toStack bs) := by
  unfold storageTransfer
  refine leaves_ite (leaves_next w) ?_
  dsimp only
  split
  · exact portMove_leaves (State.bindPort_memWf w _) _ _ _ _ _
  · exact leaves_next (State.bindPort_memWf w _)

theorem State.withCkpt_memWf (w : s.memWf = true) (k : Ckpt) : ({ s with ckpt := k } : State).memWf = true := w

theorem State.stopAll_memWf (w : s.memWf = true) : s.stopAll.memWf = true := foldl_memWf (fun wu k => State.askPreempt_memWf wu k) _ w

theorem ckptGo_memWf (w : s.memWf = true) : (ckptGo s).memWf = true :=
  State.memWf_ite (State.withCkpt_memWf (State.stopAll_memWf w) _) w

theorem State.writeBackAll_memWf (w : s.memWf = true) : s.writeBackAll.memWf = true :=
  (foldl_memWf (fun wu l => State.intoStack_memWf l wu) s.sram w :)

theorem State.goOn_memWf (w : s.memWf = true) : s.goOn.memWf = true := by
  unfold State.goOn
  exact foldl_memWf (fun wu k => State.memWf_ite (State.releaseStops_memWf (State.setGang_memWf wu _) _) wu) _ w

theorem ckptComplete_memWf (w : s.memWf = true) (ok : Bool) : (ckptComplete s ok).memWf = true := by
  unfold ckptComplete
  refine State.memWf_ite w (State.memWf_ite (State.stopAll_memWf w) ?_)
  have h := State.writeBackAll_memWf w
  dsimp only
  refine State.goOn_memWf ?_
  exact h

end

end Sys2Proof.Machine
end

section
/-! Every instruction and every event keeps the form, and so does a step. -/
namespace Sys2Proof.Machine
open Sys2Proof.Stated

section
variable {s : State}

/-! ### The instructions that are left -/

theorem movxw_keeps : KeepsForm movxw := fun c _ w =>
  (Res.canonical_ite (Res.canonical_stall _) (Res.canonical_ok (State.onGroup_memWf w c.g.id _))).checked _ _ _

theorem flagsRead_keeps : KeepsForm fun c s => c.once s (if s.flagsReady c.g then .ok (c.putS s c.g.csrs.flags) else .stall .order) :=
  fun c _ w => (Res.canonical_ite (Res.canonical_ok (State.onGroup_memWf w c.g.id _)) (Res.canonical_stall _)).once w

theorem movpr_keeps : KeepsForm fun c s => rlxGate c s (c.once s (.ok (c.putS s (s.panelOf c.g c.fa).ctl))) := fun c _ w =>
  ((Res.canonical_ok (State.onGroup_memWf w c.g.id _)).once w).rlxGate _

theorem mbpeek_keeps : KeepsForm fun c s => rlxGate c s <| c.guarded [(7 < c.fa, illop 0x0D)] <|
    c.once s (.ok (c.putS s (w64 (s.mailbox c.g.asid.toNat c.fa).length))) := fun c _ w =>
  (((Res.canonical_ok (State.onGroup_memWf w c.g.id _)).once w).guarded _).rlxGate _

theorem jobstat_keeps : KeepsForm fun c s => readsTable s (s.dieOf c.g) (peerOffs (fld c.sA 47 40)) <|
    present [optCheck (c.handleAbsent s)] <| rlxGate c s
      (.ok (c.logIssue s (if c.anyLane then .jobstat c.sA else .nothing) id).1) := fun c _ w =>
  (((Res.canonical_ok (Ctx.logIssue_memWf w c _ _)).rlxGate _).present _).readsTable w _ _

/-- A read of a clock, a count or a free value keeps the form where finding the value does. -/
theorem timeRead_keeps {v : Ctx → State → W64 × State} (hv : ∀ c {u : State}, u.memWf = true → (v c u).2.memWf = true) :
    KeepsForm (timeRead v) := fun c _ w =>
  ((Res.canonical_ok (State.onGroup_memWf (hv c w) c.g.id _)).once w).rlxGate _

theorem State.takeFree_memWf (w : s.memWf = true) : s.takeFree.2.memWf = true := w

theorem execCyc_leaves (w : s.memWf = true) (o : Ops) : Leaves (execCyc o s) :=
  issue_leaves (timeRead_keeps fun c u wu => by
    split
    · exact State.takeFree_memWf wu
    · exact wu) _ _ o w

theorem execDampst_leaves (w : s.memWf = true) (o : Ops) : Leaves (execDampst o s) :=
  issue_leaves (timeRead_keeps fun c u wu => by
    split
    · exact wu
    · exact State.takeFree_memWf wu) _ _ o w

theorem dline_keeps : KeepsForm dline := fun c _ w =>
  (((Res.canonical_ok (State.onGroup_memWf w c.g.id _)).guarded _).once w).rlxGate _

theorem dchk_keeps : KeepsForm dchk := fun c _ w => (Res.canonical_ok (State.onGroup_memWf w c.g.id _)).rlxGate _

/-- `br` and `jmp`: lanes go to one target. -/
theorem goTo_keeps (l : Ctx → List Nat) : KeepsForm fun c s => rlxGate c s (c.once s (c.goTo s (toAll (l c) c.target) [] id)) :=
  fun c _ w => ((Ctx.goTo_canonical w c _ _ _).once w).rlxGate _

theorem nop_keeps : KeepsForm fun c s => rlxGate c s (.ok s) := fun _ _ w => (Res.canonical_ok w).rlxGate _

theorem yield_keeps : KeepsForm fun c s => rlxGate c s (c.once s (.ok (c.upd s fun g => { g with yielded := true }))) := fun c _ w =>
  ((Res.canonical_ok (State.onGroup_memWf w c.g.id _)).once w).rlxGate _

theorem State.withServices_memWf (w : s.memWf = true) (l : List (Nat × Nat)) : ({ s with services := l } : State).memWf = true := w

theorem sys_keeps : KeepsForm fun c s => rlxGate c s (c.once s (.ok { s with services := s.services ++ [(c.g.id, c.imm18)] })) :=
  fun _ _ w => ((Res.canonical_ok (State.withServices_memWf w _)).once w).rlxGate _

theorem lpop_keeps : KeepsForm fun c s =>
    let d := c.g.flow.loops.length
    popN (if c.fd ≤ d && c.fd < 4 then some (d - c.fd) else none) c s := fun c s w => popN_keeps _ c s w

theorem cwb_keeps : KeepsForm (onLines fun _ s l => s.writeBack l) := onLines_keeps fun _ _ wu n => State.writeBack_memWf wu n

theorem cinv_keeps : KeepsForm (onLines fun c s l => s.invalidate (s.reach c.g c.e.scope.toNat) (4 ≤ c.e.scope.toNat) l) :=
  onLines_keeps fun _ _ wu n => State.invalidate_memWf wu _ _ n

theorem tileTemperatureRise_memWf (w : s.memWf = true) (tile temp : Nat) : (tileTemperatureRise s tile temp).memWf = true := w

/-- A REGISTER INSTRUCTION writes no memory. -/
theorem register_leaves {i : Instr} {o : Ops} {maj min : Nat} (ho : i.ops = some o) (hm : i.majMin = some (maj, min))
    (hr : registerOnly maj min) (w : s.memWf = true) : Leaves (exec i s) := by
  obtain ⟨body, hexec, hbody⟩ := exec_register ho hm hr
  rw [hexec]
  exact issue_leaves_of (fun g cl u wu => (hbody.attempt rfl u).canonical wu) w

/-! ### Every instruction and every event -/

/-- An event's meaning keeps the form. -/
theorem event_leaves {i : Instr} (hi : i.ops = none) (w : s.memWf = true) : Leaves (exec i s) := by
  cases i with
  | clauseBoundary h => exact openClause_leaves w h
  | issueArbitration => exact leaves_next (State.memWf_ite w (masterClock_memWf w))
  | bankArbitration _ => exact bankArbitration_leaves w _
  | vlComplete _ _ => exact vlComplete_leaves w _ _
  | localTrapEntry _ => exact leaves_next (trapEntry_memWf w _)
  | storePerformHome _ _ => exact leaves_next (storePerform_memWf w _ _)
  | homeAtomicPerform _ _ => exact leaves_next (atomicPerform_memWf w _ _)
  | tileCacheLineDrop _ _ => exact leaves_next (State.setTile_memWf w _ _)
  | translationWalk _ _ _ _ _ => exact leaves_next (translationWalk_memWf w _ _ _ _ _)
  | dirtyGatherWriteback _ _ => exact leaves_next (gatherWriteback_memWf w _ _)
  | faultRecordPost _ => exact leaves_next (postRecord_memWf w _)
  | uncorrectableError _ => exact leaves_next (uncorrectable_memWf w _)
  | correctedError => exact leaves_next (State.withHealth_memWf w _)
  | copyTransfer _ _ => exact copyTransfer_leaves w _ _
  | remoteDelivery _ _ _ => exact leaves_next (remoteDelivery_memWf w _ _ _)
  | ackArrival _ => exact leaves_next (ackArrival_memWf w _)
  | macroOpStep _ => exact leaves_next (macroStep_memWf w _)
  | drainPerform _ => exact leaves_next (drainStep_memWf w _)
  | rlxopenJoin _ => exact leaves_next (openJoin_memWf w _)
  | kilnPassEnd _ => exact leaves_next (passEnd_memWf w _)
  | kilnPassAbandon _ => exact leaves_next (passAbandon_memWf w _)
  | rlxcloseJoin _ => exact closeJoin_leaves w _
  | launchReady _ => exact launchReady_leaves w _
  | depctrRegister _ => exact depctrRegister_leaves w _
  | gangPlace _ => exact leaves_next (gangPlace_memWf w _)
  | tenantServe _ _ => exact leaves_next (tenantServe_memWf w _ _)
  | deficitCharge _ => exact leaves_next (deficitCharge_memWf w _)
  | class0Preempt _ => exact leaves_next (class0Preempt_memWf w _)
  | gangStop _ => exact gangStop_leaves w _
  | contextRestore _ => exact contextRestore_leaves w _
  | groupRetire _ => exact leaves_next (groupRetire_memWf w _)
  | teamRetire _ => exact leaves_next (teamRetire_memWf w _)
  | launchRetire _ => exact launchRetire_leaves w _
  | jobReady _ => exact leaves_next (jobReady_memWf w _)
  | jobDeal _ => exact leaves_next (jobDeal_memWf w _)
  | jobComplete _ => exact jobComplete_leaves w _
  | childCompletion _ => exact leaves_next (childCompletion_memWf w _)
  | emberAdvance _ => exact leaves_next (emberAdvance_memWf w _)
  | mailboxDelivery _ _ => exact leaves_next (deliverMail_memWf w _ _)
  | turnStart _ => exact leaves_next (turnStart_memWf w _)
  | turnAbandon _ _ => exact leaves_next (turnAbandon_memWf w _ _)
  | turnExchangeEnd _ _ => exact leaves_next (turnExchangeEnd_memWf w _ _)
  | swallowPatternApply _ => exact leaves_next (swallowPatternApply_memWf w _)
  | droopDetect _ => exact leaves_next (State.setCluster_memWf w _ _)
  | stretchEnd _ => exact leaves_next (State.setCluster_memWf w _ _)
  | halfEnd _ => exact leaves_next (State.setCluster_memWf w _ _)
  | deadlineExpiry _ => exact leaves_next (deadlineExpiry_memWf w _)
  | tileHot _ => exact leaves_next (tileHot_memWf w _)
  | overTemperatureStop _ => exact leaves_next (overTemperatureStop_memWf w _)
  | tileFailure _ _ => exact leaves_next (tileFailure_memWf w _ _)
  | qpEntryStart _ _ => exact leaves_next (qpStart_memWf w _ _)
  | qpLocalComplete _ _ _ => exact qpLocal_leaves w _ _ _
  | qpRemoteWrite _ _ => exact qpWrite_leaves w _ _
  | qpAck _ _ _ => exact leaves_next (qpAck_memWf w _ _ _)
  | wredContribution _ _ => exact leaves_next (wredArrive_memWf w _ _)
  | wredSweep _ _ => exact wredSweep_leaves w _ _
  | routeEntry _ _ _ => exact routeRun_leaves w _ _ _
  | toksortComplete _ _ => exact sortDone_leaves w _ _
  | cqLaunch _ => exact cqLaunch_leaves w _
  | cqPost _ => exact cqPost_leaves w _
  | cqWait _ => exact cqWait_leaves w _
  | cqAdd _ => exact cqAdd_leaves w _
  | ckptGo => exact leaves_next (ckptGo_memWf w)
  | ckptComplete _ => exact leaves_next (ckptComplete_memWf w _)
  | ckptErrClear => exact leaves_next (State.withCkpt_memWf w _)
  | hostWrite _ _ => exact hostWrite_leaves w _ _
  | hostRead _ _ => exact hostRead_leaves w _ _
  | moduleReset => exact leaves_next (moduleReset_memWf w)
  | aelmelVerify => exact leaves_next (aelmelVerify_memWf w)
  | aelmelBoot => exact leaves_next (aelmelBoot_memWf w)
  | aelcmdVerifyBoot => exact leaves_next (aelcmdVerifyBoot_memWf w)
  | aelcmdAttest => exact leaves_next (aelcmdAttest_memWf w)
  | recbufWrite _ _ => exact leaves_next (recbufWrite_memWf _ _ w)
  | wfiWake _ => exact leaves_next (wfiWake_memWf w _)
  | stokerHaltOnFault _ => exact leaves_next (coreFault_memWf w _)
  | stokerCoreRestart _ => exact leaves_next (coreRestart_memWf w _)
  | storagePortTransfer _ _ _ _ => exact storageTransfer_leaves w _ _ _ _
  | tileTemperatureRise _ _ => exact leaves_next (tileTemperatureRise_memWf w _ _)
  | _ => cases hi

/-- AN INSTRUCTION KEEPS THE FORM: the register families write no memory, and of the others each body keeps it. -/
theorem instruction_leaves {i : Instr} {o : Ops} (ho : i.ops = some o) (w : s.memWf = true) : Leaves (exec i s) := by
  cases i with
  -- CSRs, moves
  | winstatWrite _ | flagsWrite _ | spillbaseWrite _ | trappcWrite _ => exact issue_leaves (csrwrOf_keeps _) _ _ _ w
  | flagsRead _ => exact issue_leaves flagsRead_keeps _ _ _ w
  | csrrd _ => exact issue_leaves csrrd_keeps _ _ _ w
  | csrwr _ => exact issue_leaves csrwr_keeps _ _ _ w
  | movxw _ => exact issue_leaves movxw_keeps _ _ _ w
  | movp _ => exact issue_leaves movp_keeps _ _ _ w
  | movpr _ => exact issue_leaves movpr_keeps _ _ _ w
  | movlpc _ => exact issue_leaves movlpc_keeps _ _ _ w
  -- CF, LP
  | br _ => exact issue_leaves (goTo_keeps Ctx.lanes) _ _ _ w
  | jmp _ => exact issue_leaves (goTo_keeps fun c => lanesOf c.w (c.cl.lanes &&& ~~~c.g.flow.exited)) _ _ _ w
  | call _ | calli _ => exact issue_leaves (fun c _ wu => Ctx.callTo_canonical wu c _) _ _ _ w
  | ret _ => exact issue_leaves ret_keeps _ _ _ w
  | enter _ => exact issue_leaves enter_keeps _ _ _ w
  | exit _ => exact issue_leaves exitOp_keeps _ _ _ w
  | yield _ => exact issue_leaves yield_keeps _ _ _ w
  | nop _ => exact issue_leaves nop_keeps _ _ _ w
  | trap _ => exact issue_leaves swtrap_keeps _ _ _ w
  | sys _ => exact issue_leaves sys_keeps _ _ _ w
  | loop _ => exact issue_leaves loopOp_keeps _ _ _ w
  | lbrk _ => exact issue_leaves (popN_keeps _) _ _ _ w
  | lcnt _ => exact issue_leaves lcnt_keeps _ _ _ w
  | lpop _ => exact issue_leaves lpop_keeps _ _ _ w
  -- GL, AT, FN, LL
  | ld8s _ | ld8z _ | ld16s _ | ld16z _ | ld32 _ | ld64 _ | ld128 _ | lds32 _ | lds64 _ | ldacq32 _ | ldacqs64 _ =>
    exact issue_leaves (ldg_keeps _ _ _ _) _ _ _ w
  | st8 _ | st16 _ | st32 _ | st64 _ | st128 _ | sts32 _ | sts64 _ | strel32 _ | strels64 _ =>
    exact issue_leaves (stg_keeps _ _ _) _ _ _ w
  | aadd _ | amin _ | amax _ | anmin _ | anmax _ | aand _ | aor _ | axor _ | aexch _ | acas _ | afadd _ | afamax _
  | afamaxrst _ | aadd64 _ | aaddS _ | aminS _ | amaxS _ | anminS _ | anmaxS _ | aandS _ | aorS _ | axorS _ | aexchS _
  | acasS _ | afaddS _ | afamaxS _ | afamaxrstS _ | aadd64S _ => exact issue_leaves (atomicIssue_keeps _ _ _ _ _) _ _ _ w
  | fenceSc _ | fenceAcq _ | fenceRel _ | fenceAcqrel _ => exact issue_leaves (fence_keeps _ _ _) _ _ _ w
  | pf _ => exact issue_leaves pf_keeps _ _ _ w
  | cwb _ => exact issue_leaves cwb_keeps _ _ _ w
  | cinv _ => exact issue_leaves cinv_keeps _ _ _ w
  | ldl8s _ | ldl8z _ | ldl16s _ | ldl16z _ | ldl32 _ | ldl64 _ | ldl128 _ => exact issue_leaves (ldl_keeps _ _) _ _ _ w
  | stl8 _ | stl16 _ | stl32 _ | stl64 _ | stl128 _ => exact issue_leaves (stl_keeps _) _ _ _ w
  | laadd _ | lamin _ | lamax _ | laexch _ | lacas _ => exact issue_leaves (localAtomic_keeps _ _ _) _ _ _ w
  -- CP, BA
  | cp4 _ | cp8 _ | cp16 _ => exact issue_leaves (copyOp_keeps _) _ _ _ w
  | cpseal _ => exact issue_leaves cpseal_keeps _ _ _ w
  | cpwait _ => exact issue_leaves cpwait_keeps _ _ _ w
  | cpmc _ => exact issue_leaves cpmc_keeps _ _ _ w
  | binit _ => exact issue_leaves binit_keeps _ _ _ w
  | barrive _ => exact issue_leaves barrive_keeps _ _ _ w
  | bexpect _ => exact issue_leaves bexpect_keeps _ _ _ w
  | bwait _ | btest _ => exact issue_leaves (barrierPoll_keeps _) _ _ _ w
  | binval _ => exact issue_leaves binval_keeps _ _ _ w
  | bteam _ => exact issue_leaves bteam_keeps _ _ _ w
  | back _ => exact issue_leaves back_keeps _ _ _ w
  -- MX, SQ, KL
  | pld _ => exact issue_leaves pld_keeps _ _ _ w
  | pst _ => exact issue_leaves pst_keeps _ _ _ w
  | pzero _ => exact issue_leaves pzero_keeps _ _ _ w
  | pfence _ => exact issue_leaves pfence_keeps _ _ _ w
  | mma _ | mmat _ => exact issue_leaves (mmaOp_keeps _) _ _ _ w
  | czero _ => exact issue_leaves (emptyAcc_keeps _) _ _ _ w
  | canch _ => exact issue_leaves (fun c u wu => emptyAcc_keeps _ c u wu) _ _ _ w
  | cdrain _ => exact issue_leaves cdrain_keeps _ _ _ w
  | cstore _ => exact issue_leaves cstore_keeps _ _ _ w
  | cstat _ => exact issue_leaves cstat_keeps _ _ _ w
  | pput _ => exact issue_leaves pput_keeps _ _ _ w
  | pget _ => exact issue_leaves pget_keeps _ _ _ w
  | seq _ => exact issue_leaves seqOp_keeps _ _ _ w
  | rlxopen _ => exact issue_leaves rlxopen_keeps _ _ _ w
  | rlxpass _ => exact issue_leaves rlxpass_keeps _ _ _ w
  | rlxclose _ => exact issue_leaves rlxclose_keeps _ _ _ w
  | rlxstat _ => exact issue_leaves rlxstat_keeps _ _ _ w
  | rlxres _ => exact issue_leaves rlxres_keeps _ _ _ w
  | rlxabort _ => exact issue_leaves rlxabort_keeps _ _ _ w
  -- QM, JB, DT, CL, TM
  | qpush _ => exact issue_leaves qpush_keeps _ _ _ w
  | qpop _ => exact issue_leaves qpop_keeps _ _ _ w
  | mbsend _ => exact issue_leaves mbsend_keeps _ _ _ w
  | mbrecv _ => exact issue_leaves mbrecv_keeps _ _ _ w
  | mbpeek _ => exact issue_leaves mbpeek_keeps _ _ _ w
  | jobenq _ => exact issue_leaves jobenq_keeps _ _ _ w
  | launch _ => exact issue_leaves launch_keeps _ _ _ w
  | dinit _ => exact issue_leaves dinit_keeps _ _ _ w
  | ddec _ => exact issue_leaves ddec_keeps _ _ _ w
  | dread _ => exact issue_leaves dread_keeps _ _ _ w
  | jobstat _ => exact issue_leaves jobstat_keeps _ _ _ w
  | embwait _ => exact issue_leaves embwait_keeps _ _ _ w
  | embpass _ => exact issue_leaves embpass_keeps _ _ _ w
  | embskip _ => exact issue_leaves embskip_keeps _ _ _ w
  | qppost _ => exact issue_leaves qppost_keeps _ _ _ w
  | hcadd _ => exact issue_leaves hcadd_keeps _ _ _ w
  | hcrd _ => exact issue_leaves hcrd_keeps _ _ _ w
  | hcarm _ => exact issue_leaves hcarm_keeps _ _ _ w
  | toksort _ => exact issue_leaves toksort_keeps _ _ _ w
  | time _ => exact issue_leaves (timeRead_keeps fun _ _ wu => wu) _ _ _ w
  | cyc _ => exact execCyc_leaves w _
  | dampst _ => exact execDampst_leaves w _
  | dline _ => exact issue_leaves dline_keeps _ _ _ w
  | dchk _ => exact issue_leaves dchk_keeps _ _ _ w
  -- SY
  | quotaCsrWrite _ => exact issue_leaves quotaWrite_keeps _ _ _ w
  | turnPeriodWrite _ => exact issue_leaves turnPeriodWrite_keeps _ _ _ w
  | swallowWrite _ => exact issue_leaves swallowWrite_keeps _ _ _ w
  | droopthWrite _ => exact issue_leaves droopthWrite_keeps _ _ _ w
  | dampcfgWrite _ => exact issue_leaves dampcfgWrite_keeps _ _ _ w
  | slewbudgetWrite _ => exact issue_leaves slewbudgetWrite_keeps _ _ _ w
  | placetabSelect _ => exact issue_leaves placetabSelect_keeps _ _ _ w
  | healthWrite _ => exact issue_leaves healthWrite_keeps _ _ _ w
  | healthRead _ => exact issue_leaves healthRead_keeps _ _ _ w
  | ringbaseWrite _ => exact issue_leaves ringbaseWrite_keeps _ _ _ w
  | ctxpoolWrite _ => exact issue_leaves ctxpoolWrite_keeps _ _ _ w
  | collcfgWrite _ => exact issue_leaves collcfgWrite_keeps _ _ _ w
  | csrrdp _ => exact issue_leaves csrrdp_keeps _ _ _ w
  | csrwrp _ => exact issue_leaves csrwrp_keeps _ _ _ w
  | eret _ => exact issue_leaves eret_keeps _ _ _ w
  | wfi _ => exact issue_leaves wfi_keeps _ _ _ w
  | tlbinv _ => exact issue_leaves tlbinv_keeps _ _ _ w
  | tlbharv _ => exact issue_leaves tlbharv_keeps _ _ _ w
  | ctxsave _ => exact issue_leaves ctxsave_keeps _ _ _ w
  | ctxload _ => exact issue_leaves ctxload_keeps _ _ _ w
  | halt _ => exact issue_leaves halt_keeps _ _ _ w
  | placewr _ => exact issue_leaves placewr_keeps _ _ _ w
  | fringCons _ => exact issue_leaves fringCons_keeps _ _ _ w
  | fringResume _ => exact issue_leaves (onToken_keeps fun wu t => State.clearToken_memWf wu t.num) _ _ _ w
  | fringKill _ => exact issue_leaves (onToken_keeps fun wu t => State.killToken_memWf wu t) _ _ _ w
  | fringQuota _ => exact issue_leaves (onToken_keeps fun wu t => State.quotaToken_memWf wu t) _ _ _ w
  -- the register families, and the events
  | _ => cases ho <;> exact register_leaves rfl rfl (by unfold registerOnly; decide) w

/-- THE MEANING OF EVERY INSTRUCTION AND EVENT KEEPS THE FORM. -/
theorem exec_keeps : KeepsAll exec := by
  intro i u w
  cases ho : i.ops with
  | none => exact event_leaves ho w
  | some o => exact instruction_leaves ho w

end

/-- Settles O53: each instruction, event and access of a step changes the memories by writes that keep their form. -/
theorem stepKeepsMemoryCanonical : Obligations.StepKeepsMemoryCanonical := by
  intro s t w hstep
  exact runStep_leaves exec_keeps w t hstep

end Sys2Proof.Machine
end

section
/-! What a byte is at its point of coherence while lines come into their slices and leave them (04 R68, R71, R74, R75, R257). -/
namespace Sys2Proof.Machine
open Sys2Proof.Stated

/-- What is found by a number that no two elements share is the element of that number. -/
theorem find?_key_iff {α : Type} {key : α → Nat} {l : List α} (hn : (l.map key).Nodup) {n : Nat} {x : α} :
    l.find? (fun a => key a == n) = some x ↔ x ∈ l ∧ key x = n := by
  refine ⟨fun h => ⟨List.mem_of_find?_eq_some h, by simpa using List.find?_some h⟩, fun ⟨hx, hk⟩ => ?_⟩
  cases hf : l.find? (fun a => key a == n) with
  | none => exact absurd hk (by simpa using List.find?_eq_none.mp hf x hx)
  | some y =>
    have hy : key y = n := by simpa using List.find?_some hf
    rw [List.inj_on_of_nodup_map hn (List.mem_of_find?_eq_some hf) hx (hy.trans hk.symm)]

/-! ### Lines beside a memory -/

/-- A byte of the lines of the slices, else of the memory behind them. -/
def lineByte (ls : List SLine) (m : Mem) (x : Nat) : Byte :=
  match ls.find? fun l => l.line == x / 128 with
  | some l => l.data.getD (x % 128) 0
  | none => memGet m x

/-- Each line once, of 128 bytes, and an unmodified one as the memory has it. -/
def LinesAgree (ls : List SLine) (m : Mem) : Prop :=
  (ls.map fun l => l.line).Nodup ∧ ∀ l ∈ ls, l.data.length = 128 ∧ (l.modified = false → memRead m (l.line * 128) 128 = l.data)

section
variable {ls : List SLine} {m : Mem} {x : Nat}

theorem memRead_getD (m : Mem) (a : Nat) {n i : Nat} (h : i < n) : (memRead m a n).getD i 0 = memGet m (a + i) := by
  simp [memRead, List.getD_eq_getElem?_getD, h]

theorem lineByte_of_mem (h : LinesAgree ls m) {l : SLine} (hl : l ∈ ls) (hx : l.line = x / 128) :
    lineByte ls m x = l.data.getD (x % 128) 0 := by
  have hf : ls.find? (fun l => l.line == x / 128) = some l := (find?_key_iff h.1).mpr ⟨hl, hx⟩
  rw [lineByte, hf]

theorem lineByte_of_none (h : ∀ l ∈ ls, l.line ≠ x / 128) : lineByte ls m x = memGet m x := by
  have hf : ls.find? (fun l => l.line == x / 128) = none := List.find?_eq_none.mpr (by simpa using h)
  rw [lineByte, hf]

/-- Lines whose marks alone change hold the same bytes. -/
theorem lineByte_marks (f : SLine → SLine) (hf : ∀ l, ∃ k, f l = { l with mark := k }) (h : LinesAgree ls m) :
    LinesAgree (ls.map f) m ∧ ∀ x, lineByte (ls.map f) m x = lineByte ls m x := by
  have hline (l : SLine) : (f l).line = l.line := by obtain ⟨k, hk⟩ := hf l; rw [hk]
  have hdata (l : SLine) : (f l).data = l.data := by obtain ⟨k, hk⟩ := hf l; rw [hk]
  have hmod (l : SLine) : (f l).modified = l.modified := by obtain ⟨k, hk⟩ := hf l; rw [hk]
  have hagree : LinesAgree (ls.map f) m := by
    refine ⟨?_, fun l hl => ?_⟩
    · simpa only [List.map_map, Function.comp_def, hline] using h.1
    · obtain ⟨k, hk, rfl⟩ := List.mem_map.mp hl
      rw [hline, hdata, hmod]
      exact h.2 k hk
  refine ⟨hagree, fun x => ?_⟩
  by_cases hx : ∃ l ∈ ls, l.line = x / 128
  · obtain ⟨l, hl, hlx⟩ := hx
    rw [lineByte_of_mem h hl hlx, lineByte_of_mem hagree (List.mem_map_of_mem hl) ((hline l).trans hlx), hdata]
  · push Not at hx
    rw [lineByte_of_none hx, lineByte_of_none fun l hl => ?_]
    obtain ⟨k, hk, rfl⟩ := List.mem_map.mp hl
    rw [hline]
    exact hx k hk

theorem LinesAgree.filter (h : LinesAgree ls m) (p : SLine → Bool) : LinesAgree (ls.filter p) m :=
  ⟨h.1.sublist (List.filter_sublist.map _), fun l hl => h.2 l (List.mem_of_mem_filter hl)⟩

/-- A line that is not held yet joins the others. -/
theorem LinesAgree.cons (h : LinesAgree ls m) {l : SLine} (hn : ∀ k ∈ ls, k.line ≠ l.line) (hl : l.data.length = 128)
    (hm : l.modified = false → memRead m (l.line * 128) 128 = l.data) : LinesAgree (l :: ls) m := by
  refine ⟨List.nodup_cons.mpr ⟨fun hmem => ?_, h.1⟩, List.forall_mem_cons.mpr ⟨⟨hl, hm⟩, h.2⟩⟩
  obtain ⟨k, hk, hkl⟩ := List.mem_map.mp hmem
  exact hn k hk hkl

theorem lineByte_cons_same {l : SLine} (hx : l.line = x / 128) : lineByte (l :: ls) m x = l.data.getD (x % 128) 0 := by
  simp [lineByte, hx]

theorem lineByte_cons_ne {l : SLine} (hx : l.line ≠ x / 128) : lineByte (l :: ls) m x = lineByte ls m x := by
  simp [lineByte, hx]

theorem lineByte_filter_ne (h : LinesAgree ls m) {n : Nat} (hx : n ≠ x / 128) :
    lineByte (ls.filter fun k => k.line != n) m x = lineByte ls m x := by
  by_cases hh : ∃ l ∈ ls, l.line = x / 128
  · obtain ⟨l, hl, hlx⟩ := hh
    have hmem : l ∈ ls.filter fun k => k.line != n := List.mem_filter.mpr ⟨hl, by simpa [hlx] using fun e => hx e.symm⟩
    rw [lineByte_of_mem h hl hlx, lineByte_of_mem (h.filter _) hmem hlx]
  · push Not at hh
    rw [lineByte_of_none hh, lineByte_of_none fun l hl => hh l (List.mem_of_mem_filter hl)]

/-- A line that is hit goes to the front, under a mark. -/
theorem lineByte_front (h : LinesAgree ls m) {l : SLine} (hl : l ∈ ls) (k : Mark) :
    LinesAgree ({ l with mark := k } :: ls.filter fun j => j.line != l.line) m ∧
      ∀ x, lineByte ({ l with mark := k } :: ls.filter fun j => j.line != l.line) m x = lineByte ls m x := by
  refine ⟨(h.filter _).cons (fun j hj => ?_) (h.2 l hl).1 (h.2 l hl).2, fun x => ?_⟩
  · simpa using (List.mem_filter.mp hj).2
  · by_cases hx : l.line = x / 128
    · rw [lineByte_cons_same (l := { l with mark := k }) hx, lineByte_of_mem h hl hx]
    · rw [lineByte_cons_ne (l := { l with mark := k }) hx, lineByte_filter_ne h hx]

/-- A line that is filled takes what the memory has. -/
theorem lineByte_fill (h : LinesAgree ls m) {n : Nat} (hn : ∀ l ∈ ls, l.line ≠ n) (k : Mark) :
    LinesAgree ({ line := n, data := memRead m (n * 128) 128, mark := k } :: ls) m ∧
      ∀ x, lineByte ({ line := n, data := memRead m (n * 128) 128, mark := k } :: ls) m x = lineByte ls m x := by
  refine ⟨h.cons hn (by simp [memRead]) fun _ => rfl, fun x => ?_⟩
  by_cases hx : n = x / 128
  · rw [lineByte_cons_same (l := { line := n, data := memRead m (n * 128) 128, mark := k }) hx,
      lineByte_of_none fun l hl => hx ▸ hn l hl, memRead_getD m _ (Nat.mod_lt x (by omega))]
    congr 1
    omega
  · exact lineByte_cons_ne (l := { line := n, data := memRead m (n * 128) 128, mark := k }) hx

/-- A line leaves its slice, and the memory takes its bytes where it is modified. -/
theorem lineByte_evict (w : m.wf = true) (h : LinesAgree ls m) {l : SLine} (hl : l ∈ ls) :
    LinesAgree (ls.filter fun k => k.line != l.line) (if l.modified then memWrite m (l.line * 128) l.data else m) ∧
      ∀ x, lineByte (ls.filter fun k => k.line != l.line) (if l.modified then memWrite m (l.line * 128) l.data else m) x
        = lineByte ls m x := by
  obtain ⟨hlen, hsame⟩ := h.2 l hl
  have hother {x : Nat} (hx : l.line ≠ x / 128) :
      memGet (if l.modified then memWrite m (l.line * 128) l.data else m) x = memGet m x := by
    split
    · rw [memGet_memWrite w, if_neg (by omega)]
    · rfl
  have hown {x : Nat} (hx : l.line = x / 128) :
      memGet (if l.modified then memWrite m (l.line * 128) l.data else m) x = l.data.getD (x % 128) 0 := by
    cases hmod : l.modified with
    | true =>
      rw [if_pos rfl, memGet_memWrite w, if_pos (by omega)]
      congr 1
      omega
    | false =>
      rw [if_neg (by simp), ← hsame hmod, memRead_getD m _ (Nat.mod_lt x (by omega))]
      congr 1
      omega
  refine ⟨⟨(h.filter _).1, fun k hk => ?_⟩, fun x => ?_⟩
  · obtain ⟨hk, hne⟩ := List.mem_filter.mp hk
    obtain ⟨hklen, hksame⟩ := h.2 k hk
    refine ⟨hklen, fun hmod => ?_⟩
    rw [← hksame hmod]
    refine List.map_congr_left fun i hi => hother ?_
    have hi' : i < 128 := by simpa using hi
    have hne' : k.line ≠ l.line := by simpa using hne
    omega
  · by_cases hx : l.line = x / 128
    · rw [lineByte_of_mem h hl hx, lineByte_of_none fun k hk => ?_, hown hx]
      have := (List.mem_filter.mp hk).2
      simp only [bne_iff_ne] at this
      omega
    · have hf := lineByte_filter_ne (m := m) h hx
      by_cases hh : ∃ k ∈ ls, k.line = x / 128
      · obtain ⟨k, hk, hkx⟩ := hh
        have hmem : k ∈ ls.filter fun k => k.line != l.line := List.mem_filter.mpr ⟨hk, by simpa using by omega⟩
        have hfind : (ls.filter fun k => k.line != l.line).find? (fun j => j.line == x / 128) = some k :=
          (find?_key_iff (h.filter _).1).mpr ⟨hmem, hkx⟩
        rw [lineByte_of_mem h hk hkx, lineByte, hfind]
      · push Not at hh
        rw [lineByte_of_none hh, lineByte_of_none fun k hk => hh k (List.mem_of_mem_filter hk), hother hx]

end

/-! ### Home slices -/

section
variable {s t : State}

theorem State.linesAgree_iff : s.linesAgree = true ↔ LinesAgree s.sram s.mem := by
  simp only [State.linesAgree, LinesAgree, Bool.and_eq_true, decide_eq_true_eq, List.all_eq_true, beq_iff_eq, Bool.or_eq_true,
    ← Bool.not_eq_true, imp_iff_not_or, not_not]

/-- The canonical form and the agreement of the slices, and the bytes of another state. -/
structure SameHome (s t : State) : Prop where
  wf : t.memWf = true
  agree : t.linesAgree = true
  home : ∀ x, t.home x = s.home x

theorem SameHome.trans {r : State} (h : SameHome r s) (k : SameHome s t) : SameHome r t :=
  ⟨k.wf, k.agree, fun x => (k.home x).trans (h.home x)⟩

theorem SameHome.refl (w : s.memWf = true) (h : s.linesAgree = true) : SameHome s s := ⟨w, h, fun _ => rfl⟩

theorem State.home_eq (s : State) (x : Nat) :
    s.home x = if isRegSpace x then s.regByte (x - barBase) else lineByte s.sram s.mem x := rfl

/-- Of a state with other lines and another memory, that hold the same bytes. -/
theorem SameHome.of_lines (w : t.memWf = true) (ha : t.aelmel = s.aelmel) (hs : t.sched = s.sched)
    (h : LinesAgree t.sram t.mem ∧ ∀ x, lineByte t.sram t.mem x = lineByte s.sram s.mem x) : SameHome s t := by
  refine ⟨w, State.linesAgree_iff.mpr h.1, fun x => ?_⟩
  have hr : t.regByte (x - barBase) = s.regByte (x - barBase) := by simp only [State.regByte, ha, hs]
  rw [State.home_eq, State.home_eq, hr, h.2 x]

theorem State.capLast_sameHome (w : s.memWf = true) (h : s.linesAgree = true) (line : Nat) : SameHome s (s.capLast line) := by
  unfold State.capLast
  dsimp only
  split
  · exact .refl w h
  · split
    · exact .refl w h
    · refine SameHome.of_lines w rfl rfl (lineByte_marks _ (fun l => ?_) (State.linesAgree_iff.mp h))
      split
      · exact ⟨_, rfl⟩
      · exact ⟨l.mark, rfl⟩

theorem State.evict_sameHome (w : s.memWf = true) (h : s.linesAgree = true) (line : Nat) : SameHome s (s.evict line) := by
  have hw := State.evict_memWf line w
  revert hw
  unfold State.evict
  split
  · exact fun _ => .refl w h
  next l hl =>
    obtain ⟨hmem, hline⟩ := (find?_key_iff (State.linesAgree_iff.mp h).1).mp hl
    subst hline
    intro hw
    refine SameHome.of_lines hw (State.intoStack_aelmel s l) ?_ ?_
    · unfold State.intoStack
      split <;> rfl
    · have he := lineByte_evict (State.memWf_mem w) (State.linesAgree_iff.mp h) hmem
      unfold State.intoStack
      split
      next hm => simpa only [hm, if_true] using he
      next hm => simpa only [hm, if_false, Bool.false_eq_true] using he

/-- Bringing a line to the front of its slice changes no byte. -/
theorem State.touch_sameHome (w : s.memWf = true) (h : s.linesAgree = true) (line hint : Nat) : SameHome s (s.touch line hint) := by
  unfold State.touch
  split
  · exact .refl w h
  · split
    next l hl =>
      obtain ⟨hmem, hline⟩ := (find?_key_iff (State.linesAgree_iff.mp h).1).mp hl
      subst hline
      have hf : SameHome s { s with sram := { l with mark := markHit hint l.mark } :: s.sram.filter fun k => k.line != l.line } :=
        .of_lines w rfl rfl (lineByte_front (State.linesAgree_iff.mp h) hmem _)
      exact hf.trans (State.capLast_sameHome hf.wf hf.agree _)
    next hl =>
      split
      · exact .refl w h
      · dsimp only
        have hfill {u : State} (hu : SameHome s u) (hn : ∀ l ∈ u.sram, l.line ≠ line) : SameHome s (if u.sways line = 0 then u else
            ({ u with
                sram := { line := line, data := memRead u.mem (line * 128) 128, mark := markFill hint } :: u.sram
                badSlices := u.badSlices ++ u.badBursts.filter fun b => b.burst / 2 == line } : State).capLast line) := by
          split
          · exact hu
          · have hf : SameHome u { u with
                sram := { line := line, data := memRead u.mem (line * 128) 128, mark := markFill hint } :: u.sram
                badSlices := u.badSlices ++ u.badBursts.filter fun b => b.burst / 2 == line } :=
              .of_lines hu.wf rfl rfl (lineByte_fill (State.linesAgree_iff.mp hu.agree) hn _)
            exact (hu.trans hf).trans (State.capLast_sameHome hf.wf hf.agree _)
        have hno : ∀ l ∈ s.sram, l.line ≠ line := by simpa [State.sline?] using hl
        split
        · exact hfill (.refl w h) hno
        · split
          next v _ =>
            refine hfill (State.evict_sameHome w h v.line) fun l hl' => hno l ?_
            revert hl'
            unfold State.evict State.intoStack
            split
            · exact id
            · split <;> exact fun hl' => List.mem_of_mem_filter hl'
          · exact hfill (.refl w h) hno

end

end Sys2Proof.Machine
end

section
/-! Which bytes a load of a group takes as its lines are read: through the tile cache and the store path (04 R71, R72, 14 R257). -/
namespace Sys2Proof.Machine
open Sys2Proof.Stated

/-! ### A tile's cache and path -/

/-- The bytes of a line in a tile's cache. -/
def Tile.lineData (t : Tile) (line : Nat) : Option (List Byte) := (t.cline? line).map fun l => l.data

section
variable (t : Tile) (line : Nat)

theorem Tile.lineData_marks (f : CLine → CLine) (hf : ∀ l, ∃ k, f l = { l with mark := k }) (k : Nat) :
    ({ t with cache := t.cache.map f } : Tile).lineData k = t.lineData k := by
  have hline (l : CLine) : (f l).line = l.line := by obtain ⟨m, hm⟩ := hf l; rw [hm]
  have hdata (l : CLine) : (f l).data = l.data := by obtain ⟨m, hm⟩ := hf l; rw [hm]
  simp only [Tile.lineData, Tile.cline?, List.find?_map, Function.comp_def, hline, Option.map_map, hdata]

theorem Tile.capLast_lineData (k : Nat) : (t.capLast line).lineData k = t.lineData k := by
  unfold Tile.capLast
  dsimp only
  split
  · rfl
  · split
    · rfl
    · refine t.lineData_marks _ (fun l => ?_) k
      split
      · exact ⟨_, rfl⟩
      · exact ⟨l.mark, rfl⟩

theorem Tile.capLast_path : (t.capLast line).path = t.path := by
  unfold Tile.capLast
  dsimp only
  split
  · rfl
  · split <;> rfl

theorem Tile.capLast_lengths (h : ∀ l ∈ t.cache, l.data.length = 128) : ∀ l ∈ (t.capLast line).cache, l.data.length = 128 := by
  unfold Tile.capLast
  dsimp only
  split
  · exact h
  · split
    · exact h
    · intro l hl
      obtain ⟨k, hk, rfl⟩ := List.mem_map.mp hl
      split
      · exact h k hk
      · exact h k hk

theorem Tile.lineData_cons_ne {l : CLine} {c : List CLine} {k : Nat} (h : l.line ≠ k) :
    ({ t with cache := l :: c } : Tile).lineData k = ({ t with cache := c } : Tile).lineData k := by
  simp [Tile.lineData, Tile.cline?, h]

theorem Tile.lineData_filter_ne {k : Nat} (h : k ≠ line) :
    ({ t with cache := t.cache.filter fun l => l.line != line } : Tile).lineData k = t.lineData k := by
  have hp (l : CLine) : ((l.line != line) && (l.line == k)) = (l.line == k) := by
    by_cases hl : l.line = k
    · simp [hl, h]
    · simp [hl]
  simp only [Tile.lineData, Tile.cline?, List.find?_filter, ← Bool.and_eq_true, Bool.decide_eq_true, hp]

theorem Tile.dropLine_lineData {k : Nat} (h : k ≠ line) : (t.dropLine line).lineData k = t.lineData k := t.lineData_filter_ne line h

theorem Tile.hitLine_lineData (hint k : Nat) : (t.hitLine line hint).lineData k = t.lineData k := by
  unfold Tile.hitLine
  split
  next l hl =>
    have hline : l.line = line := by simpa using List.find?_some hl
    rw [Tile.capLast_lineData]
    by_cases hk : k = line
    · rw [hk, Tile.lineData, Tile.lineData, hl]
      simp [Tile.cline?, hline]
    · rw [t.lineData_cons_ne (l := { l with mark := markHit hint l.mark }) fun h => hk (h.symm.trans hline),
        t.lineData_filter_ne line hk]
  · rfl

theorem Tile.hitLine_path (hint : Nat) : (t.hitLine line hint).path = t.path := by
  unfold Tile.hitLine
  split
  · exact Tile.capLast_path _ _
  · rfl

theorem Tile.hitLine_lengths (hint : Nat) (h : ∀ l ∈ t.cache, l.data.length = 128) :
    ∀ l ∈ (t.hitLine line hint).cache, l.data.length = 128 := by
  unfold Tile.hitLine
  split
  next l hl =>
    refine Tile.capLast_lengths _ _ (List.forall_mem_cons.mpr ⟨h l (List.mem_of_find?_eq_some hl), fun k hk => ?_⟩)
    exact h k (List.mem_of_mem_filter hk)
  · exact h

theorem victimOf_mem {α : Type} {mark : α → Mark} {set : List α} {x : α} (h : victimOf mark set = some x) : x ∈ set := by
  have hpick {m : Mark} {y : α} (hy : (set.filter fun l => mark l == m).getLast? = some y) : y ∈ set :=
    List.mem_of_mem_filter (List.mem_of_getLast? hy)
  unfold victimOf at h
  dsimp only at h
  split at h
  next hy => cases h; exact hpick hy
  · split at h
    next hy => cases h; exact hpick hy
    · exact hpick h

/-- A fill touches lines of its own set alone. -/
theorem Tile.fillLine_lineData (data : List Byte) (hint clock : Nat) {k : Nat} (h : k % 128 ≠ line % 128) :
    (t.fillLine line data hint clock).lineData k = t.lineData k := by
  have hk : k ≠ line := fun e => h (e ▸ rfl)
  unfold Tile.fillLine
  split
  next l hl =>
    have hline : l.line = line := by simpa using List.find?_some hl
    rw [Tile.capLast_lineData, t.lineData_cons_ne (l := { l with data := data, mark := markHit hint l.mark, fill := clock })
      fun e => hk (e.symm.trans hline), t.lineData_filter_ne line hk]
  · split
    · rfl
    · dsimp only
      rw [Tile.capLast_lineData]
      have hc (u : Tile) (hu : u.lineData k = t.lineData k) :
          ({ u with cache := { line := line, data := data, mark := markFill hint, fill := clock } :: u.cache } : Tile).lineData k
            = t.lineData k :=
        (u.lineData_cons_ne (l := { line := line, data := data, mark := markFill hint, fill := clock }) fun e => hk e.symm).trans hu
      apply hc
      split
      · rfl
      · split
        next v hv =>
          have hset := (List.mem_filter.mp (victimOf_mem hv)).2
          refine t.dropLine_lineData v.line fun e => h ?_
          rw [e]
          simpa using hset
        · rfl

theorem Tile.fillLine_path (data : List Byte) (hint clock : Nat) : (t.fillLine line data hint clock).path = t.path := by
  unfold Tile.fillLine
  split
  · exact Tile.capLast_path _ _
  · split
    · rfl
    · dsimp only
      rw [Tile.capLast_path]
      split
      · rfl
      · split <;> rfl

theorem Tile.fillLine_lengths {data : List Byte} (hint clock : Nat) (hd : data.length = 128)
    (h : ∀ l ∈ t.cache, l.data.length = 128) : ∀ l ∈ (t.fillLine line data hint clock).cache, l.data.length = 128 := by
  unfold Tile.fillLine
  split
  · refine Tile.capLast_lengths _ _ (List.forall_mem_cons.mpr ⟨hd, fun k hk => ?_⟩)
    exact h k (List.mem_of_mem_filter hk)
  · split
    · exact h
    · refine Tile.capLast_lengths _ _ (List.forall_mem_cons.mpr ⟨hd, fun k hk => ?_⟩)
      revert hk
      split
      · exact h k
      · split
        · exact fun hk => h k (List.mem_of_mem_filter hk)
        · exact h k

end

/-! ### The stores of a path over a line -/

/-- The newest store of the path that covers a byte is the one that a load of the tile takes. -/
theorem ownByte_eq (s : State) (tile x : Nat) : ownByte s tile x = (s.tile tile).path.reverse.findSome? fun e => e.byteAt x := by
  rfl

/-- The byte that a load of a group takes, by what the tile's cache has of the line. -/
theorem loadByte_eq (s : State) (g : Group) (tile : Nat) (cached : Bool) (x : Nat) :
    loadByte s g tile cached x = if g.core.isSome = true then s.home x else
      (ownByte s tile x).getD (match (s.tile tile).lineData (x / 128) with
        | some d => if cached = true ∧ s.isMemory (x / 128 * 128) = true then d.getD (x % 128) 0 else s.home x
        | none => s.home x) := by
  unfold loadByte Tile.lineData
  split
  · rfl
  · cases ownByte s tile x <;> cases (s.tile tile).cline? (x / 128) <;> rfl

/-- A line, overlaid with the stores of the path. -/
theorem overlay_line (s : State) (tile line : Nat) {bs : List Byte} (h : bs.length = 128) :
    overlay (s.tile tile).path (line * 128) bs
      = (List.range 128).map fun i => (ownByte s tile (line * 128 + i)).getD (bs.getD i 0) := by
  refine List.ext_getElem (by simp [overlay_length, h]) fun i hi _ => ?_
  rw [overlay_length, h] at hi
  have := overlay_getD (s.tile tile).path (line * 128) i bs (h ▸ hi)
  rw [List.getD_eq_getElem _ _ (by rwa [overlay_length, h])] at this
  rw [this]
  simp [ownByte_eq]

/-! ### Lines read -/

/-- After lines of some sets were read for a tile: the bytes at home, the path and the other sets' lines are as they were, and so is
the state beside the slices and the tiles. -/
structure Served (s t : State) (tile : Nat) (sets : List Nat) : Prop where
  home : SameHome s t
  path : (t.tile tile).path = (s.tile tile).path
  lengths : ∀ l ∈ (t.tile tile).cache, l.data.length = 128
  lines : ∀ k, k % 128 ∉ sets → (t.tile tile).lineData k = (s.tile tile).lineData k
  beside : t.beside.besideStores = s.beside.besideStores

section
variable {s t u : State} {tile : Nat} {a b : List Nat}

theorem Served.trans (h : Served s t tile a) (k : Served t u tile b) : Served s u tile (a ++ b) where
  home := h.home.trans k.home
  path := k.path.trans h.path
  lengths := k.lengths
  lines := fun n hn => (k.lines n fun e => hn (List.mem_append_right _ e)).trans (h.lines n fun e => hn (List.mem_append_left _ e))
  beside := k.beside.trans h.beside

theorem Served.isMemory (h : Served s t tile a) (x : Nat) : t.isMemory x = s.isMemory x :=
  congrArg (fun u : State => u.isMemory x) (a₁ := t.beside.besideStores) (a₂ := s.beside.besideStores) h.beside

/-- A byte of another set's line is taken as before. -/
theorem Served.loadByte (h : Served s t tile a) (g : Group) (cached : Bool) {x : Nat} (hx : x / 128 % 128 ∉ a) :
    loadByte t g tile cached x = loadByte s g tile cached x := by
  rw [loadByte_eq, loadByte_eq, h.home.home, h.isMemory, h.lines _ hx, ownByte_eq, ownByte_eq, h.path]

theorem Served.of_slices (hs : SameHome s t) (hb : t.beside = s.beside) (hl : ∀ l ∈ (s.tile tile).cache, l.data.length = 128)
    (a : List Nat) : Served s t tile a := by
  have ht : t.tile tile = s.tile tile := congrArg (fun u : State => u.tile tile) (a₁ := t.beside) (a₂ := s.beside) hb
  exact ⟨hs, by rw [ht], by rwa [ht], fun _ _ => by rw [ht], congrArg State.besideStores hb⟩

/-- Lines come into a tile's cache, or leave it. -/
theorem Served.of_tile (w : s.memWf = true) (h : s.linesAgree = true) {x : Tile} (hp : x.path = (s.tile tile).path)
    (hl : ∀ l ∈ x.cache, l.data.length = 128) (hk : ∀ k, k % 128 ∉ a → x.lineData k = (s.tile tile).lineData k) :
    Served s (s.setTile tile x) tile a := by
  have ht : (s.setTile tile x).tile tile = x := State.tile_setTile _ _ _
  exact ⟨⟨w, h, fun _ => rfl⟩, by rw [ht, hp], by rwa [ht], fun k hn => by rw [ht, hk k hn], rfl⟩

theorem State.homeRead_length (s : State) (pa n : Nat) : (s.homeRead pa n).length = n := by simp [State.homeRead]

/-- The line as home and the path have it is what a load takes of it that no copy in the cache serves. -/
theorem State.lineFor_eq (s : State) {g : Group} (hc : g.core.isSome = false) (tile line : Nat) {cached : Bool}
    (h : (s.tile tile).lineData line = none ∨ (cached && s.isMemory (line * 128)) = false) :
    s.lineFor tile line = (List.range 128).map fun i => loadByte s g tile cached (line * 128 + i) := by
  rw [State.lineFor, overlay_line _ _ _ (State.homeRead_length _ _ _)]
  refine List.map_congr_left fun i hi => ?_
  have hi : i < 128 := List.mem_range.mp hi
  have hd : (line * 128 + i) / 128 = line := by omega
  rw [loadByte_eq, hc, if_neg (by simp), hd, State.homeRead, List.getD_eq_getElem _ _ (by simpa using hi)]
  congr 1
  rw [List.getElem_map, List.getElem_range]
  rcases h with h | h
  · rw [h]
  · split
    · exact (if_neg (by simpa using h)).symm
    · rfl

/-- The line as a copy in the cache and the path have it. -/
theorem State.cached_eq (s : State) {g : Group} (hc : g.core.isSome = false) (tile line : Nat) {l : CLine}
    (hl : (s.tile tile).cline? line = some l) (hn : l.data.length = 128) (hm : s.isMemory (line * 128) = true) :
    overlay (s.tile tile).path (line * 128) l.data = (List.range 128).map fun i => loadByte s g tile true (line * 128 + i) := by
  rw [overlay_line _ _ _ hn]
  refine List.map_congr_left fun i hi => ?_
  have hi : i < 128 := List.mem_range.mp hi
  have hd : (line * 128 + i) / 128 = line := by omega
  have hr : (line * 128 + i) % 128 = i := by omega
  rw [loadByte_eq, hc, if_neg (by simp), hd, hr, Tile.lineData, hl, Option.map_some, hm]
  rfl

theorem State.fillTile_served (w : s.memWf = true) (h : s.linesAgree = true)
    (hl : ∀ l ∈ (s.tile tile).cache, l.data.length = 128) (line hint : Nat) :
    Served s (s.fillTile tile line hint) tile [line % 128] := by
  unfold State.fillTile
  split
  · refine Served.of_tile w h rfl (fun l hm => hl l (List.mem_of_mem_filter hm)) fun k hk => Tile.dropLine_lineData _ _ fun e => ?_
    exact hk (e ▸ List.mem_singleton_self _)
  · refine Served.of_tile w h (Tile.fillLine_path _ _ _ _ _) (Tile.fillLine_lengths _ _ _ _ ?_ hl) fun k hk =>
      Tile.fillLine_lineData _ _ _ _ _ (by simpa using hk)
    rw [State.lineFor, overlay_length, State.homeRead_length]

theorem State.touch_served (w : s.memWf = true) (h : s.linesAgree = true)
    (hl : ∀ l ∈ (s.tile tile).cache, l.data.length = 128) (attr line hint : Nat) :
    Served s (if attr = 2 then s else s.touch line hint) tile [] := by
  split
  · exact .of_slices (.refl w h) rfl hl _
  · exact .of_slices (State.touch_sameHome w h line hint) (s.touch_beside line hint) hl _

/-- What a group reads of a line is what a load takes byte by byte, and the other sets' lines stay. -/
theorem State.groupLine_served (w : s.memWf = true) (h : s.linesAgree = true)
    (hl : ∀ l ∈ (s.tile tile).cache, l.data.length = 128) (g : Group) (line attr : Nat) (wide : Bool) (hint : Nat)
    (ha : wide = true → attr = 0) :
    Served s (s.groupLine g tile line attr wide hint).1 tile [line % 128] ∧ (s.groupLine g tile line attr wide hint).2
      = (List.range 128).map fun i => loadByte s g tile wide (line * 128 + i) := by
  unfold State.groupLine
  split
  next hc =>
    refine ⟨(State.touch_served w h hl attr line hint).trans (b := [line % 128]) ?_, List.map_congr_left fun i _ => ?_⟩
    · have ht := State.touch_served w h hl attr line hint
      exact .of_slices (.refl ht.home.wf ht.home.agree) rfl ht.lengths _
    · rw [loadByte_eq, if_pos hc]
  next hc =>
    have hc : g.core.isSome = false := by simpa using hc
    have ht := State.touch_served w h hl attr line hint
    have hfill : Served s (if (decide (attr = 0) && s.isMemory (line * 128)) = true
        then State.fillTile (if attr = 2 then s else s.touch line hint) tile line hint
        else if attr = 2 then s else s.touch line hint) tile [line % 128] := by
      split
      · exact ht.trans (b := [line % 128]) (State.fillTile_served ht.home.wf ht.home.agree ht.lengths line hint)
      · exact ht.trans (b := [line % 128]) (.of_slices (.refl ht.home.wf ht.home.agree) rfl ht.lengths _)
    unfold State.lineRead
    dsimp only
    split
    next l hcl hm =>
      obtain ⟨hw, -, hmem⟩ : wide = true ∧ attr = 0 ∧ s.isMemory (line * 128) = true := by simpa using hm
      subst hw
      refine ⟨Served.of_tile w h (Tile.hitLine_path _ _ _) (Tile.hitLine_lengths _ _ _ hl) fun k _ => Tile.hitLine_lineData _ _ _ _,
        s.cached_eq hc tile line hcl (hl l (List.mem_of_find?_eq_some hcl)) hmem⟩
    next hno =>
      refine ⟨hfill, ?_⟩
      rw [State.lineFor_eq _ hc tile line (cached := wide)]
      · refine List.map_congr_left fun i _ => ht.loadByte g wide (by simp)
      · rw [ht.lines line (by simp), ht.isMemory]
        cases hcl : (s.tile tile).cline? line with
        | none => exact .inl (by rw [Tile.lineData, hcl]; rfl)
        | some l =>
          refine .inr (Bool.eq_false_iff.mpr fun hm => hno l hcl ?_)
          have hw : wide = true := by simp_all
          simpa [hw, ha hw] using hm

end

end Sys2Proof.Machine
end

section
/-! How a lane of a load that stands alone in the log binds (14 R257, R258; 04 R78). -/
namespace Sys2Proof.Machine
open Sys2Proof.Stated

/-! ### Reading the lines of parts -/

/-- What a load reads of the line of a part. -/
def lineTaken (s : State) (g : Group) (tile : Nat) (wide : Bool) (p : Piece) : Nat × List Byte :=
  (p.pa / 128, (List.range 128).map fun i => loadByte s g tile (wide && p.attr == 0) (p.pa / 128 * 128 + i))

theorem State.readLines_served (g : Group) (tile : Nat) (wide : Bool) (hint : Nat) : ∀ (ps : List Piece) (s : State),
    s.memWf = true → s.linesAgree = true → (∀ l ∈ (s.tile tile).cache, l.data.length = 128) →
    (ps.map fun p => p.pa / 128 % 128).Nodup →
    Served s (s.readLines g tile wide hint ps).1 tile (ps.map fun p => p.pa / 128 % 128) ∧
      (s.readLines g tile wide hint ps).2 = ps.map (lineTaken s g tile wide)
  | [], s, w, h, hl, _ => ⟨.of_slices (.refl w h) rfl hl _, rfl⟩
  | p :: t, s, w, h, hl, hn => by
    obtain ⟨hp, ht⟩ := List.nodup_cons.mp hn
    obtain ⟨hs, hd⟩ := State.groupLine_served w h hl g (p.pa / 128) p.attr (wide && p.attr == 0) hint (by simp)
    obtain ⟨hr, hv⟩ := State.readLines_served g tile wide hint t _ hs.home.wf hs.home.agree hs.lengths ht
    refine ⟨hs.trans hr, ?_⟩
    refine congrArg₂ List.cons (congrArg (Prod.mk (p.pa / 128)) hd) (hv.trans (List.map_congr_left fun q hq => ?_))
    have hne : q.pa / 128 % 128 ≠ p.pa / 128 % 128 := fun e => hp (List.mem_map.mpr ⟨q, hq, e⟩)
    refine congrArg (Prod.mk _) (List.map_congr_left fun i hi => hs.loadByte g _ ?_)
    have hi : i < 128 := List.mem_range.mp hi
    have hx : (q.pa / 128 * 128 + i) / 128 = q.pa / 128 := by omega
    simpa [hx] using hne

/-- An error in part of a range is one of the range. -/
theorem State.badRead_mono {s : State} {pa n qa m : Nat} (h : s.badRead pa n = false) (hl : pa ≤ qa) (hr : qa + m ≤ pa + n) :
    s.badRead qa m = false := by
  have hin {b : Nat} (hb : burstIn qa m b = true) : burstIn pa n b = true := by
    simp only [burstIn, Bool.and_eq_true, decide_eq_true_eq] at hb ⊢
    omega
  simp only [State.badRead, Bool.or_eq_false_iff, List.any_eq_false, Bool.and_eq_true, not_and] at h ⊢
  exact ⟨fun b hb hq => h.1 b hb (hin hq), fun b hb hq => h.2 b hb (hin hq)⟩

theorem State.badIn_none {s : State} {read : Piece → Bool} (ps : List Piece)
    (h : ∀ p ∈ ps, read p = true → s.badRead p.pa p.n = false) (off : Nat) : s.badIn read off ps = none := by
  induction ps generalizing off with
  | nil => rfl
  | cons p t ih =>
    obtain ⟨hp, ht⟩ := List.forall_mem_cons.mp h
    have hb : (if read p = true then s.badByte p else none) = none := by
      split
      next hr => rw [State.badByte, hp hr, if_neg (by simp)]
      · rfl
    rw [State.badIn, hb]
    exact ih ht _

/-! ### The value of an access -/

/-- The bytes of an access whose lines are known. -/
theorem valueIn_eq {reads : List (Nat × List Byte)} {f : Piece → List Byte} {ps : List Piece}
    (h : ∀ p ∈ ps, ∃ r, reads.find? (fun r => r.1 == p.pa / 128) = some r ∧ (r.2.drop (p.pa % 128)).take p.n = f p) :
    valueIn reads ps = some (ps.flatMap f) := by
  induction ps with
  | nil => rfl
  | cons p t ih =>
    obtain ⟨⟨r, hr, hf⟩, ht⟩ := List.forall_mem_cons.mp h
    have hv := ih ht
    unfold valueIn at hv ⊢
    rw [List.foldr_cons, hv, hr, List.flatMap_cons, ← hf]

theorem drop_take_eq {bs : List Byte} {o n : Nat} (h : o + n ≤ bs.length) :
    (bs.drop o).take n = (List.range n).map fun k => bs.getD (o + k) 0 := by
  refine List.ext_getElem (by simp; omega) fun i hi _ => ?_
  have hi : i < n := by simp at hi; omega
  simp [List.getElem?_eq_getElem (show o + i < bs.length by omega)]

/-- Parts of different sets are of different lines. -/
theorem eq_of_line {ps : List Piece} (hn : (ps.map fun p => p.pa / 128 % 128).Nodup) {p q : Piece} (hp : p ∈ ps) (hq : q ∈ ps)
    (h : p.pa / 128 = q.pa / 128) : p = q := List.inj_on_of_nodup_map hn hp hq (by rw [h])

/-- What an entry holds, or reads, of the line of a part gives the bytes that the access takes. -/
theorem takenBytes_of_line {s : State} {g : Group} {e : LogEntry} {ps : List Piece} {n scope hint : Nat} {signed acq dev : Bool}
    (hop : e.op = .load n signed acq scope hint)
    (hn : (ps.map fun p => p.pa / 128 % 128).Nodup) (hr : ∀ r ∈ e.reads, r.2.length = 128) {p : Piece} (hp : p ∈ ps)
    (hb : p.pa % 128 + p.n ≤ 128) :
    (((((if dev = true then none else e.reads.find? fun r => r.1 == p.pa / 128).getD
      (lineTaken s g e.tile (s.tileWide g scope) p)).2).drop (p.pa % 128)).take p.n)
      = (List.range p.n).map fun k => takenByte s g e ps dev (p.pa + k) := by
  have hlen : ((if dev = true then none else e.reads.find? fun r => r.1 == p.pa / 128).getD
      (lineTaken s g e.tile (s.tileWide g scope) p)).2.length = 128 := by
    cases hf : (if dev = true then none else e.reads.find? fun r => r.1 == p.pa / 128) with
    | none => simp [lineTaken]
    | some r =>
      split at hf
      · cases hf
      · exact hr r (List.mem_of_find?_eq_some hf)
  rw [drop_take_eq (by rw [hlen]; exact hb)]
  refine List.map_congr_left fun k hk => ?_
  have hk : k < p.n := List.mem_range.mp hk
  have hd : (p.pa + k) / 128 = p.pa / 128 := by omega
  have hm : (p.pa + k) % 128 = p.pa % 128 + k := by omega
  have hany : (ps.any fun q => decide (q.pa / 128 = p.pa / 128) && q.attr == 0) = (p.attr == 0) := by
    refine Bool.eq_iff_iff.mpr ⟨fun h => ?_, fun h => List.any_eq_true.mpr ⟨p, hp, by simp [h]⟩⟩
    obtain ⟨q, hq, hqp⟩ := List.any_eq_true.mp h
    obtain ⟨hline, hattr⟩ := Bool.and_eq_true_iff.mp hqp
    rwa [eq_of_line hn hq hp (of_decide_eq_true hline)] at hattr
  unfold takenByte
  rw [hd, hm, hop]
  cases (if dev = true then none else e.reads.find? fun r => r.1 == p.pa / 128) with
  | none =>
    simp only [Option.getD_none, lineTaken, hany]
    rw [List.getD_eq_getElem _ _ (by simp; omega), List.getElem_map, List.getElem_range]
    congr 1
    omega
  | some r => rfl

/-- Every part's line is known once what is missing has been read. -/
theorem valueIn_taken {s : State} {g : Group} {e : LogEntry} {a : Access} {ps : List Piece} {n scope hint : Nat} {signed acq : Bool}
    (hop : e.op = .load n signed acq scope hint) (hp : a.place = .phys ps) (hn : (ps.map fun p => p.pa / 128 % 128).Nodup)
    (hb : ∀ p ∈ ps, p.pa % 128 + p.n ≤ 128) (hr : ∀ r ∈ e.reads, r.2.length = 128) (hd : a.isDev = true → ps.length = 1) :
    valueIn (if a.isDev = true then (e.toRead a).map (lineTaken s g e.tile (s.tileWide g scope))
        else e.reads ++ (e.toRead a).map (lineTaken s g e.tile (s.tileWide g scope))) ps
      = some (ps.flatMap fun p => (List.range p.n).map fun k => takenByte s g e ps a.isDev (p.pa + k)) := by
  refine valueIn_eq fun p hmem => ⟨_, ?_, takenBytes_of_line hop hn hr hmem (hb p hmem)⟩
  have hread : e.toRead a = ps.filter fun p => p.attr == 2 || !(e.reads.any fun r => r.1 == p.pa / 128) := by rw [LogEntry.toRead, hp]
  have hfst : ((e.toRead a).map (lineTaken s g e.tile (s.tileWide g scope))).map Prod.fst = (e.toRead a).map fun p => p.pa / 128 := by
    rw [List.map_map]
    rfl
  have hnd : (((e.toRead a).map (lineTaken s g e.tile (s.tileWide g scope))).map Prod.fst).Nodup := by
    rw [hfst, hread]
    refine List.Nodup.of_map (· % 128) ?_
    rw [List.map_map]
    exact hn.sublist (List.filter_sublist.map _)
  have hnew (h : p ∈ e.toRead a) : ((e.toRead a).map (lineTaken s g e.tile (s.tileWide g scope))).find? (fun r => r.1 == p.pa / 128)
      = some (lineTaken s g e.tile (s.tileWide g scope) p) := (find?_key_iff hnd).mpr ⟨List.mem_map_of_mem h, rfl⟩
  have hdev : a.isDev = ps.any fun p => p.attr == 2 := by rw [Access.isDev, hp]
  cases hc : a.isDev with
  | true =>
    obtain ⟨q, hq⟩ := List.length_eq_one_iff.mp (hd hc)
    subst hq
    obtain rfl := List.mem_singleton.mp hmem
    rw [if_pos rfl, if_pos rfl, Option.getD_none]
    refine hnew ?_
    rw [hread]
    refine List.mem_filter.mpr ⟨hmem, ?_⟩
    rw [Bool.or_eq_true]
    exact .inl (by simpa [hc] using hdev.symm)
  | false =>
    rw [if_neg (by simp), if_neg (by simp), List.find?_append]
    cases hf : e.reads.find? fun r => r.1 == p.pa / 128 with
    | some r => rfl
    | none =>
      refine (Option.none_or).trans (hnew ?_)
      rw [hread]
      refine List.mem_filter.mpr ⟨hmem, ?_⟩
      rw [Bool.or_eq_true]
      exact .inr (by simpa using hf)

/-! ### Binding -/

theorem State.takeBytes_beside (s : State) (g : Group) (tile : Nat) (p : Piece) :
    (s.takeBytes g tile p).besideStores = s.besideStores := by
  unfold State.takeBytes
  split <;> rfl

theorem State.acquired_beside (s : State) (g : Group) (e : LogEntry) : (s.acquired g e).besideStores = s.besideStores := by
  unfold State.acquired
  split
  · split
    · exact s.acquireAt_beside g _
    · rfl
  · rfl

/-- What an entry of one access has once all its lines are known. -/
theorem LogEntry.withReads_one {e : LogEntry} {a : Access} {ps : List Piece} {rs : List (Nat × List Byte)} {bs : List Byte}
    (hb : e.isBound a.lane = false) (ha : e.accs = [a]) (hp : a.place = .phys ps)
    (hv : valueIn (if a.isDev = true then rs else e.reads ++ rs) ps = some bs) :
    e.withReads a rs
      = { e with reads := if a.isDev then e.reads else e.reads ++ rs, bound := e.bound ++ [(a.lane, bytesNat bs)] } := by
  unfold LogEntry.withReads
  rw [ha]
  dsimp only
  rw [List.filterMap_cons, hp]
  cases hd : a.isDev <;> simp_all

/-- An access that feeds the one entry of its log binds: its lane has the bytes that stand at their place now. -/
theorem State.bindOne_ok {s : State} {e : LogEntry} {g : Group} {a : Access} {ps : List Piece} {n scope hint : Nat} {signed acq : Bool}
    (hb : mayBind s e g a ps) (hop : e.op = .load n signed acq scope hint) (ha : e.accs = [a]) :
    ∃ u rs, s.bindOne e.id a.lane = .ok u ∧ u.groups = s.groups ∧ u.log = (s.setEntry
      { e with reads := rs, bound := e.bound ++ [(a.lane, takenValue s g e ps a.isDev ps)] }).log := by
  obtain ⟨he, hg, hst, -, -, hp, hbd, hfl, hbad, hin, hn, hw, hl, hc, hrd, hdev⟩ := hb
  have hpn : ∀ p ∈ ps, p.pa % 128 + p.n ≤ 128 := hin a (by simp [ha]) ps hp
  have hfed : ∀ b ∈ e.fed a (e.toRead a), b = a := by
    unfold LogEntry.fed
    split
    · simp
    · intro b hb
      simpa [ha] using List.mem_of_mem_filter hb
  have hflight : (e.fed a (e.toRead a)).any (s.atomicInFlight e) = false :=
    List.any_eq_false.mpr fun b hb => by simp [hfed b hb, hfl a (by simp [ha])]
  have hgood : (e.fed a (e.toRead a)).findSome? (fun b => match b.place with
      | .phys qs => s.badPiece g e.tile (s.tileWide g scope) b.va
          (fun q => (e.toRead a).any fun p => p.pa / 128 == q.pa / 128) qs
      | _ => none) = none := by
    refine List.findSome?_eq_none_iff.mpr fun b hb => ?_
    rw [hfed b hb, hp]
    refine State.badIn_none ps (fun p hmem _ => State.badRead_mono (hbad p hmem) ?_ ?_) _
    · omega
    · have := hpn p hmem
      omega
  have hreads : ((e.toRead a).map fun p => p.pa / 128 % 128).Nodup := by
    rw [LogEntry.toRead, hp]
    exact hn.sublist (List.filter_sublist.map _)
  obtain ⟨hserved, hrs⟩ := s.readLines_served g e.tile (s.tileWide g scope) hint (e.toRead a) hw hl hc hreads
  have hfind : e.accs.find? (fun b => b.lane == a.lane) = some a := by simp [ha]
  have hwait : ¬ ((e.state != .running || a.place == .todo || (e.fed a (e.toRead a)).any (s.atomicInFlight e)) = true) := by
    simp [hst, hp, hflight]
  have hwith := LogEntry.withReads_one hbd ha hp (valueIn_taken (s := s) (g := g) hop hp hn hpn hrd hdev)
  rw [← hrs] at hwith
  have hok : s.bindOne e.id a.lane = .ok (((
      (e.fed a (e.toRead a)).foldl (fun s b => (b.partsIn (e.toRead a)).foldl (fun s p => s.takeBytes g e.tile p) s)
        (s.readLines g e.tile (s.tileWide g scope) hint (e.toRead a)).1).setEntry
      (e.withReads a (s.readLines g e.tile (s.tileWide g scope) hint (e.toRead a)).2)).acquired g
      (e.withReads a (s.readLines g e.tile (s.tileWide g scope) hint (e.toRead a)).2)) := by
    unfold State.bindOne
    rw [he]
    dsimp only
    rw [hop, hfind, hg]
    dsimp only
    rw [if_neg (by simp [hbd]), if_neg hwait]
    split
    next hsome => exact absurd (hsome.symm.trans hgood) (by simp)
    next => rfl
  have hfold : ((e.fed a (e.toRead a)).foldl (fun s b => (b.partsIn (e.toRead a)).foldl (fun s p => s.takeBytes g e.tile p) s)
      (s.readLines g e.tile (s.tileWide g scope) hint (e.toRead a)).1).beside.besideStores = s.beside.besideStores := by
    refine Eq.trans (congrArg State.beside (foldl_frame State.besideStores (fun u b => ?_) _ _)) hserved.beside
    exact foldl_frame State.besideStores (fun u p => u.takeBytes_beside g e.tile p) _ _
  refine ⟨_, if a.isDev = true then e.reads
    else e.reads ++ (s.readLines g e.tile (s.tileWide g scope) hint (e.toRead a)).2, hok, ?_, ?_⟩
  rotate_left
  · refine Eq.trans ?_ (congrArg (fun k => (s.setEntry k).log) hwith)
    refine Eq.trans (congrArg (·.log) (State.acquired_beside _ g _)) ?_
    exact congrArg (List.map _) (congrArg (·.log) hfold :)
  · refine Eq.trans (congrArg (·.groups) (State.acquired_beside _ g _)) ?_
    exact (congrArg (·.groups) hfold :)

theorem lapping_nil (as : List Access) (acc : List (Nat × Nat)) : lapping [] as acc = acc := rfl

/-- No load stands before the one entry of the log. -/
theorem State.bindLane_alone {s : State} {e : LogEntry} (hl : s.log = [e]) (lane : Nat) :
    s.bindLane e.id lane = s.bindList ((e.withLower fun a => a.lane == lane).map fun a => (e.id, a.lane)) := by
  have he : s.entry? e.id = some e := by simp [State.entry?, hl]
  have hn : s.earlierOf e.grp e.turn = [] := by simp [State.earlierOf, hl, byTurn]
  unfold State.bindLane
  rw [he]
  dsimp only
  rw [hn, lapping_nil, List.nil_append]

/-- A lane that is bound stays as it is. -/
theorem State.bindLane_bound {s : State} {e : LogEntry} (hl : s.log = [e]) (hb : ∀ a ∈ e.accs, e.isBound a.lane = true) (lane : Nat) :
    s.bindLane e.id lane = .ok s := by
  have hn : (e.withLower fun a => a.lane == lane) = [] := List.filter_eq_nil_iff.mpr fun a ha => by simp [hb a ha]
  rw [State.bindLane_alone hl, hn]
  rfl

theorem State.bindLane_one {s : State} {e : LogEntry} {g : Group} {a : Access} {ps : List Piece} {n scope hint : Nat}
    {signed acq : Bool} (hb : mayBind s e g a ps) (hl : s.log = [e]) (hop : e.op = .load n signed acq scope hint) (ha : e.accs = [a]) :
    ∃ u rs, s.bindLane e.id a.lane = .ok u ∧ u.groups = s.groups ∧
      u.log = [{ e with reads := rs, bound := e.bound ++ [(a.lane, takenValue s g e ps a.isDev ps)] }] := by
  obtain ⟨u, rs, hu, hg, hlog⟩ := State.bindOne_ok hb hop ha
  obtain ⟨-, -, -, -, -, -, hbd, -⟩ := hb
  have hw : (e.withLower fun b => b.lane == a.lane) = [a] := by simp [LogEntry.withLower, ha, hbd]
  refine ⟨u, rs, ?_, hg, ?_⟩
  · rw [State.bindLane_alone hl, hw]
    simp [State.bindList, hu]
  · rw [hlog]
    simp [State.setEntry, hl]

end Sys2Proof.Machine
end

section
/-! What the completion of an instruction writes into the registers of its group (02 R38; 04 R80, R81, R87). -/
namespace Sys2Proof.Machine
open Sys2Proof.Stated

/-! ### The part of a value that a register takes -/

/-- A number below `2 ^ n`, sign-extended. -/
theorem signExtend_ofNat_eq {n v : Nat} (hn : 0 < n) :
    (BitVec.ofNat n v).signExtend 32 = if 2 ^ (n - 1) ≤ v % 2 ^ n then BitVec.ofInt 32 (v % 2 ^ n - 2 ^ n : Int)
      else BitVec.ofNat 32 (v % 2 ^ n) := by
  have hp : 2 ^ n = 2 * 2 ^ (n - 1) := by rw [← pow_succ', Nat.sub_add_cancel hn]
  rw [BitVec.signExtend, BitVec.toInt_eq_toNat_cond, BitVec.toNat_ofNat]
  by_cases hc : 2 ^ (n - 1) ≤ v % 2 ^ n
  · rw [if_neg (by omega), if_pos hc]
    norm_cast
  · rw [if_pos (by omega), if_neg hc]
    exact BitVec.ofInt_natCast _ _

/-- The model's part of a loaded value is the stated one. -/
theorem loadReg_eq {n : Nat} (hn : n ∈ [1, 2, 4, 8, 16]) (signed : Bool) (v k : Nat) : loadReg n signed v k = loadedReg n signed v k := by
  have hlarge (hl : ¬ n < 4) : loadedReg n signed v k = BitVec.ofNat 32 (v / 2 ^ (32 * k)) := if_neg hl
  have hshift : BitVec.ofNat 32 (v >>> (32 * k)) = BitVec.ofNat 32 (v / 2 ^ (32 * k)) := by rw [Nat.shiftRight_eq_div_pow]
  fin_cases hn
  · have h := signExtend_ofNat_eq (n := 8) (v := v) (by omega)
    cases signed
    · simp [loadReg, loadedReg]
    · simpa [loadReg, loadedReg] using h
  · have h := signExtend_ofNat_eq (n := 16) (v := v) (by omega)
    cases signed
    · simp [loadReg, loadedReg]
    · simpa [loadReg, loadedReg] using h
  · exact hshift.trans (hlarge (by decide)).symm
  · exact hshift.trans (hlarge (by decide)).symm
  · exact hshift.trans (hlarge (by decide)).symm

/-! ### One lane -/

/-- The destinations of one lane written with a value of `n` bytes. -/
def Group.takeLane (ds : List Dest) (n : Nat) (signed : Bool) (lane v : Nat) (g : Group) : Group :=
  (ds.mapIdx fun k d => (k, d)).foldl (fun (g : Group) p =>
    match p.2 with
    | .slot _ => g.setSlot p.2 { g.slot p.2 with data := lset (g.slot p.2).data lane (loadReg n signed v p.1), dirty := true }
    | .bankV _ => g.setSlot p.2 { g.slot p.2 with data := lset (g.slot p.2).data lane (loadReg n signed v p.1), dirty := true }
    | .sreg _ => g.setSval p.2 (if signed then sextN (8 * n) v else w64 v)
    | .bankS _ => g.setSval p.2 (if signed then sextN (8 * n) v else w64 v)
    | _ => g) g

theorem State.deliverLane_eq (s : State) (e : LogEntry) (n : Nat) (signed : Bool) (lane v : Nat) :
    s.deliverLane e n signed lane v = s.onGroup e.grp (Group.takeLane e.dests n signed lane v) := rfl

/-- The context beside its window registers. -/
def Group.besideSlots (g : Group) : Group := { g with regs := { g.regs with slots := [], bankV := [] } }

theorem Group.setSlot_beside (g : Group) (d : Dest) (v : Slot) : (g.setSlot d v).besideSlots = g.besideSlots := by cases d <;> rfl

theorem Group.setSlot_slots_length (g : Group) (d : Dest) (v : Slot) : (g.setSlot d v).regs.slots.length = g.regs.slots.length := by
  cases d with
  | slot n => exact List.length_set
  | _ => rfl

theorem Group.slot_setSlot_same {g : Group} {d : Nat} (h : d < g.regs.slots.length) (v : Slot) :
    (g.setSlot (.slot d) v).slot (.slot d) = v := by
  simp [Group.slot, Group.setSlot, lset, h]

theorem Group.slot_setSlot_ne {g : Group} {d k : Nat} (h : k ≠ d) (v : Slot) :
    (g.setSlot (.slot k) v).slot (.slot d) = g.slot (.slot d) := by
  simp [Group.slot, Group.setSlot, lset, h]

/-! ### Lanes written -/

/-- The lanes `l` of the window registers `ds` hold their parts of the lanes' values, and nothing else has changed but marks. -/
structure LanesIn (n : Nat) (signed : Bool) (v : Nat → Nat) (ds : List Nat) (g : Group) (l : List Nat) (h : Group) : Prop where
  beside : h.besideSlots = g.besideSlots
  size : h.regs.slots.length = g.regs.slots.length
  width : ∀ d ∈ ds, (h.slot (.slot d)).data.length = 64
  data : ∀ k d, ds[k]? = some d → ∀ i, i < 64 → (h.slot (.slot d)).data.getD i 0
    = if i ∈ l then loadedReg n signed (v i) k else (g.slot (.slot d)).data.getD i 0

section
variable {n : Nat} {signed : Bool} {v : Nat → Nat} {ds l : List Nat} {g h : Group}

theorem LanesIn.nil (hw : windowDests g ds) : LanesIn n signed v ds g [] g :=
  ⟨rfl, rfl, fun d hd => (hw.2 d hd).2, fun _ _ _ _ _ => by simp⟩

/-- What one lane writes into the registers of a list of parts. -/
theorem Group.takeParts (n : Nat) (signed : Bool) (lane v : Nat) : ∀ (L : List (Nat × Nat)) (g : Group), (L.map Prod.snd).Nodup →
    (∀ p ∈ L, p.2 < g.regs.slots.length) →
    let h := L.foldl (fun (g : Group) p => g.setSlot (.slot p.2) { g.slot (.slot p.2) with
      data := lset (g.slot (.slot p.2)).data lane (loadReg n signed v p.1), dirty := true }) g
    h.besideSlots = g.besideSlots ∧ h.regs.slots.length = g.regs.slots.length ∧
      (∀ p ∈ L, (h.slot (.slot p.2)).data = lset (g.slot (.slot p.2)).data lane (loadReg n signed v p.1)) ∧
      ∀ d, d ∉ L.map Prod.snd → h.slot (.slot d) = g.slot (.slot d)
  | [], _, _, _ => ⟨rfl, rfl, by simp, fun _ _ => rfl⟩
  | p :: t, g, hn, hd => by
    obtain ⟨hp, ht⟩ := List.nodup_cons.mp hn
    obtain ⟨hpd, htd⟩ := List.forall_mem_cons.mp hd
    have hlen (x : Slot) := g.setSlot_slots_length (.slot p.2) x
    obtain ⟨hb, hl, hw, ho⟩ := Group.takeParts n signed lane v t (g.setSlot (.slot p.2) { g.slot (.slot p.2) with
      data := lset (g.slot (.slot p.2)).data lane (loadReg n signed v p.1), dirty := true }) ht (by rw [hlen]; exact htd)
    refine ⟨hb.trans (Group.setSlot_beside _ _ _), hl.trans (hlen _), List.forall_mem_cons.mpr ⟨?_, fun q hq => ?_⟩, fun d hd => ?_⟩
    · rw [List.foldl_cons, ho _ hp, Group.slot_setSlot_same hpd]
    · have hne : p.2 ≠ q.2 := fun e => hp (List.mem_map.mpr ⟨q, hq, e.symm⟩)
      rw [List.foldl_cons, hw q hq, Group.slot_setSlot_ne hne]
    · obtain ⟨hne, hnt⟩ : d ≠ p.2 ∧ d ∉ t.map Prod.snd := by simpa using hd
      rw [List.foldl_cons, ho d hnt, Group.slot_setSlot_ne hne.symm]

/-- One more lane is written. -/
theorem LanesIn.take (hn : n ∈ [1, 2, 4, 8, 16]) (hw : windowDests g ds) (h' : LanesIn n signed v ds g l h) (lane : Nat) :
    LanesIn n signed v ds g (l ++ [lane]) (h.takeLane (ds.map Dest.slot) n signed lane (v lane)) := by
  have hmap : (ds.map Dest.slot).mapIdx (fun k d => (k, d)) = (ds.mapIdx fun k d => (k, d)).map fun p => (p.1, Dest.slot p.2) := by
    refine List.ext_getElem? fun i => ?_
    simp [Function.comp_def]
  have hsnd : (ds.mapIdx fun k d => (k, d)).map Prod.snd = ds := by
    refine List.ext_getElem? fun i => ?_
    simp [Function.comp_def]
  obtain ⟨hb, hl, hin, -⟩ := Group.takeParts n signed lane (v lane) (ds.mapIdx fun k d => (k, d)) h (by rw [hsnd]; exact hw.1)
    (fun p hp => h'.size ▸ (hw.2 p.2 (hsnd ▸ List.mem_map_of_mem hp)).1)
  have htake : h.takeLane (ds.map Dest.slot) n signed lane (v lane) = (ds.mapIdx fun k d => (k, d)).foldl (fun (g : Group) p =>
      g.setSlot (.slot p.2) { g.slot (.slot p.2) with
        data := lset (g.slot (.slot p.2)).data lane (loadReg n signed (v lane) p.1), dirty := true }) h := by
    rw [Group.takeLane, hmap, List.foldl_map]
  have hdata {k d : Nat} (hk : ds[k]? = some d) : ((h.takeLane (ds.map Dest.slot) n signed lane (v lane)).slot (.slot d)).data
      = (h.slot (.slot d)).data.set lane (loadedReg n signed (v lane) k) := by
    have hmem : (k, d) ∈ ds.mapIdx fun k d => (k, d) := List.mem_of_getElem? (i := k) (by simp [hk])
    rw [htake, ← loadReg_eq hn]
    exact hin (k, d) hmem
  refine ⟨htake ▸ hb.trans h'.beside, htake ▸ hl.trans h'.size, fun d hd => ?_, fun k d hk i hi => ?_⟩
  · obtain ⟨k, hk⟩ := List.mem_iff_getElem?.mp hd
    rw [hdata hk, List.length_set, h'.width d hd]
  · have hlen := h'.width d (List.mem_of_getElem? hk)
    have hold := h'.data k d hk i hi
    rw [hdata hk]
    by_cases hc : lane = i
    · subst hc
      simp [List.getD_eq_getElem?_getD, hlen, hi]
    · rw [List.getD_eq_getElem?_getD, List.getElem?_set_ne hc, ← List.getD_eq_getElem?_getD, hold]
      simp [Ne.symm hc]

/-- A list of lanes is written one after another. -/
theorem LanesIn.takeAll (hn : n ∈ [1, 2, 4, 8, 16]) (hw : windowDests g ds) : ∀ (m : List Nat) {l : List Nat} {h : Group},
    LanesIn n signed v ds g l h →
    LanesIn n signed v ds g (l ++ m) (m.foldl (fun h i => h.takeLane (ds.map Dest.slot) n signed i (v i)) h)
  | [], l, h, hl => by simpa using hl
  | i :: m, l, h, hl => by
    have := LanesIn.takeAll hn hw m (hl.take hn hw i)
    simpa using this

end

end Sys2Proof.Machine
end

section
/-! How an instruction of the log completes: its lanes, its tags and flags (02 R38; 04 R80, R87; 21 R364). -/
namespace Sys2Proof.Machine
open Sys2Proof.Stated

/-! ### Tags and flags -/

/-- What the completion of an entry leaves of its group. -/
def LogEntry.close (e : LogEntry) (g : Group) : Group :=
  { (e.dests.foldl (fun (g : Group) d => g.setTag d e.tag) g).orFlags e.fl with
    cf := lset (e.dests.foldl (fun (g : Group) d => g.setTag d e.tag) g).cf e.flag
      ((e.dests.foldl (fun (g : Group) d => g.setTag d e.tag) g).cf.getD e.flag 0 - 1) }

theorem State.finishEntry_eq (s : State) (e : LogEntry) : s.finishEntry e = (s.onGroup e.grp e.close).dropEntry e.id := rfl

theorem Group.setTags_beside (tag : BitVec 4) (l : List Dest) (g : Group) :
    (l.foldl (fun (g : Group) d => g.setTag d tag) g).besideSlots = g.besideSlots :=
  foldl_frame Group.besideSlots (fun g d => g.setSlot_beside d _) l g

theorem Group.takeLane_id (ds : List Dest) (n : Nat) (signed : Bool) (lane v : Nat) (g : Group) :
    (g.takeLane ds n signed lane v).id = g.id := by
  refine foldl_frame Group.id (fun g p => ?_) _ g
  cases p.2 <;> rfl

theorem LogEntry.close_id (e : LogEntry) (g : Group) : (e.close g).id = g.id :=
  (congrArg Group.id (Group.setTags_beside e.tag e.dests g) :)

/-- Tags of window registers, that differ and exist. -/
theorem Group.setTags_slots (tag : BitVec 4) : ∀ (ds : List Nat) (g : Group), (∀ d ∈ ds, d < g.regs.slots.length) →
    let h := (ds.map Dest.slot).foldl (fun (g : Group) d => g.setTag d tag) g
    (∀ d ∈ ds, (h.slot (.slot d)).tag = tag) ∧ ∀ d, (h.slot (.slot d)).data = (g.slot (.slot d)).data ∧
      ((g.slot (.slot d)).tag = tag → (h.slot (.slot d)).tag = tag)
  | [], _, _ => ⟨by simp, fun _ => ⟨rfl, fun h => h⟩⟩
  | c :: t, g, hd => by
    obtain ⟨hc, ht⟩ := List.forall_mem_cons.mp hd
    obtain ⟨htag, hsame⟩ := Group.setTags_slots tag t (g.setTag (.slot c) tag) fun d hd => by
      rw [Group.setTag, Group.setSlot_slots_length]
      exact ht d hd
    have hone (d : Nat) : ((g.setTag (.slot c) tag).slot (.slot d)).data = (g.slot (.slot d)).data ∧
        ((d = c ∨ (g.slot (.slot d)).tag = tag) → ((g.setTag (.slot c) tag).slot (.slot d)).tag = tag) := by
      rw [Group.setTag]
      by_cases hdc : c = d
      · subst hdc
        rw [Group.slot_setSlot_same hc]
        exact ⟨rfl, fun _ => rfl⟩
      · rw [Group.slot_setSlot_ne hdc]
        exact ⟨rfl, fun h => h.resolve_left fun e => hdc e.symm⟩
    refine ⟨fun d hd => ?_, fun d => ⟨(hsame d).1.trans (hone d).1, fun h => (hsame d).2 ((hone d).2 (.inr h))⟩⟩
    rcases List.mem_cons.mp hd with rfl | hd
    · exact (hsame d).2 ((hone d).2 (.inl rfl))
    · exact htag d hd

/-! ### A completion -/

section
variable {s u : State} {e f : LogEntry} {g h : Group}

theorem State.group?_dropEntry (s : State) (id n : Nat) : (s.dropEntry id).group? n = s.group? n := rfl

theorem State.entry?_dropEntry (s : State) (id : Nat) : (s.dropEntry id).entry? id = none :=
  List.find?_eq_none.mpr fun e he => by simpa using (List.mem_filter.mp he).2

/-- The entry as it completes, with other destinations perhaps or other lanes written. -/
structure LogEntry.SameEnd (e f : LogEntry) : Prop where
  id : f.id = e.id
  grp : f.grp = e.grp
  fl : f.fl = e.fl
  flag : f.flag = e.flag
  tag : f.tag = e.tag

theorem LogEntry.sameEnd_self (e : LogEntry) : e.SameEnd e := ⟨rfl, rfl, rfl, rfl, rfl⟩

/-- A group with the flags and the completion flags of the issue settles. -/
theorem State.finishEntry_settled (hf : e.SameEnd f) (hu : u.group? e.grp = some h) (hc : h.csrs = g.csrs) (hcf : h.cf = g.cf)
    (hflag : e.flag < g.cf.length) : settled e g (u.finishEntry f) (f.close h) := by
  obtain ⟨hid, hgrp, hfl, hfg, -⟩ := hf
  have hcs : (f.dests.foldl (fun (g : Group) d => g.setTag d f.tag) h).csrs = h.csrs :=
    (congrArg Group.csrs (Group.setTags_beside f.tag f.dests h) :)
  have hcfs : (f.dests.foldl (fun (g : Group) d => g.setTag d f.tag) h).cf = h.cf :=
    (congrArg Group.cf (Group.setTags_beside f.tag f.dests h) :)
  rw [State.finishEntry_eq]
  refine ⟨?_, hid ▸ State.entry?_dropEntry _ _, ?_, ?_⟩
  · rw [State.group?_dropEntry, hgrp, group?_onGroup f.close_id, hu]
    rfl
  · exact congrArg₂ (· ||| ·) (congrArg Csrs.flags (hcs.trans hc)) hfl
  · rw [LogEntry.close, hcfs, hcf, hfg]
    simp [lset, List.getD_eq_getElem?_getD, hflag]

/-- What its tags leave of lanes written. -/
theorem LanesIn.close {n : Nat} {signed : Bool} {v : Nat → Nat} {ds l : List Nat} {k : Group} (hf : e.SameEnd f)
    (hd : f.dests = ds.map Dest.slot) (hl : LanesIn n signed v ds g l h) (hk : k.regs.slots = h.regs.slots)
    (hw : windowDests g ds) : lanesTake e n signed v l ds g (f.close k) := by
  have hslot (d : Nat) : k.slot (.slot d) = h.slot (.slot d) := congrArg (fun r : List Slot => r.getD d {}) hk
  obtain ⟨htag, hsame⟩ := Group.setTags_slots f.tag ds k fun d hd => by
    rw [hk, hl.size]
    exact (hw.2 d hd).1
  intro j d hj
  have hmem : d ∈ ds := List.mem_of_getElem? hj
  have hclose : (f.close k).slot (.slot d) = ((ds.map Dest.slot).foldl (fun (g : Group) d => g.setTag d f.tag) k).slot (.slot d) := by
    rw [← hd]
    rfl
  refine ⟨?_, fun i hi => ?_⟩
  · rw [hclose, htag d hmem, hf.tag]
  · rw [hclose, (hsame d).1, hslot, hl.data j d hj i hi]

/-- A group whose lanes are written settles with them. -/
theorem State.finishEntry_lanes {n : Nat} {signed : Bool} {v : Nat → Nat} {ds l : List Nat} (hf : e.SameEnd f)
    (hd : f.dests = ds.map Dest.slot) (hw : windowDests g ds) (hu : u.group? e.grp = some h) (hl : LanesIn n signed v ds g l h)
    (hflag : e.flag < g.cf.length) :
    settled e g (u.finishEntry f) (f.close h) ∧ lanesTake e n signed v l ds g (f.close h) :=
  ⟨State.finishEntry_settled hf hu (congrArg Group.csrs hl.beside :) (congrArg Group.cf hl.beside :) hflag, hl.close hf hd rfl hw⟩

/-- One scalar destination takes a value. -/
theorem State.finishEntry_scalar {n v d : Nat} {signed : Bool} (hf : e.SameEnd f) (hd : f.dests = [.sreg d])
    (hs : d < g.regs.sregs.length) (hu : u.group? e.grp = some g) (hflag : e.flag < g.cf.length) :
    ∃ h, settled e g ((u.deliverLane f n signed 64 v).finishEntry f) h ∧
      h.sval (.sreg d) = if signed = true then sextN (8 * n) v else BitVec.ofNat 64 v := by
  have hg : (u.deliverLane f n signed 64 v).group? e.grp
      = some (g.setSval (.sreg d) (if signed = true then sextN (8 * n) v else BitVec.ofNat 64 v)) := by
    rw [State.deliverLane_eq, hf.grp, group?_onGroup (Group.takeLane_id _ _ _ _ _), hu, hd]
    rfl
  refine ⟨_, State.finishEntry_settled hf hg rfl rfl hflag, ?_⟩
  rw [LogEntry.close, hd]
  simp [Group.setTag, Group.sval, Group.setSval, Group.orFlags, Group.setSlot, lset, hs]

end

/-! ### Lanes of a load or an atomic -/

/-- The lanes `l` of an entry are written so far. -/
structure Written (n : Nat) (signed : Bool) (v : Nat → Nat) (ds : List Nat) (e : LogEntry) (g : Group) (l : List Nat) (u : State) :
    Prop where
  group : ∃ h, u.group? e.grp = some h ∧ LanesIn n signed v ds g l h
  entry : ∃ w : Mask, u.entry? e.id = some { e with written := w } ∧ ∀ i ∈ l, i < 64 → w.getLsbD i = true

section
variable {n : Nat} {signed : Bool} {v : Nat → Nat} {ds l : List Nat} {e : LogEntry} {g : Group} {u : State}

theorem State.entry?_markWritten (u : State) (id lane : Nat) : (u.markWritten id lane).entry? id
    = (u.entry? id).map fun e => { e with written := e.written ||| (1#64 <<< lane) } := by
  simp only [State.entry?, State.markWritten, List.find?_map]
  have hk : (fun e : LogEntry => e.id == id) ∘ (fun e => if e.id == id then { e with written := e.written ||| (1#64 <<< lane) } else e)
      = fun e => e.id == id := by
    funext e
    simp only [Function.comp]
    split <;> rfl
  rw [hk]
  cases hf : u.log.find? fun e => e.id == id with
  | none => rfl
  | some f => exact congrArg some (if_pos (List.find?_some hf :))

/-- One more lane is written and marked. -/
theorem Written.step (hn : n ∈ [1, 2, 4, 8, 16]) (hd : e.dests = ds.map Dest.slot) (hw : windowDests g ds)
    (h : Written n signed v ds e g l u) (w : Mask) (i : Nat) :
    Written n signed v ds e g (l ++ [i]) ((u.deliverLane { e with written := w } n signed i (v i)).markWritten e.id i) := by
  obtain ⟨⟨k, hk, hl⟩, x, hx, hbits⟩ := h
  refine ⟨⟨_, ?_, hl.take hn hw i⟩, x ||| (1#64 <<< i), ?_, fun j hj h64 => ?_⟩
  · refine Eq.trans (group?_onGroup (s := u) (Group.takeLane_id _ _ _ _ _)) ?_
    rw [hk]
    exact congrArg (fun d => some (Group.takeLane d n signed i (v i) k)) hd
  · rw [State.entry?_markWritten]
    exact congrArg (Option.map _) hx
  · rw [BitVec.getLsbD_or, Bool.or_eq_true]
    rcases List.mem_append.mp hj with hj | hj
    · exact .inl (hbits j hj h64)
    · obtain rfl := List.mem_singleton.mp hj
      exact .inr (by simp [h64])

/-- Once every lane is written, the entry completes. -/
theorem Written.finish (hd : e.dests = ds.map Dest.slot) (hw : windowDests g ds) (hflag : e.flag < g.cf.length)
    (hl : e.accs.map (fun a => a.lane) = l) (h64 : ∀ i ∈ l, i < 64) (h : Written n signed v ds e g l u) :
    ∃ h, settled e g (u.finishWhole e.id) h ∧ lanesTake e n signed v l ds g h := by
  obtain ⟨⟨k, hk, hin⟩, w, hx, hbits⟩ := h
  have hall : (e.accs.all fun a => w.getLsbD a.lane) = true := List.all_eq_true.mpr fun a ha => by
    have hmem : a.lane ∈ l := hl ▸ List.mem_map_of_mem ha
    exact hbits _ hmem (h64 _ hmem)
  have hfin : u.finishWhole e.id = u.finishEntry { e with written := w } := by
    unfold State.finishWhole
    rw [hx]
    exact if_pos hall
  rw [hfin]
  exact ⟨_, State.finishEntry_lanes ⟨rfl, rfl, rfl, rfl, rfl⟩ hd hw hk hin hflag⟩

end

end Sys2Proof.Machine
end

section
/-! What a load and a returning atomic write as they complete (04 R71, R80, R81, R86, R87; 14 R257). -/
namespace Sys2Proof.Machine
open Sys2Proof.Stated

section
variable {s u : State} {e : LogEntry} {g : Group} {n scope hint : Nat} {signed acq : Bool}

theorem entry_of_maySettle (h : maySettle s e g) : s.entry? e.id = some e := by
  obtain ⟨he, -⟩ := h
  exact he

theorem group_of_maySettle (h : maySettle s e g) : s.group? e.grp = some g := by
  obtain ⟨-, hg, -⟩ := h
  exact hg

theorem flag_of_maySettle (h : maySettle s e g) : e.flag < g.cf.length := by
  obtain ⟨-, -, -, -, -, -, hf⟩ := h
  exact hf

/-- An instruction of the log that may settle goes on to its completion. -/
theorem exec_vlComplete (hm : maySettle s e g) (lanes : Nat) : exec (.vlComplete e.id lanes) s = .next (s.completeEntry g e lanes) := by
  obtain ⟨he, hg, hr, hst, hu, hn, -⟩ := hm
  exact vlComplete_completes he hg hr hst hu hn

theorem State.completeEntry_load (hop : e.op = .load n signed acq scope hint) (lanes : Nat) : s.completeEntry g e lanes
    = s.loadLanes e.id n signed ((e.accs.filter fun a => e.asked lanes a.lane).map fun a => a.lane) := by
  unfold State.completeEntry
  rw [hop]

/-- A lane that is bound, or binds, is written. -/
theorem State.loadLanes_vector {f : LogEntry} {lane v : Nat} {t : List Nat} {id : Nat} (hb : s.bindLane id lane = .ok u)
    (he : u.entry? id = some f) (hf : f.bound.find? (fun p => p.1 == lane) = some (lane, v)) (hl : lane < 64) :
    s.loadLanes id n signed (lane :: t) = ((u.deliverLane f n signed lane v).markWritten id lane).loadLanes id n signed t := by
  rw [State.loadLanes, hb]
  dsimp only
  rw [he]
  dsimp only
  rw [hf]
  exact if_neg (by simp only [scalarLane]; omega)

theorem State.loadLanes_scalar {f : LogEntry} {v : Nat} {t : List Nat} {id : Nat} (hb : s.bindLane id 64 = .ok u)
    (he : u.entry? id = some f) (hf : f.bound.find? (fun p => p.1 == 64) = some (64, v)) :
    s.loadLanes id n signed (64 :: t) = (u.deliverLane f n signed 64 v).finishEntry f := by
  rw [State.loadLanes, hb]
  dsimp only
  rw [he]
  dsimp only
  rw [hf]
  exact if_pos rfl

/-- Every lane has been asked for where none is written. -/
theorem LogEntry.asked_all {lanes : Nat} (hw : e.written = 0) (h : ∀ a ∈ e.accs, lanes.testBit a.lane = true) :
    (e.accs.filter fun a => e.asked lanes a.lane) = e.accs :=
  List.filter_eq_self.mpr fun a ha => by simp [LogEntry.asked, h a ha, hw]

/-- A scalar load that is bound. -/
theorem vlComplete_scalarLoad {a : Access} {v d lanes : Nat} (hl : s.log = [e]) (hg : s.group? e.grp = some g)
    (hr : s.residentGroup g = true) (hst : e.state = .running) (hu : e.untranslated = false) (hn : notHeld g e)
    (hop : e.op = .load n signed acq scope hint) (ha : e.accs = [a]) (hlane : a.lane = 64) (hb : e.bound = [(64, v)])
    (hd : e.dests = [.sreg d]) (hask : lanes.testBit 64 = true) :
    exec (.vlComplete e.id lanes) s = .next ((s.onGroup e.grp fun h => h.setSval (.sreg d)
      (if signed then sextN (8 * n) v else BitVec.ofNat 64 v)).finishEntry e) := by
  have he : s.entry? e.id = some e := by simp [State.entry?, hl]
  have hbound : s.bindLane e.id 64 = .ok s := State.bindLane_bound hl (by simp [ha, hlane, LogEntry.isBound, hb]) 64
  have hlist : (e.accs.filter fun a => e.asked lanes a.lane).map (fun a => a.lane) = [64] := by
    simp [ha, hlane, LogEntry.asked, hask]
  refine (vlComplete_completes he hg hr hst hu hn).trans (congrArg Host.Outcome.next ?_)
  rw [State.completeEntry_load hop, hlist, State.loadLanes_scalar (v := v) hbound he (by simp [hb]), State.deliverLane_eq, hd]
  rfl

/-- A load of one lane binds and is written. -/
theorem vlComplete_oneLoad {a : Access} {ps : List Piece} {lanes : Nat} (hm : maySettle s e g) (hl : s.log = [e])
    (hop : e.op = .load n signed acq scope hint) (hn : n ∈ [1, 2, 4, 8, 16]) (ha : e.accs = [a]) (hb : mayBind s e g a ps)
    (hw : e.written = 0) (hask : lanes.testBit a.lane = true) (hbound : e.bound = []) :
    (∀ d, a.lane = 64 → e.dests = [.sreg d] → d < g.regs.sregs.length →
      ∃ t h, exec (.vlComplete e.id lanes) s = .next t ∧ settled e g t h ∧ h.sval (.sreg d)
        = if signed = true then sextN (8 * n) (takenValue s g e ps a.isDev ps) else BitVec.ofNat 64 (takenValue s g e ps a.isDev ps)) ∧
    (∀ ds, a.lane < 64 → e.dests = ds.map Dest.slot → windowDests g ds →
      ∃ t h, exec (.vlComplete e.id lanes) s = .next t ∧ settled e g t h ∧
        lanesTake e n signed (fun _ => takenValue s g e ps a.isDev ps) [a.lane] ds g h) := by
  obtain ⟨u, rs, hok, hgroups, hlog⟩ := State.bindLane_one hb hl hop ha
  have hlist : (e.accs.filter fun a => e.asked lanes a.lane).map (fun a => a.lane) = [a.lane] := by
    rw [LogEntry.asked_all hw (by simpa [ha] using hask), ha]
    rfl
  have hgu : u.group? e.grp = some g := (congrArg (List.find? _) hgroups).trans (group_of_maySettle hm)
  have hflag : e.flag < g.cf.length := flag_of_maySettle hm
  have hex := exec_vlComplete hm lanes
  rw [State.completeEntry_load hop, hlist] at hex
  have hfind : ([(a.lane, takenValue s g e ps a.isDev ps)] : List (Nat × Nat)).find? (fun p => p.1 == a.lane)
      = some (a.lane, takenValue s g e ps a.isDev ps) := by simp
  rw [hbound, List.nil_append] at hlog
  have heu : u.entry? e.id = some { e with reads := rs, bound := [(a.lane, takenValue s g e ps a.isDev ps)] } := by
    simp [State.entry?, hlog]
  refine ⟨fun d h64 hd hs => ?_, fun ds h64 hd hwd => ?_⟩
  · rw [h64] at hok heu hfind hex
    rw [State.loadLanes_scalar hok heu hfind] at hex
    obtain ⟨h, hset, hval⟩ := State.finishEntry_scalar (u := u) (v := takenValue s g e ps a.isDev ps) (n := n) (signed := signed)
      (e := e) (f := { e with reads := rs, bound := [(64, takenValue s g e ps a.isDev ps)] }) ⟨rfl, rfl, rfl, rfl, rfl⟩ hd hs hgu hflag
    exact ⟨_, h, hex, hset, hval⟩
  · rw [State.loadLanes_vector hok heu hfind h64] at hex
    have h0 : Written n signed (fun _ => takenValue s g e ps a.isDev ps) ds
        { e with reads := rs, bound := [(a.lane, takenValue s g e ps a.isDev ps)] } g [] u :=
      ⟨⟨g, hgu, .nil hwd⟩, e.written, heu, by simp⟩
    have h1 := Written.step (e := { e with reads := rs, bound := [(a.lane, takenValue s g e ps a.isDev ps)] }) hn hd hwd h0
      e.written a.lane
    obtain ⟨h, hset, htake⟩ := Written.finish (l := [a.lane])
      (e := { e with reads := rs, bound := [(a.lane, takenValue s g e ps a.isDev ps)] }) hd hwd hflag (by simp [ha]) (by simpa using h64) h1
    exact ⟨_, h, hex, hset, htake⟩

/-- Bound lanes of a load are written one after another. -/
theorem loadLanes_written {v : Nat → Nat} {l ds : List Nat} (hn : n ∈ [1, 2, 4, 8, 16]) (hd : e.dests = ds.map Dest.slot)
    (hwd : windowDests g ds) (hflag : e.flag < g.cf.length) (hb : e.bound = l.map fun i => (i, v i))
    (hl : e.accs.map (fun a => a.lane) = l) (h64 : ∀ i ∈ l, i < 64) : ∀ (m done : List Nat) (u : State), done ++ m = l →
      (∃ w, u.log = [{ e with written := w }]) → Written n signed v ds e g done u →
      ∃ h, settled e g (u.loadLanes e.id n signed m) h ∧ lanesTake e n signed v l ds g h
  | [], done, u, hsplit, _, hw => by
    obtain rfl : done = l := by simpa using hsplit
    exact hw.finish hd hwd hflag hl h64
  | i :: m, done, u, hsplit, ⟨w, hlog⟩, hw => by
    have hi : i ∈ l := hsplit ▸ List.mem_append_right _ (List.mem_cons_self ..)
    have hall : ∀ a ∈ e.accs, LogEntry.isBound { e with written := w } a.lane = true := fun a ha => by
      have hmem : a.lane ∈ l := hl ▸ List.mem_map_of_mem ha
      simpa [LogEntry.isBound, hb] using hmem
    have hbind : u.bindLane e.id i = .ok u := State.bindLane_bound hlog hall i
    have he : u.entry? e.id = some { e with written := w } := by simp [State.entry?, hlog]
    have hfind : e.bound.find? (fun p => p.1 == i) = some (i, v i) := by
      rw [hb, List.find?_map]
      have hf : (fun p : Nat × Nat => p.1 == i) ∘ (fun i => (i, v i)) = fun j => j == i := rfl
      rw [hf]
      cases hc : l.find? fun j => j == i with
      | none => exact absurd hi (by simpa using fun h => List.find?_eq_none.mp hc i h (by simp))
      | some j =>
        obtain rfl : j = i := by simpa using List.find?_some hc
        rfl
    rw [State.loadLanes_vector hbind he hfind (h64 i hi)]
    refine loadLanes_written hn hd hwd hflag hb hl h64 m (done ++ [i]) _ (by simpa using hsplit) ⟨w ||| (1#64 <<< i), ?_⟩
      (hw.step hn hd hwd w i)
    simp [State.markWritten, State.deliverLane_eq, State.onGroup, hlog]

theorem vlComplete_loads {v : Nat → Nat} {l ds : List Nat} {lanes : Nat} (hm : maySettle s e g) (hlog : s.log = [e])
    (hop : e.op = .load n signed acq scope hint) (hn : n ∈ [1, 2, 4, 8, 16]) (hd : e.dests = ds.map Dest.slot)
    (hwd : windowDests g ds) (hr : lanesReady e v l lanes) :
    ∃ t h, exec (.vlComplete e.id lanes) s = .next t ∧ settled e g t h ∧ lanesTake e n signed v l ds g h := by
  obtain ⟨-, hl, hw, hb, hask⟩ := hr
  have hlist : (e.accs.filter fun a => e.asked lanes a.lane).map (fun a => a.lane) = l := by
    rw [LogEntry.asked_all hw fun a ha => (hask _ (hl ▸ List.mem_map_of_mem ha)).2, hl]
  have hex := exec_vlComplete hm lanes
  rw [State.completeEntry_load hop, hlist] at hex
  have h0 : Written n signed v ds e g [] s := ⟨⟨g, (group_of_maySettle hm), .nil hwd⟩, e.written, entry_of_maySettle hm, by simp⟩
  obtain ⟨h, hset, htake⟩ := loadLanes_written hn hd hwd (flag_of_maySettle hm) hb hl (fun i hi => (hask i hi).1) l [] s rfl
    ⟨e.written, hlog⟩ h0
  exact ⟨_, h, hex, hset, htake⟩

/-- Old values that have come back are written one after another. -/
theorem Written.fold {v : Nat → Nat} {ds : List Nat} (hn : n ∈ [1, 2, 4, 8, 16]) (hd : e.dests = ds.map Dest.slot)
    (hwd : windowDests g ds) : ∀ (m : List Nat) {l : List Nat} {u : State}, Written n signed v ds e g l u →
      Written n signed v ds e g (l ++ m)
        (m.foldl (fun u i => (u.deliverLane e n signed i (v i)).markWritten e.id i) u)
  | [], l, u, h => by simpa using h
  | i :: m, l, u, h => by
    have := Written.fold hn hd hwd m (h.step hn hd hwd e.written i)
    simpa using this

end

section
variable {s : State} {e : LogEntry} {g : Group} {op : AOp} {sext : Bool} {hint : Nat}

theorem AOp.size_eq (op : AOp) : op.size = if op = .add64 then 8 else 4 := by cases op <;> rfl

theorem vlComplete_atomics {v : Nat → Nat} {l ds : List Nat} {lanes : Nat} (hm : maySettle s e g) (hop : e.op = .atomic op sext hint)
    (hd : e.dests = ds.map Dest.slot) (hwd : windowDests g ds) (hr : lanesReady e v l lanes) :
    ∃ t h, exec (.vlComplete e.id lanes) s = .next t ∧ settled e g t h ∧ lanesTake e op.size false v l ds g h := by
  obtain ⟨-, hl, hw, hb, hask⟩ := hr
  have hn : op.size ∈ [1, 2, 4, 8, 16] := by cases op <;> decide
  have h64 : ∀ i ∈ l, i < 64 := fun i hi => (hask i hi).1
  have hscal : e.bound.find? (fun p => p.1 == scalarLane) = none := List.find?_eq_none.mpr fun p hp => by
    obtain ⟨i, hi, rfl⟩ := List.mem_map.mp (hb ▸ hp)
    simp only [scalarLane, beq_iff_eq]
    exact Nat.ne_of_lt (h64 i hi)
  have hall : (e.bound.filter fun p => e.asked lanes p.1) = e.bound := List.filter_eq_self.mpr fun p hp => by
    obtain ⟨i, hi, rfl⟩ := List.mem_map.mp (hb ▸ hp)
    simp [LogEntry.asked, (hask i hi).2, hw]
  have hex : exec (.vlComplete e.id lanes) s
      = .next ((l.foldl (fun u i => (u.deliverLane e op.size false i (v i)).markWritten e.id i) s).finishWhole e.id) := by
    refine (exec_vlComplete hm lanes).trans (congrArg Host.Outcome.next ?_)
    unfold State.completeEntry
    rw [hop]
    dsimp only
    unfold State.atomicLanes
    rw [hscal, hall, hb, List.foldl_map]
  have h0 : Written op.size false v ds e g [] s := ⟨⟨g, (group_of_maySettle hm), .nil hwd⟩, e.written, entry_of_maySettle hm, by simp⟩
  obtain ⟨h, hset, htake⟩ := (h0.fold hn hd hwd l).finish hd hwd (flag_of_maySettle hm) hl h64
  exact ⟨_, h, hex, hset, htake⟩

theorem vlComplete_scalarAtomic {v d lanes : Nat} (hm : maySettle s e g) (hop : e.op = .atomic op sext hint)
    (hb : e.bound = [(64, v)]) (hd : e.dests = [.sreg d]) (hs : d < g.regs.sregs.length) :
    ∃ t h, exec (.vlComplete e.id lanes) s = .next t ∧ settled e g t h ∧
      h.sval (.sreg d) = if sext = true then sextN (8 * op.size) v else BitVec.ofNat 64 v := by
  obtain ⟨h, hset, hval⟩ := State.finishEntry_scalar (u := s) (v := v) (n := op.size) (signed := sext) e.sameEnd_self hd hs (group_of_maySettle hm)
    (flag_of_maySettle hm)
  refine ⟨_, h, (exec_vlComplete hm lanes).trans (congrArg Host.Outcome.next ?_), hset, hval⟩
  unfold State.completeEntry
  rw [hop]
  dsimp only
  unfold State.atomicLanes
  rw [hb]
  rfl

end

end Sys2Proof.Machine
end

section
/-! What the other instructions of the log write as they complete: drains, queues, mailboxes, words (02 R34, R38; 16 R313, R314;
21 R364). -/
namespace Sys2Proof.Machine
open Sys2Proof.Stated

/-! ### Little-endian bytes -/

theorem natBytes_drop (k n x : Nat) : (natBytes (k + n) x).drop k = natBytes n (x / 256 ^ k) := by
  induction k generalizing x with
  | zero => simp
  | succ k ih =>
    rw [show k + 1 + n = (k + n) + 1 by omega, natBytes, List.drop_succ_cons, ih, Nat.div_div_eq_div_mul, pow_succ']

theorem natBytes_take (m n x : Nat) : (natBytes (m + n) x).take m = natBytes m x := by
  induction m generalizing x with
  | zero => simp [natBytes]
  | succ m ih => rw [show m + 1 + n = (m + n) + 1 by omega, natBytes, List.take_succ_cons, ih, natBytes]

theorem bytesNat_natBytes (n x : Nat) : bytesNat (natBytes n x) = x % 256 ^ n := by
  induction n generalizing x with
  | zero => simp [natBytes, bytesNat, Nat.mod_one]
  | succ n ih => rw [natBytes, bytesNat, ih, BitVec.toNat_ofNat, pow_succ' 256 n, Nat.mod_mul]

/-- The words of a message. -/
theorem messageWord (v : Nat) {i : Nat} (h : i < 16) :
    bytesNat (((natBytes 64 v).drop (4 * i)).take 4) = v / 2 ^ (32 * i) % 2 ^ 32 := by
  have hd := natBytes_drop (4 * i) (4 + (60 - 4 * i)) v
  rw [show 4 * i + (4 + (60 - 4 * i)) = 64 by omega] at hd
  rw [hd, natBytes_take, bytesNat_natBytes, show (256 : Nat) = 2 ^ 8 from rfl, ← pow_mul, ← pow_mul, ← mul_assoc]
  rfl

/-! ### Several lanes at once -/

section
variable {s u : State} {e : LogEntry} {g h : Group} {n : Nat} {signed : Bool} {v : Nat → Nat} {ds l : List Nat}

/-- The lanes of a list are written one after another. -/
theorem State.deliverAll {f : LogEntry} (hn : n ∈ [1, 2, 4, 8, 16]) (hd : f.dests = ds.map Dest.slot) (hw : windowDests g ds)
    (hg : s.group? f.grp = some g) (l : List Nat) :
    ∃ h, (l.foldl (fun u i => u.deliverLane f n signed i (v i)) s).group? f.grp = some h ∧ LanesIn n signed v ds g l h := by
  induction l using List.reverseRecOn with
  | nil => exact ⟨g, hg, .nil hw⟩
  | append_singleton l i ih =>
    obtain ⟨h, hu, hl⟩ := ih
    refine ⟨_, ?_, hl.take hn hw i⟩
    rw [List.foldl_append, List.foldl_cons, List.foldl_nil, State.deliverLane_eq, group?_onGroup (Group.takeLane_id _ _ _ _ _), hu, hd]
    rfl

theorem vlComplete_drain {lanes acc row base d : Nat} (hm : maySettle s e g) (hop : e.op = .cdrain acc row base)
    (hd : e.dests = [.slot d]) (hw : windowDests g [d]) (hl : l ≠ []) (hb : e.bound = l.map fun i => (i, v i)) :
    ∃ t h, exec (.vlComplete e.id lanes) s = .next t ∧ settled e g t h ∧ lanesTake e 4 false v l [d] g h := by
  replace hd : e.dests = [d].map Dest.slot := hd
  obtain ⟨h, hu, hin⟩ := State.deliverAll (f := e) (v := v) (n := 4) (signed := false) (by decide) hd hw (group_of_maySettle hm) l
  obtain ⟨hset, htake⟩ := State.finishEntry_lanes e.sameEnd_self hd hw hu hin (flag_of_maySettle hm)
  refine ⟨_, _, (exec_vlComplete hm lanes).trans (congrArg Host.Outcome.next ?_), hset, htake⟩
  unfold State.completeEntry
  rw [hop]
  dsimp only
  rw [hb, if_neg (by simpa using hl), List.foldl_map]

/-! ### The predicate NBP (02 R34) -/



/-- The window destinations of an entry with a predicate behind them. -/
theorem LogEntry.winDests_eq {p : Nat} (hd : e.dests = ds.map Dest.slot ++ e.nbp.toList) (hn : ∀ x, e.nbp = some x → x = .preg p) :
    e.winDests = ds.map Dest.slot := by
  have hslots : (ds.map Dest.slot).filter (fun d => some d != e.nbp) = ds.map Dest.slot := List.filter_eq_self.mpr fun d hd => by
    obtain ⟨k, -, rfl⟩ := List.mem_map.mp hd
    rw [bne_iff_ne]
    exact fun h => nomatch hn _ h.symm
  have hrest : e.nbp.toList.filter (fun d => some d != e.nbp) = [] := by cases e.nbp <;> simp
  rw [LogEntry.winDests, hd, List.filter_append, hslots, hrest, List.append_nil]

/-- Once the lanes are written, the predicate takes its mask in the executing lanes and the entry completes. -/
theorem State.finishEntry_nbp {p : Nat} {m : Mask} (hd : e.dests = ds.map Dest.slot ++ e.nbp.toList)
    (hn : ∀ x, e.nbp = some x → x = .preg p) (hw : windowDests g ds) (hu : u.group? e.grp = some h)
    (hl : LanesIn n signed v ds g l h) (hflag : e.flag < g.cf.length) :
    ∃ k, settled e g ((u.setNbp e m).finishEntry { e with dests := e.winDests }) k ∧ lanesTake e n signed v l ds g k ∧
      (e.nbp ≠ none → p < 7 → p < g.regs.pregs.length → ∀ i, e.lanes.getLsbD i = true →
        (k.pval (.preg p)).getLsbD i = m.getLsbD i) := by
  have hwin := LogEntry.winDests_eq hd hn
  have hcs : h.csrs = g.csrs := (congrArg Group.csrs hl.beside :)
  have hcf : h.cf = g.cf := (congrArg Group.cf hl.beside :)
  have hpr : h.regs.pregs = g.regs.pregs := (congrArg (fun g : Group => g.regs.pregs) hl.beside :)
  have hsame : e.SameEnd { e with dests := e.winDests } := ⟨rfl, rfl, rfl, rfl, rfl⟩
  obtain hnbp | ⟨x, hnbp⟩ : e.nbp = none ∨ ∃ x, e.nbp = some x := by cases e.nbp <;> simp
  · have hset : u.setNbp e m = u := by rw [State.setNbp, hnbp]
    rw [hset]
    exact ⟨_, State.finishEntry_settled hsame hu hcs hcf hflag, hl.close hsame hwin rfl hw, fun h => absurd hnbp h⟩
  · obtain rfl := hn x hnbp
    have hset : u.setNbp e m = u.onGroup e.grp fun g => g.setPval (.preg p) e.lanes m := by rw [State.setNbp, hnbp]
    have hg : (u.setNbp e m).group? e.grp = some (h.setPval (.preg p) e.lanes m) := by
      rw [hset, group?_onGroup fun g => g.setPval_id _ _ _, hu]
      rfl
    refine ⟨_, State.finishEntry_settled hsame hg hcs hcf hflag, hl.close hsame hwin rfl hw, fun _ h7 hp i hi => ?_⟩
    have hclose : (LogEntry.close { e with dests := e.winDests } (h.setPval (.preg p) e.lanes m)).regs.pregs
        = (h.setPval (.preg p) e.lanes m).regs.pregs :=
      (congrArg (fun g : Group => g.regs.pregs) (Group.setTags_beside e.tag e.winDests (h.setPval (.preg p) e.lanes m)) :)
    have h7 : p ≠ 7 := by omega
    have hval : ((LogEntry.close { e with dests := e.winDests } (h.setPval (.preg p) e.lanes m)).regs.pregs.getD p {}).val.getLsbD i
        = m.getLsbD i := by
      have hnew : ((h.setPval (.preg p) e.lanes m).regs.pregs.getD p {}).val = h.pval (.preg p) &&& ~~~e.lanes ||| m &&& e.lanes := by
        simp [Group.setPval, lset, hpr, hp]
      rw [hclose, hnew, BitVec.getLsbD_or, BitVec.getLsbD_and, BitVec.getLsbD_and, BitVec.getLsbD_not, hi]
      simp
    simpa only [Group.pval, if_neg h7] using hval

theorem vlComplete_qpop {lanes die q p : Nat} {nb : Bool} (hm : maySettle s e g) (hop : e.op = .qpop die q nb)
    (hd : e.dests = ds.map Dest.slot ++ e.nbp.toList) (hn : ∀ x, e.nbp = some x → x = .preg p) (hw : windowDests g ds)
    (hl : l ≠ []) (hb : e.bound = l.map fun i => (i, v i)) :
    ∃ t h, exec (.vlComplete e.id lanes) s = .next t ∧ settled e g t h ∧ lanesTake e 8 false v l ds g h ∧
      (e.nbp ≠ none → p < 7 → p < g.regs.pregs.length →
        ∀ i, i < 64 → e.lanes.getLsbD i = true → ((h.pval (.preg p)).getLsbD i = true ↔ i ∈ l)) := by
  have hg : s.group? e.grp = some g := group_of_maySettle hm
  obtain ⟨h, hu, hin⟩ := State.deliverAll (f := { e with dests := e.winDests }) (v := v) (n := 8) (signed := false) (by decide)
    (LogEntry.winDests_eq hd hn) hw hg l
  obtain ⟨k, hset, htake, hpred⟩ := State.finishEntry_nbp (m := maskOf l) hd hn hw hu hin (flag_of_maySettle hm)
  refine ⟨_, k, (exec_vlComplete hm lanes).trans (congrArg Host.Outcome.next ?_), hset, htake, fun h1 h2 h3 i hi hx => ?_⟩
  · unfold State.completeEntry
    rw [hop]
    dsimp only
    have hlanes : e.bound.map (fun p => p.1) = l := by simp [hb, Function.comp_def]
    rw [hlanes, hb, if_neg (by simpa using hl), List.foldl_map]
  · rw [hpred h1 h2 h3 i hx]
    exact maskOf_getLsbD l hi

theorem vlComplete_mbrecv {lanes box p w : Nat} {nb : Bool} (hm : maySettle s e g) (hop : e.op = .mbrecv box nb)
    (hd : e.dests = ds.map Dest.slot ++ e.nbp.toList) (hn : ∀ x, e.nbp = some x → x = .preg p) (hw : windowDests g ds)
    (hb : e.bound = [(64, w)]) :
    ∃ t h, exec (.vlComplete e.id lanes) s = .next t ∧ settled e g t h ∧
      lanesTake e 4 false (fun i => w / 2 ^ (32 * i) % 2 ^ 32) (List.range 16) ds g h ∧
      (e.nbp ≠ none → p < 7 → p < g.regs.pregs.length →
        ∀ i, i < 64 → e.lanes.getLsbD i = true → (h.pval (.preg p)).getLsbD i = true) := by
  have hg : s.group? e.grp = some g := group_of_maySettle hm
  obtain ⟨h, hu, hin⟩ := State.deliverAll (f := { e with dests := e.winDests }) (v := fun i => w / 2 ^ (32 * i) % 2 ^ 32) (n := 4)
    (signed := false) (by decide) (LogEntry.winDests_eq hd hn) hw hg (List.range 16)
  obtain ⟨k, hset, htake, hpred⟩ := State.finishEntry_nbp (m := e.lanes) hd hn hw hu hin (flag_of_maySettle hm)
  refine ⟨_, k, (exec_vlComplete hm lanes).trans (congrArg Host.Outcome.next ?_), hset, htake, fun h1 h2 h3 i _ hx => ?_⟩
  · unfold State.completeEntry
    rw [hop]
    dsimp only
    rw [hb]
    have hwords : (List.range 16).foldl (fun u i => u.deliverLane { e with dests := e.winDests } 4 false i
        (bytesNat (((natBytes 64 w).drop (4 * i)).take 4))) s
        = (List.range 16).foldl (fun u i => u.deliverLane { e with dests := e.winDests } 4 false i (w / 2 ^ (32 * i) % 2 ^ 32)) s :=
      List.foldl_ext _ _ _ fun u i hi => by rw [messageWord w (List.mem_range.mp hi)]
    exact congrArg (fun u : State => (u.setNbp e e.lanes).finishEntry { e with dests := e.winDests }) hwords
  · rw [hpred h1 h2 h3 i hx]
    exact hx

/-! ### One word -/

/-- A word that an instruction takes from one place. -/
theorem State.takeValue_settled {d : Nat} (hd : e.dests = [.sreg d]) (hs : d < g.regs.sregs.length) (hg : u.group? e.grp = some g)
    (hflag : e.flag < g.cf.length) (x : W64) : ∃ h, settled e g (u.takeValue e x) h ∧ h.sval (.sreg d) = x := by
  obtain ⟨h, hset, hval⟩ := State.finishEntry_scalar (u := u) (v := x.toNat) (n := 8) (signed := false) e.sameEnd_self hd hs hg hflag
  exact ⟨h, hset, by simpa using hval⟩

theorem fld_eq_fieldOf (x : W64) (hi lo : Nat) : fld x hi lo = fieldOf x hi lo := by
  rw [fld, bits, fieldOf, Nat.shiftRight_eq_div_pow]

/-- The handle names a work of the table with its status, where it names no other die or module. -/
theorem State.jobStatus_found {x : W64} {w : Work} (hx : fieldOf x 62 33 = 0)
    (hjob : w.job = !x.getLsbD 63) (hone : (s.tableOn (fieldOf x 32 32)).filter
      (fun u => u.job == w.job && u.handleNum == fieldOf x 31 0) = [w])
    (hvis : w.job = true ∨ w.named = true ∨ w.cq = none) (hnum : w.handleNum = fieldOf x 31 0) :
    s.jobStatus x = (w.statusWord, s) := by
  obtain ⟨h1, h2, h3⟩ : fieldOf x 47 40 = 0 ∧ fieldOf x 39 33 = 0 ∧ fieldOf x 62 48 = 0 := by
    simp only [fieldOf] at hx ⊢
    omega
  have hmem : w ∈ s.tableOn (fieldOf x 32 32) :=
    List.mem_of_mem_filter (hone ▸ List.mem_singleton_self w : w ∈ List.filter _ (s.tableOn (fieldOf x 32 32)))
  have hbit : bit x 63 = !w.job := by simp [bit, hjob]
  have hsees : (w.job != bit x 63 && (w.job || w.named || w.cq.isNone) && w.handleNum == fieldOf x 31 0) = true := by
    rw [hbit, hnum]
    rcases hvis with h | h | h <;> simp [h]
  have hfind : (s.tableOn (fieldOf x 32 32)).find? (fun u => u.job != bit x 63 && (u.job || u.named || u.cq.isNone)
      && u.handleNum == fieldOf x 31 0) = some w := by
    cases hf : (s.tableOn (fieldOf x 32 32)).find? (fun u => u.job != bit x 63 && (u.job || u.named || u.cq.isNone)
      && u.handleNum == fieldOf x 31 0) with
    | none => exact absurd hsees (List.find?_eq_none.mp hf w hmem)
    | some u =>
      obtain ⟨⟨hj, -⟩, hh⟩ : (u.job ≠ (!w.job) ∧ _) ∧ u.handleNum = fieldOf x 31 0 := by simpa [hbit] using List.find?_some hf
      have hu : u ∈ List.filter (fun u => u.job == w.job && u.handleNum == fieldOf x 31 0) (s.tableOn (fieldOf x 32 32)) :=
        List.mem_filter.mpr ⟨List.mem_of_find?_eq_some hf, by simpa [hh] using hj⟩
      rw [hone] at hu
      rw [List.mem_singleton.mp hu]
  unfold State.jobStatus
  simp only [fld_eq_fieldOf]
  rw [hfind]
  simp [h1, h2, h3]

/-- The handle names no work of the table. -/
theorem State.jobStatus_missing {x : W64} (hx : fieldOf x 47 40 = 0)
    (hno : ∀ w ∈ s.tableOn (fieldOf x 32 32), w.job = x.getLsbD 63 ∨ w.handleNum ≠ fieldOf x 31 0) :
    s.jobStatus x = (BitVec.ofNat 64 (255 * 2 ^ 32), s) := by
  have hfind : (s.tableOn (fieldOf x 32 32)).find? (fun u => u.job != bit x 63 && (u.job || u.named || u.cq.isNone)
      && u.handleNum == fieldOf x 31 0) = none := List.find?_eq_none.mpr fun w hw => by
    rcases hno w hw with h | h
    · simp [bit, h]
    · simp [h]
  unfold State.jobStatus
  simp only [fld_eq_fieldOf]
  rw [hfind]
  simp [hx, w64]

/-- The word that `dread`, `hcrd` or `jobstat` takes as it completes (R313, R314). -/
def wordTaken (s : State) (e : LogEntry) (x : W64) : Prop :=
  (∃ (a : Access) (p : Piece) (ps : List Piece), e.op = .dread ∧ e.accs = [a] ∧ a.place = .phys (p :: ps) ∧
      s.wordInPath e p.pa = false ∧ s.badRead p.pa 8 = false ∧ x = s.homeW64 p.pa)
    ∨ (∃ n : Nat, e.op = .hcrd n ∧ x = s.hc (n / 256) (n % 256))
    ∨ (∃ (h : W64) (w : Work), e.op = .jobstat h ∧ fieldOf h 62 33 = 0 ∧ w ∈ s.works ∧ w.die = fieldOf h 32 32 ∧
      w.job = !h.getLsbD 63 ∧
      (s.tableOn (fieldOf h 32 32)).filter (fun u => u.job == w.job && u.handleNum == fieldOf h 31 0) = [w] ∧
      (w.job = true ∨ w.named = true ∨ w.cq = none) ∧ w.handleNum = fieldOf h 31 0 ∧
      x = BitVec.ofNat 64 ((if w.state = .rejected then w.reason * 2 ^ 40 else 0) + w.stateCode * 2 ^ 32
        + if w.job = true then w.out % 2 ^ 32 else 0))
    ∨ (∃ h : W64, e.op = .jobstat h ∧ fieldOf h 47 40 = 0 ∧ x = BitVec.ofNat 64 (255 * 2 ^ 32) ∧
      ∀ w ∈ s.tableOn (fieldOf h 32 32), w.job = h.getLsbD 63 ∨ w.handleNum ≠ fieldOf h 31 0)

theorem State.completeEntry_word {x : W64} (h : wordTaken s e x) (g : Group) (lanes : Nat) :
    s.completeEntry g e lanes = s.takeValue e x := by
  unfold State.completeEntry
  rcases h with ⟨a, p, ps, hop, ha, hp, hw, hb, rfl⟩ | ⟨n, hop, rfl⟩ | ⟨h, w, hop, hx, -, -, hjob, hone, hvis, hnum, rfl⟩ |
    ⟨h, hop, hx, rfl, hno⟩
  · rw [hop]
    dsimp only
    obtain ⟨lane, va, n, place⟩ := a
    obtain rfl : place = .phys (p :: ps) := hp
    unfold State.dreadDone
    rw [ha]
    dsimp only
    rw [hw, hb]
    rfl
  · rw [hop]
  · rw [hop]
    dsimp only
    rw [State.jobStatus_found hx hjob hone hvis hnum]
    simp [Work.statusWord, w64]
  · rw [hop]
    dsimp only
    rw [State.jobStatus_missing hx hno]

theorem vlComplete_word {lanes d : Nat} {x : W64} (hm : maySettle s e g) (hd : e.dests = [.sreg d]) (hs : d < g.regs.sregs.length)
    (h : wordTaken s e x) :
    ∃ t h, exec (.vlComplete e.id lanes) s = .next t ∧ settled e g t h ∧ h.sval (.sreg d) = x := by
  obtain ⟨k, hset, hval⟩ := State.takeValue_settled hd hs (group_of_maySettle hm) (flag_of_maySettle hm) x
  exact ⟨_, k, (exec_vlComplete hm lanes).trans (congrArg Host.Outcome.next (State.completeEntry_word h g lanes)), hset, hval⟩

/-! ### Nothing to write, or nothing yet -/

theorem vlComplete_nothing {lanes : Nat} (he : s.entry? e.id = some e) (hg : s.group? e.grp = some g) (hr : s.residentGroup g = true)
    (hst : e.state = .running) (hu : e.untranslated = false) (hn : notHeld g e) (hop : e.op = .nothing) :
    exec (.vlComplete e.id lanes) s = .next ((match e.nbp with
      | some d => s.onGroup e.grp fun h => h.setPval d e.lanes 0
      | none => s).finishEntry e) := by
  refine (vlComplete_completes he hg hr hst hu hn).trans (congrArg Host.Outcome.next ?_)
  unfold State.completeEntry
  rw [hop]
  rfl

/-- What a handler found in the log waits for its `eret`. -/
theorem exec_held (he : s.entry? e.id = some e) (hg : s.group? e.grp = some g) (hrun : g.running ≠ 0) (hn : ¬ notHeld g e)
    (lanes : Nat) : exec (.vlComplete e.id lanes) s = .next s ∧ exec (.drainPerform e.id) s = .next s := by
  obtain ⟨htl, hlev⟩ : g.flow.tl = true ∧ e.tlevel = false := by simpa [notHeld] using hn
  have hat : s.atReturn e = true := by
    rw [State.atReturn, hg, hlev, Option.any_some, htl, bne_iff_ne.mpr hrun]
    rfl
  refine ⟨?_, congrArg Host.Outcome.next ?_⟩
  · change vlComplete s e.id lanes = _
    simp [vlComplete, he, hg, hat]
  · unfold drainStep
    rw [he]
    dsimp only
    split
    · exact if_pos (by simp [hat])
    · rfl

end

end Sys2Proof.Machine
end

section
/-! The steps of memory and of the copy engine (03 R48, R55, R58; 04 R68, R70; 05 R106 to R111, R116, R122; 16 R297; 21 R367). -/
namespace Sys2Proof.Machine
open Sys2Proof.Stated

/-! ### Memory -/

section
variable {s : State}

theorem exec_issueArbitration (s : State) : (s.aelmel.clockStopped = true → exec .issueArbitration s = .next s) ∧
    (s.aelmel.clockStopped = false → exec .issueArbitration s = .next (masterClock s)) := by
  constructor <;> intro h <;> exact congrArg Host.Outcome.next (by rw [h]; rfl)

theorem exec_storePerformHome {tile n : Nat} {e : PathEntry} {bs : List Byte}
    (he : (s.tile tile).path.find? (fun p => p.id == n) = some e) (hop : e.op = .store bs) :
    (s.pathsReady n = true → exec (.storePerformHome tile n) s = .next ((s.homeWrite e.pa bs e.hint e.inst).offPath n)) ∧
      (s.pathsReady n = false → exec (.storePerformHome tile n) s = .next s) := by
  have h : storePerform s tile n = if s.pathsReady n = true then (s.homeWrite e.pa bs e.hint e.inst).offPath n else s := by
    simp only [storePerform, he, hop]
  exact ⟨fun hr => congrArg Host.Outcome.next (h.trans (if_pos hr)), fun hr => congrArg Host.Outcome.next (h.trans (if_neg (by simp [hr])))⟩

theorem exec_translationWalk {u : State} {tile va asid vmid vmt kind : Nat} {r : TRes} {e : TlbEntry} (ht : tile < 1000)
    (hv : va < 2 ^ 52) (hw : s.walkWanted (.tile tile) va asid vmid = true)
    (hf : ∀ x, s.tlbFind { master := .tile tile, asid := asid, vmid := vmid } va = some x → x.serves (kindOfNum kind) = false)
    (hb : s.vmtbase = some vmt)
    (hk : s.walk vmt { master := .tile tile, asid := asid, vmid := vmid } va 1 (kindOfNum kind) = (u, r, some e)) :
    exec (.translationWalk tile va asid vmid kind) s = .next (u.tlbFill (.tile tile) e) := by
  have hm : masterOfNum tile = some (.tile tile) := if_pos ht
  have hno : ((s.tlbFind { master := .tile tile, asid := asid, vmid := vmid } va).any fun e => e.serves (kindOfNum kind)) = false := by
    cases hx : s.tlbFind { master := .tile tile, asid := asid, vmid := vmid } va with
    | none => rfl
    | some x => exact hf x hx
  refine congrArg Host.Outcome.next ?_
  simp only [translationWalk, hm]
  rw [if_neg (by simpa [hw, hno] using hv)]
  simp only [State.tableOf, hb, hk]

theorem natBytes_eq_leBytes (n v : Nat) : natBytes n v = leBytes n v := by
  induction n generalizing v with
  | zero => rfl
  | succ n ih =>
    rw [natBytes, ih, leBytes, leBytes, List.range_succ_eq_map, List.map_cons, List.map_map, pow_zero, Nat.div_one]
    refine congrArg (List.cons _) (List.map_congr_left fun k _ => ?_)
    simp only [Function.comp_apply, Nat.div_div_eq_div_mul, pow_succ']

theorem exec_dirtyGatherWriteback {die n : Nat} {g : Gather} (hg : (s.die die).gathers[n]? = some g)
    (hb : s.badRead g.desc 8 = false) : exec (.dirtyGatherWriteback die n) s
      = .next ((s.setDie die { s.die die with gathers := (s.die die).gathers.eraseIdx n }).homeWrite
        g.desc (leBytes 8 (s.homeW64 g.desc ||| (1#64 <<< 54)).toNat) 0) := by
  refine congrArg Host.Outcome.next ?_
  simp only [gatherWriteback, hg]
  rw [State.writeGather, if_neg (by simpa [State.badRead_setDie] using hb), State.orWord, natBytes_eq_leBytes]
  rfl

/-- The first record whose ring takes one, behind those whose rings take none. -/
theorem State.postable_eq {f : FaultRec} {m : List FaultRec} (hf : s.ringTakes (s.ringOf f) = true) : ∀ (l : List FaultRec) (n : Nat),
    (∀ x ∈ l, s.ringTakes (s.ringOf x) = false) → s.postable n (l ++ f :: m) = some (n + l.length, f)
  | [], n, _ => if_pos hf
  | x :: l, n, h => by
    obtain ⟨hx, hl⟩ := List.forall_mem_cons.mp h
    rw [List.cons_append, State.postable, if_neg (by simp [hx]), State.postable_eq hf l (n + 1) hl, List.length_cons]
    congr 2
    omega

theorem exec_faultRecordPost {die : Nat} {f : FaultRec} {l m : List FaultRec} (hb : (s.die die).buffer = l ++ f :: m)
    (hl : ∀ x ∈ l, s.ringTakes (s.ringOf x) = false) (hf : s.ringTakes (s.ringOf f) = true) :
    exec (.faultRecordPost die) s = .next ((s.setDie die { s.die die with buffer := l ++ m }).ringPut (s.ringOf f) f) := by
  have hrest : (l ++ f :: m).eraseIdx l.length = l ++ m := by
    rw [List.eraseIdx_append_of_length_le (Nat.le_refl _), Nat.sub_self, List.eraseIdx_cons_zero]
  have hp := State.postable_eq (m := m) hf l 0 hl
  rw [Nat.zero_add] at hp
  refine congrArg Host.Outcome.next ?_
  simp only [postRecord, hb, hp, hrest]

theorem exec_uncorrectableError_stack {addr : Nat} (ha : addr < 2 ^ 48) (hs : s.sline? (addr / 128) = none)
    (hb : ∀ b ∈ s.badBursts, b.burst ≠ addr / 64) : exec (.uncorrectableError addr) s = .next { s with
      health := { s.health with uecnt := min 255 (s.health.uecnt + 1) }, badBursts := s.badBursts ++ [{ burst := addr / 64 }] } := by
  have hf : s.badBursts.filter (fun b => b.burst != addr / 64) = s.badBursts := List.filter_eq_self.mpr fun b h => by simpa using hb b h
  have hn (h : Health) : ({ s with health := h } : State).sline? (addr / 128) = none := hs
  refine congrArg Host.Outcome.next ?_
  simp only [uncorrectable, errorOfGroup, if_pos ha, hn, Option.isSome_none, Bool.false_eq_true, if_false, hf]

theorem exec_uncorrectableError_slice {addr : Nat} {l : SLine} (ha : addr < 2 ^ 48) (hs : s.sline? (addr / 128) = some l) :
    exec (.uncorrectableError addr) s = .next { s with
      health := { s.health with uecnt := min 255 (s.health.uecnt + 1) }
      badSlices := s.badSlices ++ [{ burst := addr / 64, cause := 0x22 }] } := by
  have hn (h : Health) : ({ s with health := h } : State).sline? (addr / 128) = some l := hs
  refine congrArg Host.Outcome.next ?_
  simp only [uncorrectable, errorOfGroup, if_pos ha, hn, Option.isSome_some, if_true]

end

/-! ### Copies -/

section
variable {s u v : State} {k : Copy} {l : CopyLane}

/-- A lane that is due and still to be read. -/
theorem exec_copyTransfer_unread (h : laneDue s k l) (hd : l.data = none) : exec (.copyTransfer k.id l.lane) s = s.copyRead k l := by
  obtain ⟨hk, hm, hl, hg⟩ := h
  exact copyTransfer_unread hk hm hg hl hd

theorem exec_copyTransfer_window {t off : Nat} (h : laneDue s k l) (hd : l.data = none) (hs : l.src = .loc t off) :
    exec (.copyTransfer k.id l.lane) s = .next (s.laneRead k l (s.windowRead t off k.n)) := by
  rw [exec_copyTransfer_unread h hd]
  simp only [State.copyRead, hs]

theorem exec_copyTransfer_memory {va : W64} {ps : List Piece} {bs : List Byte} {g : Group} (h : laneDue s k l) (hd : l.data = none)
    (hs : l.src = .glob va) (hr : s.resolve (s.copyAgent k) va k.n .read (s.copyWork k) = (u, .ok ps)) (hg : u.group? k.grp = some g)
    (hb : u.badPiece g (u.copyHome k) (u.tileWide g k.scope) va (fun _ => true) ps = none) (ho : u.ownAtomic k ps = false)
    (hv : u.enginePieces (u.copyHome k) (u.tileWide g k.scope) k.hint ps = (v, bs)) :
    exec (.copyTransfer k.id l.lane) s = .next (v.laneRead k l bs) := by
  rw [exec_copyTransfer_unread h hd]
  simp only [State.copyRead, hs, hr, hg, hb, ho, hv]
  rfl

theorem exec_copyTransfer_intoWindow {bs : List Byte} {t off : Nat} (h : laneDue s k l) (hd : l.data = some bs)
    (hr : k.remote = false) (hm : k.mc = false) (hw : s.lowerFirst k l none = false) (hs : l.dst = .loc t off) :
    exec (.copyTransfer k.id l.lane) s = .next (((s.copyInto t off bs).laneDone k.id l.lane).copyDeliver k) := by
  refine (copyTransfer_writes h hd hr hm).trans ?_
  simp only [State.copyWrite, hw, hs]
  rfl

theorem exec_copyTransfer_intoMemory {bs : List Byte} {ps : List Piece} {va : W64} (h : laneDue s k l) (hd : l.data = some bs)
    (hr : k.remote = false) (hm : k.mc = false) (hw : s.lowerFirst k l none = false) (hs : l.dst = .glob va)
    (hu : s.resolve (s.copyAgent k) va k.n .write (s.copyWork k) = (u, .ok ps)) (ho : u.ownOnWay k ps = false) :
    exec (.copyTransfer k.id l.lane) s = .next (((ps.foldl
      (fun s p => s.setTile (u.copyHome k) ((s.tile (u.copyHome k)).dropLine (p.pa / 128)))
      (ps.foldl (fun (a : State × List Byte) p =>
        (a.1.homeWrite p.pa (a.2.take p.n) k.hint k.id, a.2.drop p.n)) (u, bs)).1).laneDone k.id l.lane).copyDeliver k) := by
  refine (copyTransfer_writes h hd hr hm).trans ?_
  simp only [State.copyWrite, hw, hs, hu, ho]
  rfl

theorem exec_bankArbitration {rest : List CopyLane} {tile t off : Nat}
    (hf : s.copies.find? (fun k => s.copyTile k == tile && s.copyMoves k) = some k) (hl : k.lanes = l :: rest) (h : laneDue s k l)
    (hd : l.data = none) (hs : l.src = .loc t off) :
    exec (.bankArbitration tile) s = .next (s.laneRead k l (s.windowRead t off k.n)) := by
  have hb : exec (.bankArbitration tile) s = copyTransfer s k.id l.lane := by
    change bankArbitration s tile = _
    simp only [bankArbitration, hf, hl]
  exact hb.trans (exec_copyTransfer_window h hd hs)

/-- A lane that waits for a team that may take it is to be delivered. -/
theorem delivers_of_due {bs : List Byte} {recv off x : Nat} {tm : Team} (h : laneDue s k l) (hd : l.data = some bs)
    (hs : l.dst = .loc x off) (ht : s.team? recv = some tm) (hw : recv ∈ l.recvs) (hl : s.lowerFirst k l (some recv) = false)
    (hr : tm.retired = false) (hm : s.moving tm = false ∨ k.begun l recv = true) : Delivers s k l bs recv off x tm := by
  obtain ⟨hk, hmv, hlane, -⟩ := h
  exact ⟨hk, hmv, hlane, hd, hs, ht, hw, hl, hr, hm⟩

section
variable {bs : List Byte} {recv off x : Nat} {tm : Team}

theorem exec_remoteDelivery_remote (h : Delivers s k l bs recv off x tm) (hr : k.remote = true) (hm : k.mc = false) :
    exec (.remoteDelivery k.id l.lane recv) s = .next (match k.recvBar with
      | some b => ((s.copyInto recv off bs).recvDone k l recv false).deliver recv b k.n
      | none => (s.copyInto recv off bs).recvDone k l recv false) := by
  refine congrArg Host.Outcome.next ((remoteDelivery_makes h (.inl hr) (by simp [hm])).trans ?_)
  cases hb : k.recvBar with
  | none => simp only [State.makeDelivery, hm, hb]
  | some b => simp only [State.makeDelivery, hm, hb]

theorem exec_remoteDelivery_multicast {ro : Nat} {snd : Nat × Nat} {tab : List AckEntry} (h : Delivers s k l bs recv off x tm)
    (hm : k.mc = true) (hb : k.bar = some snd) (ho : k.recvBar = some ro) (ha : recv ∉ k.acked)
    (ht : addAck (s.ackTable tm) recv ro snd.1 snd.2 = some tab) :
    exec (.remoteDelivery k.id l.lane recv) s
      = .next ((((s.setAckTable tm tab).copyInto recv off bs).recvDone k l recv true).deliver recv ro k.n) := by
  refine congrArg Host.Outcome.next ((remoteDelivery_records h hm hb ho (by simpa using ha) ht).trans ?_)
  rw [State.makeDelivery, hm, ho]

/-- A lane of a copy whose deliveries others take. -/
theorem exec_copyTransfer_returns (h : laneDue s k l) (hr : k.remote = true ∨ k.mc = true) (hd : l.data = some bs) :
    exec (.copyTransfer k.id l.lane) s = .next (s.takeReturns k l) := by
  obtain ⟨hk, hmv, hl, hg⟩ := h
  exact (copyTransfer_read hk hmv hg hl hd).trans (if_pos (by simpa using hr))

theorem State.takeReturns_eq (s : State) (k : Copy) (l : CopyLane) :
    let u := s.setCopy { k with lanes := k.lanes.map fun m => if m.lane = l.lane then { m with back := 0 } else m }
    let v := if l.recvs = [] then u.laneDone k.id l.lane else u
    (k.mc = false ∨ l.back = 0 → s.takeReturns k l = v) ∧
      ∀ snd, k.mc = true → l.back ≠ 0 → k.bar = some snd → s.takeReturns k l = v.deliver snd.1 snd.2 (k.n * l.back) := by
  have hempty : (l.recvs.isEmpty = true) = (l.recvs = []) := propext List.isEmpty_iff
  unfold State.takeReturns
  simp only [hempty]
  refine ⟨fun h => ?_, fun snd hm hb hk => ?_⟩
  · have hno : (k.mc && l.back != 0) = false := by
      rcases h with h | h <;> simp [h]
    rw [hno]
  · have hyes : (k.mc && l.back != 0) = true := by simp [hm, hb]
    rw [hyes, hk]

/-- A delivery to a team that is gone or has retired is dropped. -/
theorem exec_remoteDelivery_drops (h : laneDue s k l) (hr : k.remote = true ∨ k.mc = true) (hd : l.data = some bs)
    (hs : l.dst = .loc x off) (hw : recv ∈ l.recvs) (ht : s.team? recv = none ∨
      ∃ tm, s.team? recv = some tm ∧ tm.retired = true ∧ s.lowerFirst k l (some recv) = false) :
    exec (.remoteDelivery k.id l.lane recv) s = .next (s.dropDelivery k l recv) := by
  obtain ⟨hk, hmv, hl, -⟩ := h
  have hgo : (s.copyMoves k && (k.remote || k.mc)) = true := by simpa [hmv] using hr
  have hin := List.contains_iff_mem.mpr hw
  refine congrArg Host.Outcome.next ?_
  rcases ht with ht | ⟨tm, ht, hret, hlow⟩
  · simp only [remoteDelivery, hk, if_pos hgo, hl, hd, hs, ht, hin, if_true]
  · simp only [remoteDelivery, hk, if_pos hgo, hl, hd, hs, ht, hin, hret, hlow]
    rfl

end

/-! ### A copy that meets a fault (R108) -/

/-- A lane whose side does not translate waits. -/
theorem exec_copyTransfer_waits {va : W64} {r : FaultRec} (h : laneDue s k l)
    (hf : (l.data = none ∧ l.src = .glob va ∧ s.resolve (s.copyAgent k) va k.n .read (s.copyWork k) = (u, .fault r)) ∨
      (∃ bs, l.data = some bs ∧ l.dst = .glob va ∧ k.remote = false ∧ k.mc = false ∧ s.lowerFirst k l none = false ∧
        s.resolve (s.copyAgent k) va k.n .write (s.copyWork k) = (u, .fault r))) :
    exec (.copyTransfer k.id l.lane) s = .next (u.copyWaits k l.lane r) := by
  rcases hf with ⟨hd, hs, hr⟩ | ⟨bs, hd, hs, hrem, hm, hw, hr⟩
  · rw [exec_copyTransfer_unread h hd]
    simp only [State.copyRead, hs, hr]
  · refine (copyTransfer_writes h hd hrem hm).trans ?_
    simp only [State.copyWrite, hw, hs, hr]
    rfl

theorem State.copyWaits_posts {r : FaultRec} {n lane : Nat} (ht : k.token = none) (hh : k.held = false)
    (hp : u.postFault r (.copy k.id) = some (n, v)) :
    u.copyWaits k lane r = v.setCopy { k with token := some n, stuck := [lane] } := by
  rw [State.copyWaits, if_neg (by simp [Copy.suspended, ht, hh]), hp]

theorem State.copyWaits_suspended {r : FaultRec} {lane : Nat} (h : k.token ≠ none ∨ k.held = true) :
    u.copyWaits k lane r = u.setCopy { k with stuck := k.stuck ++ [lane] } := by
  rw [State.copyWaits, if_pos]
  rcases h with h | h
  · simp [Copy.suspended, Option.isSome_iff_ne_none.mpr h]
  · simp [Copy.suspended, h]

/-- A suspended copy goes on with no lane that is stuck, or that begins a line. -/
theorem State.laneGoes_suspended (h : k.token ≠ none ∨ k.held = true)
    (hl : l.lane ∈ k.stuck ∨ (l.data = none ∧ some l.lineNo ≠ k.line ∧ k.halfSent l = false ∧ ∀ m ∈ k.lanes, m.data = none)) :
    s.laneGoes k l = false := by
  have hs : k.suspended = true := by
    rcases h with h | h
    · simp [Copy.suspended, Option.isSome_iff_ne_none.mpr h]
    · simp [Copy.suspended, h]
  rcases hl with hl | ⟨hd, hn, hh, hall⟩
  · simp [State.laneGoes, Copy.stuckAt, hs, hl]
  · have hb : s.laneBegun k l = false := by
      have hany : (k.lanes.any fun m => m.data.isSome && decide (l.lane < m.lane) && s.sidesMeet k l.dst m.dst) = false :=
        List.any_eq_false.mpr fun m hm => by simp [hall m hm]
      simp [State.laneBegun, hd, hn, hh, hany]
    simp [State.laneGoes, hb, hs]

theorem exec_copyTransfer_suspended (hk : s.copy? k.id = some k) (hl : l ∈ k.lanes) (hn : (k.lanes.map fun m => m.lane).Nodup)
    (hg : s.laneGoes k l = false) : exec (.copyTransfer k.id l.lane) s = .next s := by
  have hnone : k.lanes.find? (fun m => m.lane == l.lane && s.laneGoes k m) = none := List.find?_eq_none.mpr fun m hm => by
    by_cases hml : m.lane = l.lane
    · rw [List.inj_on_of_nodup_map hn hm hl hml, hg]
      simp
    · simp [hml]
  change copyTransfer s k.id l.lane = _
  simp only [copyTransfer, hk, hnone, ite_self]

/-! ### Acknowledgements -/

theorem exec_ackArrival {n : Nat} {a : AckMsg} {tm : Team} (ha : s.acks[n]? = some a) (ht : s.team? a.team = some tm)
    (hr : tm.retired = false) (hm : s.moving tm = false) : exec (.ackArrival n) s
      = .next (({ s with acks := s.acks.eraseIdx n } : State).acknowledge a.team a.off a.count) := by
  refine congrArg Host.Outcome.next ?_
  simp only [ackArrival, ha, ht, hr, hm]
  rfl

end

end Sys2Proof.Machine
end

section
/-! O43: what the steps of memory and of the copy engine do where they are due. -/
namespace Sys2Proof.Machine
open Sys2Proof.Stated

/-- Settles O43, step by step: a load's bytes by the invariant that lines are read under (`Served`), every lane that is written by
`LanesIn`, and the events of memory and copies by the equations of their steps. -/
theorem stepsOfMemoryAndCopies : Obligations.StepsOfMemoryAndCopies := by
  unfold Obligations.StepsOfMemoryAndCopies
  refine ⟨⟨exec_issueArbitration, ?scalarLoad, ?oneLoad, ?loads, ?atomics, ?drain, ?qpop, ?mbrecv, ?word, ?nothing, ?held, ?stores,
    fun _ _ _ => rfl, ?walk, ?gather, ?record, ?stackError, ?sliceError, fun _ => rfl⟩, ?window, ?memory, ?intoWindow, ?intoMemory,
    ?bank, ?remote, ?multicast, ?returns, ?fault, ?suspended, ?dropped, ?ack⟩
  case scalarLoad =>
    intro s e g a v n signed acq scope hint d lanes hlog hg hr hst hu hn hop ha hlane hb hd hask
    exact vlComplete_scalarLoad hlog hg hr hst hu hn hop ha hlane hb hd hask
  case oneLoad =>
    intro s e g a ps n lanes scope hint signed acq hm hlog hop hn ha hb hw hask
    exact ⟨fun d h64 hd hs hbound => (vlComplete_oneLoad hm hlog hop hn ha hb hw hask hbound).1 d h64 hd hs,
      fun ds h64 hd hwd hbound => (vlComplete_oneLoad hm hlog hop hn ha hb hw hask hbound).2 ds h64 hd hwd⟩
  case loads =>
    intro s e g n lanes signed acq scope hint v l ds hm hlog hop hn hd hwd _ hready
    exact vlComplete_loads hm hlog hop hn hd hwd hready
  case atomics =>
    intro s e g op lanes hint sext hm hop
    rw [← AOp.size_eq]
    exact ⟨fun v l ds hd hwd hready => vlComplete_atomics hm hop hd hwd hready,
      fun v d hb hd hs => vlComplete_scalarAtomic hm hop hb hd hs⟩
  case drain =>
    intro s e g lanes acc row base d v l hm hop hd hwd hl _ hb
    exact vlComplete_drain hm hop hd hwd hl hb
  case qpop =>
    intro s e g lanes die q p nb v l ds hm hop hd hn hwd hl _ hb
    exact vlComplete_qpop hm hop hd hn hwd hl hb
  case mbrecv =>
    intro s e g lanes box p v nb ds hm hop hd hn hwd hb
    exact vlComplete_mbrecv hm hop hd hn hwd hb
  case word =>
    intro s e g lanes d x hm hd hs hx
    exact vlComplete_word hm hd hs hx
  case nothing =>
    intro s e g lanes he hg hr hst hu hn hop
    exact vlComplete_nothing he hg hr hst hu hn hop
  case held =>
    intro s e g lanes he hg hrun hn
    exact exec_held he hg hrun hn lanes
  case stores =>
    intro s tile n e bs he hop
    exact exec_storePerformHome he hop
  case walk =>
    intro s u tile va asid vmid vmt kind r e ht hv ag hw hf hb hk
    exact exec_translationWalk ht hv hw hf hb hk
  case gather =>
    intro s die n g hg hb
    exact exec_dirtyGatherWriteback hg hb
  case record =>
    intro s die f l m hb hl hf
    exact exec_faultRecordPost hb hl hf
  case stackError =>
    intro s addr ha hs hb
    exact exec_uncorrectableError_stack ha hs hb
  case sliceError =>
    intro s addr l ha hs
    exact exec_uncorrectableError_slice ha hs
  case window =>
    intro s k l t off h hd hs
    exact exec_copyTransfer_window h hd hs
  case memory =>
    intro s u v k l va ps bs g h hd hs hr hg hb ho hv
    exact exec_copyTransfer_memory h hd hs hr hg hb ho hv
  case intoWindow =>
    intro s k l bs t off h hd hr hm hw hs
    exact exec_copyTransfer_intoWindow h hd hr hm hw hs
  case intoMemory =>
    intro s k l bs ps va h hd hr hm hw hs u hu ho
    exact exec_copyTransfer_intoMemory h hd hr hm hw hs hu ho
  case bank =>
    intro s k l rest tile t off hf hl h hd hs
    exact exec_bankArbitration hf hl h hd hs
  case remote =>
    intro s k l bs recv off x tm h hr hm hd hs ht hw hl hret hmv
    exact exec_remoteDelivery_remote (delivers_of_due h hd hs ht hw hl hret hmv) hr hm
  case multicast =>
    intro s k l bs recv off x ro snd tm tab h hm hb ho hd hs ht hw hl hret hmv ha htab
    exact exec_remoteDelivery_multicast (delivers_of_due h hd hs ht hw hl hret hmv) hm hb ho ha htab
  case returns =>
    intro s k l bs h hr hd
    obtain ⟨hnone, hsome⟩ := State.takeReturns_eq s k l
    rw [exec_copyTransfer_returns h hr hd]
    exact ⟨fun hno => congrArg Host.Outcome.next (hnone hno), fun snd hm hb hk => congrArg Host.Outcome.next (hsome snd hm hb hk)⟩
  case fault =>
    intro s u v k l va r n h hf
    rw [exec_copyTransfer_waits h hf]
    exact ⟨fun ht hh hp => congrArg Host.Outcome.next (State.copyWaits_posts ht hh hp),
      fun hs => congrArg Host.Outcome.next (State.copyWaits_suspended hs)⟩
  case suspended =>
    intro s k l hk hl hn hs hstuck
    exact exec_copyTransfer_suspended hk hl hn (State.laneGoes_suspended hs hstuck)
  case dropped =>
    intro s k l bs recv off x h hr hd hs hw ht
    exact exec_remoteDelivery_drops h hr hd hs hw ht
  case ack =>
    intro s n a tm ha ht hr hm
    exact exec_ackArrival ha ht hr hm

end Sys2Proof.Machine
end

section
/-! What a store that is performed at home changes, and what one that is on its way leaves (04 R68, R69, R72; 14 R257, R272). -/
namespace Sys2Proof.Machine
open Sys2Proof.Stated

/-! ### Bytes of a line replaced -/

theorem putBytes_length {data bs : List Byte} {off : Nat} (h : off + bs.length ≤ data.length) :
    (putBytes data off bs).length = data.length := by
  simp only [putBytes, List.length_append, List.length_take, List.length_drop]
  omega

theorem putBytes_getD {data bs : List Byte} {off : Nat} (h : off + bs.length ≤ data.length) (i : Nat) :
    (putBytes data off bs).getD i 0 = if off ≤ i ∧ i < off + bs.length then bs.getD (i - off) 0 else data.getD i 0 := by
  have htake : (data.take off).length = off := by rw [List.length_take]; omega
  simp only [putBytes, List.getD_eq_getElem?_getD]
  rcases Nat.lt_or_ge i off with hlo | hlo
  · rw [if_neg (by omega), List.append_assoc, List.getElem?_append_left (by omega), List.getElem?_take_of_lt hlo]
  · rcases Nat.lt_or_ge i (off + bs.length) with hhi | hhi
    · rw [if_pos ⟨hlo, hhi⟩, List.getElem?_append_left (by rw [List.length_append]; omega),
        List.getElem?_append_right (by omega), htake]
    · rw [if_neg (by omega), List.getElem?_append_right (by rw [List.length_append]; omega), List.getElem?_drop]
      congr 2
      rw [List.length_append]
      omega

/-- The byte at `x` once `bs` stand at `pa`, where it was `old`. -/
def overwritten (pa : Nat) (bs : List Byte) (x : Nat) (old : Byte) : Byte :=
  if pa ≤ x ∧ x < pa + bs.length then bs.getD (x - pa) 0 else old

section
variable {ls : List SLine} {m : Mem} {pa : Nat} {bs : List Byte}

/-- A line that is held takes the bytes of a store, and is modified. -/
theorem lineByte_put (h : LinesAgree ls m) {l : SLine} (hl : l ∈ ls) (hpa : l.line = pa / 128) (hb : pa % 128 + bs.length ≤ 128) :
    LinesAgree ({ l with data := putBytes l.data (pa % 128) bs, modified := true } :: ls.filter fun k => k.line != pa / 128) m ∧
      ∀ x, lineByte ({ l with data := putBytes l.data (pa % 128) bs, modified := true } :: ls.filter fun k => k.line != pa / 128) m x
        = overwritten pa bs x (lineByte ls m x) := by
  have hput : pa % 128 + bs.length ≤ l.data.length := by rw [(h.2 l hl).1]; exact hb
  refine ⟨(h.filter _).cons (fun k hk => ?_) ((putBytes_length hput).trans (h.2 l hl).1) fun hm => by simp at hm, fun x => ?_⟩
  · simpa [hpa] using (List.mem_filter.mp hk).2
  · by_cases hx : l.line = x / 128
    · rw [lineByte_cons_same (l := { l with data := putBytes l.data (pa % 128) bs, modified := true }) hx, lineByte_of_mem h hl hx,
        putBytes_getD hput, overwritten]
      refine if_congr (by omega) ?_ rfl
      congr 1
      omega
    · rw [lineByte_cons_ne (l := { l with data := putBytes l.data (pa % 128) bs, modified := true }) hx,
        lineByte_filter_ne h (hpa ▸ hx), overwritten, if_neg (by omega)]

/-- Where no slice holds the line, the memory takes the bytes. -/
theorem lineByte_memWrite (w : m.wf = true) (h : LinesAgree ls m) (hn : ∀ l ∈ ls, l.line ≠ pa / 128)
    (hb : pa % 128 + bs.length ≤ 128) :
    LinesAgree ls (memWrite m pa bs) ∧ ∀ x, lineByte ls (memWrite m pa bs) x = overwritten pa bs x (lineByte ls m x) := by
  have hother {x : Nat} (hx : x / 128 ≠ pa / 128) : memGet (memWrite m pa bs) x = memGet m x := by
    rw [memGet_memWrite w, if_neg (by omega)]
  refine ⟨⟨h.1, fun l hl => ⟨(h.2 l hl).1, fun hm => ?_⟩⟩, fun x => ?_⟩
  · rw [← (h.2 l hl).2 hm]
    refine List.map_congr_left fun i hi => hother ?_
    have hi : i < 128 := List.mem_range.mp hi
    have := hn l hl
    omega
  · by_cases hx : ∃ l ∈ ls, l.line = x / 128
    · obtain ⟨l, hl, hlx⟩ := hx
      have := hn l hl
      rw [lineByte_of_mem h hl hlx, lineByte_of_mem ⟨h.1, fun k hk => ⟨(h.2 k hk).1, fun hm => ?_⟩⟩ hl hlx, overwritten,
        if_neg (by omega)]
      rw [← (h.2 k hk).2 hm]
      refine List.map_congr_left fun i hi => hother ?_
      have hi : i < 128 := List.mem_range.mp hi
      have := hn k hk
      omega
    · push Not at hx
      rw [lineByte_of_none hx, lineByte_of_none hx, memGet_memWrite w]
      rfl

end

/-! ### Stores at home -/

/-- The canonical form and the agreement of the slices, and the bytes of another state but for those of a store. -/
structure Stored (s t : State) (pa : Nat) (bs : List Byte) : Prop where
  wf : t.memWf = true
  agree : t.linesAgree = true
  home : ∀ x, t.home x = written s pa bs x

section
variable {s t u : State} {pa : Nat} {bs : List Byte}

theorem Stored.nil (w : s.memWf = true) (h : s.linesAgree = true) (pa : Nat) : Stored s s pa [] :=
  ⟨w, h, fun x => by rw [written, if_neg (by simp)]⟩

/-- A store, and one right behind its bytes. -/
theorem Stored.append {cs : List Byte} (h : Stored s t pa bs) (k : Stored t u (pa + bs.length) cs) : Stored s u pa (bs ++ cs) := by
  refine ⟨k.wf, k.agree, fun x => ?_⟩
  rw [k.home, written, h.home]
  simp only [written, List.length_append, List.getD_eq_getElem?_getD, List.getElem?_append]
  by_cases hin : pa ≤ x ∧ x < pa + bs.length
  · rw [if_neg (by omega), if_pos hin, if_pos (by omega), if_pos (by omega)]
  · rw [if_neg hin]
    refine if_ctx_congr (by omega) (fun hx => ?_) fun _ => rfl
    rw [if_neg (by omega), Nat.sub_sub]

theorem SameHome.stored (h : SameHome s t) (k : Stored t u pa bs) : Stored s u pa bs :=
  ⟨k.wf, k.agree, fun x => by rw [k.home, written, written, h.home]⟩

/-- The register space begins and ends at a line. -/
theorem isRegSpace_of_line {x y : Nat} (h : x / 128 = y / 128) : isRegSpace x = isRegSpace y := by
  simp only [isRegSpace]
  congr 1 <;> exact decide_eq_decide.mpr (by omega)

/-- Of a state whose lines and memory have taken the bytes. -/
theorem Stored.of_lines (w : t.memWf = true) (ha : t.aelmel = s.aelmel) (hs : t.sched = s.sched) (hr : isRegSpace pa = false)
    (hb : pa % 128 + bs.length ≤ 128)
    (h : LinesAgree t.sram t.mem ∧ ∀ x, lineByte t.sram t.mem x = overwritten pa bs x (lineByte s.sram s.mem x)) :
    Stored s t pa bs := by
  refine ⟨w, State.linesAgree_iff.mpr h.1, fun x => ?_⟩
  have hreg : t.regByte (x - barBase) = s.regByte (x - barBase) := by simp only [State.regByte, ha, hs]
  rw [State.home_eq, h.2, hreg, written, State.home_eq, overwritten]
  by_cases hx : pa ≤ x ∧ x < pa + bs.length
  · rw [if_pos hx, if_pos hx, isRegSpace_of_line (y := pa) (by omega), hr]
    rfl
  · rw [if_neg hx, if_neg hx]

/-- A store within one line changes its own bytes alone. -/
theorem State.homeWrite_stores (w : s.memWf = true) (h : s.linesAgree = true) (hr : isRegSpace pa = false)
    (hb : pa % 128 + bs.length ≤ 128) (hint inst : Nat) : Stored s (s.homeWrite pa bs hint inst) pa bs := by
  have hw := State.homeWrite_memWf pa bs hint inst w
  revert hw
  unfold State.homeWrite
  rw [hr, if_neg (by simp)]
  dsimp only
  have htouch := State.touch_sameHome (s := { s with badBursts := s.badBursts.filterMap (BadBurst.rewrite inst pa bs.length) })
    w h (pa / 128) hint
  have hsame : SameHome s _ := ⟨htouch.wf, htouch.agree, htouch.home⟩
  clear htouch
  generalize State.touch _ _ _ = u at hsame ⊢
  have hlines := State.linesAgree_iff.mp hsame.agree
  split
  next l hl =>
    obtain ⟨hmem, hline⟩ := (find?_key_iff hlines.1).mp hl
    exact fun hw => hsame.stored (.of_lines hw rfl rfl hr hb (lineByte_put hlines hmem hline hb))
  next hl =>
    have hno : ∀ l ∈ u.sram, l.line ≠ pa / 128 := by simpa [State.sline?] using hl
    exact fun hw => hsame.stored (.of_lines hw rfl rfl hr hb (lineByte_memWrite (State.memWf_mem hsame.wf) hlines hno hb))

/-! ### Stores of any length -/

/-- The lines of a store, one after another from `a` on, take its bytes from there. -/
theorem State.foldPieces_stores (hint pa : Nat) (bs : List Byte) : ∀ (fuel a : Nat) {s : State}, s.memWf = true → s.linesAgree = true →
    pa ≤ a → bs.length - (a - pa) ≤ 128 * fuel - a % 128 → (∀ x, a ≤ x → x < pa + bs.length → isRegSpace x = false) →
    Stored s ((pieces fuel a (bs.length - (a - pa))).foldl
      (fun s p => s.homeWrite p.1 ((bs.drop (p.1 - pa)).take p.2) hint) s) a (bs.drop (a - pa))
  | 0, a, s, w, h, _, hf, _ => by
    rw [List.drop_of_length_le (by omega)]
    exact .nil w h a
  | fuel + 1, a, s, w, h, ha, hf, hr => by
    rw [pieces]
    by_cases hn : bs.length - (a - pa) = 0
    · rw [if_pos hn, List.drop_of_length_le (by omega)]
      exact .nil w h a
    · rw [if_neg hn]
      dsimp only
      generalize hk : min (bs.length - (a - pa)) (128 - a % 128) = k
      have hlen : ((bs.drop (a - pa)).take k).length = k := by rw [List.length_take, List.length_drop]; omega
      have hfirst := State.homeWrite_stores (bs := (bs.drop (a - pa)).take k) w h (hr a (by omega) (by omega)) (by omega) hint 0
      have hrest := State.foldPieces_stores hint pa bs fuel (a + k) hfirst.wf hfirst.agree (by omega) (by omega)
        fun x hx => hr x (by omega)
      have hdrop : bs.drop (a - pa) = (bs.drop (a - pa)).take k ++ bs.drop (a + k - pa) := by
        rw [show a + k - pa = a - pa + k by omega, ← List.drop_drop, List.take_append_drop]
      rw [hdrop, List.foldl_cons]
      rw [show bs.length - (a - pa) - k = bs.length - (a + k - pa) by omega]
      refine hfirst.append ?_
      rw [hlen]
      exact hrest

/-- A store that meets no register, whatever lines it lies in. -/
theorem State.homeWriteAll_stores (w : s.memWf = true) (h : s.linesAgree = true)
    (hr : ∀ x, pa ≤ x → x < pa + bs.length → isRegSpace x = false) (hint : Nat) : Stored s (s.homeWriteAll pa bs hint) pa bs := by
  have hall := State.foldPieces_stores hint pa bs (bs.length / 128 + 2) pa w h (le_refl pa) (by omega) hr
  rwa [Nat.sub_self, Nat.sub_zero, List.drop_zero] at hall

/-- What the host may reach at a device address is no register. -/
theorem State.hostRange_noReg {n x : Nat} (h : s.hostRange pa n = true) (hlo : pa ≤ x) (hhi : x < pa + n) : isRegSpace x = false := by
  have hend : s.memEnd ≤ 0x006000000000 := by
    unfold State.memEnd
    split <;> omega
  simp only [State.hostRange, State.isMemory, isHostWindow, Bool.or_eq_true, Bool.and_eq_true, decide_eq_true_eq] at h
  simp only [isRegSpace, Bool.and_eq_false_iff, decide_eq_false_iff_not]
  omega

theorem exec_hostWrite (hr : isRegSpace pa = false) (hpa : pa < 2 ^ 48) (hs : s.aelmel.state = .run)
    (hrange : s.hostRange pa bs.length = true) : exec (.hostWrite pa bs) s = .next (s.homeWriteAll pa bs 0) := by
  refine (?_ : hostWrite s pa bs = _)
  unfold hostWrite
  rw [hr, if_neg (by simp), if_neg (by rw [bar2Base]; omega), hs, hrange]
  rfl

/-! ### Stores on their way -/

theorem State.home_of_besideTiles (h : t.besideTiles = s.besideTiles) (x : Nat) : t.home x = s.home x := by
  have hmem : t.mem = s.mem := (congrArg State.mem h :)
  have hsram : t.sram = s.sram := (congrArg State.sram h :)
  have hael : t.aelmel = s.aelmel := (congrArg State.aelmel h :)
  have hsched : t.sched = s.sched := (congrArg State.sched h :)
  rw [State.home_eq, State.home_eq]
  simp only [State.regByte, hmem, hsram, hael, hsched]

theorem State.pathStore_home (s : State) (tile : Nat) (e : PathEntry) (x : Nat) : (s.pathStore tile e).home x = s.home x := by
  unfold State.pathStore
  exact State.home_of_besideTiles (s := { s with nextId := s.nextId + 1 })
    (State.besideTiles_of_stores (foldl_frame State.besideStores
      (f := fun u t => u.setTile t ((u.tile t).enterPath { e with id := s.nextId, clock := u.tileClock t })) (fun _ _ => rfl) _ _)) x

theorem State.storePieces_home {g : Group} (hg : g.core = none) (e : PathEntry) (x : Nat) : ∀ (ps : List Piece) (s : State)
    (bs : List Byte), (s.storePieces g e ps bs).home x = s.home x
  | [], _, _ => rfl
  | p :: ps, s, bs => by
    rw [State.storePieces]
    refine (State.storePieces_home hg e x ps _ _).trans ?_
    rw [hg]
    exact s.pathStore_home _ _ x

/-- A tile's store leaves home as it is. -/
theorem State.storePlace_home {g : Group} (hg : g.core = none) (s : State) (e : PathEntry) (p : Place) (bs : List Byte) (x : Nat) :
    (s.storePlace g e p bs).home x = s.home x := by
  cases p with
  | todo => rfl
  | loc team off => exact State.home_of_besideTiles (s.windowWriteKeep_beside team off bs) x
  | phys ps => exact State.storePieces_home hg e x ps s bs

/-- A core's store into one line is performed at once. -/
theorem State.storePlace_core {g : Group} {q : Piece} (hg : g.core.isSome = true) (hq : q.n = bs.length) (s : State) (e : PathEntry) :
    s.storePlace g e (.phys [q]) bs = s.homeWrite q.pa bs (if (q.attr == 2) = true then 3 else e.hint) e.inst := by
  simp only [State.storePlace, State.storePieces, hg, if_true, hq, List.take_length]

theorem State.homeWrite_tiles (s : State) (pa : Nat) (bs : List Byte) (hint inst : Nat) :
    (s.homeWrite pa bs hint inst).tiles = s.tiles := congrArg (·.tiles) (s.homeWrite_beside pa bs hint inst)

theorem State.homeWrite_groups (s : State) (pa : Nat) (bs : List Byte) (hint inst : Nat) :
    (s.homeWrite pa bs hint inst).groups = s.groups := congrArg (·.groups) (s.homeWrite_beside pa bs hint inst)

theorem State.homeWriteAll_beside (s : State) (pa : Nat) (bs : List Byte) (hint : Nat) :
    (s.homeWriteAll pa bs hint).beside = s.beside := by
  unfold State.homeWriteAll
  exact foldl_frame State.beside (fun _ _ => State.homeWrite_beside _ _ _ _ _) _ _

end

/-- Settles O54: a store at home is `Stored`, whatever comes into the slices for it; a tile's store is none before it is performed. -/
theorem storesChangeTheirBytes : Obligations.StoresChangeTheirBytes := by
  refine ⟨fun s pa hint bs w h hb hr => ?_, fun s t tile n e bs w h he hop _ hr hb hready ht => ?_,
    fun s t pa bs w h hr hpa hs hrange ht => ?_, fun s g e p bs w h => ⟨fun hg => ?_, fun q hg hp hq hr hb => ?_⟩⟩
  · have hst := State.homeWrite_stores w h hr hb hint 0
    exact ⟨hst.home, hst.agree, hst.wf, s.homeWrite_groups _ _ _ _, s.homeWrite_tiles _ _ _ _⟩
  · rw [(exec_storePerformHome he hop).1 hready] at ht
    cases ht
    have hst := State.homeWrite_stores w h hr hb e.hint e.inst
    exact ⟨hst.home, hst.agree, s.homeWrite_groups _ _ _ _⟩
  · rw [exec_hostWrite hr hpa hs hrange] at ht
    cases ht
    have hst := State.homeWriteAll_stores w h (fun _ => State.hostRange_noReg hrange) 0
    have hbeside := s.homeWriteAll_beside pa bs 0
    exact ⟨hst.home, hst.agree, (congrArg State.groups hbeside :), (congrArg State.tiles hbeside :)⟩
  · exact s.storePlace_home hg e p bs
  · subst hp
    rw [State.storePlace_core hg hq]
    exact ⟨(State.homeWrite_stores w h hr hb _ _).home, s.homeWrite_tiles _ _ _ _, s.homeWrite_groups _ _ _ _⟩

end Sys2Proof.Machine
end

section
/-! What an atomic does at its home (04 R73, R86, R87). -/
namespace Sys2Proof.Machine
open Sys2Proof.Stated

/-! ### Little-endian bytes -/

/-- The low bytes of a number are those of its remainder. -/
theorem natBytes_mod (n x : Nat) : natBytes n (x % 256 ^ n) = natBytes n x := by
  induction n generalizing x with
  | zero => rfl
  | succ n ih =>
    rw [natBytes, natBytes, pow_succ', Nat.mod_mul_right_div_self, ih]
    congr 1
    exact BitVec.eq_of_toNat_eq (by simp)

theorem bytesNat_lt (bs : List Byte) : bytesNat bs < 256 ^ bs.length := by
  induction bs with
  | nil => simp [bytesNat]
  | cons b t ih =>
    have := b.isLt
    rw [bytesNat, List.length_cons, pow_succ']
    omega

/-- A number in two parts, the low one first. -/
theorem natBytes_append {m x : Nat} (hx : x < 256 ^ m) (n y : Nat) :
    natBytes (m + n) (x + 256 ^ m * y) = natBytes m x ++ natBytes n y := by
  rw [← List.take_append_drop m (natBytes (m + n) (x + 256 ^ m * y)), natBytes_take, natBytes_drop,
    Nat.add_mul_div_left _ _ (by positivity), Nat.div_eq_of_lt hx, Nat.zero_add, ← natBytes_mod m, Nat.add_mul_mod_self_left,
    natBytes_mod]

/-! ### The new word -/

section
variable (a b : W32)

theorem signedMin_eq : (if b.slt a then b else a) = BitVec.ofInt 32 (min a.toInt b.toInt) := by
  simp only [BitVec.slt_iff_toInt_lt]
  split
  next h => rw [min_eq_right h.le, BitVec.ofInt_toInt]
  next h => rw [min_eq_left (not_lt.mp h), BitVec.ofInt_toInt]

theorem signedMax_eq : (if a.slt b then b else a) = BitVec.ofInt 32 (max a.toInt b.toInt) := by
  simp only [BitVec.slt_iff_toInt_lt]
  split
  next h => rw [max_eq_right h.le, BitVec.ofInt_toInt]
  next h => rw [max_eq_left (not_lt.mp h), BitVec.ofInt_toInt]

theorem unsignedMin_eq : (if b.ult a then b else a) = BitVec.ofNat 32 (min a.toNat b.toNat) := by
  simp only [BitVec.ult_iff_lt, BitVec.lt_def]
  split
  next h => rw [min_eq_right h.le, BitVec.ofNat_toNat, BitVec.setWidth_eq]
  next h => rw [min_eq_left (not_lt.mp h), BitVec.ofNat_toNat, BitVec.setWidth_eq]

theorem unsignedMax_eq : (if a.ult b then b else a) = BitVec.ofNat 32 (max a.toNat b.toNat) := by
  simp only [BitVec.ult_iff_lt, BitVec.lt_def]
  split
  next h => rw [max_eq_right h.le, BitVec.ofNat_toNat, BitVec.setWidth_eq]
  next h => rw [max_eq_left (not_lt.mp h), BitVec.ofNat_toNat, BitVec.setWidth_eq]

theorem add_eq_ofInt : a + b = BitVec.ofInt 32 (a.toInt + b.toInt) := by
  rw [BitVec.ofInt_add, BitVec.ofInt_toInt, BitVec.ofInt_toInt]

/-- The magnitude of an F32 word. -/
theorem and_magnitude_toNat : (a &&& 0x7FFFFFFF).toNat = a.toNat % 2 ^ 31 := by
  rw [BitVec.toNat_and]
  exact Nat.and_two_pow_sub_one_eq_mod a.toNat 31

theorem famax_newWord (e : W32) : AOp.famax.newWord a b e = atomicWord 11 a b e := by
  show (if _ then _ else _) = (if _ then _ else _)
  refine if_congr (by simp) rfl ?_
  rw [unsignedMax_eq, and_magnitude_toNat, and_magnitude_toNat]

end

/-- The operations of 32 bits give the new word of their minor. -/
theorem newWord_of_row {r : Mk × Mk × Nat × AOp × (Ctx → List TagCheck) × (Ctx → BitVec 4) × Bool} (hr : r ∈ atomicRows)
    (hm : r.2.2.1 ≠ 13) (old v e : W32) : r.2.2.2.1.newWord old v e = atomicWord r.2.2.1 old v e := by
  simp only [atomicRows, List.mem_cons, List.not_mem_nil, or_false] at hr
  rcases hr with rfl | rfl | rfl | rfl | rfl | rfl | rfl | rfl | rfl | rfl | rfl | rfl | rfl | rfl
  · exact add_eq_ofInt old v
  · exact signedMin_eq old v
  · exact signedMax_eq old v
  · exact unsignedMin_eq old v
  · exact unsignedMax_eq old v
  · rfl
  · rfl
  · rfl
  · rfl
  · rfl
  · rfl
  · exact famax_newWord old v e
  · rfl
  · exact absurd rfl hm

/-- Minor 13 alone is `aadd64`. -/
theorem add64_iff_of_row {r : Mk × Mk × Nat × AOp × (Ctx → List TagCheck) × (Ctx → BitVec 4) × Bool} (hr : r ∈ atomicRows) :
    r.2.2.2.1 = .add64 ↔ r.2.2.1 = 13 := by
  have hall : ∀ p ∈ atomicRows.map fun r => (r.2.2.1, r.2.2.2.1), p.2 = .add64 ↔ p.1 = 13 := by decide
  exact hall _ (List.mem_map_of_mem hr)

theorem size_of_row {r : Mk × Mk × Nat × AOp × (Ctx → List TagCheck) × (Ctx → BitVec 4) × Bool} (hr : r ∈ atomicRows) :
    r.2.2.2.1.size = if r.2.2.1 = 13 then 8 else 4 := by
  rw [AOp.size_eq]
  exact if_congr (add64_iff_of_row hr) rfl rfl

/-! ### At home -/

section
variable {s : State}

theorem State.atomicAt_word {op : AOp} (h : op ≠ .add64) (s : State) (pa : Nat) (v x : W64) (hint : Nat) :
    s.atomicAt pa op v x hint
      = (s.homeWrite pa (leBytes 4 (op.newWord (BitVec.ofNat 32 (bytesNat (s.homeRead pa 4))) (v.setWidth 32) (x.setWidth 32)).toNat) hint,
        BitVec.ofNat 64 (bytesNat (s.homeRead pa 4))) := by
  have hlt : bytesNat (s.homeRead pa 4) < 2 ^ 32 := by simpa [State.homeRead_length] using bytesNat_lt (s.homeRead pa 4)
  have hold : (BitVec.ofNat 32 (bytesNat (s.homeRead pa 4))).zeroExtend 64 = BitVec.ofNat 64 (bytesNat (s.homeRead pa 4)) :=
    by
    refine BitVec.eq_of_toNat_eq ?_
    rw [BitVec.toNat_setWidth, BitVec.toNat_ofNat, BitVec.toNat_ofNat, Nat.mod_eq_of_lt hlt]
  rw [← hold, ← natBytes_eq_leBytes]
  cases op with
  | add64 => exact absurd rfl h
  | _ => rfl

theorem State.atomicAt_add64 (s : State) (pa : Nat) (v x : W64) (hint : Nat) :
    s.atomicAt pa .add64 v x hint
      = (s.homeWrite pa (leBytes 8 (bytesNat (s.homeRead pa 8) + v.toNat)) hint, BitVec.ofNat 64 (bytesNat (s.homeRead pa 8))) := by
  have hbytes : natBytes 8 (s.homeW64 pa + v).toNat = leBytes 8 (bytesNat (s.homeRead pa 8) + v.toNat) := by
    rw [← natBytes_eq_leBytes, ← natBytes_mod 8 (_ + _)]
    simp [State.homeW64, w64]
  rw [← hbytes]
  rfl

/-- An atomic that may go, on a word without an error (R86, R87). -/
theorem exec_homeAtomicPerform {tile n : Nat} {e : PathEntry} {op : AOp} {v x : W64} {ret : Option (Nat × Nat)}
    (he : (s.tile tile).path.find? (fun p => p.id == n) = some e) (hop : e.op = .atomic op v x ret) (hr : s.pathsReady n = true)
    (hb : s.badRead e.pa op.size = false) {u : State} {old : W64} (hu : s.atomicAt e.pa op v x e.hint = (u, old)) :
    exec (.homeAtomicPerform tile n) s
      = .next (((u.offPath n).setTile tile (((u.offPath n).tile tile).dropLine (e.pa / 128))).giveOld ret old) := by
  refine congrArg Host.Outcome.next ?_
  have hlen : e.len = op.size := by rw [PathEntry.len, hop]
  have hstore : e.isStore = false := by rw [PathEntry.isStore, hop]
  have hbad : s.atomicBad e e.len = none := by rw [hlen, State.atomicBad, hb]; rfl
  simp only [atomicPerform, he, hr, hstore, hbad, hop, hu, Bool.not_true, Bool.false_eq_true, if_false]

end

/-- Settles O30: the two sizes of word apart, the new word by the row of the table. -/
theorem atomicsPerformAtHome : Obligations.AtomicsPerformAtHome := by
  intro r hr s tile n e v x ret he hop hready hb
  rw [← size_of_row hr] at hb
  by_cases hm : r.2.2.1 = 13
  · have hop64 : r.2.2.2.1 = .add64 := (add64_iff_of_row hr).mpr hm
    simp only [if_pos hm]
    exact exec_homeAtomicPerform he hop hready hb (hop64 ▸ s.atomicAt_add64 e.pa v x e.hint)
  · have hop32 : r.2.2.2.1 ≠ .add64 := fun h => hm ((add64_iff_of_row hr).mp h)
    simp only [if_neg hm, ← newWord_of_row hr hm]
    exact exec_homeAtomicPerform he hop hready hb (State.atomicAt_word hop32 s e.pa v x e.hint)

end Sys2Proof.Machine
end

section
/-! How loads, stores and atomics issue behind their checks, and what fences and cache control wait for (04 R76 to R92). -/
namespace Sys2Proof.Machine
open Sys2Proof.Stated

/-! ### Checks and waits that pass -/

section
variable {c : Ctx} {s t u v : State} {r : Res}

theorem firstFail_any {α : Type} {l : List α} {p : α → Bool} (h : ¬ ∃ a ∈ l, p a = true) (x : Cause × W64)
    (rest : List (Bool × (Cause × W64))) : firstFail ((l.any p, x) :: rest) = firstFail rest := by
  have hno : l.any p = false := by simpa using h
  rw [hno]
  rfl

theorem firstFail_opt {x : Option (Cause × W64)} (h : x = none) (rest : List (Bool × (Cause × W64))) :
    firstFail (optCheck x :: rest) = firstFail rest := by
  rw [h]
  rfl

theorem afterAcquires_pass (h : s.acquirePending c.g = false) : c.afterAcquires s r = r := by
  rw [Ctx.afterAcquires, h]
  rfl

theorem afterWaiters_pass {accs : List Access} (h : noWaiter s c accs) : c.afterWaiters s accs r = r := by
  obtain ⟨hw, hq⟩ := h
  have hno : ((s.waitersOf c.g).any fun e => e.accs.any fun a => accs.any fun b => a.sharesLine b) = false := by
    simpa only [List.any_eq_false, Bool.not_eq_true] using hw
  unfold Ctx.afterWaiters
  dsimp only
  rw [hq, hno]
  rfl

/-- An entry whose local accesses are made and whose others are translated, outside the registers that no rule gives. -/
theorem State.settleEntry_ok {g : Group} {id : Nat} {e : LogEntry} {f : Option AFail} (he : s.entry? id = some e)
    (hr : (s.issueLocals g e).resolveEntry id = (u, f)) (hf : f ≠ some .reg) : s.settleEntry g id = .ok u := by
  unfold State.settleEntry
  rw [he]
  dsimp only
  rw [hr]
  cases f with
  | none => rfl
  | some k =>
    cases k with
    | reg => exact absurd rfl hf
    | _ => rfl

/-- The accesses that an instruction forms are those of R76 and R79. -/
theorem Ctx.accs_eq (c : Ctx) (scal : Bool) (n : Nat) : c.accs scal n = accesses c scal n := rfl

/-! ### Loads -/

theorem ldg_enters {n : Nat} {signed acq scal : Bool} {f : Option AFail} {e : LogEntry}
    (hp : Passes t c (addrTags c scal) (∃ a ∈ accesses c scal n, t.apertureBad c.g a = true)) (ha : t.acquirePending c.g = false)
    (hw : noWaiter t c (accesses c scal n)) (hs : ∀ a ∈ accesses c scal n, t.apertureScored c.g true a = false) :
    let l := c.logIssue t (if c.anyLane then .load n signed acq c.e.scope.toNat c.e.hint.toNat else .nothing)
      fun e => { e with scalar := scal, tag := c.e.xmod, accs := accesses c scal n }
    let v := c.record l.1 false (accesses c scal n) fun _ => []
    v.entry? l.2 = some e → (v.issueLocals c.g e).resolveEntry l.2 = (u, f) → f ≠ some .reg → ldg n signed acq scal c t = .ok u := by
  intro l v he hres hf
  obtain ⟨htags, hrlx, hbad⟩ := hp
  have hno : ¬ (accesses c scal n).any (t.apertureScored c.g true) = true := by simpa using hs
  refine (checked_pass (tags := addrTags c scal) htags hrlx fun _ => firstFail_any hbad _ []).trans ?_
  refine (afterAcquires_pass ha).trans ((afterWaiters_pass hw).trans ?_)
  exact (if_neg hno).trans (State.settleEntry_ok he hres hf)

theorem exec_ldg {r : Mk × Nat × Nat × Bool × Bool × Bool} (hr : r ∈ ldgRows) (o : Ops) (s : State) :
    exec (r.1 o) s = issue 18 r.2.1 o (ldg r.2.2.1 r.2.2.2.1 r.2.2.2.2.1 r.2.2.2.2.2) s := by
  simp only [ldgRows, List.mem_cons, List.not_mem_nil, or_false] at hr
  rcases hr with rfl | rfl | rfl | rfl | rfl | rfl | rfl | rfl | rfl | rfl | rfl <;> rfl

/-! ### Stores -/

/-- A register of 32 bits, and what stands behind it. -/
theorem natBytes_register (d : W32) (n y : Nat) : natBytes (4 + n) (d.toNat + 2 ^ 32 * y) = natBytes 4 d.toNat ++ natBytes n y :=
  natBytes_append (m := 4) (by have := d.isLt; omega) n y

/-- The bytes that a lane stores are the little-endian bytes of its value (R83). -/
theorem Ctx.storeData_eq (c : Ctx) (scal : Bool) {n : Nat} (hn : n ∈ [1, 2, 4, 8, 16]) :
    c.storeData scal n = fun i => leBytes n (storedNat c scal n i) := by
  funext i
  rw [← natBytes_eq_leBytes]
  unfold Ctx.storeData storedNat
  cases scal with
  | true => rfl
  | false =>
    simp only [List.mem_cons, List.not_mem_nil, or_false] at hn
    rcases hn with rfl | rfl | rfl | rfl | rfl
    · rfl
    · rfl
    · rfl
    · have h := natBytes_register (c.opDk 0 i) 4 (c.opDk 1 i).toNat
      simpa [List.range_succ, mul_comm] using h.symm
    · have h := natBytes_register (c.opDk 0 i) 12
        ((c.opDk 1 i).toNat + 2 ^ 32 * ((c.opDk 2 i).toNat + 2 ^ 32 * (c.opDk 3 i).toNat))
      rw [natBytes_register _ 8, natBytes_register _ 4] at h
      have hsum : (c.opDk 0 i).toNat + 2 ^ 32 * ((c.opDk 1 i).toNat + 2 ^ 32 * ((c.opDk 2 i).toNat + 2 ^ 32 * (c.opDk 3 i).toNat))
          = (c.opDk 0 i).toNat + (c.opDk 1 i).toNat * 2 ^ 32 + ((c.opDk 2 i).toNat * 2 ^ 64 + (c.opDk 3 i).toNat * 2 ^ 96) := by ring
      rw [hsum] at h
      simpa [List.range_succ] using h.symm

theorem State.mayRelease_of {g : Group} {scope : Nat} {accs : List Access} (hm : s.accessesMade g = true)
    (hr : s.tileWide g scope = true ∨ (∃ a ∈ accs, inAperture g a.va = true) → s.released g scope = true)
    (ho : s.tileWide g scope = false → s.otherClear g = true ∧ s.atomicsHome g = true) : s.mayRelease g scope accs = true := by
  unfold State.mayRelease
  rw [hm, Bool.true_and]
  split
  next h => exact hr (by simpa using h)
  next h =>
    have hwide : s.tileWide g scope = false := by
      simp only [Bool.or_eq_true, not_or, Bool.not_eq_true] at h
      exact h.1
    obtain ⟨hc, hh⟩ := ho hwide
    rw [hc, hh]
    rfl

/-- A store whose checks and waits are over is its places, then its effect. -/
theorem stg_clear {n : Nat} {scal rel : Bool} {placed : List Access}
    (hp : Passes t c (addrTags c scal) ((∃ a ∈ accesses c scal n, t.apertureBad c.g a = true)
      ∨ (¬ t.inRegion c.g = .body ∧ (t.embreqOf c.g 0 (accesses c scal n) ≠ none ∨ t.apertureBarbusy c.g (accesses c scal n) ≠ none))))
    (ha : t.acquirePending c.g = false)
    (hr : rel = true → ¬ t.inRegion c.g = .body → c.anyLane = true → t.mayRelease c.g c.e.scope.toNat (accesses c scal n) = true)
    (hs : ¬ t.inRegion c.g = .body → ∀ a ∈ accesses c scal n, t.apertureScored c.g false a = false)
    (hpl : t.placeAll c.g .write (accesses c scal n) = (u, .ok placed)) :
    (t.inRegion c.g = .body → stg n scal rel c t = .ok (c.record u true placed (c.storeData scal n))) ∧
    (¬ t.inRegion c.g = .body → u.bindBefore c.g u.nextId placed = .ok v →
      stg n scal rel c t = .ok (c.storeLanes v (rel && !v.tileWide c.g c.e.scope.toNat) placed (c.storeData scal n))) := by
  obtain ⟨htags, hrlx, hbad⟩ := hp
  rw [not_or, not_and, not_or, not_not, not_not] at hbad
  obtain ⟨hap, hreq⟩ := hbad
  dsimp only [stg]
  rw [Ctx.accs_eq]
  constructor
  · intro hb
    have hbody : (t.inRegion c.g == .body) = true := beq_iff_eq.mpr hb
    refine (checked_pass (tags := addrTags c scal) htags hrlx fun _ => ?_).trans ((afterAcquires_pass ha).trans ?_)
    · rw [firstFail_any hap, hbody]
      rfl
    · rw [hbody, hpl]
      simp
  · intro hb hv
    have hbody : (t.inRegion c.g == .body) = false := beq_eq_false_iff_ne.mpr hb
    obtain ⟨hemb, hbusy⟩ := hreq hb
    have hrel : (rel && !false && c.anyLane && !t.mayRelease c.g c.e.scope.toNat (accesses c scal n)) = false := by
      cases hrl : rel with
      | false => rfl
      | true =>
        cases hany : c.anyLane with
        | false => rfl
        | true => rw [hr hrl hb hany]; rfl
    have hscore : (accesses c scal n).any (t.apertureScored c.g false) = false := by simpa using hs hb
    refine (checked_pass (tags := addrTags c scal) htags hrlx fun _ => ?_).trans ((afterAcquires_pass ha).trans ?_)
    · rw [firstFail_any hap, hbody]
      exact (firstFail_opt hemb _).trans (firstFail_opt hbusy _)
    · rw [hbody, hpl, hrel, hscore]
      simp only [Bool.not_false, Bool.true_and, Bool.false_eq_true, if_false, hv]
      rfl

theorem exec_stg {r : Mk × Nat × Nat × Bool × Bool} (hr : r ∈ stgRows) (o : Ops) (s : State) :
    exec (r.1 o) s = issue 19 r.2.1 o (stg r.2.2.1 r.2.2.2.1 r.2.2.2.2) s := by
  simp only [stgRows, List.mem_cons, List.not_mem_nil, or_false] at hr
  rcases hr with rfl | rfl | rfl | rfl | rfl | rfl | rfl | rfl | rfl <;> rfl

theorem size_of_stgRow {r : Mk × Nat × Nat × Bool × Bool} (hr : r ∈ stgRows) : r.2.2.1 ∈ [1, 2, 4, 8, 16] := by
  have hall : ∀ n ∈ stgRows.map fun r => r.2.2.1, n ∈ [1, 2, 4, 8, 16] := by decide
  exact hall _ (List.mem_map_of_mem hr)

end

/-- Settles O28: behind its checks a store translates its accesses, and the bytes of each lane are those of its value. -/
theorem storesEnterPath : Obligations.StoresEnterPath := by
  intro r hr o s g cl t u v placed h c accs data body hp ha hrel hs hpl
  have hdata : c.storeData r.2.2.2.1 r.2.2.1 = data := c.storeData_eq _ (size_of_stgRow hr)
  obtain ⟨hbody, hpath⟩ := stg_clear (v := v) (rel := r.2.2.2.2) hp ha (fun h1 h2 h3 => by
    obtain ⟨hm, hw, ho⟩ := hrel h1 h2 h3
    exact State.mayRelease_of hm hw ho) hs hpl
  refine ⟨fun hb => ?_, fun hb hv => ?_⟩
  · rw [Runs, exec_stg hr, ← hdata]
    exact issue_ok h (hbody hb)
  · intro e
    rw [Runs, exec_stg hr, ← hdata]
    exact issue_ok h (hpath hb hv)

end Sys2Proof.Machine
end

section
/-! Atomics as they issue, and what fences and cache control do and wait for (04 R85 to R92). -/
namespace Sys2Proof.Machine
open Sys2Proof.Stated

/-! ### Atomics -/

section
variable {c : Ctx} {s t u v : State} {op : AOp} {scal sext : Bool} {tags : Ctx → List TagCheck} {tag : Ctx → BitVec 4} {args : Nat → W64 × W64}

/-- The checks in front of an atomic that goes. -/
theorem atomicChecks_pass (hp : Passes t c (addrTags c scal ++ if scal then [] else tags c) False)
    (hg : atomicGoes t c (accesses c scal op.size) op.size) (r : Res) :
    checked c t (if scal then [] else c.needBw intTags ++ tags c)
      [((c.accs scal op.size).any fun a => a.va.toNat % op.size != 0 || inAperture c.g a.va, illop 0x0D),
       optCheck (t.embreqOf c.g 0 (c.accs scal op.size))] (c.afterAcquires t r) = r := by
  obtain ⟨htags, hrlx, -⟩ := hp
  obtain ⟨halign, hemb, hacq⟩ := hg
  have htags' : c.tagsPass (if scal then [] else c.needBw intTags ++ tags c) := by
    cases scal <;> exact htags
  refine (checked_pass htags' hrlx fun _ => ?_).trans (afterAcquires_pass hacq)
  refine (firstFail_any ?_ _ _).trans (firstFail_opt hemb [])
  rintro ⟨a, ha, hbad⟩
  obtain ⟨hmod, hap⟩ := halign a ha
  simp [hmod, hap] at hbad

/-- The return form takes an entry of the log with its operands (R87). -/
theorem atomicIssue_log {e : LogEntry} {f : Option AFail} (hp : Passes t c (addrTags c scal ++ if scal then [] else tags c) False)
    (hg : atomicGoes t c (accesses c scal op.size) op.size) (hx : c.xm = 0)
    (hargs : c.atomicOpnd op scal = args) :
    let l := c.logIssue t (if c.anyLane then .atomic op sext c.e.hint.toNat else .nothing) fun e => { e with
      scalar := scal, tag := tag c, accs := accesses c scal op.size
      opnds := (accesses c scal op.size).map fun a => (a.lane, args a.lane) }
    l.1.entry? l.2 = some e → (l.1.issueLocals c.g e).resolveEntry l.2 = (u, f) → f ≠ some .reg →
      atomicIssue op scal sext tags tag c t = .ok u := by
  subst hargs
  intro l he hres hf
  exact (atomicChecks_pass hp hg _).trans ((if_pos (by rw [hx])).trans (State.settleEntry_ok he hres hf))

/-- The no-return form goes into the store path, lane by lane (R78, R86). -/
theorem atomicIssue_path {placed : List Access} (hp : Passes t c (addrTags c scal ++ if scal then [] else tags c) False)
    (hg : atomicGoes t c (accesses c scal op.size) op.size) (hx : c.xm = 1)
    (hargs : c.atomicOpnd op scal = args)
    (hpl : t.placeAll c.g .atomic (accesses c scal op.size) = (u, .ok placed)) (hb : u.coreAtomicBad c.g placed = none)
    (hv : u.bindBefore c.g u.nextId placed = .ok v) :
    atomicIssue op scal sext tags tag c t = .ok (placed.foldl (fun w a =>
      w.issueAtomic c.g c.e.hint.toNat op (args a.lane).1 (args a.lane).2 none a) v) := by
  subst hargs
  refine (atomicChecks_pass hp hg _).trans ((if_neg (by rw [hx]; decide)).trans ?_)
  rw [Ctx.accs_eq, hpl]
  dsimp only
  rw [hb]
  dsimp only
  rw [hv]
  rfl

end

section
variable {r : Mk × Mk × Nat × AOp × (Ctx → List TagCheck) × (Ctx → BitVec 4) × Bool}

theorem atomicOpnd_of_row (hr : r ∈ atomicRows) (c : Ctx) (scal : Bool) (i : Nat) :
    c.atomicOpnd r.2.2.2.1 scal i = atomicArgs c r.2.2.1 scal i := by
  have h64 : (r.2.2.2.1 == AOp.add64) = true ↔ r.2.2.1 = 13 := beq_iff_eq.trans (add64_iff_of_row hr)
  have hpair : w64 ((c.opCk 0 i).toNat + (c.opCk 1 i).toNat * 2 ^ 32) = c.opCk 1 i ++ c.opCk 0 i := by
    refine BitVec.eq_of_toNat_eq ?_
    have h0 := (c.opCk 0 i).isLt
    have h1 := (c.opCk 1 i).isLt
    rw [toNat_append_add, w64, BitVec.toNat_ofNat]
    omega
  unfold Ctx.atomicOpnd atomicArgs
  rw [hpair]
  exact if_congr Iff.rfl rfl (if_congr h64 rfl rfl)

theorem exec_atomic (hr : r ∈ atomicRows) (o : Ops) (s : State) : exec (r.1 o) s
    = issue 20 r.2.2.1 o (atomicIssue r.2.2.2.1 false false r.2.2.2.2.1 r.2.2.2.2.2.1) s := by
  simp only [atomicRows, List.mem_cons, List.not_mem_nil, or_false] at hr
  rcases hr with rfl | rfl | rfl | rfl | rfl | rfl | rfl | rfl | rfl | rfl | rfl | rfl | rfl | rfl <;> rfl

theorem exec_scalarAtomic (hr : r ∈ atomicRows) (o : Ops) (s : State) : exec (r.2.1 o) s
    = issue 21 r.2.2.1 o (atomicIssue r.2.2.2.1 true r.2.2.2.2.2.2 r.2.2.2.2.1 fun _ => tRAW) s := by
  simp only [atomicRows, List.mem_cons, List.not_mem_nil, or_false] at hr
  rcases hr with rfl | rfl | rfl | rfl | rfl | rfl | rfl | rfl | rfl | rfl | rfl | rfl | rfl | rfl <;> rfl

end

/-- Settles O29: the two forms of operands by the row of the table, the return and the no-return form behind the same checks. -/
theorem atomicsIssue : Obligations.AtomicsIssue := by
  intro r hr scal o s g cl t u v
  rw [← size_of_row hr]
  cases scal with
  | true =>
    intro maj i n h c accs hp hg
    have hargs := funext (atomicOpnd_of_row hr c true)
    constructor
    · intro f hx l e he hres hf
      exact (exec_scalarAtomic hr o s).trans (issue_ok h (atomicIssue_log hp hg hx hargs he hres hf))
    · intro placed hx hpl hb hv
      exact (exec_scalarAtomic hr o s).trans (issue_ok h (atomicIssue_path hp hg hx hargs hpl hb hv))
  | false =>
    intro maj i n h c accs hp hg
    have hargs := funext (atomicOpnd_of_row hr c false)
    constructor
    · intro f hx l e he hres hf
      exact (exec_atomic hr o s).trans (issue_ok h (atomicIssue_log hp hg hx hargs he hres hf))
    · intro placed hx hpl hb hv
      exact (exec_atomic hr o s).trans (issue_ok h (atomicIssue_path hp hg hx hargs hpl hb hv))

/-! ### Fences, `pf`, `cwb`, `cinv` -/

section
variable {c : Ctx} {t u : State} {rel acq sc : Bool}

/-- What is left for a fence to wait for. -/
theorem fence_over (hr : t.rlxRefuses c = none) (h1 : rel = true → t.released c.g c.e.scope.toNat = true)
    (h2 : acq = true → t.loadsBound c.g = true) (h3 : sc = true → t.pathClear c.g = true) :
    fence rel acq sc c t = .ok (c.onceDo t (if acq = true then t.acquireAt c.g c.e.scope.toNat else t)) := by
  have hno : ¬ ((rel && !t.released c.g c.e.scope.toNat || acq && !t.loadsBound c.g || sc && !t.pathClear c.g) = true) := by
    simp only [Bool.or_eq_true, Bool.and_eq_true, Bool.not_eq_true', not_or, not_and, Bool.not_eq_false]
    exact ⟨⟨h1, h2⟩, h3⟩
  refine (rlxGate_pass hr).trans (Ctx.once_eq_ok fun _ => ?_)
  exact if_neg hno

theorem fence_waits (hr : t.rlxRefuses c = none) (ha : c.anyLane = true)
    (h : (rel = true ∧ t.released c.g c.e.scope.toNat = false) ∨ (acq = true ∧ t.loadsBound c.g = false)
      ∨ (sc = true ∧ t.pathClear c.g = false)) : fence rel acq sc c t = .stall .order := by
  refine (rlxGate_pass hr).trans ((once_of_anyLane ha).trans (if_pos ?_))
  simp only [Bool.or_eq_true, Bool.and_eq_true, Bool.not_eq_true', or_assoc]
  exact h

/-- An acquire sees the paths of its tiles, and drops the tile cache unless it is tile-wide (R82, R90). -/
theorem acquireAt_eq (t : State) (g : Group) (scope : Nat) (acq : Bool) :
    (if acq = true then t.acquireAt g scope else t) = match t.groupTile g with
      | some tile => if acq = true then (if (t.seePaths g).tileWide g scope = true then t.seePaths g else (t.seePaths g).dropCache tile) else t
      | none => t := by
  unfold State.acquireAt
  cases t.groupTile g <;> cases acq <;> rfl

/-- `cwb` and `cinv` act on their lines, once the group's own stores to them are at home (R92). -/
theorem onLines_eq {f : Ctx → State → Nat → State} {lines : List Nat}
    (hp : Passes t c (c.needBw [0, 1]) (∃ va ∈ c.lanes.map c.eaVec, inAperture c.g va = true))
    (hl : t.linesOf c.g (c.lanes.map c.eaVec) = (u, .ok lines)) :
    onLines f c t = if u.linesHome c.g lines = true then .ok (lines.foldl (f c) u) else .stall .order := by
  obtain ⟨htags, hrlx, hap⟩ := hp
  refine (checked_pass (tags := c.needBw intTags) htags hrlx fun _ => firstFail_any hap _ []).trans ?_
  rw [hl]

end

/-- Settles O31: a fence by what it waits for, `cwb` and `cinv` by the lines that they translate. -/
theorem orderingAndCaches : Obligations.OrderingAndCaches := by
  refine ⟨fun r hr o s g cl t h => ?_, fun o s g cl t h => ?_, fun m mk hmk o s g cl t u lines h => ?_⟩
  · intro c hrlx
    have hexec : exec (r.1 o) s = issue 22 0 o (fence r.2.1 r.2.2.1 r.2.2.2) s := by
      simp only [List.mem_cons, List.not_mem_nil, or_false] at hr
      rcases hr with rfl | rfl | rfl | rfl <;> rfl
    refine ⟨fun h1 h2 h3 => ?_, fun ha hw => ?_⟩
    · have hover := fence_over (c := c) hrlx h1 h2 h3
      rw [acquireAt_eq] at hover
      exact hexec.trans (issue_ok h hover)
    · exact stalls_of_body hexec h (fence_waits hrlx ha hw)
  · intro c hp
    obtain ⟨htags, hrlx, -⟩ := hp
    exact issue_ok (body := pf) h (checked_pass (tags := c.needBw intTags) htags hrlx fun _ => rfl)
  · intro c vas hp hl
    have hlines {f : Ctx → State → Nat → State} := onLines_eq (f := f) hp hl
    simp only [List.mem_cons, Prod.mk.injEq, List.not_mem_nil, or_false] at hmk
    rcases hmk with ⟨rfl, rfl⟩ | ⟨rfl, rfl⟩
    · exact ⟨fun hh => issue_ok h (hlines.trans (if_pos hh)),
        fun hh => stalls_of_body rfl h (hlines.trans (if_neg (Bool.eq_false_iff.mp hh)))⟩
    · exact ⟨fun hh => issue_ok h (hlines.trans (if_pos hh)),
        fun hh => stalls_of_body rfl h (hlines.trans (if_neg (Bool.eq_false_iff.mp hh)))⟩

end Sys2Proof.Machine
end

section
/-! Which lanes of a load bind as one of them reads its lines, and the bytes that they take (04 R71, R72, R78; 14 R257, R258). -/
namespace Sys2Proof.Machine
open Sys2Proof.Stated

/-! ### Parts and their lines -/

section
variable {s : State} {g : Group} {e : LogEntry} {a b : Access} {ps qs : List Piece} {n scope hint : Nat} {signed acq : Bool}

theorem valueIn_eq_none {reads : List (Nat × List Byte)} {q : Piece} (hq : q ∈ qs) (h : ∀ r ∈ reads, r.1 ≠ q.pa / 128) :
    valueIn reads qs = none := by
  induction qs with
  | nil => cases hq
  | cons p t ih =>
    unfold valueIn at ih ⊢
    rw [List.foldr_cons]
    rcases List.mem_cons.mp hq with rfl | ht
    · have hf : reads.find? (fun r => r.1 == q.pa / 128) = none := List.find?_eq_none.mpr (by simpa using h)
      rw [hf]
      split <;> simp_all
    · rw [ih ht]

theorem mem_toRead (hp : a.place = .phys ps) {p : Piece} :
    p ∈ e.toRead a ↔ p ∈ ps ∧ (p.attr = 2 ∨ ∀ r ∈ e.reads, r.1 ≠ p.pa / 128) := by
  rw [LogEntry.toRead, hp]
  simp

theorem mem_fed (ha : a ∈ e.accs) {rs : List Piece} (h : b ∈ e.fed a rs) : b ∈ e.accs := by
  unfold LogEntry.fed at h
  split at h
  · rwa [List.mem_singleton.mp h]
  · exact List.mem_of_mem_filter h

/-- A part in a line that the entry holds takes what was read then (R78). -/
theorem takenBytes_held {r : Nat × List Byte} {q : Piece} (hf : e.reads.find? (fun r => r.1 == q.pa / 128) = some r)
    (hr : r.2.length = 128) (hq : q.pa % 128 + q.n ≤ 128) :
    (r.2.drop (q.pa % 128)).take q.n = (List.range q.n).map fun k => takenByte s g e ps false (q.pa + k) := by
  rw [drop_take_eq (by rw [hr]; exact hq)]
  refine List.map_congr_left fun k hk => ?_
  have hk : k < q.n := List.mem_range.mp hk
  have hd : (q.pa + k) / 128 = q.pa / 128 := by omega
  have hm : (q.pa + k) % 128 = q.pa % 128 + k := by omega
  unfold takenByte
  rw [if_neg (by simp), hd, hf, hm]

/-- A part in a line that is read now takes what a load takes of that line. -/
theorem takenBytes_read (hop : e.op = .load n signed acq scope hint) (hn : (ps.map fun p => p.pa / 128 % 128).Nodup) {p q : Piece}
    (hp : p ∈ ps) (hl : p.pa / 128 = q.pa / 128) (hf : e.reads.find? (fun r => r.1 == q.pa / 128) = none)
    (hq : q.pa % 128 + q.n ≤ 128) :
    ((lineTaken s g e.tile (s.tileWide g scope) p).2.drop (q.pa % 128)).take q.n
      = (List.range q.n).map fun k => takenByte s g e ps false (q.pa + k) := by
  rw [drop_take_eq (by simpa [lineTaken] using hq)]
  refine List.map_congr_left fun k hk => ?_
  have hk : k < q.n := List.mem_range.mp hk
  have hd : (q.pa + k) / 128 = q.pa / 128 := by omega
  have hany : (ps.any fun x => decide (x.pa / 128 = q.pa / 128) && x.attr == 0) = (p.attr == 0) := by
    refine Bool.eq_iff_iff.mpr ⟨fun h => ?_, fun h => List.any_eq_true.mpr ⟨p, hp, by simp [h, hl]⟩⟩
    obtain ⟨x, hx, hxp⟩ := List.any_eq_true.mp h
    obtain ⟨hline, hattr⟩ := Bool.and_eq_true_iff.mp hxp
    rwa [eq_of_line hn hx hp ((of_decide_eq_true hline).trans hl.symm)] at hattr
  unfold takenByte
  rw [if_neg (by simp), hd, hf, hop]
  simp only [lineTaken, hany]
  rw [List.getD_eq_getElem _ _ (by simp; omega), List.getElem_map, List.getElem_range]
  congr 1
  omega

/-- The line of a part is known once the lines of `a` are read: the entry holds it, or it is one of those read now. -/
def lineKnown (e : LogEntry) (a b : Access) (ps : List Piece) (q : Piece) : Prop :=
  (∃ p ∈ ps, (a.isDev = true → b = a) ∧ p.pa / 128 = q.pa / 128) ∨ (b.isDev = false ∧ ∃ r ∈ e.reads, r.1 = q.pa / 128)

/-- The lines from which an access may take its bytes as those of `a` are read (R69, R78). -/
def LogEntry.linesFor (e : LogEntry) (a b : Access) (rs : List (Nat × List Byte)) : List (Nat × List Byte) :=
  if b.isDev = true then rs else if a.isDev = true then e.reads else e.reads ++ rs

/-- An access to memory that is no device line has its bytes once each of its lines is known, and not before. -/
theorem valueIn_shared (hop : e.op = .load n signed acq scope hint) (hp : a.place = .phys ps)
    (hn : (ps.map fun p => p.pa / 128 % 128).Nodup) (hr : ∀ r ∈ e.reads, r.2.length = 128) (hb : b.isDev = false)
    (hq : ∀ q ∈ qs, q.pa % 128 + q.n ≤ 128) (bs : List Byte) :
    valueIn (e.linesFor a b ((e.toRead a).map (lineTaken s g e.tile (s.tileWide g scope)))) qs = some bs ↔
      (∀ q ∈ qs, lineKnown e a b ps q) ∧ bs = qs.flatMap fun q => (List.range q.n).map fun k => takenByte s g e ps false (q.pa + k) := by
  unfold LogEntry.linesFor
  rw [if_neg (by simp [hb])]
  by_cases hall : ∀ q ∈ qs, lineKnown e a b ps q
  · rw [valueIn_eq (f := fun q => (List.range q.n).map fun k => takenByte s g e ps false (q.pa + k)) fun q hmem => ?_]
    · exact ⟨fun h => ⟨hall, (Option.some.inj h).symm⟩, fun h => by rw [h.2]⟩
    · cases hf : e.reads.find? fun r => r.1 == q.pa / 128 with
      | some r =>
        refine ⟨r, ?_, takenBytes_held hf (hr r (List.mem_of_find?_eq_some hf)) (hq q hmem)⟩
        split
        · exact hf
        · rw [List.find?_append, hf]
          rfl
      | none =>
        have hnone : ∀ r ∈ e.reads, r.1 ≠ q.pa / 128 := by simpa using hf
        rcases hall q hmem with ⟨p, hpm, hown, hl⟩ | ⟨-, r, hrm, hrl⟩
        · have ha : a.isDev = false := Bool.eq_false_iff.mpr fun ha => by simp [hown ha, ha] at hb
          refine ⟨_, ?_, takenBytes_read hop hn hpm hl hf (hq q hmem)⟩
          rw [if_neg (by simp [ha]), List.find?_append, hf, Option.none_or]
          have hread : p ∈ e.toRead a := (mem_toRead hp).mpr ⟨hpm, .inr (hl ▸ hnone)⟩
          have hnd : (((e.toRead a).map (lineTaken s g e.tile (s.tileWide g scope))).map Prod.fst).Nodup := by
            rw [List.map_map, LogEntry.toRead, hp]
            refine List.Nodup.of_map (· % 128) ?_
            rw [List.map_map]
            exact hn.sublist (List.filter_sublist.map _)
          exact (find?_key_iff hnd).mpr ⟨List.mem_map_of_mem hread, hl⟩
        · exact absurd hrl (hnone r hrm)
  · push Not at hall
    obtain ⟨q, hmem, hunknown⟩ := hall
    rw [valueIn_eq_none hmem fun r hrm hrl => hunknown ?_]
    · exact ⟨nofun, fun h => absurd (h.1 q hmem) hunknown⟩
    · split at hrm
      · exact .inr ⟨hb, r, hrm, hrl⟩
      next ha =>
        rcases List.mem_append.mp hrm with hrm | hrm
        · exact .inr ⟨hb, r, hrm, hrl⟩
        · obtain ⟨p, hpm, rfl⟩ := List.mem_map.mp hrm
          exact .inl ⟨p, ((mem_toRead hp).mp hpm).1, fun h => absurd h ha, hrl⟩

/-- What an access of the entry takes, if anything: a device line feeds its own lane only (R69). -/
theorem valueIn_linesFor (hop : e.op = .load n signed acq scope hint) (hp : a.place = .phys ps) (hqs : b.place = .phys qs)
    (hn : (ps.map fun p => p.pa / 128 % 128).Nodup) (hr : ∀ r ∈ e.reads, r.2.length = 128) (hd : a.isDev = true → ps.length = 1)
    (hown : b.isDev = true → b = a) (hq : ∀ q ∈ qs, q.pa % 128 + q.n ≤ 128) (bs : List Byte) :
    valueIn (e.linesFor a b ((e.toRead a).map (lineTaken s g e.tile (s.tileWide g scope)))) qs = some bs ↔
      (∀ q ∈ qs, lineKnown e a b ps q) ∧ bs = qs.flatMap fun q => (List.range q.n).map fun k => takenByte s g e ps b.isDev (q.pa + k) := by
  cases hb : b.isDev with
  | false => exact valueIn_shared hop hp hn hr hb hq bs
  | true =>
    obtain rfl := hown hb
    obtain rfl : ps = qs := Place.phys.inj (hp.symm.trans hqs)
    have hv := valueIn_taken (s := s) (g := g) hop hp hn hq hr hd
    rw [if_pos hb, hb] at hv
    rw [LogEntry.linesFor, if_pos hb, hv]
    exact ⟨fun h => ⟨fun q hmem => .inl ⟨q, hmem, fun _ => rfl, rfl⟩, (Option.some.inj h).symm⟩, fun h => by rw [h.2]⟩

/-! ### Binding -/

/-- The lanes that an entry holds once lines were read for one of them: those of before, and each that then has all its lines. -/
theorem LogEntry.mem_withReads_bound {rs : List (Nat × List Byte)} {i v : Nat} : (i, v) ∈ (e.withReads a rs).bound ↔
    (i, v) ∈ e.bound ∨ ∃ b ∈ e.accs, ∃ qs bs, b.lane = i ∧ e.isBound i = false ∧ b.place = .phys qs ∧
      (b.isDev = true → b.lane = a.lane) ∧ valueIn (e.linesFor a b rs) qs = some bs ∧ v = bytesNat bs := by
  unfold LogEntry.withReads LogEntry.linesFor
  rw [List.mem_append, List.mem_filterMap]
  refine or_congr Iff.rfl (exists_congr fun b => and_congr Iff.rfl ?_)
  cases hb : b.place with
  | phys qs =>
    dsimp only
    constructor
    · intro h
      split at h
      next => cases h
      next hfree =>
        obtain ⟨bs, hv, heq⟩ := Option.map_eq_some_iff.mp h
        cases heq
        obtain ⟨hbd, hown⟩ : e.isBound b.lane = false ∧ (b.isDev = true → b.lane = a.lane) := by simpa using hfree
        exact ⟨qs, bs, rfl, hbd, rfl, hown, hv, rfl⟩
    · rintro ⟨qs', bs, rfl, hbd, hqs, hown, hv, rfl⟩
      cases hqs
      rw [if_neg (by simpa [hbd] using hown), hv]
      rfl
  | _ => simp

/-- Where no line that is read has an uncorrectable error, no part in one of them has. -/
theorem State.badPiece_none (wide : Bool) (va : W64) {tile : Nat} {rs : List Piece}
    (hrs : ∀ p ∈ rs, s.badRead (p.pa / 128 * 128) 128 = false) (hq : ∀ q ∈ qs, q.pa % 128 + q.n ≤ 128) :
    s.badPiece g tile wide va (fun q => rs.any fun p => p.pa / 128 == q.pa / 128) qs = none := by
  refine State.badIn_none qs (fun q hmem hread => ?_) _
  obtain ⟨p, hpm, hline⟩ := List.any_eq_true.mp (Bool.and_eq_true_iff.mp hread).1
  have hline : p.pa / 128 = q.pa / 128 := by simpa using hline
  have := hq q hmem
  exact State.badRead_mono (hrs p hpm) (by omega) (by omega)

/-- Binding one lane reads the lines that it still needs, and the entry takes what they give. -/
theorem State.bindOne_reads (hb : mayBind s e g a ps) (hop : e.op = .load n signed acq scope hint) :
    ∃ u, s.bindOne e.id a.lane = .ok u ∧
      u.entry? e.id = some (e.withReads a ((e.toRead a).map (lineTaken s g e.tile (s.tileWide g scope)))) := by
  obtain ⟨he, hg, hst, ha, hnd, hp, hbd, hfl, hbad, hin, hn, hw, hl, hc, -, -⟩ := hb
  have hflight : (e.fed a (e.toRead a)).any (s.atomicInFlight e) = false :=
    List.any_eq_false.mpr fun b hb => by simp [hfl b (mem_fed ha hb)]
  have hgood : (e.fed a (e.toRead a)).findSome? (fun b => match b.place with
      | .phys qs => s.badPiece g e.tile (s.tileWide g scope) b.va
          (fun q => (e.toRead a).any fun p => p.pa / 128 == q.pa / 128) qs
      | _ => none) = none := by
    refine List.findSome?_eq_none_iff.mpr fun b hb => ?_
    split
    next qs hqs => exact State.badPiece_none _ _ (fun p hpm => hbad p ((mem_toRead hp).mp hpm).1) (hin b (mem_fed ha hb) qs hqs)
    · rfl
  have hreads : ((e.toRead a).map fun p => p.pa / 128 % 128).Nodup := by
    rw [LogEntry.toRead, hp]
    exact hn.sublist (List.filter_sublist.map _)
  obtain ⟨hserved, hrs⟩ := s.readLines_served g e.tile (s.tileWide g scope) hint (e.toRead a) hw hl hc hreads
  have hfind : e.accs.find? (fun b => b.lane == a.lane) = some a := (find?_key_iff hnd).mpr ⟨ha, rfl⟩
  have hwait : ¬ ((e.state != .running || a.place == .todo || (e.fed a (e.toRead a)).any (s.atomicInFlight e)) = true) := by
    simp [hst, hp, hflight]
  generalize hread : s.readLines g e.tile (s.tileWide g scope) hint (e.toRead a) = l at hserved hrs
  have hok : s.bindOne e.id a.lane = .ok (((
      (e.fed a (e.toRead a)).foldl (fun s b => (b.partsIn (e.toRead a)).foldl (fun s p => s.takeBytes g e.tile p) s) l.1).setEntry
      (e.withReads a l.2)).acquired g (e.withReads a l.2)) := by
    unfold State.bindOne
    rw [he]
    dsimp only
    rw [hop, hfind, hg]
    dsimp only
    rw [if_neg (by simp [hbd]), if_neg hwait]
    split
    next hsome => exact absurd (hsome.symm.trans hgood) (by simp)
    next => rw [← hread]
  rw [hrs] at hok
  refine ⟨_, hok, (State.entry?_of_log (congrArg State.log (State.acquired_beside _ g _)) _).trans ?_⟩
  refine State.entry?_setEntry_of_log (t := s) ?_ he rfl
  refine (congrArg State.log (foldl_frame State.besideStores (fun u b => ?_) (e.fed a (e.toRead a)) l.1) :).trans
    (congrArg State.log hserved.beside :)
  exact foldl_frame State.besideStores (fun u p => u.takeBytes_beside g e.tile p) _ _

/-- As one lane reads its lines, the lanes that then have all their lines bind, with the bytes that they take. -/
theorem State.bindOne_binds (hb : mayBind s e g a ps) (hop : e.op = .load n signed acq scope hint) :
    ∃ u f, s.bindOne e.id a.lane = .ok u ∧ u.entry? e.id = some f ∧
      ∀ i v, (i, v) ∈ f.bound ↔ (i, v) ∈ e.bound ∨ ∃ b ∈ e.accs, ∃ qs, b.lane = i ∧ e.isBound i = false ∧ b.place = .phys qs ∧
        (b.isDev = true → b = a) ∧ (∀ q ∈ qs, lineKnown e a b ps q) ∧ v = takenValue s g e ps b.isDev qs := by
  obtain ⟨u, hu, hf⟩ := State.bindOne_reads hb hop
  obtain ⟨-, -, -, ha, hnd, hp, -, -, -, hin, hn, -, -, -, hr, hd⟩ := hb
  refine ⟨u, _, hu, hf, fun i v => ?_⟩
  rw [LogEntry.mem_withReads_bound]
  refine or_congr Iff.rfl (exists_congr fun b => and_congr_right fun hbm => exists_congr fun qs => ?_)
  have hlane : b.lane = a.lane ↔ b = a := ⟨fun h => List.inj_on_of_nodup_map hnd hbm ha h, fun h => h ▸ rfl⟩
  constructor
  · rintro ⟨bs, hi, hbd, hqs, hown, hv, rfl⟩
    rw [hlane] at hown
    obtain ⟨hknown, rfl⟩ := (valueIn_linesFor hop hp hqs hn hr hd hown (hin b hbm qs hqs) bs).mp hv
    exact ⟨hi, hbd, hqs, hown, hknown, rfl⟩
  · rintro ⟨hi, hbd, hqs, hown, hknown, rfl⟩
    exact ⟨_, hi, hbd, hqs, fun hdev => hlane.mpr (hown hdev), (valueIn_linesFor hop hp hqs hn hr hd hown (hin b hbm qs hqs) _).mpr ⟨hknown, rfl⟩, rfl⟩

end

/-- Settles O27: the issue behind the shared checks, and the binding of lanes by `State.bindOne_binds`. -/
theorem loadsEnterLog : Obligations.LoadsEnterLog := by
  refine ⟨fun r hr o s g cl t u f h => ?_, fun s e g a ps n scope hint signed acq hop hb => State.bindOne_binds hb hop⟩
  intro c accs hp ha hw hs l v e he hres hf
  exact (exec_ldg hr o s).trans (issue_ok h (ldg_enters hp ha hw hs he hres hf))

end Sys2Proof.Machine
end

section
/-! What `enter` does to its frame, its window and the registers that come in, and where it traps (06 R151). -/
namespace Sys2Proof.Machine
open Sys2Proof.Stated

/-- Zeroing registers leaves the flow of control. -/
@[simp] theorem Group.zeroSlots_flow (g : Group) (l : List Nat) : (g.zeroSlots l).flow = g.flow :=
  foldl_frame Group.flow (fun _ _ => Group.setSlot_flow _ _ _) l g

/-- The frame's new step is refused: no frame, beyond 60, or no multiple of 4 (R151). -/
def Ctx.badStep (c : Ctx) : Bool := c.g.ldepth = 0 || 60 < c.g.topStep + c.fb || c.fb % 4 != 0

/-- The window would pass the budget (R128, R151). -/
def Ctx.pastBudget (c : Ctx) : Bool := c.g.budget + c.g.flow.lo < c.g.flow.wb + c.fb + 64

section
variable {c : Ctx} {s : State}

/-- `enter` at user level: its two checks in order, then its effect. -/
theorem enter_eq (hr : s.rlxRefuses c = none) (htl : c.g.flow.tl = false) (ha : c.anyLane = true) :
    enter c s = if c.badStep then .trap .illop 0x0D
      else if c.pastBudget then .trap .wovf (w64 ((c.g.flow.wb + c.fb + 64 - c.g.flow.lo - c.g.budget) % 1024))
      else .ok (s.onGroup c.g.id fun h =>
        let h' := h.zeroSlots (h.slotsOf (h.flow.wb + 64) (h.flow.wb + 64 + c.fb))
        { h' with flow := { h'.flow with
            wb := h.flow.wb + c.fb
            links := match h.flow.links with | e :: l => { e with step := e.step + c.fb } :: l | [] => [] } }) := by
  rw [enter, rlxGate_pass hr, guarded_pass (by simp [firstFail, htl]), once_of_anyLane ha]
  simp only [Ctx.guarded, ha, Bool.not_true, Bool.false_eq_true, if_false, firstFail, Group.zeroSlots_flow]
  rw [← Ctx.badStep, ← Ctx.pastBudget]
  cases c.badStep <;> cases c.pastBudget <;> rfl

theorem Ctx.badStep_of_frame {e : LinkEntry} {l : List LinkEntry} (hl : c.g.flow.links = e :: l) :
    c.badStep = true ↔ c.fb % 4 ≠ 0 ∨ 60 < e.step + c.fb := by
  simp [Ctx.badStep, Group.ldepth, Group.topStep, hl, or_comm]

theorem Ctx.badStep_of_no_frame (hl : c.g.flow.links = []) : c.badStep = true := by
  simp [Ctx.badStep, Group.ldepth, hl]

theorem Ctx.pastBudget_iff : c.pastBudget = true ↔ c.g.budget + c.g.flow.lo < c.g.flow.wb + c.fb + 64 := decide_eq_true_iff

end

/-- Settles O24: the effect and the three traps by the two checks of `enter_eq`. -/
theorem enterMovesWindow : Obligations.EnterMovesWindow := by
  refine ⟨fun o s g cl t e l h => ?_, fun o s g cl t h => ?_⟩
  · intro c k hr htl ha hl
    have hbad : c.badStep = true ↔ k % 4 ≠ 0 ∨ 60 < e.step + k := Ctx.badStep_of_frame hl
    refine ⟨fun h4 h60 hb => ?_, fun hx => ?_, fun h4 h60 hb => ?_⟩
    · have hroom : ¬ c.pastBudget = true := Ctx.pastBudget_iff.not.mpr (not_lt.mpr hb)
      exact issue_ok h ((enter_eq hr htl ha).trans ((if_neg (by rw [hbad]; omega)).trans (if_neg hroom)))
    · exact issue_trap h (by decide) ((enter_eq hr htl ha).trans (if_pos (hbad.mpr hx)))
    · exact issue_trap h (by decide)
        ((enter_eq hr htl ha).trans ((if_neg (by rw [hbad]; omega)).trans (if_pos (Ctx.pastBudget_iff.mpr hb))))
  · intro c hr htl ha hl
    exact issue_trap h (by decide) ((enter_eq hr htl ha).trans (if_pos (Ctx.badStep_of_no_frame hl)))

end Sys2Proof.Machine
end

section
/-! Where the local addresses of an instruction stand in the windows of a gang, and the checks that every local access makes
(05 R97, R98, R100, R125). -/
namespace Sys2Proof.Machine
open Sys2Proof.Stated

section
variable {s t : State} {c : Ctx} {g : Group} {n i : Nat} {p : Nat × Nat} {place : Nat → Nat × Nat}

/-! ### Places -/

theorem State.llPlace_eq_some {la : Int} : s.llPlace g la n = some p ↔
    0 ≤ la ∧ la < 2 ^ 32 ∧ la % n = 0 ∧ s.localAddr g la.toNat n = some p := by
  have hmod (h : 0 ≤ la) : la.toNat % n = 0 ↔ la % n = 0 := by
    lift la to ℕ using h
    norm_cast
  unfold State.llPlace
  rw [Option.ite_none_right_eq_some]
  simp only [Bool.and_eq_true, decide_eq_true_eq, and_assoc]
  exact and_congr_right fun h => and_congr_right fun _ => and_congr_left fun _ => hmod h

/-- The model's place of a lane is the stated one. -/
theorem Ctx.llPlace_iff : t.llPlace c.g (c.llAddr i) n = some p ↔ atWindow t c n i p := State.llPlace_eq_some

/-- An address that needs no sum. -/
theorem State.llPlace_natCast {v : Nat} (hv : v < 2 ^ 32) : s.llPlace g v n = some p ↔ localAt s g n v p := by
  have hlt : (v : Int) < 2 ^ 32 := by omega
  rw [State.llPlace_eq_some, localAt, Int.toNat_natCast, and_iff_right v.cast_nonneg, and_iff_right hlt,
    ← Int.natCast_mod, Int.natCast_eq_zero]

/-- The barrier that a scalar names. -/
theorem State.barrierAt_eq_some {v : W64} : s.barrierAt g v = some p ↔ barrierNamed s g v p := by
  have hv : fld v 31 0 = v.toNat % 2 ^ 32 := by simp [fld, bits]
  rw [State.barrierAt, hv]
  exact State.llPlace_natCast (Nat.mod_lt _ (by decide))

theorem Ctx.anyLane_of_mem (h : i ∈ c.lanes) : c.anyLane = true := by
  have hne : c.lanes ≠ [] := List.ne_nil_of_mem h
  simpa [Ctx.anyLane] using hne

theorem Ctx.llPlaces_eq (h : ∀ i ∈ c.lanes, atWindow t c n i (place i)) :
    c.llPlaces t n = c.lanes.map fun i => (i, place i) :=
  List.filterMap_eq_map_iff_forall_eq_some.mpr fun i hi => by rw [Ctx.llPlace_iff.mpr (h i hi)]; rfl

/-! ### Checks -/

theorem Ctx.llBad_false (h : ∀ i ∈ c.lanes, atWindow t c n i (place i)) : c.llBad t n = false :=
  List.any_eq_false.mpr fun i hi => by simp [Ctx.llPlace_iff.mpr (h i hi)]

theorem Ctx.llBad_true (hi : i ∈ c.lanes) (h : ∀ p, ¬ atWindow t c n i p) : c.llBad t n = true := by
  have hnone : t.llPlace c.g (c.llAddr i) n = none := Option.eq_none_iff_forall_ne_some.mpr fun p hp => h p (Ctx.llPlace_iff.mp hp)
  exact List.any_eq_true.mpr ⟨i, hi, by simp [hnone]⟩

theorem Ctx.llBarbusy_none (h : ∀ i ∈ c.lanes, atWindow t c n i (place i))
    (hb : ∀ i ∈ c.lanes, t.barrierHit (place i).1 (place i).2 n = none) : c.llBarbusy t n = none := by
  rw [Ctx.llBarbusy, Ctx.llPlaces_eq h, List.findSome?_map, List.findSome?_eq_none_iff]
  intro i hi
  simp [hb i hi]

theorem Ctx.llScored_false {w : Bool} (h : ∀ i ∈ c.lanes, atWindow t c n i (place i))
    (hs : ∀ i ∈ c.lanes, t.scoreHit (place i).1 (place i).2 n w = false) : c.llScored t n w = false := by
  rw [Ctx.llScored, Ctx.llPlaces_eq h, List.any_map, List.any_eq_false]
  intro i hi
  simp [hs i hi]

/-- The operand check that refuses behind tags and gate that pass. -/
theorem checked_refuses {tags : List TagCheck} {x : Cause × W64} {rest : List (Bool × (Cause × W64))} {r : Res}
    (ht : c.tagsPass tags) (hr : t.rlxRefuses c = none) (ha : c.anyLane = true) : checked c t tags ((true, x) :: rest) r = .ofPair x := by
  rw [checked, tagged_pass ht, rlxGate_pass hr, guarded_fail ha rfl]

/-- A lane without a valid, aligned address: ILLOP 0x0D, in front of everything else that an instruction of LL does. -/
theorem checked_llBad {tags : List TagCheck} {rest : List (Bool × (Cause × W64))} {r : Res}
    (ht : c.tagsPass tags) (hr : t.rlxRefuses c = none) (hi : i ∈ c.lanes) (h : ∀ p, ¬ atWindow t c n i p) :
    checked c t tags ((c.llBad t n, illop 0x0D) :: rest) r = .trap .illop 0x0D := by
  rw [Ctx.llBad_true hi h]
  exact checked_refuses ht hr (Ctx.anyLane_of_mem hi)

/-! ### Lanes -/

theorem Ctx.lanes_pairwise (c : Ctx) : c.lanes.Pairwise (· < ·) := List.pairwise_lt_range.filter _

/-- The value of a lane in a list with one entry for each lane. -/
theorem aget_map_key {α : Type} (l : List Nat) (f : Nat → α) (i : Nat) (d : α) :
    aget (l.map fun j => (j, f j)) i d = if i ∈ l then f i else d := by
  induction l with
  | nil => rfl
  | cons j l ih =>
    by_cases hj : j = i
    · simp [aget, hj]
    · have hcons : aget ((j :: l).map fun j => (j, f j)) i d = aget (l.map fun j => (j, f j)) i d := by simp [aget, hj]
      rw [hcons, ih]
      simp [Ne.symm hj]

theorem aget_cons {α : Type} (k : Nat) (v : α) (l : List (Nat × α)) (i : Nat) (d : α) :
    aget ((k, v) :: l) i d = if i = k then v else aget l i d := by
  by_cases h : k = i
  · simp [aget, h]
  · simp [aget, h, Ne.symm h]

/-- The old values of a chain of updates in ascending order: each lane's is taken behind the updates of the lanes below it. -/
theorem aget_foldl_olds {σ α : Type} (act : σ → Nat → σ) (old : σ → Nat → α) {l : List Nat} (hl : l.Pairwise (· < ·)) (x : σ)
    (vs : List (Nat × α)) (i : Nat) (d : α) :
    aget (l.foldl (fun a j => (act a.1 j, (j, old a.1 j) :: a.2)) (x, vs)).2 i d
      = if i ∈ l then old ((l.takeWhile (· < i)).foldl act x) i else aget vs i d := by
  induction l generalizing x vs with
  | nil => rfl
  | cons j l ih =>
    obtain ⟨hj, hl⟩ := List.pairwise_cons.mp hl
    rw [List.foldl_cons, ih hl, aget_cons]
    by_cases hi : i ∈ l
    · simp [hi, hj i hi]
    · by_cases hij : i = j
      · subst hij
        simp [hi]
      · simp [hi, hij]

theorem fst_foldl_olds {σ α : Type} (act : σ → Nat → σ) (old : σ → Nat → α) (l : List Nat) (x : σ) (vs : List (Nat × α)) :
    (l.foldl (fun a j => (act a.1 j, (j, old a.1 j) :: a.2)) (x, vs)).1 = l.foldl act x :=
  (List.foldl_hom Prod.fst fun _ _ => rfl).symm

end

end Sys2Proof.Machine
end

section
/-! Local loads, stores and atomics, and where each of them refuses a lane's address (05 R97 to R103, R114, R235). -/
namespace Sys2Proof.Machine
open Sys2Proof.Stated

section
variable {t : State} {c : Ctx} {n : Nat} {signed : Bool} {place : Nat → Nat × Nat}

/-! ### Effects behind the checks -/

/-- A local load: each register of D from the bytes that its lanes' windows hold (R101). -/
theorem ldl_reads (hp : Passes t c (c.needA [0, 1]) False) (ha : t.acquirePending c.g = false)
    (h : ∀ i ∈ c.lanes, atWindow t c n i (place i) ∧ t.scoreHit (place i).1 (place i).2 n true = false) :
    ldl n signed c t = .ok ((List.range (loadRegs n)).foldl (fun w k =>
      c.putV w k (fun i => loadReg n signed (if i ∈ c.lanes then bytesNat (t.windowRead (place i).1 (place i).2 n) else 0) k) c.e.xmod)
      (c.llRecord t n false fun _ => [])) := by
  obtain ⟨htags, hrlx, -⟩ := hp
  have hw := fun i hi => (h i hi).1
  have hvals (i : Nat) : aget ((c.llPlaces t n).map fun p => (p.1, bytesNat (t.windowRead p.2.1 p.2.2 n))) i 0
      = if i ∈ c.lanes then bytesNat (t.windowRead (place i).1 (place i).2 n) else 0 := by
    rw [Ctx.llPlaces_eq hw, List.map_map]
    exact aget_map_key _ _ _ _
  have hno : ¬ c.llScored t n true = true := by simp [Ctx.llScored_false hw fun i hi => (h i hi).2]
  refine (checked_pass (tags := c.needA intTags) htags hrlx fun _ => by rw [Ctx.llBad_false hw]; rfl).trans ?_
  refine (afterAcquires_pass ha).trans ((if_neg hno).trans ?_)
  simp only [hvals]

/-- A local store: in a body it is recorded, elsewhere its lanes write in ascending order (R101, R235). -/
theorem stl_writes (hp : Passes t c (c.needA [0, 1]) False) (ha : t.acquirePending c.g = false)
    (h : ∀ i ∈ c.lanes, atWindow t c n i (place i)) :
    (t.inRegion c.g = .body → stl n c t = .ok (c.llRecord t n true (c.storeData false n))) ∧
    (t.inRegion c.g ≠ .body → (∀ i ∈ c.lanes, t.barrierHit (place i).1 (place i).2 n = none ∧
        t.scoreHit (place i).1 (place i).2 n false = false) →
      stl n c t = .ok (c.lanes.foldl (fun w i => w.windowWrite (place i).1 (place i).2 (c.storeData false n i)) t)) := by
  obtain ⟨htags, hrlx, -⟩ := hp
  constructor
  · intro hb
    have hbody : (t.inRegion c.g == .body) = true := beq_iff_eq.mpr hb
    refine (checked_pass (tags := c.needA intTags) htags hrlx fun _ => ?_).trans ((afterAcquires_pass ha).trans (if_pos hbody))
    rw [Ctx.llBad_false h, hbody]
    rfl
  · intro hb hclear
    have hbody : (t.inRegion c.g == .body) = false := beq_eq_false_iff_ne.mpr hb
    have hno : ¬ c.llScored t n false = true := by simp [Ctx.llScored_false h fun i hi => (hclear i hi).2]
    refine (checked_pass (tags := c.needA intTags) htags hrlx fun _ => ?_).trans ((afterAcquires_pass ha).trans ?_)
    · rw [Ctx.llBad_false h, hbody]
      exact firstFail_opt (Ctx.llBarbusy_none h fun i hi => (hclear i hi).1) []
    · rw [hbody, if_neg Bool.false_ne_true, if_neg hno, Ctx.llPlaces_eq h, List.foldl_map]

/-- The word of a lane's place. -/
def wordAt (place : Nat → Nat × Nat) (w : State) (i : Nat) : W32 :=
  BitVec.ofNat 32 (bytesNat (w.windowRead (place i).1 (place i).2 4))

/-- What a lane of a local atomic writes: at its place the new word, of the old one, C and D (R102). -/
def atomicLane (c : Ctx) (place : Nat → Nat × Nat) (new : W32 → W32 → W32 → W32) (w : State) (i : Nat) : State :=
  w.windowWrite (place i).1 (place i).2 (leBytes 4 (new (wordAt place w i) (c.opC i) (c.opDk 0 i)).toNat)

/-- A local atomic: lane by lane in ascending order, each lane's old word behind the lanes below it (R102, R103). -/
theorem localAtomic_acts {op : AOp} {tags : Ctx → List TagCheck} {tag : Ctx → BitVec 4}
    (hp : Passes t c (c.needA [0, 1] ++ tags c) False) (ha : t.acquirePending c.g = false)
    (h : ∀ i ∈ c.lanes, atWindow t c 4 i (place i) ∧ t.barrierHit (place i).1 (place i).2 4 = none ∧
      t.scoreHit (place i).1 (place i).2 4 false = false) :
    localAtomic op tags tag c t = .ok (c.putV (c.lanes.foldl (atomicLane c place op.newInt) t) 0
      (fun i => if i ∈ c.lanes then wordAt place ((c.lanes.takeWhile (· < i)).foldl (atomicLane c place op.newInt) t) i else 0)
      (tag c)) := by
  obtain ⟨htags, hrlx, -⟩ := hp
  have hw := fun i hi => (h i hi).1
  have hno : ¬ c.llScored t 4 false = true := by simp [Ctx.llScored_false hw fun i hi => (h i hi).2.2]
  refine (checked_pass (tags := c.needA intTags ++ tags c) htags hrlx fun _ => ?_).trans
    ((afterAcquires_pass ha).trans ((if_neg hno).trans ?_))
  · rw [Ctx.llBad_false hw]
    exact firstFail_opt (Ctx.llBarbusy_none hw fun i hi => (h i hi).2.1) []
  · have hfold : (c.llPlaces t 4).foldl (fun (a : State × List (Nat × W32)) p =>
          let old := w32 (bytesNat (a.1.windowRead p.2.1 p.2.2 4))
          let new := op.newInt old (c.opC p.1) (c.opDk 0 p.1)
          (a.1.windowWrite p.2.1 p.2.2 (natBytes 4 new.toNat), (p.1, old) :: a.2)) (t, [])
        = c.lanes.foldl (fun a i => (atomicLane c place op.newInt a.1 i, (i, wordAt place a.1 i) :: a.2)) (t, []) := by
      rw [Ctx.llPlaces_eq hw, List.foldl_map]
      simp only [natBytes_eq_leBytes]
      rfl
    rw [hfold]
    dsimp only
    rw [fst_foldl_olds]
    simp only [aget_foldl_olds _ _ c.lanes_pairwise]
    rfl

end

/-! ### The rows of LL -/

theorem exec_ldl {r : Mk × Nat × Nat × Bool} (hr : r ∈ ldlRows) (o : Ops) (s : State) :
    exec (r.1 o) s = issue 23 r.2.1 o (ldl r.2.2.1 r.2.2.2) s := by
  simp only [ldlRows, List.mem_cons, List.not_mem_nil, or_false] at hr
  rcases hr with rfl | rfl | rfl | rfl | rfl | rfl | rfl <;> rfl

theorem size_of_ldlRow {r : Mk × Nat × Nat × Bool} (hr : r ∈ ldlRows) : r.2.2.1 ∈ [1, 2, 4, 8, 16] :=
  (by decide : ∀ n ∈ ldlRows.map fun r => r.2.2.1, n ∈ [1, 2, 4, 8, 16]) _ (List.mem_map_of_mem hr)

theorem exec_stl {r : Mk × Nat × Nat} (hr : r ∈ stlRows) (o : Ops) (s : State) :
    exec (r.1 o) s = issue 23 r.2.1 o (stl r.2.2) s := by
  simp only [stlRows, List.mem_cons, List.not_mem_nil, or_false] at hr
  rcases hr with rfl | rfl | rfl | rfl | rfl <;> rfl

theorem size_of_stlRow {r : Mk × Nat × Nat} (hr : r ∈ stlRows) : r.2.2 ∈ [1, 2, 4, 8, 16] :=
  (by decide : ∀ n ∈ stlRows.map fun r => r.2.2, n ∈ [1, 2, 4, 8, 16]) _ (List.mem_map_of_mem hr)

/-- A local atomic is that of an operation whose new word is the one of its row's minor of AT. -/
theorem exec_localAtomic {r : Mk × Nat × Nat × (Ctx → List TagCheck) × (Ctx → BitVec 4)} (hr : r ∈ llAtomicRows) :
    ∃ op : AOp, (∀ o s, exec (r.1 o) s = issue 23 r.2.1 o (localAtomic op r.2.2.2.1 r.2.2.2.2) s) ∧
      op.newInt = atomicWord r.2.2.1 := by
  simp only [llAtomicRows, List.mem_cons, List.not_mem_nil, or_false] at hr
  rcases hr with rfl | rfl | rfl | rfl | rfl
  · exact ⟨.add, fun _ _ => rfl, funext₂ fun a b => funext fun _ => add_eq_ofInt a b⟩
  · exact ⟨.smin, fun _ _ => rfl, funext₂ fun a b => funext fun _ => signedMin_eq a b⟩
  · exact ⟨.smax, fun _ _ => rfl, funext₂ fun a b => funext fun _ => signedMax_eq a b⟩
  · exact ⟨.exch, fun _ _ => rfl, rfl⟩
  · exact ⟨.cas, fun _ _ => rfl, rfl⟩

/-- Registers that a load of one of the sizes writes. -/
theorem loadRegs_eq {n : Nat} (hn : n ∈ [1, 2, 4, 8, 16]) : loadRegs n = if n = 16 then 4 else if n = 8 then 2 else 1 := by
  fin_cases hn <;> rfl

/-- Every row of LL refuses a lane without a valid, aligned address. -/
theorem exec_ll_refuses {r : Mk × Nat × Nat × (Ctx → List TagCheck)} (hr : r ∈ llRows) {o : Ops} {s t : State} {g : Group}
    {cl : Clause} (h : Clear s 23 r.2.1 o g cl t) :
    let c := s.ctx 23 r.2.1 o g cl
    ∀ {i : Nat}, c.tagsPass (c.needA [0, 1] ++ r.2.2.2 c) → t.rlxRefuses c = none → i ∈ c.lanes → (∀ p, ¬ atWindow t c r.2.2.1 i p) →
      exec (r.1 o) s = .next (t.raise g.id (c.trapAt .illop 0x0D)) := by
  intro c i ht hrlx hi hbad
  simp only [llRows, List.mem_append, List.mem_map] at hr
  rcases hr with (⟨q, hq, rfl⟩ | ⟨q, hq, rfl⟩) | ⟨q, hq, rfl⟩
  · exact (exec_ldl hq o s).trans (issue_trap h (by decide) (checked_llBad ht hrlx hi hbad))
  · exact (exec_stl hq o s).trans (issue_trap h (by decide) (checked_llBad ht hrlx hi hbad))
  · obtain ⟨op, hexec, -⟩ := exec_localAtomic hq
    exact (hexec o s).trans (issue_trap h (by decide) (checked_llBad ht hrlx hi hbad))

/-- Settles O32: loads, stores and atomics by their effect behind the checks, the refusal by `exec_ll_refuses`. -/
theorem localAccesses : Obligations.LocalAccesses := by
  refine ⟨fun r hr o s g cl t place h => ?_, fun r hr o s g cl t place h => ?_, fun r hr o s g cl t place h => ?_,
    fun r hr o s g cl t i h => exec_ll_refuses hr h⟩
  · intro c hp ha hw
    have hsize := size_of_ldlRow hr
    rw [Runs, exec_ldl hr, ← loadRegs_eq hsize]
    simp only [← loadReg_eq hsize]
    exact issue_ok h (ldl_reads hp ha hw)
  · intro c data hp ha hw
    have hdata : c.storeData false r.2.2 = data := c.storeData_eq false (size_of_stlRow hr)
    obtain ⟨hbody, hpath⟩ := stl_writes hp ha hw
    rw [Runs, Runs, exec_stl hr, ← hdata]
    exact ⟨fun hb => issue_ok h (hbody hb), fun hb hc => issue_ok h (hpath hb hc)⟩
  · intro c word act hp ha hw
    obtain ⟨op, hexec, hnew⟩ := exec_localAtomic hr
    have hact : act = atomicLane c place op.newInt := by rw [hnew]; rfl
    rw [Runs, hexec, hact]
    exact issue_ok h (localAtomic_acts hp ha hw)

end Sys2Proof.Machine
end

section
/-! How copies and multicasts enter the copy engine (05 R104 to R110, R113). -/
namespace Sys2Proof.Machine
open Sys2Proof.Stated

/-! ### The direction (R104) -/

theorem firstFail_eq_none {l : List (Bool × (Cause × W64))} : firstFail l = none ↔ ∀ p ∈ l, p.1 = false := by
  induction l with
  | nil => simp [firstFail]
  | cons p l ih =>
    obtain ⟨b, x⟩ := p
    cases b <;> simp [firstFail, ih]

/-- An instruction that passes step 5 of R43 carries an XMOD of its kind (R33). -/
theorem xmodBad_of_decodeChecks {pa : Nat × Nat} {c : Ctx} (h : decodeChecks pa c = none) : xmodBad c.f.xmod c.xm = false :=
  firstFail_eq_none.mp h (xmodBad c.f.xmod c.xm, illop 0x0C) (List.mem_of_getElem? (i := 13) rfl)

/-- The direction that XMOD gives. -/
def Ctx.copyDir (c : Ctx) : Dir := match c.xm % 4 with | 0 => .g2l | 1 => .l2g | _ => .l2l

section
variable {c : Ctx}

theorem Ctx.copyDir_eq (h : c.xm ≤ 2) : c.copyDir = if c.xm = 0 then .g2l else if c.xm = 1 then .l2g else .l2l := by
  unfold Ctx.copyDir
  obtain hx | hx | hx : c.xm = 0 ∨ c.xm = 1 ∨ c.xm = 2 := by omega
  all_goals rw [hx]; rfl

theorem Ctx.copyDir_ne_g2l (h : c.xm ≤ 2) : (c.copyDir != .g2l) = decide (c.xm ≠ 0) := by
  rw [Ctx.copyDir_eq h]
  split_ifs <;> simp [*]

theorem Ctx.copyDir_ne_l2g (h : c.xm ≤ 2) : (c.copyDir != .l2g) = decide (c.xm ≠ 1) := by
  rw [Ctx.copyDir_eq h]
  split_ifs <;> simp [*]

theorem Ctx.copyDir_eq_l2g (h : c.xm ≤ 2) : (c.copyDir == .l2g) = decide (c.xm = 1) := by
  rw [Ctx.copyDir_eq h]
  split_ifs <;> simp [*]

theorem Ctx.copyDir_ne_l2l (h : c.xm = 2) : (c.copyDir != .l2l) = false := by
  rw [Ctx.copyDir_eq h.le, h]
  rfl

end

/-! ### The sides of a lane (R105) -/

/-- A side of a copy lane, local or global. -/
def Ctx.side (c : Ctx) (t : State) (n : Nat) (loc : Bool) (v : W32) : Side :=
  if loc then .ofLocal (c.copyLoc t v n) else .glob (c.copyGlob v)

/-- A side that no lane may have. -/
def Ctx.sideBad (c : Ctx) (t : State) (n : Nat) (loc : Bool) (v : W32) : Bool :=
  if loc then (c.copyLoc t v n).isNone else (c.copyGlob v).toNat % n != 0

section
variable {c : Ctx} {t : State} {n : Nat} {loc : Prop} [Decidable loc] {v : W32} {x : Side}

theorem Ctx.copyLoc_of_localAt {p : Nat × Nat} (h : localAt t c.g n v.toNat p) : c.copyLoc t v n = some p :=
  (State.llPlace_natCast v.isLt).mpr h

theorem Ctx.copyGlob_eq : c.copyGlob v = c.sB + v.signExtend 64 + c.lit := rfl

/-- A stated side is the model's, and passes its check. -/
theorem side_of_sideAt (h : sideAt t c n loc v x) : c.sideBad t n loc v = false ∧ c.side t n loc v = x := by
  obtain ⟨hloc, hglob⟩ := h
  unfold Ctx.sideBad Ctx.side
  by_cases hl : loc
  · obtain ⟨p, hp, rfl⟩ := hloc hl
    rw [decide_eq_true hl, if_pos rfl, if_pos rfl, Ctx.copyLoc_of_localAt hp]
    exact ⟨rfl, rfl⟩
  · obtain ⟨hmod, rfl⟩ := hglob hl
    rw [decide_eq_false hl, if_neg Bool.false_ne_true, if_neg Bool.false_ne_true, Ctx.copyGlob_eq]
    exact ⟨bne_eq_false_iff_eq.mpr hmod, rfl⟩

end

theorem Side.window_eq : Side.window = windowOf := funext fun x => by cases x <;> rfl

/-! ### Copies (R106, R109, R113) -/

theorem bne_eq_decide_ne (a b : Nat) : (a != b) = decide (a ≠ b) := by rw [bne, beq_eq_decide, decide_not]

/-- PLACE names a tile or a cluster: the copy is remote. -/
def Ctx.remote (c : Ctx) : Bool := c.e.place.toNat / 1024 != 0

/-- One lane of the copy for each executing lane. -/
def Ctx.copyLanes (c : Ctx) (recvs : List Nat) (src dst : Nat → Side) : List CopyLane :=
  c.lanes.map fun i => { lane := i, src := src i, dst := dst i, recvs := recvs }

/-- The intervals that a copy takes: of its sources, and unless it is remote of its destinations. -/
def State.intervalsOf (t : State) (n : Nat) (remote : Bool) (lanes : List CopyLane) : List (Nat × Score) :=
  t.intervals t.nextId n false (lanes.flatMap fun l => l.src.window)
    ++ if remote then [] else t.intervals t.nextId n true (lanes.flatMap fun l => l.dst.window)

/-- What a copy does behind its checks. -/
def Ctx.enters (c : Ctx) (t : State) (n : Nat) (bar : Option (Nat × Nat)) (recvs : List Nat) (lanes : List CopyLane) : Res :=
  if !t.scoreRoom (t.intervalsOf n c.remote lanes) then .stall .resource
  else if c.remote && recvs.isEmpty then .ok t
  else .ok (({ t with nextId := t.nextId + 1 } : State).enterCopy
    { id := t.nextId, grp := c.g.id, team := c.g.team, asid := c.g.asid.toNat, vmid := c.g.vmid.toNat, dir := c.copyDir, n := n
      scope := c.e.scope.toNat, hint := c.e.hint.toNat, remote := c.remote, bar := if c.remote then none else bar
      recvBar := if c.remote then bar.map (fun b => b.2) else none, lanes := lanes } (t.intervalsOf n c.remote lanes))

/-- The lanes' sides are valid and aligned, and a remote copy's destinations are the receivers' own (R105, R109). -/
def Ctx.sidesAt (c : Ctx) (t : State) (n : Nat) (src dst : Nat → Side) : Prop :=
  ∀ i ∈ c.lanes, sideAt t c n (c.xm ≠ 0) (c.opA i) (src i) ∧ sideAt t c n (c.xm ≠ 1) (c.opDk 0 i) (dst i) ∧
    (c.remote = true → (c.opDk 0 i).toNat < 2 ^ 20)

section
variable {c : Ctx} {t : State} {n : Nat} {src dst : Nat → Side} {bar : Option (Nat × Nat)}

/-- An address below 2^20 has d = 0: a remote copy may name it. -/
theorem Ctx.remote_near {v : Nat} (h : c.remote = true → v < 2 ^ 20) : (c.remote && decide (2 ^ 20 ≤ v)) = false := by
  cases hrem : c.remote with
  | false => rfl
  | true => exact decide_eq_false (not_le.mpr (h hrem))

theorem Ctx.sidesAt_src (hx : c.xm ≤ 2) (hs : c.sidesAt t n src dst) :
    c.lanes.any (fun i => c.sideBad t n (c.copyDir != .g2l) (c.opA i)) = false := by
  rw [Ctx.copyDir_ne_g2l hx]
  exact List.any_eq_false.mpr fun i hi => Bool.not_eq_true _ ▸ (side_of_sideAt (hs i hi).1).1

theorem Ctx.sidesAt_dst (hx : c.xm ≤ 2) (hs : c.sidesAt t n src dst) :
    c.lanes.any (fun i => if c.copyDir != .l2g then (c.copyLoc t (c.opDk 0 i) n).isNone ||
      (c.remote && 2 ^ 20 ≤ (c.opDk 0 i).toNat) else (c.copyGlob (c.opDk 0 i)).toNat % n != 0) = false := by
  refine List.any_eq_false.mpr fun i hi => ?_
  obtain ⟨-, hdst, hnear⟩ := hs i hi
  have hok := (side_of_sideAt hdst).1
  rw [← Ctx.copyDir_ne_l2g hx, Ctx.sideBad] at hok
  rw [Ctx.remote_near hnear, Bool.or_false, hok]
  exact Bool.false_ne_true

/-- The lanes that the model forms are those of the stated sides. -/
theorem Ctx.sidesAt_lanes (hx : c.xm ≤ 2) (hs : c.sidesAt t n src dst) (recvs : List Nat) :
    (c.lanes.map fun i => ({ lane := i, src := c.side t n (c.copyDir != .g2l) (c.opA i)
                             dst := c.side t n (c.copyDir != .l2g) (c.opDk 0 i), recvs := recvs } : CopyLane))
      = c.copyLanes recvs src dst := by
  rw [Ctx.copyDir_ne_g2l hx, Ctx.copyDir_ne_l2g hx]
  refine List.map_congr_left fun i hi => ?_
  obtain ⟨hsrc, hdst, -⟩ := hs i hi
  rw [(side_of_sideAt hsrc).2, (side_of_sideAt hdst).2]

/-- The barrier that a copy names. -/
theorem copyBar_eq (h0 : c.fc = 0 → bar = none)
    (h1 : c.fc ≠ 0 → ∃ p, bar = some p ∧ barrierNamed t c.g c.sC p ∧ (c.remote = true → c.sC.toNat % 2 ^ 32 < 2 ^ 20)) :
    (if c.fc = 0 then none else t.barrierAt c.g c.sC) = bar ∧
      (c.fc != 0 && (bar.isNone || (c.remote && 2 ^ 20 ≤ fld c.sC 31 0))) = false := by
  have hfld : fld c.sC 31 0 = c.sC.toNat % 2 ^ 32 := by simp [fld, bits]
  by_cases hc : c.fc = 0
  · simp [hc, h0 hc]
  · obtain ⟨p, rfl, hp, hnear⟩ := h1 hc
    rw [if_neg hc, State.barrierAt_eq_some.mpr hp, hfld, Ctx.remote_near hnear]
    exact ⟨rfl, by simp⟩

/-- A copy whose checks pass enters with its lanes, their sides as stated. -/
theorem copyOp_enters (hx : c.xm ≤ 2) (hp : Passes t c (c.needA [0, 1] ++ c.needD [0, 1]) (c.remote = true ∧ c.xm ≠ 2))
    (ha : c.anyLane = true) (hs : c.sidesAt t n src dst) (hb0 : c.fc = 0 → bar = none)
    (hb1 : c.fc ≠ 0 → ∃ p, bar = some p ∧ barrierNamed t c.g c.sC p ∧ (c.remote = true → c.sC.toNat % 2 ^ 32 < 2 ^ 20))
    (hq : c.xm = 1 → t.copyEmbreq c.g n (c.lanes.map fun i => c.copyGlob (c.opDk 0 i)) = none) :
    copyOp n c t = c.enters t n bar (if c.remote then c.receivers t else [])
      (c.copyLanes (if c.remote then c.receivers t else []) src dst) := by
  obtain ⟨htags, hrlx, hrem⟩ := hp
  obtain ⟨rfl, hbar⟩ := copyBar_eq hb0 hb1
  have hdir : (c.remote && c.copyDir != .l2l) = false := by
    cases h : c.remote with
    | false => rfl
    | true => exact Ctx.copyDir_ne_l2l (by_contra fun hne => hrem ⟨h, hne⟩)
  have hemb : (if c.copyDir == .l2g then t.copyEmbreq c.g n (c.lanes.map fun i => c.copyGlob (c.opDk 0 i)) else none) = none := by
    rw [Ctx.copyDir_eq_l2g hx]
    split_ifs with h
    · exact hq (of_decide_eq_true h)
    · rfl
  rw [← Ctx.sidesAt_lanes hx hs]
  refine (checked_pass (rest := [(_, _), (_, _), (_, _), (_, _), _]) htags hrlx fun _ => ?_).trans ((if_neg (by simp [ha])).trans rfl)
  refine firstFail_eq_none.mpr ?_
  simp only [List.forall_mem_cons]
  exact ⟨hdir, Ctx.sidesAt_src hx hs, Ctx.sidesAt_dst hx hs, hbar, congrArg Option.isSome hemb, List.forall_mem_nil _⟩

end

/-- The minors of CP that copy: their meaning, and the direction that they accept. -/
theorem exec_copy {mk : Mk} {m n : Nat} (hm : (mk, m, n) ∈ ([(.cp4, 0, 4), (.cp8, 1, 8), (.cp16, 2, 16)] : List (Mk × Nat × Nat))) :
    (∀ o s, exec (mk o) s = issue 24 m o (copyOp n) s) ∧
      ∀ {o s g cl t}, Clear s 24 m o g cl t → (s.ctx 24 m o g cl).xm ≤ 2 := by
  have hdir {m : Nat} (hf : ∀ (s : State) o g cl, (s.ctx 24 m o g cl).f.xmod = .cpdir) {s : State} {o g cl t}
      (h : Clear s 24 m o g cl t) : (s.ctx 24 m o g cl).xm ≤ 2 := by
    have hx := xmodBad_of_decodeChecks h.fields
    rw [hf] at hx
    exact not_lt.mp (of_decide_eq_false hx)
  simp only [List.mem_cons, Prod.mk.injEq, List.not_mem_nil, or_false] at hm
  rcases hm with ⟨rfl, rfl, rfl⟩ | ⟨rfl, rfl, rfl⟩ | ⟨rfl, rfl, rfl⟩
  all_goals exact ⟨fun _ _ => rfl, hdir fun _ _ _ _ => rfl⟩

/-- Settles O33: behind its checks a copy is `Ctx.enters`, by the room of the scoreboards and its receivers. -/
theorem copiesEnterEngine : Obligations.CopiesEnterEngine := by
  intro mk m n hm o s g cl t src dst bar h c remote recvs lanes scores hp ha hs hb0 hb1 hq
  obtain ⟨hexec, hdir⟩ := exec_copy hm
  have hrem : remote = c.remote := (bne_eq_decide_ne _ _).symm
  have hscores : t.intervalsOf n c.remote lanes = scores := by
    rw [← hrem, State.intervalsOf, Side.window_eq]
  have hbody : copyOp n c t = c.enters t n bar recvs lanes := by
    simp only [hrem] at hp hs hb1
    exact (copyOp_enters (hdir h) hp ha hs hb0 hb1 hq).trans (by rw [← hrem]; rfl)
  unfold Ctx.enters at hbody
  rw [hscores, Ctx.copyDir_eq (hdir h), ← hrem] at hbody
  refine ⟨fun hroom hrecv => ?_, fun hroom hr hnone => ?_, fun hroom => ?_⟩
  · have hsome : ¬ (remote && recvs.isEmpty) = true := by simpa using hrecv
    exact (hexec o s).trans (issue_ok h (hbody.trans ((if_neg (by simp [hroom])).trans (if_neg hsome))))
  · have hidle : (remote && recvs.isEmpty) = true := by simp [hr, hnone]
    exact (hexec o s).trans (issue_ok h (hbody.trans ((if_neg (by simp [hroom])).trans (if_pos hidle))))
  · exact stalls_of_body (hexec o s) h (hbody.trans (if_pos (by simp [hroom])))

end Sys2Proof.Machine
end

section
/-! The acknowledged multicast, and the batches of a group's copies (05 R110 to R112, R122). -/
namespace Sys2Proof.Machine
open Sys2Proof.Stated

section
variable {c : Ctx} {t : State}

/-! ### `cpmc` (R110) -/

/-- The lanes of a multicast, within the gang. -/
def Ctx.mcLanes (c : Ctx) (recvs : List Nat) (src dst : Nat → Nat × Nat) : List CopyLane :=
  c.copyLanes recvs (fun i => .loc (src i).1 (src i).2) fun i => .loc (dst i).1 (dst i).2

/-- The sender barrier takes the bytes and acknowledgements to come, or STRAY. -/
def State.mcOwed (u : State) (snd : Nat × Nat) (lanes k : Nat) : State :=
  if u.barValid snd.1 snd.2 then
    let b := u.bar snd.1 snd.2
    (u.setBar snd.1 snd.2 { b with bytes := b.bytes + 16 * lanes * k, acks := b.acks + k }).barTest snd.1 snd.2
  else u.setStray snd.1 snd.2

/-- The state in which a multicast has entered the copy engine. -/
def Ctx.mcEntered (c : Ctx) (t : State) (src : Nat → Nat × Nat) (snd rcv : Nat × Nat) (lanes : List CopyLane) : State :=
  ({ t with nextId := t.nextId + 1 } : State).enterCopy
    { id := t.nextId, grp := c.g.id, team := c.g.team, asid := c.g.asid.toNat, vmid := c.g.vmid.toNat, dir := .l2l, n := 16
      scope := 0, hint := 0, mc := true, bar := some snd, recvBar := some rcv.2, lanes := lanes }
    (t.intervals t.nextId 16 false (c.lanes.map src))

section
variable {src dst : Nat → Nat × Nat} {snd rcv : Nat × Nat}

/-- The windows of the sources are one for each lane. -/
theorem Ctx.mcLanes_windows (c : Ctx) (recvs : List Nat) (src dst : Nat → Nat × Nat) :
    (c.mcLanes recvs src dst).flatMap (fun l => l.src.window) = c.lanes.map src := by
  rw [Ctx.mcLanes, Ctx.copyLanes, List.flatMap_map]
  exact List.flatMap_pure_eq_map src c.lanes

/-- The offset of a lane's destination, the literal added. -/
theorem mcOffset_of {d : W32} {p : Nat × Nat} (h : ∃ v : Nat, (v : Int) = d.toNat + c.lit.toInt ∧ v < 2 ^ 20 ∧ localAt t c.g 16 v p) :
    t.llPlace c.g (d.toNat + s64 c.lit) 16 = some p ∧ ¬ (2 ^ 20 : Int) ≤ d.toNat + s64 c.lit := by
  obtain ⟨v, hv, hlt, hp⟩ := h
  rw [s64, ← hv]
  exact ⟨(State.llPlace_natCast (by omega)).mpr hp, by omega⟩

/-- A multicast behind its checks (R110, R122). -/
theorem cpmc_enters (hp : Passes t c (c.needA [0, 1] ++ c.needD [0, 1]) (c.e.place.toNat / 1024 = 0 ∨ c.fc = 0))
    (hl : ∀ i ∈ c.lanes, localAt t c.g 16 (c.opA i).toNat (src i) ∧
      ∃ v : Nat, (v : Int) = (c.opDk 0 i).toNat + c.lit.toInt ∧ v < 2 ^ 20 ∧ localAt t c.g 16 v (dst i))
    (hsnd : barrierNamed t c.g c.sB snd) (hrcv : barrierNamed t c.g c.sC rcv) (hfar : c.sC.toNat % 2 ^ 32 < 2 ^ 20) :
    cpmc c t = if !c.anyLane || (c.receivers t).length = 0 then .ok t
      else if !t.scoreRoom (t.intervals t.nextId 16 false (c.lanes.map src)) then .stall .resource
      else .ok ((c.mcEntered t src snd rcv (c.mcLanes (c.receivers t) src dst)).mcOwed snd
        (c.mcLanes (c.receivers t) src dst).length (c.receivers t).length) := by
  obtain ⟨htags, hrlx, hbad⟩ := hp
  have hsrc := fun i hi => Ctx.copyLoc_of_localAt (hl i hi).1
  have hdst := fun i hi => mcOffset_of (hl i hi).2
  have hlanes : (c.lanes.map fun i => ({ lane := i, src := .ofLocal (c.copyLoc t (c.opA i) 16)
                                         dst := .ofLocal (t.llPlace c.g ((c.opDk 0 i).toNat + s64 c.lit) 16)
                                         recvs := c.receivers t } : CopyLane)) = c.mcLanes (c.receivers t) src dst :=
    List.map_congr_left fun i hi => by rw [hsrc i hi, (hdst i hi).1]; rfl
  have hany : c.lanes.any (fun i => (c.copyLoc t (c.opA i) 16).isNone ||
      (t.llPlace c.g ((c.opDk 0 i).toNat + s64 c.lit) 16).isNone || decide ((2 ^ 20 : Int) ≤ (c.opDk 0 i).toNat + s64 c.lit)) = false :=
    List.any_eq_false.mpr fun i hi => by rw [hsrc i hi, (hdst i hi).1, decide_eq_false (hdst i hi).2]; simp
  have hplace : (decide (c.e.place.toNat / 1024 = 0) || decide (c.fc = 0)) = false := by simpa using hbad
  have hnear : ((some snd).isNone || (some rcv).isNone || decide (2 ^ 20 ≤ fld c.sC 31 0)) = false := by
    have hfld : fld c.sC 31 0 = c.sC.toNat % 2 ^ 32 := by simp [fld, bits]
    rw [hfld, decide_eq_false (not_le.mpr hfar)]
    rfl
  unfold cpmc
  rw [State.barrierAt_eq_some.mpr hsnd, State.barrierAt_eq_some.mpr hrcv]
  refine (checked_pass (tags := c.needA intTags ++ c.needD intTags) htags hrlx fun _ => ?_).trans ?_
  · refine firstFail_eq_none.mpr ?_
    simp only [List.forall_mem_cons]
    exact ⟨hplace, hany, hnear, List.forall_mem_nil _⟩
  · dsimp only
    rw [hlanes, Ctx.mcLanes_windows]
    rfl

end

/-! ### Batches (R111, R112) -/

/-- `cpseal` below 16 unfinished batches closes the open one (R111). -/
theorem cpseal_closes (hr : t.rlxRefuses c = none) (h : (t.unfinished c.g.id).length < 16) :
    cpseal c t = c.once t (.ok (t.closeBatch c.g (c.g.sref c.fd))) := by
  refine (rlxGate_pass hr).trans ?_
  dsimp only
  rw [if_neg (not_le.mpr h)]

/-- At 16 it is held (R111). -/
theorem cpseal_held (hr : t.rlxRefuses c = none) (ha : c.anyLane = true) (h : 16 ≤ (t.unfinished c.g.id).length) :
    cpseal c t = .stay (t.onGroup c.g.id fun h => { h with hold := .batches 15 (some (c.g.sref c.fd)) c.words, stall := none }) :=
  (rlxGate_pass hr).trans ((once_of_anyLane ha).trans (if_pos h))

/-- Closing a batch: its copies take the group's next number, the scalar too, and the group counts on (R111). -/
theorem Ctx.closeBatch_eq (c : Ctx) (t : State) : t.closeBatch c.g (c.g.sref c.fd) =
    (c.putS { t with copies := t.copies.map fun k =>
        if k.grp = c.g.id ∧ k.batch = none then { k with batch := some c.g.nextBatch } else k } (BitVec.ofNat 64 c.g.nextBatch)).onGroup
      c.g.id fun h => { h with nextBatch := (c.g.nextBatch + 1) % 2 ^ 16 } := by
  rw [Ctx.putS, Ctx.upd, onGroup_onGroup fun h => Group.setSval_id h _ _]
  simp only [State.closeBatch, Bool.and_eq_true, beq_iff_eq, Option.isNone_iff_eq_none, w64]

/-- At most `n` batches are unfinished, or the number asks for no wait (R112). -/
def Ctx.fewBatches (c : Ctx) (t : State) : Bool := (t.unfinished c.g.id).length ≤ c.sAl.toNat || 16 ≤ c.sAl.toNat

/-- `cpwait` behind the gate (R112). -/
theorem cpwait_eq (hr : t.rlxRefuses c = none) : cpwait c t = c.once t
    (if c.e.nb then .ok (c.putP t c.e.nbp.toNat (if c.fewBatches t then c.act else 0))
     else if c.fewBatches t then .ok t
     else .stay (t.onGroup c.g.id fun h => { h with hold := .batches c.sAl.toNat none c.words, stall := none })) :=
  rlxGate_pass hr

theorem Ctx.fewBatches_iff : c.fewBatches t = true ↔ (t.unfinished c.g.id).length ≤ c.sAl.toNat ∨ 16 ≤ c.sAl.toNat := by
  simp [Ctx.fewBatches]

end

/-- Settles O34: `cpmc` by its receivers, its room and its sender barrier, `cpseal` and `cpwait` by the count of unfinished batches. -/
theorem multicastsAndBatches : Obligations.MulticastsAndBatches := by
  refine ⟨fun o s g cl t src dst snd rcv h => ?_, fun o s g cl t h => ?_, fun o s g cl t h => ?_⟩
  · intro c recvs lanes scores hp hl hsnd hrcv hfar
    have hbody := cpmc_enters hp hl hsnd hrcv hfar
    refine ⟨fun hidle => ?_, fun ha hrecv hroom => ?_⟩
    · exact issue_ok h (hbody.trans (if_pos (by simpa using hidle)))
    · have hsome : ¬ (!c.anyLane || decide ((c.receivers t).length = 0)) = true := by simpa [ha] using hrecv
      have hroom : ¬ (!t.scoreRoom scores) = true := by simp [hroom]
      have henters := issue_ok (body := cpmc) h (hbody.trans ((if_neg hsome).trans (if_neg hroom)))
      intro u b
      have hu : c.mcEntered t src snd rcv (c.mcLanes recvs src dst) = u := rfl
      rw [hu] at henters
      refine ⟨fun hv => ?_, fun hv => ?_⟩
      · rwa [State.mcOwed, if_pos hv] at henters
      · rwa [State.mcOwed, if_neg (by simp [hv])] at henters
  · intro c hr
    refine ⟨fun hlt => ?_, fun hge ha => issue_stay h (cpseal_held hr ha hge)⟩
    exact issue_once h (cpseal_closes hr hlt) fun _ => congrArg Res.ok (Ctx.closeBatch_eq c t)
  · intro c done hr
    have hdone : c.fewBatches t = true ↔ done := Ctx.fewBatches_iff
    have hbody := cpwait_eq hr
    refine ⟨fun hnb => ⟨fun hd => ?_, fun hd => ?_⟩, fun hnb => ⟨fun hd => ?_, fun hd ha => ?_⟩⟩
    · exact issue_once h hbody fun _ => (if_pos hnb).trans (by rw [if_pos (hdone.mpr hd)])
    · exact issue_once h hbody fun _ => (if_pos hnb).trans (by rw [if_neg (hdone.not.mpr hd)])
    · refine issue_ok h (hbody.trans ?_)
      rw [if_neg (by simp [hnb]), if_pos (hdone.mpr hd)]
      exact ite_self _
    · have hwait : ¬ c.e.nb = true := by simp [hnb]
      exact issue_stay h (hbody.trans ((once_of_anyLane ha).trans ((if_neg hwait).trans (if_neg (hdone.not.mpr hd)))))

end Sys2Proof.Machine
end

section
/-! Barrier objects: the checks that every BA instruction makes, and what each of them does behind these (05 R115 to R126). -/
namespace Sys2Proof.Machine
open Sys2Proof.Stated

section
variable {c : Ctx} {t : State} {p : Nat × Nat} {more : List (Bool × (Cause × W64))} {f : Nat → Nat → Nat → Res}

/-! ### The object that a scalar names (R119) -/

/-- Bits [21:20] of the scalar: the place of the team that it names (R97, R126). -/
def Ctx.placeA (c : Ctx) : Nat := fld c.sA 21 20

theorem Ctx.placeA_eq (c : Ctx) : c.placeA = c.sA.toNat / 2 ^ 20 % 4 := by
  simp [Ctx.placeA, fld, bits, Nat.shiftRight_eq_div_pow]

/-- A BA instruction on a named object: its checks, then its effect, once. -/
theorem onBarrier_named (hr : t.rlxRefuses c = none) (hp : barrierNamed t c.g c.sA p) :
    onBarrier c t more f = c.once t (c.guarded more (f p.1 p.2 c.placeA)) := by
  refine (rlxGate_pass hr).trans ?_
  rw [State.barrierAt_eq_some.mpr hp]
  rfl

/-- Without a named object: ILLOP 0x0D (R119). -/
theorem onBarrier_unnamed (hr : t.rlxRefuses c = none) (ha : c.anyLane = true) (h : ∀ p, ¬ barrierNamed t c.g c.sA p) :
    onBarrier c t more f = .trap .illop 0x0D := by
  have hnone : t.barrierAt c.g c.sA = none :=
    Option.eq_none_iff_forall_ne_some.mpr fun p hp => h p (State.barrierAt_eq_some.mp hp)
  refine (rlxGate_pass hr).trans ((once_of_anyLane ha).trans ?_)
  rw [hnone]
  rfl

/-- What BARBUSY reports of a named object (R126). -/
theorem barbusy_placeA (c : Ctx) (reason off : Nat) : barbusy c.placeA reason off =
    (.barbusy, BitVec.ofNat 64 (off + reason * 2 ^ 20 + c.sA.toNat / 2 ^ 20 % 4 * 2 ^ 24)) := by
  rw [barbusy, Ctx.placeA_eq]
  rfl

/-- The check that refuses an object that is not valid (R119). -/
theorem guarded_invalid {rest : List (Bool × (Cause × W64))} {r : Res} (ha : c.anyLane = true) (hv : t.barValid p.1 p.2 = false) :
    c.guarded ((!t.barValid p.1 p.2, barbusy c.placeA 2 p.2) :: rest) r
      = .trap .barbusy (BitVec.ofNat 64 (p.2 + 2 * 2 ^ 20 + c.sA.toNat / 2 ^ 20 % 4 * 2 ^ 24)) := by
  rw [barbusy_placeA, hv]
  exact guarded_fail (p := (.barbusy, _)) ha rfl

/-- The check of a valid object passes. -/
theorem guarded_valid {d : Nat} {rest : List (Bool × (Cause × W64))} {r : Res} (hv : t.barValid p.1 p.2 = true) :
    c.guarded ((!t.barValid p.1 p.2, barbusy d 2 p.2) :: rest) r = c.guarded rest r := by
  rw [hv]
  rfl

/-- One check that passes. -/
theorem guarded_one {b : Bool} {x : Cause × W64} {r : Res} (h : b = false) : c.guarded [(b, x)] r = r :=
  guarded_pass fun _ => by rw [h]; rfl

theorem guarded_nil {r : Res} : c.guarded [] r = r := guarded_pass fun _ => rfl

end

/-! ### `binit` (R119, R121) -/

section
variable {c : Ctx} {t : State} {p : Nat × Nat}

/-- The words of a new object: V, and the arrivals that it expects (R115). -/
theorem State.setBar_new (s : State) (team off : Nat) {n : Nat} (hn : n < 65536) :
    s.setBar team off { phase := 0, expect := n, arrived := 0, waiters := false, stray := false, acks := 0, bytes := 0 }
      = s.setBarWords team off (BitVec.ofNat 64 (n * 2 ^ 32 + 1), 0) := by
  have hmod : n % 65536 = n := Nat.mod_eq_of_lt hn
  simp [State.setBar, hmod, w64]

/-- No more than 127 objects are valid on the tile of a team (R116). -/
theorem binit_room (h : ∀ tm, t.team? p.1 = some tm → (t.tile (t.teamTile tm)).bars.length < 128) :
    (match t.team? p.1 with | some tm => (t.tile (t.teamTile tm)).bars.length | none => 0) < 128 := by
  cases ht : t.team? p.1 with
  | none => exact Nat.zero_lt_succ _
  | some tm => exact h tm ht

theorem binit_makes (hr : t.rlxRefuses c = none) (hp : barrierNamed t c.g c.sA p) (h0 : 0 < c.sBl.toNat) (hn : c.sBl.toNat < 65536)
    (hnamed : t.copyNames p.1 p.2 = false)
    (hidle : t.barValid p.1 p.2 = true → (t.bar p.1 p.2).waiters = false ∧ (t.bar p.1 p.2).bytes = 0 ∧ (t.bar p.1 p.2).acks = 0)
    (hroom : t.barValid p.1 p.2 = false → ∀ tm, t.team? p.1 = some tm → (t.tile (t.teamTile tm)).bars.length < 128) :
    binit c t = c.once t (.ok ((t.setBarriers p.1 ((t.barriersOf p.1).filter (· ≠ p.2) ++ [p.2])).setBarWords p.1 p.2
      (BitVec.ofNat 64 (c.sBl.toNat * 2 ^ 32 + 1), 0))) := by
  have hcount : (decide (c.sBl.toNat = 0) || decide (65535 < c.sBl.toNat)) = false := by
    simp only [Bool.or_eq_false_iff, decide_eq_false_iff_not]
    omega
  rw [binit, onBarrier_named hr hp, guarded_one hcount, ← State.setBar_new _ _ _ hn]
  refine congrArg (c.once t) ((guarded_pass fun _ => ?_).trans ?_)
  · refine firstFail_eq_none.mpr ?_
    simp only [List.forall_mem_cons]
    refine ⟨?_, ?_, List.forall_mem_nil _⟩
    · cases hv : t.barValid p.1 p.2 with
      | false => simp [hnamed]
      | true =>
        obtain ⟨hw, hb, hk⟩ := hidle hv
        simp [hnamed, hw, hb, hk]
    · cases hv : t.barValid p.1 p.2 with
      | false => exact decide_eq_false (not_le.mpr (binit_room (hroom hv)))
      | true => rfl
  · simp only [bne_eq_decide_ne]

/-! ### Arrivals and bytes (R118, R119) -/

theorem barrive_valid (hr : t.rlxRefuses c = none) (hp : barrierNamed t c.g c.sA p) (hv : t.barValid p.1 p.2 = true)
    (ha : (t.bar p.1 p.2).arrived < (t.bar p.1 p.2).expect) :
    barrive c t = c.once t (c.afterRelease t 2
      (.ok ((t.setBar p.1 p.2 { t.bar p.1 p.2 with arrived := (t.bar p.1 p.2).arrived + 1 }).barTest p.1 p.2))) := by
  refine (onBarrier_named hr hp).trans (congrArg (c.once t) ?_)
  rw [guarded_nil]
  exact (guarded_valid hv).trans (guarded_one (decide_eq_false (not_le.mpr ha)))

/-- A number of bytes that `bexpect` takes. -/
theorem bexpect_count {n : Nat} (h0 : 0 < n) (hn : n < 2 ^ 31) : (decide (n = 0) || decide (2 ^ 31 ≤ n)) = false := by
  rw [decide_eq_false h0.ne', decide_eq_false (not_le.mpr hn)]
  rfl

theorem bexpect_valid (hr : t.rlxRefuses c = none) (hp : barrierNamed t c.g c.sA p) (hv : t.barValid p.1 p.2 = true)
    (h0 : 0 < c.sBl.toNat) (hn : c.sBl.toNat < 2 ^ 31) (hb : (t.bar p.1 p.2).bytes + c.sBl.toNat < 2 ^ 31) :
    bexpect c t = c.once t
      (.ok ((t.setBar p.1 p.2 { t.bar p.1 p.2 with bytes := (t.bar p.1 p.2).bytes + c.sBl.toNat }).barTest p.1 p.2)) := by
  rw [bexpect, onBarrier_named hr hp, guarded_one (bexpect_count h0 hn), guarded_valid hv, guarded_one (decide_eq_false (not_le.mpr hb))]

/-! ### The phase (R120) -/

theorem barrierPoll_eq {wait : Bool} (hr : t.rlxRefuses c = none) (hp : barrierNamed t c.g c.sA p) : barrierPoll wait c t = c.once t
    (if !t.barValid p.1 p.2 then .ok (c.putP t c.fd 0)
     else if (t.bar p.1 p.2).phase != c.sB.toNat % 2 ^ 16 then .ok ((c.putP t c.fd c.act).acquireAt c.g 2)
     else if wait then
       .stay ((t.setBar p.1 p.2 { t.bar p.1 p.2 with waiters := true }).onGroup c.g.id fun h =>
         { h with hold := .bwait p.1 p.2 (c.g.pref c.fd) c.act c.words, stall := none })
     else .ok (c.putP t c.fd 0)) := by
  have hfld : fld c.sB 15 0 = c.sB.toNat % 2 ^ 16 := by simp [fld, bits]
  refine (onBarrier_named hr hp).trans (congrArg (c.once t) (guarded_nil.trans ?_))
  rw [hfld]

/-! ### `binval` and `back` (R121, R122) -/

theorem binval_valid (hr : t.rlxRefuses c = none) (hp : barrierNamed t c.g c.sA p) (hv : t.barValid p.1 p.2 = true) :
    let u := t.setBarWords p.1 p.2 ((t.barWords p.1 p.2).1 &&& 0xFFFFFFFFFFFFFFFA#64, (t.barWords p.1 p.2).2)
    binval c t = c.once t (.ok ((u.setBarriers p.1 ((u.barriersOf p.1).filter (· ≠ p.2))).releaseWaiters p.1 p.2 false)) := by
  refine (onBarrier_named hr hp).trans (congrArg (c.once t) (guarded_nil.trans ((guarded_valid hv).trans (guarded_nil.trans ?_))))
  have hmask : ~~~5#64 = 0xFFFFFFFFFFFFFFFA#64 := by decide
  simp only [bne_eq_decide_ne, hmask]

/-- The entries of the acknowledgement table that are for a receiver barrier. -/
def AckEntry.isFor (p : Nat × Nat) (e : AckEntry) : Bool := e.recvTeam = p.1 ∧ e.recvOff = p.2

theorem back_valid {tm : Team} (hr : t.rlxRefuses c = none) (hp : barrierNamed t c.g c.sA p) (hv : t.barValid p.1 p.2 = true)
    (ht : t.team? p.1 = some tm) :
    let tile := t.tile (t.teamTile tm)
    back c t = c.once t (.ok { t.setTile (t.teamTile tm) { tile with acks := tile.acks.filter fun e => !e.isFor p } with
      acks := t.acks ++ (tile.acks.filter (AckEntry.isFor p)).map fun e => { team := e.sendTeam, off := e.sendOff, count := e.count } }) := by
  have hfor : AckEntry.isFor p = fun e => e.recvTeam == p.1 && e.recvOff == p.2 := funext fun e => by
    simp only [AckEntry.isFor, Bool.decide_and, beq_eq_decide]
  refine (onBarrier_named hr hp).trans (congrArg (c.once t) (guarded_nil.trans ((guarded_valid hv).trans (guarded_nil.trans ?_))))
  rw [ht, hfor]

end

/-- Settles O35: each instruction by its effect on a named object, once, behind the checks that pass. -/
theorem barrierObjects : Obligations.BarrierObjects := by
  refine ⟨fun o s g cl t p h => ?_, fun o s g cl t p h => ?_, fun o s g cl t p h => ?_, fun mk m hm o s g cl t p h => ?_,
    fun o s g cl t p h => ?_, fun o s g cl t p tm h => ?_⟩
  · intro c n hr hp h0 hn hnamed hidle hroom
    exact issue_once h (binit_makes hr hp h0 hn hnamed hidle hroom) fun _ => rfl
  · intro c b hr hp hv harr
    have hbody := barrive_valid hr hp hv harr
    refine ⟨fun hrel => issue_once h hbody fun _ => if_pos hrel, fun hrel ha => ?_⟩
    exact stalls_of_body rfl h (hbody.trans ((once_of_anyLane ha).trans (if_neg (by rw [show c.g = g from rfl, hrel]; decide))))
  · intro c b n hr hp hv h0 hn hb
    exact issue_once h (bexpect_valid hr hp hv h0 hn hb) fun _ => rfl
  · intro c b hr hp
    have hexec : exec (mk o) s = issue 25 m o (barrierPoll (m == 3)) s := by
      simp only [List.mem_cons, Prod.mk.injEq, List.not_mem_nil, or_false] at hm
      rcases hm with ⟨rfl, rfl⟩ | ⟨rfl, rfl⟩ <;> rfl
    have hbody := barrierPoll_eq (wait := m == 3) hr hp
    refine ⟨fun hv => ?_, fun hv hph => ?_, fun hv hph ha => ?_⟩
    · exact hexec.trans (issue_once h hbody fun _ => if_pos (by rw [hv]; rfl))
    · exact hexec.trans (issue_once h hbody fun _ => (if_neg (by rw [hv]; decide)).trans (if_pos (bne_iff_ne.mpr hph)))
    · have hsame : ¬ (b.phase != c.sB.toNat % 2 ^ 16) = true := by rw [bne_iff_ne, not_not]; exact hph
      have hcur := hbody.trans ((once_of_anyLane ha).trans ((if_neg (by rw [hv]; decide)).trans (if_neg hsame)))
      refine ⟨fun h4 => ?_, fun h3 => ?_⟩
      · exact hexec.trans (issue_ok h (hcur.trans (if_neg (by rw [h4]; decide))))
      · exact hexec.trans (issue_stay h (hcur.trans (if_pos (by rw [h3]; rfl))))
  · intro c w hr hp hv
    exact issue_once h (binval_valid hr hp hv) fun _ => rfl
  · intro c tile mine hr hp hv ht
    exact issue_once h (back_valid hr hp hv ht) fun _ => rfl

end Sys2Proof.Machine
end

section
/-! Where BA instructions trap, and the team barrier (05 R116, R119, R123, R124, R126). -/
namespace Sys2Proof.Machine
open Sys2Proof.Stated

section
variable {c : Ctx} {t : State} {p : Nat × Nat}

/-! ### Traps of a BA instruction (R119, R126) -/

/-- An instruction that needs a valid object, on one that is not: BARBUSY with reason 2. -/
theorem onBarrier_invalid {more rest : List (Bool × (Cause × W64))} {f : Nat → Nat → Nat → Res} {r : Res} (hr : t.rlxRefuses c = none)
    (ha : c.anyLane = true) (hp : barrierNamed t c.g c.sA p) (hv : t.barValid p.1 p.2 = false) (hm : firstFail more = none)
    (hf : f p.1 p.2 c.placeA = c.guarded ((!t.barValid p.1 p.2, barbusy c.placeA 2 p.2) :: rest) r) :
    onBarrier c t more f = .trap .barbusy (BitVec.ofNat 64 (p.2 + 2 * 2 ^ 20 + c.sA.toNat / 2 ^ 20 % 4 * 2 ^ 24)) := by
  rw [onBarrier_named hr hp, once_of_anyLane ha, guarded_pass fun _ => hm, hf, guarded_invalid ha hv]

/-- An arrival beyond the expected count: BARBUSY with reason 5. -/
theorem barrive_beyond (hr : t.rlxRefuses c = none) (ha : c.anyLane = true) (hp : barrierNamed t c.g c.sA p)
    (hv : t.barValid p.1 p.2 = true) (h : (t.bar p.1 p.2).expect ≤ (t.bar p.1 p.2).arrived) :
    barrive c t = .trap .barbusy (BitVec.ofNat 64 (p.2 + 5 * 2 ^ 20 + c.sA.toNat / 2 ^ 20 % 4 * 2 ^ 24)) := by
  rw [barrive, onBarrier_named hr hp, once_of_anyLane ha, guarded_nil, guarded_valid hv, barbusy_placeA, decide_eq_true h]
  exact guarded_fail (p := (.barbusy, _)) ha rfl

/-- The minors of BA that name an object all find it in the same way. -/
theorem exec_onBarrier {mk : Mk} {m : Nat} (hm : (mk, m) ∈ ([(.binit, 0), (.barrive, 1), (.bexpect, 2), (.bwait, 3), (.btest, 4),
    (.binval, 5), (.back, 7)] : List (Mk × Nat))) :
    ∃ body : Ctx → State → Res, (∀ o s, exec (mk o) s = issue 25 m o body s) ∧ ∀ c t, ∃ more f, body c t = onBarrier c t more f := by
  simp only [List.mem_cons, Prod.mk.injEq, List.not_mem_nil, or_false] at hm
  rcases hm with ⟨rfl, rfl⟩ | ⟨rfl, rfl⟩ | ⟨rfl, rfl⟩ | ⟨rfl, rfl⟩ | ⟨rfl, rfl⟩ | ⟨rfl, rfl⟩ | ⟨rfl, rfl⟩
  · exact ⟨binit, fun _ _ => rfl, fun _ _ => ⟨_, _, by rw [binit]⟩⟩
  · exact ⟨barrive, fun _ _ => rfl, fun _ _ => ⟨_, _, rfl⟩⟩
  · exact ⟨bexpect, fun _ _ => rfl, fun _ _ => ⟨_, _, by rw [bexpect]⟩⟩
  · exact ⟨barrierPoll true, fun _ _ => rfl, fun _ _ => ⟨_, _, rfl⟩⟩
  · exact ⟨barrierPoll false, fun _ _ => rfl, fun _ _ => ⟨_, _, rfl⟩⟩
  · exact ⟨binval, fun _ _ => rfl, fun _ _ => ⟨_, _, rfl⟩⟩
  · exact ⟨back, fun _ _ => rfl, fun _ _ => ⟨_, _, rfl⟩⟩

/-! ### The team barrier (R123) -/

/-- The group counts as arrived and is held, and the last one lets all go on. -/
def State.arriveTeam (t : State) (c : Ctx) (tm : Team) : State :=
  ((t.setTeam { tm with arrived := tm.arrived.filter (· ≠ c.g.id) ++ [c.g.id] }).onGroup c.g.id fun h =>
    { h with hold := .bteam c.words, stall := none }).bteamCheck tm.id

theorem bteam_eq {tm : Team} (hr : t.rlxRefuses c = none) (ht : t.teamOf c.g = some tm) (ha : c.anyLane = true) :
    bteam c t = c.afterRelease t 1 (.stay (t.arriveTeam c tm)) := by
  rw [bteam, rlxGate_pass hr, once_of_anyLane ha, ht]
  simp only [bne_eq_decide_ne, State.arriveTeam]

end

/-- Settles O36: the traps by the object that is not named, not valid or full, `bteam` by what its release waits for. -/
theorem barrierErrorsAndTeamBarrier : Obligations.BarrierErrorsAndTeamBarrier := by
  refine ⟨⟨fun mk m hm o s g cl t h => ?_, fun mk m hm o s g cl t p h => ?_, fun o s g cl t p h => ?_⟩, fun o s g cl t tm h => ?_⟩
  · intro c hr ha hnone
    obtain ⟨body, hexec, hbody⟩ := exec_onBarrier hm
    obtain ⟨more, f, hbody⟩ := hbody c t
    exact (hexec o s).trans (issue_trap h (by decide) (hbody.trans (onBarrier_unnamed hr ha hnone)))
  · intro c hr ha hp hn hv
    simp only [List.mem_cons, Prod.mk.injEq, List.not_mem_nil, or_false] at hm
    rcases hm with ⟨rfl, rfl⟩ | ⟨rfl, rfl⟩ | ⟨rfl, rfl⟩ | ⟨rfl, rfl⟩
    · exact issue_trap (body := barrive) h (by decide) (onBarrier_invalid hr ha hp hv rfl rfl)
    · have hcount := bexpect_count (hn rfl).1 (hn rfl).2
      refine issue_trap (body := bexpect) h (by decide) ?_
      rw [bexpect, hcount]
      exact onBarrier_invalid hr ha hp hv rfl rfl
    · exact issue_trap (body := binval) h (by decide) (onBarrier_invalid hr ha hp hv rfl rfl)
    · exact issue_trap (body := back) h (by decide) (onBarrier_invalid hr ha hp hv rfl rfl)
  · intro c hr ha hp hv hfull
    exact issue_trap h (by decide) (barrive_beyond hr ha hp hv hfull)
  · intro c hr ht ha
    have hbody := bteam_eq hr ht ha
    refine ⟨fun hrel => issue_stay h (hbody.trans (if_pos hrel)), fun hrel => ?_⟩
    exact stalls_of_body rfl h (hbody.trans (if_neg (by rw [show c.g = g from rfl, hrel]; decide)))

end Sys2Proof.Machine
end

section
/-! Lane exchange, predicate logic and moves: their checks, and the lanes and scalars that each form writes (06 R143, R147 to R149). -/
namespace Sys2Proof.Machine
open Sys2Proof.Stated

/-! ### Executing lanes -/

section
variable {c : Ctx} {i : Nat}

theorem Ctx.mem_lanes : i ∈ c.lanes ↔ i < c.w ∧ c.act.getLsbD i = true := by
  simp [Ctx.lanes, lanesOf]

theorem Ctx.lane_lt (h : i ∈ c.lanes) : i < 64 := BitVec.lt_of_getLsbD (Ctx.mem_lanes.mp h).2

theorem Ctx.anyLane_iff : c.anyLane = true ↔ c.lanes ≠ [] := by
  simp [Ctx.anyLane]

theorem Ctx.lanes_of_idle (h : c.anyLane = false) : c.lanes = [] := by
  simpa [Ctx.anyLane] using h

theorem Ctx.onceDo_of_anyLane {t u : State} (h : c.anyLane = true) : c.onceDo t u = u := by
  simp [Ctx.onceDo, h]

theorem Ctx.onceDo_of_idle {t u : State} (h : c.anyLane = false) : c.onceDo t u = t := by
  simp [Ctx.onceDo, h]

theorem Ctx.length_lanes_le (c : Ctx) : c.lanes.length ≤ 64 := by
  have hsub : c.lanes ⊆ List.range 64 := fun _ h => List.mem_range.mpr (Ctx.lane_lt h)
  have hnodup : c.lanes.Nodup := c.lanes_pairwise.imp fun h => Nat.ne_of_lt h
  simpa using (List.subperm_of_subset hnodup hsub).length_le

end

/-! ### Vector and scalar forms behind their checks -/

section
variable {c : Ctx} {t : State} {tags : Ctx → List TagCheck} {bad : Ctx → Bool}

/-- One operand check behind tags and gate that pass. -/
theorem checked_one {l : List TagCheck} {b : Bool} {x : Cause × W64} {r : Res} (hp : Passes t c l (b = true)) :
    checked c t l [(b, x)] r = r := by
  obtain ⟨ht, hr, hb⟩ := hp
  exact checked_pass ht hr fun _ => by simp [firstFail, hb]

theorem xlVec_pass {tag : Ctx → BitVec 4} {f : Ctx → Nat → W32} (hp : Passes t c (tags c) (bad c = true)) :
    xlVec tags bad tag f c t = .ok (c.putV t 0 (f c) (tag c)) := checked_one hp

theorem xlVec_refuses {tag : Ctx → BitVec 4} {f : Ctx → Nat → W32} (ht : c.tagsPass (tags c)) (hr : t.rlxRefuses c = none)
    (hb : bad c = true) (ha : c.anyLane = true) : xlVec tags bad tag f c t = .trap .illop 0x0D := by
  rw [xlVec, hb]
  exact checked_refuses ht hr ha

theorem xlScal_pass {f : Ctx → W64} (hp : Passes t c (tags c) (bad c = true)) :
    xlScal tags bad f c t = .ok (c.onceDo t (c.putS t (f c))) := (checked_one hp).trans (once_ok c t _)

end

/-! ### The lanes of the vector forms -/

/-- Two halves in one register. -/
theorem loHalf_append_hiHalf (x y : W32) :
    loHalf x ++ hiHalf y = BitVec.ofNat 32 (y.toNat / 2 ^ 16 + x.toNat % 2 ^ 16 * 2 ^ 16) := by
  have hy := y.isLt
  apply BitVec.eq_of_toNat_eq
  rw [BitVec.toNat_append, ← Nat.shiftLeft_add_eq_or_of_lt (hiHalf y).isLt]
  simp only [loHalf, hiHalf, BitVec.extractLsb'_toNat, BitVec.toNat_ofNat, Nat.shiftLeft_eq, Nat.shiftRight_eq_div_pow]
  omega

/-- A sum of registers wraps as the sum of the integers does. -/
theorem foldl_add_eq_ofInt (f : Nat → W32) (l : List Nat) :
    l.foldl (fun x j => x + f j) 0 = BitVec.ofInt 32 (l.map fun j => (f j).toInt).sum := by
  have key (x : W32) : l.foldl (fun x j => x + f j) x = x + BitVec.ofInt 32 (l.map fun j => (f j).toInt).sum := by
    induction l generalizing x with
    | nil => simp
    | cons j l ih => simp [ih, BitVec.ofInt_add, add_assoc]
  simpa using key 0

theorem never_iff (c : Ctx) : never c = true ↔ False := Bool.false_eq_true.to_iff

/-- Each vector form is `xlVec` of its row: the tags, what is out of range, the result's tag and its lanes. -/
theorem exec_laneVec {r : Mk × Nat × Nat × (Ctx → List TagCheck) × (Ctx → Prop) × (Ctx → BitVec 4) × (Ctx → Nat → W32)}
    (hr : r ∈ laneVec) : ∃ bad : Ctx → Bool, (∀ c, bad c = true ↔ r.2.2.2.2.1 c) ∧
      ∀ o s, exec (r.1 o) s = issue r.2.1 r.2.2.1 o (xlVec r.2.2.2.1 bad r.2.2.2.2.2.1 r.2.2.2.2.2.2) s := by
  simp only [laneVec, List.mem_cons, List.not_mem_nil, or_false] at hr
  rcases hr with rfl | rfl | rfl | rfl | rfl | rfl | rfl | rfl | rfl | rfl | rfl
  · exact ⟨never, never_iff, fun _ _ => rfl⟩
  · exact ⟨fun c => c.w ≤ c.fc, fun _ => decide_eq_true_iff, fun _ _ => rfl⟩
  · exact ⟨fun c => c.w ≤ c.fc, fun _ => decide_eq_true_iff, fun _ _ => rfl⟩
  · exact ⟨never, never_iff, fun o s => by simp only [← loHalf_append_hiHalf]; rfl⟩
  · exact ⟨never, never_iff, fun o s => by simp only [← loHalf_append_hiHalf]; rfl⟩
  · exact ⟨never, never_iff, fun _ _ => rfl⟩
  · exact ⟨never, never_iff, fun o s => by simp only [← foldl_add_eq_ofInt]; rfl⟩
  · exact ⟨never, never_iff, fun _ _ => rfl⟩
  · exact ⟨never, never_iff, fun _ _ => rfl⟩
  · exact ⟨never, never_iff, fun _ _ => rfl⟩
  · exact ⟨never, never_iff, fun _ _ => rfl⟩

/-! ### The values of the scalar forms -/

/-- The bits of a word gathered from a list, each entry where its condition holds. -/
theorem foldl_or_getLsbD (p : Nat → Prop) [DecidablePred p] (f : Nat → W64) (l : List Nat) (i : Nat) :
    (l.foldl (fun x m => if p m then x ||| f m else x) 0).getLsbD i = true ↔ ∃ m ∈ l, p m ∧ (f m).getLsbD i = true := by
  have key (x : W64) : (l.foldl (fun x m => if p m then x ||| f m else x) x).getLsbD i = true ↔
      x.getLsbD i = true ∨ ∃ m ∈ l, p m ∧ (f m).getLsbD i = true := by
    induction l generalizing x with
    | nil => simp
    | cons m l ih =>
      rw [List.foldl_cons, ih]
      by_cases hm : p m
      · simp [hm, or_assoc]
      · simp [hm]
  simpa using key 0

/-- A pair of bits in its place of a word. -/
theorem pairBits_getLsbD {q m n b : Nat} (hq : q < 4) (hn : n < 32) (hb : b < 2) :
    (w64 q <<< (2 * m)).getLsbD (2 * n + b) = true ↔ m = n ∧ q.testBit b = true := by
  have h4 (k : Nat) (hk : q.testBit k = true) : k < 2 := by
    by_contra hk2
    rw [Nat.testBit_lt_two_pow (hq.trans_le (Nat.pow_le_pow_right (n := 2) (by decide) (not_lt.mp hk2)))] at hk
    exact Bool.false_ne_true hk
  simp only [w64, BitVec.getLsbD_shiftLeft, BitVec.getLsbD_ofNat, Bool.and_eq_true, Bool.not_eq_true', decide_eq_true_eq,
    decide_eq_false_iff_not]
  constructor
  · rintro ⟨⟨-, hle⟩, -, hk⟩
    have := h4 _ hk
    obtain rfl : m = n := by omega
    rw [show 2 * m + b - 2 * m = b by omega] at hk
    exact ⟨rfl, hk⟩
  · rintro ⟨rfl, hk⟩
    refine ⟨⟨by omega, by omega⟩, by omega, ?_⟩
    rwa [show 2 * m + b - 2 * m = b by omega]

/-- `bits2` places the pair of lane 32 B + m at bits 2m and 2m + 1 (R147). -/
theorem bits2Word_pair (c : Ctx) {m : Nat} (hm : m < 32) : (bits2Word c).toNat / 2 ^ (2 * m) % 4
    = if 32 * c.fb + m ∈ c.lanes then (c.opA (32 * c.fb + m)).toNat % 4 else 0 := by
  have hbit {b : Nat} (hb : b < 2) : (bits2Word c).getLsbD (2 * m + b) = true ↔
      32 * c.fb + m ∈ c.lanes ∧ ((c.opA (32 * c.fb + m)).toNat % 4).testBit b = true := by
    simp only [bits2Word, List.contains_iff_mem, foldl_or_getLsbD, pairBits_getLsbD (Nat.mod_lt _ (by decide)) hm hb]
    constructor
    · rintro ⟨_, -, hl, rfl, hk⟩
      exact ⟨hl, hk⟩
    · rintro ⟨hl, hk⟩
      exact ⟨m, List.mem_range.mpr hm, hl, rfl, hk⟩
  apply Nat.eq_of_testBit_eq
  intro b
  have hmod (n : Nat) : (n % 4).testBit b = (decide (b < 2) && n.testBit b) := Nat.testBit_mod_two_pow n 2 b
  by_cases hb : b < 2
  · rw [hmod, Nat.testBit_div_two_pow, Nat.add_comm, ← BitVec.getLsbD, Bool.eq_iff_iff, decide_eq_true hb, Bool.true_and, hbit hb]
    split_ifs with hl <;> simp [hl]
  · split_ifs <;> simp [hmod, hb]

theorem listMax_spec {l : List Int} (h : l ≠ []) : listMax l ∈ l ∧ ∀ x ∈ l, x ≤ listMax l := by
  obtain ⟨a, l, rfl⟩ := List.exists_cons_of_ne_nil h
  rw [← List.max?_eq_some_iff, List.max?_cons']
  simp [listMax]

theorem listMin_spec {l : List Int} (h : l ≠ []) : listMin l ∈ l ∧ ∀ x ∈ l, listMin l ≤ x := by
  obtain ⟨a, l, rfl⟩ := List.exists_cons_of_ne_nil h
  rw [← List.min?_eq_some_iff, List.min?_cons']
  simp [listMin]

theorem Ctx.signedA_ne_nil {c : Ctx} (h : c.anyLane = true) : c.signedA ≠ [] := by
  simpa [Ctx.signedA] using Ctx.anyLane_iff.mp h

/-- An extreme of the lanes' integers is the register of one of them, extended. -/
theorem Ctx.mem_signedA {c : Ctx} {x : Int} (h : x ∈ c.signedA) : ∃ i ∈ c.lanes, x = (c.opA i).toInt := by
  obtain ⟨i, hi, rfl⟩ := List.mem_map.mp h
  exact ⟨i, hi, rfl⟩

/-- The first of the executing lanes. -/
theorem Ctx.firstLane_spec {c : Ctx} (h : c.anyLane = true) :
    (w64 (c.lanes.headD 0)).toNat ∈ c.lanes ∧ ∀ j ∈ c.lanes, (w64 (c.lanes.headD 0)).toNat ≤ j := by
  obtain ⟨i, l, hl⟩ := List.exists_cons_of_ne_nil (Ctx.anyLane_iff.mp h)
  have hi : i < 64 := Ctx.lane_lt (c := c) (by simp [hl])
  have hasc := hl ▸ c.lanes_pairwise
  have hval : (w64 (c.lanes.headD 0)).toNat = i := by
    rw [hl, List.headD_cons, w64, BitVec.toNat_ofNat]
    omega
  rw [hval, hl]
  refine ⟨List.mem_cons_self, fun j hj => ?_⟩
  rcases List.mem_cons.mp hj with rfl | hj
  · exact le_rfl
  · exact (List.rel_of_pairwise_cons hasc hj).le

theorem fullMask_getLsbD {w i : Nat} (h : i < 64) : (fullMask w).getLsbD i = true ↔ i < w := by
  rw [fullMask, BitVec.getLsbD_ofNat, Nat.testBit_two_pow_sub_one, decide_eq_true h, Bool.true_and, decide_eq_true_iff]

/-- The executing lanes in which a predicate holds, counted (R149). -/
theorem Ctx.countMask_toNat (c : Ctx) (p : Mask) :
    (w64 (countMask c.w (p &&& c.act))).toNat = (c.lanes.filter fun i => p.getLsbD i).length := by
  have hlen : (c.lanes.filter fun i => p.getLsbD i).length ≤ 64 := (List.length_filter_le _ _).trans c.length_lanes_le
  have heq : lanesOf c.w (p &&& c.act) = c.lanes.filter fun i => p.getLsbD i := by
    simp [lanesOf, Ctx.lanes, List.filter_filter]
  rw [countMask, heq, w64, BitVec.toNat_ofNat]
  omega

/-- Each scalar form is `xlScal` of its row: the tags, what is out of range, and a value as the row says. -/
theorem exec_laneScal {r : Mk × Nat × Nat × (Ctx → List TagCheck) × (Ctx → Prop) × (Ctx → W64 → Prop)} (hr : r ∈ laneScal) :
    ∃ (bad : Ctx → Bool) (f : Ctx → W64), (∀ c, bad c = true ↔ r.2.2.2.2.1 c) ∧ (∀ c, c.anyLane = true → r.2.2.2.2.2 c (f c)) ∧
      ∀ o s, exec (r.1 o) s = issue r.2.1 r.2.2.1 o (xlScal r.2.2.2.1 bad f) s := by
  simp only [laneScal, List.mem_cons, List.not_mem_nil, or_false] at hr
  rcases hr with rfl | rfl | rfl | rfl | rfl | rfl | rfl | rfl | rfl | rfl | rfl | rfl
  · refine ⟨never, _, never_iff, fun c _ i hi => ?_, fun _ _ => rfl⟩
    simp [maskOf_getLsbD _ hi]
  · refine ⟨_, bits2Word, fun c => ?_, fun c _ m hm => bits2Word_pair c hm, fun _ _ => rfl⟩
    simp
  · refine ⟨never, _, never_iff, fun c _ => ?_, fun _ _ => rfl⟩
    rw [← List.sum_eq_foldl]
    rfl
  · refine ⟨never, _, never_iff, fun c ha => ?_, fun _ _ => rfl⟩
    obtain ⟨hmem, hle⟩ := listMax_spec (Ctx.signedA_ne_nil ha)
    obtain ⟨i, hi, heq⟩ := Ctx.mem_signedA hmem
    rw [heq] at hle ⊢
    exact ⟨i, hi, rfl, fun j hj => hle _ (List.mem_map_of_mem hj)⟩
  · refine ⟨never, _, never_iff, fun c ha => ?_, fun _ _ => rfl⟩
    obtain ⟨hmem, hle⟩ := listMin_spec (Ctx.signedA_ne_nil ha)
    obtain ⟨i, hi, heq⟩ := Ctx.mem_signedA hmem
    rw [heq] at hle ⊢
    exact ⟨i, hi, rfl, fun j hj => hle _ (List.mem_map_of_mem hj)⟩
  · exact ⟨_, _, fun _ => decide_eq_true_iff, fun _ _ => rfl, fun _ _ => rfl⟩
  · exact ⟨never, _, never_iff, fun c ha => Ctx.firstLane_spec ha, fun _ _ => rfl⟩
  · exact ⟨never, _, never_iff, fun _ _ => rfl, fun _ _ => rfl⟩
  · exact ⟨never, _, never_iff, fun _ _ => rfl, fun _ _ => rfl⟩
  · refine ⟨never, _, never_iff, fun c _ => ?_, fun _ _ => rfl⟩
    exact BitVec.toNat_setWidth_of_le (by decide)
  · refine ⟨never, _, never_iff, fun c _ i hi => ?_, fun _ _ => rfl⟩
    rw [BitVec.getLsbD_and, Bool.and_eq_true, fullMask_getLsbD hi, and_comm]
  · exact ⟨never, _, never_iff, fun c _ => c.countMask_toNat c.pA, fun _ _ => rfl⟩

/-- Settles O9: every row is `xlVec` or `xlScal`, whose effect stands behind its checks. -/
theorem laneExchangeResults : Obligations.LaneExchangeResults := by
  refine ⟨fun r hr o s g cl t h => ?_, fun r hr o s g cl t h => ?_⟩
  · intro c
    obtain ⟨bad, hbad, hexec⟩ := exec_laneVec hr
    rw [Runs, hexec, ← hbad]
    exact ⟨fun hp => issue_ok h (xlVec_pass hp), fun ht hrlx hb ha => issue_trap h (by decide) (xlVec_refuses ht hrlx hb ha)⟩
  · intro c hp
    obtain ⟨bad, f, hbad, hf, hexec⟩ := exec_laneScal hr
    rw [← hbad] at hp
    have hrun : Runs (r.1 o) s c (c.onceDo t (c.putS t (f c))) := (hexec o s).trans (issue_ok h (xlScal_pass hp))
    exact ⟨fun ha => ⟨f c, hf c ha, by rwa [Ctx.onceDo_of_anyLane ha] at hrun⟩, fun ha => by rwa [Ctx.onceDo_of_idle ha] at hrun⟩

end Sys2Proof.Machine
end

section
/-! The forms that write a predicate, and the sums of F32 over lanes, along their tree and in lane order (06 R147 to R149). -/
namespace Sys2Proof.Machine
open Sys2Proof.Stated

/-! ### Predicate forms -/

/-- Each predicate form writes a mask to predicate D of the executing lanes, whose bits there are those of its row. -/
theorem exec_lanePred {r : Mk × Nat × Nat × (Ctx → Nat → Prop)} (hr : r ∈ lanePred) : ∃ f : Ctx → Mask,
    (∀ c, ∀ i ∈ c.lanes, ((f c).getLsbD i = true ↔ r.2.2.2 c i)) ∧ ∀ o s, exec (r.1 o) s = issue r.2.1 r.2.2.1 o (prOp f) s := by
  have hall {c : Ctx} {i : Nat} (b : Bool) (hi : i ∈ c.lanes) : (if b then BitVec.allOnes 64 else (0 : Mask)).getLsbD i = true ↔ b = true := by
    cases b
    · simp
    · rw [if_pos rfl, BitVec.getLsbD_allOnes, decide_eq_true (Ctx.lane_lt hi)]
  simp only [lanePred, List.mem_cons, List.not_mem_nil, or_false] at hr
  rcases hr with rfl | rfl | rfl | rfl | rfl | rfl | rfl | rfl
  · exact ⟨fun c => if c.lanes.any fun j => c.opA j != 0 then _ else _, fun c i hi => (hall _ hi).trans (by simp), fun _ _ => rfl⟩
  · exact ⟨fun c => if c.lanes.all fun j => c.opA j != 0 then _ else _, fun c i hi => (hall _ hi).trans (by simp), fun _ _ => rfl⟩
  · exact ⟨fun c => c.pA &&& c.pB, fun c i _ => by simp, fun _ _ => rfl⟩
  · exact ⟨fun c => c.pA ||| c.pB, fun c i _ => by simp, fun _ _ => rfl⟩
  · exact ⟨fun c => c.pA ^^^ c.pB, fun c i _ => by simp, fun _ _ => rfl⟩
  · exact ⟨fun c => ~~~c.pA, fun c i hi => by simp [Ctx.lane_lt hi], fun _ _ => rfl⟩
  · exact ⟨fun c => c.pA, fun c i _ => Iff.rfl, fun _ _ => rfl⟩
  · exact ⟨fun c => if c.lanes.all fun j => c.pA.getLsbD j then _ else _, fun c i hi => (hall _ hi).trans (by simp), fun _ _ => rfl⟩

/-! ### The tree of `lredfadd` (R148) -/

/-- What two nodes give the next level, with the flags of their addition; an absent one leaves the other as it is. -/
def joinF32 (mode : W64) : Option Nat → Option Nat → Option Nat × W64
  | some a, some b => (some (addF32 mode a b).1, (addF32 mode a b).2)
  | some a, none => (some a, 0)
  | none, y => (y, 0)

@[simp] theorem joinF32_none (mode : W64) : joinF32 mode none none = (none, 0) := rfl

theorem treeLevel_cons_cons (mode : W64) (x y : Option Nat) (l : List (Option Nat)) : treeLevel mode (x :: y :: l) =
    ((joinF32 mode x y).1 :: (treeLevel mode l).1, (joinF32 mode x y).2 ||| (treeLevel mode l).2) := by
  cases x <;> cases y <;> simp [treeLevel, joinF32]

theorem treeNode_succ (c : Ctx) (k j : Nat) : treeNode c (k + 1) j =
    ((joinF32 c.mode (treeNode c k (2 * j)).1 (treeNode c k (2 * j + 1)).1).1,
      (treeNode c k (2 * j)).2 ||| (treeNode c k (2 * j + 1)).2
        ||| (joinF32 c.mode (treeNode c k (2 * j)).1 (treeNode c k (2 * j + 1)).1).2) := by
  rw [treeNode]
  rcases (treeNode c k (2 * j)).1 with _ | a <;> rcases (treeNode c k (2 * j + 1)).1 with _ | b
  · simp [joinF32]
  · simp [joinF32]
  · simp [joinF32]
  · rfl

/-- Entry `j` of a level joins the entries 2j and 2j + 1 of the level below. -/
theorem treeLevel_getD (mode : W64) : ∀ (l : List (Option Nat)) (j : Nat),
    (treeLevel mode l).1.getD j none = (joinF32 mode (l.getD (2 * j) none) (l.getD (2 * j + 1) none)).1
  | [], j => by simp [treeLevel]
  | [x], 0 => by cases x <;> simp [treeLevel, joinF32]
  | [x], j + 1 => by simp [treeLevel, Nat.mul_succ]
  | x :: y :: l, 0 => by simp [treeLevel_cons_cons]
  | x :: y :: l, j + 1 => by simpa [treeLevel_cons_cons, Nat.mul_succ] using treeLevel_getD mode l j

/-- The flags of a level are those of its additions. -/
theorem treeLevel_flag (mode : W64) (b : Nat) : ∀ l : List (Option Nat), (treeLevel mode l).2.getLsbD b = true ↔
    ∃ j, (joinF32 mode (l.getD (2 * j) none) (l.getD (2 * j + 1) none)).2.getLsbD b = true
  | [] => by simp [treeLevel]
  | [x] => by
    have hnone (y : Option Nat) : (joinF32 mode y none).2 = 0 := by cases y <;> rfl
    simp [treeLevel, hnone]
  | x :: y :: l => by
    rw [treeLevel_cons_cons, BitVec.getLsbD_or, Bool.or_eq_true, treeLevel_flag mode b l]
    constructor
    · rintro (h | ⟨j, h⟩)
      · exact ⟨0, h⟩
      · exact ⟨j + 1, h⟩
    · rintro ⟨_ | j, h⟩
      · exact .inl h
      · exact .inr ⟨j, h⟩

/-- One more level on top of `k`. -/
theorem treeFold_succ (mode : W64) (k : Nat) (r : List (Option Nat) × W64) : treeFold mode (k + 1) r =
    ((treeLevel mode (treeFold mode k r).1).1, (treeFold mode k r).2 ||| (treeLevel mode (treeFold mode k r).1).2) := by
  induction k generalizing r with
  | zero => rfl
  | succ k ih => rw [treeFold, ih]; rfl

/-- The leaves: an entry for each lane, absent where the lane does not execute. -/
def Ctx.leaves (c : Ctx) : List (Option Nat) :=
  (List.range c.w).map fun i => if c.act.getLsbD i then some (readF32 c.mode (c.opA i)) else none

theorem Ctx.leaves_getD (c : Ctx) (j : Nat) : c.leaves.getD j none = (treeNode c 0 j).1 := by
  by_cases hj : j < c.w
  · rw [Ctx.leaves, getD_map_range _ _ hj]
    simp [treeNode, hj, laneF32, readF32]
  · simp [Ctx.leaves, treeNode, hj]

/-- The model's fold over `k` levels holds the nodes of level `k` of the tree, and the flags of all of them. -/
theorem treeFold_eq_nodes (c : Ctx) (k : Nat) : (∀ j, (treeFold c.mode k (c.leaves, 0)).1.getD j none = (treeNode c k j).1) ∧
    ∀ b, (treeFold c.mode k (c.leaves, 0)).2.getLsbD b = true ↔ ∃ j, (treeNode c k j).2.getLsbD b = true := by
  induction k with
  | zero => exact ⟨c.leaves_getD, fun b => by simp [treeFold, treeNode]⟩
  | succ k ih =>
    obtain ⟨hval, hflag⟩ := ih
    refine ⟨fun j => by rw [treeFold_succ, treeLevel_getD, hval, hval, treeNode_succ], fun b => ?_⟩
    simp only [treeFold_succ, treeNode_succ, BitVec.getLsbD_or, Bool.or_eq_true, hflag, treeLevel_flag, hval]
    constructor
    · rintro (⟨j, h⟩ | ⟨j, h⟩)
      · obtain ⟨m, rfl | rfl⟩ := j.even_or_odd'
        · exact ⟨m, .inl (.inl h)⟩
        · exact ⟨m, .inl (.inr h)⟩
      · exact ⟨j, .inr h⟩
    · rintro ⟨j, (h | h) | h⟩
      · exact .inl ⟨_, h⟩
      · exact .inl ⟨_, h⟩
      · exact .inr ⟨j, h⟩

/-- No lane is numbered 64 or above, so nodes beyond those are absent and raise no flag. -/
theorem treeNode_beyond (c : Ctx) (k : Nat) : ∀ j, 64 ≤ 2 ^ k * j → treeNode c k j = (none, 0) := by
  induction k with
  | zero =>
    intro j hj
    have hidle : c.act.getLsbD j = false := BitVec.getLsbD_of_ge _ _ (by omega)
    simp [treeNode, hidle]
  | succ k ih =>
    intro j hj
    have hle : 64 ≤ 2 ^ k * (2 * j) := by rwa [← mul_assoc, ← pow_succ]
    simp [treeNode_succ, ih _ hle, ih _ (hle.trans (Nat.mul_le_mul_left _ (Nat.le_succ _)))]

/-- `lredfadd` writes the root of the tree, with the flags of its additions. -/
theorem redFadd_root {c : Ctx} {x : Nat} (hx : (treeNode c 6 0).1 = some x) :
    redFadd c = (BitVec.ofNat 64 (writtenF32 c x).1, (treeNode c 6 0).2 ||| (writtenF32 c x).2) := by
  obtain ⟨hval, hflag⟩ := treeFold_eq_nodes c 6
  have hroot : (treeFold c.mode 6 (c.leaves, 0)).2 = (treeNode c 6 0).2 := by
    apply BitVec.eq_of_getLsbD_eq
    intro b _
    rw [Bool.eq_iff_iff, hflag]
    constructor
    · rintro ⟨_ | j, h⟩
      · exact h
      · rw [treeNode_beyond c 6 (j + 1) (by omega)] at h
        simp at h
    · exact fun h => ⟨0, h⟩
  obtain ⟨l, hl⟩ : ∃ l, (treeFold c.mode 6 (c.leaves, 0)).1 = some x :: l := by
    have hhead := (hval 0).trans hx
    revert hhead
    rcases (treeFold c.mode 6 (c.leaves, 0)).1 with _ | ⟨y, l⟩
    · simp
    · rintro rfl
      exact ⟨l, rfl⟩
  have hfold : redFadd c = match (treeFold c.mode 6 (c.leaves, 0)).1 with
    | some x :: _ => (w64 (writeF32 c.mode x).1, (treeFold c.mode 6 (c.leaves, 0)).2 ||| (writeF32 c.mode x).2)
    | _ => (0, (treeFold c.mode 6 (c.leaves, 0)).2) := rfl
  rw [hfold, hl, hroot]
  rfl

/-! ### The running sums of `lscanfadd` (R148) -/

/-- The sum up to a lane, from the sum of the lanes before it, and the flags of its addition. -/
def nextSum (c : Ctx) : Option Nat → Nat → Nat × W64
  | none, i => writtenF32 c (laneF32 c i)
  | some a, i => sumF32 c a (laneF32 c i)

theorem scanSums_cons (c : Ctx) (acc : Option Nat) (i : Nat) (l : List Nat) : scanSums c acc (i :: l) =
    ((i, (nextSum c acc i).1) :: (scanSums c (some (nextSum c acc i).1) l).1,
      (nextSum c acc i).2 ||| (scanSums c (some (nextSum c acc i).1) l).2) := by
  cases acc <;> rfl

/-- A step of the model's fold: the sum so far, the codes of the lanes, their flags. -/
def scanStep (c : Ctx) (r : Option Nat × List (Nat × Nat) × W64) (i : Nat) : Option Nat × List (Nat × Nat) × W64 :=
  (some (nextSum c r.1 i).1, r.2.1 ++ [(i, (nextSum c r.1 i).1)], r.2.2 ||| (nextSum c r.1 i).2)

theorem scanFadd_eq_foldl (c : Ctx) : scanFadd c = (c.lanes.foldl (scanStep c) (none, [], 0)).2 := by
  refine congrArg Prod.snd (List.foldl_ext _ _ _ fun r i _ => ?_)
  obtain ⟨_ | a, ps, fl⟩ := r
  · rfl
  · rfl

/-- The model's fold is the stated one. -/
theorem scanFadd_eq (c : Ctx) : scanFadd c = scanSums c none c.lanes := by
  have key (l : List Nat) (acc : Option Nat) (ps : List (Nat × Nat)) (fl : W64) :
      (l.foldl (scanStep c) (acc, ps, fl)).2 = (ps ++ (scanSums c acc l).1, fl ||| (scanSums c acc l).2) := by
    induction l generalizing acc ps fl with
    | nil => simp [scanSums]
    | cons i l ih => simp [scanStep, ih, scanSums_cons, BitVec.or_assoc]
  rw [scanFadd_eq_foldl, key]
  simp

theorem aget_eq_find? (l : List (Nat × Nat)) (i : Nat) : aget l i 0 = ((l.find? fun p => p.1 == i).map fun p => p.2).getD 0 := by
  unfold aget
  cases l.find? fun p => p.1 == i <;> rfl

/-- Settles O10: the predicate forms by their rows, the sums by the tree of `redFadd_root` and the fold of `scanFadd_eq`. -/
theorem lanePredicatesAndSums : Obligations.LanePredicatesAndSums := by
  refine ⟨fun r hr o s g cl t h => ?_, fun o s g cl t h => ?_, fun o s g cl t h => ?_⟩
  · intro c hp
    obtain ⟨ht, hrlx, -⟩ := hp
    obtain ⟨f, hf, hexec⟩ := exec_lanePred hr
    exact ⟨f c, hf c, (hexec o s).trans (issue_ok h (checked_pass ht hrlx fun _ => rfl))⟩
  · intro c hp root
    obtain ⟨ht, hrlx, -⟩ := hp
    have hrun : Runs (.lredfadd o) s c (c.onceDo t (c.putSF t (redFadd c))) :=
      issue_ok h ((checked_pass ht hrlx fun _ => rfl).trans (once_ok c t _))
    refine ⟨fun ha => by rwa [Ctx.onceDo_of_idle ha] at hrun, fun x hx => ?_⟩
    rwa [redFadd_root hx] at hrun
  · intro c hp r
    obtain ⟨ht, hrlx, -⟩ := hp
    have hrun : Runs (.lscanfadd o) s c ((c.putV t 0 (fun i => w32 (aget (scanFadd c).1 i 0)) tF32).onGroup g.id
        fun h => h.orFlags (scanFadd c).2) := issue_ok h (checked_pass ht hrlx fun _ => rfl)
    simp only [scanFadd_eq, aget_eq_find?] at hrun
    exact hrun

end Sys2Proof.Machine
end

section
/-! Moves through lane indices and program counters (06 R144, R153). -/
namespace Sys2Proof.Machine
open Sys2Proof.Stated

section
variable {c : Ctx} {t : State} {idx : Nat → W32}

/-- Every index of an executing lane names a register, and a resident one. -/
theorem Ctx.indexChecks_pass (h : ∀ i ∈ c.lanes, (idx i).toNat < 64 ∧ blockNonResident c.g (idx i).toNat 1 = false) :
    firstFail (c.indexChecks idx) = none := by
  refine firstFail_eq_none.mpr fun p hp => ?_
  simp only [Ctx.indexChecks, List.mem_cons, List.not_mem_nil, or_false] at hp
  rcases hp with rfl | rfl
  · simpa using fun i hi => (h i hi).1
  · simpa [nonResident] using fun i hi => (h i hi).2

/-- An index of 64 or more refuses, in front of residency. -/
theorem checked_index {l : List TagCheck} {r : Res} (ht : c.tagsPass l) (hr : t.rlxRefuses c = none) (ha : c.anyLane = true)
    (h : ∃ i ∈ c.lanes, 64 ≤ (idx i).toNat) : checked c t l (c.indexChecks idx) r = .trap .illop 0x0D := by
  have hany : (c.lanes.any fun i => 64 ≤ (idx i).toNat) = true := by simpa using h
  rw [Ctx.indexChecks, hany]
  exact checked_refuses ht hr ha

end

/-- Settles O11: `movx` and `movxw` behind the checks of their indexes, `rdlpc` without any. -/
theorem indexedMoves : Obligations.IndexedMoves := by
  refine ⟨fun o s g cl t h => ?_, fun o s g cl t h => ?_, fun o s g cl t h => issue_ok (body := rdlpc) h rfl⟩
  · intro c reg ht hr
    refine ⟨fun hi => ?_, fun ha hi => ?_⟩
    · exact issue_ok (body := movx) h (checked_pass ht hr fun _ => Ctx.indexChecks_pass hi)
    · exact issue_trap (body := movx) h (by decide) (checked_index ht hr ha hi)
  · intro c idx regs ht hr
    refine ⟨fun hi hbusy => ?_, fun ha hi => ?_⟩
    · refine issue_ok (body := movxw) h ((checked_pass ht hr fun _ => Ctx.indexChecks_pass hi).trans (if_neg ?_))
      exact Bool.eq_false_iff.mp hbusy
    · exact issue_trap (body := movxw) h (by decide) (checked_index ht hr ha hi)

end Sys2Proof.Machine
end

section
/-! Reads and writes of the CSRs: the value or the change that each number has, and the order of the refusals (06 R128, R145,
R146; 07 R162, R164; 21 R359, R362). -/
namespace Sys2Proof.Machine
open Sys2Proof.Stated

/-! ### Reads (R145, R146) -/

section
variable {c : Ctx} {t : State}

/-- A CSR that exists reads its value, once; FLAGS is apart. -/
theorem csrrd_value {v : W64} (hn : csrNumA c.o < 0x200) (h1 : csrNumA c.o ≠ 1)
    (hv : t.csrRead c.g (csrNumA c.o) = (t, some v)) : csrrd c t = .ok (c.onceDo t (c.putS t v)) := by
  have hpresent : firstFail [(decide (0x200 ≤ csrNumA c.o), illop 0x0B)] = none := by
    simp [firstFail, not_le.mpr hn]
  rw [csrrd, present_pass hpresent, hv]
  simp only [h1, decide_false, Bool.false_and, Bool.false_eq_true, if_false]
  exact once_ok c t _

theorem csrrd_privileged (hn : 0x200 ≤ csrNumA c.o) : csrrd c t = .trap .illop 0x0B := by
  rw [csrrd, present]
  simp only [firstFail, hn, decide_true, if_true]
  rfl

end

/-- Each user CSR of the table reads as the table says. -/
theorem csrRead_user {r : Nat × (State → Group → W64)} (hr : r ∈ userCsrs) (t : State) (g : Group) :
    (r.1 < 0x200 ∧ r.1 ≠ 1) ∧ t.csrRead g r.1 = (t, some (r.2 t g)) := by
  simp only [userCsrs, List.mem_cons, List.not_mem_nil, or_false] at hr
  rcases hr with rfl | rfl | rfl | rfl | rfl | rfl | rfl | rfl | rfl <;> exact ⟨by decide, rfl⟩

/-- The numbers of the identity CSRs, and the value that the table gives each of a group on tile `p` (R285, R339). -/
theorem identity_of_row {r : Nat × (Nat → Group → Team → Work → Gang → W64)} (hr : r ∈ idCsrs) {t : State} {g : Group} {p : Nat}
    (hp : t.groupTile g = some p) (tm : Team) (w : Work) (k : Gang) :
    r.1 ∈ [2, 3, 0x10, 0x11, 0x12, 0x13, 0x14, 0x15] ∧ identity t g tm w k r.1 = some (r.2 p g tm w k) := by
  simp only [idCsrs, List.mem_cons, List.not_mem_nil, or_false] at hr
  rcases hr with rfl | rfl | rfl | rfl | rfl | rfl | rfl | rfl
  · exact ⟨by decide, rfl⟩
  · exact ⟨by decide, rfl⟩
  · exact ⟨by decide, by simp [identity, hp, w64]⟩
  · exact ⟨by decide, rfl⟩
  · exact ⟨by decide, by simp [identity, mul_comm]⟩
  · exact ⟨by decide, rfl⟩
  · exact ⟨by decide, rfl⟩
  · exact ⟨by decide, rfl⟩

/-- An identity CSR of a tile group, of its team, launch and gang. -/
theorem csrRead_identity {n : Nat} (hn : n ∈ [2, 3, 0x10, 0x11, 0x12, 0x13, 0x14, 0x15]) {t : State} {g : Group} {tm : Team} {w : Work}
    {k : Gang} (hcore : g.core = none) (ht : t.teamOf g = some tm) (hw : t.workOf g = some w) (hk : t.gangOf g = some k) :
    (n < 0x200 ∧ n ≠ 1) ∧ t.csrRead g n = (t, identity t g tm w k n) := by
  fin_cases hn <;> exact ⟨by decide, by simp [State.csrRead, isIdentity, hcore, ht, hw, hk]⟩

/-- Settles O12: user and identity CSRs by their tables, FLAGS by its wait. -/
theorem csrReads : Obligations.CsrReads := by
  refine ⟨fun r hr o s g cl t h => ?_, fun r hr o s g cl t p tm w k h => ?_, fun o s g cl t h => ?_⟩
  · intro c hn
    obtain ⟨⟨hlt, h1⟩, hv⟩ := csrRead_user hr t g
    rw [← hn] at hlt h1 hv
    exact issue_ok (body := csrrd) h (csrrd_value hlt h1 hv)
  · intro c hcore hn hp ht hw hk
    obtain ⟨hmem, hid⟩ := identity_of_row hr hp tm w k
    obtain ⟨⟨hlt, h1⟩, hv⟩ := csrRead_identity hmem hcore ht hw hk
    rw [hid] at hv
    rw [← hn] at hlt h1 hv
    exact issue_ok (body := csrrd) h (csrrd_value hlt h1 hv)
  · intro c
    refine ⟨fun hf => issue_once h rfl fun _ => if_pos hf, fun hf ha => ?_, fun hn => ?_⟩
    · exact stalls_of_body rfl h ((once_of_anyLane ha).trans (if_neg (Bool.eq_false_iff.mp hf)))
    · exact issue_trap (body := csrrd) h (by decide) (csrrd_privileged hn)

/-! ### Writes (R146, R162, R359) -/

section
variable {c : Ctx} {t : State} {n : Nat}

/-- A write that is accepted is made, once. -/
theorem csrwrOf_accepts {u : State} (h : t.csrWrite c.g n c.sA = .ok u) : csrwrOf n c t = .ok (c.onceDo t u) := by
  rw [csrwrOf, h]
  exact once_ok c t u

/-- A write that the level or the number refuses traps whichever lanes execute. -/
theorem csrwrOf_privilege (h : t.csrWrite c.g n c.sA = .bad 0x0B) : csrwrOf n c t = .trap .illop 0x0B := by
  rw [csrwrOf, h]
  rfl

/-- A write whose value is refused traps where a lane executes. -/
theorem csrwrOf_value (h : t.csrWrite c.g n c.sA = .bad 0x0D) (ha : c.anyLane = true) : csrwrOf n c t = .trap .illop 0x0D := by
  rw [csrwrOf, h]
  exact once_of_anyLane ha

end

section
variable {t : State} {g : Group} {v : W64}

/-- The model's test of an address is the stated one. -/
theorem addrOk_iff : (decide (fld v 63 52 = 0) && decide (fld v 1 0 = 0)) = true ↔ addrOk v := by
  have hv := v.isLt
  simp only [Bool.and_eq_true, decide_eq_true_eq, addrOk, fld_eq_fieldOf, fieldOf]
  omega

theorem highLevel_iff : (g.flow.tl || g.core.isSome) = true ↔ highLevel g := by
  rw [Bool.or_eq_true, highLevel]

/-- A word of ten bits. -/
theorem fld_above_ten : fld v 63 10 = 0 ↔ v.toNat < 2 ^ 10 := by
  have hv := v.isLt
  rw [fld_eq_fieldOf, fieldOf]
  omega

/-- MODE: its ten bits, RM below 5, ACCR below 2 (R162). -/
theorem csrWrite_mode : t.csrWrite g 0 v = if v.toNat < 2 ^ 10 ∧ v.toNat % 8 < 5 ∧ v.toNat / 64 % 4 < 2
    then .ok (t.onCsrs g fun c => { c with mode := v }) else .bad 0x0D := by
  have hbad : (fld v 63 10 != 0 || decide (5 ≤ fld v 2 0) || decide (2 ≤ fld v 7 6)) = true ↔
      ¬ (v.toNat < 2 ^ 10 ∧ v.toNat % 8 < 5 ∧ v.toNat / 64 % 4 < 2) := by
    rw [← fld_above_ten]
    simp only [Bool.or_eq_true, bne_iff_ne, decide_eq_true_eq, fld_eq_fieldOf, fieldOf]
    omega
  simp only [State.csrWrite, hbad, ite_not]
  rfl

theorem csrWrite_flags (hv : v.toNat < 2 ^ 10) (h : t.flagsReady g = true) :
    t.csrWrite g 1 v = .ok (t.onCsrs g fun c => { c with flags := v }) := by
  simp [State.csrWrite, fld_above_ten.mpr hv, h]

theorem csrWrite_spillbase (hv : addrOk v) : t.csrWrite g 0x020 v = .ok (t.onGroup g.id fun h =>
    { h.dirtySlots (h.slotsOf h.flow.lo (h.flow.wb + 64)) with csrs := { h.csrs with spillbase := v } }) := by
  simp [State.csrWrite, addrOk_iff.mpr hv]

theorem csrWrite_trapvec (hv : addrOk v) : t.csrWrite g 0x030 v = .ok (t.onCsrs g fun c => { c with trapvec := v }) := by
  simp [State.csrWrite, addrOk_iff.mpr hv]

theorem csrWrite_trapvec_refused (hv : ¬ addrOk v) : t.csrWrite g 0x030 v = .bad 0x0D := by
  have haddr := Bool.eq_false_iff.mpr (addrOk_iff.not.mpr hv)
  simp only [State.csrWrite, haddr]
  rfl

theorem csrWrite_trappc (hg : highLevel g) (hv : addrOk v) : t.csrWrite g 0x032 v = .ok (t.onGroup g.id fun h =>
    { h with csrs := { h.csrs with trappc := v }, frame := h.frame.map fun f => { f with pcWritten := true } }) := by
  simp only [State.csrWrite, highLevel_iff.mpr hg, addrOk_iff.mpr hv]
  rfl

/-- TRAPCAUSE and TRAPINFO take a value at trap level and of a stoker core (R359). -/
theorem csrWrite_trapcause (hg : highLevel g) :
    t.csrWrite g 0x031 v = .ok (t.onCsrs g fun c => { c with trapcause := v &&& 0xFFFCFF }) := by
  simp only [State.csrWrite, highLevel_iff.mpr hg]
  rfl

theorem csrWrite_trapinfo (hg : highLevel g) : t.csrWrite g 0x033 v = .ok (t.onCsrs g fun c => { c with trapinfo := v }) := by
  simp only [State.csrWrite, highLevel_iff.mpr hg]
  rfl

theorem csrWrite_low {n : Nat} (hn : n = 0x031 ∨ n = 0x033) (hg : ¬ highLevel g) : t.csrWrite g n v = .bad 0x0B := by
  have hlow := Bool.eq_false_iff.mpr (highLevel_iff.not.mpr hg)
  rcases hn with rfl | rfl <;> simp only [State.csrWrite, hlow] <;> rfl

/-- DEADLINE, CAPS and the identity CSRs are read-only. -/
theorem csrWrite_readOnly {n : Nat} (hn : n = 0x041 ∨ n = 0x100 ∨ n = 0x002 ∨ n = 0x013) : t.csrWrite g n v = .bad 0x0B := by
  rcases hn with rfl | rfl | rfl | rfl <;> rfl

theorem csrWrite_privileged {n : Nat} (hn : 0x200 ≤ n) : t.csrWrite g n v = .bad 0x0B := if_pos hn

/-- WINSTAT: LO, between the window's ends and the budget (R128). -/
theorem csrWrite_winstat (hg : highLevel g) (hlo : v.toNat / 2 ^ 44 ≤ g.flow.wb + 60)
    (hb : g.flow.wb + 64 ≤ g.budget + v.toNat / 2 ^ 44) : t.csrWrite g 0x021 v =
      .ok ((t.onGroup g.id fun h => { h with flow := { h.flow with lo := v.toNat / 2 ^ 44 } }).coverSlots g.id
        (g.slotsOf (v.toNat / 2 ^ 44) g.flow.lo)) := by
  have hfld : fld v 63 44 = v.toNat / 2 ^ 44 := by
    have := v.isLt
    rw [fld_eq_fieldOf, fieldOf]
    omega
  have hwrite : t.csrWrite g 0x021 v = t.writeLo g v := by
    simp only [State.csrWrite, highLevel_iff.mpr hg]
    rfl
  rw [hwrite, State.writeLo, hfld]
  exact if_pos (Bool.and_eq_true_iff.mpr ⟨decide_eq_true hlo, decide_eq_true hb⟩)

end

/-- A write of the table that is accepted changes its CSR alone. -/
theorem csrWrite_accepted {r : Nat × (Group → W64 → Prop) × (W64 → Csrs → Csrs)} (hr : r ∈ csrWrites) {t : State} {g : Group} {v : W64}
    (h : r.2.1 g v) : t.csrWrite g r.1 v = .ok (t.onGroup g.id fun h => { h with csrs := r.2.2 v h.csrs }) := by
  simp only [csrWrites, List.mem_cons, List.not_mem_nil, or_false] at hr
  rcases hr with rfl | rfl | rfl | rfl
  · exact csrWrite_mode.trans (if_pos h)
  · exact csrWrite_trapvec h
  · exact csrWrite_trapcause h
  · exact csrWrite_trapinfo h

/-- Settles O13: accepted values by the table, the refusals by number, level and value. -/
theorem csrWrites : Obligations.CsrWrites := by
  refine ⟨fun r hr o s g cl t h => ?_, fun o s g cl t h => ?_⟩
  · intro c hn hv
    have hwrite := csrWrite_accepted hr (t := t) hv
    rw [← hn] at hwrite
    exact issue_ok (body := csrwr) h (csrwrOf_accepts hwrite)
  · intro c trap
    have hpriv (hw : t.csrWrite g (csrNumD c.o) c.sA = .bad 0x0B) : exec (.csrwr o) s = trap 0x0B :=
      issue_trap (body := csrwr) h (by decide) (csrwrOf_privilege hw)
    have hvalue (hw : t.csrWrite g (csrNumD c.o) c.sA = .bad 0x0D) (ha : c.anyLane = true) : exec (.csrwr o) s = trap 0x0D :=
      issue_trap (body := csrwr) h (by decide) (csrwrOf_value hw ha)
    refine ⟨fun hn hv => hvalue ?_, fun hn hv => hvalue ?_, fun hn hl => hpriv (csrWrite_low hn hl),
      fun hn => hpriv (csrWrite_readOnly hn), fun hn => hpriv (csrWrite_privileged hn)⟩
    · rw [hn]
      exact csrWrite_mode.trans (if_neg hv)
    · rw [hn]
      exact csrWrite_trapvec_refused hv

/-- Settles O14: each write is what `csrWrite` gives for its number, made once. -/
theorem csrWritesWithRules : Obligations.CsrWritesWithRules := by
  intro o s g cl t h c
  exact ⟨fun hv hf => issue_ok (body := csrwrOf 0x001) h (csrwrOf_accepts (csrWrite_flags hv hf)),
    fun hv => issue_ok (body := csrwrOf 0x020) h (csrwrOf_accepts (csrWrite_spillbase hv)),
    fun hg hv => issue_ok (body := csrwrOf 0x032) h (csrwrOf_accepts (csrWrite_trappc hg hv)),
    fun hg hlo hb => issue_ok (body := csrwrOf 0x021) h (csrwrOf_accepts (csrWrite_winstat hg hlo hb))⟩

end Sys2Proof.Machine
end

section
/-! Where the transfers trap, in the order of their checks, and the instructions of CF that have none (06 R131, R137, R150, R151). -/
namespace Sys2Proof.Machine
open Sys2Proof.Stated

section
variable {c : Ctx} {t : State} {a b : W64}

/-! ### Trap level, and the link stack (R131, R151) -/

/-- What `call`, `calli`, `ret`, `enter` and the minors of LP check first: none of them is an instruction of trap level. -/
theorem levelCheck_refuses {r : Res} (hr : t.rlxRefuses c = none) (ha : c.anyLane = true) (htl : c.g.flow.tl = true) :
    rlxGate c t (c.guarded [(c.g.flow.tl, illop 0x0D)] r) = .trap .illop 0x0D := by
  rw [rlxGate_pass hr, htl]
  exact guarded_fail (p := illop 0x0D) ha rfl

/-- Behind that check, where a lane executes. -/
theorem levelCheck_pass {r : Res} (hr : t.rlxRefuses c = none) (ha : c.anyLane = true) (htl : c.g.flow.tl = false) :
    rlxGate c t (c.guarded [(c.g.flow.tl, illop 0x0D)] (c.once t r)) = r := by
  rw [rlxGate_pass hr, guarded_one htl, once_of_anyLane ha]

/-- `call` and `calli` behind the checks that pass for a target of the group's CODEHI: a 17th link is refused. -/
theorem Ctx.callTo_overflow (hgo : MayGo c t c.g a) (htl : c.g.flow.tl = false) (hl : 16 ≤ c.g.flow.links.length)
    (hb : fld b 63 52 = 0) (hab : b &&& ~~~3#64 = a) : c.callTo t b = .trap .wovf (w64 (2 ^ 60)) := by
  obtain ⟨hr, ha, hs⟩ := hgo
  have hhi : badHi c.g ((toAll c.lanes a).map fun p => p.2) = false := by simp [badHi, toAll, hs]
  have hfull : decide (16 ≤ c.g.ldepth) = true := decide_eq_true hl
  rw [Ctx.callTo, levelCheck_pass hr ha htl, guarded_one (by simp [hb]), hab, Ctx.goTo, hhi, hfull]
  exact guarded_fail (p := (.wovf, w64 (2 ^ 60))) ha rfl

/-- `ret` without a frame. -/
theorem ret_noFrame (hr : t.rlxRefuses c = none) (ha : c.anyLane = true) (htl : c.g.flow.tl = false) (hl : c.g.flow.links = []) :
    ret c t = .trap .illop 0x0D := by
  rw [ret, levelCheck_pass hr ha htl, hl]
  rfl

/-! ### Another CODEHI (R137) -/

/-- A transfer of some lane to an address of another CODEHI is refused in front of its other checks. -/
theorem Ctx.goTo_refuses {l : List Nat} {more : List (Bool × (Cause × W64))} {f : Group → Group} (ha : c.anyLane = true)
    (hl : l ≠ []) (hs : c.g.sameHi a = false) : c.goTo t (toAll l a) more f = .trap .illop 0x0D := by
  have hhi : badHi c.g ((toAll l a).map fun p => p.2) = true := by
    simpa [badHi, toAll, hs] using List.exists_mem_of_ne_nil l hl
  rw [Ctx.goTo, hhi]
  exact guarded_fail (p := illop 0x0D) ha rfl

theorem Ctx.callTo_refuses (hr : t.rlxRefuses c = none) (ha : c.anyLane = true) (htl : c.g.flow.tl = false)
    (hs : c.g.sameHi (b &&& ~~~3#64) = false) : c.callTo t b = .trap .illop 0x0D := by
  rw [Ctx.callTo, levelCheck_pass hr ha htl]
  cases hb : fld b 63 52 != 0 with
  | true => exact guarded_fail (p := illop 0x0D) ha rfl
  | false => exact (guarded_one rfl).trans (Ctx.goTo_refuses ha (Ctx.anyLane_iff.mp ha) hs)

theorem ret_refuses {e : LinkEntry} {l : List LinkEntry} (hr : t.rlxRefuses c = none) (ha : c.anyLane = true)
    (htl : c.g.flow.tl = false) (hl : c.g.flow.links = e :: l) (hs : c.g.sameHi e.ret = false) : ret c t = .trap .illop 0x0D := by
  rw [ret, levelCheck_pass hr ha htl, hl]
  exact Ctx.goTo_refuses ha (Ctx.anyLane_iff.mp ha) hs

end

/-- The executing lanes are lanes of the lane set that have not exited (R30). -/
theorem State.activeOf_inSet {s : State} {g : Group} {cl : Clause} {o : Ops} {isSel : Bool} {i : Nat}
    (h : (s.activeOf g cl o isSel).getLsbD i = true) : (cl.lanes &&& ~~~g.flow.exited).getLsbD i = true := by
  unfold State.activeOf at h
  dsimp only at h
  split_ifs at h <;> simp only [BitVec.getLsbD_and, Bool.and_eq_true] at h ⊢
  · exact h.1
  · exact h.1.1

/-- Where a lane executes, the lane set of a `jmp` has a lane. -/
theorem Ctx.laneSet_ne_nil {s : State} {maj min : Nat} {o : Ops} {g : Group} {cl : Clause} (h : (s.ctx maj min o g cl).anyLane = true) :
    lanesOf g.width (cl.lanes &&& ~~~g.flow.exited) ≠ [] := by
  obtain ⟨i, hi⟩ := List.exists_mem_of_ne_nil _ (Ctx.anyLane_iff.mp h)
  obtain ⟨hw, hact⟩ := Ctx.mem_lanes.mp hi
  exact List.ne_nil_of_mem (List.mem_filter.mpr ⟨List.mem_range.mpr hw, State.activeOf_inSet hact⟩)

/-- Settles O23: the checks of each transfer in their order, the level, then the target's CODEHI, then the link stack. -/
theorem transfersRefused : Obligations.TransfersRefused := by
  refine ⟨fun mk m hm o s g cl t h => ?_, fun mk m hm o s g cl t a h => ?_, fun o s g cl t h => ?_,
    fun mk m hm o s g cl t a h => ?_⟩
  · intro c hr ha htl
    simp only [List.mem_cons, Prod.mk.injEq, List.not_mem_nil, or_false] at hm
    rcases hm with ⟨rfl, rfl⟩ | ⟨rfl, rfl⟩ | ⟨rfl, rfl⟩ | ⟨rfl, rfl⟩
    · exact issue_trap (body := fun c s => c.callTo s c.target) h (by decide) (levelCheck_refuses hr ha htl)
    · exact issue_trap (body := fun c s => c.callTo s c.sA) h (by decide) (levelCheck_refuses hr ha htl)
    · exact issue_trap (body := ret) h (by decide) (levelCheck_refuses hr ha htl)
    · exact issue_trap (body := enter) h (by decide) (levelCheck_refuses hr ha htl)
  · intro c h2 h3 hgo htl hl
    simp only [List.mem_cons, Prod.mk.injEq, List.not_mem_nil, or_false] at hm
    rcases hm with ⟨rfl, rfl⟩ | ⟨rfl, rfl⟩
    · obtain ⟨ht, ha⟩ := Ctx.target_of_branchTo (h2 rfl).1 (h2 rfl).2
      have hcall := Ctx.callTo_overflow hgo htl hl (Group.sameHi_high hgo.2.2) ha
      exact issue_trap (body := fun c s => c.callTo s c.target) h (by decide) (by rw [ht]; exact hcall)
    · obtain ⟨ha, hlt⟩ := h3 rfl
      exact issue_trap (body := fun c s => c.callTo s c.sA) h (by decide)
        (Ctx.callTo_overflow hgo htl hl (fld_high_of_lt hlt) ha.symm)
  · intro c hr htl ha hl
    exact issue_trap (body := ret) h (by decide) (ret_noFrame hr ha htl hl)
  · intro c h3 hcalli hret htl hr ha hs
    simp only [List.mem_cons, Prod.mk.injEq, List.not_mem_nil, or_false] at hm
    rcases hm with ⟨rfl, rfl⟩ | ⟨rfl, rfl⟩ | ⟨rfl, rfl⟩ | ⟨rfl, rfl⟩ | ⟨rfl, rfl⟩
    · obtain ⟨ht, -⟩ := Ctx.target_of_branchTo (h3 (by decide)).1 (h3 (by decide)).2
      refine issue_trap h (by decide) ?_
      rw [rlxGate_pass hr, once_of_anyLane ha, ht]
      exact Ctx.goTo_refuses ha (Ctx.anyLane_iff.mp ha) hs
    · obtain ⟨ht, -⟩ := Ctx.target_of_branchTo (h3 (by decide)).1 (h3 (by decide)).2
      refine issue_trap h (by decide) ?_
      rw [rlxGate_pass hr, once_of_anyLane ha, ht]
      exact Ctx.goTo_refuses ha (Ctx.laneSet_ne_nil ha) hs
    · obtain ⟨ht, hal⟩ := Ctx.target_of_branchTo (h3 (by decide)).1 (h3 (by decide)).2
      refine issue_trap (body := fun c s => c.callTo s c.target) h (by decide) (Ctx.callTo_refuses hr ha (htl (by decide)) ?_)
      rwa [ht, hal]
    · refine issue_trap (body := fun c s => c.callTo s c.sA) h (by decide) (Ctx.callTo_refuses hr ha (htl (by decide)) ?_)
      rwa [← hcalli rfl]
    · obtain ⟨e, l, hl, rfl⟩ := hret rfl
      exact issue_trap (body := ret) h (by decide) (ret_refuses hr ha (htl (by decide)) hl hs)

/-! ### `exit`, `yield`, `nop`, `trap`, `sys` (R150) -/

/-- Settles O25: each effect stands behind the relaxation gate alone. -/
theorem exitYieldNopSysTrap : Obligations.ExitYieldNopSysTrap := by
  refine ⟨fun o s g cl t h => ?_, fun o s g cl t h => ?_, fun o s g cl t h => ?_, fun o s g cl t h => ?_, fun o s g cl t h => ?_⟩
  · intro c hr
    exact issue_ok (body := exitOp) h (rlxGate_pass hr)
  · intro c hr
    exact issue_once h (rlxGate_pass hr) fun _ => rfl
  · intro c hr
    exact issue_ok h (rlxGate_pass hr)
  · intro c hr
    exact issue_once h (rlxGate_pass hr) fun _ => rfl
  · intro c hr ha htl
    have hlevel : c.g.flow.tl = false := htl
    refine issue_stay (body := swtrap) h ?_
    rw [swtrap, rlxGate_pass hr, once_of_anyLane ha, hlevel]
    rfl

end Sys2Proof.Machine
end

section
/-! The loop instructions, and the lanes that `movlpc` sends (06 R140, R144, R152). -/
namespace Sys2Proof.Machine
open Sys2Proof.Stated

section
variable {c : Ctx} {t : State}

/-! ### Loops (R140, R152) -/

/-- The minors of LP at user level. -/
theorem lpGate_pass {r : Res} (hr : t.rlxRefuses c = none) (htl : c.g.flow.tl = false) (ha : c.anyLane = true) :
    lpGate c t r = r := levelCheck_pass hr ha htl

/-- Address of the end header that `loop` names. -/
def Ctx.loopEndh (c : Ctx) : W64 := c.cl.next + w64 (4 * (c.fd * 64 + c.fb))

/-- A fifth loop, or an end before the start of the body (R140). -/
def Ctx.loopRefused (c : Ctx) (start : W64) : Bool := 4 ≤ c.g.flow.loops.length || c.loopEndh.toNat < start.toNat

theorem Ctx.loopRefused_iff {start : W64} :
    c.loopRefused start = true ↔ 4 ≤ c.g.flow.loops.length ∨ c.loopEndh.toNat < start.toNat := by
  rw [Ctx.loopRefused, Bool.or_eq_true, decide_eq_true_iff, decide_eq_true_iff]

/-- `loop` once the start of its body is known. -/
theorem loopOp_eq {u : State} {start : W64} (hr : t.rlxRefuses c = none) (htl : c.g.flow.tl = false) (ha : c.anyLane = true)
    (hs : t.skipInstrs c.g (c.cl.cnt - c.cl.pos - 1) c.after = (u, .ok start)) : loopOp c t =
      if c.loopRefused start then .trap .illop 0x0D
      else .ok (u.onGroup c.g.id fun h => { h with flow := { h.flow with
        loops := { start := start, endh := c.loopEndh, n := if c.sAl = 0 then 1 else c.sAl, fl := h.flow.links.length }
          :: h.flow.loops } }) := by
  rw [loopOp, lpGate_pass hr htl ha, hs]
  cases hbad : c.loopRefused start with
  | true => exact guarded_fail (p := illop 0x0D) ha (if_pos hbad)
  | false => exact guarded_one hbad

/-- The pops of `popLoops` are those of a prefix that belongs to the top frame. -/
theorem popLoops_eq_drop {g : Group} : ∀ {k : Nat} {l : List LoopEntry}, k ≤ l.length → (∀ e ∈ l.take k, e.fl = g.ldepth) →
    popLoops g k l = some (l.drop k)
  | 0, _, _, _ => rfl
  | k + 1, e :: l, hk, h => by
    rw [popLoops, if_pos (h e (by simp))]
    exact popLoops_eq_drop (Nat.le_of_succ_le_succ hk) fun x hx => h x (by simp [hx])

theorem popN_pops {k : Nat} {l : List LoopEntry} (hr : t.rlxRefuses c = none) (htl : c.g.flow.tl = false) (ha : c.anyLane = true)
    (hl : popLoops c.g k c.g.flow.loops = some l) :
    popN (some k) c t = .ok (t.onGroup c.g.id fun h => { h with flow := { h.flow with loops := l } }) := by
  rw [popN, lpGate_pass hr htl ha, Option.bind_some, hl]
  rfl

theorem popN_refuses {k : Option Nat} (hr : t.rlxRefuses c = none) (htl : c.g.flow.tl = false) (ha : c.anyLane = true)
    (hk : (k.bind fun k => popLoops c.g k c.g.flow.loops) = none) : popN k c t = .trap .illop 0x0D := by
  rw [popN, lpGate_pass hr htl ha, hk]
  rfl

/-- The pops of `lpop` (R152); none where D is above the number of loops, or above 3. -/
def lpopCount (c : Ctx) : Option Nat :=
  if c.fd ≤ c.g.flow.loops.length && c.fd < 4 then some (c.g.flow.loops.length - c.fd) else none

theorem lcnt_eq (hr : t.rlxRefuses c = none) (htl : c.g.flow.tl = false) (ha : c.anyLane = true) :
    lcnt c t = match c.g.flow.loops[c.fa]? with | some e => .ok (c.putS t e.n) | none => .trap .illop 0x0D := by
  rw [lcnt, lpGate_pass hr htl ha]
  cases c.g.flow.loops[c.fa]? <;> rfl

/-! ### `movlpc` (R144) -/

/-- The program counter of a lane stands in its group's CODEHI (R137). -/
theorem Group.pcOf_sameHi (g : Group) (x : W32) : g.sameHi (g.pcOf x) = true := by
  have hx := x.isLt
  have hhi := g.codehi.isLt
  have hval : (g.pcOf x).toNat = g.codehi.toNat * 2 ^ 32 + x.toNat := by
    rw [Group.pcOf, BitVec.toNat_setWidth_of_le (by decide), BitVec.toNat_append, ← Nat.shiftLeft_add_eq_or_of_lt hx, Nat.shiftLeft_eq]
  simp only [Group.sameHi, Bool.and_eq_true, beq_iff_eq, fld_eq_fieldOf, fieldOf, hval]
  omega

theorem Ctx.goTo_laneTargets (u : State) : c.goTo u c.laneTargets [] id = .ok (u.onGroup c.g.id fun h =>
    { h with clause := h.clause.map fun k => { k with targets := c.laneTargets } }) := by
  refine Ctx.goTo_ok (f := id) (fun p hp => ?_) rfl
  obtain ⟨i, -, rfl⟩ := List.mem_map.mp hp
  exact Group.pcOf_sameHi _ _

/-- `movlpc` behind its tags: the headers of its lanes' targets, then the lanes go. -/
theorem movlpc_eq (ht : c.tagsPass (c.needA [0, 1])) (hr : t.rlxRefuses c = none) : movlpc c t =
    c.afterHeaders (t.checkHeaders c.g (c.laneTargets.map fun p => p.2).eraseDups) fun s => c.goTo s c.laneTargets [] id :=
  checked_pass ht hr fun _ => rfl

end

/-- Settles O26: the loop instructions behind `lpGate`, `movlpc` behind the headers of its targets. -/
theorem loopsAndLaneMoves : Obligations.LoopsAndLaneMoves := by
  refine ⟨⟨fun o s g cl t u start h => ?_, fun o s g cl t h => ?_, fun o s g cl t h => ?_, fun o s g cl t h => ?_⟩,
    fun o s g cl t h => ?_⟩
  · intro c e hr htl ha hs
    have hloop : loopOp c t = _ := loopOp_eq hr htl ha hs
    refine ⟨fun hl he => issue_ok (body := loopOp) h (hloop.trans (if_neg ?_)),
      fun hl => issue_trap (body := loopOp) h (by decide) (hloop.trans (if_pos (Ctx.loopRefused_iff.mpr (.inl hl))))⟩
    exact Ctx.loopRefused_iff.not.mpr (not_or.mpr ⟨not_le.mpr hl, not_lt.mpr he⟩)
  · intro c hr htl ha
    refine ⟨fun e l hl he => issue_ok (body := popN (some 1)) h (popN_pops hr htl ha ?_),
      fun hl => issue_trap (body := popN (some 1)) h (by decide) (popN_refuses hr htl ha ?_)⟩
    · rw [show c.g.flow.loops = e :: l from hl]
      refine popLoops_eq_drop (k := 1) (Nat.le_add_left 1 _) fun x hx => ?_
      rwa [List.mem_singleton.mp hx]
    · rw [show c.g.flow.loops = [] from hl]
      rfl
  · intro c hr htl ha
    have hcnt : lcnt c t = _ := lcnt_eq hr htl ha
    refine ⟨fun e he => issue_ok (body := lcnt) h (hcnt.trans ?_), fun hl => issue_trap (body := lcnt) h (by decide) (hcnt.trans ?_)⟩
    · rw [show c.g.flow.loops[c.fa]? = some e from he]
    · rw [show c.g.flow.loops[c.fa]? = none from List.getElem?_eq_none hl]
  · intro c hr htl ha
    refine ⟨fun hd h4 hfl => issue_ok (body := fun c s => popN (lpopCount c) c s) h ?_,
      fun hd => issue_trap (body := fun c s => popN (lpopCount c) c s) h (by decide) (popN_refuses hr htl ha ?_)⟩
    · have hcount : lpopCount c = some (g.flow.loops.length - c.fd) := if_pos (by simpa using ⟨hd, h4⟩)
      rw [hcount]
      exact popN_pops hr htl ha (popLoops_eq_drop (Nat.sub_le _ _) hfl)
    · have hcount : lpopCount c = none := if_neg fun hle => by
        simp only [Bool.and_eq_true, decide_eq_true_eq] at hle
        exact hd.elim (not_lt.mpr hle.1) (not_le.mpr hle.2)
      rw [hcount]
      rfl
  · intro c pcAt ht hr
    have hpc : (c.laneTargets.map fun p => p.2) = c.lanes.map pcAt := by
      rw [Ctx.laneTargets, List.map_map]
      rfl
    have hmov : movlpc c t = _ := movlpc_eq ht hr
    rw [hpc] at hmov
    refine ⟨fun u hu => issue_ok (body := movlpc) h ?_, fun u k x hu => issue_stay (body := movlpc) h ?_⟩
    · rw [hmov, show c.g = g from rfl, hu]
      exact Ctx.goTo_laneTargets u
    · rw [hmov, show c.g = g from rfl, hu]
      rfl

end Sys2Proof.Machine
end

section
/-! Magnitudes as rationals, with a sign and without, and how `roundAt` rounds them to whole units (07 R155, R166, R167). -/
namespace Sys2Proof.Machine
open Sys2Proof.Stated

/-! ### Powers of 2 -/

theorem twoTo_pos (z : ℤ) : 0 < twoTo z := zpow_pos two_pos z

theorem twoTo_ne_zero (z : ℤ) : twoTo z ≠ 0 := (twoTo_pos z).ne'

theorem twoTo_add (y z : ℤ) : twoTo (y + z) = twoTo y * twoTo z := zpow_add₀ two_ne_zero y z

theorem twoTo_natCast (n : ℕ) : twoTo n = 2 ^ n := zpow_natCast 2 n

theorem twoTo_le_iff {y z : ℤ} : twoTo y ≤ twoTo z ↔ y ≤ z := zpow_le_zpow_iff_right₀ one_lt_two

/-- A difference of exponents that is no smaller than zero, as a factor. -/
theorem twoTo_eq_mul {y z : ℤ} (h : z ≤ y) : twoTo y = 2 ^ (y - z).toNat * twoTo z := by
  rw [← twoTo_natCast, ← twoTo_add]
  congr 1
  omega

theorem magLt_iff {m k : ℕ} {e q : ℤ} : magLt m e k q = true ↔ m * twoTo e < k * twoTo q := by
  rw [magLt, decide_eq_true_iff, twoTo_eq_mul (min_le_left e q), twoTo_eq_mul (min_le_right e q), ← mul_assoc, ← mul_assoc,
    mul_lt_mul_iff_left₀ (twoTo_pos _)]
  exact_mod_cast Iff.rfl

/-- The highest bit of a magnitude. -/
theorem twoTo_top_le {m : ℕ} (hm : m ≠ 0) (e : ℤ) :
    twoTo (e + bitLen m - 1) ≤ m * twoTo e ∧ m * twoTo e < twoTo (e + bitLen m) := by
  have hlog : bitLen m = m.log2 + 1 := if_neg hm
  have hlo : ((2 ^ m.log2 : ℕ) : ℚ) ≤ m := Nat.cast_le.mpr (Nat.log2_self_le hm)
  have hhi : (m : ℚ) < (2 ^ (m.log2 + 1) : ℕ) := Nat.cast_lt.mpr Nat.lt_log2_self
  rw [hlog]
  constructor
  · rw [show e + ((m.log2 + 1 : ℕ) : ℤ) - 1 = (m.log2 : ℤ) + e by push_cast; ring, twoTo_add, twoTo_natCast]
    exact mul_le_mul_of_nonneg_right (by exact_mod_cast hlo) (twoTo_pos e).le
  · rw [add_comm e, twoTo_add, twoTo_natCast]
    exact mul_lt_mul_of_pos_right (by exact_mod_cast hhi) (twoTo_pos e)

/-! ### Signs -/

section
variable {neg : Bool} {x y : ℚ}

theorem signed_zero : signed neg 0 = 0 := by cases neg <;> simp [signed]

theorem abs_signed : |signed neg x| = |x| := by cases neg <;> simp [signed]

theorem signed_eq_zero : signed neg x = 0 ↔ x = 0 := by cases neg <;> simp [signed]

theorem signed_mul : signed neg x * y = signed neg (x * y) := by cases neg <;> simp [signed]

theorem signed_div : signed neg x / y = signed neg (x / y) := by cases neg <;> simp [signed, neg_div]

theorem signed_inj : signed neg x = signed neg y ↔ x = y := by cases neg <;> simp [signed]

theorem signed_lt_zero (hx : 0 < x) : signed neg x < 0 ↔ neg = true := by cases neg <;> simp [signed, hx, hx.le]

theorem signed_pos (hx : 0 < x) : 0 < signed neg x ↔ neg = false := by cases neg <;> simp [signed, hx, hx.le]

end

theorem mag_pos {m : ℕ} (hm : m ≠ 0) (e : ℤ) : (0 : ℚ) < m * twoTo e :=
  mul_pos (Nat.cast_pos.mpr (Nat.pos_of_ne_zero hm)) (twoTo_pos e)

theorem abs_signed_mag (neg : Bool) (k : ℕ) (q : ℤ) : |signed neg (k * twoTo q)| = k * twoTo q := by
  rw [abs_signed, abs_of_nonneg (mul_nonneg (Nat.cast_nonneg k) (twoTo_pos q).le)]

theorem signed_mag_eq_zero {neg : Bool} {k : ℕ} {q : ℤ} : signed neg (k * twoTo q) = 0 ↔ k = 0 := by
  rw [signed_eq_zero, mul_eq_zero, or_iff_left (twoTo_ne_zero q), Nat.cast_eq_zero]

theorem signed_mag_lt_zero {neg : Bool} {k : ℕ} {q : ℤ} : signed neg (k * twoTo q) < 0 ↔ neg = true ∧ k ≠ 0 := by
  by_cases hk : k = 0
  · simp [hk, signed_zero]
  · rw [signed_lt_zero (mag_pos hk q)]
    simp [hk]

/-- A number of units with a sign. -/
def signedInt (neg : Bool) (k : ℕ) : ℤ := if neg then -(k : ℤ) else k

theorem signedInt_cast (neg : Bool) (k : ℕ) : ((signedInt neg k : ℤ) : ℚ) = signed neg k := by
  cases neg <;> simp [signedInt, signed]

theorem abs_signed_sub (neg : Bool) (t : ℚ) (k : ℕ) : |signed neg t - (signedInt neg k : ℤ)| = |t - k| := by
  rw [signedInt_cast]
  cases neg
  · rfl
  · simp only [signed, if_true]
    rw [← neg_add', abs_neg, ← sub_eq_add_neg]

theorem abs_signedInt (neg : Bool) (k : ℕ) : |((signedInt neg k : ℤ) : ℚ)| = k := by
  rw [signedInt_cast, abs_signed, Nat.abs_cast]

theorem even_signedInt {neg : Bool} {k : ℕ} : Even (signedInt neg k) ↔ Even k := by
  cases neg <;> simp [signedInt]

theorem abs_signedInt_mul (neg : Bool) (k : ℕ) (z : ℤ) : |((signedInt neg k : ℤ) : ℚ) * twoTo z| = k * twoTo z := by
  rw [abs_mul, abs_signedInt, abs_of_pos (twoTo_pos z)]

/-! ### The nearest integer (R166, R167) -/

theorem abs_sub_lt_one_of_nearest {rm : Rm} {t : ℚ} {k : ℤ} (h : Nearest rm t k) : |t - k| < 1 := by
  rw [abs_sub_lt_iff]
  have hfl := Int.floor_le t
  have hfl' := Int.lt_floor_add_one t
  have hce := Int.le_ceil t
  have hce' := Int.ceil_lt_add_one t
  cases rm with
  | rtz =>
    rcases le_total 0 t with ht | ht
    · rw [h.1 ht]; constructor <;> linarith
    · rw [h.2 ht]; constructor <;> linarith
  | rdn => rw [show k = ⌊t⌋ from h]; constructor <;> linarith
  | rup => rw [show k = ⌈t⌉ from h]; constructor <;> linarith
  | rne | rna => have := abs_le.mp h.1; constructor <;> linarith

theorem nearest_intCast (rm : Rm) (k : ℤ) : Nearest rm k k := by
  cases rm <;> simp [Nearest]

/-- The part of a unit that a remainder stands for. -/
theorem remainder_bounds {rem half : ℕ} (hrem : rem < 2 * half) : (0 : ℚ) ≤ rem / (2 * half) ∧ (rem : ℚ) / (2 * half) < 1 ∧
    ((rem : ℚ) / (2 * half) = 0 ↔ rem = 0) ∧ ((rem : ℚ) / (2 * half) < 1 / 2 ↔ rem < half) ∧
    ((rem : ℚ) / (2 * half) = 1 / 2 ↔ rem = half) := by
  have hhalf : (0 : ℚ) < half := Nat.cast_pos.mpr (by omega)
  have hwhole : (0 : ℚ) < 2 * half := by linarith
  refine ⟨by positivity, ?_, ?_, ?_, ?_⟩
  · rw [div_lt_one hwhole]
    exact_mod_cast hrem
  · rw [div_eq_zero_iff, or_iff_left hwhole.ne', Nat.cast_eq_zero]
  · rw [div_lt_div_iff₀ hwhole two_pos, one_mul, mul_comm, mul_lt_mul_iff_right₀ two_pos, Nat.cast_lt]
  · rw [div_eq_div_iff hwhole.ne' two_ne_zero, one_mul, mul_comm, mul_right_inj' two_ne_zero, Nat.cast_inj]

theorem nearest_rtz_of_floor {neg : Bool} {t : ℚ} {k : ℕ} (hpos : 0 ≤ t) (hfloor : (k : ℤ) = ⌊t⌋) :
    Nearest .rtz (signed neg t) (signedInt neg k) := by
  cases neg with
  | false =>
    refine ⟨fun _ => hfloor, fun ht => ?_⟩
    have hz : t = 0 := le_antisymm ht hpos
    rw [hz, Int.floor_zero] at hfloor
    rw [hz, signed_zero, Int.ceil_zero]
    exact hfloor
  | true =>
    refine ⟨fun ht => ?_, fun _ => (Int.ceil_neg.trans (congrArg _ hfloor.symm)).symm⟩
    have hz : t = 0 := le_antisymm (neg_nonneg.mp ht) hpos
    rw [hz, Int.floor_zero] at hfloor
    rw [hz, signed_zero, Int.floor_zero]
    exact neg_eq_zero.mpr hfloor

/-- A quotient of magnitudes rounded: the integer `k` below it or the next, as `roundUp` says of the remainder. -/
theorem nearest_roundUp (rm : Rm) (neg : Bool) {k rem half : ℕ} (hrem : rem < 2 * half) :
    Nearest rm (signed neg (k + (rem : ℚ) / (2 * half)))
      (signedInt neg (if roundUp rm neg (k % 2 == 1) false rem half then k + 1 else k)) := by
  obtain ⟨hnonneg, hlt, hzero, hlow, hmid⟩ := remainder_bounds hrem
  have hhigh : 1 / 2 < (rem : ℚ) / (2 * half) ↔ half < rem := by
    rw [← not_le, le_iff_lt_or_eq, hlow, hmid, ← le_iff_lt_or_eq, not_le]
  generalize (rem : ℚ) / (2 * half) = part at hnonneg hlt hzero hlow hmid hhigh
  have hpos : (0 : ℚ) ≤ k + part := by positivity
  have hfloor : (k : ℤ) = ⌊(k : ℚ) + part⌋ := by
    rw [eq_comm, Int.floor_eq_iff]
    push_cast
    constructor <;> linarith
  have hceil : ((if rem != 0 || false then k + 1 else k : ℕ) : ℤ) = ⌈(k : ℚ) + part⌉ := by
    by_cases h : rem = 0
    · simp [h, hzero.mpr h]
    · have := lt_of_le_of_ne hnonneg (Ne.symm (mt hzero.mp h))
      rw [if_pos (by simpa using h), eq_comm, Int.ceil_eq_iff]
      push_cast
      constructor <;> linarith
  have hdown : |(k : ℚ) + part - k| = part := by rw [add_sub_cancel_left, abs_of_nonneg hnonneg]
  have hup : |(k : ℚ) + part - (k + 1 : ℕ)| = 1 - part := by
    rw [abs_of_nonpos (by push_cast; linarith)]
    push_cast
    ring
  cases rm with
  | rtz => exact nearest_rtz_of_floor hpos hfloor
  | rdn =>
    cases neg with
    | false => exact hfloor
    | true => exact (Int.floor_neg.trans (congrArg _ hceil.symm)).symm
  | rup =>
    cases neg with
    | false => exact hceil
    | true => exact (Int.ceil_neg.trans (congrArg _ hfloor.symm)).symm
  | rne =>
    have hr : roundUp .rne neg (k % 2 == 1) false rem half = true ↔ half < rem ∨ rem = half ∧ ¬ Even k := by
      simp [roundUp, Nat.odd_iff]
    simp only [Nearest, abs_signed_sub, even_signedInt, hr]
    split_ifs with h
    · rw [hup]
      refine ⟨?_, fun heq => ?_⟩
      · have := h.imp hhigh.mpr fun h => hmid.mpr h.1
        rcases this with h | h <;> linarith
      · have hne : ¬ half < rem := fun hlt => by linarith [hhigh.mpr hlt]
        exact Nat.even_add_one.mpr (h.resolve_left hne).2
    · rw [hdown]
      rw [not_or, not_and, not_not] at h
      exact ⟨not_lt.mp fun hlt => h.1 (hhigh.mp hlt), fun heq => h.2 (hmid.mp heq)⟩
  | rna =>
    have hr : roundUp .rna neg (k % 2 == 1) false rem half = true ↔ half ≤ rem := by simp [roundUp]
    simp only [Nearest, abs_signed_sub, abs_signed, abs_signedInt, hr, abs_of_nonneg hpos]
    split_ifs with h
    · rw [hup]
      have : 1 / 2 ≤ part := not_lt.mp fun hlt => absurd (hlow.mp hlt) (not_lt.mpr h)
      push_cast
      exact ⟨by linarith, fun _ => by linarith⟩
    · rw [hdown]
      have : part < 1 / 2 := hlow.mpr (not_le.mp h)
      exact ⟨this.le, fun heq => absurd heq this.ne⟩

/-- A magnitude below the unit, in whole units and a remainder. -/
theorem mag_div_unit {m : ℕ} {e q : ℤ} (h : e < q) : (m : ℚ) * twoTo e / twoTo q =
    (m / 2 ^ (q - e).toNat : ℕ) + (m % 2 ^ (q - e).toNat : ℕ) / (2 * (2 ^ ((q - e).toNat - 1) : ℕ)) := by
  have hpow : 2 ^ (q - e).toNat = 2 * 2 ^ ((q - e).toNat - 1) := by
    rw [← pow_succ', Nat.sub_add_cancel (by omega)]
  have hdiv : ((2 ^ (q - e).toNat : ℕ) : ℚ) * (m / 2 ^ (q - e).toNat : ℕ) + (m % 2 ^ (q - e).toNat : ℕ) = m := by
    exact_mod_cast Nat.div_add_mod m _
  have hne : ((2 ^ (q - e).toNat : ℕ) : ℚ) ≠ 0 := by positivity
  have hwhole : (2 : ℚ) * (2 ^ ((q - e).toNat - 1) : ℕ) = (2 ^ (q - e).toNat : ℕ) := by
    rw [hpow]
    push_cast
    rfl
  rw [twoTo_eq_mul h.le, mul_div_mul_right _ _ (twoTo_ne_zero e), hwhole, ← Nat.cast_ofNat (R := ℚ) (n := 2), ← Nat.cast_pow]
  field_simp
  linarith

/-- `roundAt` of an exact magnitude rounds it to the nearest number of units. -/
theorem roundAt_nearest (rm : Rm) (neg : Bool) (m : ℕ) (e q : ℤ) :
    Nearest rm (signed neg (m * twoTo e) / twoTo q) (signedInt neg (roundAt rm neg m e false q).1) := by
  rw [signed_div, roundAt]
  split_ifs with hq
  · rw [twoTo_eq_mul hq, ← mul_assoc, mul_div_cancel_right₀ _ (twoTo_ne_zero q),
      show (m : ℚ) * 2 ^ (e - q).toNat = (m * 2 ^ (e - q).toNat : ℕ) by push_cast; rfl, ← signedInt_cast]
    exact nearest_intCast rm _
  · rw [mag_div_unit (not_le.mp hq)]
    refine nearest_roundUp rm neg ?_
    rw [← pow_succ', Nat.sub_add_cancel (by omega)]
    exact Nat.mod_lt _ (by positivity)

/-- The magnitude in units, and what it is rounded to, are less than one unit apart. -/
theorem roundAt_close (rm : Rm) (neg : Bool) (m : ℕ) (e q : ℤ) :
    |m * twoTo e / twoTo q - (roundAt rm neg m e false q).1| < 1 := by
  have h := abs_sub_lt_one_of_nearest (roundAt_nearest rm neg m e q)
  rwa [signed_div, abs_signed_sub] at h

theorem roundAt_le {rm : Rm} {neg : Bool} {m n : ℕ} {e q : ℤ} (h : m * twoTo e ≤ n * twoTo q) :
    (roundAt rm neg m e false q).1 ≤ n := by
  have hclose := abs_lt.mp (roundAt_close rm neg m e q)
  have hle : m * twoTo e / twoTo q ≤ n := (div_le_iff₀ (twoTo_pos q)).mpr h
  have : ((roundAt rm neg m e false q).1 : ℚ) < (n + 1 : ℕ) := by push_cast; linarith
  exact Nat.lt_add_one_iff.mp (Nat.cast_lt.mp this)

theorem le_roundAt {rm : Rm} {neg : Bool} {m n : ℕ} {e q : ℤ} (h : n * twoTo q ≤ m * twoTo e) :
    n ≤ (roundAt rm neg m e false q).1 := by
  have hclose := abs_lt.mp (roundAt_close rm neg m e q)
  have hle : n ≤ m * twoTo e / twoTo q := (le_div_iff₀ (twoTo_pos q)).mpr h
  have : (n : ℚ) < ((roundAt rm neg m e false q).1 + 1 : ℕ) := by push_cast; linarith
  exact Nat.lt_add_one_iff.mp (Nat.cast_lt.mp this)

/-- `roundAt` marks the magnitudes that are no whole number of units. -/
theorem roundAt_inexact {rm : Rm} {neg : Bool} {m : ℕ} {e q : ℤ} : (roundAt rm neg m e false q).2 = true ↔
    (roundAt rm neg m e false q).1 * twoTo q ≠ m * twoTo e := by
  by_cases hq : q ≤ e
  · simp [roundAt, hq, twoTo_eq_mul hq, mul_assoc]
  · have hexact : m % 2 ^ (q - e).toNat = 0 → ((roundAt rm neg m e false q).1 : ℚ) * twoTo q = m * twoTo e := fun h => by
      have hval : (m : ℚ) * twoTo e = (m / 2 ^ (q - e).toNat : ℕ) * twoTo q := by
        have := mag_div_unit (m := m) (not_le.mp hq)
        rwa [h, Nat.cast_zero, zero_div, add_zero, div_eq_iff (twoTo_ne_zero q)] at this
      rw [hval, le_antisymm (roundAt_le hval.le) (le_roundAt hval.ge)]
    have hwhole : ((roundAt rm neg m e false q).1 : ℚ) * twoTo q = m * twoTo e → m % 2 ^ (q - e).toNat = 0 := fun h => by
      rw [twoTo_eq_mul (not_le.mp hq).le, ← mul_assoc, mul_left_inj' (twoTo_ne_zero e)] at h
      exact Nat.mod_eq_zero_of_dvd (Dvd.intro_left _ (by exact_mod_cast h))
    have hmark : (roundAt rm neg m e false q).2 = true ↔ m % 2 ^ (q - e).toNat ≠ 0 := by simp [roundAt, hq]
    rw [hmark]
    exact not_congr ⟨hexact, hwhole⟩

end Sys2Proof.Machine
end

section
/-! Codes of an exponent and a mantissa field as magnitudes, and the binary formats: what a code stands for, and one rounding (07 R155,
R159, R166). -/
namespace Sys2Proof.Machine
open Sys2Proof.Stated

/-! ### Exponent and mantissa fields (R155, R159) -/

/-- The magnitude of a code without its sign: `M` mantissa bits under an exponent field, the subnormal codes in units of 2^`low`. -/
noncomputable def codeMag (M : ℕ) (low : ℤ) (code : ℕ) : ℚ :=
  if code / 2 ^ M = 0 then (code % 2 ^ M : ℕ) * twoTo low
  else (2 ^ M + (code % 2 ^ M : ℕ)) * twoTo (low + ((code / 2 ^ M : ℕ) - 1))

section
variable {M : ℕ} {low : ℤ}

theorem codeMag_zero : codeMag M low 0 = 0 := by simp [codeMag]

/-- A whole number of units of a binade, or of the subnormal codes, is the magnitude of the code that counts up to it. -/
theorem codeMag_units {q : ℤ} {r : ℕ} (hq : low ≤ q) (hlo : q = low ∨ 2 ^ M ≤ r) (hhi : r ≤ 2 ^ (M + 1)) :
    codeMag M low ((q - low).toNat * 2 ^ M + r) = r * twoTo q := by
  have hpos : 0 < 2 ^ M := by positivity
  obtain ⟨d, rfl⟩ : ∃ d : ℕ, q = low + d := ⟨(q - low).toNat, by omega⟩
  rw [show (low + (d : ℤ) - low).toNat = d by omega, add_comm, codeMag, Nat.add_mul_div_right _ _ hpos, Nat.add_mul_mod_self_right]
  rw [pow_succ] at hhi
  rcases lt_or_ge r (2 ^ M) with hr | hr
  · obtain rfl : d = 0 := by omega
    rw [Nat.div_eq_of_lt hr, Nat.mod_eq_of_lt hr, if_pos rfl, Nat.cast_zero, add_zero]
  · obtain ⟨x, rfl⟩ := Nat.exists_eq_add_of_le hr
    rw [Nat.add_div_left _ hpos, Nat.add_mod_left, if_neg (by simp)]
    rcases lt_or_ge x (2 ^ M) with hx | hx
    · rw [Nat.div_eq_of_lt hx, Nat.mod_eq_of_lt hx]
      push_cast
      congr 2
      ring
    · obtain rfl : x = 2 ^ M := by omega
      rw [Nat.div_self hpos, Nat.mod_self, show low + (((1 + 1 + d : ℕ) : ℤ) - 1) = 1 + (low + d) by push_cast; ring, twoTo_add]
      simp [twoTo]
      ring

/-- Each code as units of its binade, the next code one unit above. -/
theorem codeMag_strictMono (M : ℕ) (low : ℤ) : StrictMono (codeMag M low) := by
  refine strictMono_nat_of_lt_succ fun n => ?_
  obtain ⟨d, r, rfl, hlo, hhi⟩ : ∃ d r : ℕ, n = d * 2 ^ M + r ∧ (d = 0 ∨ 2 ^ M ≤ r) ∧ r < 2 ^ (M + 1) := by
    rw [pow_succ]
    rcases lt_or_ge n (2 ^ M) with hn | hn
    · exact ⟨0, n, by simp, .inl rfl, by omega⟩
    · obtain ⟨x, rfl⟩ := Nat.exists_eq_add_of_le hn
      refine ⟨x / 2 ^ M, 2 ^ M + x % 2 ^ M, ?_, .inr (Nat.le_add_right _ _), ?_⟩
      · have := Nat.div_add_mod x (2 ^ M)
        rw [mul_comm] at this
        omega
      · have := Nat.mod_lt x (y := 2 ^ M) (by positivity)
        omega
  have hval {r : ℕ} (hlo : d = 0 ∨ 2 ^ M ≤ r) (hhi : r ≤ 2 ^ (M + 1)) :
      codeMag M low (d * 2 ^ M + r) = r * twoTo (low + d) := by
    have := codeMag_units (M := M) (low := low) (q := low + d) (r := r) (by omega) (by omega) hhi
    rwa [show (low + (d : ℤ) - low).toNat = d by omega] at this
  rw [add_assoc, hval hlo hhi.le, hval (by omega) hhi]
  exact mul_lt_mul_of_pos_right (by push_cast; linarith) (twoTo_pos _)

theorem codeMag_nonneg (code : ℕ) : 0 ≤ codeMag M low code :=
  codeMag_zero (M := M) (low := low) ▸ (codeMag_strictMono M low).monotone (Nat.zero_le code)

/-- The smallest normal magnitude. -/
theorem codeMag_normal : codeMag M low (2 ^ M) = twoTo (M + low) := by
  have h := codeMag_units (M := M) (low := low) le_rfl (.inl rfl) (Nat.pow_le_pow_right two_pos (Nat.le_succ M))
  rw [sub_self, Int.toNat_zero, zero_mul, zero_add] at h
  rw [h, twoTo_add, twoTo_natCast]
  push_cast
  rfl

/-- The fields of a code of `E` exponent and `M` mantissa bits with its sign in place. -/
theorem sign_add_fields (neg : Bool) {E M code : ℕ} (h : code < 2 ^ (E + M)) :
    decide (((if neg then 2 ^ (E + M) else 0) + code) / 2 ^ (E + M) % 2 = 1) = neg ∧
      ((if neg then 2 ^ (E + M) else 0) + code) % 2 ^ M = code % 2 ^ M ∧
      ((if neg then 2 ^ (E + M) else 0) + code) / 2 ^ M % 2 ^ E = code / 2 ^ M ∧
      (if neg then 2 ^ (E + M) else 0) + code < 2 ^ (1 + E + M) := by
  have hpos : 0 < 2 ^ (E + M) := by positivity
  have hsplit : 2 ^ (E + M) = 2 ^ E * 2 ^ M := pow_add _ _ _
  have hexp : code / 2 ^ M < 2 ^ E := (Nat.div_lt_iff_lt_mul (by positivity)).mpr (hsplit ▸ h)
  have htop : 2 ^ (1 + E + M) = 2 ^ (E + M) + 2 ^ (E + M) := by rw [add_assoc, pow_add, pow_one, two_mul]
  cases neg with
  | false =>
    have hlt : code < 2 ^ (1 + E + M) := by omega
    simp [Nat.div_eq_of_lt h, Nat.mod_eq_of_lt hexp, hlt]
  | true =>
    simp only [if_true]
    refine ⟨by rw [Nat.add_div_left _ hpos, Nat.div_eq_of_lt h]; rfl, ?_, ?_, by omega⟩
    · rw [hsplit, Nat.mul_add_mod_self_right]
    · rw [hsplit, add_comm, Nat.add_mul_div_right _ _ (by positivity), Nat.add_mod_right, Nat.mod_eq_of_lt hexp]

end

/-! ### What a code of a binary format stands for (R155, R166) -/

section
variable {f : FFmt}

theorem FFmt.qmin_eq (f : FFmt) : f.qmin = 1 - biasOf f - f.fb := rfl

/-- A normal code as a fraction of its binade, and in units. -/
theorem normal_units (M mf : ℕ) (z : ℤ) : (1 + (mf : ℚ) / 2 ^ M) * twoTo (z + M) = (2 ^ M + mf) * twoTo z := by
  rw [twoTo_add, twoTo_natCast]
  field_simp

/-- The binade of an exponent field, in units of the fraction's last bit. -/
theorem FFmt.binade_eq (f : FFmt) (ef : ℕ) : (ef : ℤ) - biasOf f = f.qmin + (ef - 1) + f.fb := by
  rw [FFmt.qmin_eq]
  ring

theorem numV_decode (h : 1 ≤ f.eb) (a : ℕ) : numV (f.decode a) = numOf f a := by
  have hsign : (bits a (f.eb + f.fb) (f.eb + f.fb) = 1) = (a / 2 ^ (f.eb + f.fb) % 2 = 1) := by
    rw [bits, Nat.shiftRight_eq_div_pow, Nat.add_sub_cancel_left, pow_one]
  have hexp : bits a (f.eb + f.fb - 1) f.fb = a / 2 ^ f.fb % 2 ^ f.eb := by
    rw [bits, Nat.shiftRight_eq_div_pow, show f.eb + f.fb - 1 + 1 - f.fb = f.eb by omega]
  simp only [FFmt.decode, numOf, hsign, hexp]
  split_ifs
  · rfl
  · rfl
  · rfl
  · simp only [numV, Num.fin.injEq, true_and, signed_inj]
    rw [FFmt.binade_eq, normal_units]
    push_cast
    rfl

/-- A finite code of the format: a subnormal one, or one with its leading bit. -/
theorem FFmt.decode_fin {code m : ℕ} {neg : Bool} {e : ℤ} (h : f.decode code = .fin neg m e) :
    m < 2 ^ f.fb ∧ e = f.qmin ∨ 2 ^ f.fb ≤ m ∧ f.qmin ≤ e := by
  simp only [FFmt.decode] at h
  split_ifs at h with _ _ hef
  · obtain ⟨-, rfl, rfl⟩ := FVal.fin.inj h
    exact .inl ⟨Nat.mod_lt _ (by positivity), rfl⟩
  · obtain ⟨-, rfl, rfl⟩ := FVal.fin.inj h
    exact .inr ⟨Nat.le_add_right _ _, by omega⟩

theorem mag_lt_normal_iff {m : ℕ} {e : ℤ} (h : m < 2 ^ f.fb ∧ e = f.qmin ∨ 2 ^ f.fb ≤ m ∧ f.qmin ≤ e) :
    (m : ℚ) * twoTo e < twoTo (1 - biasOf f) ↔ m < 2 ^ f.fb := by
  have hnormal : twoTo (1 - biasOf f) = (2 ^ f.fb : ℕ) * twoTo f.qmin := by
    rw [show 1 - biasOf f = f.fb + f.qmin by rw [FFmt.qmin_eq]; ring, twoTo_add, twoTo_natCast]
    push_cast
    rfl
  rw [hnormal]
  rcases h with ⟨hm, rfl⟩ | ⟨hm, he⟩
  · exact iff_of_true (mul_lt_mul_of_pos_right (Nat.cast_lt.mpr hm) (twoTo_pos _)) hm
  · refine iff_of_false (not_lt.mpr ?_) (not_lt.mpr hm)
    exact mul_le_mul (Nat.cast_le.mpr hm) (twoTo_le_iff.mpr he) (twoTo_pos _).le (Nat.cast_nonneg m)

theorem numV_inF (h : 1 ≤ f.eb) (mode : W64) (a : ℕ) : numV (f.inF mode a) = inOf f mode a := by
  rw [inOf, ← numV_decode h, FFmt.inF]
  cases hd : f.decode a with
  | nan => rfl
  | inf neg => rfl
  | fin neg m e =>
    have hm : |signed neg (m * twoTo e)| = m * twoTo e := by
      rw [abs_signed, abs_of_nonneg (mul_nonneg (Nat.cast_nonneg m) (twoTo_pos e).le)]
    have hcond : (modeFlushIn mode && m < 2 ^ f.fb) = true ↔
        mode.getLsbD 4 = true ∧ |signed neg (m * twoTo e)| < twoTo (1 - biasOf f) := by
      rw [hm, mag_lt_normal_iff (FFmt.decode_fin hd), Bool.and_eq_true, decide_eq_true_iff]
      rfl
    simp only [numV, hcond]
    split_ifs
    · simp [signed_zero]
    · rfl

/-- The exponent field of a finite magnitude is not that of the infinities. -/
theorem FFmt.exp_of_lt_infCode {code : ℕ} (h : code < f.infCode) : code / 2 ^ f.fb < 2 ^ f.eb - 1 :=
  (Nat.div_lt_iff_lt_mul (by positivity)).mpr h

theorem FFmt.infCode_add : f.infCode + 2 ^ f.fb = 2 ^ (f.eb + f.fb) := by
  rw [FFmt.infCode, pow_add, Nat.sub_one_mul, Nat.sub_add_cancel (Nat.le_mul_of_pos_left _ (by positivity))]

theorem FFmt.infCode_lt : f.infCode < 2 ^ (f.eb + f.fb) :=
  FFmt.infCode_add (f := f) ▸ Nat.lt_add_of_pos_right (by positivity)

/-- The fields of a code with its sign in place. -/
theorem FFmt.sign_add_fields (neg : Bool) {code : ℕ} (h : code < 2 ^ (f.eb + f.fb)) :
    decide ((f.sign neg + code) / 2 ^ (f.eb + f.fb) % 2 = 1) = neg ∧ (f.sign neg + code) % 2 ^ f.fb = code % 2 ^ f.fb ∧
      (f.sign neg + code) / 2 ^ f.fb % 2 ^ f.eb = code / 2 ^ f.fb ∧ f.sign neg + code < 2 ^ (1 + f.eb + f.fb) :=
  Machine.sign_add_fields neg h

theorem numOf_finite (neg : Bool) {code : ℕ} (h : code < f.infCode) :
    numOf f (f.sign neg + code) = .fin neg (signed neg (codeMag f.fb f.qmin code)) := by
  have hexp := FFmt.exp_of_lt_infCode h
  obtain ⟨hsign, hmant, hef, -⟩ := FFmt.sign_add_fields neg (h.trans FFmt.infCode_lt)
  simp only [numOf, hsign, hmant, hef, hexp.ne, if_false, codeMag]
  split_ifs with hz
  · rfl
  · rw [FFmt.binade_eq, normal_units]

theorem numOf_infinite (neg : Bool) : numOf f (f.sign neg + f.infCode) = .inf neg := by
  have hpos : 0 < 2 ^ f.fb := by positivity
  obtain ⟨hsign, hmant, hef, -⟩ := FFmt.sign_add_fields neg (FFmt.infCode_lt (f := f))
  simp only [numOf, hsign, hmant, hef]
  rw [FFmt.infCode, Nat.mul_div_cancel _ hpos, Nat.mul_mod_left, if_pos rfl, if_pos rfl]

theorem numOf_zero (h : 1 ≤ f.eb) (neg : Bool) : numOf f (f.sign neg) = .fin neg 0 := by
  have hpos : 0 < f.infCode := Nat.mul_pos (Nat.sub_pos_of_lt (Nat.one_lt_two_pow (by omega))) (by positivity)
  have := numOf_finite neg hpos
  rwa [codeMag_zero, signed_zero, add_zero] at this

end

end Sys2Proof.Machine
end

section
/-! One rounding into a binary format, and into an integer (07 R157, R166, R167). -/
namespace Sys2Proof.Machine
open Sys2Proof.Stated

/-! ### Units of a rounded magnitude -/

section
variable {rm : Rm} {neg : Bool} {m M : ℕ} {e q : ℤ}

theorem roundAt_le_two_pow (hm : m ≠ 0) (hq : e + bitLen m - 1 - M ≤ q) : (roundAt rm neg m e false q).1 ≤ 2 ^ (M + 1) := by
  refine roundAt_le ((twoTo_top_le hm e).2.le.trans ?_)
  rw [Nat.cast_pow, Nat.cast_ofNat, ← twoTo_natCast, ← twoTo_add, twoTo_le_iff]
  push_cast
  omega

theorem two_pow_le_roundAt (hm : m ≠ 0) (hq : q ≤ e + bitLen m - 1 - M) : 2 ^ M ≤ (roundAt rm neg m e false q).1 := by
  refine le_roundAt (le_trans ?_ (twoTo_top_le hm e).1)
  rw [Nat.cast_pow, Nat.cast_ofNat, ← twoTo_natCast, ← twoTo_add, twoTo_le_iff]
  omega

/-- A magnitude rounded in its binade, or in the subnormal one below which it lies, is that of the code that counts its units. -/
theorem codeMag_roundAt {low : ℤ} (hm : m ≠ 0) (hlow : low ≤ q) (hq : e + bitLen m - 1 - M ≤ q)
    (htop : q = low ∨ q = e + bitLen m - 1 - M) : codeMag M low ((q - low).toNat * 2 ^ M + (roundAt rm neg m e false q).1) =
      (roundAt rm neg m e false q).1 * twoTo q :=
  codeMag_units hlow (htop.imp_right fun h => two_pow_le_roundAt hm h.le) (roundAt_le_two_pow hm hq)

end

/-! ### The bounds of a binary format, by their codes -/

section
variable {f : FFmt}

theorem FFmt.one_le_infCode (h : 1 ≤ f.eb) : 1 ≤ f.infCode :=
  Nat.mul_pos (Nat.sub_pos_of_lt (Nat.one_lt_two_pow (by omega))) (by positivity)

/-- The largest finite magnitude. -/
theorem codeMag_maxCode (h : 2 ≤ f.eb) : codeMag f.fb f.qmin f.maxCode = (2 ^ (f.fb + 1) - 1) * twoTo (biasOf f - f.fb) := by
  have hpow : (2 : ℕ) ^ f.eb = 2 * 2 ^ (f.eb - 1) := by rw [← pow_succ', Nat.sub_add_cancel (by omega)]
  have hhalf : 2 ≤ 2 ^ (f.eb - 1) := Nat.le_self_pow (by omega) 2
  have hbias : biasOf f = ((2 ^ (f.eb - 1) : ℕ) : ℤ) - 1 := by simp [biasOf]
  have hfb : 1 ≤ 2 ^ f.fb := Nat.one_le_two_pow
  have hunits := codeMag_units (M := f.fb) (low := f.qmin) (q := biasOf f - f.fb) (r := 2 ^ (f.fb + 1) - 1)
    (by rw [FFmt.qmin_eq]; omega) (.inr (by rw [pow_succ]; omega)) (Nat.sub_le _ _)
  have hcode : (biasOf f - f.fb - f.qmin).toNat * 2 ^ f.fb + (2 ^ (f.fb + 1) - 1) = f.maxCode := by
    rw [show (biasOf f - f.fb - f.qmin).toNat = 2 ^ f.eb - 3 by rw [FFmt.qmin_eq]; omega, FFmt.maxCode, FFmt.infCode, pow_succ,
      show 2 ^ f.eb - 1 = 2 ^ f.eb - 3 + 2 by omega, Nat.add_mul]
    omega
  rw [← hcode, hunits, Nat.cast_sub Nat.one_le_two_pow]
  push_cast
  rfl

theorem codeMag_lt_normal_iff {code : ℕ} : codeMag f.fb f.qmin code < twoTo (1 - biasOf f) ↔ code < 2 ^ f.fb := by
  rw [show 1 - biasOf f = f.fb + f.qmin by rw [FFmt.qmin_eq]; ring, ← codeMag_normal, (codeMag_strictMono _ _).lt_iff_lt]

theorem overflow_iff (h : 2 ≤ f.eb) {code : ℕ} :
    (2 ^ (f.fb + 1) - 1) * twoTo (biasOf f - f.fb) < codeMag f.fb f.qmin code ↔ f.infCode ≤ code := by
  have := FFmt.one_le_infCode (f := f) (by omega)
  rw [← codeMag_maxCode h, (codeMag_strictMono _ _).lt_iff_lt, FFmt.maxCode]
  omega

theorem codeMag_ne_zero {M code : ℕ} {low : ℤ} : codeMag M low code ≠ 0 ↔ code ≠ 0 :=
  not_congr ⟨fun h => (codeMag_strictMono M low).injective (h.trans codeMag_zero.symm), fun h => h ▸ codeMag_zero⟩

theorem FFmt.sign_add_lt (neg : Bool) {code : ℕ} (h : code ≤ f.infCode) : f.sign neg + code < 2 ^ (1 + f.eb + f.fb) :=
  (FFmt.sign_add_fields neg (h.trans_lt FFmt.infCode_lt)).2.2.2

/-! ### `Round` (R166) -/

/-- Whether an overflow gives an infinity under a rounding mode. -/
def overflowsToInf (rm : Rm) (neg : Bool) : Bool :=
  match rm with
  | .rne | .rna => true
  | .rtz => false
  | .rdn => neg
  | .rup => !neg

theorem overflowsToInf_iff {rm : Rm} {neg : Bool} {x : ℚ} (hx : 0 < x) : overflowsToInf rm neg = true ↔
    rm = .rne ∨ rm = .rna ∨ (rm = .rdn ∧ signed neg x < 0) ∨ (rm = .rup ∧ 0 < signed neg x) := by
  rw [signed_lt_zero hx, signed_pos hx]
  cases rm <;> simp [overflowsToInf]

/-- The code and the flags that R166 makes of the code to which a magnitude is rounded, with its sign and what was lost. -/
def FFmt.finish (f : FFmt) (mode : W64) (rm : Rm) (neg : Bool) (code : ℕ) (tiny inexact : Bool) : ℕ × W64 :=
  if f.infCode ≤ code then (f.sign neg + (if overflowsToInf rm neg then f.infCode else f.maxCode), flOF ||| flNX)
  else if modeFlushOut mode && code != 0 && code < 2 ^ f.fb then (f.sign neg, flUF ||| flNX)
  else (f.sign neg + code, flagIf (tiny && inexact) flUF ||| flagIf inexact flNX)

theorem FFmt.round_eq (f : FFmt) (mode : W64) (rm : Rm) (neg : Bool) (m : ℕ) (e : ℤ) : f.round mode rm neg m e false =
    let q0 := e + bitLen m - 1 - f.fb
    let r := roundAt rm neg m e false (max q0 f.qmin)
    f.finish mode rm neg ((max q0 f.qmin - f.qmin).toNat * 2 ^ f.fb + r.1)
      (magLt (roundAt rm neg m e false q0).1 q0 1 (1 - f.bias)) r.2 := by
  cases rm <;> rfl

section
variable {mode : W64} {rm : Rm} {neg : Bool} {code : ℕ} {tiny inexact : Bool}

theorem FFmt.finish_lt : (f.finish mode rm neg code tiny inexact).1 < 2 ^ (1 + f.eb + f.fb) := by
  rw [FFmt.finish]
  split_ifs with hovf
  · exact FFmt.sign_add_lt neg le_rfl
  · exact FFmt.sign_add_lt neg (Nat.sub_le _ _)
  · exact FFmt.sign_add_lt neg (Nat.zero_le _)
  · exact FFmt.sign_add_lt neg (not_le.mp hovf).le

/-- The cases of R166 by the magnitude that the code stands for. -/
theorem FFmt.finish_spec (h : 2 ≤ f.eb) {y : ℚ} (hy : y = signed neg (codeMag f.fb f.qmin code)) :
    let res := f.finish mode rm neg code tiny inexact
    let big : ℚ := (2 ^ (f.fb + 1) - 1) * twoTo (biasOf f - f.fb)
    if big < |y| then res.2 = flOF ||| flNX ∧ numOf f res.1 = if overflowsToInf rm neg then .inf neg else .fin neg (signed neg big)
    else if mode.getLsbD 3 = true ∧ y ≠ 0 ∧ |y| < twoTo (1 - biasOf f) then numOf f res.1 = .fin neg 0 ∧ res.2 = flUF ||| flNX
    else numOf f res.1 = .fin neg y ∧ res.2 = flagIf (tiny && inexact) flUF ||| flagIf inexact flNX := by
  have habs : |y| = codeMag f.fb f.qmin code := by rw [hy, abs_signed, abs_of_nonneg (codeMag_nonneg code)]
  have hflush : (modeFlushOut mode && code != 0 && code < 2 ^ f.fb) = true ↔
      mode.getLsbD 3 = true ∧ y ≠ 0 ∧ codeMag f.fb f.qmin code < twoTo (1 - biasOf f) := by
    rw [hy, Ne, signed_eq_zero, ← Ne, codeMag_ne_zero, codeMag_lt_normal_iff]
    simp [modeFlushOut, bit, and_assoc]
  have hmaxlt : f.maxCode < f.infCode := Nat.sub_lt (FFmt.one_le_infCode (by omega)) one_pos
  extract_lets res big
  rw [habs]
  by_cases hovf : f.infCode ≤ code
  · have hres : res = (f.sign neg + (if overflowsToInf rm neg then f.infCode else f.maxCode), flOF ||| flNX) := if_pos hovf
    rw [if_pos ((overflow_iff h).mpr hovf), hres]
    refine ⟨rfl, ?_⟩
    split_ifs
    · exact numOf_infinite neg
    · rw [numOf_finite neg hmaxlt, codeMag_maxCode h]
  rw [if_neg ((overflow_iff h).not.mpr hovf)]
  by_cases hfl : (modeFlushOut mode && code != 0 && code < 2 ^ f.fb) = true
  · have hres : res = (f.sign neg, flUF ||| flNX) := (if_neg hovf).trans (if_pos hfl)
    rw [if_pos (hflush.mp hfl), hres]
    exact ⟨numOf_zero (by omega) neg, rfl⟩
  · have hres : res = (f.sign neg + code, flagIf (tiny && inexact) flUF ||| flagIf inexact flNX) := (if_neg hovf).trans (if_neg hfl)
    rw [if_neg (hflush.not.mp hfl), hres, hy]
    exact ⟨numOf_finite neg (not_le.mp hovf), rfl⟩

end

theorem round_rounds (h : 2 ≤ f.eb) (mode : W64) (rm : Rm) (neg : Bool) {m : ℕ} (hm : m ≠ 0) (e : ℤ) :
    Rounds f mode rm (.fin neg (signed neg (m * twoTo e))) (f.round mode rm neg m e false) := by
  have hx : (0 : ℚ) < m * twoTo e := mag_pos hm e
  obtain ⟨htop, htop'⟩ := twoTo_top_le hm e
  rw [FFmt.round_eq]
  extract_lets q0 r
  have hq0 : q0 = e + bitLen m - 1 - f.fb := rfl
  have hmag : codeMag f.fb f.qmin ((max q0 f.qmin - f.qmin).toNat * 2 ^ f.fb + r.1) = r.1 * twoTo (max q0 f.qmin) :=
    codeMag_roundAt hm (le_max_right _ _) (le_max_left _ _) (max_choice q0 f.qmin).symm
  have hy : ((signedInt neg r.1 : ℤ) : ℚ) * twoTo (max q0 f.qmin) =
      signed neg (codeMag f.fb f.qmin ((max q0 f.qmin - f.qmin).toNat * 2 ^ f.fb + r.1)) := by
    rw [signedInt_cast, signed_mul, hmag]
  have hinexact : r.2 = true ↔ ((signedInt neg r.1 : ℤ) : ℚ) * twoTo (max q0 f.qmin) ≠ signed neg (m * twoTo e) := by
    rw [signedInt_cast, signed_mul, Ne, signed_inj]
    exact roundAt_inexact
  have htiny : (magLt (roundAt rm neg m e false q0).1 q0 1 (1 - f.bias) && r.2) = true ↔
      r.2 = true ∧ |((signedInt neg (roundAt rm neg m e false q0).1 : ℤ) : ℚ) * twoTo q0| < twoTo (1 - biasOf f) := by
    rw [Bool.and_eq_true, magLt_iff, abs_signedInt_mul, Nat.cast_one, one_mul, and_comm]
    rfl
  refine ⟨FFmt.finish_lt, ?_⟩
  simp only [if_neg (signed_eq_zero.not.mpr hx.ne'), ← overflowsToInf_iff hx]
  refine ⟨q0, _, signedInt neg r.1, _, ?_, ?_, roundAt_nearest rm neg m e q0, roundAt_nearest rm neg m e (max q0 f.qmin), rfl, ?_⟩
  · rwa [abs_signed, abs_of_pos hx, show q0 + f.fb = e + bitLen m - 1 by omega]
  · rwa [abs_signed, abs_of_pos hx, show q0 + f.fb + 1 = e + bitLen m by omega]
  · rw [← FFmt.qmin_eq]
    simp only [← hinexact]
    have hspec := FFmt.finish_spec (mode := mode) (rm := rm) (tiny := magLt (roundAt rm neg m e false q0).1 q0 1 (1 - f.bias))
      (inexact := r.2) h hy
    simp only [flagIf, htiny] at hspec
    exact hspec

theorem put_rounds (h : 2 ≤ f.eb) (mode : W64) (rm : Rm) (v : FVal) : Rounds f mode rm (numV v) (f.put mode rm v) := by
  cases v with
  | nan =>
    refine ⟨?_, rfl⟩
    calc f.nanCode ≤ f.infCode + 2 ^ f.fb := Nat.add_le_add_left (Nat.pow_le_pow_right two_pos (Nat.sub_le _ _)) _
      _ = 2 ^ (f.eb + f.fb) := FFmt.infCode_add
      _ < 2 ^ (1 + f.eb + f.fb) := Nat.pow_lt_pow_right one_lt_two (by omega)
  | inf neg => exact ⟨FFmt.sign_add_lt neg le_rfl, numOf_infinite neg, rfl⟩
  | fin neg m e =>
    by_cases hm : m = 0
    · subst hm
      have hz : numV (.fin neg 0 e) = .fin neg 0 := by simp [numV, signed_zero]
      rw [hz]
      exact ⟨FFmt.sign_add_lt neg (Nat.zero_le _), (if_pos rfl).mpr ⟨numOf_zero (by omega) neg, rfl⟩⟩
    · rw [FFmt.put, if_neg hm]
      exact round_rounds h mode rm neg hm e

end

/-! ### `FToInt` (R167) -/

theorem roundAt_zero (rm : Rm) (neg : Bool) (e q : ℤ) : roundAt rm neg 0 e false q = (0, false) := by
  have hunits : (roundAt rm neg 0 e false q).1 = 0 := Nat.le_zero.mp (roundAt_le (by simp))
  have hexact : (roundAt rm neg 0 e false q).2 = false := by
    rw [← Bool.not_eq_true, roundAt_inexact, hunits]
    simp
  exact Prod.ext hunits hexact

theorem roundInt_nearest (rm : Rm) (neg : Bool) (m : ℕ) (e : ℤ) :
    Nearest rm (signed neg (m * twoTo e)) (roundInt rm neg m e).1 := by
  have h := roundAt_nearest rm neg m e 0
  rwa [show twoTo 0 = 1 from zpow_zero 2, div_one] at h

theorem roundInt_inexact {rm : Rm} {neg : Bool} {m : ℕ} {e : ℤ} :
    (roundInt rm neg m e).2 = true ↔ ((roundInt rm neg m e).1 : ℚ) ≠ signed neg (m * twoTo e) := by
  have hmark : (roundInt rm neg m e).2 = (roundAt rm neg m e false 0).2 := by
    by_cases he : 0 ≤ e <;> simp [roundInt, roundAt, he]
  have hval : (roundInt rm neg m e).1 = signedInt neg (roundAt rm neg m e false 0).1 := rfl
  rw [hmark, hval, roundAt_inexact, signedInt_cast, Ne, Ne, signed_inj, twoTo, zpow_zero, mul_one]

theorem fToInt_toInt (v : FVal) (n : ℕ) (sgn : Bool) (rm : Rm) : ToInt n sgn rm (numV v) (fToInt v n sgn rm) := by
  cases v with
  | nan => rfl
  | inf neg => rfl
  | fin neg m e =>
    refine ⟨_, roundInt_nearest rm neg m e, ?_⟩
    simp only [fToInt, flagIf, roundInt_inexact]

end Sys2Proof.Machine
end

section
/-! Narrow formats: the fields of an nf word, what a code stands for, and the largest magnitude (07 R158 to R160). -/
namespace Sys2Proof.Machine
open Sys2Proof.Stated

/-! ### The fields of an nf word, and what a code stands for (R158 to R160) -/

theorem ofWord_eq_nfWord (w : BitVec 16) : NFmt.ofWord w = nfWord w := by
  have hw := w.isLt
  simp only [NFmt.ofWord, nfWord, NFmt.mk.injEq]
  refine ⟨?_, ?_, ?_, ?_⟩
  · rw [BitVec.getLsbD, Nat.testBit_eq_decide_div_mod_eq]
  · rw [BitVec.extractLsb'_toNat, Nat.shiftRight_eq_div_pow]
  · rw [BitVec.extractLsb'_toNat, Nat.shiftRight_eq_div_pow, pow_zero, Nat.div_one]
  · congr 1
    apply BitVec.eq_of_toNat_eq
    rw [BitVec.extractLsb'_toNat, Nat.shiftRight_eq_div_pow, BitVec.toNat_ofNat]

/-- The formats of nf words are small. -/
theorem ofWord_bounds (w : BitVec 16) : (NFmt.ofWord w).m < 16 ∧ (NFmt.ofWord w).e < 8 ∧ -128 ≤ (NFmt.ofWord w).bias :=
  ⟨(w.extractLsb' 0 4).isLt, (w.extractLsb' 4 3).isLt, BitVec.le_toInt (w.extractLsb' 8 8)⟩

section
variable {f : NFmt}

theorem NFmt.qmin_eq (f : NFmt) : f.qmin = 1 - f.bias - f.m := rfl

/-- The unit of the codes of an exponent field. -/
theorem NFmt.unit_eq (f : NFmt) (ef : ℕ) : (ef : ℤ) - f.bias - f.m = f.qmin + (ef - 1) := by
  rw [NFmt.qmin_eq]
  ring

/-- The sign bit stands above the other fields. -/
theorem NFmt.width_eq (f : NFmt) : f.width = (if f.s then 1 else 0) + (f.e + f.m) := by rw [NFmt.width, add_assoc]

theorem numV_narrowDecode (f : NFmt) (nfsub : Bool) (code : ℕ) :
    numV (.fin (f.decode nfsub code).1 (f.decode nfsub code).2.1 (f.decode nfsub code).2.2) = narrowOf f nfsub code := by
  have hsign : (f.s && code.testBit (f.width - 1)) = (f.s && decide (code / 2 ^ (f.e + f.m) % 2 = 1)) := by
    cases hs : f.s with
    | false => rfl
    | true => rw [NFmt.width_eq, hs, if_pos rfl, Nat.add_sub_cancel_left, Nat.testBit_eq_decide_div_mod_eq]
  have hexp : (if 1 ≤ f.e then code / 2 ^ f.m % 2 ^ f.e else 0) = code / 2 ^ f.m % 2 ^ f.e := by
    split_ifs with he
    · rfl
    · rw [show f.e = 0 by omega, pow_zero, Nat.mod_one]
  have hsub : (nfsub && decide (1 ≤ f.e)) = true ↔ nfsub = true ∧ 1 ≤ f.e := by simp
  simp only [NFmt.decode, narrowOf, hsign, hexp, hsub]
  split_ifs
  · simp [numV]
  · rfl
  · rw [NFmt.unit_eq]
    simp [numV]

/-! ### The largest magnitude, and where the exponent field ends (R159) -/

/-- The unit of the top binade, as the exponent field gives it. -/
theorem NFmt.qtop_eq (f : NFmt) : f.qtop = if 1 ≤ f.e then 2 ^ f.e - 1 - f.bias - f.m else 1 - f.bias - f.m := by
  rw [NFmt.qtop, NFmt.qmin_eq]
  split_ifs with he
  · have : 2 ≤ 2 ^ f.e := Nat.le_self_pow (by omega) 2
    rw [max_eq_right (by omega), Nat.cast_sub (by omega)]
    push_cast
    ring
  · simp [show f.e = 0 by omega]

theorem NFmt.qmin_le_qtop (f : NFmt) : f.qmin ≤ f.qtop := by
  rw [NFmt.qtop]
  omega

theorem NFmt.maxUnits_lt (f : NFmt) : f.maxUnits < 2 ^ (f.m + 1) := by
  have : 0 < 2 ^ f.m := by positivity
  rw [NFmt.maxUnits, pow_succ]
  split_ifs <;> omega

theorem maxfin_eq (f : NFmt) : maxfin f = f.maxUnits * twoTo f.qtop := by
  rw [maxfin, NFmt.qtop_eq, NFmt.maxUnits]
  by_cases he : 1 ≤ f.e
  · rw [if_pos he, if_pos he, if_neg (by omega), Nat.cast_sub Nat.one_le_two_pow]
    push_cast
    rfl
  · rw [if_neg he, if_neg he, if_pos (by omega), Nat.cast_sub Nat.one_le_two_pow]
    push_cast
    rfl

/-- The code of the largest magnitude has all ones. -/
theorem NFmt.maxUnits_code (f : NFmt) : (f.qtop - f.qmin).toNat * 2 ^ f.m + f.maxUnits = 2 ^ (f.e + f.m) - 1 := by
  have hpos : 0 < 2 ^ f.m := by positivity
  rw [show (f.qtop - f.qmin).toNat = max 1 (2 ^ f.e - 1) - 1 by rw [NFmt.qtop]; omega, NFmt.maxUnits]
  split_ifs with he
  · simp [he]
  · obtain ⟨k, hk⟩ := Nat.exists_eq_add_of_le (Nat.le_self_pow he 2)
    rw [pow_add 2 f.e, hk, max_eq_right (by omega), show 2 + k - 1 - 1 = k by omega, Nat.add_mul, pow_succ]
    omega

theorem codeMag_max (f : NFmt) : codeMag f.m f.qmin (2 ^ (f.e + f.m) - 1) = maxfin f := by
  have hlow : f.qtop = f.qmin ∨ 2 ^ f.m ≤ f.maxUnits := by
    have hpos : 0 < 2 ^ f.m := by positivity
    by_cases he : 1 ≤ f.e
    · refine .inr ?_
      rw [NFmt.maxUnits, if_neg (by omega), pow_succ]
      omega
    · exact .inl (by rw [NFmt.qtop_eq, if_neg he, NFmt.qmin_eq])
  rw [← NFmt.maxUnits_code, codeMag_units f.qmin_le_qtop hlow f.maxUnits_lt.le, maxfin_eq]

theorem codeMag_le_maxfin_iff {code : ℕ} : codeMag f.m f.qmin code ≤ maxfin f ↔ code < 2 ^ (f.e + f.m) := by
  have : 0 < 2 ^ (f.e + f.m) := by positivity
  rw [← codeMag_max, (codeMag_strictMono _ _).le_iff_le]
  omega

/-- A code with its sign in place, where the format has one. -/
theorem narrowOf_sign_add (neg : Bool) {code : ℕ} (h : code < 2 ^ (f.e + f.m)) :
    (if f.s && neg then 2 ^ (f.width - 1) else 0) + code < 2 ^ f.width ∧
    narrowOf f false ((if f.s && neg then 2 ^ (f.width - 1) else 0) + code) =
      .fin (f.s && neg) (signed (f.s && neg) (codeMag f.m f.qmin code)) := by
  have hwidth : (if f.s && neg then 2 ^ (f.width - 1) else 0) = if f.s && neg then 2 ^ (f.e + f.m) else 0 := by
    cases hs : f.s with
    | false => rfl
    | true => rw [NFmt.width_eq, hs, if_pos rfl, Nat.add_sub_cancel_left]
  have hexp : (if 1 ≤ f.e then code / 2 ^ f.m else 0) = code / 2 ^ f.m := by
    split_ifs with he
    · rfl
    · rw [Nat.div_eq_of_lt (by rwa [show f.e = 0 by omega, zero_add] at h)]
  obtain ⟨hsign, hmant, hef, hlt⟩ := sign_add_fields (f.s && neg) h
  rw [hwidth]
  refine ⟨?_, ?_⟩
  · cases hs : f.s with
    | false => simpa [NFmt.width_eq, hs] using h
    | true => simpa [NFmt.width_eq, hs, add_assoc] using hlt
  · have hand : (f.s && (f.s && neg)) = (f.s && neg) := by rw [← Bool.and_assoc, Bool.and_self]
    simp only [narrowOf, hsign, hmant, hef, hexp, NFmt.unit_eq, hand, Bool.false_eq_true, false_and, if_false]
    rfl

end

end Sys2Proof.Machine
end

section
/-! The encoding of a number into a narrow format, rounded once (07 R168). -/
namespace Sys2Proof.Machine
open Sys2Proof.Stated

/-! ### The pieces of `NEncode` -/

/-- A format without a sign has the numbers that need none. -/
theorem signed_and {s neg : Bool} {x : ℚ} (h : s = false → neg = true → x = 0) : signed (s && neg) x = signed neg x := by
  cases s <;> cases neg <;> simp_all [signed]

/-- The unit in which a magnitude is rounded, the top binade without bound. -/
def NFmt.unitOf (f : NFmt) (m : ℕ) (e : ℤ) : ℤ := min (max (e + bitLen m - 1 - f.m) f.qmin) f.qtop

/-- Units that lie below the smallest normal, where the format has normal codes. -/
def NFmt.belowNormal (f : NFmt) (k : ℕ) (q : ℤ) : Bool := 1 ≤ f.e && magLt k q 1 (1 - f.bias)

/-- Units that no code of the format stands for. -/
def NFmt.overflows (f : NFmt) (neg : Bool) (k : ℕ) (q : ℤ) : Bool := (!f.s && neg && k != 0) || magLt f.maxUnits f.qtop k q

/-- The code that counts the units, its sign in place. -/
def NFmt.place (f : NFmt) (neg : Bool) (k : ℕ) (q : ℤ) : ℕ :=
  (if f.s && neg then 2 ^ (f.width - 1) else 0) + if k = 0 then 0 else (q - f.qmin).toNat * 2 ^ f.m + k

/-- Lines 5 to 14 of R168 on the rounded units: saturation, the code, the flags. -/
def NFmt.finish (f : NFmt) (sat neg flush inexact : Bool) (k : ℕ) (q : ℤ) : ℕ × Bool × W64 :=
  if f.overflows neg k q then
    if sat then
      let y := if !f.s && neg then 0 else f.maxUnits
      (f.place neg y f.qtop, false, flagIf flush (flUF ||| flNX) ||| flNSAT ||| flNX ||| flagIf (y = 0 || f.belowNormal y f.qtop) flUF)
    else (0, true, flagIf flush (flUF ||| flNX))
  else
    (f.place neg k q, false,
      flagIf flush (flUF ||| flNX) ||| flagIf inexact flNX ||| flagIf (inexact && (k = 0 || f.belowNormal k q)) flUF)

/-- Line 3 of R168: the rounded units that NFSUB flushes. -/
def NFmt.flushes (f : NFmt) (nfsub : Bool) (k : ℕ) (q : ℤ) : Bool := nfsub && 1 ≤ f.e && k != 0 && f.belowNormal k q

theorem NFmt.encode_eq (f : NFmt) (nfsub : Bool) (rm : Rm) (sat neg : Bool) (m : ℕ) (e : ℤ) :
    f.encode nfsub rm sat neg m e =
      let r := roundAt rm neg m e false (f.unitOf m e)
      let flush := f.flushes nfsub r.1 (f.unitOf m e)
      f.finish sat neg flush (flush || r.2) (if flush then 0 else r.1) (f.unitOf m e) := by
  extract_lets r flush
  unfold NFmt.encode NFmt.finish
  extract_lets top q r0 below fl r1 inex ovf isZero k qk body differs small y
  change _ = if ovf = true then _ else _
  have hsat (x : W64) : x ||| flagIf false flNSAT = x := BitVec.or_zero
  clear_value ovf
  cases ovf with
  | false =>
    simp only [differs, Bool.or_false, hsat]
    rfl
  | true =>
    simp only [differs, Bool.or_true, Bool.true_and]
    cases sat <;> rfl

section
variable {f : NFmt} {sat neg : Bool} {k : ℕ} {q : ℤ}

/-! ### Overflow, smallness and the code, by the magnitude -/

theorem NFmt.overflows_iff : f.overflows neg k q = true ↔
    (f.s = false ∧ signed neg (k * twoTo q) < 0) ∨ maxfin f < |signed neg (k * twoTo q)| := by
  rw [abs_signed_mag, signed_mag_lt_zero, maxfin_eq, ← magLt_iff, NFmt.overflows]
  simp [and_assoc]

theorem NFmt.belowNormal_iff : f.belowNormal k q = true ↔ 1 ≤ f.e ∧ |signed neg (k * twoTo q)| < minnorm f := by
  rw [abs_signed_mag, minnorm, NFmt.belowNormal, Bool.and_eq_true, magLt_iff, Nat.cast_one, one_mul, decide_eq_true_iff]

theorem NFmt.small_iff : (decide (k = 0) || f.belowNormal k q) = true ↔
    signed neg (k * twoTo q) = 0 ∨ 1 ≤ f.e ∧ |signed neg (k * twoTo q)| < minnorm f := by
  rw [signed_mag_eq_zero, ← NFmt.belowNormal_iff (neg := neg), Bool.or_eq_true, decide_eq_true_iff]

/-- The code that counts units no larger than the largest magnitude stands for them. -/
theorem NFmt.narrowOf_place (hmag : k ≠ 0 → codeMag f.m f.qmin ((q - f.qmin).toNat * 2 ^ f.m + k) = k * twoTo q)
    (hmax : k * twoTo q ≤ maxfin f) (hsign : f.s = false → neg = true → k = 0) :
    f.place neg k q < 2 ^ f.width ∧ narrowOf f false (f.place neg k q) = .fin (f.s && neg) (signed neg (k * twoTo q)) := by
  have hbody : codeMag f.m f.qmin (if k = 0 then 0 else (q - f.qmin).toNat * 2 ^ f.m + k) = k * twoTo q := by
    split_ifs with hk
    · rw [codeMag_zero, hk, Nat.cast_zero, zero_mul]
    · exact hmag hk
  have h := narrowOf_sign_add neg (codeMag_le_maxfin_iff.mp (hbody.trans_le hmax))
  rwa [hbody, signed_and fun hs hn => by rw [hsign hs hn, Nat.cast_zero, zero_mul]] at h

/-- What saturation gives: the largest magnitude, or +0 for a negative number where the format has no sign. -/
theorem NFmt.narrowOf_saturated (f : NFmt) (neg : Bool) :
    ((if !f.s && neg then 0 else f.maxUnits : ℕ) : ℚ) * twoTo f.qtop ≤ maxfin f ∧
    signed neg ((if !f.s && neg then 0 else f.maxUnits : ℕ) * twoTo f.qtop) =
      if f.s = false ∧ neg = true then 0 else signed neg (maxfin f) := by
  have hmax := maxfin_eq f
  by_cases h : f.s = false ∧ neg = true
  · rw [if_pos h, if_pos (by simp [h]), Nat.cast_zero, zero_mul, signed_zero, hmax]
    exact ⟨mul_nonneg (Nat.cast_nonneg _) (twoTo_pos _).le, rfl⟩
  · rw [if_neg h, if_neg (by simpa using h), hmax]
    exact ⟨le_rfl, rfl⟩

theorem NFmt.place_saturated (f : NFmt) (neg : Bool) :
    f.place neg (if !f.s && neg then 0 else f.maxUnits) f.qtop < 2 ^ f.width ∧
    narrowOf f false (f.place neg (if !f.s && neg then 0 else f.maxUnits) f.qtop) =
      .fin (f.s && neg) (if f.s = false ∧ neg = true then 0 else signed neg (maxfin f)) := by
  obtain ⟨hle, hval⟩ := f.narrowOf_saturated neg
  rw [← hval]
  refine NFmt.narrowOf_place (fun hk => ?_) hle fun hs hn => by rw [if_pos (by simp [hs, hn])]
  split_ifs at hk ⊢
  · exact absurd rfl hk
  · rw [NFmt.maxUnits_code, codeMag_max, maxfin_eq]

/-! ### What `NEncode` gives -/

/-- Lines 5 to 14 of R168, on units that some code counts where they do not overflow. -/
theorem NFmt.finish_encoded {flush inexact : Bool} {exact beyond : Prop}
    (hmag : k ≠ 0 → f.overflows neg k q = false → codeMag f.m f.qmin ((q - f.qmin).toNat * 2 ^ f.m + k) = k * twoTo q)
    (hflush : flush = true → k = 0 ∧ inexact = true) (hexact : exact ↔ inexact = false)
    (hbeyond : beyond ↔ f.overflows neg k q = true) :
    Encoded f sat neg (signed neg (k * twoTo q)) exact beyond (f.finish sat neg flush inexact k q) := by
  have hnone (hover : f.overflows neg k q = true) : flush = false := by
    cases flush with
    | false => rfl
    | true => simp [NFmt.overflows, magLt, (hflush rfl).1] at hover
  refine ⟨fun ⟨hb, hs⟩ => ?_, fun ⟨hb, hs⟩ => ?_, fun hb => ?_⟩
  · have hover := hbeyond.mp hb
    rw [NFmt.finish, if_pos hover, hs, hnone hover]
    rfl
  · have hover := hbeyond.mp hb
    obtain ⟨hlt, hval⟩ := f.place_saturated neg
    rw [NFmt.finish, if_pos hover, if_pos hs, hnone hover, ← (f.narrowOf_saturated neg).2]
    rw [← (f.narrowOf_saturated neg).2] at hval
    refine ⟨hlt, hval, rfl, fun h => ?_, fun h => ?_⟩
    · simp only [NFmt.small_iff.mpr h]
      rfl
    · simp only [Bool.eq_false_iff.mpr (NFmt.small_iff.not.mpr h)]
      rfl
  · have hfits : f.overflows neg k q = false := Bool.eq_false_iff.mpr (hbeyond.not.mp hb)
    have hbounds := NFmt.overflows_iff.not.mp (Bool.eq_false_iff.mp hfits)
    rw [not_or, not_and, abs_signed_mag, signed_mag_lt_zero, not_lt, not_and, not_not] at hbounds
    obtain ⟨hlt, hval⟩ := NFmt.narrowOf_place (fun hk => hmag hk hfits) hbounds.2 hbounds.1
    rw [NFmt.finish, if_neg (Bool.eq_false_iff.mp hfits), hexact]
    refine ⟨hlt, hval, rfl, fun h => ?_, fun h hsmall => ?_, fun h hsmall => ?_⟩
    · have hkeep : flush = false := Bool.eq_false_iff.mpr fun hf => Bool.false_ne_true (h.symm.trans (hflush hf).2)
      simp [h, hkeep, flagIf]
    · simp only [Bool.eq_true_of_not_eq_false h, NFmt.small_iff.mpr hsmall]
      cases flush <;> decide
    · have hlarge := NFmt.small_iff.not.mpr hsmall
      have hkeep : flush = false := Bool.eq_false_iff.mpr fun hf => hlarge (by simp [(hflush hf).1])
      simp only [Bool.eq_true_of_not_eq_false h, hkeep, Bool.eq_false_iff.mpr hlarge]
      rfl

/-- The rounded units, zero where NFSUB flushes them. -/
def NFmt.unitsOf (f : NFmt) (nfsub : Bool) (rm : Rm) (neg : Bool) (m : ℕ) (e : ℤ) : ℕ :=
  if f.flushes nfsub (roundAt rm neg m e false (f.unitOf m e)).1 (f.unitOf m e) then 0 else (roundAt rm neg m e false (f.unitOf m e)).1

section
variable {nfsub : Bool} {rm : Rm} {m : ℕ} {e : ℤ}

theorem NFmt.unitsOf_zero : f.unitsOf nfsub rm neg 0 e = 0 := by
  rw [NFmt.unitsOf, roundAt_zero, ite_self]

/-- NFSUB flushes a magnitude that is none of the format's. -/
theorem NFmt.unitsOf_exact : signed neg (f.unitsOf nfsub rm neg m e * twoTo (f.unitOf m e)) = signed neg (m * twoTo e) ↔
    (f.flushes nfsub (roundAt rm neg m e false (f.unitOf m e)).1 (f.unitOf m e) ||
      (roundAt rm neg m e false (f.unitOf m e)).2) = false := by
  rw [signed_inj, NFmt.unitsOf]
  split_ifs with hf
  · have hm : m ≠ 0 := fun h => by simp [h, roundAt_zero, NFmt.flushes] at hf
    rw [hf, Bool.true_or, Nat.cast_zero, zero_mul]
    exact iff_of_false (mag_pos hm e).ne Bool.false_ne_true.symm
  · rw [Bool.eq_false_iff.mpr hf, Bool.false_or, Bool.eq_false_iff, Ne, roundAt_inexact, not_not]

/-- The units below an overflow are those of a code. -/
theorem NFmt.codeMag_unitsOf (hk : f.unitsOf nfsub rm neg m e ≠ 0)
    (hfits : f.overflows neg (f.unitsOf nfsub rm neg m e) (f.unitOf m e) = false) :
    codeMag f.m f.qmin ((f.unitOf m e - f.qmin).toNat * 2 ^ f.m + f.unitsOf nfsub rm neg m e) =
      f.unitsOf nfsub rm neg m e * twoTo (f.unitOf m e) := by
  have hm : m ≠ 0 := fun h => hk (by rw [h, NFmt.unitsOf_zero])
  have hunits : f.unitsOf nfsub rm neg m e = (roundAt rm neg m e false (f.unitOf m e)).1 := by
    rw [NFmt.unitsOf] at hk ⊢
    split_ifs at hk ⊢
    · exact absurd rfl hk
    · rfl
  have hrange := f.qmin_le_qtop
  have hq : f.unitOf m e = min (max (e + bitLen m - 1 - f.m) f.qmin) f.qtop := rfl
  refine codeMag_units (by omega) ?_ ?_
  · rw [or_iff_not_imp_left, hunits]
    exact fun hne => two_pow_le_roundAt hm (by omega)
  · by_cases hbinade : e + bitLen m - 1 - f.m ≤ f.unitOf m e
    · rw [hunits]
      exact roundAt_le_two_pow hm hbinade
    · have htop : f.unitOf m e = f.qtop := by omega
      have hle := NFmt.overflows_iff.not.mp (Bool.eq_false_iff.mp hfits)
      rw [not_or, not_lt, abs_signed_mag, maxfin_eq, htop, mul_le_mul_iff_left₀ (twoTo_pos _), Nat.cast_le] at hle
      exact hle.2.trans f.maxUnits_lt.le

end

theorem NFmt.encode_encoded (f : NFmt) (nfsub : Bool) (rm : Rm) (sat neg : Bool) (m : ℕ) (e : ℤ) {r : ℚ}
    (hr : r = signed neg (f.unitsOf nfsub rm neg m e * twoTo (f.unitOf m e))) :
    Encoded f sat neg r (r = signed neg (m * twoTo e)) ((f.s = false ∧ r < 0) ∨ maxfin f < |r|)
      (f.encode nfsub rm sat neg m e) := by
  rw [NFmt.encode_eq, hr]
  refine NFmt.finish_encoded (k := f.unitsOf nfsub rm neg m e) NFmt.codeMag_unitsOf (fun h => ?_) NFmt.unitsOf_exact
    NFmt.overflows_iff.symm
  exact ⟨if_pos h, by rw [h, Bool.true_or]⟩

/-- Beyond every value, what the number was rounded to and whether that lost anything are not looked at. -/
theorem encoded_of_beyond {r r' : ℚ} {exact exact' beyond beyond' : Prop} {x : ℕ × Bool × W64}
    (h : Encoded f sat neg r exact beyond x) (hb : beyond) (hb' : beyond') : Encoded f sat neg r' exact' beyond' x :=
  ⟨fun h' => h.1 ⟨hb, h'.2⟩, fun h' => h.2.1 ⟨hb, h'.2⟩, fun hn => absurd hb' hn⟩

theorem minnorm_eq (f : NFmt) : minnorm f = 2 ^ f.m * twoTo f.qmin := by
  rw [minnorm, ← twoTo_natCast, ← twoTo_add, NFmt.qmin_eq]
  congr 1
  ring

/-- The value to which a number is rounded, zero below the smallest normal where NFSUB flushes. -/
theorem NFmt.flushed_value {nfsub : Bool} {rm : Rm} {m : ℕ} {e : ℤ} :
    (if nfsub = true ∧ 1 ≤ f.e ∧
        |((signedInt neg (roundAt rm neg m e false (f.unitOf m e)).1 : ℤ) : ℚ) * twoTo (f.unitOf m e)| < minnorm f then 0
      else ((signedInt neg (roundAt rm neg m e false (f.unitOf m e)).1 : ℤ) : ℚ) * twoTo (f.unitOf m e)) =
    signed neg (f.unitsOf nfsub rm neg m e * twoTo (f.unitOf m e)) := by
  rw [NFmt.unitsOf, signedInt_cast, signed_mul]
  generalize (roundAt rm neg m e false (f.unitOf m e)).1 = k
  generalize f.unitOf m e = q
  by_cases hk : k = 0
  · simp [hk, signed_zero]
  · have hflush : f.flushes nfsub k q = true ↔ nfsub = true ∧ 1 ≤ f.e ∧ |signed neg (k * twoTo q)| < minnorm f := by
      rw [← NFmt.belowNormal_iff]
      simp [NFmt.flushes, NFmt.belowNormal, hk, and_assoc]
    simp only [hflush]
    split_ifs
    · rw [Nat.cast_zero, zero_mul, signed_zero]
    · rfl

/-- No format of an nf word reaches 2^4096, which stands for an infinity. -/
theorem NFmt.beyond_of_large (hm : f.m < 16) (he : f.e < 8) (hbias : -128 ≤ f.bias) (nfsub : Bool) (rm : Rm) (neg : Bool) :
    maxfin f < |signed neg (f.unitsOf nfsub rm neg 1 4096 * twoTo (f.unitOf 1 4096))| := by
  have hexp : 2 ^ f.e ≤ 2 ^ 7 := Nat.pow_le_pow_right two_pos (by omega)
  have hlow := f.qmin_le_qtop
  have hqtop : f.qtop ≤ 1000 := by
    rw [NFmt.qtop]
    rw [NFmt.qmin_eq] at hlow ⊢
    omega
  have htop : f.unitOf 1 4096 = f.qtop := by
    rw [NFmt.unitOf, show bitLen 1 = 1 from rfl]
    omega
  have hunits : 2 ^ (f.m + 1) ≤ (roundAt rm neg 1 4096 false f.qtop).1 :=
    two_pow_le_roundAt one_ne_zero (by rw [show bitLen 1 = 1 from rfl]; omega)
  have hnormal : f.belowNormal (roundAt rm neg 1 4096 false f.qtop).1 f.qtop = false := by
    rw [Bool.eq_false_iff, Ne, NFmt.belowNormal_iff (neg := neg), abs_signed_mag, minnorm_eq, not_and, not_lt]
    refine fun _ => mul_le_mul ?_ (twoTo_le_iff.mpr hlow) (twoTo_pos _).le (Nat.cast_nonneg _)
    exact_mod_cast (Nat.pow_le_pow_right two_pos (Nat.le_succ f.m)).trans hunits
  have hkeep : f.unitsOf nfsub rm neg 1 4096 = (roundAt rm neg 1 4096 false f.qtop).1 := by
    rw [NFmt.unitsOf, htop, NFmt.flushes, hnormal, Bool.and_false]
    rfl
  rw [abs_signed_mag, maxfin_eq, htop, hkeep, mul_lt_mul_iff_left₀ (twoTo_pos _), Nat.cast_lt]
  exact f.maxUnits_lt.trans_le hunits

theorem encodeVal_encodes (hm : f.m < 16) (he : f.e < 8) (hbias : -128 ≤ f.bias) (mode : W64) (rm : Rm) (sat : Bool) (v : FVal)
    (scale : ℤ) :
    Encodes f (mode.getLsbD 9) rm sat scale (numV v) (encodeVal f mode rm sat v scale) := by
  cases v with
  | nan => rfl
  | inf neg =>
    exact encoded_of_beyond (NFmt.encode_encoded f (mode.getLsbD 9) rm sat neg 1 4096 rfl)
      (.inr (NFmt.beyond_of_large hm he hbias _ rm neg)) trivial
  | fin neg m e =>
    have hy : signed neg (m * twoTo e) * twoTo scale = signed neg (m * twoTo (e + scale)) := by
      rw [signed_mul, mul_assoc, ← twoTo_add]
    have henc := NFmt.encode_encoded f (mode.getLsbD 9) rm sat neg m (e + scale) rfl
    simp only [Encodes, numV, hy, signed_mag_eq_zero]
    by_cases hz : m = 0
    · subst hz
      have hmax : 0 ≤ maxfin f := (codeMag_nonneg _).trans_eq (codeMag_max f)
      rw [if_pos rfl]
      have hzero : Encoded f sat neg 0 True False (f.encode (mode.getLsbD 9) rm sat neg 0 (e + scale)) := by
        simpa [NFmt.unitsOf_zero, signed_zero, not_lt.mpr hmax] using henc
      exact hzero
    · rw [if_neg hz, abs_signed_mag, ← NFmt.qtop_eq]
      obtain ⟨hlo, hhi⟩ := twoTo_top_le hz (e + scale)
      refine ⟨e + scale + bitLen m - 1 - f.m, signedInt neg (roundAt rm neg m (e + scale) false (f.unitOf m (e + scale))).1, ?_, ?_,
        roundAt_nearest rm neg m (e + scale) _, ?_⟩
      · rwa [sub_add_cancel]
      · rwa [sub_add_cancel, sub_add_cancel]
      · rw [← NFmt.flushed_value] at henc
        exact henc

end

end Sys2Proof.Machine
end

section
/-! CVT: the lanes of its rows, and `retag` (07 R169, R170, R176). -/
namespace Sys2Proof.Machine
open Sys2Proof.Stated

/-! ### Elements and slots of a register (R154, R170) -/

theorem h16_eq (a : W32) (k : ℕ) : h16 a k = (a.extractLsb' (16 * k) 16).toInt := by
  rw [h16]
  congr 1
  apply BitVec.eq_of_toNat_eq
  rw [BitVec.extractLsb'_toNat, Nat.shiftRight_eq_div_pow, BitVec.toNat_ofNat]

theorem elemVal_eq (c : Ctx) (a : W32) (k : ℕ) : Stated.elemVal c a k = valOf c.mode (c.tagA 0) a k := by
  simp only [Stated.elemVal, valOf, h16_eq, ← Nat.shiftRight_eq_div_pow, ← BitVec.extractLsb'_toNat]
  rfl

theorem slotOf_eq (n : ℕ) (x : W32) (k : ℕ) : slotOf n x k = x.toNat / 2 ^ (n * k) % 2 ^ n := by
  rw [slotOf, Nat.shiftRight_eq_div_pow]

/-- `Narrow` (R170) as bits. -/
theorem narrow_eq (c : Ctx) (x : W32) (n : ℕ) :
    narrow c.rm (c.tagA 0) x n = (BitVec.ofInt n (narrowed c x n).1, (narrowed c x n).2) := by
  rw [narrow, narrowed]
  by_cases h : c.tagA 0 = 2
  · rw [if_pos h, if_pos (show c.tagA 0 = tF32 from h)]
  · rw [if_neg h, if_neg (show ¬ c.tagA 0 = tF32 from h), satFlag]
    by_cases hs : satS x.toInt n = x.toInt <;> simp [flagIf, hs]

/-! ### The rows of CVT -/

/-- Each row of CVT but `retag` is a vector operation: its tags, the tag of its result and its lanes. -/
theorem exec_cvtMinors {r : Mk × Nat × (Ctx → List TagCheck) × (Ctx → BitVec 4) × (Ctx → Nat → W32 × W64)}
    (hr : r ∈ cvtMinors) (o : Ops) (s : State) : exec (r.1 o) s = issue 0x09 r.2.1 o (vecOp r.2.2.1 r.2.2.2.1 r.2.2.2.2) s := by
  simp only [cvtMinors, List.mem_cons, List.not_mem_nil, or_false] at hr
  rcases hr with rfl | rfl | rfl | rfl | rfl | rfl | rfl | rfl | rfl | rfl
  · simp only [elemVal_eq]
    rfl
  · simp only [elemVal_eq]
    rfl
  · rfl
  · rfl
  · rfl
  · rfl
  · show issue 0x09 5 o cvtI16x2 s = _
    simp only [cvtI16x2, narrow_eq]
    rfl
  · show issue 0x09 6 o cvtI8x4 s = _
    simp only [cvtI8x4, narrow_eq]
    rfl
  · rfl
  · show issue 0x09 8 o cvtFromnf s = _
    simp only [cvtFromnf, decodeTo, add_zero]
    rfl

/-! ### `retag` -/

theorem cvtRetag_ok {c : Ctx} {t : State} (h : c.fb ≤ 15 ∧ c.fb ≠ 7) :
    cvtRetag c t = .ok (c.putV t 0 c.opA (BitVec.ofNat 4 c.fb)) := by
  refine guarded_pass fun _ => ?_
  have hok : (c.fb == 7 || 16 ≤ c.fb) = false := by
    simp only [Bool.or_eq_false_iff, beq_eq_false_iff_ne, decide_eq_false_iff_not]
    omega
  rw [hok]
  rfl

theorem cvtRetag_refuses {c : Ctx} {t : State} (h : c.fb = 7 ∨ 15 < c.fb) (ha : c.anyLane = true) :
    cvtRetag c t = .trap .illop 0x0D := by
  refine guarded_fail (p := illop 0x0D) ha ?_
  have hbad : (c.fb == 7 || 16 ≤ c.fb) = true := by
    simp only [Bool.or_eq_true, beq_iff_eq, decide_eq_true_eq]
    omega
  rw [hbad]
  rfl

/-- Settles O6: each row is `vecOp`, `retag` stands behind its check, and what the lanes use rounds once: a magnitude to whole units
(`roundAt_nearest`), which the code counts (`codeMag_units`). -/
theorem conversionResults : Obligations.ConversionResults := by
  refine ⟨fun r hr o s g cl t h => ?_, fun o s g cl t h => ?_, fun f hf mode rm => ?_, fun v n sgn rm _ => fToInt_toInt v n sgn rm,
    fun w => ?_⟩
  · intro c ht
    exact (exec_cvtMinors hr o s).trans (issue_ok h (vecOp_pass ht))
  · intro c
    exact ⟨fun hok => issue_ok (body := cvtRetag) h (cvtRetag_ok hok),
      fun hbad ha => issue_trap (body := cvtRetag) h (by decide) (cvtRetag_refuses hbad ha)⟩
  · have heb : 2 ≤ f.eb := by
      simp only [List.mem_cons, List.not_mem_nil, or_false] at hf
      rcases hf with rfl | rfl | rfl <;> decide
    have heb' : 1 ≤ f.eb := by omega
    exact ⟨put_rounds heb mode rm, fun a => ⟨numV_decode heb' a, numV_inF heb' mode a⟩⟩
  · intro f
    obtain ⟨hm, he, hbias⟩ := ofWord_bounds w
    exact ⟨ofWord_eq_nfWord w, fun _ _ mode rm => ⟨fun code => numV_narrowDecode f _ code,
      fun sat v scale => encodeVal_encodes hm he hbias mode rm sat v scale⟩⟩

end Sys2Proof.Machine
end

section
/-! NQ: magnitudes and scales of blocks, packed and unpacked codes, blocks quantised and restored (07 R171 to R176). -/
namespace Sys2Proof.Machine
open Sys2Proof.Stated

/-! ### Width and bytes of a scalar -/

section
variable {c : Ctx}

theorem needW32_pass {r : Res} (h : 32 ≤ c.w) : needW32 c r = r := by
  refine guarded_pass fun _ => ?_
  rw [show decide (c.w < 32) = false from decide_eq_false (not_lt.mpr h)]
  rfl

theorem needW32_refuses {r : Res} (h : c.w < 32) (ha : c.anyLane = true) : needW32 c r = .trap .illop 0x0D := by
  refine guarded_fail (p := illop 0x0D) ha ?_
  rw [show decide (c.w < 32) = true from decide_eq_true h]
  rfl

theorem scaleByte_eq (x : W64) (b : ℕ) : scaleByte x b = x.toNat / 2 ^ (8 * b) % 2 ^ 8 := by
  rw [scaleByte, fld_eq_fieldOf, fieldOf, show 8 * b + 7 + 1 - 8 * b = 8 by omega]

/-- Half of a scalar. -/
theorem fld_half (x : W64) (b : ℕ) : fld x (32 * b + 31) (32 * b) = x.toNat / 2 ^ (32 * b) % 2 ^ 32 := by
  rw [fld_eq_fieldOf, fieldOf, show 32 * b + 31 + 1 - 32 * b = 32 by omega]

/-- The bits of a scalar with one of its bytes replaced. -/
theorem setByte_getLsbD (x : W64) {b v k : ℕ} (hv : v < 2 ^ 8) (hk : k < 64) :
    (setByte x b v).getLsbD k = if k / 8 = b then v.testBit (k % 8) else x.getLsbD k := by
  have hff (n : ℕ) : (0xFF#64).getLsbD n = decide (n < 8) := by
    rw [BitVec.getLsbD_ofNat, show 0xFF = 2 ^ 8 - 1 from rfl, Nat.testBit_two_pow_sub_one]
    by_cases h : n < 8 <;> simp [h]
    omega
  have hhigh {n : ℕ} (h : 8 ≤ n) : v.testBit n = false := Nat.testBit_lt_two_pow (hv.trans_le (Nat.pow_le_pow_right two_pos h))
  simp only [setByte, w64, BitVec.getLsbD_or, BitVec.getLsbD_and, BitVec.getLsbD_not, BitVec.getLsbD_shiftLeft,
    BitVec.getLsbD_ofNat, hff]
  split_ifs with h
  · have hlow : ¬ k < 8 * b := by omega
    have hbit : k % 8 < 8 := Nat.mod_lt k (by decide)
    simp [hk, hlow, show k - 8 * b = k % 8 by omega, hbit, hbit.trans (show 8 < 64 by decide)]
  · by_cases hlow : k < 8 * b
    · simp [hlow, hk]
    · have hout : ¬ k - 8 * b < 8 := by omega
      simp [hlow, hk, hout, hhigh (not_lt.mp hout)]

/-- The bits of a scalar in which some bytes of the first `n` are replaced. -/
theorem foldl_setByte_getLsbD (x : W64) (p : ℕ → Bool) {v : ℕ → ℕ} (hv : ∀ b, v b < 2 ^ 8) {k : ℕ} (hk : k < 64)
    (n : ℕ) :
    ((List.range n).foldl (fun x b => if p b then x else setByte x b (v b)) x).getLsbD k =
      if k / 8 < n ∧ p (k / 8) = false then (v (k / 8)).testBit (k % 8) else x.getLsbD k := by
  induction n with
  | zero => rw [if_neg fun h => Nat.not_lt_zero _ h.1]; rfl
  | succ n ih =>
    rw [List.range_succ, List.foldl_append, List.foldl_cons, List.foldl_nil]
    by_cases hn : k / 8 = n
    · subst hn
      rw [if_neg fun h => lt_irrefl _ h.1] at ih
      cases hp : p (k / 8) with
      | true => simpa [hp] using ih
      | false => simp [setByte_getLsbD _ (hv _) hk]
    · have hlt : k / 8 < n + 1 ↔ k / 8 < n := by omega
      simp only [hlt]
      rw [← ih]
      split_ifs
      · rfl
      · rw [setByte_getLsbD _ (hv n) hk, if_neg hn]

/-- The scale of a block, or that of a block gone bad (R173). -/
theorem quantBlock_scale_lt (f : NFmt) (mode : W64) (rm : Rm) {scale : ℕ} (h : scale < 2 ^ 8) (lanes : List (ℕ × FVal)) :
    (quantBlock f mode rm scale lanes).2.1 < 2 ^ 8 := by
  unfold quantBlock
  extract_lets step r
  split_ifs
  · exact (by decide : 0xFF < 2 ^ 8)
  · exact h

end

/-! ### Magnitudes and scales (R172) -/

/-- What `bamax` gives for a block: its largest magnitude, nothing where the group has no such block. -/
def blockMax (c : Ctx) (b : ℕ) : ℕ :=
  if c.w / 32 ≤ b then 0 else amaxCode ((blockLanes c b).map fun i => fmtF32.inF c.mode (c.opA i).toNat)

section
variable {c : Ctx} {t : State}

theorem nqBamax_ok (ht : c.tagsPass (c.needA [2])) (hw : 32 ≤ c.w) :
    nqBamax c t = .ok (c.onceDo t (c.putS t (w64 (blockMax c 0 + blockMax c 1 * 2 ^ 32)))) :=
  (tagged_pass ht).trans ((needW32_pass hw).trans (once_ok c t _))

theorem nqBamax_refuses (ht : c.tagsPass (c.needA [2])) (hw : c.w < 32) (ha : c.anyLane = true) :
    nqBamax c t = .trap .illop 0x0D := (tagged_pass ht).trans (needW32_refuses hw ha)

theorem nqScaleof_eq : nqScaleof c t = .ok (c.onceDo t (c.putS t (w64
    (scaleCode (c.g.nfmt c.fb) (fmtF32.decode (c.sA.toNat / 2 ^ (32 * 0) % 2 ^ 32)) +
     scaleCode (c.g.nfmt c.fb) (fmtF32.decode (c.sA.toNat / 2 ^ (32 * 1) % 2 ^ 32)) * 2 ^ 8)))) := by
  simp only [nqScaleof, fld_half]
  exact once_ok c t _

end

/-- Settles O7: `bamax` behind its two checks, `scaleof` without any, `pack4` and `unpack4` behind their tags. -/
theorem blockScaleResults : Obligations.BlockScaleResults := by
  refine ⟨fun o s g cl t h => ?_, fun o s g cl t h => ?_, fun o s g cl t h => ?_, fun o s g cl t h => ?_⟩
  · intro c ht
    refine ⟨fun hw => ⟨blockMax c, fun b => ?_, issue_ok (body := nqBamax) h (nqBamax_ok ht hw)⟩,
      fun hw ha => issue_trap (body := nqBamax) h (by decide) (nqBamax_refuses ht hw ha)⟩
    simp only [blockMax, ← not_lt, ite_not]
  · exact issue_ok (body := nqScaleof) h nqScaleof_eq
  · intro c n ht
    exact issue_ok (body := nqPack4) h (tagged_pass ht)
  · intro c n ht
    refine issue_ok (body := nqUnpack4) h ((tagged_pass ht).trans ?_)
    simp only [slotOf_eq]
    rfl

/-! ### Blocks quantised and restored (R173, R174) -/

/-- The executing lanes of a block with their values. -/
def quantLanes (c : Ctx) (b : ℕ) : List (ℕ × FVal) := (blockLanes c b).map fun i => (i, fmtF32.inF c.mode (c.opA i).toNat)

/-- A block of `qnt`: its codes, its scale after, its flags. -/
def quantised (c : Ctx) (b : ℕ) : List (ℕ × ℕ) × ℕ × W64 :=
  quantBlock (c.g.nfmt c.fc) c.mode c.rm (c.sB.toNat / 2 ^ (8 * b) % 2 ^ 8) (quantLanes c b)

/-- The scales that `qnt` leaves. -/
def quantScales (c : Ctx) : W64 :=
  (List.range 2).foldl (fun x b => if (quantLanes c b).isEmpty then x else setByte x b (quantised c b).2.1) c.sB

theorem quantScales_getLsbD (c : Ctx) {k : ℕ} (hk : k < 64) : (quantScales c).getLsbD k =
    if k / 8 < 2 ∧ blockLanes c (k / 8) ≠ [] then (quantised c (k / 8)).2.1.testBit (k % 8) else c.sB.getLsbD k := by
  have hlt (b : ℕ) : (quantised c b).2.1 < 2 ^ 8 := quantBlock_scale_lt _ _ _ (Nat.mod_lt _ (by decide)) _
  rw [quantScales, foldl_setByte_getLsbD _ _ hlt hk]
  simp [quantLanes]

section
variable {c : Ctx} {t : State}

theorem nqQnt_ok (ht : c.tagsPass (c.needA [2])) (hw : 32 ≤ c.w) : nqQnt c t =
    let u := c.putV t 0 (fun i => w32 (aget (quantised c (i / 32)).1 i 0)) (BitVec.ofNat 4 (8 + c.fc))
    .ok (c.upd (c.onceDo u (c.upd u fun h => h.setSval (c.g.sref c.fb) (quantScales c))) fun h =>
      h.orFlags ((quantised c 0).2.2 ||| (quantised c 1).2.2)) := by
  rw [nqQnt, tagged_pass (l := c.needA [tF32]) ht, needW32_pass hw]
  simp only [scaleByte_eq]
  rfl

theorem nqDqnt_ok (ht : c.tagsPass (c.needA nfTags)) (hw : 32 ≤ c.w) : nqDqnt c t = .ok (c.putVF t (fun i =>
    if c.sB.toNat / 2 ^ (8 * (i / 32)) % 2 ^ 8 = 255 then (0x7FC00000#32, 0)
    else toF32 c (.fin (c.nfA.decode (modeNfsub c.mode) ((c.opA i).toNat % 2 ^ c.nfA.slot)).1
      (c.nfA.decode (modeNfsub c.mode) ((c.opA i).toNat % 2 ^ c.nfA.slot)).2.1
      ((c.nfA.decode (modeNfsub c.mode) ((c.opA i).toNat % 2 ^ c.nfA.slot)).2.2
        + (((c.sB.toNat / 2 ^ (8 * (i / 32)) % 2 ^ 8 : ℕ) : ℤ) - 127)))) tF32) := by
  rw [nqDqnt, tagged_pass ht, needW32_pass hw]
  simp only [scaleByte_eq]
  rfl

end

/-- Settles O8: both behind their tags and the width; the scales that `qnt` writes back by the bytes that it replaces. -/
theorem blockQuantisationResults : Obligations.BlockQuantisationResults := by
  refine ⟨fun o s g cl t h => ?_, fun o s g cl t h => ?_⟩
  · intro c x q ht hw
    exact ⟨quantScales c, fun k hk => quantScales_getLsbD c hk, issue_ok (body := nqQnt) h (nqQnt_ok ht hw)⟩
  · intro c ht hw
    exact issue_ok (body := nqDqnt) h (nqDqnt_ok ht hw)

end Sys2Proof.Machine
end
